-- ==== Sys2Proof/Word.lean ====
section
/-! DEFINITION. The words of the module and the numbered things the manual counts: bytes, instruction
words, cores, folds, ports and lanes. -/

namespace Sys2Proof

/-- A byte. -/
abbrev Byte := BitVec 8
/-- A 32-bit word (status registers, handles, binary32 codes). -/
abbrev Word32 := BitVec 32
/-- A 64-bit word (tick words, register elements, hall addresses). -/
abbrev Word64 := BitVec 64
/-- An instruction word of a core (R183). -/
abbrev Word128 := BitVec 128
/-- A descriptor (Table 8.4). -/
abbrev Word256 := BitVec 256

/-- A core number: L0 to L31 or P0 to P31, as the name of the operand says. -/
abbrev CoreNo := Fin 32
/-- A local fold number 0 to 31 (R302). -/
abbrev FoldNo := Fin 32
/-- A fabric port by status-space index: CU0 to CU15 are 0 to 15, OP0 to OP7 are 16 to 23 (Table 11.1). -/
abbrev FabricPort := Fin 24
/-- A stream port ST0 to ST15 (R278). -/
abbrev StreamPort := Fin 16
/-- A plant port PL0 or PL1 (R293). -/
abbrev PlantPort := Fin 2
/-- A lane of a fabric port (R222). -/
abbrev LaneNo := Fin 8
/-- An SSD position (R316). -/
abbrev SsdNo := Fin 2
/-- A gate of a core (R174). -/
abbrev GateNo := Fin 64
/-- A ring of a core (R169). -/
abbrev RingNo := Fin 32
/-- A drover of a core (R163). -/
abbrev DroverNo := Fin 4
/-- A stream of a drover (R163). -/
abbrev DStreamNo := Fin 8
/-- A thread of the fallback style (R143). -/
abbrev ThreadNo := Fin 8

end Sys2Proof
end

