-- ==== Sys2Proof/Syntax.lean ====
section
/-! DEFINITION. The commands of the block: one constructor of `Instr` per row of
spec/opcode_table.json, with the operands that come from outside the module. Everything a command does
beyond its operands it takes from the state. -/

namespace Sys2Proof

/-- The two tick inputs TICK_IN_A and TICK_IN_B (R16), and the two bridle channels (R347). -/
inductive Chan where
  | a
  | b
  deriving DecidableEq, Repr

/-- The two Ralleryn supervisors (R364). -/
inductive Sup where
  | a
  | b
  deriving DecidableEq, Repr

/-- What issues an instruction word of a core: one of the three streams (R182) or a thread (R143). -/
inductive Issuer where
  | matrix
  | currier
  | drover
  | thread (j : ThreadNo)
  deriving DecidableEq, Repr

/-- What can be held at a full gate: an issue stream, or a drover's transfer slot (R175, R454). -/
inductive Holder where
  | stream (i : Issuer)
  | slot (d : DroverNo) (i : DStreamNo)
  deriving DecidableEq, Repr

/-- UDP checksum of a received frame (R279). -/
inductive Checksum where
  | good
  | bad
  | zero
  deriving DecidableEq, Repr

/-- An Ethernet frame as a stream or plant port receives it (R279, R293). -/
structure EthFrame where
  /-- FCS is good. -/
  fcsOk : Bool
  /-- It carries an IEEE 802.1Q tag. -/
  vlan : Bool
  /-- Destination MAC address. -/
  dstMac : BitVec 48
  /-- EtherType 0x86DD rather than 0x0800. -/
  ipv6 : Bool
  /-- It is IPv4 or IPv6 at all. -/
  isIp : Bool
  /-- IPv4 options or IPv6 extension headers are present. -/
  options : Bool
  /-- It is a fragment. -/
  fragment : Bool
  /-- Source address; IPv4 in the top 32 bits with the rest zero (Table 13.1). -/
  src : BitVec 128
  /-- It is UDP. -/
  isUdp : Bool
  /-- UDP source port. -/
  udpSrc : BitVec 16
  /-- UDP destination port. -/
  udpDst : BitVec 16
  /-- UDP checksum. -/
  checksum : Checksum
  /-- UDP payload. -/
  payload : List Byte
  deriving DecidableEq, Repr

/-- A scheduled packet: the header of Table 12.6 and its payload. -/
structure SchedPacket where
  /-- Type, Table 12.7. -/
  type : BitVec 4
  /-- Payload in 32 B units, 0 to 8. -/
  units : BitVec 4
  /-- Word marks: bit i for payload word i. -/
  marks : BitVec 8
  /-- Sending fold tag. -/
  tag : BitVec 16
  /-- Epoch of the target logical core as known to the sender. -/
  epoch : BitVec 16
  /-- Sending flow. -/
  flow : BitVec 6
  /-- Landing stamp: [31:28] tick number mod 16, [27:0] tick-relative cycle. -/
  stamp : BitVec 32
  /-- Hall address. -/
  addr : BitVec 64
  /-- Payload bytes. -/
  payload : List Byte
  deriving DecidableEq, Repr

/-- A mail message: the header of Table 12.8 and its payload. -/
structure MailMsg where
  /-- Kind, Table 12.9. -/
  kind : BitVec 8
  /-- Hops. -/
  hops : BitVec 8
  /-- Flags bit 0: every payload word is marked bad. -/
  bad : Bool
  /-- Source hall module number. -/
  srcModule : BitVec 12
  /-- Source fold tag. -/
  srcTag : BitVec 16
  /-- Target hall module number. -/
  dstModule : BitVec 12
  /-- Target fold tag. -/
  dstTag : BitVec 16
  /-- Role epoch. -/
  epoch : BitVec 16
  /-- Message number. -/
  number : BitVec 32
  /-- Reference: the message number answered. -/
  reference : BitVec 32
  /-- Hall address. -/
  addr : BitVec 64
  /-- Payload, at most 4,064 B. -/
  payload : List Byte
  deriving DecidableEq, Repr

/-- A hello (Table 11.6). -/
structure Hello where
  /-- Lowest link protocol revision the sender supports. -/
  lowRev : BitVec 8
  /-- Highest revision. -/
  highRev : BitVec 8
  /-- Sender holds the bellwether role. -/
  bellwether : Bool
  /-- Sender port is its spare copper port. -/
  spareCopper : Bool
  /-- Sender is unplaced (R237). -/
  unplaced : Bool
  /-- Hall module number: [11:4] flock, [3:0] slot. -/
  hallModule : BitVec 12
  /-- Status-space port index of the sender. -/
  port : BitVec 8
  /-- Lanes whose receivers have signal. -/
  lanes : BitVec 8
  /-- SHA-384 of the sender's brand public key. -/
  fingerprint : BitVec 384
  /-- Tick number. -/
  tick : BitVec 48
  /-- Transmit cycle. -/
  txCycle : BitVec 32
  /-- Echoed cycle. -/
  echoed : BitVec 32
  /-- Turnaround. -/
  turnaround : BitVec 32
  /-- Session nonce (R227). -/
  nonce : BitVec 256
  /-- Key confirmation. -/
  confirmation : BitVec 128
  deriving DecidableEq, Repr

/-- A pairing offer (Table 15.4). -/
structure PairingOffer where
  /-- Pairing generation 0 to 15. -/
  generation : BitVec 8
  /-- Brand public key X ‖ Y. -/
  brandKey : BitVec 768
  /-- Pairing public key X ‖ Y. -/
  pairKey : BitVec 768
  /-- Expected peer fingerprint. -/
  expected : BitVec 384
  /-- Signature r ‖ s over bytes 0 to 255. -/
  signature : BitVec 768
  /-- Bytes 0 to 255 of the offer as received, over which the signature is checked. -/
  signed : List Byte
  deriving DecidableEq, Repr

/-- A lane frame header (Table 11.3). -/
structure LaneHeader where
  /-- Revision in use. -/
  revision : BitVec 8
  /-- Physical lane. -/
  lane : LaneNo
  /-- Status-space port index of the sender. -/
  port : BitVec 5
  /-- Active mask. -/
  active : BitVec 8
  /-- Frame counter. -/
  counter : BitVec 64
  /-- Request mask. -/
  request : BitVec 8
  /-- Announced mask. -/
  announced : BitVec 8
  /-- Countdown. -/
  countdown : BitVec 8
  deriving DecidableEq, Repr

/-- One unit of a lane frame: its ciphertext and tag (Table 11.2). -/
structure LaneUnit where
  /-- Ciphertext. -/
  cipher : List Byte
  /-- GCM tag. -/
  tag : BitVec 128
  deriving DecidableEq, Repr

/-- A traffic lane frame (Table 11.2): header, slot units 0 to 15, management unit, fill. -/
structure LaneFrame where
  /-- Header. -/
  header : LaneHeader
  /-- Slot units. -/
  units : List LaneUnit
  /-- Management unit. -/
  mgmt : LaneUnit
  /-- Bytes of fill, 164 or 165. -/
  fill : Nat
  deriving DecidableEq, Repr

/-- How the RS(544,514) codewords that a lane frame lies in arrived (R224): each carries 640 B of the lane's stream. -/
structure LineRx where
  /-- Place of the frame's first byte in the first of them. -/
  phase : Nat
  /-- Symbols in error in each of them. -/
  errors : List Nat
  deriving DecidableEq, Repr

/-- A traffic lane frame as a fabric port receives it. -/
structure LaneRx where
  /-- Receive lane. -/
  lane : LaneNo
  /-- The codewords that it lies in. -/
  line : LineRx
  /-- The frame that they carry. -/
  frame : LaneFrame
  deriving DecidableEq, Repr

/-- A maintenance request (Table 15.5) with the plant port and source it came from (R356). -/
structure MaintReq where
  /-- Plant port of arrival. -/
  port : PlantPort
  /-- Source address. -/
  src : BitVec 128
  /-- Source UDP port. -/
  udp : BitVec 16
  /-- Operation, Table 15.6. -/
  op : BitVec 8
  /-- Session number. -/
  session : BitVec 32
  /-- Request number. -/
  number : BitVec 32
  /-- Target. -/
  target : BitVec 16
  /-- Argument. -/
  arg : BitVec 64
  /-- Body. -/
  body : List Byte
  deriving DecidableEq, Repr

/-- How a status write arrives: as a maintenance request (operation 0x30) or over I3C (R445). -/
inductive StatusWrite where
  | maint (r : MaintReq)
  | i3c (addr : BitVec 32) (value : BitVec 32)
  deriving DecidableEq, Repr

/-- An Ethernet port of the module: a stream port or a plant port. -/
inductive EthPort where
  | st (p : StreamPort)
  | pl (p : PlantPort)
  deriving DecidableEq, Repr

/-- How an Ethernet port resolved (R434, Table 20.14). -/
inductive EthMode where
  | kr
  | cr
  | aui
  deriving DecidableEq, Repr

/-- Causes of a core fatal fault (Table 16.6). -/
inductive FatalCause where
  | regulator
  | clock
  | endpoint
  | selfCheck
  | recurrence
  deriving DecidableEq, Repr

/-- The rails of Table 17.1. -/
inductive Rail where
  | stby (s : Sup)
  | bus12
  | pkg1v8
  | vcore (p : CoreNo)
  | vstk (d : Fin 8)
  | vnet
  | vio
  | vopt
  deriving DecidableEq, Repr

/-- The rails of Table 17.1 that are built of several units (R385). -/
inductive UnitRail where
  | bricks
  | phases1v8
  | phasesNet
  | phasesIo
  | phasesStk (d : Fin 8)
  | phasesOpt
  deriving DecidableEq, Repr

/-- The sensors of a junction trip (R401). -/
inductive TripSensor where
  | core (p : CoreNo)
  | stack (d : Fin 8)
  deriving DecidableEq, Repr

/-- The readings of one temperature sample, in units of 0.25 °C (R398). -/
structure TempReadings where
  /-- Highest of the four sensors of each core, P0 first. -/
  cores : List Int
  /-- Highest of the two sensors of each SRAM stack. -/
  sramStacks : List Int
  /-- Optical engines. -/
  optical : List Int
  /-- Converter groups. -/
  converters : List Int
  /-- Coolant inlet. -/
  inlet : Int
  /-- Coolant outlet. -/
  outlet : Int
  deriving DecidableEq, Repr

/-- What the ageing monitors of one core report at an ageing record (R403). -/
structure AgeingReading where
  /-- Ring oscillator counts over 65,536 core cycles. -/
  ring0 : BitVec 16
  ring1 : BitVec 16
  ring2 : BitVec 16
  ring3 : BitVec 16
  /-- Slack that the fused baseline predicts at this code and junction, ps. -/
  predicted : Int
  /-- Slack measured, ps. -/
  measured : Int
  deriving DecidableEq, Repr

/-- What an SSD shows when it is inserted and its link has trained (R435, R436). -/
structure SsdInfo where
  /-- Lanes trained. -/
  width : BitVec 3
  /-- PCIe generation trained. -/
  rate : BitVec 3
  /-- Brand fingerprint in its store header (Table 14.9). -/
  fingerprint : BitVec 384
  deriving DecidableEq, Repr

/-- An IEEE 1588 Announce message's data set, smaller is better in field order (R292). -/
structure AnnounceData where
  priority1 : BitVec 8
  clockClass : BitVec 8
  accuracy : BitVec 8
  variance : BitVec 16
  priority2 : BitVec 8
  identity : BitVec 64
  deriving DecidableEq, Repr

/-- The commands of the module: one per row of spec/opcode_table.json. -/
inductive Instr where
  /-- R16, R290, R429: a word on a tick input; `edge` is the core cycle in which the first transition of
  bit 63 was sampled, `codeOk` whether every cell kept the code. -/
  | tickWordReceived (ch : Chan) (word : BitVec 64) (codeOk : Bool) (edge : Nat)
  /-- R11 and the actions the manual places at the tick instant. -/
  | tickInstant
  /-- R23. -/
  | holdoverLeft
  /-- R24. -/
  | tickLockReached
  /-- R291. -/
  | tickOutSend
  /-- R26 and the reserve tasks; the operands say whether each supervisor confirmed its reserve work (R364). -/
  | reserveStart (confirmA confirmB : Bool)
  /-- R304. -/
  | shareBoundary (l : CoreNo)
  /-- R299. -/
  | heartbeatToggle
  /-- R296. -/
  | telemetrySend
  /-- R298. -/
  | replayExportFrame (f : FoldNo)
  /-- R185. -/
  | nop (l : CoreNo) (i : Issuer)
  /-- R185. -/
  | waitt (l : CoreNo) (i : Issuer)
  /-- R175, R189. -/
  | take (l : CoreNo) (i : Issuer)
  /-- R175. -/
  | takeCompletion (l : CoreNo) (i : Issuer)
  /-- R189. -/
  | post (l : CoreNo) (i : Issuer)
  /-- R175. -/
  | postHoldRelease (l : CoreNo) (h : Holder)
  /-- R187. -/
  | loop (l : CoreNo) (i : Issuer)
  /-- R171. -/
  | release (l : CoreNo) (i : Issuer)
  /-- R186. -/
  | endp (l : CoreNo) (i : Issuer)
  /-- R185. -/
  | mark (l : CoreNo) (i : Issuer)
  /-- R88. -/
  | pass (l : CoreNo)
  /-- R102. -/
  | passHalfDepth (l : CoreNo)
  /-- R76. -/
  | wpass (l : CoreNo)
  /-- R92. -/
  | passSlotUpdate (l : CoreNo)
  /-- R121. -/
  | hazardHold (l : CoreNo)
  /-- R114. -/
  | clear (l : CoreNo)
  /-- R117. -/
  | spillFirst (l : CoreNo)
  /-- R117. -/
  | spill (l : CoreNo)
  /-- R117. -/
  | spillWalkRow (l : CoreNo)
  /-- R118. -/
  | read (l : CoreNo)
  /-- R192. -/
  | readoutRowLeave (l : CoreNo)
  /-- R193. -/
  | wload (l : CoreNo)
  /-- R127. -/
  | add (l : CoreNo) (i : Issuer)
  /-- R127. -/
  | sub (l : CoreNo) (i : Issuer)
  /-- R127. -/
  | mul (l : CoreNo) (i : Issuer)
  /-- R127. -/
  | fma (l : CoreNo) (i : Issuer)
  /-- R127. -/
  | sprod (l : CoreNo) (i : Issuer)
  /-- R194. -/
  | affine (l : CoreNo) (i : Issuer)
  /-- R46. -/
  | cmp (l : CoreNo) (i : Issuer)
  /-- R47. -/
  | max (l : CoreNo) (i : Issuer)
  /-- R47. -/
  | min (l : CoreNo) (i : Issuer)
  /-- R127. -/
  | lsel (l : CoreNo) (i : Issuer)
  /-- R127. -/
  | cvt (l : CoreNo) (i : Issuer)
  /-- R133. -/
  | teval (l : CoreNo) (i : Issuer)
  /-- R136. -/
  | mprog (l : CoreNo) (i : Issuer)
  /-- R131. -/
  | rmax (l : CoreNo) (i : Issuer)
  /-- R131. -/
  | rmin (l : CoreNo) (i : Issuer)
  /-- R130. -/
  | rsum (l : CoreNo) (i : Issuer)
  /-- R130. -/
  | rsumsq (l : CoreNo) (i : Issuer)
  /-- R130. -/
  | rsumsd (l : CoreNo) (i : Issuer)
  /-- R131. -/
  | rrecip (l : CoreNo) (i : Issuer)
  /-- R131. -/
  | rmean (l : CoreNo) (i : Issuer)
  /-- R131. -/
  | rrsqrt (l : CoreNo) (i : Issuer)
  /-- R131. -/
  | qread (l : CoreNo) (i : Issuer)
  /-- R455. -/
  | strayActivation (l : CoreNo)
  /-- R455. -/
  | strayWeight (l : CoreNo)
  /-- R195. -/
  | bsel (l : CoreNo)
  /-- R196. -/
  | thrd (l : CoreNo)
  /-- R196. -/
  | fallbackSectionClose (l : CoreNo)
  /-- R143. -/
  | tld (l : CoreNo) (j : ThreadNo)
  /-- R143. -/
  | threadLoadLand (l : CoreNo)
  /-- R196. -/
  | thend (l : CoreNo) (j : ThreadNo)
  /-- R129. -/
  | currierResultLand (l : CoreNo)
  /-- R163. -/
  | start (l : CoreNo)
  /-- R197. -/
  | startArmOnly (l : CoreNo)
  /-- R172. -/
  | rearm (l : CoreNo)
  /-- R170. -/
  | stop (l : CoreNo)
  /-- R159; `upsets` are the bit errors that have come about in the core's pasture since the last grant:
  word number and mask of the flipped bits among its 256 data and 16 check bits (R149). -/
  | beatGrant (l : CoreNo) (upsets : List (Nat × Nat))
  /-- R164. -/
  | descriptorReady (l : CoreNo) (d : DroverNo)
  /-- R160. -/
  | beatLanding (l : CoreNo)
  /-- R176. -/
  | handleArrival (l : CoreNo)
  /-- R178. -/
  | droverCancel (f : FoldNo)
  /-- R155; the fleece port of P`p` scrubs its next 256 B row; bit errors that have come about, as in BEAT_GRANT: the words, and
  word by word the mask of the bits flipped. -/
  | fleeceScrub (p : CoreNo) (words masks : List Nat)
  /-- R156. -/
  | staticWordRepair (l : CoreNo)
  /-- R259; the packet's last byte reaches the receiving port. -/
  | schedPacketArrival (p : FabricPort) (k : SchedPacket)
  /-- R257, Table 12.7 type 0x1. -/
  | schedWrite
  /-- R261. -/
  | schedReadRequest
  /-- R257, type 0x3. -/
  | schedReadResponse
  /-- R257, type 0x4. -/
  | schedPost
  /-- R262. -/
  | schedNotServed
  /-- R273. -/
  | exchangeReport
  /-- R274. -/
  | exchangeDecision
  /-- R258. -/
  | landingSubstitute (l : CoreNo)
  /-- R258. -/
  | schedUnexpected
  /-- R266. -/
  | mailWrite (m : MailMsg)
  /-- R267. -/
  | mailGatherRequest (m : MailMsg)
  /-- R267. -/
  | mailGatherResponse (m : MailMsg)
  /-- R264. -/
  | mailNotServed (m : MailMsg)
  /-- R271. -/
  | mailStaleRole (m : MailMsg)
  /-- R264. -/
  | mailRefused (m : MailMsg)
  /-- R253. -/
  | mailNoRoute (m : MailMsg)
  /-- R264. -/
  | mailUnknownKind (m : MailMsg)
  /-- R264. -/
  | mailReservedKind (m : MailMsg)
  /-- R373. -/
  | faultNotice (m : MailMsg)
  /-- R268. -/
  | statusReadRequest (m : MailMsg)
  /-- R324. -/
  | statusReadResponse (m : MailMsg)
  /-- R338. -/
  | imageBlockRequest (m : MailMsg)
  /-- R338. -/
  | imageBlockResponse (m : MailMsg)
  /-- R351; `p` is the port on which the notice arrived. -/
  | presenceNotice (p : FabricPort) (m : MailMsg)
  /-- R351. -/
  | presenceCloseNotice (p : FabricPort) (m : MailMsg)
  /-- R378. -/
  | witnessRecord (m : MailMsg)
  /-- R266. -/
  | mailDeliveryWindow (l : CoreNo)
  /-- R279, R280. -/
  | streamFrameInvalid (p : StreamPort) (e : EthFrame)
  /-- R283. -/
  | imeskLineFrame (p : StreamPort) (e : EthFrame)
  /-- R289. -/
  | imeskProcessFrame (p : StreamPort) (e : EthFrame)
  /-- R281. -/
  | gevLeader (p : StreamPort) (e : EthFrame)
  /-- R281. -/
  | gevPayload (p : StreamPort) (e : EthFrame)
  /-- R281. -/
  | gevTrailer (p : StreamPort) (e : EthFrame)
  /-- R279; `target` is the protocol address asked for. -/
  | arpRequest (p : EthPort) (target : BitVec 128)
  /-- R279. -/
  | neighbourSolicitation (p : EthPort) (target : BitVec 128)
  /-- R434. -/
  | ethernetLinkUp (p : EthPort) (mode : EthMode)
  /-- R434. -/
  | ethernetLinkLoss (p : EthPort)
  /-- R434. -/
  | autonegTimeout (p : EthPort)
  /-- R293. -/
  | plantFrameInvalid (p : PlantPort) (e : EthFrame)
  /-- R298. -/
  | replayFeedFrame (p : PlantPort) (e : EthFrame)
  /-- R292; `rx` is the core cycle of its timestamp, `origin` its origin time in ns, of use when it is one-step. -/
  | ptpSync (domain : BitVec 8) (seq : BitVec 16) (source : BitVec 64) (twoStep : Bool) (origin : Nat) (rx : Nat)
  /-- R292. -/
  | ptpFollowUp (domain : BitVec 8) (seq : BitVec 16) (source : BitVec 64) (origin : Nat)
  /-- R292; `rxNs` is the time at which the transmitter received the Delay_Req. -/
  | ptpDelayResp (domain : BitVec 8) (seq : BitVec 16) (source : BitVec 64) (rxNs : Nat)
  /-- R292. -/
  | ptpAnnounce (domain : BitVec 8) (d : AnnounceData)
  /-- R292. -/
  | ptpOtherMessage (domain : BitVec 8)
  /-- R292. -/
  | ptpDelayReqSend
  /-- R292. -/
  | timeSourceLoss
  /-- R292. -/
  | ppsInEdge
  /-- R225. -/
  | slotFrameBoundary (p : FabricPort)
  /-- R228. -/
  | trafficFrame (p : FabricPort) (k : LaneRx)
  /-- R232. -/
  | activeMaskChange (p : FabricPort)
  /-- R236. -/
  | trainingFrame (p : FabricPort) (lane : LaneNo) (h : Hello) (o : PairingOffer)
  /-- R231. -/
  | laneSignalLoss (p : FabricPort) (lane : LaneNo)
  /-- R231. -/
  | laneLost (p : FabricPort) (lane : LaneNo)
  /-- R231. -/
  | laneUsable (p : FabricPort) (lane : LaneNo)
  /-- R234. -/
  | portDown (p : FabricPort)
  /-- R228. -/
  | authFailureRetrain (p : FabricPort)
  /-- R238; the lanes that have signal. -/
  | signalDetected (p : FabricPort) (lanes : BitVec 8)
  /-- R238; the lanes that locked. -/
  | acquireDone (p : FabricPort) (lanes : BitVec 8)
  /-- R238; the lanes aligned and identified. -/
  | alignDone (p : FabricPort) (lanes : BitVec 8)
  /-- R247. -/
  | helloAgreed (p : FabricPort)
  /-- R227; the peer's hello of the Key state, with its nonce and confirmation. -/
  | keyConfirmed (p : FabricPort) (h : Hello)
  /-- R237; the authenticated hello and the latencies that the training has gathered. -/
  | verifyDone (p : FabricPort) (h : Hello) (latencies : List Nat)
  /-- R238. -/
  | trainingTimeout (p : FabricPort)
  /-- R238. -/
  | keyRetry (p : FabricPort)
  /-- R239. -/
  | unpairedHello (p : FabricPort)
  /-- R209. -/
  | coreFaultDetected (p : CoreNo) (c : FatalCause)
  /-- R209. -/
  | coreIsolated (p : CoreNo)
  /-- R213. -/
  | rebuildUnitWritten
  /-- R365. -/
  | crookSample (f : FoldNo)
  /-- R367. -/
  | hangDeclared (f : FoldNo)
  /-- R374. -/
  | dumpCapture (f : FoldNo)
  /-- R375. -/
  | dumpWritten
  /-- R368. -/
  | foldWalkEnd (f : FoldNo) (l : CoreNo)
  /-- R364. -/
  | supervisorRestart (s : Sup)
  /-- R376, R380; whether the write, and the erase ahead where there is one, verified. -/
  | logEntryWrite (ok : Bool)
  /-- R378. -/
  | logMirrorCopy
  /-- R378. -/
  | witnessSend
  /-- R386. -/
  | inputPowerApplied
  /-- R386. -/
  | powerGood
  /-- R387; the input voltage in mV. -/
  | inputUndervoltage (mv : Nat)
  /-- R387. -/
  | inputOvervoltage (mv : Nat)
  /-- R384. -/
  | railOutOfBand (r : Rail)
  /-- R385. -/
  | converterUnitLost (r : UnitRail)
  /-- R389; the input power of the sample in 0.1 W and the input voltage in mV. -/
  | powerSample (deciwatts : Nat) (mv : Nat)
  /-- R392; the smallest slack of each core's monitors in ps, P0 first (R391). -/
  | marginSample (ms : List Nat)
  /-- R397; |φ| in ps at the ten crossings between adjacent base dies, as pairs of dies and phase. -/
  | phaseSample (phis : List ((Fin 8 × Fin 8) × Nat))
  /-- R398. -/
  | temperatureSample (r : TempReadings)
  /-- R401; the reading in 0.25 °C. -/
  | junctionTrip (x : TripSensor) (reading : Int)
  /-- R403; one reading per core, P0 first. -/
  | ageingRecord (rs : List AgeingReading)
  /-- R404; for each core, P0 first, the unrounded code its fitted sensitivities require for 50 ps at 5 °C
  above its highest junction, as a rational number. -/
  | replan (required : List Rat)
  /-- R430. -/
  | refclkLost
  /-- R430. -/
  | refclkHoldoverExpired
  /-- R430. -/
  | refclkRelock
  /-- R347; `stamp` is the microsecond of the first sample at the new level. -/
  | bridleChangeConfirmed (ch : Chan) (pressed : Bool) (stamp : Nat)
  /-- R347. -/
  | discrepancyTimeout
  /-- R346. -/
  | sealLoopChange (isOpen : Bool) (stamp : Nat)
  /-- R350; whether the confirmed level is fitted (true) or absent (false). -/
  | tackLockConfirmed (fitted : Bool)
  /-- R349. -/
  | windowExpiry
  /-- R341. -/
  | entropyHealthFailure
  /-- R341. -/
  | entropyRecovered
  /-- R436. -/
  | ssdInserted (n : SsdNo) (info : SsdInfo)
  /-- R436. -/
  | ssdRemoved (n : SsdNo)
  /-- R436. -/
  | ssdLinkDown (n : SsdNo)
  /-- R436. -/
  | ssdCommandTimeout (n : SsdNo)
  /-- R319. -/
  | tackRecordCommit
  /-- R326. -/
  | staticLoadComplete (f : FoldNo)
  /-- R331. -/
  | confirmationComplete (f : FoldNo)
  /-- R357. -/
  | openSession (r : MaintReq)
  /-- R357. -/
  | closeSession (r : MaintReq)
  /-- R357. -/
  | sessionTimeout
  /-- R356. -/
  | maintInProgressAnswer
  /-- R358. -/
  | attestation (r : MaintReq)
  /-- R356. -/
  | statusRead (r : MaintReq)
  /-- R356. -/
  | logRead (r : MaintReq)
  /-- R327. -/
  | downloadBegin (r : MaintReq)
  /-- R327. -/
  | downloadData (r : MaintReq)
  /-- R317. -/
  | downloadEnd (r : MaintReq)
  /-- R328. -/
  | verify (r : MaintReq)
  /-- R329. -/
  | activateImmediate (r : MaintReq)
  /-- R329. -/
  | activateAtTick (r : MaintReq)
  /-- R329. -/
  | activateDeferred (r : MaintReq)
  /-- R331. -/
  | revert (r : MaintReq)
  /-- R321. -/
  | holdStop (r : MaintReq)
  /-- R370. -/
  | holdRelease (r : MaintReq)
  /-- R332. -/
  | withdraw (r : MaintReq)
  /-- R23. -/
  | reLock (r : MaintReq)
  /-- R220. -/
  | replayOn (r : MaintReq)
  /-- R220. -/
  | replayOff (r : MaintReq)
  /-- R355. -/
  | debugEnable (r : MaintReq)
  /-- R355. -/
  | debugDisable (r : MaintReq)
  /-- R355. -/
  | debugRead (r : MaintReq)
  /-- R354. -/
  | dumpExport (r : MaintReq)
  /-- R379. -/
  | logClear (r : MaintReq)
  /-- R353. -/
  | keyChange (r : MaintReq)
  /-- R337. -/
  | adoptSsd (r : MaintReq)
  /-- R417. -/
  | tallySelWrite (w : StatusWrite)
  /-- R445. -/
  | userTagWrite (w : StatusWrite)
  /-- R445. -/
  | statusWriteRefused (w : StatusWrite)
  /-- R447. -/
  | pairLowRead (addr : BitVec 32)
  /-- R431; the dynamic address the controller assigns. -/
  | i3cEntdaa (addr : BitVec 7)
  /-- R337. -/
  | ssdResyncComplete (n : SsdNo)
  /-- R328. -/
  | verificationEnd
  /-- R356. -/
  | maintUnknownOperation (r : MaintReq)
  /-- R359. -/
  | entropyDrawTimeout
  deriving DecidableEq, Repr

end Sys2Proof
end

