-- ==== Sys2Proof/Config.lean ====
section
/-! DEFINITION. What the manual leaves open: constants without a body, so that nothing proved here can rest on
one value of them (assumptions 4, 6, 7 and 8). -/

namespace Sys2Proof.Config

/-- What a read of a word with four or more flipped bits does (R149): word number, its 32 bytes as one number, the mask
of its flipped bits; 0 it is detected as a 3-bit error, 1 it is corrected to another codeword, any other number it is
found clean. -/
opaque eccOutcome : Nat → Nat → Nat → Nat
/-- The 32 bytes that such a read returns when the word is not detected (R149), as one number. -/
opaque eccData : Nat → Nat → Nat → Nat

/-- Random bits of a draw from the entropy source (R341): the draw's number and the width wanted. -/
opaque entropy : Nat → (w : Nat) → BitVec w
/-- What the PUF of one module gives (R342): the module's own secret, the same at every call. -/
opaque puf : BitVec 384
/-- The PUF derives the same value at the boot that starts at this cycle (R342). -/
opaque pufHolds : Nat → Bool

/-- Bits out of which the nonce of the signature of a pairing offer is formed (Table 15.4): the bytes signed. -/
opaque offerNonce : List Byte → BitVec 384

/-- Estimated coolant flow in mL/min where the outlet reads no warmer than the inlet (R399), by the number of the
draw. -/
opaque coolantFlow : Nat → Nat

/-- Measurement of a boot stage copy or firmware region as it stands in NOR (R345): 0, 1 copies, 2, 3 regions. -/
opaque norMeasurement : Nat → BitVec 384

/-- The quantiser records of the two operands of a UQ8 slot that no pass has filled since it was restored by a row write
(R72): image measurement, logical core, slot; the logical offsets of the activation's and the weight's records and the
weight's channel at column 0. -/
opaque slotOperands : BitVec 384 → Nat → Nat → Nat × Nat × Nat
/-- The quantiser records of the two operands whose product is requantised into a tensor (R74) before any READ has been
made into it: image measurement, logical core, record of the output tensor. -/
opaque requantOperands : BitVec 384 → Nat → Nat → Nat × Nat × Nat

/-- Where an element of a UQ8 tensor in pasture stands in its tensor (R63, R67): image measurement, logical core and place
of the quantiser record, logical core and offset of the element; its row, its column and its channel. No item of the image
gives the layout. -/
opaque tensorPlace : BitVec 384 → Nat → Nat → Nat → Nat → Nat × Nat × Nat
/-- Tiles in a row of tiles of a tensor (R67, R68): image measurement, logical core and place of the record. -/
opaque tensorTiles : BitVec 384 → Nat → Nat → Nat

/-- Initial channel entry of a tensor whose channel table lies in a dynamic region (R58, R61): image measurement, logical
core, offset of the quantiser record, channel. No item of the image says where the image holds it. -/
opaque initialEntry : BitVec 384 → Nat → Nat → Nat → BitVec 32

/-- First step of a micro-program entry point (R137): image measurement, pen, entry. No item of the image holds it. -/
opaque microEntry : BitVec 384 → Nat → Nat → Nat

/-- Tick-relative cycles of the grants of a mail service window (R267): image measurement, pen, logical core; S_m is their
number. No item of the image holds them. -/
opaque mailCycles : BitVec 384 → Nat → Nat → List Nat

/-- Bytes of replay records that the module holds for one fold while they wait for export (R218). -/
opaque replayBuffer : Nat

/-- What the ageing monitors of a core report at boot step 6 (R403), by the number of the draw: four ring oscillator
counts in [63:0], the delay shift in [79:64]. -/
opaque bootAgeing : Nat → BitVec 80

/-- Plant code that a bellwether puts into the tick word of a tick number: the manual gives it no source (R16, R19). -/
opaque bellwetherCode : Nat → BitVec 16

/-- Imesk's manufacturer code in the provisional ID of the I3C target (R431). -/
opaque makerCode : BitVec 15

/-- Mirror format of the supervisor firmware that runs (R336, Table 20.8). -/
opaque mirrorFormat : Nat

end Sys2Proof.Config
end

