-- ==== Sys2Proof/Machine/Bits.lean ====
section
/-! DEFINITION. Bit fields, byte orders, sparse maps in canonical form and sets of ranges: the plain data
operations that every other file uses. -/

namespace Sys2Proof.Machine

/-! ## Bit fields -/

/-- Bits [lo + len − 1 : lo] of a number. -/
def fldN (w lo len : Nat) : Nat := (w / 2 ^ lo) % 2 ^ len

/-- Bits [lo + len − 1 : lo] of a word, unsigned. -/
def fld {n : Nat} (w : BitVec n) (lo len : Nat) : Nat := fldN w.toNat lo len

/-- One bit of a word. -/
def bitOf {n : Nat} (w : BitVec n) (i : Nat) : Bool := w.getLsbD i

/-- The number of a bit. -/
def b2n (b : Bool) : Nat := if b then 1 else 0

/-- A number of `len` bits as a two's-complement integer. -/
def signedN (w len : Nat) : Int := if w % 2 ^ len < 2 ^ (len - 1) then (w % 2 ^ len : Nat) else (w % 2 ^ len : Nat) - (2 : Int) ^ len

/-- Bits [lo + len − 1 : lo] of a word, two's complement. -/
def fldS {n : Nat} (w : BitVec n) (lo len : Nat) : Int := signedN (fld w lo len) len

/-- An integer modulo 2^len, as stored in `len` bits of two's complement. -/
def wrapN (x : Int) (len : Nat) : Nat := (x % (2 : Int) ^ len).toNat

/-- An integer as a word of 64 bits. -/
def word64 (x : Int) : Word64 := BitVec.ofInt 64 x

/-! ## Bytes -/

/-- Little-endian value of a list of bytes (R8). -/
def leNat : List Byte → Nat
  | [] => 0
  | b :: bs => b.toNat + 256 * leNat bs

/-- The `k` bytes of a number, least significant first. -/
def leBytes (n : Nat) : Nat → List Byte
  | 0 => []
  | k + 1 => BitVec.ofNat 8 n :: leBytes (n / 256) k

/-- Big-endian value of a list of bytes. -/
def beNat (bs : List Byte) : Nat := leNat bs.reverse

/-- The `k` bytes of a number, most significant first. -/
def beBytes (n k : Nat) : List Byte := (leBytes n k).reverse

/-- `len` items from position `at`, padded with `d` where the list ends. -/
def sliceD {α : Type} (d : α) (l : List α) (pos len : Nat) : List α :=
  let t := (l.drop pos).take len
  t ++ List.replicate (len - t.length) d

/-- Little-endian number of `len` bytes at a position of a byte list, zeros beyond its end. -/
def leAt (l : List Byte) (pos len : Nat) : Nat := leNat (sliceD 0 l pos len)

/-- Big-endian number of `len` bytes at a position of a byte list. -/
def beAt (l : List Byte) (pos len : Nat) : Nat := beNat (sliceD 0 l pos len)

/-! ## Vectors -/

/-- One element of a vector changed. -/
def vmod {α : Type} {n : Nat} (v : Vector α n) (i : Fin n) (f : α → α) : Vector α n := v.set i (f v[i])

/-! ## Sparse maps: lists of (key, value) with keys rising and no default value -/

/-- The value at a key; the default where the key is not listed. -/
def cellGet {α : Type} (d : α) (k : Nat) : List (Nat × α) → α
  | [] => d
  | (j, v) :: r => if j < k then cellGet d k r else if j = k then v else d

/-- The map with the value at a key replaced, in canonical form. -/
def cellSet {α : Type} [DecidableEq α] (d : α) (k : Nat) (v : α) : List (Nat × α) → List (Nat × α)
  | [] => if v = d then [] else [(k, v)]
  | (j, w) :: r =>
    if j < k then (j, w) :: cellSet d k v r
    else if j = k then (if v = d then r else (k, v) :: r)
    else (if v = d then (j, w) :: r else (k, v) :: (j, w) :: r)

/-- The map with consecutive keys replaced. -/
def cellsSet {α : Type} [DecidableEq α] (d : α) (k : Nat) : List α → List (Nat × α) → List (Nat × α)
  | [], m => m
  | v :: vs, m => cellsSet d (k + 1) vs (cellSet d k v m)

/-- The values at `n` consecutive keys. -/
def cellsGet {α : Type} (d : α) (m : List (Nat × α)) (k n : Nat) : List α :=
  (List.range n).map fun i => cellGet d (k + i) m

/-- The map with every key from `lo` up to but not including `hi` back at the default. -/
def cellsClear {α : Type} (lo hi : Nat) (m : List (Nat × α)) : List (Nat × α) :=
  m.filter fun c => c.1 < lo || hi ≤ c.1

/-- Canonical form: keys strictly rising and no value equal to the default. -/
def cellWf {α : Type} [DecidableEq α] (d : α) : List (Nat × α) → Bool
  | [] => true
  | (k, v) :: r => decide (v ≠ d) && r.all (fun c => decide (k < c.1)) && cellWf d r

/-! ## Sets of numbers as disjoint half-open ranges, rising -/

/-- Membership. -/
def ivMem (x : Nat) (s : List (Nat × Nat)) : Bool := s.any fun r => decide (r.1 ≤ x) && decide (x < r.2)

/-- The set without the numbers from `lo` up to but not including `hi`. -/
def ivDel (lo hi : Nat) : List (Nat × Nat) → List (Nat × Nat)
  | [] => []
  | (a, b) :: r =>
    let left := if a < min b lo then [(a, min b lo)] else []
    let right := if max a hi < b then [(max a hi, b)] else []
    left ++ right ++ ivDel lo hi r

/-- A range put into its place. -/
def ivPut (lo hi : Nat) : List (Nat × Nat) → List (Nat × Nat)
  | [] => [(lo, hi)]
  | (a, b) :: r =>
    if hi < a then (lo, hi) :: (a, b) :: r
    else if b < lo then (a, b) :: ivPut lo hi r
    else ivPut (min a lo) (max b hi) r

/-- The set with the numbers from `lo` up to but not including `hi`. -/
def ivAdd (lo hi : Nat) (s : List (Nat × Nat)) : List (Nat × Nat) := if lo < hi then ivPut lo hi s else s

/-- The numbers from `lo` up to `hi` all in the set. -/
def ivAll (lo hi : Nat) (s : List (Nat × Nat)) : Bool := s.any fun r => decide (r.1 ≤ lo) && decide (hi ≤ r.2)

/-- Lists of cycles: those at or after a bound. -/
def since (c : Nat) (l : List Nat) : List Nat := l.filter fun x => decide (c ≤ x)

end Sys2Proof.Machine
end

