-- ==== Sys2Proof/Machine/State.lean ====
section
/-! DEFINITION. The state of the module as plain data, and the state after reset.

Every field's comment has four parts between bars: what it is, its width, the file and rule of spec/ that
names it, and its value at reset. "DC" marks a value that the spec leaves open and assumptions 2 and 3 name. -/

namespace Sys2Proof.Machine

/-- An exact value, or a special value of Table 2.2 (R41). -/
inductive Ext where
  | nan
  | inf (neg : Bool)
  | fin (q : Rat)
  deriving DecidableEq, Repr

/-- Formats of Table 8.6. -/
inductive Fmt where
  | raw
  | tp8
  | tp16
  | tp32
  | b32
  | b64
  | uq8
  | mono8
  | mono10
  | mono12
  deriving DecidableEq, Repr

/-- One element beside its bad mark (R128, Table 5.7): the code in the low bits of a 64-bit word. -/
structure Elem where
  /-- code | 64 bits | 07 R128 | 0 DC -/
  code : Word64
  /-- bad mark | 1 bit | 07 R128 | 0 DC -/
  bad : Bool
  deriving DecidableEq, Repr

/-- A byte beside the mark of its word, as a read beat delivers it (R150). -/
abbrev MByte := Byte × Bool

/-- A handle (Table 8.11). -/
structure Handle where
  /-- bad bit [31] | 1 bit | 08 Table 8.11 | 0 DC -/
  bad : Bool
  /-- tag [30:23] | 8 bits | 08 Table 8.11 | 0 DC -/
  tag : BitVec 8
  /-- buffer [22:0] in 256 B units | 23 bits | 08 Table 8.11 | 0 DC -/
  buffer : BitVec 23
  deriving DecidableEq, Repr

/-- The all-zero handle. -/
def Handle.zero : Handle := { bad := false, tag := 0, buffer := 0 }

/-! ## Accumulator, weight sets and feeder of a core -/

/-- The accumulator memory of one core (R104), each part in sparse canonical form with default zero. -/
structure Accum where
  /-- entries (slot × 16,384 + row × 128 + column) | 64 bits each | 06 R104 | 0 DC -/
  entries : List (Nat × Word64)
  /-- side entries, same numbering | 4 bits each | 06 R113 | 0 DC -/
  sides : List (Nat × BitVec 4)
  /-- row state words (slot × 128 + row) | 16 bits each | 06 R109 | 0 DC -/
  rows : List (Nat × BitVec 16)
  /-- slot state words | 32 bits each | 06 R114 | 0 (class UQ8, base 0: R115) -/
  slots : List (Nat × Word32)
  deriving DecidableEq, Repr

/-- A weight set, X or Y (R96). -/
structure WeightSet where
  /-- format of the last load, none when the set holds no format | Table 8.6 | 05 R452 | none (R451) -/
  fmt : Option Fmt
  /-- elements (K position × 128 + column) that differ from the background | 65 bits each | 05 R96 | none listed -/
  cells : List (Nat × Elem)
  /-- bad mark of every unlisted element, whose code is 0 | 1 bit | 05 R451 | 1 (R451) -/
  background : Bool
  /-- trailer of a UQ8 tile | 160 B | 05 R450 | empty DC -/
  trailer : List Byte
  /-- a word of the trailer was read bad | 1 bit | 08 R180 | 0 DC -/
  trailerBad : Bool
  /-- quantiser record named by the context of the last load | 31 bits | 08 R165, 03 R72 | 0 DC -/
  record : Nat
  /-- a write was discarded under R98 since the last complete load | 1 bit | 05 R98 | 0 DC -/
  conflict : Bool
  /-- landing cycle of the first row of the load in progress, its first write cycle | cycle | 05 R97 | 0 DC -/
  loadStart : Nat
  /-- DPU rows landed in the load in progress | list of rows | 05 R96 | empty -/
  landed : List Nat
  deriving DecidableEq, Repr

/-- A row feeder entry (Table 5.7). -/
structure FeederEntry where
  /-- elements with their marks | up to 256 elements | 05 Table 5.7 | — -/
  elems : List Elem
  /-- zero point z_a | 8 bits | 05 Table 5.7 | — -/
  za : Byte
  /-- format code | Table 8.6 | 05 Table 5.7 | — -/
  fmt : Fmt
  /-- escape code 0xFF is in force (stray mode of the row's tensor) | 1 bit | 03 R66 | — -/
  stray : Bool
  /-- quantiser record of the row's tensor | 31 bits | 08 R165, 03 R72 | — -/
  record : Nat
  deriving DecidableEq, Repr

/-- A pass in flight between its issue and its slot write stage (R92). -/
structure PassFl where
  /-- issue cycle t | cycle | 05 R92 | — -/
  issue : Nat
  /-- wide pass | 1 bit | 04 R76 | — -/
  wide : Bool
  /-- pair code of the instruction word | 3 bits | 09 Table 9.7 | — -/
  pair : BitVec 3
  /-- half-depth | 1 bit | 05 R102 | — -/
  half : Bool
  /-- piece selected of the activation (0 whole or low, 1 high) | 1 bit | 05 R90, 04 R78 | — -/
  pieceA : Bool
  /-- piece selected of the weight | 1 bit | 05 R90, 04 R78 | — -/
  pieceW : Bool
  /-- issue cycle of the first pass of its operation | cycle | 05 R91 | — -/
  op : Nat
  /-- activation row as read at issue | feeder entry | 05 Table 5.4 | — -/
  row : FeederEntry
  /-- weight set named, 0 X, 1 Y | 1 bit | 05 R96 | — -/
  set : Bool
  /-- contents of the set as this pass reads them | weight set | 05 R97 | — -/
  weights : WeightSet
  /-- K count | 1 to 256 | 05 R93 | — -/
  kcount : Nat
  /-- N count | 1 to 128 | 05 R93 | — -/
  ncount : Nat
  /-- destination row | 0 to 127 | 09 R191 | — -/
  dest : Nat
  /-- slot | 0 to 63 | 09 Table 9.7 | — -/
  slot : Nat
  deriving DecidableEq, Repr

/-- A row of a slot as a walk has read it (Tables 6.10, 6.11). -/
structure RowCap where
  /-- row | 0 to 127 | 06 R117 | — -/
  row : Nat
  /-- 128 entries: integer and exponent of its unit (0 but for W128) | list | 06 R118 | — -/
  vals : List (Int × Int)
  /-- their side entries | 128 × 4 bits | 06 R113 | — -/
  sides : List (BitVec 4)
  /-- quire entries read beside them, empty without a quire read | list | 06 R117 | — -/
  quire : List Int
  /-- side entries of the quire row | list | 06 R117 | — -/
  qsides : List (BitVec 4)
  deriving DecidableEq, Repr

/-- A spill or readout walk in progress (R117, R118). -/
structure Walk where
  /-- readout rather than spill | 1 bit | 06 R117, R118 | — -/
  isRead : Bool
  /-- issue cycle | cycle | 06 Table 6.10 | — -/
  issue : Nat
  /-- slot named | 0 to 63 | 06 R117 | — -/
  slot : Nat
  /-- pair flag | 1 bit | 09 Table 9.8 | — -/
  pair : Bool
  /-- first flag (spill) or clear-on-read (readout) | 1 bit | 06 R117, R118 | — -/
  flag : Bool
  /-- quire offset, none when no quire is named | 31 bits | 06 R116 | — -/
  quire : Option Nat
  /-- the instruction disagrees with the recorded class | 1 bit | 06 R120 | — -/
  mismatch : Bool
  /-- class of the slot or pair as the walk takes it | 3 bits | 06 R120 | — -/
  cls : BitVec 3
  /-- next row to read | 0 to 128 | 06 Table 6.10 | — -/
  next : Nat
  /-- rows read and not yet written to the quire or delivered, oldest first | list | 06 Table 6.10 | — -/
  caught : List RowCap
  /-- destination format | Table 8.6 | 09 Table 9.8 | — -/
  fmt : Fmt
  /-- destination kind: 0 row feeder, 1 currier registers, 2 drover stream | 2 bits | 09 Table 9.8 | — -/
  kind : BitVec 2
  /-- first register | 5 bits | 09 Table 9.8 | — -/
  reg : BitVec 5
  /-- drover | 2 bits | 09 Table 9.8 | — -/
  drover : DroverNo
  /-- stream | 3 bits | 09 Table 9.8 | — -/
  stream : DStreamNo
  /-- UQ8 integer path | 1 bit | 09 Table 9.8 | — -/
  integerPath : Bool
  /-- tensor quantiser record of a UQ8 destination | 31 bits | 09 Table 9.8 | — -/
  record : Nat
  deriving DecidableEq, Repr

/-! ## Issue streams -/

/-- A loop in progress (R187). -/
structure LoopFrame where
  /-- level | 2 bits | 09 R187 | — -/
  level : Fin 4
  /-- index | 16 bits | 09 R187 | — -/
  index : Nat
  /-- trip count | 16 bits | 09 R187 | — -/
  trip : Nat
  /-- offset of the first body word | 31 bits | 09 R187 | — -/
  body : Nat
  /-- body length in words | 12 bits | 09 R187 | — -/
  len : Nat
  deriving DecidableEq, Repr

/-- What an issue stream waits on (R175, Table 16.5). -/
inductive Wait where
  | none
  /-- a TAKE held on a gate: gate, handle register, issue cycle -/
  | take (g : GateNo) (reg : BitVec 2) (since : Nat)
  /-- a local POST held at a full gate: gate, handle, issue cycle -/
  | post (g : GateNo) (h : Handle) (since : Nat)
  deriving DecidableEq, Repr

/-- A branch of a BSEL in progress (R195). -/
structure Branch where
  /-- offset of the word after the branch taken | 31 bits | 09 R195 | — -/
  stopAt : Nat
  /-- offset of the word after both branches | 31 bits | 09 R195 | — -/
  resume : Nat
  /-- ready base of the word after both branches | cycle | 09 R195 | — -/
  ready : Nat
  deriving DecidableEq, Repr

/-- An instruction that issues one part a cycle (R185). -/
structure Active where
  /-- instruction word, index modifier applied | 128 bits | 09 R183 | — -/
  word : Word128
  /-- next part | count | 09 R185 | — -/
  part : Nat
  /-- parts in all | count | 09 R185 | — -/
  parts : Nat
  /-- cycle in which the next part is due | cycle | 09 R185 | — -/
  due : Nat
  deriving DecidableEq, Repr

/-- An issue stream, or a thread of the fallback style. -/
structure Stream where
  /-- the stream has started and not ended for this tick | 1 bit | 09 R186 | 0 -/
  running : Bool
  /-- logical offset of the next word | 31 bits | 09 R184 | 0 DC -/
  next : Nat
  /-- issue + occupancy of the previous instruction | cycle | 09 R185 | 0 DC -/
  base : Nat
  /-- issue floor of the last WAITT, absolute | cycle | 09 R185 | 0 DC -/
  floor : Nat
  /-- last issue cycle | cycle | 16 Table 16.5 | 0 DC -/
  lastIssue : Nat
  /-- loops in progress, innermost first | at most 4 | 09 R187 | empty -/
  loops : List LoopFrame
  /-- handle registers H0 to H3 | 4 × 32 bits | 09 R189 | 0 DC -/
  handles : Vector Handle 4
  /-- wait in progress | Wait | 08 R175 | none -/
  wait : Wait
  /-- instruction with parts still to issue | Active | 09 R185 | none -/
  active : Option Active
  /-- branch in progress | Branch | 09 R195 | none -/
  branch : Option Branch
  /-- instruction buffer: offset and word of the last words read | at most 256 × 128 bits | 09 R184 | empty -/
  buffer : List (Nat × Word128)
  deriving DecidableEq, Repr

/-- A stream that has not started. -/
def Stream.reset : Stream :=
  { running := false, next := 0, base := 0, floor := 0, lastIssue := 0, loops := [],
    handles := Vector.replicate 4 Handle.zero, wait := .none, active := none, branch := none, buffer := [] }

/-! ## Currier -/

/-- A lane quire (Table 7.3). -/
structure LaneQuire where
  /-- invalid [643] | 1 bit | 07 Table 7.3 | 0 DC -/
  invalid : Bool
  /-- bad [642] | 1 bit | 07 Table 7.3 | 0 DC -/
  bad : Bool
  /-- tag [641:640] | 2 bits | 07 Table 7.3 | 0 DC -/
  tag : BitVec 2
  /-- sum [639:0] | 640 bits | 07 Table 7.3 | 0 DC -/
  sum : BitVec 640
  deriving DecidableEq, Repr

/-- The empty quire. -/
def LaneQuire.zero : LaneQuire := { invalid := false, bad := false, tag := 0, sum := 0 }

/-- The value of one lane on its way to a register: rounded when it lands (R127, R129). -/
structure LaneVal where
  /-- exact value | value | 07 R127 | — -/
  x : Ext
  /-- a zero result is −0 (a CVT or LSEL that copies) | 1 bit | 07 R127 | — -/
  neg0 : Bool
  /-- code written unchanged, none when the value is rounded | 64 bits | 07 R127 | — -/
  copy : Option Word64
  /-- bad mark | 1 bit | 07 R127 | — -/
  bad : Bool
  /-- an invalid event is due | 1 bit | 02 R54 | — -/
  invalid : Bool
  deriving DecidableEq, Repr

/-- A currier result on its way to its register (R129). -/
structure ResultFl where
  /-- landing cycle | cycle | 07 Table 7.2 | — -/
  land : Nat
  /-- destination register | 5 bits | 09 R194 | — -/
  reg : Nat
  /-- destination format | Table 8.6 | 09 Table 9.10 | — -/
  fmt : Fmt
  /-- tensor quantiser record of a UQ8 destination | 31 bits | 09 Table 9.10 | — -/
  record : Nat
  /-- lane-row of the operation | 0 to 31 | 07 R126 | — -/
  row : Nat
  /-- values from lane 0 | 1 to 128 | 09 Table 9.10 | — -/
  vals : List LaneVal
  /-- a soft maximum's exponential, added to the lane quires as it lands | 1 bit | 07 R138 | — -/
  sums : Bool
  deriving DecidableEq, Repr

/-- Addends on their way to the lane quires (R129, R130). -/
structure QuireFl where
  /-- landing cycle | cycle | 07 Table 7.2 | — -/
  land : Nat
  /-- addends from lane 0 | 1 to 128 | 07 R130 | — -/
  vals : List LaneVal
  deriving DecidableEq, Repr

/-- A thread load on its way (R143). -/
structure LoadFl where
  /-- landing cycle | cycle | 07 R143 | — -/
  land : Nat
  /-- destination register | 5 bits | 09 Table 9.12 | — -/
  reg : Nat
  /-- format named | Table 8.6 | 09 Table 9.12 | — -/
  fmt : Fmt
  /-- elements | list | 07 R143 | — -/
  elems : List Elem
  deriving DecidableEq, Repr

/-- Stray corrections on their way to the slot write stage (R455). -/
structure StrayFl where
  /-- issue cycle of the entry | cycle | 09 R455 | — -/
  issue : Nat
  /-- additions: slot, row, column, integer to add | list | 03 R69 | — -/
  adds : List (Nat × Nat × Nat × Int)
  /-- side entries to merge: slot, row, column, side | list | 03 R69 | — -/
  tags : List (Nat × Nat × Nat × BitVec 4)
  deriving DecidableEq, Repr

/-- A fallback section (R196). -/
structure Section where
  /-- issue cycle of the THRD | cycle | 09 R196 | — -/
  issue : Nat
  /-- section length λ | cycles | 09 R196 | — -/
  len : Nat
  deriving DecidableEq, Repr

/-- The currier of a core (R126). -/
structure Currier where
  /-- vector registers V0 to V31 | 32 × 128 × 64 bits with marks | 07 R128 | 0 DC -/
  regs : Vector (List Elem) 32
  /-- format named by the last writer of each register | 32 codes | 07 R128 | raw DC -/
  fmts : Vector Fmt 32
  /-- quantiser record of each register that holds UQ8 codes | 32 × 31 bits | 07 R126 | 0 DC -/
  recs : Vector Nat 32
  /-- lane quires | 128 × 644 bits | 07 R130 | 0 DC -/
  quires : Vector LaneQuire 128
  /-- pattern tables: table × 16,416 + byte | 16 × (32 + 16,384) B | 07 R132 | 0 DC -/
  tables : List (Nat × Byte)
  /-- micro-program store | 4 KiB | 07 R136 | 0 DC -/
  micro : List (Nat × Byte)
  /-- results on their way | list | 07 R129 | empty -/
  results : List ResultFl
  /-- addends on their way to the quires | list | 07 R130 | empty -/
  addends : List QuireFl
  /-- row maximum or minimum of the instruction in progress and its mark | value | 07 R131 | none -/
  extreme : Option (Ext × Bool)
  /-- thread loads on their way | list | 07 R143 | empty -/
  loads : List LoadFl
  /-- stray corrections on their way | list | 09 R455 | empty -/
  strays : List StrayFl
  /-- fallback section in progress | Section | 09 R196 | none -/
  sec? : Option Section
  /-- threads | 8 streams | 07 R143 | not running -/
  threads : Vector Stream 8
  /-- tables being loaded until this cycle (66-cycle load) | cycle | 07 R135 | 0 DC -/
  loadUntil : Nat
  /-- tables as the load in progress leaves them | 16 × (32 + 16,384) B | 07 R135 | 0 DC -/
  newTables : List (Nat × Byte)
  /-- micro-program store as the load in progress leaves it | 4 KiB | 07 R135 | 0 DC -/
  newMicro : List (Nat × Byte)
  /-- the soft maximum row being summed has m = −∞ and no NaN so far | 1 bit | 07 R139 | 0 -/
  emptyRow : Bool
  deriving DecidableEq, Repr

/-! ## Drovers, rings and gates -/

/-- A re-arm waiting for the end of the current run (R172). -/
structure Rearm where
  /-- new source base, none to keep it (R173) | 32 bits | 08 R172 | — -/
  src : Option Nat
  /-- new destination base, none to keep it | 32 bits | 08 R172 | — -/
  dst : Option Nat
  /-- cycle from which needs are counted | cycle | 09 R198 | — -/
  origin : Nat
  /-- issue-relative | 1 bit | 09 R198 | — -/
  relative : Bool
  /-- the base came from a handle with the bad bit set | 1 bit | 09 R189 | — -/
  bad : Bool
  /-- it is a tick re-arm, which moves each descriptor from its own base (R173) | 1 bit | 08 R173 | — -/
  tick : Bool
  deriving DecidableEq, Repr

/-- A data descriptor of a chain with its bases (R164, R172). -/
structure Desc where
  /-- its own logical offset | 31 bits | 08 R164 | — -/
  at_ : Nat
  /-- the 256 bits | 256 bits | 08 Table 8.4 | — -/
  word : Word256
  /-- bases given in the image or by the last re-arm instruction (R173) | 2 × 32 bits | 08 R173 | — -/
  src0 : Nat
  dst0 : Nat
  /-- bases in force | 2 × 32 bits | 08 R172 | — -/
  src : Nat
  dst : Nat
  /-- transfer slot of the drover that it occupies | none or 0 to 7 | 08 R163 | none -/
  slot : Option Nat
  /-- handle held at a full gate by its transfer slot | gate and handle | 08 R175, R454 | none -/
  held : Option (GateNo × Handle)
  deriving DecidableEq, Repr

/-- A beat of a unit (R158, R160). -/
structure BeatFl where
  /-- offset of the row or part of it, in the source | 31 bits | 08 R158 | — -/
  off : Nat
  /-- bytes | 1 to 256 | 08 R158 | — -/
  len : Nat
  /-- landing cycle, none before the grant | cycle | 08 R160 | — -/
  land : Option Nat
  /-- source bytes captured by the grant, with marks | list | 08 R161 | — -/
  data : List MByte
  /-- the store at the receiving core is discarded (R160, R208) | 1 bit | 08 R160 | — -/
  lost : Bool
  deriving DecidableEq, Repr

/-- A unit of a stream with beats requested, granted or landing (R166). -/
structure UnitFl where
  /-- unit number within its descriptor | count | 08 R166 | — -/
  unit : Nat
  /-- its descriptor, with the bases in force when it started | 256 bits | 08 R172 | — -/
  desc : Word256
  /-- offset of its descriptor | 31 bits | 08 R163 | — -/
  at_ : Nat
  /-- source base in force when it started | 32 bits | 08 R172 | — -/
  srcBase : Nat
  /-- run of the stream to which it belongs | count | 08 R163 | — -/
  run : Nat
  /-- its descriptor's run posts once this unit and every other of the run have landed (R454) | 1 bit | 08 R454 | — -/
  last : Bool
  /-- offset of the buffer that its post names | 31 bits | 08 R454 | — -/
  buf : Nat
  /-- hall address read from, of a unit whose source is another module | 64 bits | 12 R256 | — -/
  from_ : Option Word64
  /-- hall address written to, of a unit whose destination is another module | 64 bits | 12 R256 | — -/
  to_ : Option Word64
  /-- need cycle N_u, absolute | cycle | 08 R166 | — -/
  need : Nat
  /-- source core, when the unit reads pasture | 5 bits | 08 Table 8.5 | — -/
  src : CoreNo
  /-- core on which it lands | 5 bits | 08 Table 8.5 | — -/
  dst : CoreNo
  /-- destination base of the unit | 32 bits | 08 R166 | — -/
  place : Nat
  /-- beats not yet granted, or granted and not yet landed, in order | list | 08 R158 | — -/
  beats : List BeatFl
  /-- source bytes landed, with marks | list | 08 R160 | — -/
  data : List MByte
  /-- source bytes converted and stored so far (pasture destinations) | count | 08 R160 | — -/
  stored : Nat
  /-- landing cycle of the first beat | cycle | 08 R166 | — -/
  first : Option Nat
  /-- some beat has been granted | 1 bit | 08 R170 | — -/
  granted : Bool
  /-- landed, and waiting for an older unit of its ring stream | 1 bit | 08 R170 | — -/
  finished : Bool
  /-- words stored so far, as ranges of word numbers | list | 08 R167 | — -/
  wrote : List (Nat × Nat)
  /-- the unit is marked bad | 1 bit | 08 R167 | — -/
  bad : Bool
  /-- idle unit of a data-dependent count (R162): it moves no data | 1 bit | 08 R162 | — -/
  idle : Bool
  /-- elements with their format, of a unit that reads no pasture (R166, R192) | list | 09 R192 | — -/
  elems : Option (Fmt × List Elem)
  /-- cycle of its last store, and the words stored in that cycle | cycle, list | 08 R161 | — -/
  hot : Nat × List Nat := (0, [])
  /-- the core it goes to was absent when it started: its beats are discarded | 1 bit | 10 Table 10.3 | — -/
  gone : Bool := false
  deriving DecidableEq, Repr

/-- Run state of a drover stream (R197). -/
inductive DStatus where
  | idle
  | armed
  | running
  deriving DecidableEq, Repr

/-- A drover stream (R163). -/
structure DStream where
  /-- run state | idle, armed, running | 09 R197 | idle -/
  status : DStatus
  /-- fold that started it | 5 bits | 08 R179 | 0 DC -/
  fold : FoldNo
  /-- arm-only start pending: the first run begins with the first re-arm | 1 bit | 09 Table 9.14 | 0 DC -/
  armOnly : Bool
  /-- context descriptor, none before it is fetched | 256 bits | 08 Table 8.9 | none -/
  ctx : Option Word256
  /-- logical offset of the next descriptor of the chain | 31 bits | 08 R164 | 0 DC -/
  next : Nat
  /-- logical offset of the next descriptor to fetch | 31 bits | 08 R164 | 0 DC -/
  fetch : Nat
  /-- descriptor fetch beats are requested up to the end of the 1 KiB block | 1 bit | 08 R164 | 0 DC -/
  want : Bool
  /-- the chain has reached its end-of-chain descriptor | 1 bit | 08 R164 | 0 DC -/
  ended : Bool
  /-- data descriptors taken | list | 08 R164 | empty -/
  descs : List Desc
  /-- descriptor of the run in progress, index into descs | count | 08 R163 | 0 DC -/
  cur : Nat
  /-- next unit of that descriptor | count | 08 R166 | 0 DC -/
  unit : Nat
  /-- next unit u of the stream, counted over its descriptors | count | 08 R166 | 0 DC -/
  seq : Nat
  /-- units started and not landed | list | 08 R166 | empty -/
  units : List UnitFl
  /-- cycle from which needs are counted: the tick instant, or the issue cycle when issue-relative | cycle | 08 R166, 09 R198 | 0 DC -/
  origin : Nat
  /-- issue-relative | 1 bit | 09 R198 | 0 DC -/
  relative : Bool
  /-- re-arm pending | Rearm | 08 R172 | none -/
  rearm : Option Rearm
  /-- base came from a bad handle | 1 bit | 09 R189 | 0 DC -/
  badBase : Bool
  /-- number of the run in progress | count | 08 R163 | 0 DC -/
  runNo : Nat
  /-- runs of which some unit was marked bad, or whose indices exceeded the maximum | list | 08 R454 | empty -/
  badRuns : List Nat
  /-- bases of the first data descriptor of the chain | 2 × 32 bits | 08 R172 | none -/
  lead : Option (Nat × Nat)
  /-- offset of the first ring slot of the run | 31 bits | 08 R454 | none -/
  firstSlot : Option Nat
  /-- index buffer rows read in this run: offset, cycle from which usable, bytes | list | 08 R168 | empty -/
  index : List (Nat × Nat × List MByte)
  /-- indices beyond the maximum in this run | count | 08 R168 | 0 DC -/
  excess : Nat
  /-- STOP received: no new unit is granted | 1 bit | 09 Table 9.13 | 0 DC -/
  stopping : Bool
  deriving DecidableEq, Repr

/-- An idle drover stream. -/
def DStream.reset : DStream :=
  { status := .idle, fold := 0, armOnly := false, ctx := none, next := 0, fetch := 0, want := false,
    ended := false, descs := [], cur := 0, unit := 0, seq := 0, units := [], origin := 0, relative := false,
    rearm := none, badBase := false, runNo := 0, badRuns := [], lead := none, firstSlot := none, index := [],
    excess := 0, stopping := false }

/-- A line, or the part of it in one 256 B row, on its way from a stream port to the tick buffer (R158, R159, R207). -/
structure PortBeat where
  /-- stream port | 4 bits | 13 R284 | — -/
  port : StreamPort
  /-- cycle from which its write beat may be granted | cycle | 10 R207 | — -/
  due : Nat
  /-- offset of its bytes | 31 bits | 13 R284 | — -/
  off : Nat
  /-- bytes | at most 256 B | 08 R158 | — -/
  bytes : List Byte
  deriving DecidableEq, Repr

/-- A ring register (Table 8.10) with the units its producer has started. -/
structure Ring where
  /-- the 64-bit register: enable, base, slot size, slot count, fill, head, tail | 64 bits | 08 Table 8.10 | 0 DC -/
  reg : Word64
  /-- units started and not complete | count | 08 R170 | 0 DC -/
  started : Nat
  deriving DecidableEq, Repr

/-- A gate (R174). -/
structure Gate where
  /-- handles in order, each with the cycle from which it is visible | at most 16 | 08 R174 | empty -/
  queue : List (Handle × Nat)
  /-- cycles of the takes whose freed place is not yet visible to posts | list | 08 R175 | empty -/
  freed : List Nat
  deriving DecidableEq, Repr

/-- A handle on its way from another core (R175). -/
structure HandleFl where
  /-- target gate | 6 bits | 08 R175 | — -/
  gate : GateNo
  /-- the handle | 32 bits | 08 R175 | — -/
  handle : Handle
  /-- cycle sent | cycle | 08 R174 | — -/
  sent : Nat
  /-- arrival cycle | cycle | 10 R207 | — -/
  arrive : Nat
  /-- its gate was loaded again after it was sent: it is discarded on arrival | 1 bit | 08 R174 | — -/
  dead : Bool
  deriving DecidableEq, Repr

/-- The pasture memory of one physical core (R146), parity block included. -/
structure Pasture where
  /-- bytes that differ from 0, by physical offset, in canonical form | 1,879,048,192 B | 08 R146 | unlisted reads 0 DC (3) -/
  cells : List Host.Cell
  /-- poisoned words as disjoint half-open ranges of word numbers | one flag per 32 B word | 08 R150 | none DC (3) -/
  poison : List (Nat × Nat)
  /-- flipped bits per word not yet corrected or overwritten | 272-bit mask per word | 08 R149 | none -/
  flips : List (Nat × Nat)
  /-- words stored in the last cycles: cycle, word, old bytes, old poison | journal | 08 R161 | empty -/
  recent : List (Nat × Nat × List Byte × Bool)
  /-- words found uncorrectable and not yet rewritten | word numbers | 08 R156 | none -/
  broken : List Nat
  deriving DecidableEq, Repr

/-- What the module keeps of one UQ8 tensor of a core between the reserves (R60, R61, R71), by the logical
offset of its quantiser record. -/
structure TensorQ where
  /-- counts of the running tick: elements, clips, escapes, collapses | 4 × 32 bits | 03 R71 | — -/
  elements : Nat
  clips : Nat
  escapes : Nat
  collapses : Nat
  /-- tiles whose list set the full flag in the running tick | list of tiles | 03 R71 | — -/
  full : List Nat
  /-- tiles whose stray list the module has cleared since the start | list of tiles | 03 R68 | — -/
  tiles : List Nat
  /-- running range of each channel: minimum and maximum as binary32 codes | list | 03 R60 | — -/
  ranges : List (Nat × Word32 × Word32)
  /-- records of the last W ticks since the start, newest first | list | 03 R60, R61 | — -/
  window : List (List (Nat × Word32 × Word32))
  /-- records made since the start: the place of the next one in the ring | count | 03 R60 | — -/
  ticks : Nat
  /-- channel entries as the image gives them | list | 03 R61 | — -/
  initial : List Word32
  /-- records of the operands of the slot last read out into it: activation, weight, channel of column 0 | list | 03 R74 |
  none -/
  operands : Option (Nat × Nat × Nat)
  deriving DecidableEq, Repr

/-! ## Tally counters -/

/-- A 48-bit saturating counter (R413, R420). -/
structure Ctr where
  /-- value | 48 bits | 18 R413 | 0 -/
  val : BitVec 48
  /-- saturated flag | 1 bit | 18 R413 | 0 -/
  sat : Bool
  deriving DecidableEq, Repr

/-- The zero counter. -/
def Ctr.zero : Ctr := { val := 0, sat := false }

/-- One programmable counter (R413). -/
structure Tally where
  /-- select register | 32 bits | 18 Table 18.1 | Table 18.4 -/
  sel : Word32
  /-- accepted select write not yet in effect | 32 bits | 18 R417 | none -/
  selNext : Option Word32
  /-- counter | 48 bits and flag | 18 R413 | 0 -/
  ctr : Ctr
  /-- the selected condition held in the cycle before (edge mode) | 1 bit | 18 R414 | 0 -/
  prev : Bool
  /-- cycle of the last level-mode count | cycle | 18 R414 | none -/
  levelAt : Option Nat
  /-- snapshot register | 48 bits and flag | 18 R416 | 0 -/
  snap : Ctr
  deriving DecidableEq, Repr

/-! ## Voltage and ageing of a core -/

/-- Supply, margin and wear of one core (ch. 17). -/
structure Supply where
  /-- VCORE is on | 1 bit | 17 R384 | 0 -/
  on : Bool
  /-- voltage code v | 0 to 100 | 17 R390 | 60 (Table 20.9) -/
  code : Nat
  /-- planned code v_plan | 0 to 100 | 17 R404 | 60 DC -/
  plan : Nat
  /-- floor of R395 | 0 to 100 | 17 R395 | 0 DC -/
  floor : Nat
  /-- code the core's own margin loop would hold | 0 to 100 | 17 R397 | 60 DC -/
  own : Nat
  /-- last margin sample M, ps | 10 bits | 17 R391 | 0 (Table 20.9) -/
  margin : Nat
  /-- smallest M of the tick, none before a sample | 10 bits | 17 R393 | none -/
  minMargin : Option Nat
  /-- junction reading, 0.25 °C | 16 bits | 17 R398 | 0 (Table 20.9) -/
  tj : Int
  /-- highest junction of the tick | 16 bits | 17 R400 | 0 -/
  tjMax : Int
  /-- highest stack reading under the core in the tick | 16 bits | 17 R400 | 0 -/
  stackMax : Int
  /-- warming | 1 bit | 17 R396 | 0 -/
  warming : Bool
  /-- last values of v_plan, newest first | at most 30 | 17 R405 | empty -/
  plans : List Nat
  /-- handover tick H, none when no notice is pending | 48 bits | 17 R405 | none (0 in CORE_HANDOVER_TICK) -/
  handover : Option Nat
  /-- handover copy in progress: units still to copy | count | 17 R407 | none -/
  copy : Option Nat
  /-- ring oscillator counts of the last ageing record | 4 × 16 bits | 17 R403 | 0 (Table 20.9) -/
  rings : Vector (BitVec 16) 4
  deriving DecidableEq, Repr

/-- States of a core map entry (Table 10.2). -/
inductive CoreMode where
  | fusedOff
  | idle
  | spare
  | mapped
  | rebuilding
  | failed
  | retired
  deriving DecidableEq, Repr

/-- One physical core. -/
structure Core where
  /-- map state | 3 bits | 10 Table 10.2 | idle -/
  mode : CoreMode
  /-- logical number held or last held | 5 bits | 10 Table 10.2 | 0 -/
  logical : CoreNo
  /-- fleece member number | 5 bits | 10 Table 10.2 | 0 -/
  member : Nat
  /-- member number of the parity block it holds, none for an idle core | 5 bits | 10 R212 | none -/
  parity : Option Nat
  /-- handover planned | 1 bit | 10 Table 10.2 | 0 -/
  planned : Bool
  /-- cycle f of its fatal fault | cycle | 10 R209 | none -/
  fault : Option Nat
  /-- cause of the fatal fault | 5 codes | 16 Table 16.6 | none -/
  cause : Option FatalCause
  /-- isolated | 1 bit | 10 R209 | 0 -/
  isolated : Bool
  /-- its logical core is absent: it failed holding it and no other core has taken it, or it was mapped at a takeover
  and has not yet run a pen | 1 bit | 10 R209, R212, R214 | 0 -/
  absent : Bool
  /-- ticks in which it raised hardware or schedule faults, newest first | at most 4 | 16 R363 | empty -/
  faultTicks : List Nat
  /-- accumulator memory | 8 MiB and state | 06 R104 | zero -/
  acc : Accum
  /-- weight set X | 64 B per DPU | 05 R96 | no format, zero marked bad (R451) -/
  setX : WeightSet
  /-- weight set Y | 64 B per DPU | 05 R96 | no format, zero marked bad (R451) -/
  setY : WeightSet
  /-- row feeder queue from head to tail | at most 128 entries | 05 R99 | empty -/
  feeder : List FeederEntry
  /-- passes in flight, oldest first | list | 05 R92 | empty -/
  passes : List PassFl
  /-- last cycle with a write-back: the accumulator as it stood before, and the passes written | cycle, accumulator,
  list | 06 R122, R124 | none -/
  wroteBack : Option (Nat × Accum × List PassFl)
  /-- quantiser records of the operands last passed into a UQ8 slot: slot, activation, weight, channel of column 0 |
  list | 03 R72 | empty -/
  origins : List (Nat × Nat × Nat × Nat)
  /-- walks in progress, oldest first | list | 06 R117 | empty -/
  walks : List Walk
  /-- matrix stream | stream | 09 R182 | not running -/
  matrix : Stream
  /-- currier stream | stream | 09 R182 | not running -/
  cstream : Stream
  /-- drover stream | stream | 09 R182 | not running -/
  dstream : Stream
  /-- clears issued whose rows clear in the next cycle: slot, class, base, cycle | list | 06 R114 | empty -/
  clears : List (Nat × BitVec 3 × BitVec 16 × Nat)
  /-- currier | unit | 07 R126 | zero -/
  currier : Currier
  /-- drovers | 4 × 8 streams | 08 R163 | idle -/
  drovers : Vector (Vector DStream 8) 4
  /-- rings | 32 × 64 bits | 08 R169 | 0 -/
  rings : Vector Ring 32
  /-- gates | 64 × 16 handles | 08 R174 | empty -/
  gates : Vector Gate 64
  /-- handles on their way to this core | list | 08 R175 | empty -/
  arrivals : List HandleFl
  /-- write beats already taken in coming cycles: cycle and count | list | 08 R160 | empty -/
  writeBeats : List (Nat × Nat)
  /-- descriptor buffer of each drover: offset, cycle from which usable, word, read bad, oldest first | 4 × 64 × 256 bits |
  08 R164 | empty -/
  dbufs : Vector (List (Nat × Nat × Word256 × Bool)) 4
  /-- program beats sent into and received from the network in recent cycles: cycle and count | lists | 10 R208 | empty -/
  sends : List (Nat × Nat)
  recvs : List (Nat × Nat)
  /-- lines of stream ports on their way to write beats, oldest first | list | 08 R159 | empty -/
  portBeats : List PortBeat
  /-- rings to reset at the next tick instant after a cancellation | list | 08 R179 | empty -/
  ringsToReset : List RingNo
  /-- the row feeder queue is emptied at the next tick instant after a cancellation | 1 bit | 08 R179 | 0 -/
  emptyFeeder : Bool
  /-- gather rows placed in the gather service: deadline, packet, landing cycle | list | 12 R261 | empty -/
  gather : List (Nat × SchedPacket × Nat)
  /-- tick in which rows were last taken for service, and how many in it | tick number, count | 01 R34, 12 R261 | 0 DC -/
  rowsTaken : Nat × Nat
  /-- next 256 B row that the fleece port scrubs, and the cycle of the last one | row number, cycle | 08 R155 | 0 DC, none -/
  scrubRow : Nat
  scrubbed : Option Nat
  /-- tick of the last mail delivery window served | tick number | 12 R266 | none -/
  delivered : Option Nat
  /-- pasture memory | 1.75 GiB | 08 R146 | zero DC -/
  pasture : Pasture
  /-- UQ8 tensors in use, by quantiser record | list | 03 R60 | empty -/
  tensors : List (Nat × TensorQ)
  /-- last cycle whose beats have been granted | cycle | 08 R158 | none -/
  lastGrant : Option Nat
  /-- cycle counter | 64 bits | 18 R412 | 0 DC -/
  cycles : Word64
  /-- programmable counters | 8 × 48 bits | 18 R413 | Table 18.4 -/
  tally : Vector Tally 8
  /-- supply and ageing | registers | 17 | see Supply -/
  supply : Supply
  deriving DecidableEq, Repr

/-! ## The tick -/

/-- A word received on a tick channel (R16, R429). -/
structure TickWord where
  /-- the 64 bits | 64 bits | 01 Table 1.3 | — -/
  word : Word64
  /-- received instant | cycle | 19 R429 | — -/
  edge : Nat
  deriving DecidableEq, Repr

/-- Tick source and tick state (ch. 1). -/
structure Tick where
  /-- word of channel A for the coming instant | 64 bits | 01 R16 | none -/
  chA : Option TickWord
  /-- word of channel B | 64 bits | 01 R16 | none -/
  chB : Option TickWord
  /-- a starting prediction has been taken | 1 bit | 01 R24 | 0 -/
  predicting : Bool
  /-- tick number of the running tick | 48 bits | 01 R16 | 0 (MOD_TICK) -/
  number : BitVec 48
  /-- plant code of the running tick | 16 bits | 01 R16 | 0 DC -/
  code : BitVec 16
  /-- last valid plant code | 16 bits | 01 R23 | 0 DC -/
  lastCode : BitVec 16
  /-- cycle of the running tick's instant | cycle | 01 R11 | 0 DC -/
  instant : Nat
  /-- consecutive ticks in which A and B agree and match | count | 01 R23, R24 | 0 -/
  agree : Nat
  /-- tick lock | 1 bit | 01 R24 | 0 (MOD_STATE) -/
  lock : Bool
  /-- holdover | 1 bit | 01 R23 | 0 (MOD_STATE) -/
  holdover : Bool
  /-- this tick was a holdover tick | 1 bit | 01 R23 | 0 -/
  holdoverTick : Bool
  /-- re-lock requested | 1 bit | 01 R23 | 0 -/
  relock : Bool
  /-- the reserve of the running tick has begun | 1 bit | 01 R26 | 0 -/
  inReserve : Bool
  /-- correction a bellwether applies to its next instant | −1, 0, 1 | 01 R19 | 0 -/
  correction : Int
  /-- loop from TICK_OUT to TICK_IN_A, in core cycles | count | 13 R291 | none -/
  loop : Option Nat
  /-- cycle of the last word sent on TICK_OUT | cycle | 13 R291 | none -/
  outAt : Option Nat
  /-- last word sent on TICK_OUT | 64 bits | 13 R291 | 0 DC -/
  outWord : Word64
  /-- next instant a bellwether has placed | cycle | 01 R19 | none -/
  placed : Option Nat
  /-- tick number a bellwether gives the next instant | 48 bits | 01 R19 | 0 DC -/
  placedNumber : BitVec 48
  /-- level of HEARTBEAT_OUT | 1 bit | 13 R299, 19 Table 19.9 | low -/
  heartbeat : Bool
  /-- the previous tick was healthy, and its toggle is still to come | 1 bit | 13 R299 | 0 -/
  healthy : Bool
  /-- a supervisor completed the reserve work of the running tick | 1 bit | 13 R299 | 0 -/
  confirmed : Bool
  /-- every drain of the running tick was handed over | 1 bit | 13 R299 | 0 -/
  drained : Bool
  /-- faults of Table 1.4 in this tick's classification, row number | 1 to 6 | 01 R22 | 1 -/
  case : Nat
  deriving DecidableEq, Repr

/-- IEEE 1588 receiver of a bellwether (R292). -/
structure Ptp where
  /-- selected transmitter | data set | 13 R292 | none -/
  best : Option AnnounceData
  /-- cycle of the last Sync accepted | cycle | 13 R292 | none -/
  syncAt : Option Nat
  /-- two-step Sync waiting for its Follow_Up: sequence, source, cycle | record | 13 R292 | none -/
  pending : Option (BitVec 16 × Word64 × Nat)
  /-- origin time of the last Sync used, ns, and the core cycle of its timestamp | record | 01 R19, 13 R292 | none -/
  time : Option (Nat × Nat)
  /-- path delay, ns | ns | 13 R292 | 0 DC -/
  delay : Int
  /-- Delay_Req outstanding: sequence and cycle | record | 13 R292 | none -/
  delayReq : Option (BitVec 16 × Nat)
  /-- sequence of the next Delay_Req | 16 bits | 13 R292 | 0 DC -/
  seq : BitVec 16
  /-- time source lost since the last Sync | 1 bit | 13 R292 | 0 -/
  lost : Bool
  /-- PPS offset, none when no pulse | signed 32 bits | 13 R292 | none (Table 20.3) -/
  pps : Option Int
  deriving DecidableEq, Repr

/-! ## Images -/

/-- A pen's entry for one logical core (Table 14.7). -/
structure PenCore where
  core : CoreNo
  matrix : Nat
  currier : Nat
  drover : Nat
  tables : Nat
  worst : Nat
  deriving DecidableEq, Repr

/-- A pen record (Table 14.7). -/
structure PenRec where
  pen : Nat
  thermal : Bool
  degraded : Bool
  worst : Nat
  cores : List PenCore
  deriving DecidableEq, Repr

/-- A region record (Table 8.3) with its logical core. -/
structure Region where
  core : CoreNo
  start : Nat
  len : Nat
  dynamic : Bool
  fold : Nat
  deriving DecidableEq, Repr

/-- A gate record (Tables 14.20, 14.21). -/
structure GateRec where
  core : CoreNo
  gate : GateNo
  producer : CoreNo
  size : Nat
  standIn : Nat
  lists : List (Nat × List Handle)
  deriving DecidableEq, Repr

/-- A ring register item entry (Table 8.10) with its place. -/
structure RingRec where
  core : CoreNo
  ring : RingNo
  reg : Word64
  deriving DecidableEq, Repr

/-- A pen selection row (Table 14.22). -/
structure SelRow where
  value : BitVec 16
  mask : BitVec 16
  port : Option StreamPort
  field : Nat
  degradation : BitVec 3
  pen : Nat
  dwell : Nat
  header : Word64
  deriving DecidableEq, Repr

/-- A stream port record (Table 13.1). -/
structure StreamRec where
  imesk : Bool
  port : StreamPort
  band : Bool
  record : Bool
  ipv6 : Bool
  m : Nat
  pixel : Word32
  width : Nat
  bandWidth : Nat
  lines : Nat
  payload : Nat
  linePort : BitVec 16
  processPort : BitVec 16
  black : Nat
  g : Nat
  core : CoreNo
  maxPackets : Nat
  period : Nat
  offset : Nat
  base : Nat
  src : BitVec 128
  local_ : BitVec 128
  mac : BitVec 48
  deriving DecidableEq, Repr

/-- A result frame list entry (Table 14.23). -/
structure FrameRec where
  frame : Nat
  port : Nat
  len : Nat
  deriving DecidableEq, Repr

/-- Kinds of slice table entry (Table 12.3). -/
inductive SliceKind where
  | own
  | mail
  | exported
  deriving DecidableEq, Repr

/-- A slice table entry (Table 12.3). -/
structure Slice where
  first : Nat
  last : Nat
  kind : SliceKind
  canRead : Bool
  canWrite : Bool
  canGather : Bool
  canPost : Bool
  peer : BitVec 16
  deferral : Nat
  deriving DecidableEq, Repr

/-- A flow record (Table 12.5). -/
structure Flow where
  control : Bool
  rein : Nat
  sender : CoreNo
  target : BitVec 12
  queue : Nat
  delay : Nat
  deriving DecidableEq, Repr

/-- A landing list entry (R258). -/
structure Landing where
  core : CoreNo
  type : BitVec 4
  units : BitVec 4
  tag : BitVec 16
  flow : BitVec 6
  stamp : Nat
  addr : Word64
  deriving DecidableEq, Repr

/-- An expected topology entry (Table 14.24). -/
structure Topo where
  member : BitVec 12
  rein : Nat
  ports : List Nat
  peer : BitVec 12
  peerPorts : List Nat
  deriving DecidableEq, Repr

/-- A static data block (Table 14.5, type 0x000C): core, container offset, length, load offset. -/
structure StaticBlock where
  core : CoreNo
  at_ : Nat
  len : Nat
  load : Nat
  deriving DecidableEq, Repr

/-- A fold section as the module reads it from a container. -/
structure FoldImage where
  version : Nat
  release : Nat
  measurement : BitVec 384
  tag : BitVec 16
  degraded : Nat
  thermal : Nat
  members : Nat
  confirm : Nat
  mailBudget : Nat
  shepherd : BitVec 12
  deputy : BitVec 12
  selector : BitVec 12
  pens : List PenRec
  regions : List Region
  gates : List GateRec
  rings : List RingRec
  rows : List SelRow
  streams : List StreamRec
  frames : List FrameRec
  slices : List Slice
  flows : List Flow
  landings : List Landing
  topology : List Topo
  statics : List StaticBlock
  /-- tensors that the pens name: pen, logical core, place of the quantiser record -/
  tensors : List (Nat × CoreNo × Nat)
  deriving DecidableEq, Repr

/-- A fold allotment record (Table 14.1). -/
structure Allot where
  fold : FoldNo
  tag : BitVec 16
  cores : Word32
  shared : Option CoreNo
  second : Bool
  boundary : Nat
  streams : BitVec 16
  gate0 : Nat
  gateN : Nat
  slot0 : Nat
  slotN : Nat
  ring0 : Nat
  ringN : Nat
  table0 : Nat
  tableN : Nat
  steps : Nat
  drovers : BitVec 4
  deriving DecidableEq, Repr

/-- A plant port record (Table 14.28). -/
structure PlantRec where
  ipv6 : Bool
  enabled : Bool
  mac : BitVec 48
  local_ : BitVec 128
  udp : BitVec 16
  resultDst : BitVec 128
  resultUdp : BitVec 16
  telemetryUdp : BitVec 16
  exportUdp : BitVec 16
  telemetryDst : BitVec 128
  exportDst : BitVec 128
  feedSrc : BitVec 128
  peers : List (BitVec 128)
  deriving DecidableEq, Repr

/-- A rein definition (Table 14.30). -/
structure Rein where
  rein : Nat
  ports : List Nat
  peer : BitVec 12
  deriving DecidableEq, Repr

/-- A slot plan entry (Table 12.4) with its rein and direction. -/
structure PlanSlot where
  rein : Nat
  /-- receiving direction rather than sending | 1 bit | 12 R254 | — -/
  receive : Bool
  slot : Nat
  fold : FoldNo
  flow : BitVec 6
  deriving DecidableEq, Repr

/-- The power and thermal settings (Table 17.6). -/
structure PowerSet where
  cap : Nat
  entry : Nat
  exit : Nat
  exitCount : Nat
  lead : Nat
  horizon : Nat
  warming : Bool
  coolant : Nat
  deriving DecidableEq, Repr

/-- The module section as the module reads it from a container. -/
structure ModuleSection where
  version : Nat
  measurement : BitVec 384
  period : Nat
  bellwether : Bool
  n : Nat
  spare : Bool
  startCounts : List Nat
  placement : List (BitVec 12 × BitVec 384)
  nextHop : List (Option Nat)
  reins : List Rein
  plan : List PlanSlot
  allots : List Allot
  ptpPort : Option PlantPort
  ptpDomain : BitVec 8
  telemetryEvery : Nat
  telemetryPorts : BitVec 2
  telemetryList : List Word32
  plant0 : PlantRec
  plant1 : PlantRec
  drain0 : List (FoldNo × Nat)
  drain1 : List (FoldNo × Nat)
  power : PowerSet
  deriving DecidableEq, Repr

/-! ## Folds -/

/-- Fold run states (Table 14.2). -/
inductive RunState where
  | unallotted
  | stopped
  | loading
  | waiting
  | running
  | hurdled
  | fenced
  | refused
  deriving DecidableEq, Repr

/-- Update states (Table 14.12). -/
inductive UpdState where
  | idle
  | downloading
  | downloaded
  | staged
  | activating
  | confirming
  | reverting
  deriving DecidableEq, Repr

/-- A node of a cycle of waits (Table 16.5): core; 0 matrix, 1 currier, 2 drover transfer slot, 3 drover stream; drover × 8
+ slot, or thread; and gate. -/
structure WaitNode where
  core : CoreNo
  kind : Nat
  slot : Nat
  gate : GateNo
  deriving DecidableEq, Repr

/-- One parity buffer of a result frame (R295). -/
structure FrameBuf where
  /-- frame number | 6 bits | 13 R295 | — -/
  frame : Nat
  /-- bytes written in the tick | sparse, default 0 | 13 R295 | — -/
  bytes : List (Nat × Byte)
  /-- bytes written | byte numbers | 13 R295 | — -/
  written : List Nat
  /-- 32 B words with a mark | word numbers | 13 R295 | — -/
  marked : List Nat
  deriving DecidableEq, Repr

/-- An exchange report (Table 12.10) with its sender. -/
structure Report where
  from_ : BitVec 12
  tick : BitVec 48
  thermal : Bool
  degraded : Bool
  matched : Bool
  hurdled : Bool
  staged : Bool
  rowPen : Nat
  pen : Nat
  advances : Word32
  deriving DecidableEq, Repr

/-- An exchange decision (Table 12.11). -/
structure Decision where
  tick : BitVec 48
  pen : Nat
  changes : Bool
  hurdleAll : Bool
  announced : Bool
  switch : Nat
  advances : List Word32
  deriving DecidableEq, Repr

/-- Pen selection state of a fold (R26, R28). -/
structure PenSel where
  /-- pen run in this tick | 0 to 7 | 01 R26 | 0 -/
  pen : Nat
  /-- pen selected for the next tick | 0 to 7 | 01 R26 | 0 DC -/
  next : Nat
  /-- base pen | 0 to 7 | 01 R26 | 0 (R26) -/
  base : Nat
  /-- ticks of the dwell left | 0 to 255 | 01 R28 | 0 -/
  dwell : Nat
  /-- thermal condition | 1 bit | 01 R26 | 0 -/
  thermal : Bool
  /-- consecutive ticks below the exit temperature | count | 17 R400 | 0 -/
  coolTicks : Nat
  /-- thermal condition set by R389, R396, R397 or R406 in this tick | 1 bit | 17 R400 | 0 -/
  forced : Bool
  /-- thermal condition set by an entry temperature and not yet left | 1 bit | 17 R400 | 0 -/
  hot : Bool
  /-- degraded condition | 1 bit | 01 R26 | 0 -/
  degraded : Bool
  /-- degradation bit: link short of lanes | 1 bit | 01 Table 1.5 | 0 -/
  linkShort : Bool
  /-- degradation bit: spare in use | 1 bit | 10 R215 | 0 -/
  spareInUse : Bool
  /-- degradation bit: core clamped | 1 bit | 17 R397 | 0 -/
  clamped : Bool
  /-- first matching row of the last sample | index | 12 R272 | none -/
  matched : Option Nat
  /-- plant code of the last sample | 16 bits | 01 R26 | 0 DC -/
  code : BitVec 16
  deriving DecidableEq, Repr

/-- Recovery state of a fold (ch. 16). -/
structure Recovery where
  /-- hurdle cycle h | cycle | 16 R367 | none -/
  hurdle : Option Nat
  /-- cause: log code | 16 bits | 16 Table 16.6 | 0 -/
  cause : BitVec 16
  /-- cycle nodes of the hang | list | 16 Table 16.5 | empty -/
  nodes : List WaitNode
  /-- capture has ended | 1 bit | 16 R368 | 0 -/
  captured : Bool
  /-- the dump as the fold stood at h + 1 | bytes | 16 R374 | empty -/
  dump : List Byte
  /-- the second dump of overlapping captures holds the header only | 1 bit | 16 R375 | 0 -/
  summary : Bool
  /-- cores on which the walk has not ended | list | 16 R368 | empty -/
  walking : List CoreNo
  /-- cycles by which the walk has paused | cycles | 16 R368 | 0 -/
  paused : Nat
  /-- the walk found a static word that cannot be repaired | 1 bit | 16 R370 | 0 -/
  unrepairable : Bool
  /-- tick number of the last restart | 48 bits | 16 R370 | none -/
  restarted : Option Nat
  /-- waits on a cycle in the last sample, each with the consecutive samples in which it has been on one | list | 16 R365 | empty -/
  lastCycle : List (WaitNode × Nat)
  /-- overrun reported to the crook in this tick | 1 bit | 09 R186 | 0 -/
  overrun : Bool
  /-- hang of the last sample awaiting its hurdle: log code | 16 bits | 16 R367 | none -/
  hang : Option (BitVec 16)
  deriving DecidableEq, Repr

/-- A replay record as the feed has brought it (Table 10.6). -/
structure FeedRec where
  kind : Nat
  port : Nat
  tick : Nat
  arrival : Nat
  payload : List Byte
  deriving DecidableEq, Repr

/-- Replay state of a fold (R220). -/
structure Replay where
  /-- replay mode | 1 bit | 10 R220 | 0 -/
  on : Bool
  /-- Δ | ticks | 10 R220 | 0 DC -/
  delta : Nat
  /-- feed bytes received and not yet part of a whole record: offset and byte, rising | list | 13 R298 | empty -/
  feed : List (Nat × Byte)
  /-- feed offset up to which whole records have been taken | count | 13 R298 | 0 -/
  taken : Nat
  /-- whole records received in time, in their order | list | 10 R220 | empty -/
  queue : List FeedRec
  /-- the first record has fixed Δ | 1 bit | 10 R220 | 0 -/
  begun : Bool
  /-- export records waiting, as bytes | list | 10 R218 | empty -/
  out : List Byte
  /-- stream offset of the next export byte | 64 bits | 13 R298 | 0 -/
  outAt : Nat
  /-- records dropped since the last gap record | count | 10 R218 | 0 -/
  dropped : Nat
  /-- the records of the running tick are complete | 1 bit | 10 R221 | 1 -/
  complete : Bool
  deriving DecidableEq, Repr

/-- One fold of the module. -/
structure Fold where
  /-- run state | 4 bits | 14 Table 14.2 | unallotted -/
  run : RunState
  /-- allotment in the running module section | record | 14 R302 | none -/
  allot : Option Allot
  /-- image loaded | fold section | 14 R309 | none -/
  image : Option FoldImage
  /-- slot of the loaded image, 0 A, 1 B | 1 bit | 14 R329 | 0 DC -/
  slot : Bool
  /-- static data loaded and parity formed | 1 bit | 14 R322 | 0 -/
  loaded : Bool
  /-- every block loaded passed R308 | 1 bit | 14 R322 | 0 DC -/
  blocksOk : Bool
  /-- pen selection | record | 01 R26 | see PenSel -/
  sel : PenSel
  /-- epochs of this member's logical cores | 32 × 16 bits | 12 R269 | 0 (FOLD_EPOCH) -/
  epochs : Vector (BitVec 16) 32
  /-- epoch table of other members: hall module number, core, epoch | list | 12 R270 | empty -/
  peerEpochs : List (BitVec 12 × CoreNo × BitVec 16)
  /-- result frame buffers of even and odd ticks | 2 parities | 13 R295 | empty -/
  bufEven : List FrameBuf
  bufOdd : List FrameBuf
  /-- a drain is due at the next instant (a pen ran in the tick) | 1 bit | 14 R321 | 0 -/
  ran : Bool
  /-- every word of the next drain is marked (hurdle, failed exchange) | 1 bit | 16 Table 16.2 | 0 -/
  markAll : Bool
  /-- last tick whose frames carry the takeover mark | tick number | 10 R215 | none -/
  takeoverUntil : Option Nat
  /-- digest of the last drained tick | 64 bits | 10 R219 | 0 (FOLD_DIGEST) -/
  digest : Word64
  /-- result frames sent, and with a mark, since start | 2 × 64 bits | 13 Table 13.12 | 0 -/
  sent : Nat
  sentMarked : Nat
  /-- recovery | record | 16 | see Recovery -/
  recov : Recovery
  /-- published fold release | 64 bits | 14 R324 | 0 (FOLD_RELEASE) -/
  release : Nat
  /-- published start tick e | 48 bits | 14 R324 | 0 (FOLD_START_TICK) -/
  startTick : Nat
  /-- fold block registers read from other members: module, offset, value | list | 14 R324 | empty -/
  peerRegs : List (BitVec 12 × Nat × Word32)
  /-- first failing condition of R322 | 0 to 5 | 14 R322 | 0 (FOLD_REFUSE_CAUSE) -/
  refuse : Nat
  /-- consecutive ticks refused | count | 16 Table 16.8 | 0 -/
  refusedTicks : Nat
  /-- healthy ticks counted while confirming | 32 bits | 14 R331 | 0 (FOLD_CONFIRM_TICKS) -/
  confirm : Nat
  /-- preload of the candidate complete | 1 bit | 14 R330 | 0 DC -/
  preloaded : Bool
  /-- replay | record | 10 R220 | off -/
  replay : Replay
  /-- debug is on | 1 bit | 15 R355 | 0 (FOLD_DEBUG) -/
  debug : Bool
  /-- exchange reports landed at this shepherd or deputy | list | 12 R273 | empty -/
  reports : List Report
  /-- decisions landed from the shepherd and from the deputy | records | 12 R274 | none -/
  fromShepherd : Option Decision
  fromDeputy : Option Decision
  /-- previous decision made here | record | 12 R273 | none -/
  lastDecision : Option Decision
  /-- landing list entries met or substituted in this tick | positions in the list | 12 R258 | empty -/
  landed : List Nat
  /-- counters of Table 20.12 | 23 × 48 bits | 20 Table 20.12 | 0 -/
  ctrs : Vector Ctr 23
  /-- their snapshots | 23 × 48 bits | 18 R416 | 0 -/
  snaps : Vector Ctr 23
  deriving DecidableEq, Repr

/-! ## Stream ports and plant ports -/

/-- A stream port (R278). -/
structure StPort where
  /-- link up | 1 bit | 13 R278 | 0 (PORT_STATE) -/
  up : Bool
  /-- mode | 2 bits | 19 R434 | KR DC -/
  mode : EthMode
  /-- transmitter on: the fold of the port has started once | 1 bit | 19 Table 19.9 | 0 -/
  enabled : Bool
  /-- port record of the owning fold's image and that fold | record | 13 R278 | none -/
  cfg : Option (FoldNo × StreamRec)
  /-- tick number of the open ingest window | 48 bits | 13 R284 | none -/
  window : Option Nat
  /-- B_k and R_k and τ_0 of the window, fixed by its first line | record | 13 R283 | none -/
  base : Option (Int × Nat × Nat)
  /-- packets accepted in the window | count | 13 Table 13.5 | 0 -/
  accepted : Nat
  /-- packets discarded in the window | count | 13 Table 13.5 | 0 -/
  discarded : Nat
  /-- byte ranges landed in the window: row, offset, length | list | 13 R283 | empty -/
  landed : List (Nat × Nat × Nat)
  /-- next row of the window's buffer to prefill, and the beat of it | row, count | 13 R287 | 0 DC -/
  fill : Nat × Nat
  /-- last process frame accepted in the window | 32 B | 13 Table 13.5 | none -/
  windowFields : Option (List Byte)
  /-- last process frame accepted, for pen selection | 32 B | 13 R289 | none -/
  fields : Option (List Byte)
  /-- process fields as sampled for selection | 32 B | 13 R289 | none -/
  sampled : Option (List Byte)
  /-- last sequence of an Imesk frame | 32 bits | 13 Table 13.2 | none -/
  seq : Option Word32
  /-- sequence gaps counted | count | 13 Table 13.2 | 0 DC -/
  gaps : Nat
  /-- GigE Vision block accepted: block ID and leader timestamp | record | 13 R281 | none -/
  block : Option (Word64 × Nat)
  /-- ARP replies and neighbour advertisements sent | count | 13 R279 | 0 DC -/
  neighbourReplies : Nat
  /-- counters of Table 20.16 | 14 × 48 bits | 20 Table 20.16 | 0 -/
  ctrs : Vector Ctr 14
  /-- their snapshots | 14 × 48 bits | 18 R416 | 0 -/
  snaps : Vector Ctr 14
  deriving DecidableEq, Repr

/-- A plant frame sent (Table 13.7). -/
structure PlantFrame where
  kind : BitVec 8
  tag : BitVec 16
  hallModule : BitVec 12
  number : BitVec 16
  tick : BitVec 48
  pen : Nat
  flags : BitVec 8
  imageId : Word32
  offset : Word64
  /-- cycle of the tick at which it starts serialising -/
  startAt : Nat
  payload : List Byte
  /-- mark map of a result frame -/
  marks : List Byte
  deriving DecidableEq, Repr

/-- A maintenance answer (Tables 15.5, 15.7). -/
structure Answer where
  op : BitVec 8
  status : BitVec 8
  session : BitVec 32
  number : BitVec 32
  target : BitVec 16
  arg : Word64
  body : List Byte
  port : PlantPort
  dst : BitVec 128
  udp : BitVec 16
  deriving DecidableEq, Repr

/-- A plant port (R293). -/
structure PlPort where
  /-- link up | 1 bit | 13 R293 | 0 (PORT_STATE) -/
  up : Bool
  /-- mode | 2 bits | 19 R434 | KR DC -/
  mode : EthMode
  /-- frames sent in the running tick | list | 13 R294 | empty -/
  sent : List PlantFrame
  /-- maintenance answers that wait for capacity outside the drain, oldest first | list | 15 R356 | empty -/
  answers : List Answer
  /-- frame numbers of telemetry, export and maintenance frames | 3 × 16 bits | 13 Table 13.7 | 0 -/
  numTelemetry : BitVec 16
  numExport : BitVec 16
  numMaint : BitVec 16
  /-- ARP replies and neighbour advertisements sent | count | 13 R279 | 0 DC -/
  neighbourReplies : Nat
  /-- counters of Table 20.16 | 6 × 48 bits | 20 Table 20.16 | 0 -/
  ctrs : Vector Ctr 6
  /-- their snapshots | 6 × 48 bits | 18 R416 | 0 -/
  snaps : Vector Ctr 6
  deriving DecidableEq, Repr

/-! ## Fabric ports -/

/-- Link states (Table 11.7). -/
inductive LinkState where
  | down
  | acquire
  | align
  | hello
  | key
  | verify
  | up
  | unpaired
  deriving DecidableEq, Repr

/-- Lane states (Table 20.15). -/
inductive LaneState where
  | noSignal
  | training
  | active
  | usable
  | lost
  deriving DecidableEq, Repr

/-- A slot slice delivered by a lane (R228). -/
structure SliceRx where
  /-- delivery cycle of the first slot of the unit | cycle | 11 R229 | — -/
  at_ : Nat
  /-- active mask of the frame | 8 bits | 11 R232 | — -/
  mask : BitVec 8
  /-- lane and unit | — | 11 Table 11.2 | — -/
  lane : LaneNo
  unit : Nat
  /-- plaintext of the unit's slots, none for zeros marked bad | 800 B | 11 R228 | — -/
  bytes : Option (List Byte)
  deriving DecidableEq, Repr

/-- A training frame sent (Table 11.10): its lane pattern follows from its length and its lane. -/
structure TrainFrame where
  /-- header | 16 B | 11 Table 11.3 | — -/
  header : LaneHeader
  /-- hello in clear | 128 B | 11 Table 11.6 | — -/
  hello : Hello
  /-- pairing offer | 352 B | 15 Table 15.4 | — -/
  offer : PairingOffer
  /-- fill of the traffic frame of the same slot frame | 164 or 165 B | 11 R225 | — -/
  fill : Nat
  deriving DecidableEq, Repr

/-- A fabric port CU0 to CU15, OP0 to OP7 (R222). -/
structure FabPort where
  /-- link state | 4 bits | 11 Table 11.7 | Down (Table 20.13) -/
  state : LinkState
  /-- lane states | 8 × 4 bits | 20 Table 20.15 | no signal -/
  lanes : Vector LaneState 8
  /-- receivers with signal | 8 bits | 11 Table 11.6 | 0 -/
  sig : BitVec 8
  /-- send active mask | 8 bits | 11 Table 11.3 | 0 -/
  txActive : BitVec 8
  /-- receive active mask | 8 bits | 11 Table 11.3 | 0 -/
  rxActive : BitVec 8
  /-- receive mask with which the port was last Up: the lanes whose slices it owes while it is down | 8 bits | 11 R234 | 0 -/
  owed : BitVec 8
  /-- request mask sent to the peer | 8 bits | 11 R232 | 0 DC -/
  request : BitVec 8
  /-- request mask last accepted from the peer | 8 bits | 11 R232 | 0 DC -/
  peerRequest : BitVec 8
  /-- announced mask | 8 bits | 11 R232 | 0 DC -/
  announced : BitVec 8
  /-- countdown | 0 to 3 | 11 R232 | 0 -/
  countdown : Nat
  /-- frame counter of this end | 64 bits | 11 R226 | 0 -/
  counter : BitVec 64
  /-- link protocol revision agreed | 4 bits | 11 R247 | 0 -/
  revision : BitVec 8
  /-- peer's clear hello, once Up its authenticated one | record | 11 R235 | none -/
  peer : Option Hello
  /-- peer's authenticated hello of the Verify state | record | 11 Table 11.7 | none -/
  authHello : Option Hello
  /-- transmit cycle of the last peer hello received | 32 bits | 11 Table 11.6 | none -/
  heard : Option (BitVec 32)
  /-- one-way latencies measured in this training | up to 16 cycle counts | 11 R237 | empty -/
  latencies : List Nat
  /-- cycle at which the peer placed the first slot of a frame, and that frame's counter | record | 11 R229 | none -/
  anchor : Option (Nat × BitVec 64)
  /-- peer's pairing offer | record | 15 R352 | none -/
  offer : Option PairingOffer
  /-- peer's authenticated lane report | 16 B | 11 Table 11.4 | empty -/
  peerLanes : List Byte
  /-- own session nonce | 256 bits | 11 R227 | 0 -/
  nonce : BitVec 256
  /-- direction keys: sending and receiving | 2 × 256 bits | 11 R227 | none -/
  txKey : Option (BitVec 256)
  rxKey : Option (BitVec 256)
  /-- largest one-way latency | cycles | 11 R237 | 0 (PORT_LATENCY) -/
  latency : Nat
  /-- receive delay | cycles | 11 R229 | 0 (PORT_RX_DELAY) -/
  rxDelay : Nat
  /-- peer last joined while a fold ran: fingerprint and port | record | 11 R241 | none -/
  joined : Option (BitVec 384 × BitVec 8)
  /-- rejoin waits for the next tick instant | 1 bit | 11 R241 | 0 -/
  rejoin : Bool
  /-- the port's slices belong to running plans | 1 bit | 11 R240 | 0 -/
  inPlan : Bool
  /-- CU15 stands in for this port of the rein | port index | 11 R245 | none -/
  standIn : Option Nat
  /-- cycle of entry to the training state | cycle | 11 Table 11.7 | 0 DC -/
  since : Nat
  /-- equaliser coefficients stored | 1 bit | 11 Table 11.7 | 0 -/
  stored : Bool
  /-- the port is to be taken down at its next frame boundary | 1 bit | 11 R234 | 0 -/
  goDown : Bool
  /-- uncorrectable codewords of each lane: cycles within the last 2^20 | 8 lists | 11 R231 | empty -/
  uncorr : Vector (List Nat) 8
  /-- cycle since which a lost lane has had no uncorrectable codeword | 8 cycles | 11 R231 | 0 -/
  cleanSince : Vector Nat 8
  /-- frame counters of the authentication failures of the last 2^20 slot frames | list | 11 R228 | empty -/
  authFails : List Nat
  /-- slices received and not yet delivered | list | 11 R229 | empty -/
  rx : List SliceRx
  /-- slices delivered in the last cycle: lane, 100 bits as half-bytes, bad mark | list | 11 R229, R234 | empty -/
  slot : List (LaneNo × List Byte × Bool)
  /-- lane frames sent at the last frame boundary, one per lane | list | 11 R225 | empty -/
  txFrames : List LaneFrame
  /-- training frames sent at the last frame boundary, one per lane with signal | list | 11 R236 | empty -/
  txTraining : List TrainFrame
  /-- own hello as last sent | record | 11 R235 | none -/
  ownHello : Option Hello
  /-- cycle at which the peer's last hello arrived | cycle | 11 Table 11.6 | 0 DC -/
  helloAt : Nat
  /-- training frames sent since the training began | count | 11 R236 | 0 -/
  trainFrames : Nat
  /-- counters of Table 20.16 | 13 × 48 bits | 20 Table 20.16 | 0 -/
  ctrs : Vector Ctr 13
  /-- their snapshots | 13 × 48 bits | 18 R416 | 0 -/
  snaps : Vector Ctr 13
  deriving DecidableEq, Repr

/-! ## Hall memory -/

/-- A scheduled packet sent: cycle ready at the port, and the packet. -/
structure SchedTx where
  ready : Nat
  rein : Nat
  pkt : SchedPacket
  /-- fold and flow whose slots it takes -/
  fold : FoldNo
  flow : Nat
  /-- bytes already placed in slots -/
  placed : Nat
  deriving DecidableEq, Repr

/-- A mail write held for the reserve (R266), or a gather row held for it (R267). -/
structure HeldMail where
  /-- tick of arrival | tick number | 12 R266 | — -/
  tick : Nat
  /-- target fold | 5 bits | 12 R266 | — -/
  fold : FoldNo
  /-- first tick in whose reserve it may be written | tick number | 12 R267 | — -/
  due : Nat
  /-- the message | message | 12 R264 | — -/
  msg : MailMsg
  deriving DecidableEq, Repr

/-- A gather request sent by mail and not yet written (R267). -/
structure MailGather where
  number : BitVec 32
  fold : FoldNo
  target : CoreNo
  addr : Word64
  len : Nat
  due : Nat
  deriving DecidableEq, Repr

/-- Hall memory state of the module (ch. 12). -/
structure Hall where
  /-- scheduled packets on their way out | list | 12 R255 | empty -/
  tx : List SchedTx
  /-- scheduled packets held until their stamps: absolute landing cycle, sending module and packet | list | 12 R255 | empty -/
  held : List (Nat × BitVec 12 × SchedPacket)
  /-- mail queues of the reins, oldest first | 12 × 1 MiB | 12 R263 | empty -/
  queues : Vector (List MailMsg) 12
  /-- half-bytes of the message of each rein that is partly sent | 12 lists | 12 R263 | empty -/
  mailLeft : Vector (List Byte) 12
  /-- parts of the rein frames not yet sent: member port and 1,024 slots of half-bytes | 12 lists | 11 R244 | empty -/
  frames : Vector (List (Nat × List (List Byte))) 12
  /-- mail writes held | list, 16 MiB | 12 R266 | empty -/
  writes : List HeldMail
  /-- gather requests admitted for the mail service window, in order: landing cycle, fold and message | list | 12 R267 | empty -/
  gathers : List (Nat × FoldNo × MailMsg)
  /-- gather requests of this module outstanding | list | 12 R267 | empty -/
  asked : List MailGather
  /-- mail epoch cache: module, core, epoch | 256 entries | 12 R270 | empty -/
  cache : List (BitVec 12 × CoreNo × BitVec 16)
  /-- number of the next message | 32 bits | 12 Table 12.8 | 0 DC -/
  number : BitVec 32
  /-- witness records received are kept for later sending | at most 64 | 16 R383 | empty -/
  witnessPending : List (List Byte)
  deriving DecidableEq, Repr

/-! ## Trust and presence -/

/-- Life cycle states (Table 15.1). -/
inductive Life where
  | test
  | shipped
  | branded
  | brandLost
  deriving DecidableEq, Repr

/-- Presence inputs and window (R346 to R351). -/
structure Presence where
  /-- confirmed levels of BRIDLE_A, BRIDLE_B: pressed | 2 bits | 15 Table 15.3 | released DC -/
  bridleA : Bool
  bridleB : Bool
  /-- press in progress: first channel and stamp t1 | record | 15 R347 | none -/
  press : Option (Chan × Nat)
  /-- the press in progress has been judged valid | 1 bit | 15 R347 | 0 -/
  pressed : Bool
  /-- first release of a valid press: channel and stamp | record | 15 R347 | none -/
  released : Option (Chan × Nat)
  /-- last confirmed release stamps of A and B | µs | 15 R347 | none -/
  relA : Option Nat
  relB : Option Nat
  /-- discrepancy fault latched | 1 bit | 15 R347 | 0 -/
  discrepancy : Bool
  /-- confirmed seal loop state open | 1 bit | 15 R346 | closed DC -/
  sealOpen : Bool
  /-- TACK_LOCK confirmed fitted | 1 bit | 15 R350 | absent DC -/
  tackLock : Bool
  /-- tack lock fuse blown | fuse | 15 R350 | intact -/
  fuse : Bool
  /-- open window: µs at which it closes | µs | 15 R348 | none -/
  window : Option Nat
  /-- the window was opened by a flock notice | 1 bit | 15 R351 | 0 -/
  byNotice : Bool
  /-- windows opened, seal loop openings since branding | 2 × 64 bits | 15 Table 15.8 | 0 -/
  windows : Nat
  openings : Nat
  deriving DecidableEq, Repr

/-- The maintenance session and what it has in progress (R357). -/
structure Session where
  /-- session open: its number | 32 bits | 15 R357 | none -/
  num : Option (BitVec 32)
  /-- cycle of the last request | cycle | 15 R357 | 0 DC -/
  last : Nat
  /-- download this session began: target and container length | 16 + 64 bits | 15 R357 | none -/
  download : Option (BitVec 16 × Nat)
  /-- answers to the last 64 request numbers, newest first | list | 15 R357 | empty -/
  answers : List Answer
  /-- answers sent in this tick | list | 15 R356 | empty -/
  sent : List Answer
  /-- long operation in progress: the request | record | 15 R356 | none -/
  busy : Option MaintReq
  /-- requests that the next reserve serves: attestations and debug reads, oldest first | list | 15 R355, R358 | empty -/
  reads : List MaintReq
  /-- open request waiting on the entropy source, and since when | record | 15 R359 | none -/
  waiting : Option (MaintReq × Nat)
  deriving DecidableEq, Repr

/-- Fuses, identity and entropy (R341 to R355). -/
structure Trust where
  /-- life cycle state | fuses | 15 Table 15.1 | shipped DC -/
  life : Life
  /-- fused brand fingerprint | 384 bits | 15 R342 | 0 (not fused) -/
  fingerprint : BitVec 384
  /-- fused s XOR p | 384 bits | 15 R342 | 0 (not fused) -/
  masked : BitVec 384
  /-- root secret K_root in the key block | 384 bits | 15 R342 | none -/
  root : Option (BitVec 384)
  /-- pairing generation fuses blown | 0 to 15 | 15 R353 | 0 -/
  generation : Nat
  /-- debug fuses blown per fold | 32 × 0 to 16 | 15 R355 | 0 -/
  debugCount : Vector Nat 32
  /-- fold key erased by debug | 32 bits | 15 R355 | 0 -/
  keyErased : Vector Bool 32
  /-- firmware and boot stage bound | 1 bit | 15 R345 | 0 -/
  bound : Bool
  /-- measurements of boot stage copies 0 and 1 and firmware regions F0 and F1 in NOR | 4 × 384 bits | 15 R345 | 0 DC -/
  romMeas : Vector (BitVec 384) 4
  /-- their trailers' acceptance codes | 4 × 384 bits | 15 R344 | 0 -/
  romCode : Vector (BitVec 384) 4
  /-- boot stage copy in use, 0 or 1 | 1 bit | 14 Table 14.12a | 0 DC -/
  bootCopy : Bool
  /-- entropy source has failed a health test | 1 bit | 15 R341 | 0 -/
  entropyFailed : Bool
  /-- draws made | count | 15 R341 | 0 DC (4) -/
  draws : Nat
  /-- key change waits for the next tick instant | 1 bit | 15 R353 | 0 -/
  retrain : Bool
  /-- presence | record | 15 R346 | see Presence -/
  pres : Presence
  /-- session | record | 15 R357 | none -/
  sess : Session
  deriving DecidableEq, Repr

/-! ## Tack store -/

/-- A slot entry of the tack record (Table 14.11). -/
structure TackEntry where
  state : UpdState
  /-- active slot: none, or 0 A, 1 B -/
  active : Option Bool
  attempts : Nat
  held : Bool
  onRequest : Bool
  preload : Bool
  switch : Nat
  confirm : Nat
  version : Nat
  otherVersion : Nat
  meas : BitVec 384
  other : BitVec 384
  deriving DecidableEq, Repr

/-- An idle entry with nothing bound. -/
def TackEntry.zero : TackEntry :=
  { state := .idle, active := none, attempts := 0, held := false, onRequest := false, preload := false,
    switch := 0, confirm := 0, version := 0, otherVersion := 0, meas := 0, other := 0 }

/-- Firmware states (Table 14.10). -/
inductive FwState where
  | idle
  | f1Updating
  | handedOver
  | f0Updating
  deriving DecidableEq, Repr

/-- A tack record (Table 14.10). -/
structure TackRec where
  seq : Nat
  fw : FwState
  single : Bool
  step0 : Bool
  step1 : Bool
  retired : Word32
  entries : Vector TackEntry 33
  deriving DecidableEq, Repr

/-- Which image slot: an entry 0 to 32 of the tack record, 33 firmware or 34 boot stage; and slot A (F0) or B (F1). -/
abbrev SlotKey := Nat × Bool

/-- The content of an image slot (R317). -/
structure Slot where
  /-- bytes of the container, sparse with default 0 | — | 14 R317 | — -/
  bytes : List (Nat × Byte)
  /-- container length given at the start of the download | bytes | 14 R327 | — -/
  len : Nat
  /-- every extent and the directory are written and flushed | 1 bit | 14 R317 | — -/
  written : Bool
  /-- trailer: acceptance code | 48 B | 14 R309 | — -/
  trailer : Option (BitVec 384)
  deriving DecidableEq, Repr

/-- An SSD position (R436). -/
structure Ssd where
  /-- present and not lost | 1 bit | 19 R436 | 0 -/
  present : Bool
  /-- link width and rate | 3 + 3 bits | 19 R435 | 0 (MOD_STORE) -/
  width : BitVec 3
  rate : BitVec 3
  /-- SSDn_PERST_N level (high: released) | 1 bit | 19 R436 | low -/
  perst : Bool
  /-- brand fingerprint in the store header | 384 bits | 14 Table 14.9 | 0 DC -/
  fingerprint : BitVec 384
  /-- resynchronisation runs in the background | 1 bit | 14 Table 14.17 | 0 -/
  resync : Bool
  /-- log mirror is current | 1 bit | 16 R378 | 0 (TALLY_MIRROR) -/
  mirror : Bool
  deriving DecidableEq, Repr

/-- A fetch of a container from flock peers (R338). -/
structure Fetch where
  /-- slot for which it is fetched | slot | 14 R338 | — -/
  key : SlotKey
  /-- measurement asked for | 384 bits | 14 R338 | — -/
  meas : BitVec 384
  /-- offset of the next block to ask for | bytes | 14 R338 | — -/
  at_ : Nat
  /-- slot of the flock peer that is asked | 4 bits | 14 R338 | — -/
  peer : Nat
  deriving DecidableEq, Repr

/-- Tack store (ch. 14): NOR records and SSDs. -/
structure Store where
  /-- valid tack record in force | 8 KiB | 14 R318 | none -/
  record : Option TackRec
  /-- its authentication code, bytes 8,128 to 8,175 | 48 B | 15 R344 | 0 (no record) -/
  recordCode : BitVec 384
  /-- records of regions X and Y: highest sequence and positions used | 2 regions | 14 R319 | empty -/
  usedX : Nat
  usedY : Nat
  /-- the record in force lies in region Y | 1 bit | 14 R319 | 0 DC -/
  inY : Bool
  /-- record commits requested and not yet complete, in order | list | 14 R319 | empty -/
  commits : List TackRec
  /-- image slots as the SSDs in step hold them | list | 14 R317 | empty -/
  slots : List (SlotKey × Slot)
  /-- SSDs | 2 | 14 R316 | absent -/
  ssds : Vector Ssd 2
  /-- dump area: slot number and dump | 8,128 slots | 16 R375 | empty -/
  dumps : List (Nat × Nat × List Byte)
  /-- blocks fetched from peers: measurement, offset, bytes | list | 14 R338 | empty -/
  fetched : List (BitVec 384 × Nat × List Byte)
  /-- fetch in progress | Fetch | 14 R338 | none -/
  fetch : Option Fetch
  deriving DecidableEq, Repr

/-! ## Log, supervisors, power and the module -/

/-- A tally log entry (Table 16.7). -/
structure LogEntry where
  seq : Nat
  tick : BitVec 48
  cycle : Nat
  code : BitVec 16
  fold : Option FoldNo
  lcore : Option CoreNo
  pcore : Option CoreNo
  debug : Bool
  coalesced : Bool
  count : Nat
  detail : List Byte
  tag : BitVec 128
  deriving DecidableEq, Repr

/-- The tally log (R376 to R380). -/
structure TallyLog where
  /-- entries staged in supervisor memory | at most 4,096 | 16 R376 | empty -/
  staged : List LogEntry
  /-- sequence of the next entry written | 64 bits | 16 Table 16.7 | 0 DC -/
  seq : Nat
  /-- entries lost and not yet reported | count | 16 R376 | 0 -/
  lost : Nat
  /-- entries in the NOR ring, oldest first, with their byte position | ring | 16 R376 | empty -/
  ring : List (Nat × LogEntry)
  /-- byte offset in the ring of the next entry | 26 bits | 20 Table 20.17 | 0 DC -/
  pos : Nat
  /-- sectors marked unusable | list of 256 | 16 R380 | empty -/
  badSectors : List Nat
  /-- tally fuses blown | 0 to 256 | 16 R380 | 0 -/
  fuses : Nat
  /-- tick of the first log memory failure | 48 bits | 20 Table 20.3 | 0 -/
  failTick : Nat
  /-- log memory failure since the last log clear | 1 bit | 16 R380 | 0 -/
  failed : Bool
  /-- chain digest at the last entry written | 384 bits | 16 R378 | 0 DC -/
  digest : BitVec 384
  /-- mirror content: highest sequence copied | 64 bits | 16 R378 | 0 DC -/
  mirrorSeq : Nat
  /-- a witness record is due at once | 1 bit | 16 R380 | 0 -/
  witnessDue : Bool
  /-- first sequence not yet covered by a witness record | 64 bits | 16 R378 | 0 DC -/
  witnessFrom : Nat
  deriving DecidableEq, Repr

/-- States of a supervisor (Table 20.8). -/
inductive SupState where
  | active
  | standby
  | restarting
  | outOfService
  deriving DecidableEq, Repr

/-- A Ralleryn supervisor (R364). -/
structure Supervisor where
  /-- state | 2 bits | 20 Table 20.8 | restarting (Table 20.8: 0x2) -/
  state : SupState
  /-- ticks of its restarts within the last 2^20 | list | 16 R364 | empty -/
  restarts : List Nat
  /-- booted region, 0 F0, 1 F1 | 1 bit | 14 R315 | 0 -/
  region : Bool
  /-- measurement of the running firmware | 384 bits | 20 Table 20.8 | 0 -/
  meas : BitVec 384
  /-- reserve confirmations missed since boot | 32 bits | 20 Table 20.8 | 0 -/
  misses : Nat
  deriving DecidableEq, Repr

/-- Power of the module (ch. 17, ch. 19). -/
structure Power where
  /-- rails are up and power-good is declared | 1 bit | 17 R386 | 0 -/
  good : Bool
  /-- rails are being brought up | 1 bit | 17 R386 | 0 -/
  sequencing : Bool
  /-- cycle of power-good | cycle | 14 R320 | 0 DC -/
  goodAt : Nat
  /-- boot step reached | 0 to 10 | 14 Table 14.12a | 0 -/
  bootStep : Nat
  /-- package trip: boots only after power is removed and restored | 1 bit | 17 R402 | 0 -/
  packageTrip : Bool
  /-- run-time power cap, W | 16 bits | 17 R385 | 1,750 (Table 20.3) -/
  cap : Nat
  /-- units lost: bricks, PKG_1V8 phases, VNET phases, VIO phases, VOPT phases | counts | 17 R385 | 0 -/
  lostBricks : Nat
  lost1v8 : Nat
  lostNet : Nat
  lostIo : Nat
  lostOpt : Nat
  /-- VSTK phases lost per stack | 8 counts | 17 R385 | 0 -/
  lostStk : Vector Nat 8
  /-- input power of the last sample, 0.1 W, and voltage, mV | 2 × 32 bits | 17 R389 | 0 (Table 20.3) -/
  watts : Nat
  mv : Nat
  /-- sums of the running 10 ms mean: start cycle, sum, samples | record | 17 R389 | 0 -/
  meanFrom : Nat
  meanSum : Nat
  meanN : Nat
  /-- sums of the samples of the running tick: power, voltage, number | 3 counts | 20 Table 20.3 | 0 -/
  tickWatts : Nat
  tickMv : Nat
  tickN : Nat
  /-- the last 10 ms mean exceeded the cap | 1 bit | 17 R389 | 0 -/
  overCap : Bool
  /-- cycles of junction trips per base die within the last second | list | 17 R402 | empty -/
  trips : List (Fin 8 × Nat)
  /-- die clamps of R397 | 8 bits | 17 R397 | 0 -/
  clampDie : Vector Bool 8
  /-- largest |φ| at each die's crossings over the tick, ps | 8 values | 20 Table 20.9 | 0 -/
  phi : Vector Nat 8
  /-- coolant inlet and outlet, 0.25 °C | 2 × 16 bits | 17 R398 | 0 (Table 20.3) -/
  inlet : Int
  outlet : Int
  /-- highest junction of the tick, 0.25 °C | 16 bits | 20 Table 20.3 | 0 -/
  tjMax : Int
  /-- estimated flow, mL/min | 32 bits | 17 R399 | 0 (Table 20.3) -/
  flow : Nat
  /-- coolant alarm standing | 1 bit | 17 R399 | 0 -/
  alarm : Bool
  /-- REFCLK lost: cycle of detection | cycle | 19 R430 | none -/
  refLost : Option Nat
  /-- the 500 ms limit of clock holdover has passed | 1 bit | 19 R430 | 0 -/
  refExpired : Bool
  deriving DecidableEq, Repr

/-- A spare rebuild chain (R213). -/
structure Rebuild where
  /-- instant T1 | cycle | 10 R212 | — -/
  t1 : Nat
  /-- logical core and its fleece member | record | 10 R212 | — -/
  logical : CoreNo
  /-- physical core of the spare | 5 bits | 10 R212 | — -/
  spare : CoreNo
  /-- static regions still to write, in order: logical offset and number of 256 B units | list | 10 R213 | — -/
  units : List (Nat × Nat)
  /-- units written | count | 10 R213 | — -/
  done : Nat
  /-- units of the first s regions | count | 10 R214 | — -/
  startUnits : Nat
  /-- units lost | count | 10 Table 10.4 | — -/
  losses : Nat
  /-- a second core was lost: units are written poisoned | 1 bit | 10 Table 10.4 | — -/
  poisoned : Bool
  deriving DecidableEq, Repr

/-- A _HI register latched by a read of its _LO (R418, R447): address and value. -/
abbrev Latch := Word32 × Word32

/-- The state of the module. -/
structure State where
  /-- core cycles since input was applied; the clock of the model (DESIGN CHOICE, assumption 1) | count | 00 R1 | 0 DC -/
  now : Nat
  /-- grade F rather than E | fuse | 00 R2 | F DC (5) -/
  gradeF : Bool
  /-- enabled physical cores | 32 fuses | 00 R2 | all ones DC (5) -/
  enabled : Word32
  /-- running module section | section | 14 R302 | none -/
  sec? : Option ModuleSection
  /-- own hall module number, when placed | 12 bits | 11 R237 | none (MOD_HALL_MODULE) -/
  place : Option (BitVec 12)
  /-- tick | record | 01 | see Tick -/
  tick : Tick
  /-- 1588 receiver | record | 13 R292 | see Ptp -/
  ptp : Ptp
  /-- physical cores P0 to P31 | 32 cores | 05 R87 | see Core -/
  cores : Vector Core 32
  /-- folds 0 to 31 | 32 folds | 14 R302 | unallotted -/
  folds : Vector Fold 32
  /-- stream ports | 16 | 13 R278 | down -/
  st : Vector StPort 16
  /-- plant ports | 2 | 13 R293 | down -/
  pl : Vector PlPort 2
  /-- fabric ports | 24 | 11 R222 | Down -/
  fab : Vector FabPort 24
  /-- hall memory | record | 12 | see Hall -/
  hall : Hall
  /-- trust and presence | record | 15 | see Trust -/
  trust : Trust
  /-- tack store | record | 14 | see Store -/
  store : Store
  /-- tally log | record | 16 R376 | see TallyLog -/
  log : TallyLog
  /-- supervisors A and B | 2 | 16 R364 | see Supervisor -/
  supA : Supervisor
  supB : Supervisor
  /-- power | record | 17 | see Power -/
  power : Power
  /-- rebuild chain in progress | record | 10 R213 | none -/
  rebuild : Option Rebuild
  /-- crash dumps captured and not yet written: fold and content | list | 16 R374 | empty -/
  captures : List (FoldNo × Nat × List Byte)
  /-- number of the next dump | 32 bits | 16 Table 16.5 | 0 DC -/
  dumpNo : Nat
  /-- module counters of Table 20.7 | 12 × 48 bits | 20 Table 20.7 | 0 -/
  ctrs : Vector Ctr 12
  /-- their snapshots | 12 × 48 bits | 18 R416 | 0 -/
  snaps : Vector Ctr 12
  /-- MOD_USER_TAG0 to 15 | 16 × 32 bits | 20 Table 20.3 | 0 -/
  userTags : Vector Word32 16
  /-- kind R registers as last sampled, by address, those that read 0 left out | list | 20 R445, R446 | Reset columns -/
  sample : List (Nat × Word32)
  /-- telemetry payload sampled in the last reserve | bytes | 13 R297 | empty -/
  telemetry : List Byte
  /-- _HI registers latched | list | 20 R447 | empty -/
  latches : List Latch
  /-- I3C dynamic address | 7 bits | 19 R431 | none -/
  i3c : Option (BitVec 7 × BitVec 48)
  /-- last I3C write was NACKed | 1 bit | 19 R431 | 0 DC -/
  nack : Bool
  /-- free values drawn so far: the model's own counter, not the spec's (DESIGN CHOICE, assumption 4) | count | 08 R149 | 0 DC (4) -/
  free : Nat
  /-- commands waiting, first in first out | list | the block's queue | empty -/
  pending : List Instr
  deriving DecidableEq, Repr

/-- Faults of the model: none of the spec's events stops the module (R371), so the one constructor says what
a step would raise if the block could stop. No command raises it. -/
inductive Fault where
  /-- The module as a whole has stopped. Raised by nothing: R371 says the module never resets as a whole
  because of a fault of any fold, core, link or store. Safe. -/
  | moduleStopped
  deriving DecidableEq, Repr

/-- Refusals of the model. -/
inductive Refusal where
  /-- The command has no meaning yet. Raised by exec's arms alone. Safe. -/
  | notModelled (mnemonic : String)
  deriving DecidableEq, Repr

/-! ## Reset values -/

/-- An accumulator of zeros. -/
def Accum.reset : Accum := { entries := [], sides := [], rows := [], slots := [] }

/-- A set that holds no format and zeros marked bad (R451). -/
def WeightSet.reset : WeightSet :=
  { fmt := none, cells := [], background := true, trailer := [], trailerBad := false, record := 0,
    conflict := false, loadStart := 0, landed := [] }

/-- The currier before anything is loaded. -/
def Currier.reset : Currier :=
  { regs := Vector.replicate 32 [], fmts := Vector.replicate 32 .raw, recs := Vector.replicate 32 0,
    quires := Vector.replicate 128 LaneQuire.zero, tables := [], micro := [], results := [], addends := [], extreme := none, loads := [],
    strays := [], sec? := none, threads := Vector.replicate 8 Stream.reset, loadUntil := 0,
    newTables := [], newMicro := [], emptyRow := false }

/-- Default selections of Table 18.4: enable, clear on snapshot, mode and event. -/
def defaultSel : Vector Word32 8 :=
  #v[0xA0000001, 0xE0000003, 0xA0000006, 0xE0000009, 0xA0000010, 0xA0000011, 0xA0000021, 0xA000000A]

/-- A counter with a given selection. -/
def Tally.of (w : Word32) : Tally :=
  { sel := w, selNext := none, ctr := Ctr.zero, prev := false, levelAt := none, snap := Ctr.zero }

/-- Supply before power-up. -/
def Supply.reset : Supply :=
  { on := false, code := 60, plan := 60, floor := 0, own := 60, margin := 0, minMargin := none, tj := 0,
    tjMax := 0, stackMax := 0, warming := false, plans := [], handover := none, copy := none,
    rings := Vector.replicate 4 0 }

/-- Pasture with nothing listed. -/
def Pasture.reset : Pasture := { cells := [], poison := [], flips := [], recent := [], broken := [] }

/-- A core before boot. -/
def Core.reset : Core :=
  { mode := .idle, logical := 0, member := 0, parity := none, planned := false, fault := none, cause := none,
    isolated := false, absent := false, faultTicks := [], acc := Accum.reset, setX := WeightSet.reset, setY := WeightSet.reset,
    feeder := [], passes := [], wroteBack := none, origins := [], walks := [], matrix := Stream.reset, cstream := Stream.reset,
    dstream := Stream.reset, clears := [], currier := Currier.reset,
    drovers := Vector.replicate 4 (Vector.replicate 8 DStream.reset),
    rings := Vector.replicate 32 { reg := 0, started := 0 }, gates := Vector.replicate 64 { queue := [], freed := [] },
    arrivals := [], writeBeats := [], dbufs := Vector.replicate 4 [], sends := [], recvs := [], portBeats := [],
    ringsToReset := [], emptyFeeder := false, gather := [], rowsTaken := (0, 0), scrubRow := 0, scrubbed := none,
    delivered := none,
    pasture := Pasture.reset, tensors := [], lastGrant := none, cycles := 0, tally := defaultSel.map Tally.of,
    supply := Supply.reset }

/-- The tick before any word. -/
def Tick.reset : Tick :=
  { chA := none, chB := none, predicting := false, number := 0, code := 0, lastCode := 0, instant := 0,
    agree := 0, lock := false, holdover := false, holdoverTick := false, relock := false,
    inReserve := false, correction := 0, loop := none, outAt := none, outWord := 0, placed := none,
    placedNumber := 0, heartbeat := false, healthy := false, confirmed := false, drained := false, case := 1 }

/-- The 1588 receiver before any message. -/
def Ptp.reset : Ptp :=
  { best := none, syncAt := none, pending := none, time := none, delay := 0, delayReq := none, seq := 0,
    lost := false, pps := none }

/-- Selection before any start. -/
def PenSel.reset : PenSel :=
  { pen := 0, next := 0, base := 0, dwell := 0, thermal := false, coolTicks := 0, forced := false, hot := false,
    degraded := false, linkShort := false, spareInUse := false, clamped := false, matched := none, code := 0 }

/-- Nothing to recover. -/
def Recovery.reset : Recovery :=
  { hurdle := none, cause := 0, nodes := [], captured := false, dump := [], summary := false, walking := [],
    paused := 0, unrepairable := false, restarted := none, lastCycle := [], overrun := false, hang := none }

/-- Replay off. -/
def Replay.reset : Replay :=
  { on := false, delta := 0, feed := [], taken := 0, queue := [], begun := false, out := [], outAt := 0, dropped := 0, complete := true }

/-- An unallotted fold. -/
def Fold.reset : Fold :=
  { run := .unallotted, allot := none, image := none, slot := false, loaded := false, blocksOk := false,
    sel := PenSel.reset, epochs := Vector.replicate 32 0, peerEpochs := [], bufEven := [], bufOdd := [],
    ran := false, markAll := false, takeoverUntil := none, digest := 0, sent := 0, sentMarked := 0,
    recov := Recovery.reset, release := 0, startTick := 0, peerRegs := [], refuse := 0, refusedTicks := 0,
    confirm := 0, preloaded := false, replay := Replay.reset, debug := false, reports := [],
    fromShepherd := none, fromDeputy := none, lastDecision := none, landed := [],
    ctrs := Vector.replicate 23 Ctr.zero, snaps := Vector.replicate 23 Ctr.zero }

/-- A stream port with its link down. -/
def StPort.reset : StPort :=
  { up := false, mode := .kr, enabled := false, cfg := none, window := none, base := none, accepted := 0,
    discarded := 0, landed := [], fill := (0, 0), windowFields := none, fields := none, sampled := none, seq := none,
    gaps := 0, block := none, neighbourReplies := 0, ctrs := Vector.replicate 14 Ctr.zero, snaps := Vector.replicate 14 Ctr.zero }

/-- A plant port with its link down. -/
def PlPort.reset : PlPort :=
  { up := false, mode := .kr, sent := [], answers := [], numTelemetry := 0, numExport := 0, numMaint := 0,
    neighbourReplies := 0, ctrs := Vector.replicate 6 Ctr.zero, snaps := Vector.replicate 6 Ctr.zero }

/-- A fabric port that is Down. -/
def FabPort.reset : FabPort :=
  { state := .down, lanes := Vector.replicate 8 .noSignal, sig := 0, txActive := 0, rxActive := 0, owed := 0, request := 0,
    peerRequest := 0, announced := 0, countdown := 0, counter := 0, revision := 0, peer := none, authHello := none,
    heard := none, latencies := [], anchor := none, offer := none,
    peerLanes := [], nonce := 0, txKey := none, rxKey := none, latency := 0, rxDelay := 0, joined := none,
    rejoin := false, inPlan := false, standIn := none, since := 0, stored := false,
    goDown := false, uncorr := Vector.replicate 8 [], cleanSince := Vector.replicate 8 0, authFails := [],
    rx := [], slot := [], txFrames := [], txTraining := [], ownHello := none, helloAt := 0, trainFrames := 0, ctrs := Vector.replicate 13 Ctr.zero,
    snaps := Vector.replicate 13 Ctr.zero }

/-- No traffic. -/
def Hall.reset : Hall :=
  { tx := [], held := [], queues := Vector.replicate 12 [], mailLeft := Vector.replicate 12 [],
    frames := Vector.replicate 12 [], writes := [], gathers := [], asked := [],
    cache := [], number := 0, witnessPending := [] }

/-- Inputs at rest: bridle released, seal loop closed, TACK_LOCK absent. -/
def Presence.reset : Presence :=
  { bridleA := false, bridleB := false, press := none, pressed := false, released := none, relA := none,
    relB := none, discrepancy := false, sealOpen := false, tackLock := false, fuse := false, window := none,
    byNotice := false, windows := 0, openings := 0 }

/-- No session. -/
def Session.reset : Session :=
  { num := none, last := 0, download := none, answers := [], sent := [], busy := none, reads := [], waiting := none }

/-- A module as it leaves manufacturing test (Table 15.1: shipped). -/
def Trust.reset : Trust :=
  { life := .shipped, fingerprint := 0, masked := 0, root := none, generation := 0,
    debugCount := Vector.replicate 32 0, keyErased := Vector.replicate 32 false, bound := false,
    romMeas := Vector.replicate 4 0, romCode := Vector.replicate 4 0, bootCopy := false, entropyFailed := false, draws := 0,
    retrain := false, pres := Presence.reset, sess := Session.reset }

/-- An empty SSD position. -/
def Ssd.reset : Ssd := { present := false, width := 0, rate := 0, perst := false, fingerprint := 0, resync := false, mirror := false }

/-- An empty store. -/
def Store.reset : Store :=
  { record := none, recordCode := 0, usedX := 0, usedY := 0, inY := false, commits := [], slots := [],
    ssds := Vector.replicate 2 Ssd.reset, dumps := [], fetched := [], fetch := none }

/-- An empty log. -/
def TallyLog.reset : TallyLog :=
  { staged := [], seq := 0, lost := 0, ring := [], pos := 0, badSectors := [], fuses := 0, failTick := 0,
    failed := false, digest := 0, mirrorSeq := 0, witnessDue := false, witnessFrom := 0 }

/-- A supervisor in mask ROM: SUP_STATE reads 0x0000_0002 (Table 20.8). -/
def Supervisor.reset : Supervisor :=
  { state := .restarting, restarts := [], region := false, meas := 0, misses := 0 }

/-- Power before the rails come up. -/
def Power.reset : Power :=
  { good := false, sequencing := false, goodAt := 0, bootStep := 0, packageTrip := false, cap := 1750,
    lostBricks := 0, lost1v8 := 0, lostNet := 0, lostIo := 0, lostOpt := 0, lostStk := Vector.replicate 8 0,
    watts := 0, mv := 0, meanFrom := 0, meanSum := 0, meanN := 0, tickWatts := 0, tickMv := 0, tickN := 0, overCap := false, trips := [],
    clampDie := Vector.replicate 8 false, phi := Vector.replicate 8 0, inlet := 0, outlet := 0, tjMax := 0,
    flow := 0, alarm := false, refLost := none, refExpired := false }

/-- Reset columns of Tables 20.3 and 20.9: kind R registers by ascending address, those that read 0 left out. -/
def resetSample : List (Nat × Word32) :=
  [(0x0, 0x325646B1), (0x4, 0xFFFFFFFF), (0x88, 1750)] ++
    (List.range 32).flatMap fun n => [(0x01000000 + 0x10000 * n, 0x20000000), (0x01000004 + 0x10000 * n, 60)]

/-- The module as input is applied: an F-grade module in life cycle state shipped, nothing bound, every
rail off (assumptions 2, 3 and 5). -/
def State.reset : State :=
  { now := 0, gradeF := true, enabled := 0xFFFFFFFF, sec? := none, place := none, tick := Tick.reset,
    ptp := Ptp.reset, cores := Vector.replicate 32 Core.reset, folds := Vector.replicate 32 Fold.reset,
    st := Vector.replicate 16 StPort.reset, pl := Vector.replicate 2 PlPort.reset,
    fab := Vector.replicate 24 FabPort.reset, hall := Hall.reset, trust := Trust.reset, store := Store.reset,
    log := TallyLog.reset, supA := Supervisor.reset, supB := Supervisor.reset, power := Power.reset,
    rebuild := none, captures := [], dumpNo := 0, ctrs := Vector.replicate 12 Ctr.zero,
    snaps := Vector.replicate 12 Ctr.zero, userTags := Vector.replicate 16 0, sample := resetSample, telemetry := [],
    latches := [], i3c := none, nack := false, free := 0, pending := [] }

/-- Enabled cores of an E-grade module whose two fused-off cores are given (R2). -/
def enabledBut (a b : CoreNo) : Word32 :=
  0xFFFFFFFF &&& ~~~BitVec.ofNat 32 (2 ^ a.val) &&& ~~~BitVec.ofNat 32 (2 ^ b.val)

/-- The same moment of an E-grade module: it left test with the two given cores fused off and 30 enabled (R2, Tables
20.3 and 20.9). -/
def State.resetE (a b : CoreNo) : State :=
  { State.reset with
    gradeF := false, enabled := enabledBut a b
    cores := Vector.ofFn fun p => if p = a ∨ p = b then { Core.reset with mode := .fusedOff } else Core.reset
    sample := [(0x0, 0x325645B1), (0x4, enabledBut a b), (0x88, 1750)] ++
      ((List.finRange 32).filter fun n => decide (n ≠ a ∧ n ≠ b)).flatMap fun n =>
        [(0x01000000 + 0x10000 * n.val, 0x20000000), (0x01000004 + 0x10000 * n.val, 60)] }

end Sys2Proof.Machine
end

