-- ==== Sys2Proof/Machine/Formats.lean ====
section
/-! DEFINITION. The number formats of the module: the tapered formats TP8, TP16 and TP32, binary32 and
binary64, pixels, their conversions and the arithmetic of special values (spec/02_tapered_formats.md). -/

namespace Sys2Proof.Machine

/-! ## Exact values -/

/-- 2^e as an exact number. -/
def twoPow (e : Int) : Rat := if 0 ≤ e then mkRat (2 ^ e.toNat) 1 else mkRat 1 (2 ^ (-e).toNat)

/-- The integer nearest to a number, ties to even. -/
def roundEven (q : Rat) : Int :=
  let f := q.floor
  let d := q - f
  if d < 1 / 2 then f else if 1 / 2 < d then f + 1 else if f % 2 = 0 then f else f + 1

/-- The integer part of a number, rounded toward zero. -/
def truncQ (q : Rat) : Int := q.num.tdiv q.den

/-- floor(log2(x)) of a positive number. -/
def floorLog2 (x : Rat) : Int :=
  let s : Int := (Nat.log2 x.num.natAbs : Int) - (Nat.log2 x.den : Int)
  if twoPow s ≤ x then s else s - 1

/-- Events of Table 2.11. -/
inductive Ev where
  | clip
  | overflow
  | lift
  | flush
  | invalid
  deriving DecidableEq, Repr

/-- A result code with the events it raised. -/
abbrev Coded := Nat × List Ev

/-- Magnitude of an exact value. -/
def absQ (q : Rat) : Rat := if q < 0 then -q else q

/-! ## Tapered codes -/

/-- Length of the run of bits equal to `r` from bit i − 1 downward. -/
def leadRun (c : Nat) (r : Bool) : Nat → Nat
  | 0 => 0
  | i + 1 => if c.testBit i = r then 1 + leadRun c r i else 0

/-- Value of a positive finite code (R39). -/
def tpMagnitude (c n es : Nat) : Rat :=
  let r := c.testBit (n - 2)
  let m := leadRun c r (n - 1)
  let k : Int := if r then (m : Int) - 1 else -(m : Int)
  let q := n - 2 - m
  let t := c % 2 ^ q
  let eb := min es q
  let e := (t / 2 ^ (q - eb)) * 2 ^ (es - eb)
  let w := q - eb
  twoPow (k * 2 ^ es + e) * (1 + mkRat (t % 2 ^ w) (2 ^ w))

/-- decode(c, n, es) of R39 and R40. -/
def tpDecode (c n es : Nat) : Ext :=
  if c = 0 then .fin 0
  else if c = 2 ^ (n - 1) then .nan
  else if c = 2 ^ (n - 1) - 1 then .inf false
  else if c = 2 ^ (n - 1) + 1 then .inf true
  else if 2 ^ (n - 1) < c then .fin (-(tpMagnitude (2 ^ n - c) n es))
  else .fin (tpMagnitude c n es)

/-- Largest finite value M (Table 2.1). -/
def tpMax (n es : Nat) : Rat := tpMagnitude (2 ^ (n - 1) - 2) n es

/-- Smallest positive value (Table 2.1). -/
def tpMin (n es : Nat) : Rat := tpMagnitude 1 n es

/-- encode(x, n, es) of a positive exact value (R41 to R43). The infinite bit string of R41, cut after
n − 1 bits, is (head + f) × 2^(n − 1 − length of head), so the code is that number rounded to even. -/
def tpEncodePos (x : Rat) (n es : Nat) : Coded :=
  if 2 * tpMax n es ≤ x then (2 ^ (n - 1) - 1, [.overflow])
  else if tpMax n es < x then (2 ^ (n - 1) - 2, [.clip])
  else if x < tpMin n es then (1, [.lift])
  else
    let s := floorLog2 x
    let k := s / (2 : Int) ^ es
    let e := (s % (2 : Int) ^ es).toNat
    let f := x / twoPow s - 1
    let regime : Nat := if 0 ≤ k then (2 ^ (k.toNat + 1) - 1) * 2 else 1
    let len : Nat := (if 0 ≤ k then k.toNat + 2 else (-k).toNat + 1) + es
    let head : Nat := regime * 2 ^ es + e
    ((roundEven (((head : Nat) + f) * twoPow ((n : Int) - 1 - len))).toNat, [])

/-- encode(x, n, es) of R41. -/
def tpEncode (x : Ext) (n es : Nat) : Coded :=
  match x with
  | .nan => (2 ^ (n - 1), [])
  | .inf neg => if neg then (2 ^ (n - 1) + 1, []) else (2 ^ (n - 1) - 1, [])
  | .fin q =>
    if q = 0 then (0, [])
    else if q < 0 then
      let r := tpEncodePos (-q) n es
      ((2 ^ n - r.1) % 2 ^ n, r.2)
    else tpEncodePos q n es

/-! ## IEEE codes -/

/-- Value of an IEEE code with `eb` exponent bits and `mb` trailing significand bits. -/
def ieeeDecode (c eb mb : Nat) : Ext :=
  let e := fldN c mb eb
  let m := c % 2 ^ mb
  let neg := c.testBit (eb + mb)
  let bias : Int := 2 ^ (eb - 1) - 1
  if e = 2 ^ eb - 1 then (if m = 0 then .inf neg else .nan)
  else
    let q := if e = 0 then mkRat m 1 * twoPow (1 - bias - mb)
      else mkRat (2 ^ mb + m) 1 * twoPow ((e : Int) - bias - mb)
    .fin (if neg then -q else q)

/-- The code is −0. -/
def ieeeNegZero (c eb mb : Nat) : Bool := decide (c = 2 ^ (eb + mb))

/-- IEEE code of an exact value under roundTiesToEven (R49); `neg0` is the sign of a zero result from a zero
source. -/
def ieeeEncode (x : Ext) (neg0 : Bool) (eb mb : Nat) : Coded :=
  let inf := (2 ^ eb - 1) * 2 ^ mb
  match x with
  | .nan => (inf + 2 ^ (mb - 1), [])
  | .inf neg => (b2n neg * 2 ^ (eb + mb) + inf, [])
  | .fin q =>
    if q = 0 then (b2n neg0 * 2 ^ (eb + mb), [])
    else
      let sign := b2n (decide (q < 0)) * 2 ^ (eb + mb)
      let a := absQ q
      let emin : Int := 2 - 2 ^ (eb - 1)
      let e := max (floorLog2 a) emin
      let m := (roundEven (a / twoPow (e - mb))).toNat
      let c := (e - emin).toNat * 2 ^ mb + m
      if inf ≤ c then (sign + inf, [.overflow])
      else (sign + c, if m = 0 then [.flush] else [])

/-! ## Formats of Table 8.6 -/

/-- Number of bits of an element. -/
def Fmt.bits : Fmt → Nat
  | .raw => 8
  | .tp8 => 8
  | .tp16 => 16
  | .tp32 => 32
  | .b32 => 32
  | .b64 => 64
  | .uq8 => 8
  | .mono8 => 8
  | .mono10 => 10
  | .mono12 => 12

/-- Bytes of an element that lies in whole bytes. -/
def Fmt.bytes (f : Fmt) : Nat := (f.bits + 7) / 8

/-- A tapered format. -/
def Fmt.tapered : Fmt → Bool
  | .tp8 => true
  | .tp16 => true
  | .tp32 => true
  | _ => false

/-- An IEEE format. -/
def Fmt.ieee : Fmt → Bool
  | .b32 => true
  | .b64 => true
  | _ => false

/-- A pixel format. -/
def Fmt.mono : Fmt → Bool
  | .mono8 => true
  | .mono10 => true
  | .mono12 => true
  | _ => false

/-- The exact value of a code of a tapered or IEEE format; a raw, UQ8 or pixel code as an integer. -/
def Fmt.value (f : Fmt) (c : Nat) : Ext :=
  match f with
  | .tp8 => tpDecode (c % 2 ^ 8) 8 1
  | .tp16 => tpDecode (c % 2 ^ 16) 16 1
  | .tp32 => tpDecode (c % 2 ^ 32) 32 3
  | .b32 => ieeeDecode (c % 2 ^ 32) 8 23
  | .b64 => ieeeDecode (c % 2 ^ 64) 11 52
  | _ => .fin (mkRat c 1)

/-- The code is −0 of an IEEE format. -/
def Fmt.isNegZero (f : Fmt) (c : Nat) : Bool :=
  match f with
  | .b32 => ieeeNegZero c 8 23
  | .b64 => ieeeNegZero c 11 52
  | _ => false

/-- The code of an exact value in a tapered or IEEE format, rounded once (R41, R48, R49). -/
def Fmt.encode (f : Fmt) (x : Ext) (neg0 : Bool := false) : Coded :=
  match f with
  | .tp8 => tpEncode x 8 1
  | .tp16 => tpEncode x 16 1
  | .tp32 => tpEncode x 32 3
  | .b32 => ieeeEncode x neg0 8 23
  | .b64 => ieeeEncode x neg0 11 52
  | _ => match x with
    | .fin q => ((truncQ q).toNat, [])
    | _ => (0, [])

/-- Conversion of a code between tapered and IEEE formats (Table 2.9); a code of one format stays as it is. -/
def convert (src dst : Fmt) (c : Nat) : Coded :=
  if src = dst then (c, []) else dst.encode (src.value c) (src.isNegZero c)

/-- R52, R53: a pixel integer as an exact value. -/
def pixelValue (p black g : Nat) : Rat := ((p : Int) - black : Int) * twoPow (-(g : Int))

/-! ## Arithmetic on exact and special values (Table 2.7) -/

/-- The sign of an exact value that is not NaN. -/
def Ext.neg? : Ext → Bool
  | .nan => false
  | .inf n => n
  | .fin q => decide (q < 0)

/-- An exact value or infinity is zero. -/
def Ext.isZero : Ext → Bool
  | .fin q => decide (q = 0)
  | _ => false

/-- NaN. -/
def Ext.isNan : Ext → Bool
  | .nan => true
  | _ => false

/-- Finite. -/
def Ext.isFin : Ext → Bool
  | .fin _ => true
  | _ => false

/-- The exact number, 0 of a special value. -/
def Ext.num : Ext → Rat
  | .fin q => q
  | _ => 0

/-- Negation (Table 2.7). -/
def Ext.negate : Ext → Ext
  | .nan => .nan
  | .inf n => .inf (!n)
  | .fin q => .fin (-q)

/-- Sum, with the invalid event (Table 2.7). -/
def Ext.add (x y : Ext) : Ext × List Ev :=
  match x, y with
  | .nan, _ => (.nan, [])
  | _, .nan => (.nan, [])
  | .inf a, .inf b => if a = b then (.inf a, []) else (.nan, [.invalid])
  | .inf a, .fin _ => (.inf a, [])
  | .fin _, .inf b => (.inf b, [])
  | .fin a, .fin b => (.fin (a + b), [])

/-- Difference. -/
def Ext.sub (x y : Ext) : Ext × List Ev := x.add y.negate

/-- Product (Table 2.7). -/
def Ext.mul (x y : Ext) : Ext × List Ev :=
  match x, y with
  | .nan, _ => (.nan, [])
  | _, .nan => (.nan, [])
  | .inf a, .inf b => (.inf (a != b), [])
  | .inf a, .fin q => if q = 0 then (.nan, [.invalid]) else (.inf (a != decide (q < 0)), [])
  | .fin q, .inf a => if q = 0 then (.nan, [.invalid]) else (.inf (a != decide (q < 0)), [])
  | .fin a, .fin b => (.fin (a * b), [])

/-- Quotient (Table 2.7); the sign of a zero divisor plays no part. -/
def Ext.div (x y : Ext) : Ext × List Ev :=
  match x, y with
  | .nan, _ => (.nan, [])
  | _, .nan => (.nan, [])
  | .inf _, .inf _ => (.nan, [.invalid])
  | .inf a, .fin q => (.inf (if q = 0 then a else a != decide (q < 0)), [])
  | .fin _, .inf _ => (.fin 0, [])
  | .fin a, .fin b =>
    if b = 0 then (if a = 0 then (.nan, [.invalid]) else (.inf (decide (a < 0)), []))
    else (.fin (a / b), [])

/-- Order of two values that are not NaN: less than. -/
def Ext.lt : Ext → Ext → Bool
  | .nan, _ => false
  | _, .nan => false
  | .inf a, .inf b => a && !b
  | .inf a, .fin _ => a
  | .fin _, .inf b => !b
  | .fin a, .fin b => decide (a < b)

/-! ## Square root, rounded once -/

/-- The integer r = floor(sqrt(x × 4^k)) and whether it is exact, of a nonnegative number. -/
def sqrtScaled (x : Rat) (k : Int) : Nat × Bool :=
  let y := x * twoPow (2 * k)
  let r := Nat.sqrt y.floor.toNat
  (r, decide (mkRat (r * r) 1 = y))

end Sys2Proof.Machine
end

