-- ==== Sys2Proof/Machine/Quant.lean ====
section
/-! DEFINITION. UQ8: quantiser records, scale finding, quantising, requantising and stray quotients
(spec/03_quantised_uq8.md). -/

namespace Sys2Proof.Machine

/-- Tensor quantiser record (Table 3.1). -/
structure QRec where
  g : Word32
  threshold : Word32
  channels : Nat
  window : Nat
  stray : Bool
  weight : Bool
  table : Nat
  ring : Nat
  strays : Nat
  stats : Nat
  requant : Nat
  /-- where the record lies -/
  place : Nat := 0
  deriving DecidableEq, Repr

/-- The record laid out in 64 bytes (Table 3.1). -/
def QRec.parse (b : List Byte) : QRec :=
  { g := BitVec.ofNat 32 (leAt b 0 4), threshold := BitVec.ofNat 32 (leAt b 4 4), channels := leAt b 8 2,
    window := leAt b 10 1, stray := (leAt b 11 1).testBit 1, weight := (leAt b 11 1).testBit 0,
    table := leAt b 12 4, ring := leAt b 16 4, strays := leAt b 20 4, stats := leAt b 24 4,
    requant := leAt b 28 4 }

/-- Largest code Q (R55). -/
def QRec.q (r : QRec) : Nat := if r.stray then 254 else 255

/-- The second-level scale g (R57). -/
def QRec.gq (r : QRec) : Rat := (Fmt.b32.value r.g.toNat).num

/-- The stray threshold T (R58). -/
def QRec.tq (r : QRec) : Rat := (Fmt.b32.value r.threshold.toNat).num

/-- Scale code and zero point of a channel entry (Table 3.2). -/
def entryScale (e : Word32) : Nat := fld e 8 8

/-- Zero point of a channel entry. -/
def entryZero (e : Word32) : Nat := fld e 0 8

/-- The scale s = t × g, exact (R57). -/
def scaleOf (t : Nat) (g : Rat) : Rat := (Fmt.tp8.value t).num * g

/-! ## Running range (R60) -/

/-- Largest finite binary32 magnitude. -/
def b32Max : Rat := (2 - twoPow (-23)) * twoPow 127

/-- Spacing of binary32 at a magnitude. -/
def b32Step (a : Rat) : Rat := twoPow (max (floorLog2 a) (-126) - 23)

/-- binary32 code of an exact value rounded down, limited to the finite range. -/
def b32Down (q : Rat) : Word32 :=
  let c := if q < -b32Max then -b32Max else if b32Max < q then b32Max else q
  if c = 0 then 0
  else
    let u := b32Step (absQ c)
    BitVec.ofNat 32 (Fmt.b32.encode (.fin ((c / u).floor * u))).1

/-- binary32 code of an exact value rounded up, limited to the finite range. -/
def b32Up (q : Rat) : Word32 :=
  let c := if q < -b32Max then -b32Max else if b32Max < q then b32Max else q
  if c = 0 then 0
  else
    let u := b32Step (absQ c)
    BitVec.ofNat 32 (Fmt.b32.encode (.fin (-((-c / u).floor) * u))).1

/-- The exact value of a finite binary32 code. -/
def b32Val (w : Word32) : Rat := (Fmt.b32.value w.toNat).num

/-- A range widened by one eligible value (R60). -/
def rangeAdd (r : Option (Word32 × Word32)) (x : Rat) : Word32 × Word32 :=
  match r with
  | none => (b32Down x, b32Up x)
  | some (mn, mx) => (if x < b32Val mn then b32Down x else mn, if b32Val mx < x then b32Up x else mx)

/-- The union of two ranges. -/
def rangeJoin (a b : Option (Word32 × Word32)) : Option (Word32 × Word32) :=
  match a, b with
  | none, r => r
  | r, none => r
  | some (p, q), some (u, v) =>
    some (if b32Val u < b32Val p then u else p, if b32Val q < b32Val v then v else q)

/-- find_entry of R62: scale code and zero point. -/
def findEntry (mn mx g : Rat) (q : Nat) : Nat × Nat :=
  let lo := min mn 0
  let hi := max mx 0
  let r := hi - lo
  if r = 0 then (0, 0)
  else
    let t := ((List.range' 1 126).find? fun t => decide (r / (mkRat q 1) ≤ scaleOf t g)).getD 0x7E
    let z := roundEven (-lo / scaleOf t g)
    (t, min z.toNat q)

/-! ## Quantising (R63) -/

/-- What quantising one element does. -/
structure QOut where
  /-- the code -/
  code : Nat
  /-- the element becomes bad -/
  bad : Bool
  clips : Nat
  escapes : Nat
  collapses : Nat
  /-- a TP16 code to append to the tile's stray list -/
  stray : Option Nat
  /-- set the full flag of the tile's list -/
  setFull : Bool
  /-- add one to the clipped outliers of the list -/
  clipped : Bool
  deriving DecidableEq, Repr

/-- A code that counts nothing. -/
def QOut.plain (c : Nat) : QOut :=
  { code := c, bad := false, clips := 0, escapes := 0, collapses := 0, stray := none, setFull := false,
    clipped := false }

/-- quantise of R63. `stray` is the stray mode, `room` says whether the tile's list holds fewer than 64 entries,
`escape` whether the path may write the escape code at all (R72: readout never does) (DEDUCED, assumption 16). -/
def quantise (x : Ext) (t z : Nat) (g : Rat) (stray : Bool) (threshold : Rat) (room escape : Bool) : QOut :=
  let q := if stray then 254 else 255
  let outlier := match x with
    | .fin v => stray && decide (threshold < absQ v)
    | _ => true
  if outlier then
    if stray && escape && room then
      { QOut.plain 0xFF with escapes := 1, stray := some (Fmt.tp16.encode x).1 }
    else
      let full := stray && escape
      if x.isNan then { QOut.plain z with bad := true, setFull := full }
      else { QOut.plain (if x.neg? then 0 else q) with clips := 1, setFull := full, clipped := full }
  else
    let v := x.num
    if t = 0 then { QOut.plain z with clips := b2n (decide (v ≠ 0)) }
    else
      let c := roundEven (v / scaleOf t g) + z
      let d := if c < 0 then 0 else if (q : Int) < c then q else c.toNat
      { QOut.plain d with clips := b2n (decide (c < 0 ∨ (q : Int) < c)),
                          collapses := b2n (decide (d = z ∧ v ≠ 0)) }

/-! ## Dequantising and requantising -/

/-- Value of a code: s × (c − z) (R55). -/
def dequant (c t z : Nat) (g : Rat) : Rat := scaleOf t g * ((c : Int) - z : Int)

/-- requantise of R73: code and clips. -/
def requantise (a : Int) (m h z q : Nat) : Nat × Nat :=
  let y := roundEven (mkRat (a * m) (2 ^ h))
  let c := y + z
  if c < 0 then (0, 1) else if (q : Int) < c then (q, 1) else (c.toNat, 0)

/-- Result of a UQ8 readout for a tag other than 0b00 (R72, R73, Table 6.12): code, bad, clips (DEDUCED, assumption 16). -/
def requantTag (tag : BitVec 2) (z q : Nat) : Nat × Bool × Nat :=
  if tag = 1 then (q, false, 1) else if tag = 2 then (0, false, 1) else (z, true, 0)

/-- Multiplier and shift of R74 for an exact ratio. -/
def requantRecord (mu : Rat) : Nat × Nat :=
  if (2 : Int) ^ 31 ≤ roundEven mu then (2 ^ 31 - 1, 0)
  else
    let h := ((List.range 64).reverse.find? fun (h : Nat) =>
      decide (roundEven (mu * twoPow (h : Nat)) < (2 : Int) ^ 31)).getD 0
    ((roundEven (mu * twoPow h)).toNat, h)

/-- The 64-bit requantisation record (Table 3.6). -/
def requantWord (m h : Nat) : Nat := h * 2 ^ 32 + m

/-- Largest magnitude of a stray quotient (R69). -/
def strayLimit : Int := 2 ^ 23 - 1

/-- Stray quotient of a finite value (R69): the quotient, and the clips it counts. -/
def strayQuotient (v s : Rat) : Int × Nat :=
  if s = 0 then (if v < 0 then -strayLimit else strayLimit, 1)
  else
    let q := roundEven (v / s)
    if strayLimit < q then (strayLimit, 1) else if q < -strayLimit then (-strayLimit, 1) else (q, 0)

end Sys2Proof.Machine
end

