-- ==== Sys2Proof/Machine/Ops.lean ====
section
/-! DEFINITION. The named operations over the state: finding cores and folds, counting, logging, and reading and
writing pasture memory, gates and rings. -/

namespace Sys2Proof.Machine

/-! ## Time and maps -/

/-- Tick-relative cycle. -/
def State.rel (s : State) : Nat := s.now - s.tick.instant

/-- Tick period in core cycles, 2,000 × P with P in microseconds (R10, R11); 0 before a module section runs. -/
def State.period (s : State) : Nat := match s.sec? with
  | some m => 2000 * m.period
  | none => 0

/-- First cycle of the reserve, 1,920 × P (R11). -/
def State.reserveAt (s : State) : Nat := match s.sec? with
  | some m => 1920 * m.period
  | none => 0

/-- The physical core on which a logical core runs (R206): in state mapped, or rebuilding. -/
def State.phys (s : State) (l : CoreNo) : Option CoreNo :=
  (List.finRange 32).find? fun p =>
    (decide (s.cores[p].mode = .mapped) || decide (s.cores[p].mode = .rebuilding)) && decide (s.cores[p].logical = l)

/-- The logical core of a physical core in use. -/
def State.logicalOf (s : State) (p : CoreNo) : Option CoreNo :=
  if s.cores[p].mode = .mapped ∨ s.cores[p].mode = .rebuilding then some s.cores[p].logical else none

/-- The fold holds a logical core, wholly or as a share (R302, R304). -/
def Allot.holds (a : Allot) (l : CoreNo) : Bool := a.cores.getLsbD l

/-- The fold in whose cycles of a tick a logical core stands (R304): the holder, or on a shared core the first
share before its boundary cycle and the second share from it. -/
def State.foldAt (s : State) (l : CoreNo) (rel : Nat) : Option FoldNo :=
  (List.finRange 32).find? fun f => match s.folds[f].allot with
    | some a => a.holds l &&
        (decide (a.shared ≠ some l) || (if a.second then decide (a.boundary ≤ rel) else decide (rel < a.boundary)))
    | none => false

/-- The fold of a logical core now. -/
def State.foldOf (s : State) (l : CoreNo) : Option FoldNo := s.foldAt l s.rel

/-- One core changed. -/
def State.onCore (s : State) (p : CoreNo) (f : Core → Core) : State := { s with cores := vmod s.cores p f }

/-- One fold changed. -/
def State.onFold (s : State) (f : FoldNo) (g : Fold → Fold) : State := { s with folds := vmod s.folds f g }

/-! ## Counters -/

/-- A 48-bit counter adds and saturates (R413, R420). -/
def Ctr.add (c : Ctr) (n : Nat) : Ctr :=
  if c.val.toNat + n < 2 ^ 48 then { c with val := BitVec.ofNat 48 (c.val.toNat + n) }
  else { val := BitVec.ofNat 48 (2 ^ 48 - 1), sat := true }

/-- Kinds of event that are conditions rather than occurrences (Table 18.3). -/
def isCondition (code : Nat) : Bool := code = 0x03 || code = 0x05 || code = 0x09

/-- The select register counts this event (Table 18.1): enabled, same code, filters passed. -/
def Tally.selects (t : Tally) (code : Nat) (fold : Option FoldNo) (tag : Nat) : Bool :=
  bitOf t.sel 31 && decide (fld t.sel 0 8 = code) &&
    (!bitOf t.sel 27 || (match fold with | some f => decide (fld t.sel 22 5 = f.val) | none => false)) &&
    (!bitOf t.sel 21 || code != 0x0B || decide (fld t.sel 13 8 = tag))

/-- `n` occurrences of an event in one cycle (R414): edge mode adds n, level mode adds 1 a cycle. -/
def Tally.occur (t : Tally) (code n : Nat) (fold : Option FoldNo) (tag now : Nat) : Tally :=
  if n = 0 || !t.selects code fold tag then t
  else if bitOf t.sel 30 then
    (if t.levelAt = some now then t else { t with ctr := t.ctr.add 1, levelAt := some now })
  else { t with ctr := t.ctr.add n }

/-- A condition as it stands in one cycle (R414). -/
def Tally.cond (t : Tally) (code : Nat) (holds : Bool) (fold : Option FoldNo) : Tally :=
  if !t.selects code fold 0 then t
  else
    let u := { t with prev := holds }
    if holds && (bitOf t.sel 30 || !t.prev) then { u with ctr := t.ctr.add 1 } else u

/-- Occurrences counted by all eight counters of a core (R413). -/
def Core.occur (c : Core) (code n : Nat) (fold : Option FoldNo) (tag now : Nat) : Core :=
  { c with tally := c.tally.map fun t => t.occur code n fold tag now }

/-- A module counter of Table 20.7 raised. -/
def State.count (s : State) (i : Fin 12) (n : Nat) : State := { s with ctrs := vmod s.ctrs i fun c => c.add n }

/-- A fold counter of Table 20.12 raised. -/
def Fold.count (f : Fold) (i : Fin 23) (n : Nat) : Fold := { f with ctrs := vmod f.ctrs i fun c => c.add n }

/-! ## The tally log (R376, R377) -/

/-- Codes whose entry collects every event of a class on one core in one tick (Table 16.6). -/
def isSummary (code : BitVec 16) : Bool :=
  code = 0x0201 || code = 0x0301 || code = 0x0705 || code = 0x0801 || code = 0x0901

/-- A list with the byte at a position raised by one, up to 255. -/
def bumpByte : List Byte → Nat → List Byte
  | [], _ => []
  | b :: r, 0 => (if b = 0xFF then b else b + 1) :: r
  | b :: r, k + 1 => b :: bumpByte r k

/-- 20 bytes of detail. -/
def detail20 (d : List Byte) : List Byte := sliceD 0 d 0 20

/-- An event put into the log: it shares the entry of its code, fold and logical core in one tick, and is lost
when 4,096 entries are staged. It takes its sequence when it is written. `kind` is the byte that a summary entry raises. -/
def TallyLog.put (g : TallyLog) (tick : BitVec 48) (cycle : Nat) (code : BitVec 16) (fold : Option FoldNo)
    (l p : Option CoreNo) (debug : Bool) (kind : Nat) (detail : List Byte) : TallyLog :=
  let same := fun (e : LogEntry) =>
    decide (e.code = code) && decide (e.fold = fold) && decide (e.lcore = l) && decide (e.tick = tick)
  if g.staged.any same then
    { g with staged := g.staged.map fun e =>
        if same e then
          { e with count := min 65535 (e.count + 1), coalesced := true,
                   detail := if isSummary code then bumpByte e.detail kind else e.detail }
        else e }
  else if 4096 ≤ g.staged.length then { g with lost := g.lost + 1 }
  else
    let e : LogEntry :=
      { seq := 0, tick := tick, cycle := cycle, code := code, fold := fold, lcore := l, pcore := p,
        debug := debug, coalesced := false, count := 1,
        detail := if isSummary code then bumpByte (detail20 []) kind else detail20 detail, tag := 0 }
    { g with staged := g.staged ++ [e] }

/-- An event of the module or of a fold put into the log at the present cycle; entries lost are counted (Table
18.5) (DESIGN CHOICE, assumption 28). -/
def State.log1 (s : State) (code : BitVec 16) (fold : Option FoldNo) (l p : Option CoreNo) (detail : List Byte) :
    State :=
  let debug := match fold with
    | some f => s.folds[f].debug
    | none => false
  let g := s.log.put s.tick.number s.rel code fold l p debug 0 detail
  { s with log := g, ctrs := vmod s.ctrs 11 fun c => c.add (g.lost - s.log.lost) }

/-- Kinds of the hardware class (Table 16.1), in its order, by event code of Table 18.3. -/
def hardwareKinds : List Nat := [0x30, 0x31, 0x37, 0x38, 0x39, 0x25, 0x34, 0x35, 0x26, 0x27, 0x28, 0x33, 0x36]

/-- Kinds of the schedule class (Table 16.1). -/
def scheduleKinds : List Nat := [0x32, 0x3A, 0x2B, 0x2C]

/-- The tick numbers in which a core raised faults, with this one, newest first and at most four (R363). -/
def faultTick (l : List Nat) (t : Nat) : List Nat := if l.head? = some t then l else (t :: l).take 4

/-- The fold to which an event of a core falls (R415): the one in whose cycles it falls, and in the reserve the one whose data
it concerns. -/
def State.eventFold (s : State) (l : Option CoreNo) (concerns : Option FoldNo) : Option FoldNo :=
  let inTurn := l.bind s.foldOf
  if s.reserveAt ≤ s.rel then concerns.or inTurn else inTurn

/-- Core events at the present cycle (R362, R415): counted by the core's tally counters; those of the hardware and
schedule classes go to the summary entries of the log and count towards R363. `concerns` is the fold whose data they
concern, where the event has one. -/
def State.events (s : State) (p : CoreNo) (es : List (Nat × Nat)) (concerns : Option FoldNo := none) : State :=
  let l := s.logicalOf p
  let fold := s.eventFold l concerns
  es.foldl (fun s e =>
    if e.2 = 0 then s
    else
      let fault := hardwareKinds.contains e.1 || scheduleKinds.contains e.1
      let cores := vmod s.cores p fun c =>
        let c := c.occur e.1 e.2 fold 0 s.now
        if fault then { c with faultTicks := faultTick c.faultTicks s.tick.number.toNat } else c
      if fault then
        let hw := hardwareKinds.contains e.1
        let kind := if hw then hardwareKinds.idxOf e.1 else scheduleKinds.idxOf e.1
        let g := s.log.put s.tick.number s.rel (if hw then 0x0201 else 0x0301) fold l (some p) false kind []
        { s with cores := cores, log := g, ctrs := vmod s.ctrs 11 fun c => c.add (g.lost - s.log.lost) }
      else { s with cores := cores }) s

/-- One core changed, with the events that this raised. -/
def State.onCoreE (s : State) (p : CoreNo) (f : Core → Core × List (Nat × Nat)) (concerns : Option FoldNo := none) : State :=
  let r := f s.cores[p]
  State.events { s with cores := s.cores.set p r.1 } p r.2 concerns

/-- Codes of the events of Table 2.11 in Table 18.3. -/
def Ev.code : Ev → Nat
  | .clip => 0x10
  | .overflow => 0x11
  | .lift => 0x12
  | .flush => 0x13
  | .invalid => 0x14

/-- Events of Table 2.11 as counts. -/
def evCounts (es : List Ev) : List (Nat × Nat) := es.map fun e => (e.code, 1)

/-! ## Regions (R147, R151) -/

/-- The region of a fold's image that holds an offset of a logical core. -/
def FoldImage.regionAt (i : FoldImage) (l : CoreNo) (off : Nat) : Option Region :=
  i.regions.find? fun r => decide (r.core = l) && decide (r.start ≤ off) && decide (off < r.start + r.len)

/-- The region of a fold that holds an offset. -/
def State.regionOf (s : State) (f : FoldNo) (l : CoreNo) (off : Nat) : Option Region :=
  s.folds[f].image.bind fun i => i.regionAt l off

/-- An offset of a logical core lies in a static region of some fold (R151). -/
def State.staticAt (s : State) (l : CoreNo) (off : Nat) : Bool :=
  s.folds.any fun f => match f.image with
    | some i => (match i.regionAt l off with
      | some r => !r.dynamic
      | none => false)
    | none => false

/-- The data area ends here (Table 8.1). -/
def dataEnd : Nat := 0x6C800000

/-! ## Pasture memory (R146 to R150, R161) -/

/-- The bytes of one 32 B word as they stand. -/
def Pasture.word (m : Pasture) (w : Nat) : List Byte := cellsGet 0 m.cells (32 * w) 32

/-- The word as reads of cycle `now` see it (R161): stores of the last two cycles are not yet seen. -/
def Pasture.seen (m : Pasture) (now w : Nat) : List Byte × Bool :=
  match m.recent.find? fun r => decide (now < r.1 + 2) && decide (r.2.1 = w) with
  | some r => (r.2.2.1, r.2.2.2)
  | none => (m.word w, ivMem w m.poison)

/-- Bits of a stored word: 256 of data and 16 check bits (R149). -/
def wordBits : Nat := 272

/-- Number of flipped bits that a mask names. -/
def flipCount (mask : Nat) : Nat := if mask = 0 then 0 else (List.range wordBits).countP fun i => mask.testBit i

/-- What a read of one word delivers: bytes, mark and events. -/
structure WordRead where
  bytes : List Byte
  bad : Bool
  events : List (Nat × Nat)
  deriving DecidableEq, Repr

/-- A stored word as the check bits of R149 leave it: `mask` holds its flipped bits. Three are detected, and the word is
delivered as read; of four or more the outcome is free (assumption 8). -/
def eccRead (w : Nat) (bytes : List Byte) (mask : Nat) : WordRead :=
  let n := flipCount mask
  let v := leNat bytes
  let detected : WordRead := { bytes := leBytes (v ^^^ mask % 2 ^ 256) 32, bad := true, events := [(0x21, 1)] }
  if n = 0 then { bytes := bytes, bad := false, events := [] }
  else if n ≤ 2 then { bytes := bytes, bad := false, events := [(0x20, 1)] }
  else if n = 3 then detected
  else if Config.eccOutcome w v mask = 0 then detected
  else { bytes := leBytes (Config.eccData w v mask) 32, bad := false,
         events := if Config.eccOutcome w v mask = 1 then [(0x20, 1)] else [] }

/-- A read of one word at a cycle (R149, R150, R156). -/
def Pasture.readWord (m : Pasture) (now w : Nat) : WordRead :=
  let (bytes, poisoned) := m.seen now w
  if poisoned then { bytes := bytes, bad := true, events := [] }
  else
    let r := eccRead w bytes (cellGet 0 w m.flips)
    if m.broken.contains w then { r with bad := true, events := [(0x21, 1)] } else r

/-- Bytes read with the marks of their words. -/
structure BytesRead where
  bytes : List MByte
  events : List (Nat × Nat)
  deriving DecidableEq, Repr

/-- Numbers of the words that a run of bytes touches. -/
def touchedWords (off len : Nat) : List Nat :=
  if len = 0 then [] else List.range' (off / 32) ((off + len - 1) / 32 + 1 - off / 32)

/-- A read of a range of bytes: every word that holds one of them is read. -/
def Pasture.read (m : Pasture) (now off len : Nat) : BytesRead :=
  let rs := (touchedWords off len).map fun w => m.readWord now w
  { bytes := ((rs.flatMap fun r => r.bytes.map fun b => (b, r.bad)).drop (off % 32)).take len
    events := rs.flatMap fun r => r.events }

/-- Static or dynamic words found uncorrectable (R156). -/
def Pasture.find (m : Pasture) (ws : List Nat) : Pasture :=
  { m with broken := ws.filter (fun w => !m.broken.contains w) ++ m.broken }

/-- The words of a range that a read finds uncorrectable. -/
def Pasture.lostIn (m : Pasture) (now off len : Nat) : List Nat :=
  (touchedWords off len).filter fun w => (m.readWord now w).events.any fun e => decide (e.1 = 0x21)

/-- Some word of a range reads marked bad, or uncorrectable. -/
def Pasture.badIn (m : Pasture) (off len : Nat) : Bool :=
  (touchedWords off len).any fun w => ivMem w m.poison || m.broken.contains w ||
    (eccRead w (m.word w) (cellGet 0 w m.flips)).bad

/-- Bytes as the module's own units read them: records, tables and instruction words, corrected as R149 says. What the
read counts and marks is `Core.scan` and `Pasture.badIn`. -/
def Pasture.bytes (m : Pasture) (off len : Nat) : List Byte :=
  if m.flips.isEmpty then cellsGet 0 m.cells off len
  else (((touchedWords off len).flatMap fun w => (eccRead w (m.word w) (cellGet 0 w m.flips)).bytes).drop (off % 32)).take len

/-- A little-endian number in pasture memory. -/
def Pasture.num (m : Pasture) (off len : Nat) : Nat := leNat (m.bytes off len)

/-- The part of a run of bytes that falls into one word: position in the word and bytes. -/
def wordPart (off : Nat) (bs : List MByte) (w : Nat) : Nat × List MByte :=
  let lo := max off (32 * w)
  let hi := min (off + bs.length) (32 * w + 32)
  (lo, (bs.drop (lo - off)).take (hi - lo))

/-- A store of part of one word (R150): the word is poisoned when a byte stored is marked, keeps its poison when it
is stored only in part, and loses it when all 32 bytes are stored without marks. -/
def Pasture.storeWord (m : Pasture) (now : Nat) (off : Nat) (bs : List MByte) (w : Nat) : Pasture :=
  let (lo, part) := wordPart off bs w
  if part.isEmpty then m
  else
    let whole := decide (part.length = 32)
    let bad := part.any fun b => b.2
    let old := ivMem w m.poison
    { m with
      cells := cellsSet 0 lo (part.map fun b => b.1) m.cells
      poison := if bad then ivAdd w (w + 1) m.poison else if whole && old then ivDel w (w + 1) m.poison else m.poison
      flips := if whole || decide (flipCount (cellGet 0 w m.flips) ≤ 2) then cellSet 0 w 0 m.flips else m.flips
      broken := if whole then m.broken.filter (· ≠ w) else m.broken
      recent := (m.recent.filter fun r => decide (now < r.1 + 2)) ++
        (if (m.recent.any fun r => decide (r.1 = now) && decide (r.2.1 = w)) then []
         else [(now, w, m.word w, old)]) }

/-- A store of a run of bytes with their marks. -/
def Pasture.store (m : Pasture) (now off : Nat) (bs : List MByte) : Pasture :=
  let w0 := off / 32
  let n := if bs.isEmpty then 0 else (off + bs.length - 1) / 32 + 1 - w0
  (List.range n).foldl (fun m i => m.storeWord now off bs (w0 + i)) m

/-- A store without marks of bytes that the module itself writes (statistics, static data, landed pixels). -/
def Pasture.put (m : Pasture) (now off : Nat) (bs : List Byte) : Pasture :=
  m.store now off (bs.map fun b => (b, false))

/-- A number of words zeroed and poisoned (R368), from one word number up to another. -/
def Pasture.poisonZero (m : Pasture) (lo hi : Nat) : Pasture :=
  { m with cells := cellsClear (32 * lo) (32 * hi) m.cells, poison := ivAdd lo hi m.poison,
           flips := m.flips.filter fun c => c.1 < lo || hi ≤ c.1 }

/-- Bit errors that have come about (R149): words, and masks of the bits flipped (DESIGN CHOICE, assumption 48). -/
def Pasture.upset (m : Pasture) (us : List (Nat × Nat)) : Pasture :=
  { m with flips := us.foldl (fun f u => cellSet 0 u.1 (cellGet 0 u.1 f ^^^ (u.2 % 2 ^ wordBits)) f) m.flips }

/-- The memory of a physical core is in canonical form. -/
def Pasture.wf (m : Pasture) : Bool := cellWf 0 m.cells

/-- A read of ranges of a core's pasture by one of its own units: the events it counts, and the words it finds
uncorrectable (R149, R156) (DESIGN CHOICE, assumption 48). -/
def Core.scan (c : Core) (now : Nat) (rs : List (Nat × Nat)) : Core × List (Nat × Nat) :=
  if c.pasture.flips.isEmpty && c.pasture.broken.isEmpty then (c, [])
  else
    ({ c with pasture := c.pasture.find ((rs.flatMap fun r => c.pasture.lostIn now r.1 r.2).dedup) },
      rs.flatMap fun r => (c.pasture.read now r.1 r.2).events)

/-! ## Gates (R174 to R176) -/

/-- Handle as 32 bits (Table 8.11). -/
def Handle.toWord (h : Handle) : Word32 := BitVec.ofNat 32 (b2n h.bad * 2 ^ 31 + h.tag.toNat * 2 ^ 23 + h.buffer.toNat)

/-- 32 bits as a handle. -/
def Handle.ofWord (w : Word32) : Handle :=
  { bad := bitOf w 31, tag := BitVec.ofNat 8 (fld w 23 8), buffer := BitVec.ofNat 23 (fld w 0 23) }

/-- A gate is full for a post of this cycle: 16 handles, counting the places whose take is less than 2 cycles
old (R174, R175). -/
def Gate.full (g : Gate) (now : Nat) : Bool :=
  decide (16 ≤ g.queue.length + (g.freed.filter fun c => decide (now < c + 2)).length)

/-- A handle put into a gate, visible from a cycle on. -/
def Gate.put (g : Gate) (h : Handle) (visible : Nat) : Gate := { g with queue := g.queue ++ [(h, visible)] }

/-- The first handle, when it is visible at this cycle (R175). -/
def Gate.first (g : Gate) (now : Nat) : Option Handle :=
  match g.queue with
  | (h, v) :: _ => if v ≤ now then some h else none
  | [] => none

/-- The gate without its first handle. -/
def Gate.take (g : Gate) (now : Nat) : Gate :=
  { queue := g.queue.drop 1, freed := now :: g.freed.filter fun c => decide (now < c + 2) }

/-- One gate of a core changed. -/
def Core.onGate (c : Core) (g : GateNo) (f : Gate → Gate) : Core := { c with gates := vmod c.gates g f }

/-! ## Rings (R169 to R171, Table 8.10) -/

/-- Enable. -/
def Ring.enabled (r : Ring) : Bool := bitOf r.reg 63
/-- Base. -/
def Ring.base (r : Ring) : Nat := fld r.reg 32 31
/-- Slot size in bytes. -/
def Ring.slotBytes (r : Ring) : Nat := (fld r.reg 20 12 + 1) * 256
/-- Slot count. -/
def Ring.count (r : Ring) : Nat := fld r.reg 15 5
/-- Fill. -/
def Ring.fill (r : Ring) : Nat := fld r.reg 10 5
/-- Head. -/
def Ring.head (r : Ring) : Nat := fld r.reg 6 4
/-- Tail. -/
def Ring.tail (r : Ring) : Nat := fld r.reg 2 4

/-- The register with new fill, head and tail. -/
def Ring.withPtr (r : Ring) (fill head tail : Nat) : Ring :=
  { r with reg := BitVec.ofNat 64 ((r.reg.toNat / 2 ^ 15) * 2 ^ 15 + fill * 2 ^ 10 + head * 2 ^ 6 + tail * 2 ^ 2) }

/-- Credit (R170): slot count minus fill minus units started and not complete. -/
def Ring.credit (r : Ring) : Nat := r.count - r.fill - r.started

/-- A position of the ring advanced. -/
def Ring.step (r : Ring) (i n : Nat) : Nat := if r.count = 0 then 0 else (i + n) % r.count

/-- The oldest started unit completes (R170): the tail advances by one and the fill rises by one. -/
def Ring.complete (r : Ring) : Ring :=
  { r.withPtr (r.fill + 1) r.head (r.step r.tail 1) with started := r.started - 1 }

/-- A release of slots (R171): only the fill is released; the event counted when more was asked. -/
def Ring.release (r : Ring) (n : Nat) : Ring × List (Nat × Nat) :=
  let k := min n r.fill
  (r.withPtr (r.fill - k) (r.step r.head k) r.tail, if r.fill < n then [(0x28, 1)] else [])

/-- Fill, head and tail to 0 (R179). -/
def Ring.zero (r : Ring) : Ring := { r.withPtr 0 0 0 with started := 0 }

/-- One ring of a core changed. -/
def Core.onRing (c : Core) (r : RingNo) (f : Ring → Ring) : Core := { c with rings := vmod c.rings r f }

end Sys2Proof.Machine
end

