-- ==== Sys2Proof/Machine/Operands.lean ====
section
/-! DEFINITION. The operand forms: fields of instruction words, the index modifier, handle registers, descriptors
and elements in memory (spec/09_instruction_words.md, spec/08_pasture_and_drovers.md). -/

namespace Sys2Proof.Machine

/-! ## Instruction words (R183) -/

/-- Opcode. -/
def opcodeOf (w : Word128) : Nat := fld w 0 8
/-- Issue delay. -/
def delayOf (w : Word128) : Nat := fld w 8 8

/-- A word with `len` bits at `lo` replaced. -/
def fldSet {n : Nat} (w : BitVec n) (lo len v : Nat) : BitVec n :=
  let x := w.toNat
  BitVec.ofNat n (x - fldN x lo len * 2 ^ lo + (v % 2 ^ len) * 2 ^ lo)

/-- Fields that an index modifier changes, per opcode and target: position, width and unit (R188, Tables 9.7 to
9.14). -/
def modTargets (op target : Nat) : List (Nat × Nat × Nat) :=
  if op = 0x01 ∨ op = 0x02 then
    match target with
    | 0 => [(78, 6, 1)]
    | 1 => [(84, 7, 1)]
    | 2 => [(113, 7, 1)]
    | _ => []
  else if op = 0x04 then
    match target with
    | 0 => [(122, 6, 1)]
    | 1 => [(89, 31, 4096)]
    | _ => []
  else if op = 0x05 then
    match target with
    | 0 => [(122, 6, 1)]
    | 1 => [(88, 31, 4096)]
    | 2 => [(77, 5, 1)]
    | _ => []
  else if op = 0x06 then
    match target with
    | 0 => [(96, 32, 256)]
    | _ => []
  else if 0x40 ≤ op ∧ op ≤ 0x55 then
    match target with
    | 0 => [(91, 5, 1)]
    | 1 => [(86, 5, 1)]
    | 2 => [(91, 5, 1), (86, 5, 1)]
    | _ => []
  else if op = 0x81 then
    match target with
    | 0 => [(96, 32, 256)]
    | 1 => [(64, 32, 256)]
    | 2 => [(96, 32, 256), (64, 32, 256)]
    | _ => []
  else []

/-- Loop index of a level; 0 outside the loop (R187). -/
def Stream.loopIndex (t : Stream) (level : Nat) : Nat :=
  match t.loops.find? fun f => decide (f.level.val = level) with
  | some f => f.index
  | none => 0

/-- The word with its index modifier applied (R188): encoded value + index × step in the unit of the field. -/
def Stream.modified (t : Stream) (w : Word128) : Word128 :=
  if bitOf w 31 then
    let add := (t.loopIndex (fld w 29 2) : Int) * fldS w 16 11
    (modTargets (opcodeOf w) (fld w 27 2)).foldl
      (fun v f => fldSet v f.1 f.2.1 (wrapN ((fld v f.1 f.2.1 : Int) + add * f.2.2) f.2.1)) w
  else w

/-! ## Streams of a core (R182, R185) -/

/-- The issue stream or thread of a core. -/
def Core.stream (c : Core) : Issuer → Stream
  | .matrix => c.matrix
  | .currier => c.cstream
  | .drover => c.dstream
  | .thread j => c.currier.threads[j]

/-- The core with one of its streams replaced. -/
def Core.setStream (c : Core) (i : Issuer) (t : Stream) : Core :=
  match i with
  | .matrix => { c with matrix := t }
  | .currier => { c with cstream := t }
  | .drover => { c with dstream := t }
  | .thread j => { c with currier := { c.currier with threads := c.currier.threads.set j t } }

/-- The word a stream reads next (R184): from its instruction buffer, or through its own instruction port. -/
def Core.nextWord (c : Core) (i : Issuer) : Word128 :=
  let t := c.stream i
  match t.buffer.find? fun x => decide (x.1 = t.next) with
  | some x => x.2
  | none => BitVec.ofNat 128 (c.pasture.num t.next 16)

/-- The instruction port of a stream reads the 256 B row of its next word when the buffer does not hold it; the buffer keeps
the last 256 words read (R184). A word read bad runs as it was read (DESIGN CHOICE, assumption 48). -/
def Core.fetchWords (c : Core) (now : Nat) (i : Issuer) : Core × List (Nat × Nat) :=
  let t := c.stream i
  if !t.running || t.buffer.any (fun x => decide (x.1 = t.next)) then (c, [])
  else
    let row := t.next / 256 * 256
    let r := c.scan now [(row, 256)]
    let ws := (List.range 16).map fun k => (row + 16 * k, (BitVec.ofNat 128 (c.pasture.num (row + 16 * k) 16) : Word128))
    let old := t.buffer.filter fun x => decide (x.1 / 256 * 256 ≠ row)
    (r.1.setStream i { t with buffer := (ws ++ old).take 256 }, r.2)

/-- Loops closed at a point of the program (R187): the innermost loop whose body ends there goes round or is left.
Answers the loops, the next offset and the cycles of a long back edge (R184). -/
def closeLoops (next : Nat) : List LoopFrame → List LoopFrame × Nat × Nat
  | [] => ([], next, 0)
  | f :: r =>
    if next = f.body + 16 * f.len then
      if f.index + 1 < f.trip then ({ f with index := f.index + 1 } :: r, f.body, if 256 < f.len then 12 else 0)
      else closeLoops next r
    else (f :: r, next, 0)

/-- The stream after an instruction issued at a cycle with an occupancy (R185): the next word, past the end of a
branch (R195) or round a loop. -/
def Stream.advance (t : Stream) (issue occupancy : Nat) : Stream :=
  let n := t.next + 16
  let (n, base, br) := match t.branch with
    | some b => if n = b.stopAt then (b.resume, b.ready, none) else (n, issue + occupancy, t.branch)
    | none => (n, issue + occupancy, none)
  let (loops, n, extra) := closeLoops n t.loops
  { t with next := n, base := base + extra, floor := 0, lastIssue := issue, loops := loops, branch := br }

/-- WAITT and LOOP issue nothing: they wait for no floor (R185, Table 9.17). -/
def opFree (op : Nat) : Bool := op = 0xC1 || op = 0xC4

/-- Physical core and word of the instruction that a stream of a logical core may issue now: the stream
runs, waits on nothing, has no part left to issue, and has reached its ready cycle and its floor (R185); no stream
issues in the reserve (R186). A thread issues in its own cycles alone (R143) (DESIGN CHOICE, assumption 9). -/
def State.ready (s : State) (l : CoreNo) (i : Issuer) : Option (CoreNo × Word128) :=
  match s.phys l with
  | none => none
  | some p =>
    let c := s.cores[p]
    let t := c.stream i
    let w := t.modified (c.nextWord i)
    let slot := match i with
      | .thread j => decide (s.rel % 8 = j.val) && (match c.currier.sec? with
        | some k => decide (s.now < k.issue + 8 + k.len)
        | none => false)
      | .currier => c.currier.sec?.isNone
      | _ => true
    let delay := match i with
      | .thread _ => 8 * delayOf w
      | _ => delayOf w
    if t.running && decide (t.wait = .none) && t.active.isNone && slot && decide (t.base + delay ≤ s.now) &&
        (opFree (opcodeOf w) || decide (t.floor ≤ s.now)) && decide (s.rel < s.reserveAt) then some (p, w)
    else none

/-- The instruction that a stream may issue now, when it has an opcode. -/
def State.issuing (s : State) (l : CoreNo) (i : Issuer) (op : Nat) : Option (CoreNo × Word128) :=
  (s.ready l i).filter fun x => decide (opcodeOf x.2 = op)

/-! ## Two things in one cycle (R190) -/

/-- What two instructions of one core may touch in one cycle: the handles of a gate, its places, a ring, or a drover
stream. A TAKE and a POST on one gate do not meet, since a handle is visible two cycles later (Table 9.5). -/
inductive Shared where
  | handles (g : GateNo)
  | places (g : GateNo)
  | ring (r : RingNo)
  | dstream (d : DroverNo) (i : DStreamNo)
  deriving DecidableEq, Repr

/-- The object that a word of a logical core touches. -/
def sharedOf (l : CoreNo) (w : Word128) : Option Shared :=
  let op := opcodeOf w
  if op = 0xC2 then some (.handles (Fin.ofNat 64 (fld w 122 6)))
  else if op = 0xC3 then
    (if !bitOf w 104 && decide ((Fin.ofNat 32 (fld w 105 5) : CoreNo) = l) then some (.places (Fin.ofNat 64 (fld w 122 6)))
     else none)
  else if op = 0xC5 then some (.ring (Fin.ofNat 32 (fld w 123 5)))
  else if op = 0x06 ∨ op = 0x80 ∨ op = 0x82 then some (.dstream (Fin.ofNat 4 (fld w 94 2)) (Fin.ofNat 8 (fld w 91 3)))
  else if op = 0x81 then some (.dstream (Fin.ofNat 4 (fld w 62 2)) (Fin.ofNat 8 (fld w 59 3)))
  else none

/-- What a held stream waits for. -/
def Wait.shared : Wait → Option Shared
  | .take g _ _ => some (.handles g)
  | .post g _ _ => some (.places g)
  | .none => Option.none

/-- The streams that come before one in the order matrix, currier, drover (R190). -/
def streamsBefore : Issuer → List Issuer
  | .matrix => []
  | .currier => [.matrix]
  | .thread _ => [.matrix]
  | .drover => .matrix :: .currier :: (List.finRange 8).map .thread

/-- No stream that comes first in the order of R190 has still to touch an object in this cycle. -/
def State.turn (s : State) (l : CoreNo) (i : Issuer) (o : Option Shared) : Bool :=
  match o with
  | none => true
  | some x => (streamsBefore i).all fun e =>
      (match s.ready l e with
       | some (_, w) => decide (sharedOf l w ≠ some x)
       | none => true) &&
      (match s.phys l with
       | some p => decide ((s.cores[p].stream e).wait.shared ≠ some x)
       | none => true)

/-- Fields a to e, and the other parts of Table 9.10. -/
def curD (w : Word128) : Nat := fld w 91 5
/-- Source a. -/
def curA (w : Word128) : Nat := fld w 86 5
/-- Source b. -/
def curB (w : Word128) : Nat := fld w 81 5
/-- Source c. -/
def curC (w : Word128) : Nat := fld w 76 5
/-- Operand d of AFFINE. -/
def curD2 (w : Word128) : Nat := fld w 71 5
/-- Operand e of AFFINE. -/
def curE (w : Word128) : Nat := fld w 66 5
/-- Lane-rows g. -/
def curG (w : Word128) : Nat := fld w 57 5 + 1
/-- Lanes of the last lane-row. -/
def curK (w : Word128) : Nat := fld w 49 8 % 128 + 1
/-- Immediate. -/
def curImm (w : Word128) : Nat := fld w 96 32
/-- Number of lanes of lane-row j. -/
def curLanes (w : Word128) (j : Nat) : Nat := if j + 1 < curG w then 128 else curK w

/-- Format code of Table 8.6. -/
def fmtOf : Nat → Option Fmt
  | 0 => some .raw
  | 1 => some .tp8
  | 2 => some .tp16
  | 3 => some .tp32
  | 4 => some .b32
  | 5 => some .b64
  | 6 => some .uq8
  | 7 => some .mono8
  | 8 => some .mono10
  | 9 => some .mono12
  | _ => none

/-- Format of a destination field, raw where the code names none. -/
def fmtD (n : Nat) : Fmt := (fmtOf n).getD .raw

/-- Destination format of a currier word. -/
def curFmt (w : Word128) : Fmt := fmtD (fld w 62 4)

/-! ## Handles and posts (R189, Table 9.3) -/

/-- The handle that a POST word posts. -/
def Stream.posted (t : Stream) (w : Word128) : Handle :=
  if bitOf w 103 then t.handles[Fin.ofNat 4 (fld w 101 2)]
  else { bad := false, tag := BitVec.ofNat 8 (fld w 70 8), buffer := BitVec.ofNat 23 (fld w 78 23) }

/-! ## Descriptors (Tables 8.4 to 8.9) -/

/-- Kind. -/
def dKind (d : Word256) : Nat := fld d 252 4
/-- Source class. -/
def dSrcClass (d : Word256) : Nat := fld d 248 4
/-- Destination class. -/
def dDstClass (d : Word256) : Nat := fld d 244 4
/-- Source format. -/
def dSrcFmt (d : Word256) : Fmt := fmtD (fld d 240 4)
/-- Destination format. -/
def dDstFmt (d : Word256) : Fmt := fmtD (fld d 236 4)
/-- Persistent. -/
def dPersistent (d : Word256) : Bool := bitOf d 235
/-- Post. -/
def dPost (d : Word256) : Bool := bitOf d 234
/-- Gate. -/
def dGate (d : Word256) : GateNo := Fin.ofNat 64 (fld d 226 6)
/-- Remote module. -/
def dModule (d : Word256) : Nat := fld d 214 12
/-- Remote core. -/
def dCore (d : Word256) : CoreNo := Fin.ofNat 32 (fld d 209 5)
/-- Source base. -/
def dSrc (d : Word256) : Nat := fld d 176 32
/-- Destination base. -/
def dDst (d : Word256) : Nat := fld d 144 32
/-- Inner length. -/
def dInner (d : Word256) : Nat := fld d 131 13
/-- count1 of a strided descriptor; 1 otherwise. -/
def dCount1 (d : Word256) : Nat := if dKind d = 1 then fld d 112 16 else 1
/-- count2 of a strided descriptor, the maximum of indices of the others: units in all. -/
def dUnits (d : Word256) : Nat := if dKind d = 1 then fld d 48 16 else fld d 112 16
/-- stride1 of the source. -/
def dS1Src (d : Word256) : Int := fldS d 88 24
/-- stride1 of the destination. -/
def dS1Dst (d : Word256) : Int := fldS d 64 24
/-- stride2 of the source. -/
def dS2Src (d : Word256) : Int := fldS d 24 24
/-- stride2 of the destination. -/
def dS2Dst (d : Word256) : Int := fldS d 0 24
/-- Row pitch of a gather or scatter. -/
def dPitch (d : Word256) : Nat := fld d 88 24
/-- Stride per index position. -/
def dStride (d : Word256) : Int := fldS d 64 24
/-- Index buffer. -/
def dIndex (d : Word256) : Nat := fld d 32 32
/-- Indices are hall addresses of 64 bits. -/
def dHall (d : Word256) : Bool := decide (fld d 30 2 = 1)
/-- Row limit. -/
def dLimit (d : Word256) : Nat := fld d 0 24

/-- Ring of a context. -/
def xRing (x : Word256) : RingNo := Fin.ofNat 32 (fld x 247 5)
/-- Ring enable. -/
def xRingOn (x : Word256) : Bool := bitOf x 246
/-- Carry. -/
def xCarry (x : Word256) : Bool := bitOf x 245
/-- First need F. -/
def xFirst (x : Word256) : Nat := fld x 212 28
/-- Period D. -/
def xPeriod (x : Word256) : Nat := fld x 188 24
/-- Quantiser record. -/
def xRecord (x : Word256) : Nat := fld x 157 31
/-- Quantiser valid. -/
def xHasRecord (x : Word256) : Bool := bitOf x 156
/-- Pixel port. -/
def xPixel (x : Word256) : StreamPort := Fin.ofNat 16 (fld x 152 4)
/-- Pixel valid. -/
def xHasPixel (x : Word256) : Bool := bitOf x 151
/-- Tick step in bytes. -/
def xStep (x : Word256) : Nat := fld x 104 24 * 256
/-- Tick modulus. -/
def xMod (x : Word256) : Nat := fld x 100 4
/-- Tick target: destination bases. -/
def xTarget (x : Word256) : Bool := bitOf x 99

/-- Bits of a word that are all zero. -/
def zeros {n : Nat} (w : BitVec n) (lo len : Nat) : Bool := decide (fld w lo len = 0)

/-- Elements and bytes of one group of a format: pixels come in groups (Table 2.10). -/
def Fmt.group : Fmt → Nat × Nat
  | .mono10 => (4, 5)
  | .mono12 => (2, 3)
  | f => (1, f.bytes)

/-- A format usable as a drover destination (Table 8.6). -/
def Fmt.destOk (f : Fmt) : Bool := !f.mono

/-- Units of accumulator rows (R124): 1,024 B, or 1,088 B with the side entries, then of slots with an even number alone. -/
def accRowsOk (d : Word256) (base : Nat) (step : Int) : Bool :=
  let n := dInner d * dCount1 d
  decide (n = 1024) || (decide (n = 1088) && (List.range (if dKind d = 1 then dUnits d else 1)).all fun u =>
    decide (fldN (wrapN ((base : Int) + step * u) 32) 17 6 % 2 = 0))

/-- A data descriptor is well formed (R165, Tables 8.4 to 8.8): no reserved code, no reserved field set, classes and
formats on their sides, and the inner length a whole number of elements. `x` is its context. -/
def descOk (x d : Word256) : Bool :=
  let k := dKind d
  let sc := dSrcClass d
  let dc := dDstClass d
  let fmtsOk := match fmtOf (fld d 240 4), fmtOf (fld d 236 4) with
    | some sf, some df => df.destOk && (decide (sf = .raw) == decide (df = .raw)) &&
        (decide (sf ≠ .uq8 ∧ df ≠ .uq8) || xHasRecord x) && (!sf.mono || xHasPixel x) && decide (dInner d % sf.group.2 = 0)
    | _, _ => false
  decide (k = 1 ∨ k = 2 ∨ k = 3) && decide (sc ≤ 6 ∧ sc ≠ 3 ∧ sc ≠ 4) && decide (dc ≤ 7) && fmtsOk &&
    zeros d 232 2 && zeros d 208 1 && zeros d 128 3 && decide (1 ≤ dInner d ∧ dInner d ≤ 4096) &&
    (decide (sc = 2 ∨ dc = 2) || (zeros d 214 12 && zeros d 209 5)) &&
    (if k = 1 then decide (1 ≤ fld d 112 16 ∧ 1 ≤ fld d 48 16) && (!xRingOn x || zeros d 0 24) &&
        (decide (sc ≠ 5) || zeros d 24 24)
     else decide (1 ≤ fld d 112 16) && decide (dPitch d % 32 = 0) && decide (dIndex d % 8 = 0) &&
        decide (fld d 30 2 ≤ 1) && zeros d 24 6) &&
    (decide (sc ≠ 6) || accRowsOk d (dSrc d) (dS2Src d)) && (decide (dc ≠ 6) || accRowsOk d (dDst d) (dS2Dst d))

/-- A context descriptor is well formed (Table 8.9). -/
def ctxOk (x : Word256) : Bool :=
  decide (dKind x = 4) && zeros x 240 5 && decide (1 ≤ xPeriod x) && zeros x 128 23 && zeros x 0 99

/-! ## Elements in memory (R150, R165) -/

/-- The elements of a run of bytes, each with the marks of the words that its own bits touch (R150): little-endian codes, and
pixels from their groups, first pixel in the least significant bits (R49, R50). -/
def unpack (f : Fmt) (bs : List MByte) : List Elem :=
  let (ne, nb) := f.group
  let width := f.bits
  (List.range (bs.length / nb)).flatMap fun g =>
    let part := (bs.drop (g * nb)).take nb
    let v := leNat (part.map fun b => b.1)
    (List.range ne).map fun e =>
      let first := e * width / 8
      let own := (part.drop first).take ((e * width + width - 1) / 8 + 1 - first)
      { code := BitVec.ofNat 64 (fldN v (e * width) width), bad := own.any fun b => b.2 }

/-- Elements as bytes, each byte with the mark of its element. -/
def pack (f : Fmt) (es : List Elem) : List MByte :=
  es.flatMap fun e => (leBytes e.code.toNat f.bytes).map fun b => (b, e.bad)

/-- Destination bytes of a number of source bytes. -/
def outLen (sf df : Fmt) (n : Nat) : Nat := if sf = df then n else n / sf.group.2 * sf.group.1 * df.bytes

end Sys2Proof.Machine
end

