-- ==== Sys2Proof/Machine/Tensor.lean ====
section
/-! DEFINITION. UQ8 tensors as a core holds them: quantiser record, channel entries and stray lists in pasture
memory, and the counts and ranges that the module keeps between the reserves (R58 to R71). -/

namespace Sys2Proof.Machine

/-- The quantiser record at a logical offset (R58). -/
def Core.qrec (c : Core) (rec : Nat) : QRec := { QRec.parse (c.pasture.bytes rec 64) with place := rec }

/-- Channel entry of a tensor (Table 3.2). -/
def Core.channel (c : Core) (r : QRec) (ch : Nat) : Word32 := BitVec.ofNat 32 (c.pasture.num (r.table + 4 * ch) 4)

/-- Exact scale of a channel (R57). -/
def Core.scale (c : Core) (r : QRec) (ch : Nat) : Rat := scaleOf (entryScale (c.channel r ch)) r.gq

/-- What the module keeps of a tensor as its fold starts. -/
def TensorQ.fresh (initial : List Word32) : TensorQ :=
  { elements := 0, clips := 0, escapes := 0, collapses := 0, full := [], tiles := [], ranges := [], window := [],
    ticks := 0, initial := initial, operands := none }

/-- What the module keeps of a tensor; nothing yet of one that the image does not name. -/
def Core.tensor (c : Core) (rec : Nat) : TensorQ :=
  match c.tensors.find? fun t => decide (t.1 = rec) with
  | some t => t.2
  | none => .fresh []

/-- The same replaced. -/
def Core.setTensor (c : Core) (rec : Nat) (t : TensorQ) : Core :=
  { c with tensors := (rec, t) :: c.tensors.filter fun x => decide (x.1 ≠ rec) }

/-- Channel entries put into the table of a tensor, from channel 0 on. -/
def Core.putEntries (c : Core) (now rec : Nat) (es : List Word32) : Core :=
  let r := c.qrec rec
  { c with pasture := (List.range es.length).foldl (fun (m : Pasture) ch =>
      m.put now (r.table + 4 * ch) (leBytes (es.getD ch 0).toNat 4)) c.pasture }

/-- Entries of a tensor as its image holds them (R58, R61): a table in static data has them; for one in a dynamic region, whose
image measurement and logical core are given, they are open (DESIGN CHOICE, assumption 52). -/
def Core.imageEntries (c : Core) (dyn : Nat → Bool) (image : BitVec 384) (l rec : Nat) : List Word32 :=
  let r := c.qrec rec
  (List.range r.channels).map fun ch =>
    if dyn (r.table + 4 * ch) then Config.initialEntry image l rec ch else c.channel r ch

/-- A tensor of an image begins with the fold's start (R61): its table in a dynamic region holds the image's entries. -/
def Core.beginTensor (c : Core) (now : Nat) (dyn : Nat → Bool) (image : BitVec 384) (l rec : Nat) : Core :=
  let es := c.imageEntries dyn image l rec
  (if dyn (c.qrec rec).table then c.putEntries now rec es else c).setTensor rec (.fresh es)

/-- Offset of the stray list of a tile (R68). -/
def QRec.list (r : QRec) (tile : Nat) : Nat := r.strays + 288 * tile

/-- Place of an element in its tensor: row, column, tiles in a tile row, channel. -/
structure Place where
  row : Nat
  col : Nat
  tileCols : Nat
  channel : Nat
  deriving DecidableEq, Repr

/-- Number of the tile that holds a place: tiles in row-major order (R67, R68). -/
def Place.tile (p : Place) : Nat := p.row / 128 * p.tileCols + p.col / 128

/-- The stray list entry of a position within a tile, among the valid entries (R65, R68): its TP16 code. -/
def Core.strayFind (c : Core) (list row col : Nat) : Option Nat :=
  ((List.range (min 64 (c.pasture.num list 1))).map fun i => c.pasture.num (list + 32 + 4 * i) 4).findSome? fun e =>
    if fldN e 25 7 = row % 128 ∧ fldN e 18 7 = col % 128 then some (fldN e 0 16) else none

/-- The bytes of pasture that a conversion of a tensor reads beside its elements: record, channel entries, and the lists of
tiles in stray mode (R149) (DESIGN CHOICE, assumption 48). -/
def Core.tensorParts (c : Core) (rec : Nat) (tiles : List Nat) : List (Nat × Nat) :=
  let r := c.qrec rec
  [(rec, 64), (r.table, 4 * r.channels)] ++ (if r.stray then tiles.map fun t => (r.list t, 288) else [])

/-- A word that gives an element its scale, its zero point or its escape was read bad: so is the element (R180). -/
def Core.entryBad (c : Core) (rec : Nat) (p : Place) (escape : Bool) : Bool :=
  let r := c.qrec rec
  c.pasture.badIn rec 64 || c.pasture.badIn (r.table + 4 * p.channel) 4 || (escape && c.pasture.badIn (r.list p.tile) 288)

/-- Value of a UQ8 code (R65): exact value and whether it becomes bad. -/
def Core.dequantAt (c : Core) (rec : Nat) (p : Place) (code : Nat) : Ext × Bool :=
  let r := c.qrec rec
  let esc := r.stray && decide (code = 0xFF)
  let bad := c.entryBad rec p esc
  if esc then
    match c.strayFind (r.list p.tile) p.row p.col with
    | some v => (Fmt.tp16.value v, bad)
    | none => (.fin 0, true)
  else
    let e := c.channel r p.channel
    (.fin (dequant code (entryScale e) (entryZero e) r.gq), bad)

/-- Running range of a channel replaced. -/
def rangePut (ch : Nat) (v : Word32 × Word32) (l : List (Nat × Word32 × Word32)) : List (Nat × Word32 × Word32) :=
  (ch, v.1, v.2) :: l.filter fun x => decide (x.1 ≠ ch)

/-- Running range of a channel. -/
def rangeFind (ch : Nat) (l : List (Nat × Word32 × Word32)) : Option (Word32 × Word32) :=
  (l.find? fun x => decide (x.1 = ch)).map fun x => (x.2.1, x.2.2)

/-- One element quantised into a tensor (R63), with its range (R60), counts (R71) and stray list (R68). `escape`
says whether the path may write the escape code (R72). Answers the core, the code, its mark and the events
(DEDUCED, assumption 18). -/
def Core.quantAt (c : Core) (now rec : Nat) (p : Place) (x : Ext) (bad escape : Bool) :
    Core × Nat × Bool × List (Nat × Nat) :=
  let r := c.qrec rec
  let t := c.tensor rec
  let e := c.channel r p.channel
  let list := r.list p.tile
  let fresh := r.stray && escape && !t.tiles.contains p.tile
  let c := if fresh then { c with pasture := c.pasture.put now list (List.replicate 8 0) } else c
  let n := c.pasture.num list 1
  let bad := bad || c.entryBad rec p false
  let o := quantise x (entryScale e) (entryZero e) r.gq r.stray r.tq (decide (n < 64)) escape
  let eligible := x.isFin && !bad && (!r.stray || decide (absQ x.num ≤ r.tq)) && decide (1 ≤ r.window)
  let newFull := o.setFull && !t.full.contains p.tile
  let pasture := c.pasture
  let pasture := match o.stray with
    | some v => (pasture.put now (list + 32 + 4 * n) (leBytes (p.row % 128 * 2 ^ 25 + p.col % 128 * 2 ^ 18 + v) 4)).put
        now list (leBytes (n + 1) 1)
    | none => pasture
  let pasture := if o.setFull then pasture.put now (list + 1) [1] else pasture
  let pasture := if o.clipped then pasture.put now (list + 4) (leBytes (pasture.num (list + 4) 4 + 1) 4) else pasture
  let t := { t with
    elements := t.elements + 1, clips := t.clips + o.clips, escapes := t.escapes + o.escapes,
    collapses := t.collapses + o.collapses,
    full := if newFull then p.tile :: t.full else t.full,
    tiles := if fresh then p.tile :: t.tiles else t.tiles,
    ranges := if eligible then rangePut p.channel (rangeAdd (rangeFind p.channel t.ranges) x.num) t.ranges
              else t.ranges }
  (({ c with pasture := pasture }).setTensor rec t, o.code, bad || o.bad,
    [(0x18, o.clips), (0x19, o.escapes), (0x1A, o.collapses), (0x1B, b2n newFull)])

/-- One element rounded to a destination (R127, R165): a tapered or IEEE code, or a UQ8 code of a tensor. -/
def Core.roundAt (c : Core) (now : Nat) (f : Fmt) (rec : Nat) (p : Place) (x : Ext) (neg0 bad : Bool) :
    Core × Elem × List (Nat × Nat) :=
  if f = .uq8 then
    let (c, code, b, es) := c.quantAt now rec p x bad true
    (c, { code := BitVec.ofNat 64 code, bad := b }, es)
  else
    let r := f.encode x neg0
    (c, { code := BitVec.ofNat 64 r.1, bad := bad }, evCounts r.2)

/-! ## The reserve tasks of a tensor (R61, R62, R71, R74) -/

/-- The union of the records of a window for one channel. -/
def windowRange (w : List (List (Nat × Word32 × Word32))) (ch : Nat) : Option (Word32 × Word32) :=
  w.foldl (fun a l => rangeJoin a (rangeFind ch l)) none

/-- A tensor closes its tick: the record goes to the ring, the channel entries of the next tick are found from
the window, the counts are written and start again (DEDUCED, assumption 22). For a channel with no eligible value in the
tick nothing is written to the ring, and the record of W ticks before stays there (DESIGN CHOICE, assumption 22). -/
def Core.closeTensor (c : Core) (now rec : Nat) : Core :=
  let r := c.qrec rec
  let t := c.tensor rec
  let w := r.window
  let ring := t.ranges.foldl (fun (m : Pasture) x =>
    if w = 0 ∨ r.ring = 0 then m
    else m.put now (r.ring + 8 * r.channels * (t.ticks % w) + 8 * x.1)
      (leBytes x.2.1.toNat 4 ++ leBytes x.2.2.toNat 4)) c.pasture
  let window := if w = 0 then [] else (t.ranges :: t.window).take w
  let chans := (window.flatMap fun l => l.map fun x => x.1).dedup
  let table := if w = 0 then ring else chans.foldl (fun (m : Pasture) ch =>
    match windowRange window ch with
    | none => m
    | some (mn, mx) =>
      let e := findEntry (b32Val mn) (b32Val mx) r.gq r.q
      m.put now (r.table + 4 * ch) (leBytes (e.1 * 256 + e.2) 4)) ring
  let stats := table.put now r.stats
    (leBytes t.elements 4 ++ leBytes t.clips 4 ++ leBytes t.escapes 4 ++ leBytes t.collapses 4 ++
      leBytes t.full.length 4 ++ List.replicate 12 0)
  ({ c with pasture := stats }).setTensor rec
    { t with elements := 0, clips := 0, escapes := 0, collapses := 0, full := [], ranges := [], window := window,
             ticks := t.ticks + 1 }

/-- Columns of an output tensor for which the module keeps requantisation records: one slot's columns, or one for each
channel of the tensor when there are more (DEDUCED, assumption 22). -/
def QRec.columns (r : QRec) : Nat := max 128 r.channels

/-- The requantisation records of an output tensor recomputed (R74) when one of the three scales is dynamic.
`ops` names the records of the operands and the weight's channel at column 0. A column whose s_out has code 0x00 needs no
record: its elements are z_out. -/
def Core.requantTensor (c : Core) (now rec : Nat) (ops : Nat × Nat × Nat) : Core :=
  let r := c.qrec rec
  let ra := c.qrec ops.1
  let rw := c.qrec ops.2.1
  if r.requant = 0 ∨ (r.window = 0 ∧ ra.window = 0 ∧ rw.window = 0) then c
  else
    let sa := c.scale ra 0
    let m := (List.range r.columns).foldl (fun (m : Pasture) n =>
      let sw := c.scale rw (ops.2.2 + n)
      let so := c.scale r (n % (max 1 r.channels))
      if so = 0 then m
      else
        let mh := if sa = 0 ∨ sw = 0 then (0, 0) else requantRecord (sa * sw / so)
        m.put now (r.requant + 8 * n) (leBytes (requantWord mh.1 mh.2) 8)) c.pasture
    { c with pasture := m }

/-- The stray lists of a tensor begin a tick: count and flags are cleared (R68). -/
def Core.clearLists (c : Core) (now rec : Nat) : Core :=
  let r := c.qrec rec
  let t := c.tensor rec
  { c with pasture := t.tiles.foldl (fun (m : Pasture) tile => m.put now (r.list tile) [0, 0]) c.pasture }

/-- A tensor starts again with the entries of the image (R61). The lists that it filled are still to be cleared (R68). -/
def Core.restartTensor (c : Core) (now rec : Nat) : Core :=
  let t := c.tensor rec
  let c := if 1 ≤ (c.qrec rec).window then c.putEntries now rec t.initial else c
  c.setTensor rec { TensorQ.fresh t.initial with tiles := t.tiles, operands := t.operands }

end Sys2Proof.Machine
end

