-- ==== Sys2Proof/Machine/Flags.lean ====
section
/-! DEFINITION. Marks and flags: side entries and their merge, row state and slot state words, and what special
operands do to a sum (spec/06_accumulation.md). -/

namespace Sys2Proof.Machine

/-! ## Side entries (Tables 6.7 and 6.8) -/

/-- Tag of a side entry. -/
def sideTag (s : BitVec 4) : Nat := fld s 0 2
/-- Bad mark of a side entry. -/
def sideBad (s : BitVec 4) : Bool := bitOf s 2
/-- Invalid bit of a side entry. -/
def sideInvalid (s : BitVec 4) : Bool := bitOf s 3

/-- A side entry of its parts. -/
def sideOf (invalid bad : Bool) (tag : Nat) : BitVec 4 := BitVec.ofNat 4 (b2n invalid * 8 + b2n bad * 4 + tag % 4)

/-- Table 6.8: the merged tag, and whether the merge itself sets the invalid bit. -/
def tagMerge (cur inc : Nat) : Nat × Bool :=
  if inc = 0 then (cur, false)
  else if cur = 0 then (inc, false)
  else if cur = 3 ∨ inc = 3 then (3, false)
  else if cur = inc then (cur, false)
  else (3, true)

/-- Merge of two side entries (R113). -/
def sideMerge (a b : BitVec 4) : BitVec 4 :=
  let t := tagMerge (sideTag a) (sideTag b)
  sideOf (sideInvalid a || sideInvalid b || t.2) (sideBad a || sideBad b) t.1

/-- A side entry with its bad mark set. -/
def sideMark (a : BitVec 4) : BitVec 4 := sideMerge a 4

/-- Side entry of the product of two operands in one lane (R94, R113): finite products leave 0. -/
def laneSide (a w : Ext) : BitVec 4 :=
  match a, w with
  | .nan, _ => 3
  | _, .nan => 3
  | .inf p, .inf q => if p = q then 1 else 2
  | .inf p, .fin x => if x = 0 then 11 else if p = decide (x < 0) then 1 else 2
  | .fin x, .inf p => if x = 0 then 11 else if p = decide (x < 0) then 1 else 2
  | .fin _, .fin _ => 0

/-- The special value that a tag names. -/
def tagExt (tag : Nat) (q : Rat) : Ext :=
  if tag = 0 then .fin q else if tag = 1 then .inf false else if tag = 2 then .inf true else .nan

/-- The tag of an exact value. -/
def extTag : Ext → Nat
  | .fin _ => 0
  | .inf false => 1
  | .inf true => 2
  | .nan => 3

/-! ## Row and slot state words (Tables 6.4 and 6.5) -/

/-- Index of a row in the row state map, and of an entry in the entry map. -/
def rowIx (slot row : Nat) : Nat := slot * 128 + row
/-- Index of an entry. -/
def entIx (slot row col : Nat) : Nat := slot * 16384 + row * 128 + col

/-- Cleared bit. -/
def rowCleared (w : BitVec 16) : Bool := bitOf w 15
/-- Carry guard exhausted. -/
def rowGuard (w : BitVec 16) : Bool := bitOf w 14
/-- Operation count. -/
def rowCount (w : BitVec 16) : Nat := fld w 0 11

/-- A row state word. -/
def rowWord (cleared guard : Bool) (count : Nat) : BitVec 16 :=
  BitVec.ofNat 16 (b2n cleared * 2 ^ 15 + b2n guard * 2 ^ 14 + min 2047 count)

/-- Row state word of a slot's row. -/
def Accum.row (a : Accum) (slot row : Nat) : BitVec 16 := cellGet 0 (rowIx slot row) a.rows
/-- Slot state word. -/
def Accum.slot (a : Accum) (slot : Nat) : Word32 := cellGet 0 slot a.slots
/-- Class recorded for a slot: 0 UQ8, 1 TP8, 2 TP16, 3 W128, 7 odd member of a pair. -/
def Accum.cls (a : Accum) (slot : Nat) : Nat := fld (a.slot slot) 0 3
/-- Window base of a slot (R81), signed. -/
def Accum.base (a : Accum) (slot : Nat) : Int := fldS (a.slot slot) 16 16
/-- A 64-bit entry. -/
def Accum.entry (a : Accum) (slot row col : Nat) : Word64 := cellGet 0 (entIx slot row col) a.entries
/-- A side entry. -/
def Accum.side (a : Accum) (slot row col : Nat) : BitVec 4 := cellGet 0 (entIx slot row col) a.sides

/-- A row state word replaced. -/
def Accum.setRow (a : Accum) (slot row : Nat) (w : BitVec 16) : Accum :=
  { a with rows := cellSet 0 (rowIx slot row) w a.rows }
/-- An entry replaced. -/
def Accum.setEntry (a : Accum) (slot row col : Nat) (w : Word64) : Accum :=
  { a with entries := cellSet 0 (entIx slot row col) w a.entries }
/-- A side entry replaced. -/
def Accum.setSide (a : Accum) (slot row col : Nat) (w : BitVec 4) : Accum :=
  { a with sides := cellSet 0 (entIx slot row col) w a.sides }

/-- A class whose entries lie on a slot pair (Table 6.2). -/
def pairClass (c : Nat) : Bool := c = 2 || c = 3

/-- A cleared row of one slot written with a value in every entry, zero side entries and a count of 0; an exhausted carry
guard lasts until the next clear (Table 6.4). -/
def Accum.refill (a : Accum) (slot row : Nat) (v : Word64) : Accum :=
  if rowCleared (a.row slot row) then
    let lo := entIx slot row 0
    let e := cellsClear lo (lo + 128) a.entries
    { a with
      entries := if v = 0 then e else cellsSet 0 lo (List.replicate 128 v) e
      sides := cellsClear lo (lo + 128) a.sides
      rows := cellSet 0 (rowIx slot row) (rowWord false (rowGuard (a.row slot row)) 0) a.rows }
  else a

/-- The first operation that reads a cleared row writes it (R114): integer 0, or V = 0 with the window base in a
W128 pair, zero side entries and a count of 0. `pair` takes the odd slot with it. -/
def Accum.materialise (a : Accum) (slot row : Nat) (pair : Bool) : Accum :=
  let one := fun (a : Accum) (s : Nat) =>
    a.refill s row (if a.cls s = 3 then BitVec.ofNat 64 (fld (a.slot s) 16 16) else 0)
  if pair then one (one a slot) (slot + 1) else one a slot

/-- The entry of a slot or pair as an integer and the exponent of its unit when W128, by class. -/
def Accum.int (a : Accum) (cls slot row col : Nat) : Int × Int :=
  let lo := (a.entry slot row col).toNat
  if cls = 2 then (signedN ((a.entry (slot + 1) row col).toNat * 2 ^ 64 + lo) 128, 0)
  else if cls = 3 then
    let w := (a.entry (slot + 1) row col).toNat * 2 ^ 64 + lo
    (signedN (w / 2 ^ 16) 112, signedN (w % 2 ^ 16) 16)
  else (signedN lo 64, 0)

/-- A 128-bit entry written to a slot pair (R106). -/
def Accum.setPair (a : Accum) (slot row col : Nat) (v : Nat) : Accum :=
  (a.setEntry slot row col (BitVec.ofNat 64 v)).setEntry (slot + 1) row col (BitVec.ofNat 64 (v / 2 ^ 64))

/-- Exponent of the unit of a class (Table 6.2): the unit of a UQ8 entry is taken as 1. -/
def unitExp (cls : Nat) : Int := if cls = 1 ∨ cls = 7 then -24 else if cls = 2 then -56 else 0

/-! ## W128 (R80 to R83) -/

/-- One try of w128_add at a shift d. -/
def w128Try (v : Int) (e : Int) (p : Rat) (d : Nat) : Int :=
  v.tdiv (2 ^ d) + truncQ (p * twoPow (-(e + d)))

/-- The first shift from d on at which the sum fits in 112 bits; `fuel` bounds the search. -/
def w128Search (v : Int) (e : Int) (p : Rat) : Nat → Nat → Int × Int
  | d, 0 => (w128Try v e p d, e + d)
  | d, fuel + 1 =>
    let u := w128Try v e p d
    if -(2 ^ 111) ≤ u ∧ u ≤ 2 ^ 111 - 1 then (u, e + d) else w128Search v e p (d + 1) fuel

/-- floor(log2) of a magnitude, a value below every exponent for zero. -/
def mag2 (q : Rat) : Int := if q = 0 then -100000 else floorLog2 (absQ q)

/-- w128_add of R82. Below d0 one of the two terms alone keeps more than 113 bits, so no smaller shift fits and the
search may begin there. -/
def w128Add (v e : Int) (p : Rat) : Int × Int :=
  let d0 := max (mag2 (v : Rat)) (mag2 p - e) - 113
  w128Search v e p d0.toNat 8

/-- A W128 entry as 128 bits (Table 4.6). -/
def w128Word (v e : Int) : Nat := wrapN v 112 * 2 ^ 16 + wrapN e 16

end Sys2Proof.Machine
end

