-- ==== Sys2Proof/Machine/Array.lean ====
section
/-! DEFINITION. The matrix array: lane operands, passes, the slot write stage, row hazards and the walks of spills
and readouts, as operations of one core (spec/04, 05 and 06). -/

namespace Sys2Proof.Machine

/-! ## Lane operands (Tables 4.1 and 5.2) -/

/-- Significand and exponent of its least significant bit of a positive tapered code: (S, x). -/
def tpParts (c n es : Nat) : Nat × Int :=
  let r := c.testBit (n - 2)
  let m := leadRun c r (n - 1)
  let k : Int := if r then (m : Int) - 1 else -(m : Int)
  let q := n - 2 - m
  let t := c % 2 ^ q
  let eb := min es q
  let e := (t / 2 ^ (q - eb)) * 2 ^ (es - eb)
  let w := q - eb
  (2 ^ w + t % 2 ^ w, k * 2 ^ es + e - w)

/-- A finite operand as (−1)^neg × S × 2^x; TP32 is widened to 26 fraction bits (R77). Zero and special values give
S = 0. -/
def Fmt.parts (f : Fmt) (c : Nat) : Bool × Nat × Int :=
  let tp := fun (n es : Nat) =>
    let c := c % 2 ^ n
    if c = 0 ∨ c = 2 ^ (n - 1) ∨ c = 2 ^ (n - 1) - 1 ∨ c = 2 ^ (n - 1) + 1 then (false, 0, (0 : Int))
    else
      let neg := decide (2 ^ (n - 1) < c)
      let p := tpParts (if neg then 2 ^ n - c else c) n es
      (neg, p.1, p.2)
  let bin := fun (eb mb : Nat) (bias : Int) =>
    let e := fldN c mb eb
    let m := c % 2 ^ mb
    if e = 2 ^ eb - 1 then (false, 0, (0 : Int))
    else if e = 0 then (c.testBit (eb + mb), m, 1 - bias - mb)
    else (c.testBit (eb + mb), 2 ^ mb + m, (e : Int) - bias - mb)
  match f with
  | .tp8 => tp 8 1
  | .tp16 => tp 16 1
  | .tp32 =>
    let r := tp 32 3
    if r.2.1 = 0 then r
    else
      let w := Nat.log2 r.2.1
      (r.1, r.2.1 * 2 ^ (26 - w), r.2.2 + w - 26)
  | .b32 => bin 8 23 127
  | .b64 => bin 11 52 1023
  | _ => (false, c, 0)

/-- Bits of the low piece: 8 in narrow passes (Table 5.2), 27 in wide ones. -/
def pieceBits (wide : Bool) : Nat := if wide then 27 else 8

/-- The exact value that a lane multiplies: a whole operand, or its high or low piece. -/
def pieceValue (f : Fmt) (c : Nat) (split high wide : Bool) : Rat :=
  let (neg, s, x) := f.parts c
  let b := pieceBits wide
  let (s, x) := if split then (if high then (s / 2 ^ b, x + b) else (s % 2 ^ b, x)) else (s, x)
  let v := mkRat s 1 * twoPow x
  if neg then -v else v

/-! ## Passes (R88 to R102) -/

/-- Passes per activation row, in issue order: for each, the piece of the activation and of the weight, high or
not (Tables 4.2 and 5.3). -/
def passPieces (wide : Bool) (pair : Nat) : List (Bool × Bool) :=
  if wide then
    match pair with
    | 1 => [(true, false), (false, false)]
    | 2 => [(false, true), (false, false)]
    | 3 => [(true, true), (true, false), (false, true), (false, false)]
    | _ => [(false, false)]
  else
    match pair with
    | 2 => [(false, true), (false, false)]
    | 3 => [(true, false), (false, false)]
    | 4 => [(true, true), (true, false), (false, true), (false, false)]
    | _ => [(false, false)]

/-- Formats of the activation that a pair names. -/
def pairAct (wide : Bool) (pair : Nat) : List Fmt :=
  if wide then (if pair = 1 ∨ pair = 3 then [.b64] else [.tp32, .b32])
  else if pair = 0 ∨ pair = 2 then [.tp8] else if pair = 1 then [.uq8] else [.tp16]

/-- Formats of the weight that a pair names (R452: either of TP32 and binary32 matches). -/
def pairWt (wide : Bool) (pair : Nat) : List Fmt :=
  if wide then (if pair = 2 ∨ pair = 3 then [.b64] else [.tp32, .b32])
  else if pair = 0 ∨ pair = 3 then [.tp8] else if pair = 1 then [.uq8] else [.tp16]

/-- Accumulation class of a pair (Table 6.2). -/
def pairCls (wide : Bool) (pair : Nat) : Nat := if wide then 3 else if pair = 0 then 1 else if pair = 1 then 0 else 2

/-- The zero row whose elements are all marked bad (R100). -/
def FeederEntry.missing : FeederEntry :=
  { elems := List.replicate 256 { code := 0, bad := true }, za := 0, fmt := .raw, stray := false, record := 0 }

/-- Element k of a feeder entry, 0 where the entry has none. -/
def FeederEntry.elem (e : FeederEntry) (k : Nat) : Elem := e.elems.getD k { code := 0, bad := false }

/-- Weight element at K position k and column n. -/
def WeightSet.cell (w : WeightSet) (k n : Nat) : Elem :=
  cellGet { code := 0, bad := w.background } (k * 128 + n) w.cells

/-- A weight set of a core. -/
def Core.wset (c : Core) (y : Bool) : WeightSet := if y then c.setY else c.setX

/-- The set records a format that a pass of this pair does not name (R452). -/
def PassFl.mismatch (f : PassFl) : Bool :=
  match f.weights.fmt with
  | some g => !(pairWt f.wide f.pair.toNat).contains g
  | none => false

/-- Lane operand of an activation element: value, and its whole value for the side tag. -/
def PassFl.act (f : PassFl) (k : Nat) : Rat × Ext :=
  let e := f.row.elem k
  let c := e.code.toNat
  if f.row.fmt = .uq8 then
    if f.row.stray && decide (c = 0xFF) then (0, .fin 0)
    else (((c : Int) - f.row.za.toNat : Int), .fin 1)
  else if f.row.fmt = .raw then (0, .fin 0)
  else
    let b64 := decide (f.row.fmt = .b64 ∨ f.row.fmt = .tp16)
    (pieceValue f.row.fmt c b64 f.pieceA f.wide, f.row.fmt.value c)

/-- Lane operand of a weight element; 0 in every lane when the set's format does not match (R452). -/
def PassFl.wt (f : PassFl) (k n : Nat) : Rat × Ext :=
  if f.mismatch then (0, .fin 0)
  else
    match f.weights.fmt with
    | none => (0, .fin 0)
    | some g =>
      let c := (f.weights.cell k n).code.toNat
      if g = .uq8 then
        if c = 0xFF ∧ leAt f.weights.trailer 128 4 ≠ 0 then (0, .fin 0)
        else (((c : Int) - (f.weights.trailer.getD n 0).toNat : Int), .fin 1)
      else
        let split := decide (g = .b64 ∨ g = .tp16)
        (pieceValue g c split f.pieceW f.wide, g.value c)

/-- What one column of a pass adds: the exact products in ascending K order and the side entry (R88, R94, R95). `ks`
are the K positions in use. -/
def PassFl.column (f : PassFl) (ks : List Nat) (n : Nat) : List Rat × BitVec 4 :=
  let r := ks.map fun k =>
    let a := f.act k
    let w := f.wt k n
    let bad := (f.row.elem k).bad || (f.weights.cell k n).bad || f.weights.trailerBad
    (a.1 * w.1, sideMerge (laneSide a.2 w.2) (sideOf false bad 0))
  (r.map fun x => x.1, r.foldl (fun s x => sideMerge s x.2) 0)

/-- K positions of a pass: of the whole column, or of one half in half-depth mode (R93, R102). -/
def PassFl.positions (f : PassFl) (lower : Bool) : List Nat :=
  if f.half then List.range' (if lower then 128 else 0) (min f.kcount 128) else List.range f.kcount

/-- Sum of products. -/
def sumQ (l : List Rat) : Rat := l.foldl (· + ·) 0

/-- One column added into its entry at the class recorded for the slot (R89, R107, R108). `single` says that the pass
names one slot alone. -/
def Accum.addColumn (a : Accum) (own slot row n : Nat) (single : Bool) (products : List Rat) : Accum :=
  let cls := a.cls slot
  if cls = 3 then
    let e := a.int 3 slot row n
    let ps := if own = 3 then products else [sumQ products]
    let r := ps.foldl (fun (x : Int × Int) p => w128Add x.1 x.2 p) e
    a.setPair slot row n (w128Word r.1 r.2)
  else
    let u := truncQ (sumQ products * twoPow (-(unitExp cls)))
    if single then
      a.setEntry slot row n (word64 ((a.entry slot row n).toNat + u))
    else
      let v := ((a.entry (slot + 1) row n).toNat * 2 ^ 64 + (a.entry slot row n).toNat : Nat)
      a.setPair slot row n (wrapN ((v : Int) + u) 128)

/-- The operation count of a row of a TP8 or TP16 class slot rises (R109, R110). Answers the event count. -/
def Accum.countOp (a : Accum) (slot row : Nat) : Accum × Nat :=
  let cls := a.cls slot
  if cls = 1 ∨ cls = 2 then
    let w := a.row slot row
    let n := rowCount w + 1
    if 1024 < n then
      let a := a.setRow slot row (rowWord false true n)
      if rowGuard w then (a, 0)
      else ((List.range 128).foldl (fun (a : Accum) c => a.setSide slot row c (sideMark (a.side slot row c))) a, 1)
    else (a.setRow slot row (rowWord (rowCleared w) (rowGuard w) n), 0)
  else (a, 0)

/-- The slot whose side entries and row state words serve a slot: the even slot of its pair, else itself (R106). -/
def Accum.home (a : Accum) (slot : Nat) : Nat := if a.cls slot = 7 ∧ pairClass (a.cls (slot - 1)) then slot - 1 else slot

/-- The accumulator as an operation sees a row: a row in the cleared state reads as R114 says, over the whole pair. -/
def Accum.seen (a : Accum) (slot row : Nat) : Accum :=
  a.materialise (a.home slot) row (pairClass (a.cls (a.home slot)))

/-- Every entry of a row marked bad. -/
def Accum.markRow (a : Accum) (slot row : Nat) : Accum :=
  (List.range 128).foldl (fun (a : Accum) n => a.setSide slot row n (sideMark (a.side slot row n))) a

/-- Entries of a row written from outside the array, from column `col` on (R105, R124): each a value, a side entry and a
mark. The write sets the operation count and leaves the row not cleared; under an exhausted carry guard it marks what it
writes (R110). -/
def Accum.putRow (a : Accum) (slot row col : Nat) (es : List (Word64 × BitVec 4 × Bool)) : Accum :=
  let e := a.home slot
  let a := a.seen slot row
  let guard := rowGuard (a.row e row)
  let a := es.zipIdx.foldl (fun (a : Accum) x =>
    let n := col + x.2
    let side := if e = slot then x.1.2.1 else a.side e row n
    (a.setEntry slot row n x.1.1).setSide e row n (if guard || x.1.2.2 then sideMark side else side)) a
  a.setRow e row (rowWord false guard (if a.cls e = 1 ∨ a.cls e = 2 then 1 else 0))

/-- The slots whose side entries and row state words serve a list of slots. -/
def Accum.homes (a : Accum) (slots : List Nat) : List Nat := (slots.map a.home).dedup

/-- The slot write stage of one slot or pair for one pass (R92, R108, R110, R113). `mark` marks every entry the pass
writes. -/
def Accum.addPass (a : Accum) (f : PassFl) (slot : Nat) (lower mark : Bool) : Accum × List (Nat × Nat) :=
  let own := pairCls f.wide f.pair.toNat
  let single := !pairClass own
  let conflict := decide (a.cls slot ≠ own)
  let homes := a.homes (if single then [slot] else [slot, slot + 1])
  let a := homes.foldl (fun (a : Accum) h => a.seen h f.dest) a
  let (a, guard) := if f.op = f.issue then
      homes.foldl (fun (x : Accum × Nat) h =>
        let r := x.1.countOp h f.dest
        (r.1, x.2 + r.2)) (a, 0)
    else (a, 0)
  let ks := f.positions lower
  let a := (List.range f.ncount).foldl (fun (a : Accum) n =>
    let (ps, side) := f.column ks n
    homes.foldl (fun (a : Accum) h =>
      let side := if mark || conflict || rowGuard (a.row h f.dest) then sideMark side else side
      a.setSide h f.dest n (sideMerge (a.side h f.dest n) side)) (a.addColumn own slot f.dest n single ps)) a
  (a, [(0x32, guard), (0x31, b2n conflict)])

/-- Some activation element in use is marked: it marks every entry that the pass writes in the row, in half-depth in both
slots (R95). -/
def PassFl.rowBad (f : PassFl) : Bool :=
  (f.positions false ++ (if f.half then f.positions true else [])).any fun k => (f.row.elem k).bad

/-- A pass leaves the slot write stage (R92): its entries are written and it is no longer in flight. The accumulator as it
stood before the passes of this cycle is kept for the reads of the cycle (R122). -/
def Core.passUpdate (c : Core) (now : Nat) (f : PassFl) : Core × List (Nat × Nat) :=
  let mark := f.mismatch || f.rowBad || f.weights.conflict || (c.wset f.set).conflict
  let (a, e1) := c.acc.addPass f f.slot false mark
  let (a, e2) := if f.half then a.addPass f (f.slot + 1) true mark else (a, [])
  let back := match c.wroteBack with
    | some (t, old, fs) => if t = now then some (now, old, fs ++ [f]) else some (now, c.acc, [f])
    | none => some (now, c.acc, [f])
  let slots := if f.half then [f.slot, f.slot + 1] else [f.slot]
  let origins := if pairCls f.wide f.pair.toNat = 0 then
      slots.map (fun s => (s, f.row.record, f.weights.record, leAt f.weights.trailer 132 2)) ++
        c.origins.filter fun o => !slots.contains o.1
    else c.origins
  ({ c with acc := a, passes := c.passes.drop 1, wroteBack := back, origins := origins }, e1 ++ e2)

/-- The accumulator as a currier or drover reads it in a cycle (R122): without the passes written back in it. -/
def Core.accAt (c : Core) (now : Nat) : Accum := match c.wroteBack with
  | some (t, old, _) => if t = now then old else c.acc
  | none => c.acc

/-- The passes whose write-back fell in this cycle. -/
def Core.backNow (c : Core) (now : Nat) : List PassFl := match c.wroteBack with
  | some (t, _, fs) => if t = now then fs else []
  | none => []

/-- Slots of a pass: a pair, both halves, or one. -/
def passSlots (wide : Bool) (pair : Nat) (half : Bool) (slot : Nat) : List Nat :=
  if half || pairClass (pairCls wide pair) then [slot, slot + 1] else [slot]

/-- A row write at a cycle overlaps a pass into the same row between its read and its write-back (R124). -/
def Core.rowClash (c : Core) (now slot row : Nat) : Bool :=
  (c.passes ++ c.backNow now).any fun k => (passSlots k.wide k.pair.toNat k.half k.slot).contains slot && decide (k.dest = row) &&
    decide (now ≤ k.issue + 11) && decide (k.issue + 9 ≤ now)

/-- A row write lands (R124). The write-back of an overlapping pass falls later and stands: of the row write only the mark
of the row is left, and a slot write conflict. -/
def Core.rowWrite (c : Core) (now slot row col : Nat) (es : List (Word64 × BitVec 4 × Bool)) : Core × List (Nat × Nat) :=
  if c.rowClash now slot row then
    ({ c with acc := (c.acc.seen slot row).markRow (c.acc.home slot) row }, [(0x33, 1)])
  else ({ c with acc := c.acc.putRow slot row col es }, [])

/-! ## Row hazards (R121) -/

/-- Slots of a pass in flight. -/
def PassFl.slots (f : PassFl) : List Nat := passSlots f.wide f.pair.toNat f.half f.slot

/-- Slots of a walk. -/
def Walk.slots (w : Walk) : List Nat := if w.pair then [w.slot, w.slot + 1] else [w.slot]

/-- Read cycle of row r of a walk (Tables 6.10, 6.11). -/
def walkRead (isRead pair : Bool) (issue r : Nat) : Nat :=
  if !isRead && pair then issue + 1 + 3 * r / 2 else issue + 1 + r

/-- Read cycle of a row of a walk. -/
def Walk.readAt (w : Walk) (r : Nat) : Nat := walkRead w.isRead w.pair w.issue r

/-- Two lists of slots share one. -/
def meets (a b : List Nat) : Bool := a.any fun x => b.contains x

/-- A pass issued now would occupy a row at or before the last cycle of an earlier operation (R121). -/
def Core.passConflict (c : Core) (now op : Nat) (slots : List Nat) (dest : Nat) : Bool :=
  (c.passes.any fun f => meets slots f.slots && decide (f.dest = dest) && decide (f.op ≠ op) &&
      decide (now + 9 ≤ f.issue + 11)) ||
    (c.walks.any fun w => meets slots w.slots && decide (now + 9 ≤ w.readAt dest))

/-- The same of a clear issued now. -/
def Core.clearConflict (c : Core) (now : Nat) (slots : List Nat) : Bool :=
  (c.passes.any fun f => meets slots f.slots && decide (now + 1 ≤ f.issue + 11)) ||
    (c.walks.any fun w => meets slots w.slots && decide (now + 1 ≤ w.readAt 127))

/-- The same of a spill or readout issued now. -/
def Core.walkConflict (c : Core) (now : Nat) (isRead pair : Bool) (slots : List Nat) : Bool :=
  (c.passes.any fun f => meets slots f.slots && decide (walkRead isRead pair now f.dest ≤ f.issue + 11)) ||
    (c.walks.any fun w => decide (walkRead isRead pair now 0 ≤ w.readAt 127))

/-! ## Fields of the matrix words (Tables 9.7 to 9.9) -/

/-- Passes in all that a PASS or WPASS issues: M × p. -/
def passParts (wide : Bool) (w : Word128) : Nat :=
  (fld w 106 7 + 1) * (passPieces wide (fld w 73 3)).length

/-- The pass that part `part` of a PASS or WPASS issues at a cycle (R88, R91, R99, R100, R191, R452), with its events:
feeder underrun, weight set conflict, and the pass counted. -/
def Core.passPart (c : Core) (wide : Bool) (w : Word128) (part now first : Nat) : PassFl × List (Nat × Nat) :=
  let pair := fld w 73 3
  let pieces := passPieces wide pair
  let p := pieces.length
  let j := part / p
  let q := part % p
  let piece := pieces.getD q (false, false)
  let entry := c.feeder[fld w 113 7 + j]?
  let ok := match entry with
    | some e => (pairAct wide pair).contains e.fmt
    | none => false
  let set := bitOf w 77
  let fl : PassFl :=
    { issue := now, wide := wide, pair := BitVec.ofNat 3 pair, half := !wide && bitOf w 76, pieceA := piece.1,
      pieceW := piece.2, op := first, row := if ok then entry.getD .missing else .missing, set := set,
      weights := c.wset set, kcount := if wide then fld w 101 5 + 1 else fld w 98 8 + 1, ncount := fld w 91 7 + 1,
      dest := (fld w 84 7 + j) % 128, slot := fld w 78 6 }
  (fl, [(if wide then 0x02 else 0x01, 1), (0x34, b2n !ok), (0x30, b2n fl.mismatch)])

/-- The release of a PASS or WPASS at the end of its occupancy (R99, R191). -/
def Core.feederRelease (c : Core) (n : Nat) : Core × List (Nat × Nat) :=
  ({ c with feeder := c.feeder.drop n }, [(0x34, b2n (decide (c.feeder.length < n)))])

/-- A row written at the tail of the feeder queue (R99, R100): a full queue discards it. -/
def Core.feederPush (c : Core) (e : FeederEntry) : Core × List (Nat × Nat) :=
  if 128 ≤ c.feeder.length then (c, [(0x35, 1)]) else ({ c with feeder := c.feeder ++ [e] }, [])

/-! ## Clears (R114) -/

/-- Slots per count of a CLEAR word. -/
def clearStep (w : Word128) : Nat := if bitOf w 121 then 2 else 1
/-- Number of slots or pairs that a CLEAR word clears. -/
def clearCount (w : Word128) : Nat := fld w 115 6 + 1
/-- Slots of part `part` of a CLEAR. -/
def clearSlots (w : Word128) (part : Nat) : List Nat :=
  let s := fld w 122 6 + part * clearStep w
  if bitOf w 121 then [s, s + 1] else [s]

/-- A clear takes its effect: the cleared bit of every row of a slot and the slot state word. -/
def Accum.clear (a : Accum) (slot : Nat) (cls : BitVec 3) (base : BitVec 16) : Accum :=
  let lo := rowIx slot 0
  { a with
    rows := cellsSet 0 lo (List.replicate 128 (rowWord true false 0)) (cellsClear lo (lo + 128) a.rows)
    slots := cellSet 0 slot (BitVec.ofNat 32 (base.toNat * 2 ^ 16 + cls.toNat)) a.slots }

/-- The clears that part `part` of a CLEAR puts into effect in the next cycle. -/
def clearEntries (w : Word128) (part now : Nat) : List (Nat × BitVec 3 × BitVec 16 × Nat) :=
  let cls := BitVec.ofNat 3 (fld w 112 3)
  let base : BitVec 16 := if cls = 3 then BitVec.ofNat 16 (fld w 96 16) else 0
  match clearSlots w part with
  | [a, b] => [(a, cls, base, now + 1), (b, 7, 0, now + 1)]
  | [a] => [(a, cls, base, now + 1)]
  | _ => []

/-! ## Walks (R117 to R120) -/

/-- The instruction agrees with the class recorded for its slot (R120). -/
def walkAgrees (isRead pair quire : Bool) (cls : Nat) : Bool :=
  if isRead then
    decide (cls ≠ 7) && (pair == pairClass cls) && (!quire || decide (cls = 1 ∨ cls = 2))
  else (decide (cls = 1) && !pair) || (decide (cls = 2) && pair)

/-- The walk of a SPILL word issued now. -/
def Core.spillWalk (c : Core) (w : Word128) (now : Nat) : Walk :=
  let slot := fld w 122 6
  let pair := bitOf w 121
  { isRead := false, issue := now, slot := slot, pair := pair, flag := bitOf w 120, quire := some (fld w 89 31),
    mismatch := !walkAgrees false pair true (c.acc.cls slot), cls := BitVec.ofNat 3 (c.acc.cls slot), next := 0,
    caught := [], fmt := .raw, kind := 0, reg := 0, drover := 0, stream := 0, integerPath := false, record := 0 }

/-- The walk of a READ word issued now. A mismatch reads the slot in its recorded class without a quire. -/
def Core.readWalk (c : Core) (w : Word128) (now : Nat) : Walk :=
  let slot := fld w 122 6
  let pair := bitOf w 121
  let quire := bitOf w 119
  let cls := c.acc.cls slot
  let bad := !walkAgrees true pair quire cls
  { isRead := true, issue := now, slot := slot, pair := if bad then pairClass cls else pair, flag := bitOf w 120,
    quire := if quire && !bad then some (fld w 88 31) else none, mismatch := bad, cls := BitVec.ofNat 3 cls,
    next := 0, caught := [], fmt := fmtD (fld w 84 4), kind := BitVec.ofNat 2 (fld w 82 2),
    reg := BitVec.ofNat 5 (fld w 77 5), drover := Fin.ofNat 4 (fld w 75 2), stream := Fin.ofNat 8 (fld w 72 3),
    integerPath := bitOf w 71, record := fld w 40 31 }

/-- Bytes of a quire entry (Table 6.9). -/
def quireBytes (cls : Nat) : Nat := if cls = 2 then 24 else 16

/-- Offset of the side entries of a quire row. -/
def quireSides (quire cls row : Nat) : Nat := quire + 128 * 128 * quireBytes cls + row * 64

/-- A quire row as read: 128 integers and side entries, each marked when its word or its side word is bad, with the
events of the reads. -/
def Core.quireRow (c : Core) (now quire cls row : Nat) : List Int × List (BitVec 4) × List (Nat × Nat) :=
  let b := quireBytes cls
  let r := c.pasture.read now (quire + row * 128 * b) (128 * b)
  let q := c.pasture.read now (quireSides quire cls row) 64
  let ints := (List.range 128).map fun n =>
    signedN (leNat (((r.bytes.drop (n * b)).take b).map fun x => x.1)) (8 * b)
  let sides := (List.range 128).map fun n =>
    let bad := (((r.bytes.drop (n * b)).take b).any fun x => x.2) || (q.bytes.getD (n / 2) (0, false)).2
    let s := BitVec.ofNat 4 (fldN (q.bytes.getD (n / 2) (0, false)).1.toNat (4 * (n % 2)) 4)
    if bad then sideMark s else s
  (ints, sides, r.events ++ q.events)

/-- A row of a slot marked by a SPILL that disagrees with its class (R120): a cleared row is written as integer 0 in every
class first. -/
def Accum.markSpilled (a : Accum) (slot row : Nat) : Accum :=
  let h := a.home slot
  let a := a.refill h row 0
  let a := if pairClass (a.cls h) then a.refill (h + 1) row 0 else a
  a.markRow h row

/-- A walk reads its next row in its read cycle: the row as captured, and the slot after it (R114, R117, R118,
R120). A row that is read and not cleared leaves the cleared state; a carry guard lasts until the next clear (R110). -/
def Core.walkCatch (c : Core) (w : Walk) (now : Nat) : Core × Walk × List (Nat × Nat) :=
  let r := w.next
  let cls := w.cls.toNat
  let a := c.acc
  if !w.isRead && w.mismatch then
    ({ c with acc := w.slots.foldl (fun (a : Accum) s => a.markSpilled s r) a }, { w with next := r + 1 }, [])
  else
    let m := if cls = 7 then a else a.materialise w.slot r (pairClass cls)
    let vals := (List.range 128).map fun n =>
      if cls = 7 then ((0 : Int), (0 : Int)) else m.int cls w.slot r n
    let sides := (List.range 128).map fun n =>
      let s := if cls = 7 then 0 else m.side w.slot r n
      if w.mismatch then sideMark s else s
    let wantQ := match w.quire with
      | some _ => w.isRead || !w.flag
      | none => false
    let (qi, qs, es) := if wantQ then c.quireRow now (w.quire.getD 0) cls r else ([], [], [])
    let a := if !w.isRead || w.flag then
        w.slots.foldl (fun (a : Accum) s => a.setRow s r (rowWord true (rowGuard (a.row s r)) 0)) m
      else m
    let cap : RowCap := { row := r, vals := vals, sides := sides, quire := qi, qsides := qs }
    ({ c with acc := a }, { w with next := r + 1, caught := w.caught ++ [cap] }, es)

/-- Exact value of entry n of a captured row, quire added (R118), and its merged side entry. -/
def RowCap.value (r : RowCap) (cls n : Nat) : Int × Rat × BitVec 4 :=
  let v := r.vals.getD n (0, 0)
  let i := v.1 + r.quire.getD n 0
  let q := if cls = 3 then (v.1 : Rat) * twoPow v.2 else (i : Rat) * twoPow (unitExp cls)
  let s := r.sides.getD n 0
  (i, q, if r.qsides.isEmpty then s else sideMerge s (r.qsides.getD n 0))

/-- Bytes of a captured row as its quire row is written (R116, R117): integers and side entries. -/
def RowCap.quireBytes (r : RowCap) (cls : Nat) : List Byte × List Byte :=
  let b := Machine.quireBytes cls
  let vs := (List.range 128).map fun n => r.value cls n
  (vs.flatMap fun v => leBytes (wrapN v.1 (8 * b)) b,
   (List.range 64).map fun i => BitVec.ofNat 8 ((vs.getD (2 * i) (0, 0, 0)).2.2.toNat +
     16 * (vs.getD (2 * i + 1) (0, 0, 0)).2.2.toNat))

/-! ## Weight loads (R96 to R98, R450 to R452) -/

/-- Rows of the array that a load of a format writes, and K positions in each. -/
def loadRow (f : Fmt) (row : Nat) : List Nat :=
  if f = .tp32 ∨ f = .b32 ∨ f = .b64 then List.range' (3 * row) 3 else List.range' (32 * row) 32

/-- A pass of a set reads a DPU row while it is written, or has yet to read it and was issued before the load (R97, R98): the
row is written from cycle `first` to cycle `last` of a load that began at `start`. -/
def PassFl.clashes (f : PassFl) (y : Bool) (row start first last : Nat) : Bool :=
  decide (f.set = y) && decide (first ≤ f.issue + 1 + row) && (decide (f.issue < start) || decide (f.issue + 1 + row ≤ last))

/-- A row of a weight tile lands in a set (R96 to R98, R450, R452): `row` is the DPU row, `es` its elements in the order of
the load stream, `rec'` the quantiser record of the loading context, `trailer` the trailer that comes with row 0 and whether
it was read bad. The row is written from cycle `first` to `now`. A row that an earlier pass has yet to read is not written;
passes that the load may feed read it. -/
def Core.loadWeights (c : Core) (y : Bool) (f : Fmt) (row : Nat) (es : List Elem) (rec' : Nat) (trailer : List Byte × Bool)
    (first now : Nat) : Core × List (Nat × Nat) :=
  let w := c.wset y
  let start := if row = 0 then first else w.loadStart
  let clash := c.passes.any fun p => p.clashes y row start first now
  let ks := loadRow f row
  let write := fun (cells : List (Nat × Elem)) (bg : Bool) =>
    (ks.zipIdx).foldl (fun cells ki =>
      cellsSet { code := 0, bad := bg } (ki.1 * 128) (sliceD { code := 0, bad := true } es (ki.2 * 128) 128) cells) cells
  let before := if row = 0 then [] else w.landed
  let landed := if clash then before else row :: before
  let complete := decide (8 ≤ landed.dedup.length)
  let w := { w with
    fmt := some f, record := rec', loadStart := start, landed := landed,
    trailer := if row = 0 then trailer.1 else w.trailer,
    trailerBad := if row = 0 then trailer.2 else w.trailerBad,
    cells := if clash then w.cells else write w.cells w.background,
    conflict := if clash then true else if complete then false else w.conflict }
  let passes := if clash then c.passes else c.passes.map fun p =>
    if p.set = y ∧ start ≤ p.issue ∧ now < p.issue + 1 + row then
      { p with weights := { p.weights with
          fmt := w.fmt, record := rec', trailer := w.trailer, trailerBad := w.trailerBad,
          cells := write p.weights.cells p.weights.background } }
    else p
  let c := { c with passes := passes }
  (if y then { c with setY := w } else { c with setX := w }, [(0x30, b2n clash)])

end Sys2Proof.Machine
end

