-- ==== Sys2Proof/Machine/Fabric.lean ====
section
/-! DEFINITION. Hall memory as an operation of the module: hall addresses, slices, stamps, epochs, and how a
scheduled packet or a mail message is sent (spec/12_hall_memory.md). -/

namespace Sys2Proof.Machine

/-! ## Hall addresses (R249, R250) -/

/-- Space of a hall address. -/
def hSpace (a : Word64) : Nat := fld a 60 4
/-- Hall module number of a hall address. -/
def hModule (a : Word64) : BitVec 12 := BitVec.ofNat 12 (fld a 48 12)
/-- Logical core of a hall address. -/
def hCore (a : Word64) : CoreNo := Fin.ofNat 32 (fld a 43 5)
/-- Byte offset of a hall address. -/
def hOff (a : Word64) : Nat := fld a 0 31

/-- The hall address of an offset in a space of a logical core of a module. -/
def hallAddr (space : Nat) (m : BitVec 12) (l : CoreNo) (off : Nat) : Word64 :=
  BitVec.ofNat 64 (space * 2 ^ 60 + m.toNat * 2 ^ 48 + l.val * 2 ^ 43 + off % 2 ^ 31)

/-- Accesses that a slice entry may admit. -/
inductive HallOp where
  | read
  | write
  | gather
  | post
  deriving DecidableEq, Repr

/-- First offset beyond a space (Table 12.2). -/
def spaceEnd (space : Nat) : Nat :=
  if space = 0 then dataEnd else if space = 1 then 0x884100 else if space = 2 then 0x100 else 2 ^ 31

/-- The access decodes without an address error (R250): a space in use, bits [42:31] zero, a declared logical core,
offsets of Table 12.2, and an operation that the space allows in the class used. `n` is the declared count. -/
def addrOk (n : Nat) (a : Word64) (len : Nat) (op : HallOp) (mail : Bool) : Bool :=
  let sp := hSpace a
  let off := hOff a
  let allowed := if mail then decide (sp = 0) && (decide (op = .write) || decide (op = .gather))
    else (decide (sp = 0 ∨ sp = 1) && (decide (op = .read) || decide (op = .write))) ||
      (decide (sp = 2) && decide (op = .post) && decide (off % 4 = 0))
  allowed && zeros a 31 12 && decide (fld a 43 5 < n) && decide (off + len ≤ spaceEnd sp)

/-- Own hall module number; 0 while the module has no place (DESIGN CHOICE, assumption 5). -/
def State.hallNo (s : State) : BitVec 12 := s.place.getD 0

/-- Declared logical cores of the running module section. -/
def State.declared (s : State) : Nat := match s.sec? with
  | some m => m.n
  | none => 0

/-- A slice entry admits an access (R251, Table 12.3). -/
def Slice.admits (e : Slice) (op : HallOp) : Bool :=
  match op with
  | .read => e.canRead
  | .write => e.canWrite
  | .gather => e.canGather
  | .post => e.canPost

/-- The own or mail entry of a fold through which an address leaves (R251). -/
def State.sliceOf (s : State) (f : FoldNo) (a : Word64) (op : HallOp) : Option Slice :=
  s.folds[f].image.bind fun i => i.slices.find? fun e =>
    decide (e.kind ≠ .exported) && decide (e.first ≤ a.toNat ∧ a.toNat ≤ e.last) &&
      (e.admits op || (decide (op = .read) && e.canGather))

/-- A flow record of a fold from a logical core to a module, and its number (Table 12.5). -/
def State.flowOf (s : State) (f : FoldNo) (control : Bool) (l : CoreNo) (m : BitVec 12) : Option (Nat × Flow) :=
  s.folds[f].image.bind fun i =>
    (i.flows.zipIdx.find? fun x => (x.1.control == control) && decide (x.1.target = m) &&
      (control || decide (x.1.sender = l))).map fun x => (x.2, x.1)

/-- Λ of a flow (R255). -/
def Flow.lambda (w : Flow) : Nat := w.queue + w.delay

/-! ## Stamps (R255, Table 12.6) -/

/-- The landing stamp of an absolute cycle: tick number mod 16 and tick-relative cycle. -/
def State.stamp (s : State) (cycle : Nat) : BitVec 32 :=
  let rel := cycle - s.tick.instant
  let q := if s.period = 0 then 0 else rel / s.period
  BitVec.ofNat 32 (((s.tick.number.toNat + q) % 16) * 2 ^ 28 + (rel - q * s.period))

/-- The absolute cycle of a landing stamp: of the tick with that number mod 16 nearest to the running one. -/
def State.unstamp (s : State) (w : BitVec 32) : Nat :=
  let d : Int := ((fld w 28 4 : Int) - s.tick.number.toNat) % 16
  let d := if 8 ≤ d then d - 16 else d
  ((s.tick.instant : Int) + d * s.period + fld w 0 28).toNat

/-! ## Epochs (R269 to R271) -/

/-- An epoch advanced: from 0xFFFE to 0x0001. -/
def epochNext (e : BitVec 16) : BitVec 16 := if e = 0xFFFE then 1 else e + 1

/-- Epoch of a logical core of a module as the fold's table holds it; 1, the start value, where it lists none. -/
def State.epochOf (s : State) (f : FoldNo) (m : BitVec 12) (l : CoreNo) : BitVec 16 :=
  if m = s.hallNo then s.folds[f].epochs[l]
  else
    match s.folds[f].peerEpochs.find? fun e => decide (e.1 = m) && decide (e.2.1 = l) with
    | some e => e.2.2
    | none => 1

/-- Mail epoch cache: the epoch held for a target, 0 when none is held. -/
def State.cachedEpoch (s : State) (m : BitVec 12) (l : CoreNo) : BitVec 16 :=
  match s.hall.cache.find? fun e => decide (e.1 = m) && decide (e.2.1 = l) with
  | some e => e.2.2
  | none => 0

/-- The mail epoch cache filled from an answer (R270): 256 entries, the oldest leaves. -/
def Hall.learn (h : Hall) (m : BitVec 12) (l : CoreNo) (e : BitVec 16) : Hall :=
  { h with cache := ((m, l, e) :: h.cache.filter fun x => !(decide (x.1 = m) && decide (x.2.1 = l))).take 256 }

/-! ## Sending -/

/-- Marks of a payload, one bit a 32 B word. -/
def wordMarks (bs : List MByte) : BitVec 8 :=
  (List.range 8).foldl (fun m i =>
    if ((bs.drop (32 * i)).take 32).any fun b => b.2 then m ||| (BitVec.ofNat 8 (2 ^ i)) else m) 0

/-- A payload padded to whole 32 B words. -/
def padPayload (bs : List Byte) : List Byte := bs ++ List.replicate ((32 - bs.length % 32) % 32) 0

/-- A scheduled packet of a fold put on its way (R255, R257): it is ready 48 cycles after it was sent and carries
the stamp ready + Λ of its flow, or the stamp of the request that it answers. -/
def State.sendSched (s : State) (f : FoldNo) (flow : Nat × Flow) (type : Nat) (addr : Word64) (payload : List MByte)
    (sent : Nat) (stamp : Option (BitVec 32)) : State :=
  let ready := sent + 48
  let bytes := padPayload (payload.map fun b => b.1)
  let tag := match s.folds[f].allot with
    | some a => a.tag
    | none => 0
  let k : SchedPacket :=
    { type := BitVec.ofNat 4 type, units := BitVec.ofNat 4 (bytes.length / 32), marks := wordMarks payload, tag := tag,
      epoch := s.epochOf f (hModule addr) (hCore addr), flow := BitVec.ofNat 6 flow.1,
      stamp := stamp.getD (s.stamp (ready + flow.2.lambda)), addr := addr, payload := bytes }
  { s with hall := { s.hall with tx := s.hall.tx ++ [{ ready := ready, rein := flow.2.rein, pkt := k, fold := f, flow := flow.1, placed := 0 }] } }

/-- Bytes of a mail message on a link (R264). -/
def mailSize (m : MailMsg) : Nat := 32 + m.payload.length

/-- Next hop of a module: the rein of its valid entry (R253) (DEDUCED, assumption 26). -/
def State.nextHop (s : State) (m : BitVec 12) : Option (Fin 12) :=
  (s.sec?.bind fun x => (x.nextHop.getD m.toNat none)).bind fun r => if h : r < 12 then some ⟨r, h⟩ else none

/-- A message put into the queue of its rein (R263): a full queue drops it. Answers whether it was accepted. -/
def Hall.enqueue (h : Hall) (r : Fin 12) (m : MailMsg) : Hall × Bool :=
  let held := (h.queues[r].map mailSize).sum
  if held + mailSize m ≤ 2 ^ 20 then ({ h with queues := vmod h.queues r fun q => q ++ [m] }, true) else (h, false)

/-- A fold counter raised, of the fold with a tag. -/
def State.countFold (s : State) (f : FoldNo) (i : Fin 23) (n : Nat) : State := s.onFold f fun x => x.count i n

/-- An event of a class whose summary entry counts each kind (R377): fold, logical core and kind
(DESIGN CHOICE, assumption 28). -/
def State.summary (s : State) (code : BitVec 16) (fold : Option FoldNo) (l : Option CoreNo) (kind : Nat) : State :=
  let debug := match fold with
    | some f => s.folds[f].debug
    | none => false
  let g := s.log.put s.tick.number s.rel code fold l none debug kind []
  { s with log := g, ctrs := vmod s.ctrs 11 fun c => c.add (g.lost - s.log.lost) }

/-- A fabric packet fault of a fold (Table 16.1): its counter, and its kind in the summary, 0 late, 1 stale, 2 unexpected,
3 not served. -/
def State.packetFault (s : State) (f : FoldNo) (l : CoreNo) (i : Fin 23) (kind : Nat) : State :=
  (s.countFold f i 1).summary 0x0801 (some f) (some l) kind

/-- The fold of this module with a tag (R252). -/
def State.foldByTag (s : State) (tag : BitVec 16) : Option FoldNo :=
  (List.finRange 32).find? fun f => match s.folds[f].allot with
    | some a => decide (a.tag = tag)
    | none => false

/-- A mail message of this module put on its way: it takes the next message number. A module without a valid entry
for its target leaves it with "no route"; a full queue drops it. Both count at the sending fold (Table 20.12)
(DEDUCED, assumption 26). -/
def State.sendMail (s : State) (from_ : Option FoldNo) (kind : Nat) (bad : Bool) (dst : BitVec 12) (dstTag : BitVec 16)
    (epoch : BitVec 16) (reference : BitVec 32) (addr : Word64) (payload : List Byte) : State :=
  let srcTag : BitVec 16 := match from_ with
    | some f => match s.folds[f].allot with
      | some a => a.tag
      | none => 0
    | none => 0xFFFF
  let m : MailMsg :=
    { kind := BitVec.ofNat 8 kind, hops := 0, bad := bad, srcModule := s.hallNo, srcTag := srcTag, dstModule := dst,
      dstTag := dstTag, epoch := epoch, number := s.hall.number, reference := reference, addr := addr,
      payload := payload }
  let h := { s.hall with number := s.hall.number + 1 }
  let lost := fun (s : State) => match from_ with
    | some f => s.countFold f 17 1
    | none => s
  match s.nextHop dst with
  | none => lost { s with hall := h }
  | some r =>
    let q := h.enqueue r m
    if q.2 then { s with hall := q.1 } else lost { s with hall := q.1 }

/-- An answer to a message (R264): answers are never themselves answered. `epoch` is the responder's current one. -/
def State.answerMail (s : State) (m : MailMsg) (kind : Nat) (epoch : BitVec 16) (addr : Word64)
    (payload : List Byte) : State :=
  if 4 ≤ m.kind.toNat ∧ m.kind.toNat ≤ 8 then s
  else
    let from_ := if m.dstTag = 0xFFFF then none else s.foldByTag m.dstTag
    s.sendMail from_ kind false m.srcModule m.srcTag epoch m.number addr payload

/-- Current epoch of the target logical core of a message: 0 when this module holds no such fold. -/
def State.mailEpoch (s : State) (m : MailMsg) : BitVec 16 :=
  match s.foldByTag m.dstTag with
  | some f => s.folds[f].epochs[hCore m.addr]
  | none => 0

/-- A logical core is absent (R209, R212): no physical core holds it, or the one that does has not yet run a pen
since its takeover, or it is isolated. -/
def State.absent (s : State) (l : CoreNo) : Bool :=
  match s.phys l with
  | none => true
  | some p => s.cores[p].absent || s.cores[p].isolated

end Sys2Proof.Machine
end

