-- ==== Sys2Proof/Machine/Drover.lean ====
section
/-! DEFINITION. Drovers as operations of the module: units and their beats, the order of grants, landing, posts,
re-arms and cancellation (spec/08_pasture_and_drovers.md). -/

namespace Sys2Proof.Machine

/-! ## Access -/

/-- A drover stream of a core. -/
def Core.ds (c : Core) (d : DroverNo) (i : DStreamNo) : DStream := c.drovers[d][i]

/-- A drover stream of a core replaced. -/
def Core.setDs (c : Core) (d : DroverNo) (i : DStreamNo) (x : DStream) : Core :=
  { c with drovers := vmod c.drovers d fun v => v.set i x }

/-- A drover stream of a physical core. -/
def State.ds (s : State) (p : CoreNo) (d : DroverNo) (i : DStreamNo) : DStream := s.cores[p].ds d i

/-- The same replaced. -/
def State.setDs (s : State) (p : CoreNo) (d : DroverNo) (i : DStreamNo) (x : DStream) : State :=
  s.onCore p fun c => c.setDs d i x

/-- Items in ascending order of a key; equal keys keep their order. -/
def insertKey {α : Type} (k : α → Nat) (a : α) : List α → List α
  | [] => [a]
  | b :: r => if k a < k b then a :: b :: r else b :: insertKey k a r

/-- A list in ascending order of a key. -/
def sortKey {α : Type} (k : α → Nat) (l : List α) : List α := l.foldl (fun r a => insertKey k a r) []

/-! ## Beats that a core has to give (R158, R453) -/

/-- Read and write beats held by a walk in a cycle (Table 6.15). -/
def Walk.beats (w : Walk) (now : Nat) : Nat × Nat :=
  if w.mismatch then (0, 0)
  else if w.isRead then
    (if w.quire.isSome && decide (w.issue + 1 ≤ now ∧ now ≤ w.issue + 128) then (if w.pair then 12 else 8) else 0, 0)
  else
    let n := if w.pair then 192 else 128
    (if !w.flag && decide (w.issue + 1 ≤ now ∧ now ≤ w.issue + n) then 8 else 0,
     if w.issue + 3 ≤ now ∧ now ≤ w.issue + n + 2 then 8 else 0)

/-- Read and write beats held by every walk of a core. -/
def Core.walkBeats (c : Core) (now : Nat) : Nat × Nat :=
  c.walks.foldl (fun a w => (a.1 + (w.beats now).1, a.2 + (w.beats now).2)) (0, 0)

/-- A count of a cycle in a list of counts of recent cycles. -/
def countAt (l : List (Nat × Nat)) (cycle : Nat) : Nat := ((l.filter fun x => decide (x.1 = cycle)).map fun x => x.2).sum

/-- A count of a cycle raised; cycles past are forgotten. -/
def countPut (l : List (Nat × Nat)) (now cycle n : Nat) : List (Nat × Nat) := (cycle, n) :: l.filter fun x => decide (now ≤ x.1)

/-- Write beats already taken in a cycle. -/
def Core.writesAt (c : Core) (cycle : Nat) : Nat :=
  (c.walkBeats cycle).2 + countAt c.writeBeats cycle

/-- A core sends a program beat into the network (R208): whether it is within the limit of its endpoint. -/
def Core.sendBeat (c : Core) (now : Nat) : Core × Bool :=
  if 15 ≤ countAt c.sends now then (c, false) else ({ c with sends := countPut c.sends now now 1 }, true)

/-- A core receives a program beat from the network at a cycle (R208): whether it is within the limit of its endpoint. -/
def Core.recvBeat (c : Core) (cycle : Nat) : Core × Bool :=
  if 15 ≤ countAt c.recvs cycle then (c, false) else ({ c with recvs := countPut c.recvs cycle cycle 1 }, true)

/-- Write beats taken in a cycle noted; cycles past are forgotten. -/
def Core.takeWrites (c : Core) (now cycle n : Nat) : Core :=
  { c with writeBeats := countPut c.writeBeats now cycle n }

/-! ## Places -/

/-- An offset that no region holds; a read of it gives zeros marked bad and counts nothing itself. -/
def noOff : Nat := 2 ^ 32

/-- An offset of an exact sum: none below 0. -/
def offOf (x : Int) : Nat := if x < 0 then dataEnd else x.toNat

/-- Zeros marked bad. -/
def zerosBad (n : Nat) : List MByte := List.replicate n (0, true)

/-- A range cut at 256 B rows (R158). -/
def rowPieces (off len : Nat) : List (Nat × Nat) :=
  if len = 0 then []
  else (List.range ((off + len - 1) / 256 + 1 - off / 256)).map fun k =>
    let lo := max off ((off / 256 + k) * 256)
    let hi := min (off + len) ((off / 256 + k + 1) * 256)
    (lo, hi - lo)

/-- Offsets of the inner runs of a unit (Table 8.7). -/
def innerRuns (base : Int) (count : Nat) (stride : Int) : List Int := (List.range count).map fun i => base + stride * (i : Int)

/-- Read beats of a unit, in order. -/
def readBeats (runs : List Int) (inner : Nat) : List BeatFl :=
  runs.flatMap fun o => (rowPieces (offOf o) inner).map fun x =>
    { off := x.1, len := x.2, land := none, data := [], lost := false }

/-- A range of a logical core lies in regions of a fold (R147). -/
def State.inRegions (s : State) (f : FoldNo) (l : CoreNo) (off len : Nat) : Bool :=
  decide (off + len ≤ dataEnd) && (s.regionOf f l off).isSome && (s.regionOf f l (off + len - 1)).isSome

/-- A read names a slot of an enabled ring at or above its fill (R171) (DEDUCED, assumption 56). -/
def Core.underrun (c : Core) (off : Nat) : Bool :=
  c.rings.any fun r => r.enabled && decide (r.base ≤ off ∧ off < r.base + r.count * r.slotBytes) &&
    decide (r.fill ≤ ((off - r.base) / r.slotBytes + r.count - r.head) % max 1 r.count)

/-- What a read beat of a logical core delivers (R149, R150, R171, R180, R209, R210). -/
def State.readBeat (s : State) (f : FoldNo) (l : CoreNo) (off len : Nat) : State × List MByte :=
  match s.phys l with
  | none => (s, zerosBad len)
  | some p =>
    if s.absent l || decide (off = noOff) then (s, zerosBad len)
    else if !s.inRegions f l off len then (s.events p [(0x22, 1)] f, zerosBad len)
    else if s.cores[p].underrun off then (s.events p [(0x27, 1)] f, zerosBad len)
    else
      let r := s.cores[p].pasture.read s.now off len
      let bs := if (s.cores[p].fault).isSome then r.bytes.map fun b => (b.1, true) else r.bytes
      let lost := s.cores[p].pasture.lostIn s.now off len
      let s := (s.onCore p fun c => { c with pasture := c.pasture.find lost }).events p r.events f
      ((lost.filter fun w => !s.staticAt l (32 * w)).foldl (fun (s : State) w =>
        s.log1 0x0403 (some f) (some l) (some p) (leBytes (32 * w) 4)) s, bs)

/-! ## Units (R166, R168) -/

/-- Λ of the flow from a logical core to a module, 0 where the fold has none. -/
def State.lambdaTo (s : State) (f : FoldNo) (l : CoreNo) (m : BitVec 12) : Nat :=
  match s.flowOf f false l m with
  | some x => x.2.lambda
  | none => 0

/-- The module and logical core on the side of a descriptor with a class (Table 8.5). -/
def sideCore (own : BitVec 12) (l : CoreNo) (d : Word256) (cls : Nat) : BitVec 12 × CoreNo :=
  if cls = 2 then (BitVec.ofNat 12 (dModule d), dCore d) else (own, l)

/-- Bytes of an index entry. -/
def indexBytes (d : Word256) : Nat := if dHall d then 8 else 4

/-- Bytes of the index buffer that a stream has read and may use now. -/
def DStream.indexAt (x : DStream) (now off len : Nat) : Option (List MByte) :=
  (x.index.find? fun r => decide (r.1 = off / 256 * 256) && decide (r.2.1 ≤ now)).map fun r =>
    ((r.2.2.drop (off % 256)).take len)

/-- The value of bytes of an index buffer and whether any is marked. -/
def indexVal (bs : List MByte) : Nat × Bool := (leNat (bs.map fun b => b.1), bs.any fun b => b.2)

/-- Units of the current descriptor whose index entries are to be read by a cycle: those with N_u − 32 at or before it
(R168). -/
def DStream.indexUnits (x : DStream) (ctx w : Word256) (now : Nat) : Nat :=
  let n0 := x.origin + xFirst ctx + x.seq * xPeriod ctx
  if now + 32 < n0 then 0 else min (dUnits w - x.unit) ((now + 32 - n0) / max 1 (xPeriod ctx) + 1)

/-- The rows of the index buffer that a stream must read next (R168): that of the count first. -/
def DStream.indexWanted (x : DStream) (ctx w : Word256) (now : Nat) : List Nat :=
  let n := x.indexUnits ctx w now
  if n = 0 then []
  else
    let row := fun (u : Nat) => (dIndex w + 8 + u * indexBytes w) / 256
    let rows := (dIndex w / 256) :: List.range' (row x.unit) (row (x.unit + n - 1) + 1 - row x.unit)
    (rows.dedup.map fun k => 256 * k).filter fun off => !x.index.any fun r => decide (r.1 = off)

/-- Load cycles of a row of a weight tile: first and last (Table 5.5a). -/
def loadCycles (f : Fmt) (row : Nat) : Nat × Nat :=
  match f with
  | .tp16 => (2 * row, 2 * row + 1)
  | .tp32 => (1536 * row / 4096, (1536 * (row + 1) - 1) / 4096)
  | .b32 => (1536 * row / 4096, (1536 * (row + 1) - 1) / 4096)
  | .b64 => (3072 * row / 4096, (3072 * (row + 1) - 1) / 4096)
  | _ => (row, row)

/-- Need cycle of unit u of a stream (R166, R198). The rows of a weight tile at a period of one cycle follow the load cycles
of Table 5.5a (DEDUCED, assumption 55). -/
def DStream.need (x : DStream) (ctx w : Word256) : Nat :=
  let n0 := x.origin + xFirst ctx
  if dDstClass w = 4 ∧ xPeriod ctx = 1 then
    n0 + (x.seq / 8) * ((loadCycles (dDstFmt w) 7).2 + 1) + (loadCycles (dDstFmt w) (x.seq % 8)).1
  else n0 + x.seq * xPeriod ctx

/-- Cycles by which the last beat of a unit may follow its need cycle: a weight row of several load cycles (R96, R167)
(DEDUCED, assumption 55). -/
def UnitFl.slack (u : UnitFl) : Nat :=
  if dDstClass u.desc = 4 then
    let r := loadCycles (dDstFmt u.desc) (u.unit % 8)
    r.2 - r.1
  else 0

/-- Number of units whose beats are not all granted. -/
def DStream.ungranted (x : DStream) : Nat := (x.units.filter fun u => u.beats.any fun b => b.land.isNone).length

/-- Where one unit reads and writes. -/
structure UnitPlan where
  /-- the module read is this one -/
  fromHall : Option Word64
  fromMail : Option (Slice × Word64)
  src : CoreNo
  runs : List Int
  toHall : Option Word64
  dst : CoreNo
  place : Nat
  idle : Bool
  /-- an index error: zeros, or nothing written -/
  wrong : Bool
  drop : Bool
  bad : Bool
  excess : Nat
  deriving DecidableEq, Repr

/-- Destinations that number their places by the unit: feeder entries, set rows and registers (R166). -/
def unitNumbered (w : Word256) : Bool := decide (dDstClass w = 3 ∨ dDstClass w = 4 ∨ dDstClass w = 5)

/-- The plan of the next unit of a stream; none while its index entry is not yet usable. A hall address on a core of the
fold in this module needs no slice entry, since it does not reach the fabric (R168, R251) (DEDUCED, assumption 20). -/
def State.plan (s : State) (l : CoreNo) (x : DStream) (ctx : Word256) (ring : Ring) (de : Desc) : Option UnitPlan :=
  let w := de.word
  let u := x.unit
  let own := s.hallNo
  let so := sideCore own l w (dSrcClass w)
  let dO := sideCore own l w (dDstClass w)
  let slot := ring.base + ring.step ring.tail ring.started * ring.slotBytes
  let dstBase : Int := if xRingOn ctx then slot + de.dst else de.dst
  let srcHall := fun (off : Int) => if so.1 = own then none else some (hallAddr 0 so.1 so.2 (offOf off))
  let dstHall := fun (off : Int) => if dO.1 = own then none else some (hallAddr 0 dO.1 dO.2 (offOf off))
  if dKind w = 1 then
    let a : Int := de.src + dS2Src w * u
    let b : Int := dstBase + (if xRingOn ctx || unitNumbered w then 0 else dS2Dst w * u)
    some { fromHall := srcHall a, fromMail := none, src := so.2, runs := innerRuns a (dCount1 w) (dS1Src w),
           toHall := dstHall b, dst := dO.2, place := offOf b, idle := false, wrong := false, drop := false,
           bad := false, excess := 0 }
  else
    match x.indexAt s.now (dIndex w) 4, x.indexAt s.now (dIndex w + 8 + u * indexBytes w) (indexBytes w) with
    | some cb, some eb =>
      let count := indexVal cb
      let entry := indexVal eb
      let idle := decide (count.1 ≤ u)
      let gather := decide (dKind w = 2)
      let addr : Word64 := BitVec.ofNat 64 entry.1
      let slice := s.sliceOf x.fold addr (if gather then .read else .write)
      let mail := slice.bind fun e => if gather && decide (e.kind = .mail) then some (e, addr) else none
      let near := decide (hModule addr = own) && (match s.folds[x.fold].allot with
        | some a => a.holds (hCore addr)
        | none => false)
      let ok := if dHall w then (near || slice.isSome) && addrOk s.declared addr (dInner w) (if gather then .read else .write) false
        else decide (entry.1 < dLimit w)
      let wrong := !idle && !ok
      let row : Int := (if gather then (de.src : Int) else dstBase) + (entry.1 : Int) * dPitch w
      let along : Int := if gather then dstBase + (if unitNumbered w then 0 else dStride w * u) else de.src + dStride w * u
      let far := dHall w && decide (hModule addr ≠ own)
      let rowHall := if wrong || idle || mail.isSome then none else if far then some addr else if dHall w then none
        else if gather then srcHall row else dstHall row
      let rowCore := if dHall w then hCore addr else if gather then so.2 else dO.2
      let rowOff : Int := if dHall w then hOff addr else row
      some { fromHall := if gather then rowHall else srcHall along,
             fromMail := if wrong || idle then none else mail,
             src := if gather then rowCore else so.2,
             runs := if gather then [if wrong then noOff else rowOff] else [along],
             toHall := if gather then dstHall along else rowHall,
             dst := if gather then dO.2 else rowCore,
             place := offOf (if gather then along else rowOff), idle := idle, wrong := wrong,
             drop := wrong && !gather, bad := count.2 || entry.2,
             excess := if u + 1 = dUnits w then count.1 - dUnits w else 0 }
    | _, _ => none

/-- The stream after a unit of its current descriptor has started. Each descriptor has its own run. -/
def DStream.afterStart (x : DStream) (w : Word256) : DStream :=
  let x := { x with seq := x.seq + 1, unit := x.unit + 1 }
  if dUnits w ≤ x.unit then
    { x with unit := 0, cur := x.cur + 1, runNo := x.runNo + 1, firstSlot := none, index := [], excess := 0 }
  else x

/-! ## Transfer slots (R163) -/

/-- The lowest transfer slot of a drover that no descriptor of its streams occupies. -/
def Core.freeSlot (c : Core) (d : DroverNo) : Option Nat :=
  (List.range 8).find? fun k => !(c.drovers[d].any fun x => x.descs.any fun e => decide (e.slot = some k))

/-- The stream with its current descriptor in a transfer slot, from its first beat request on: none while all eight are
taken. -/
def DStream.seated (x : DStream) (free : Option Nat) : Option DStream :=
  match x.descs[x.cur]? with
  | none => none
  | some e =>
    if e.slot.isSome then some x
    else free.map fun k => { x with descs := x.descs.set x.cur { e with slot := some k } }

/-- Transfer slot of the descriptor at an offset. -/
def DStream.slotOf (x : DStream) (at_ : Nat) : Nat :=
  ((x.descs.find? fun e => decide (e.at_ = at_)).bind fun e => e.slot).getD 8

/-- One descriptor of a stream changed. -/
def DStream.onDesc (x : DStream) (at_ : Nat) (f : Desc → Desc) : DStream :=
  { x with descs := x.descs.map fun e => if e.at_ = at_ then f e else e }

/-- A stream may run on in this cycle: without the carry flag not in the reserve (R178, Table 8.9). -/
def State.mayRun (s : State) (x : DStream) : Bool := match x.ctx with
  | some ctx => xCarry ctx || decide (s.rel < s.reserveAt)
  | none => true

/-- Contents of a currier register as bytes in a format. -/
def Core.regBytes (c : Core) (f : Fmt) (r : Nat) : List MByte :=
  if h : r < 32 then pack f (sliceD { code := 0, bad := false } c.currier.regs[r] 0 128) else zerosBad (128 * f.bytes)

/-- A row of a slot as bytes at an offset of Table 6.1: 1,024 B of entries, then 64 B of side entries (R124), which read 0
in the odd slot of a pair (R106). -/
def Core.accBytes (c : Core) (now off len : Nat) : List MByte :=
  let slot := off / 0x20000
  let row := off / 1024 % 128
  let e := (c.accAt now).home slot
  let a := (c.accAt now).seen slot row
  let es := (List.range 128).flatMap fun n => (leBytes (a.entry slot row n).toNat 8).map fun b =>
    (b, len < 1088 && sideBad (a.side e row n))
  let sd := (List.range 64).map fun i =>
    ((if e = slot then BitVec.ofNat 8 ((a.side e row (2 * i)).toNat + 16 * (a.side e row (2 * i + 1)).toNat) else 0 : Byte),
      false)
  ((es ++ sd).take len)

/-- Bytes of the accumulator space (R105, Table 6.1). The side entries and row state words of the odd slot of a pair read
0 (R106). -/
def Core.accSpace (c : Core) (now off len : Nat) : List MByte :=
  let acc := c.accAt now
  let a := if off < 0x800000 then acc.seen (off / 0x20000) (off / 1024 % 128)
    else if off < 0x880000 then (List.range' (off / 64) ((off + len + 63) / 64 - off / 64)).foldl
      (fun (a : Accum) k => a.seen ((k - 0x20000) / 128) (k % 128)) acc
    else acc
  (List.range len).map fun i =>
    let o := off + i
    if o < 0x800000 then
      let slot := o / 0x20000
      let row := o / 1024 % 128
      (BitVec.ofNat 8 ((a.entry slot row (o / 8 % 128)).toNat / 256 ^ (o % 8)), sideBad (a.side (a.home slot) row (o / 8 % 128)))
    else if o < 0x880000 then
      let x := o - 0x800000
      let n := 2 * (x % 64)
      let slot := x / 0x2000
      (if a.home slot = slot then BitVec.ofNat 8 ((a.side slot (x / 64 % 128) n).toNat +
        16 * (a.side slot (x / 64 % 128) (n + 1)).toNat) else 0, false)
    else if o < 0x884000 then
      let x := o - 0x880000
      let slot := x / 256
      (if a.home slot = slot then BitVec.ofNat 8 ((a.row slot (x / 2 % 128)).toNat / 256 ^ (x % 2)) else 0, false)
    else
      let x := o - 0x884000
      (BitVec.ofNat 8 ((a.slot (x / 4)).toNat / 256 ^ (x % 4)), false)

/-- The accumulator space ends here (R105). -/
def accEnd : Nat := 0x884100

/-- Source bytes of a unit that reads no pasture, captured whole (R166) (DEDUCED, assumption 19): beyond the accumulator
space it is an address error, and beyond its rows there is no row either (R105). -/
def Core.capture (c : Core) (now : Nat) (de : Word256) (base u : Nat) : List MByte × List (Nat × Nat) :=
  let n := dInner de * dCount1 de
  let r := if dSrcClass de = 5 then
      let r := c.regBytes (dSrcFmt de) (base + u)
      ((innerRuns 0 (dCount1 de) (dS1Src de)).flatMap fun o => sliceD (0, true) r (offOf o) (dInner de), [])
    else
      let off := offOf ((base : Int) + dS2Src de * u)
      if 0x800000 ≤ off then (zerosBad n, [(0x22, 1)]) else (c.accBytes now off n, [])
  (if c.fault.isSome then r.1.map fun b => (b.1, true) else r.1, r.2)

/-- A unit reads no pasture: its source is a register or accumulator rows (R166). -/
def UnitFl.virtual (u : UnitFl) : Bool := u.elems.isNone && decide (dSrcClass u.desc = 5 ∨ dSrcClass u.desc = 6)

/-- A length cut into beats of 256 B. -/
def cutBeats (n : Nat) : List BeatFl :=
  (List.range ((n + 255) / 256)).map fun k =>
    { off := 256 * k, len := min 256 (n - 256 * k), land := none, data := [], lost := false }

/-- Delay of a landing: 10 cycles on the core that sends, 58 on another endpoint of the module, a plant port's among them
(R160, R207). -/
def landDelay (w : Word256) (src dst : CoreNo) : Nat := if src = dst ∧ dDstClass w ≠ 7 then 10 else 58

/-- Destination classes that store into pasture memory. -/
def toPasture (w : Word256) : Bool := dDstClass w = 1 || dDstClass w = 2

/-- The beats of a unit as it starts: idle ones for a position that is not used (R162) or that asks by mail (R267). -/
def unitBeats (s : State) (pl : UnitPlan) (w : Word256) (need : Nat) : List BeatFl :=
  let n := dInner w * dCount1 w
  let beats : List BeatFl :=
    if pl.idle || pl.fromMail.isSome then
      (cutBeats (max 1 (dInner w))).map fun b => { b with off := noOff, len := 0, lost := true }
    else if dSrcClass w = 5 ∨ dSrcClass w = 6 then cutBeats n
    else if pl.fromHall.isSome then [{ off := 0, len := n, land := some (max need s.now), data := [], lost := false }]
    else readBeats pl.runs (dInner w)
  if pl.drop || (pl.toHall.isNone && s.absent pl.dst) then beats.map fun b => { b with lost := true } else beats

/-- Starts the next unit of a stream when its rules allow it now (R162, R163, R166, R168, R170, R260); answers none when
they do not (DEDUCED, assumption 19). -/
def State.startUnit (s : State) (p l : CoreNo) (d : DroverNo) (i : DStreamNo) : Option State :=
  match (s.ds p d i).seated (s.cores[p].freeSlot d) with
  | none => none
  | some x =>
  match x.ctx, x.descs[x.cur]? with
  | some ctx, some de =>
    let w := de.word
    let ring := s.cores[p].rings[xRing ctx]
    if x.status ≠ .running || x.stopping || dSrcClass w = 0 || decide (16 ≤ x.ungranted) || de.held.isSome || !s.mayRun x then none
    else
      match s.plan l x ctx ring de with
      | none => none
      | some pl =>
        let need := x.need ctx w
        let noRead := decide (dSrcClass w = 5 ∨ dSrcClass w = 6)
        let far := match pl.toHall with
          | some a => 58 + s.lambdaTo x.fold pl.src (hModule a)
          | none => landDelay w (if noRead then l else pl.src) pl.dst
        let ready := if xRingOn ctx then decide (1 ≤ ring.credit)
          else pl.fromHall.isSome || decide (need ≤ s.now + far)
        if !ready then none
        else
          let gone := pl.toHall.isNone && s.absent pl.dst
          let bad := x.badBase || pl.bad || decide (0 < pl.excess)
          let slotAt := ring.base + ring.step ring.tail ring.started * ring.slotBytes
          let un : UnitFl :=
            { unit := x.unit, desc := w, at_ := de.at_, srcBase := if dKind w = 1 then de.src else offOf (pl.runs.headD 0),
              run := x.runNo, last := decide (x.unit + 1 = dUnits w),
              buf := if xRingOn ctx then x.firstSlot.getD slotAt else de.dst, from_ := pl.fromHall, to_ := pl.toHall, need := need,
              src := if noRead then l else pl.src, dst := if gone then l else pl.dst, place := pl.place,
              beats := unitBeats s pl w need, data := [], stored := 0, first := none, granted := pl.fromHall.isSome,
              finished := false, wrote := [], bad := bad, idle := pl.idle || pl.fromMail.isSome, elems := none,
              gone := gone && !pl.drop }
          let x1 := { x with
            units := x.units ++ [un],
            firstSlot := if xRingOn ctx then some (x.firstSlot.getD slotAt) else none,
            excess := x.excess + pl.excess,
            badRuns := if bad then x.runNo :: x.badRuns else x.badRuns }.afterStart w
          let s := s.onCore p fun c =>
            let c := c.setDs d i x1
            if xRingOn ctx then c.onRing (xRing ctx) fun r => { r with started := r.started + 1 } else c
          let s := s.events p [(0x23, b2n pl.wrong), (0x24, pl.excess)] x.fold
          let n := dInner w * dCount1 w
          let ret := hallAddr 0 s.hallNo pl.dst pl.place
          some <|
            match pl.fromHall, pl.fromMail with
            | some a, none =>
              (match s.flowOf x.fold false l (hModule a) with
               | none => s.events p [(0x22, 1)] x.fold
               | some fl =>
                 let body := beBytes ret.toNat 8 ++ beBytes (s.stamp need).toNat 4 ++ beBytes n 2 ++ List.replicate 18 0
                 s.sendSched x.fold fl 2 a (body.map fun b => (b, false)) s.now none)
            | _, some (e, a) =>
              let num := s.hall.number
              let s := s.sendMail (some x.fold) 2 false (hModule a) e.peer (s.cachedEpoch (hModule a) (hCore a)) 0 a
                (beBytes ret.toNat 8 ++ beBytes n 2 ++ List.replicate 6 0)
              { s with hall := { s.hall with asked := s.hall.asked ++
                  [{ number := num, fold := x.fold, target := hCore a, addr := ret, len := n,
                     due := s.tick.number.toNat + e.deferral - 1 }] } }
            | _, _ => s
  | _, _ => none

/-- Starts every unit of a stream that may start now, at most 16 a cycle. -/
def State.startUnits (s : State) (p l : CoreNo) (d : DroverNo) (i : DStreamNo) : Nat → State
  | 0 => s
  | n + 1 => match s.startUnit p l d i with
    | some t => t.startUnits p l d i n
    | none => s

/-! ## Conversion and delivery (R165, R166) -/

/-- Source format of a unit: the readout's own for a READ row (R192). -/
def UnitFl.srcFmt (u : UnitFl) : Fmt := match u.elems with
  | some e => e.1
  | none => dSrcFmt u.desc

/-- Where an element of a unit stands in a UQ8 tensor (R63, R65, R67, R96): `place` is that of the element in pasture, where
the tensor's side lies there (DEDUCED, assumption 18). -/
def UnitFl.tensorPlace (u : UnitFl) (chans n : Nat) : Place :=
  let total := dInner u.desc * dCount1 u.desc / u.srcFmt.group.2 * u.srcFmt.group.1
  if dDstClass u.desc = 4 ∧ u.srcFmt ≠ .uq8 then
    { row := 32 * (u.unit % 8) + n / 128, col := n % 128, tileCols := 1, channel := n % 128 % chans }
  else { row := u.unit, col := n, tileCols := (total + 127) / 128, channel := n % chans }

/-- A run of source bytes of a unit converted (R48, R52, R53, R63, R65, R165): destination bytes with their marks.
`pos` is the number of source bytes before them, `place` says where element n of the unit stands in its tensor. -/
def Core.convertBytes (c : Core) (now : Nat) (ctx : Word256) (black g : Nat) (place : Nat → Place) (u : UnitFl) (pos : Nat)
    (bs : List MByte) : Core × List MByte × List (Nat × Nat) :=
  let sf := u.srcFmt
  let df := dDstFmt u.desc
  if df = .raw then (c, bs, [])
  else
    let es := unpack sf bs
    if sf = df then (c, pack df es, [])
    else
      let e0 := pos / sf.group.2 * sf.group.1
      let rec' := xRecord ctx
      let tiles := if sf = .uq8 ∨ df = .uq8 then ((List.range' e0 es.length).map fun n => (place n).tile).dedup else []
      let q := if sf = .uq8 ∨ df = .uq8 then c.scan now (c.tensorParts rec' tiles) else (c, [])
      let r := es.zipIdx.foldl (fun (a : Core × List Elem × List (Nat × Nat)) ei =>
        let e := ei.1
        let pl := place (e0 + ei.2)
        let v := if sf.mono then (Ext.fin (pixelValue e.code.toNat black g), e.bad)
          else if sf = .uq8 then
            let q := a.1.dequantAt rec' pl e.code.toNat
            (q.1, e.bad || q.2)
          else (sf.value e.code.toNat, e.bad)
        let o := a.1.roundAt now df rec' pl v.1 (sf.isNegZero e.code.toNat) v.2
        (o.1, a.2.1 ++ [o.2.1], a.2.2 ++ o.2.2)) (q.1, [], q.2)
      (r.1, pack df r.2.1, r.2.2)

/-- Black level and shift of the pixel port that a context names (R52). A context without a pixel port is malformed for a
pixel source (R165); a port that the image gives no record takes black 0 and g 0 (DESIGN CHOICE, assumption 18). -/
def State.pixelOf (s : State) (ctx : Word256) : Nat × Nat :=
  if xHasPixel ctx then
    match s.st[xPixel ctx].cfg with
    | some (_, r) => (r.black, r.g)
    | none => (0, 0)
  else (0, 0)

/-- A run of bytes cut where a page of 4 KiB ends: regions are aligned to it (R151). -/
def pagePieces (off : Nat) (bs : List MByte) : List (Nat × List MByte) :=
  let n := 4096 - off % 4096
  (if bs.length ≤ n then [(off, bs)] else [(off, bs.take n), (off + n, bs.drop n)]).filter fun x => !x.2.isEmpty

/-- An offset of a logical core lies in a static region of a fold. -/
def State.staticOf (s : State) (f : FoldNo) (l : CoreNo) (off : Nat) : Bool := match s.regionOf f l off with
  | some r => !r.dynamic
  | none => false

/-- A store into a logical core of the module (R151, R152, R161): outside the fold's regions it is an address error,
and what falls into a static region is a static write; both are discarded and counted. Two write beats of one cycle on one
word are a write collision, but not on the words `own` that the same unit stored (DEDUCED, assumption 20). Answers the words
stored. -/
def State.storeAt (s : State) (f : FoldNo) (l : CoreNo) (m off : Nat) (bs : List MByte) (own : List Nat) : State × List Nat :=
  match s.phys l with
  | none => (s, [])
  | some q =>
    if bs.isEmpty then (s, [])
    else if !s.inRegions f l off bs.length then (s.events q [(0x22, 1)] f, [])
    else
      let ps := pagePieces off bs
      let open_ := ps.filter fun x => !s.staticOf f l x.1
      let words := open_.flatMap fun x => touchedWords x.1 x.2.length
      let c := s.cores[q]
      let twice := words.any fun w =>
        !own.contains w && c.pasture.recent.any fun r => decide (r.1 = m) && decide (r.2.1 = w)
      ((s.onCore q fun c => { c with pasture := open_.foldl (fun k x => k.store m x.1 x.2) c.pasture }).events q
        [(0x2C, b2n (decide (open_.length < ps.length))), (0x2B, b2n twice)] f, words)

/-- Destination offset of a source byte position of a unit: the run it lies in and the converted bytes before it. -/
def UnitFl.destAt (u : UnitFl) (pos : Nat) : Nat :=
  let inner := dInner u.desc
  offOf ((u.place : Int) + (if dKind u.desc = 1 then dS1Dst u.desc * (pos / inner : Nat) else 0)
    + (outLen u.srcFmt (dDstFmt u.desc) (pos % inner) : Nat))

/-- Offset of source byte `pos` of a unit that reads pasture. -/
def UnitFl.srcAt (u : UnitFl) (pos : Nat) : Nat :=
  let inner := max 1 (dInner u.desc)
  offOf ((u.srcBase : Int) + (if dKind u.desc = 1 then dS2Src u.desc * u.unit + dS1Src u.desc * (pos / inner : Nat) else 0)
    + (pos % inner : Nat))

/-- Where element n of a unit stands in the tensor of a record (R63, R65, R67): a tensor in pasture has its own layout, which
the image does not give (DEDUCED, assumption 18). -/
def State.placeOf (s : State) (p l : CoreNo) (f : FoldNo) (rec : Nat) (u : UnitFl) (n : Nat) : Place :=
  let chans := max 1 (s.cores[p].qrec rec).channels
  let src := decide (u.srcFmt = .uq8)
  let cls := if src then dSrcClass u.desc else dDstClass u.desc
  match s.folds[f].image with
  | some i =>
    if (cls = 1 ∨ cls = 2) ∧ (src = false ∨ u.elems.isNone) then
      let g := u.srcFmt.group
      let o := if src then (u.src, u.srcAt n) else (u.dst, u.destAt (n / g.1 * g.2) + n % g.1)
      let t := Config.tensorPlace i.measurement l.val rec o.1.val o.2
      { row := t.1, col := t.2.1, tileCols := max 1 (Config.tensorTiles i.measurement l.val rec), channel := t.2.2 % chans }
    else u.tensorPlace chans n
  | none => u.tensorPlace chans n

/-- A run of source bytes of a unit converted by the drover of a core. -/
def State.convert (s : State) (p l : CoreNo) (f : FoldNo) (ctx : Word256) (u : UnitFl) (pos m : Nat) (bs : List MByte) :
    State × List MByte :=
  let px := s.pixelOf ctx
  let r := s.cores[p].convertBytes m ctx px.1 px.2 (s.placeOf p l f (xRecord ctx) u) u pos bs
  (State.events { s with cores := s.cores.set p r.1 } p r.2.2 f, r.2.1)

/-- Whole groups of a unit that have landed and are not yet stored, run by run. -/
def UnitFl.fresh (u : UnitFl) : List (Nat × List MByte) :=
  let g := u.srcFmt.group.2
  let stop := u.data.length / g * g
  let inner := max 1 (dInner u.desc)
  (List.range (stop / inner + 1)).filterMap fun k =>
    let lo := max u.stored (k * inner)
    let hi := min stop ((k + 1) * inner)
    if lo < hi then some (lo, (u.data.drop lo).take (hi - lo)) else none

/-- A handle posted by a drover when a descriptor is complete (R454). A full gate of its own core holds the transfer slot. -/
def State.droverPost (s : State) (p l : CoreNo) (d : DroverNo) (i : DStreamNo) (u : UnitFl) (bad : Bool) (m : Nat) :
    State :=
  let w := u.desc
  let buf := if toPasture w then u.buf / 256 else 0
  let faulty := s.cores[p].fault.isSome
  let h : Handle := { bad := bad || faulty, tag := 0, buffer := BitVec.ofNat 23 buf }
  let g := dGate w
  match u.to_ with
  | some a =>
    let x := s.ds p d i
    (match s.flowOf x.fold false l (hModule a) with
     | some fl => s.sendSched x.fold fl 4 (hallAddr 2 (hModule a) (hCore a) (4 * g.val))
        ((beBytes h.toWord.toNat 4 ++ List.replicate 28 0).map fun b => (b, false)) m none
     | none => s.events p [(0x22, 1)] x.fold)
  | none =>
    let target := if dDstClass w = 2 then dCore w else l
    if target = l then
      if s.cores[p].gates[g].full m then
        s.setDs p d i ((s.ds p d i).onDesc u.at_ fun e => { e with held := some (g, h) })
      else s.onCore p fun c => c.onGate g fun q => q.put h (m + 2)
    else if s.absent target then s.events p [(0x2D, 1)] (s.ds p d i).fold
    else
      match s.phys target with
      | none => s
      | some q => s.onCore q fun c =>
          { c with arrivals := c.arrivals ++ [{ gate := g, handle := h, sent := m, arrive := m + 48, dead := false }] }

/-- Every unit of the run has started. -/
def DStream.allStarted (x : DStream) : Bool := x.ended && decide (x.descs.length ≤ x.cur)

/-- Persistent descriptors of a chain. -/
def DStream.persistent (x : DStream) : List Desc := x.descs.filter fun e => dPersistent e.word

/-- A re-arm takes effect (R172, R173, R198): new bases, unit 0. The new bases are those of the first data descriptor of the
chain, and the persistent ones move with it. -/
def DStream.applyRearm (x : DStream) (r : Rearm) (tick : Nat) : DStream :=
  let ctx := x.ctx.getD 0
  let lead := x.lead.getD (0, 0)
  let new : Nat × Nat := if r.tick then lead else (r.src.getD lead.1, r.dst.getD lead.2)
  let ds := x.persistent
  let ds := if r.tick then
      ds.map fun e =>
        let add := xStep ctx * (tick % max 1 (xMod ctx))
        if xTarget ctx then { e with src := e.src0, dst := (e.dst0 + add) % 2 ^ 32 }
        else { e with src := (e.src0 + add) % 2 ^ 32, dst := e.dst0 }
    else ds.map fun e =>
      let a := wrapN ((e.src0 : Int) + (new.1 : Int) - lead.1) 32
      let b := wrapN ((e.dst0 : Int) + (new.2 : Int) - lead.2) 32
      { e with src0 := a, dst0 := b, src := a, dst := b }
  { x with status := .running, armOnly := false, descs := ds, cur := 0, unit := 0, seq := 0, origin := r.origin,
           relative := r.relative, rearm := none, badBase := r.bad, runNo := x.runNo + 1, lead := x.lead.map fun _ => new,
           firstSlot := none, index := [], excess := 0 }

/-- A pending re-arm takes effect when the last beat of the run has been granted (R172). A stream whose run is over, no
handle of it held, is armed or idle. -/
def DStream.settle (x : DStream) (tick : Nat) : DStream :=
  let x := match x.rearm with
    | some r =>
      if (x.status = .armed && x.ended) || (x.allStarted && decide (x.ungranted = 0)) then x.applyRearm r tick else x
    | none => x
  if x.status = .running && x.rearm.isNone && x.allStarted && x.units.isEmpty && x.descs.all (fun e => e.held.isNone) then
    if x.persistent.isEmpty || x.stopping then DStream.reset
    else { x with status := .armed, descs := x.persistent, stopping := false }
  else x

/-- A row as the row feeder takes it (R99): with the zero point and stray mode of its tensor. -/
def Core.feederEntry (c : Core) (f : Fmt) (rec : Nat) (es : List Elem) : FeederEntry :=
  if f = .uq8 then
    let r := c.qrec rec
    let bad := c.entryBad rec { row := 0, col := 0, tileCols := 1, channel := 0 } false
    { elems := if bad then es.map fun e => { e with bad := true } else es, za := BitVec.ofNat 8 (entryZero (c.channel r 0)),
      fmt := f, stray := r.stray, record := rec }
  else { elems := es, za := 0, fmt := f, stray := false, record := 0 }

/-- The class of destination other than pasture takes a whole unit (R99, R96, R124, R128, R166, R295). -/
def State.deliver (s : State) (p : CoreNo) (f : FoldNo) (ctx : Word256) (u : UnitFl) (bs : List MByte) (m : Nat) :
    State :=
  let w := u.desc
  let df := dDstFmt w
  let rec' := xRecord ctx
  if dDstClass w = 3 then s.onCoreE p (fun c => c.feederPush (c.feederEntry df rec' (unpack df (bs.take 512)))) f
  else if dDstClass w = 4 then
    let t := if df = .uq8 ∧ u.unit % 8 = 0 then s.readBeat f u.src (u.srcAt 0 + 32768) 160 else (s, [])
    t.1.onCoreE p (fun c => c.loadWeights (decide (u.place % 2 = 1)) df (u.unit % 8) (unpack df bs)
      (if df = .uq8 then rec' else 0) (t.2.map fun b => b.1, t.2.any fun b => b.2) (u.first.getD m) m) f
  else if dDstClass w = 5 then
    s.onCore p fun c =>
      if h : u.place + u.unit < 32 then
        { c with currier := { c.currier with
            regs := c.currier.regs.set (u.place + u.unit) (unpack df bs)
            fmts := c.currier.fmts.set (u.place + u.unit) df
            recs := c.currier.recs.set (u.place + u.unit) (xRecord ctx) } }
      else c
  else if dDstClass w = 6 then
    let sides := decide (1088 ≤ bs.length)
    if 0x800000 ≤ u.place then s.events p [(0x22, 1)] f
    else s.onCoreE p (fun c => c.rowWrite m (u.place / 0x20000) (u.place / 1024 % 128) 0 ((List.range 128).map fun n =>
      let eb := (bs.drop (8 * n)).take 8
      let sb := bs.getD (1024 + n / 2) (0, false)
      (BitVec.ofNat 64 (leNat (eb.map fun b => b.1)),
       if sides then BitVec.ofNat 4 (fldN sb.1.toNat (4 * (n % 2)) 4) else 0,
       u.bad || (eb.any fun b => b.2) || (sides && sb.2)))) f
  else if dDstClass w = 7 then
    let frame := fldN u.place 16 6
    let off := fldN u.place 0 13
    s.onFold f fun x =>
      let put := fun (bufs : List FrameBuf) =>
        let old := match bufs.find? fun b => decide (b.frame = frame) with
          | some b => b
          | none => { frame := frame, bytes := [], written := [], marked := [] }
        let words := List.range' (off / 32) ((off + bs.length + 31) / 32 - off / 32)
        let bad := words.filter fun k => (bs.zipIdx.any fun b => b.1.2 && decide ((off + b.2) / 32 = k))
        let new : FrameBuf :=
          { old with bytes := cellsSet 0 off (bs.map fun b => b.1) old.bytes,
                     written := List.range' off bs.length ++ old.written.filter fun k => decide (k < off ∨ off + bs.length ≤ k),
                     marked := bad ++ old.marked.filter fun k => !bad.contains k }
        new :: bufs.filter fun b => decide (b.frame ≠ frame)
      if s.tick.number.toNat % 2 = 0 then { x with bufEven := put x.bufEven } else { x with bufOdd := put x.bufOdd }
  else s

/-- Replaces the unit at a position of a stream. -/
def State.setUnit (s : State) (p : CoreNo) (d : DroverNo) (i : DStreamNo) (k : Nat) (u : UnitFl) : State :=
  let x := s.ds p d i
  s.setDs p d i { x with units := x.units.set k u }

/-- The unit at position k of a stream has landed. A run is complete when its last unit and every other have landed; until
then another of its units takes the part of the last (R454). -/
def DStream.finish (x : DStream) (k : Nat) (bad : Bool) : DStream × Bool :=
  match x.units[k]? with
  | none => (x, false)
  | some u =>
    let us := x.units.set k { u with finished := true, last := false }
    let x := { x with badRuns := if bad then u.run :: x.badRuns else x.badRuns }
    match us.findIdx? fun v => decide (v.run = u.run) && !v.finished with
    | some j => ({ x with units := if u.last then us.modify j fun v => { v with last := true } else us }, false)
    | none => ({ x with units := us }, u.last)

/-- Landed units leave the stream, those of a ring stream only from the oldest on (R170); answers how many. -/
def DStream.retire (x : DStream) (ring : Bool) : DStream × Nat :=
  let keep := if ring then x.units.dropWhile fun u => u.finished else x.units.filter fun u => !u.finished
  ({ x with units := keep }, x.units.length - keep.length)

/-- The unit at position k of a stream is complete at cycle m (R163, R167, R170, R454) (DEDUCED, assumption 20). A unit that
is late leaves bad what it stored. -/
def State.finishUnit (s : State) (p l : CoreNo) (d : DroverNo) (i : DStreamNo) (k m : Nat) : State :=
  let x := s.ds p d i
  match x.units[k]?, x.ctx with
  | some u, some ctx =>
    let late := decide (u.need + u.slack < m) && !u.idle && u.to_.isNone
    let s := s.events p [(0x25, b2n late)] x.fold
    let s := if late && toPasture u.desc then
        (match s.phys u.dst with
         | some q => s.onCore q fun c => { c with pasture := { c.pasture with
             poison := u.wrote.foldl (fun r w => ivAdd w.1 w.2 r) c.pasture.poison } }
         | none => s)
      else s
    let bad := late || u.bad || (u.data.any fun b => b.2)
    let s := if toPasture u.desc || u.idle || u.to_.isSome then s
      else
        let data := if late || u.bad then u.data.map fun b => (b.1, true) else u.data
        let r := s.convert p l x.fold ctx u 0 m data
        r.1.deliver p x.fold ctx u r.2 m
    let f := (s.ds p d i).finish k bad
    let r := f.1.retire (xRingOn ctx)
    let s := s.onCore p fun c =>
      let c := c.setDs d i r.1
      if xRingOn ctx then c.onRing (xRing ctx) fun g => (List.range r.2).foldl (fun g _ => g.complete) g else c
    let s := if f.2 && dPost u.desc then s.droverPost p l d i u (r.1.badRuns.contains u.run) m else s
    let s := if f.2 then
        s.setDs p d i ((s.ds p d i).onDesc u.at_ fun e =>
          if dPersistent e.word || e.held.isSome then e else { e with slot := none })
      else s
    s.setDs p d i ((s.ds p d i).settle s.tick.number.toNat)
  | _, _ => s

/-- Converted bytes of a unit go to the other module (R255, R260), row by row. -/
def State.sendRows (s : State) (p l : CoreNo) (f : FoldNo) (a : Word64) (m off : Nat) (bs : List MByte) : State :=
  match s.flowOf f false l (hModule a) with
  | none => s.events p [(0x22, 1)] f
  | some fl => (rowPieces off bs.length).foldl (fun (s : State) y =>
      s.sendSched f fl 1 (hallAddr 0 (hModule a) (hCore a) y.1) ((bs.drop (y.1 - off)).take y.2) m none) s

/-- One run of landed bytes of a unit converted and stored, or sent on (R160, R165). Answers the words stored. -/
def State.storePart (s : State) (p l : CoreNo) (f : FoldNo) (ctx : Word256) (u : UnitFl) (m : Nat) (lost : Bool)
    (part : Nat × List MByte) (own : List Nat) : State × List Nat :=
  let r := s.convert p l f ctx u part.1 m part.2
  match u.to_ with
  | none => if lost then (r.1, []) else r.1.storeAt f u.dst m (u.destAt part.1) r.2 own
  | some a => (r.1.sendRows p l f a m (u.destAt part.1) r.2, [])

/-- The first beat of the unit at position k lands at cycle m (R160). `lost`: its store is discarded. -/
def State.landBeat (s : State) (p l : CoreNo) (d : DroverNo) (i : DStreamNo) (k m : Nat) (lost : Bool) : State :=
  let x := s.ds p d i
  match x.units[k]?, x.ctx with
  | some u, some ctx =>
    match u.beats with
    | [] => s.finishUnit p l d i k m
    | b :: rest =>
      let data := if u.bad then b.data.map fun y => (y.1, true) else b.data
      let data := if data.length < b.len then data ++ zerosBad (b.len - data.length) else data
      let u := { u with beats := rest, data := u.data ++ data, first := some (u.first.getD m) }
      let parts := if toPasture u.desc || u.to_.isSome then u.fresh else []
      let was := if u.hot.1 = m then u.hot.2 else []
      let r := parts.foldl (fun (a : State × List Nat) q =>
        let o := a.1.storePart p l x.fold ctx u m (lost || b.lost) q (was ++ a.2)
        (o.1, a.2 ++ o.2)) (s, [])
      let u := { u with stored := parts.foldl (fun n q => max n (q.1 + q.2.length)) u.stored
                        hot := (m, was ++ r.2), wrote := r.2.foldl (fun z w => ivAdd w (w + 1) z) u.wrote }
      let s := r.1.setUnit p d i k u
      if rest.isEmpty then s.finishUnit p l d i k m else s
  | _, _ => s

/-! ## Grants (R158, R159) -/

/-- A beat that waits for a grant. -/
structure Cand where
  need : Nat
  drover : DroverNo
  stream : DStreamNo
  /-- transfer slot of its descriptor -/
  slot : Nat
  unit : Nat
  beat : Nat
  /-- run and number of its unit -/
  run : Nat
  num : Nat
  /-- physical and logical core whose drover it is -/
  core : CoreNo
  lcore : CoreNo
  deriving DecidableEq, Repr

/-- The order of R159 as one number: deadline, drover, transfer slot, place in the transfer, and among cores the logical
number (DESIGN CHOICE, assumption 50). -/
def Cand.key (c : Cand) : Nat :=
  ((((c.need * 4 + c.drover.val) * 16 + c.slot) * 2 ^ 20 + c.unit) * 2 ^ 20 + c.beat) * 32 + c.lcore.val

/-- The first 16 beats of a stream that wait for a grant at the core that serves them. -/
def DStream.waiting (x : DStream) (p l : CoreNo) (d : DroverNo) (i : DStreamNo) (serves : UnitFl → Bool) : List Cand :=
  (x.units.zipIdx.flatMap fun uk =>
    if serves uk.1 then
      (uk.1.beats.zipIdx.filter fun b => b.1.land.isNone).map fun b =>
        { need := uk.1.need, drover := d, stream := i, slot := x.slotOf uk.1.at_, unit := uk.2, beat := b.2, run := uk.1.run,
          num := uk.1.unit, core := p, lcore := l }
    else []).take 16

/-- Every drover stream of the module in use, with its physical and logical core. -/
def State.activeStreams (s : State) : List (CoreNo × CoreNo × DroverNo × DStreamNo) :=
  (List.finRange 32).flatMap fun p => match s.logicalOf p with
    | none => []
    | some l => (List.finRange 4).flatMap fun d => (List.finRange 8).filterMap fun i =>
        if (s.ds p d i).status = .idle then none else some (p, l, d, i)

/-- A unit reads pasture of the module through a read beat. -/
def UnitFl.reads (u : UnitFl) : Bool := u.from_.isNone && decide (dSrcClass u.desc = 1 ∨ dSrcClass u.desc = 2)

/-- The logical core at which the beats of a unit of core l are granted: the one read, or its own when that is
absent. -/
def State.server (s : State) (l : CoreNo) (u : UnitFl) : CoreNo :=
  if u.reads && !s.absent u.src then u.src else l

/-- A unit that reads no pasture is captured as its first beat is granted (R166). -/
def State.captureUnit (s : State) (p : CoreNo) (f : FoldNo) (u : UnitFl) : State × UnitFl :=
  if u.virtual && !u.granted && !u.idle then
    let r := s.cores[p].capture s.now u.desc u.srcBase u.unit
    (s.events p r.2 f, { u with beats := u.beats.map fun b => { b with data := (r.1.drop b.off).take b.len } })
  else (s, u)

/-- A data read beat granted (R149, R158, R160, R162, R166, R207 to R210). `free` is the number of read beats left. An idle beat
takes the same write beat as a used one. -/
def State.grantRead (s : State) (l p : CoreNo) (free : Nat) (k : Cand) : State × Nat :=
  let x := s.ds k.core k.drover k.stream
  match x.units[k.unit]? with
  | none => (s, free)
  | some u =>
    match u.beats[k.beat]? with
    | none => (s, free)
    | some b =>
      let here := decide (u.dst = l) && u.to_.isNone && !u.gone && decide (dDstClass u.desc ≠ 7)
      let stores := toPasture u.desc && u.to_.isNone && !u.gone
      let full := here && stores && decide (8 ≤ s.cores[p].writesAt (s.now + 10))
      if free = 0 ∨ full then (s, free)
      else
        let scatterIdle := u.idle && decide (dKind u.desc = 3)
        let q := s.captureUnit k.core x.fold u
        let s := q.1
        let b := (q.2.beats[k.beat]?).getD b
        let r := if u.idle then (s, []) else if u.virtual then (s, b.data) else s.readBeat x.fold u.src b.off b.len
        let s := r.1
        let sent := if here || u.idle then (s.cores[p], true) else s.cores[p].sendBeat s.now
        let s : State := { s with cores := s.cores.set p sent.1 }
        let data := if sent.2 then r.2 else zerosBad b.len
        let land := s.now + (if here || u.to_.isSome then 10 else 58)
        let u := { q.2 with granted := true, beats := q.2.beats.set k.beat { b with land := some land, data := data } }
        let s := s.setUnit k.core k.drover k.stream k.unit u
        let s := if stores then
            (match s.phys u.dst with
             | some q => s.onCore q fun c => c.takeWrites s.now land 1
             | none => s)
          else s
        let s := s.events p [(0x06, b2n (!scatterIdle && !u.virtual)), (0x07, b2n scatterIdle), (0x08, b2n u.idle),
          (0x39, b2n (!sent.2))] x.fold
        let s := s.events k.core [(0x2D, b2n (!u.idle && u.to_.isNone && (u.gone || s.absent u.dst)))] x.fold
        (s, free - b2n (!u.virtual))

/-- A write beat of a READ row granted and stored (R159, R192). -/
def State.grantWrite (s : State) (p : CoreNo) (free : Nat) (k : Cand) : State × Nat :=
  if free = 0 then (s, 0)
  else
    let x := s.ds k.core k.drover k.stream
    match x.units.zipIdx.find? fun u => decide (u.1.run = k.run) && decide (u.1.unit = k.num) with
    | none => (s, free)
    | some (u, n) =>
      let s := s.setUnit k.core k.drover k.stream n { u with granted := true }
      let s := s.onCore p fun c => c.takeWrites s.now s.now 1
      let s := s.landBeat k.core k.lcore k.drover k.stream n s.now false
      (s.events p [(0x07, 1)] x.fold, free - 1)

/-- A drover keeps descriptors that it has read, 64 of them, the newest last (R164). -/
def Core.keepDescs (c : Core) (d : DroverNo) (ws : List (Nat × Nat × Word256 × Bool)) : Core :=
  { c with dbufs := vmod c.dbufs d fun old =>
      let all := (old.filter fun e => !ws.any fun n => decide (n.1 = e.1)) ++ ws
      all.drop (all.length - 64) }

/-- One descriptor fetch beat of a stream (R164). -/
def State.fetchBeat (s : State) (p l : CoreNo) (d : DroverNo) (i : DStreamNo) : State :=
  let x := s.ds p d i
  let r := s.readBeat x.fold l x.fetch (256 - x.fetch % 256)
  let n := r.2.length / 32
  let ws := (List.range n).map fun k =>
    let bs := (r.2.drop (32 * k)).take 32
    (x.fetch + 32 * k, s.now + 12, (BitVec.ofNat 256 (leNat (bs.map fun b => b.1)) : Word256), bs.any fun b => b.2)
  let next := x.fetch + 32 * max 1 n
  let s := r.1.onCore p fun c => (c.keepDescs d ws).setDs d i { x with fetch := next, want := decide (next % 1024 ≠ 0) }
  s.events p [(0x06, 1)] x.fold

/-- The chain of a stream needs a descriptor that its drover does not hold (R164): all of an armed chain, and the next one of
a chain that runs. -/
def Core.wantsDesc (c : Core) (d : DroverNo) (i : DStreamNo) : Bool :=
  let x := c.ds d i
  !x.ended && decide (x.status ≠ .idle) && (decide (x.status = .armed) || decide (x.descs.length ≤ x.cur)) &&
    !(c.dbufs[d].any fun e => decide (e.1 = x.next))

/-- The descriptor fetch beats of a stream (R164), at most four, as far as read beats are left. -/
def State.fetchDescs (s : State) (p l : CoreNo) (d : DroverNo) (i : DStreamNo) (free : Nat) : State × Nat :=
  let s := if !(s.ds p d i).want && s.cores[p].wantsDesc d i then
      s.setDs p d i { s.ds p d i with want := true, fetch := (s.ds p d i).next }
    else s
  (List.range 4).foldl (fun (a : State × Nat) _ =>
    if (a.1.ds p d i).want && decide (0 < a.2) then (a.1.fetchBeat p l d i, a.2 - 1) else a) (s, free)

/-- The index beats of a stream (R168), as far as read beats are left. -/
def State.fetchIndex (s : State) (p l : CoreNo) (d : DroverNo) (i : DStreamNo) (free : Nat) : State × Nat :=
  match (s.ds p d i).seated (s.cores[p].freeSlot d) with
  | none => (s, free)
  | some x =>
    match x.ctx, x.descs[x.cur]? with
    | some ctx, some de =>
      if decide (x.status = .running) && !x.stopping && decide (dKind de.word = 2 ∨ dKind de.word = 3) && s.mayRun x then
        (x.indexWanted ctx de.word s.now).foldl (fun (a : State × Nat) off =>
          if a.2 = 0 then a
          else
            let r := a.1.readBeat x.fold l off 256
            let y := if (r.1.ds p d i).index.isEmpty then { r.1.ds p d i with descs := x.descs } else r.1.ds p d i
            ((r.1.setDs p d i { y with index := y.index ++ [(off, s.now + 12, r.2)] }).events p [(0x06, 1)] x.fold, a.2 - 1)) (s, free)
      else (s, free)
    | _, _ => (s, free)

/-- The fetch beats and index beats of one stream (R164, R168), as far as read beats are left. -/
def State.fetchBeats (s : State) (p l : CoreNo) (d : DroverNo) (i : DStreamNo) (free : Nat) : State × Nat :=
  let a := s.fetchDescs p l d i free
  a.1.fetchIndex p l d i a.2

/-- The next descriptor of a chain, when its drover holds it and it is usable, is taken (R164, R165). A malformed one is counted
and passed over. -/
def DStream.takeDesc (x : DStream) (buf : List (Nat × Nat × Word256 × Bool)) (now : Nat) : DStream × Nat :=
  match buf.find? fun e => decide (e.1 = x.next) with
  | none => (x, 0)
  | some (off, ready, w, bad) =>
    let y := { x with next := off + 32 }
    if decide (now < ready) || x.ended || decide (x.status = .idle) then (x, 0)
    else if w = 0 && !bad then ({ y with ended := true }, 0)
    else if x.ctx.isNone then (if !bad && ctxOk w then ({ y with ctx := some w }, 0) else (y, 1))
    else if !bad && descOk (x.ctx.getD 0) w then
      ({ y with lead := some (x.lead.getD (dSrc w, dDst w))
                descs := x.descs ++ [{ at_ := off, word := w, src0 := dSrc w, dst0 := dDst w, src := dSrc w, dst := dDst w,
                                       slot := none, held := none }] }, 0)
    else (y, 1)

/-- Every descriptor of a stream that has become usable is taken. -/
def DStream.takeDescs (x : DStream) (buf : List (Nat × Nat × Word256 × Bool)) (now : Nat) : Nat → DStream × Nat
  | 0 => (x, 0)
  | n + 1 =>
    let r := x.takeDesc buf now
    if r.1 = x then (x, 0)
    else
      let q := r.1.takeDescs buf now n
      (q.1, r.2 + q.2)

/-- A row is taken for service by the gather service or the mail window of a core (R34, R261): at most 1,920 × P a tick. -/
def State.takeRow (s : State) (p : CoreNo) : State × Bool :=
  let c := s.cores[p]
  let n := if c.rowsTaken.1 = s.tick.number.toNat then c.rowsTaken.2 else 0
  if s.reserveAt ≤ n then (s, false)
  else (s.onCore p fun c => { c with rowsTaken := (s.tick.number.toNat, n + 1) }, true)

/-- The gather service of a core grants a remote row read (R208, R209, R261): the oldest deadline, at most one a cycle. -/
def State.gatherBeat (s : State) (l p : CoreNo) (k : SchedPacket) : State :=
  let body := k.payload
  let ret : Word64 := BitVec.ofNat 64 (beAt body 0 8)
  let stamp : BitVec 32 := BitVec.ofNat 32 (beAt body 8 4)
  let len := beAt body 12 2
  match s.foldByTag k.tag with
  | none => s
  | some f =>
    let r := if hSpace k.addr = 1 then
        (s, (s.cores[p].accSpace s.now (hOff k.addr) len).map fun b => (b.1, b.2 || s.cores[p].fault.isSome))
      else s.readBeat f l (hOff k.addr) len
    let sent := r.1.cores[p].sendBeat s.now
    let s : State := { r.1 with cores := r.1.cores.set p sent.1 }
    let s := (s.events p [(0x06, 1), (0x39, b2n (!sent.2))] f).countFold f 20 1
    match s.flowOf f false l (hModule ret) with
    | some fl => s.sendSched f fl 3 ret (if sent.2 then r.2 else zerosBad len) (s.now + 10) (some stamp)
    | none => s

/-- Tick-relative cycles of the mail service window of a core (R267): its S_m grants, fixed by the pen. -/
def State.mailCycles (s : State) (l : CoreNo) : List Nat :=
  match s.foldOf l with
  | none => []
  | some f => match s.folds[f].image with
    | some i => if s.folds[f].run = .running then Config.mailCycles i.measurement s.folds[f].sel.pen l.val else []
    | none => []

/-- A gather request answered "not served" (R34, R267), counted here and at the requester. -/
def State.mailNotServed (s : State) (l : CoreNo) (g : Nat × FoldNo × MailMsg) : State :=
  let s : State := { s with hall := { s.hall with gathers := s.hall.gathers.erase g } }
  (s.answerMail g.2.2 4 s.folds[g.2.1].epochs[l] (BitVec.ofNat 64 (beAt g.2.2.payload 0 8)) []).countFold g.2.1 16 1

/-- One grant of the mail service window of a core (R267): the oldest request that landed in an earlier tick is served; with
none the grant stays idle. -/
def State.mailGrant (s : State) (l p : CoreNo) (due : List (Nat × FoldNo × MailMsg)) : State :=
  match due with
  | [] => s.events p [(0x06, 1), (0x08, 1)]
  | first :: _ =>
    let t := s.takeRow p
    if !t.2 then t.1.mailNotServed l first
    else
      let f := first.2.1
      let m := first.2.2
      let r := t.1.readBeat f l (hOff m.addr) (beAt m.payload 8 2)
      let s3 : State := (r.1.events p [(0x06, 1)] f).countFold f 20 1
      let s4 : State := { s3 with hall := { s3.hall with gathers := s3.hall.gathers.erase first } }
      s4.sendMail (some f) 3 (r.2.any fun b => b.2) m.srcModule m.srcTag s4.folds[f].epochs[l] m.number
        (BitVec.ofNat 64 (beAt m.payload 0 8)) (r.2.map fun b => b.1)

/-- The mail service window of a core in this cycle (R267): of the requests that landed in the tick before as many are served
as the window has grants, at its cycles, and the others are answered "not served". Answers the read beats taken. -/
def State.mailService (s : State) (l p : CoreNo) (free : Nat) : State × Nat :=
  let window := s.mailCycles l
  let due := s.hall.gathers.filter fun g => decide (g.1 < s.tick.instant) && decide (hCore g.2.2.addr = l)
  let left := (window.filter fun k => decide (s.rel ≤ k)).length
  let s := (due.drop left).foldl (fun (s : State) g => s.mailNotServed l g) s
  if window.contains s.rel && decide (0 < free) then (s.mailGrant l p (due.take left), 1) else (s, 0)

/-! ## START, STOP, REARM and cancellation (R172, R178, R179, R197) -/

/-- START of a stream (Table 9.14): a chain is fetched, and the stream runs or is armed. -/
def DStream.start (x : DStream) (f : FoldNo) (chain origin : Nat) (relative armOnly bad : Bool) : DStream × Nat :=
  if x.status ≠ .idle then (x, 1)
  else
    ({ DStream.reset with
        status := if armOnly then .armed else .running, fold := f, armOnly := armOnly, next := chain,
        origin := origin, relative := relative, badBase := bad, runNo := x.runNo + 1 }, 0)

/-- The units of a stream that have no beat granted are dropped (R170), and their runs do not post; answers the credits that
come back. -/
def DStream.dropUnits (x : DStream) : DStream × Nat :=
  let keep := x.units.filter fun u => u.granted
  let cut := fun (run : Nat) => decide (run = x.runNo) || x.units.any fun u => decide (u.run = run) && !u.granted
  ({ x with units := keep.map fun u => { u with last := u.last && !cut u.run }, want := false, ended := true,
            cur := x.descs.length }, x.units.length - keep.length)

/-- STOP of a stream (R170, R197): the stream, and the ring credits that come back. -/
def DStream.stop (x : DStream) : DStream × Nat :=
  match x.status with
  | .idle => (x, 0)
  | .armed => (DStream.reset, 0)
  | .running =>
    let r := x.dropUnits
    ({ r.1 with stopping := true, rearm := none }, r.2)

/-- A stream of a core without the carry flag that still runs as the reserve begins ends (R178) (DEDUCED, assumption 20): what
has been granted lands, and a persistent chain is armed. -/
def Core.endPlain (c : Core) (d : DroverNo) (i : DStreamNo) (tick : Nat) : Core :=
  let x := c.ds d i
  match x.ctx with
  | none => c
  | some ctx =>
    if xCarry ctx ∨ x.status ≠ .running then c
    else
      let r := x.dropUnits
      let c := if xRingOn ctx then c.onRing (xRing ctx) fun g => { g with started := g.started - r.2 } else c
      c.setDs d i (r.1.settle tick)

/-- Every stream without the carry flag ends as the reserve begins. -/
def Core.endPlains (c : Core) (tick : Nat) : Core :=
  (List.finRange 4).foldl (fun (c : Core) d => (List.finRange 8).foldl (fun (c : Core) i => c.endPlain d i tick) c) c

/-- REARM of a stream (R172, R197). -/
def DStream.rearmBy (x : DStream) (r : Rearm) (tick : Nat) : DStream × Nat :=
  match x.status with
  | .idle => (x, 1)
  | .armed =>
    if x.rearm.isSome then (x, 1) else if x.ended then (x.applyRearm r tick, 0) else ({ x with rearm := some r }, 0)
  | .running =>
    if x.rearm.isSome then (x, 1)
    else if x.allStarted && decide (x.ungranted = 0) then (x.applyRearm r tick, 0)
    else ({ x with rearm := some r }, 0)

/-- Work of one stream cancelled (R179): beats granted and not landed are discarded and counted. -/
def Core.cancelStream (c : Core) (d : DroverNo) (i : DStreamNo) : Core × Nat :=
  let x := c.ds d i
  let n := (x.units.map fun u => (u.beats.filter fun b => b.land.isSome).length).sum
  let rings := match x.ctx with
    | some w => if xRingOn w then xRing w :: c.ringsToReset.filter (· ≠ xRing w) else c.ringsToReset
    | none => c.ringsToReset
  if x.status = .idle then (c, 0) else ({ c.setDs d i DStream.reset with ringsToReset := rings }, n)

/-- Every stream of a core that a test picks cancelled. -/
def Core.cancel (c : Core) (pick : DStream → Bool) : Core × List (Nat × Nat) :=
  let r := (List.finRange 4).foldl (fun (a : Core × Nat) d => (List.finRange 8).foldl (fun (a : Core × Nat) i =>
    if pick (a.1.ds d i) then
      let q := a.1.cancelStream d i
      (q.1, a.2 + q.2)
    else a) a) (c, 0)
  (r.1, [(0x2A, r.2)])

/-- The streams of a fold cancelled on every core; at the next tick instant its cores' row feeders are emptied (R179). -/
def State.cancelFold (s : State) (f : FoldNo) : State :=
  (List.finRange 32).foldl (fun (s : State) p =>
    let mine := match s.logicalOf p, s.folds[f].allot with
      | some l, some a => a.holds l
      | _, _ => false
    s.onCoreE p (fun c =>
      let r := c.cancel fun x => decide (x.fold = f)
      ({ r.1 with emptyFeeder := r.1.emptyFeeder || mine }, r.2)) f) s

end Sys2Proof.Machine
end

