-- ==== Sys2Proof/Machine/Issue.lean ====
section
/-! DEFINITION. The common instructions of the three streams and the movements of handles (spec/09 Tables 9.2 and
9.3, spec/08 R174 to R176). -/

namespace Sys2Proof.Machine

/-- The stream that issued at a cycle goes on (R185) (DESIGN CHOICE, assumption 9). -/
def Core.issued (c : Core) (i : Issuer) (issue occupancy : Nat) : Core :=
  c.setStream i ((c.stream i).advance issue occupancy)

/-- Occupancy of one issue slot: one cycle, or the eight cycles of a thread's slot (R143). -/
def slotCycles : Issuer → Nat
  | .thread _ => 8
  | _ => 1

/-- NOP (Table 9.2). -/
def State.nop (s : State) (l : CoreNo) (i : Issuer) : State :=
  match s.issuing l i 0xC0 with
  | none => s
  | some (p, _) => s.onCore p fun c => c.issued i s.now (slotCycles i)

/-- WAITT: the floor of the next instruction (Table 9.2). -/
def State.waitt (s : State) (l : CoreNo) (i : Issuer) : State :=
  match s.issuing l i 0xC1 with
  | none => s
  | some (p, w) => s.onCore p fun c =>
      let c := c.issued i s.now 0
      c.setStream i { c.stream i with floor := s.tick.instant + fld w 100 28 }

/-- MARK: one program mark with its tag (Table 9.2). -/
def State.mark (s : State) (l : CoreNo) (i : Issuer) : State :=
  match s.issuing l i 0xC7 with
  | none => s
  | some (p, w) => s.onCore p fun c => (c.occur 0x0B 1 (s.foldOf l) (fld w 120 8) s.now).issued i s.now 1

/-- LOOP: a counted loop opens (R187). The floor of a WAITT before it stands for the next instruction that issues (R185). -/
def State.loop (s : State) (l : CoreNo) (i : Issuer) : State :=
  match s.issuing l i 0xC4 with
  | none => s
  | some (p, w) => s.onCore p fun c =>
      let floor := (c.stream i).floor
      let c := c.issued i s.now 0
      let t := { c.stream i with floor := floor }
      let f : LoopFrame :=
        { level := Fin.ofNat 4 (fld w 98 2), index := 0, trip := fld w 112 16, body := t.next, len := fld w 100 12 }
      c.setStream i { t with loops := f :: t.loops }

/-- RELEASE of ring slots (R171): a ring whose enable bit is 0 counts an underrun. -/
def State.release (s : State) (l : CoreNo) (i : Issuer) : State :=
  match s.issuing l i 0xC5 with
  | none => s
  | some (p, w) =>
    if !s.turn l i (sharedOf l w) then s
    else s.onCoreE p fun c =>
      let r := Fin.ofNat 32 (fld w 123 5)
      let ring : Ring := c.rings[r]
      let c := c.issued i s.now 1
      if ring.enabled then
        let q := ring.release (fld w 118 5)
        (c.onRing r fun _ => q.1, q.2)
      else (c, [(0x27, 1)])

/-- ENDP: the stream ends for this tick (R186). -/
def State.endp (s : State) (l : CoreNo) (i : Issuer) : State :=
  match s.issuing l i 0xC6 with
  | none => s
  | some (p, _) => s.onCore p fun c =>
      c.setStream i { c.stream i with running := false, lastIssue := s.now }

/-! ## Gates (R174 to R176, R189, R210) -/

/-- The gate record of a gate of a logical core in the image of its fold. -/
def State.gateRec (s : State) (l : CoreNo) (g : GateNo) : Option GateRec :=
  (s.foldOf l).bind fun f => s.folds[f].image.bind fun i =>
    i.gates.find? fun r => decide (r.core = l) && decide (r.gate = g)

/-- The handle that a take on a gate completes with now: its first visible handle, or the stand-in while the gate's
producer is absent (Table 10.3); the gate after it. -/
def State.taken (s : State) (p l : CoreNo) (g : GateNo) : Option (Handle × Gate) :=
  let q : Gate := s.cores[p].gates[g]
  match s.gateRec l g with
  | some r =>
    if s.absent r.producer then some ({ bad := true, tag := 0, buffer := BitVec.ofNat 23 r.standIn }, q)
    else (q.first s.now).map fun h => (h, q.take s.now)
  | none => (q.first s.now).map fun h => (h, q.take s.now)

/-- A take that issued at a cycle completes now. -/
def Core.complete (c : Core) (i : Issuer) (g : GateNo) (reg : BitVec 2) (since now : Nat) (h : Handle) (q : Gate) : Core :=
  let c := c.onGate g fun _ => q
  let t := (c.stream i).advance since (now - since + 1)
  c.setStream i { t with wait := .none, handles := t.handles.set reg.toFin h }

/-- TAKE (R175, R190): it completes at once, or holds its stream. -/
def State.take (s : State) (l : CoreNo) (i : Issuer) : State :=
  match s.issuing l i 0xC2 with
  | none => s
  | some (p, w) =>
    let g : GateNo := Fin.ofNat 64 (fld w 122 6)
    let reg : BitVec 2 := BitVec.ofNat 2 (fld w 120 2)
    match (s.taken p l g).filter fun _ => s.turn l i (sharedOf l w) with
    | some (h, q) => s.onCore p fun c => c.complete i g reg s.now s.now h q
    | none => s.onCore p fun c => c.setStream i { c.stream i with wait := .take g reg s.now, lastIssue := s.now }

/-- A held take completes (R175), in the order of the streams (R190). -/
def State.takeCompletion (s : State) (l : CoreNo) (i : Issuer) : State :=
  match s.phys l with
  | none => s
  | some p => match (s.cores[p].stream i).wait with
    | .take g reg since => (match (s.taken p l g).filter fun _ => s.turn l i (some (.handles g)) with
      | some (h, q) => s.onCore p fun c => c.complete i g reg since s.now h q
      | none => s)
    | _ => s

/-- A handle sent to another logical core of the module (R175, R207, R210). -/
def State.sendHandle (s : State) (p target : CoreNo) (g : GateNo) (h : Handle) : State :=
  if s.absent target then s.events p [(0x2D, 1)]
  else
    match s.phys target with
    | none => s.events p [(0x2D, 1)]
    | some q => s.onCore q fun c =>
        { c with arrivals := c.arrivals ++ [{ gate := g, handle := h, sent := s.now, arrive := s.now + 48, dead := false }] }

/-- A post to another module (R251, R255, R260): an address error is counted and nothing is sent. -/
def State.postFar (s : State) (p l : CoreNo) (m : BitVec 12) (target : CoreNo) (g : GateNo) (h : Handle) : State :=
  let a := hallAddr 2 m target (4 * g.val)
  match s.foldOf l with
  | none => s
  | some f =>
    if addrOk s.declared a 4 .post false && (s.sliceOf f a .post).isSome then
      match s.flowOf f false l m with
      | some fl =>
        s.sendSched f fl 4 a ((beBytes h.toWord.toNat 4 ++ List.replicate 28 0).map fun b => (b, false)) s.now none
      | none => s.events p [(0x22, 1)]
    else s.events p [(0x22, 1)]

/-- POST (R175, R189, R190, R209): a full gate of this core holds the stream. -/
def State.post (s : State) (l : CoreNo) (i : Issuer) : State :=
  match s.issuing l i 0xC3 with
  | none => s
  | some (p, w) =>
    let g : GateNo := Fin.ofNat 64 (fld w 122 6)
    let h := (s.cores[p].stream i).posted w
    let h := if s.cores[p].fault.isSome then { h with bad := true } else h
    let target : CoreNo := Fin.ofNat 32 (fld w 105 5)
    if bitOf w 104 then
      (s.postFar p l (BitVec.ofNat 12 (fld w 110 12)) target g h).onCore p fun c => c.issued i s.now 1
    else if target = l then
      if s.cores[p].gates[g].full s.now || !s.turn l i (sharedOf l w) then
        s.onCore p fun c => c.setStream i { c.stream i with wait := .post g h s.now, lastIssue := s.now }
      else s.onCore p fun c => (c.onGate g fun q => q.put h (s.now + 2)).issued i s.now 1
    else (s.sendHandle p target g h).onCore p fun c => c.issued i s.now 1

/-- The handle that a transfer slot of a drover holds at a full gate: its stream, the descriptor's offset, gate and handle. -/
def Core.heldSlot (c : Core) (d : DroverNo) (k : Nat) : Option (DStreamNo × Nat × GateNo × Handle) :=
  (List.finRange 8).findSome? fun i => (c.ds d i).descs.findSome? fun e =>
    if e.slot = some k then e.held.map fun h => (i, e.at_, h.1, h.2) else none

/-- The post of a descriptor is made: its transfer slot is free unless it stays armed (R163). -/
def DStream.posted (x : DStream) (at_ : Nat) : DStream :=
  x.onDesc at_ fun e => { e with held := none, slot := if dPersistent e.word then e.slot else none }

/-- A held post, of a stream or of a transfer slot, finds a place (R175, R454). -/
def State.postHoldRelease (s : State) (l : CoreNo) (h : Holder) : State :=
  match s.phys l with
  | none => s
  | some p =>
    match h with
    | .stream i => (match (s.cores[p].stream i).wait with
      | .post g x since =>
        if s.cores[p].gates[g].full s.now || !s.turn l i (some (.places g)) then s
        else s.onCore p fun c =>
          let c := c.onGate g fun q => q.put x (s.now + 2)
          c.setStream i { (c.stream i).advance since (s.now - since + 1) with wait := .none }
      | _ => s)
    | .slot d k => (match s.cores[p].heldSlot d k.val with
      | some (i, e, g, x) =>
        if s.cores[p].gates[g].full s.now then s
        else s.onCore p fun c =>
          let c := c.onGate g fun q => q.put x (s.now + 2)
          c.setDs d i (((c.ds d i).posted e).settle s.tick.number.toNat)
      | none => s)

/-- The oldest handle that has arrived is placed in its gate (R174, R176): one sent before its gate was loaded again
is discarded as cancelled, one that meets a full gate overflows. -/
def State.handleArrival (s : State) (l : CoreNo) : State :=
  match s.phys l with
  | none => s
  | some p =>
    match s.cores[p].arrivals.find? fun a => decide (a.arrive ≤ s.now) with
    | none => s
    | some a => s.onCoreE p fun c =>
        let c := { c with arrivals := c.arrivals.erase a }
        if a.dead then (c, [(0x2A, 1)])
        else if c.gates[a.gate].full s.now then (c, [(0x38, 1)])
        else (c.onGate a.gate fun q => q.put a.handle a.arrive, [])

/-! ## Meanings -/

def execNop (l : CoreNo) (i : Issuer) (s : State) : Host.Outcome State Fault Refusal := .next (s.nop l i)
def execWaitt (l : CoreNo) (i : Issuer) (s : State) : Host.Outcome State Fault Refusal := .next (s.waitt l i)
def execTake (l : CoreNo) (i : Issuer) (s : State) : Host.Outcome State Fault Refusal := .next (s.take l i)
def execTakeCompletion (l : CoreNo) (i : Issuer) (s : State) : Host.Outcome State Fault Refusal :=
  .next (s.takeCompletion l i)
def execPost (l : CoreNo) (i : Issuer) (s : State) : Host.Outcome State Fault Refusal := .next (s.post l i)
def execPostHoldRelease (l : CoreNo) (h : Holder) (s : State) : Host.Outcome State Fault Refusal :=
  .next (s.postHoldRelease l h)
def execLoop (l : CoreNo) (i : Issuer) (s : State) : Host.Outcome State Fault Refusal := .next (s.loop l i)
def execRelease (l : CoreNo) (i : Issuer) (s : State) : Host.Outcome State Fault Refusal := .next (s.release l i)
def execEndp (l : CoreNo) (i : Issuer) (s : State) : Host.Outcome State Fault Refusal := .next (s.endp l i)
def execMark (l : CoreNo) (i : Issuer) (s : State) : Host.Outcome State Fault Refusal := .next (s.mark l i)
def execHandleArrival (l : CoreNo) (s : State) : Host.Outcome State Fault Refusal := .next (s.handleArrival l)

end Sys2Proof.Machine
end

