-- ==== Sys2Proof/Machine/Tables.lean ====
section
/-! DEFINITION. Pattern tables and micro-programs of the currier (R132 to R137, R141). -/

namespace Sys2Proof.Machine

/-- A value rounded to binary32, ties to even (round32 of R133). -/
def round32 (x : Ext) : Ext := Fmt.b32.value (Fmt.b32.encode x).1

/-- Bytes of one pattern table: header and 1,024 segments. -/
def tableBytes : Nat := 16416

/-- Header of a pattern table (Table 7.4). -/
structure TabHead where
  a : Ext
  b : Ext
  mode : Nat
  period : Nat
  factor : Int
  addsRq : Bool
  outcomes : Nat
  post : Ext
  odd : Bool
  even : Bool
  deriving DecidableEq, Repr

/-- A binary32 value at a place of the table store. -/
def Currier.tab32 (c : Currier) (pos : Nat) : Ext := Fmt.b32.value (leNat (cellsGet 0 c.tables pos 4))

/-- The header of a table. -/
def Currier.head (c : Currier) (j : Nat) : TabHead :=
  let at0 := j * tableBytes
  let byte := fun (k : Nat) => (cellGet 0 (at0 + k) c.tables).toNat
  { a := c.tab32 at0, b := c.tab32 (at0 + 4), mode := byte 8, period := byte 9, factor := signedN (byte 10) 8,
    addsRq := decide (byte 11 = 1), outcomes := leNat (cellsGet 0 c.tables (at0 + 12) 4), post := c.tab32 (at0 + 16),
    odd := (byte 20).testBit 0, even := (byte 20).testBit 1 }

/-- Coefficients c0 to c3 of a segment. -/
def Currier.coeffs (c : Currier) (j i : Nat) : Ext × Ext × Ext × Ext :=
  let at0 := j * tableBytes + 32 + 16 * i
  (c.tab32 at0, c.tab32 (at0 + 4), c.tab32 (at0 + 8), c.tab32 (at0 + 12))

/-- Sum without its event. -/
def Ext.plus (x y : Ext) : Ext := (x.add y).1
/-- Product without its event. -/
def Ext.times (x y : Ext) : Ext := (x.mul y).1

/-- The Horner steps of R133, or of the compatibility mode (R141). -/
def horner (k : Ext × Ext × Ext × Ext) (u : Ext) (compat : Bool) : Ext :=
  if compat then
    let p := round32 ((round32 (k.2.2.1.times u)).plus k.2.1)
    round32 ((round32 (p.times u)).plus k.1)
  else
    let p := k.2.2.2
    let p := round32 ((p.times u).plus k.2.2.1)
    let p := round32 ((p.times u).plus k.2.1)
    round32 ((p.times u).plus k.1)

/-- An exponent kept where every format has long overflowed or underflowed, so that no result changes. -/
def clampExp (n : Int) : Int := if n < -5000 then -5000 else if 5000 < n then 5000 else n

/-- Result of an evaluation before its destination rounding. -/
structure TabOut where
  value : Ext
  /-- an invalid event is due (outcome 0x0) -/
  invalid : Bool
  /-- segment read, none by outcome -/
  segment : Option Nat
  deriving DecidableEq, Repr

/-- A result that reads no segment. -/
def TabOut.of (x : Ext) : TabOut := { value := x, invalid := false, segment := none }

/-- Outcomes 0x0 to 0x6 (Table 7.5). -/
def outcome (code : Nat) (x : Ext) : TabOut :=
  match code with
  | 0 => { value := .nan, invalid := true, segment := none }
  | 1 => .of (.inf false)
  | 2 => .of (.inf true)
  | 3 => .of (.fin 0)
  | 4 => .of (.fin 1)
  | 5 => .of (.fin (-1))
  | 6 => .of x
  | _ => { value := .nan, invalid := true, segment := none }

/-- evaluate of R133 for an input that is not negative where the table has a symmetry. `scale` replaces b of the
header; with `compat` the segment index is divided by four and the product with c_p is rounded to binary32. -/
def Currier.evalPlain (c : Currier) (j : Nat) (x : Ext) (scale : Option Ext) (compat : Bool) : TabOut :=
  let h := c.head j
  let o := fun (k : Nat) => fldN h.outcomes (4 * k) 4
  let run := fun (i : Nat) (u : Ext) (after : Ext → Ext) =>
    let seg := if compat then i / 4 else i
    let v := (after (horner (c.coeffs j seg) u compat)).times h.post
    { value := if compat then round32 v else v, invalid := false, segment := some seg : TabOut }
  match x with
  | .nan => .of .nan
  | .inf neg => outcome (o (if neg then 2 else 1)) x
  | .fin q =>
    let a := h.a.num
    let b := (scale.getD h.b).num
    if h.mode = 0 then
      let t := (q - a) * b
      if t < 0 then
        let k := o 4
        if k = 7 then run 0 (.fin 0) id
        else if k = 8 then run 0 (round32 (.fin t)) id
        else outcome k x
      else if 1024 ≤ t then
        let k := o 5
        if k = 7 then run 1023 (.fin 1) id
        else if k = 8 then run 1023 (round32 (.fin (t - 1023))) id
        else outcome k x
      else
        let i := t.floor
        run i.toNat (round32 (.fin (t - i))) id
    else if h.mode = 1 then
      if q = 0 then outcome (o 0) x
      else if q < 0 then outcome (o 3) x
      else
        let p : Int := max 1 h.period
        let s := floorLog2 q
        let f := q / twoPow s - 1
        let n := s / p
        let j2 := s % p
        let w : Int := 1024 / p
        let y := f * (w : Rat)
        let i := j2 * w + y.floor
        run i.toNat (round32 (.fin (y - y.floor))) fun v =>
          if h.addsRq then v.plus (.fin ((h.factor * n : Int) : Rat))
          else v.times (.fin (twoPow (clampExp (h.factor * n))))
    else
      let t := (q - a) * b
      let n := t.floor
      let g := (t - n) * 1024
      let i := g.floor
      run i.toNat (round32 (.fin (g - i))) fun v => v.times (.fin (twoPow (clampExp n)))

/-- evaluate of R133: symmetry first. `neg0` says that the input is −0. -/
def Currier.evaluate (c : Currier) (j : Nat) (x : Ext) (neg0 : Bool) (scale : Option Ext) (compat : Bool) : TabOut :=
  let h := c.head j
  if (h.odd || h.even) && (x.neg? || neg0) then
    let r := c.evalPlain j x.negate scale compat
    if h.odd then { r with value := r.value.negate } else r
  else c.evalPlain j x scale compat

/-- The bytes of a table store that a full load writes in a cycle include this one (R135). -/
def Currier.loading (c : Currier) (now pos : Nat) : Bool :=
  decide (now < c.loadUntil) && decide (c.loadUntil ≤ now + 66) && decide (pos / 4096 + c.loadUntil = now + 66)

/-- An evaluation reads a segment in the cycle that a load writes it (R135). -/
def Currier.tableClash (c : Currier) (now j : Nat) (r : TabOut) : Bool :=
  match r.segment with
  | some i => c.loading now (j * tableBytes + 32 + 16 * i)
  | none => false

/-! ## Micro-programs (R136, R137) -/

/-- A step word of the micro-program store. -/
def Currier.step (c : Currier) (n : Nat) : Word32 := BitVec.ofNat 32 (leNat (cellsGet 0 c.micro (4 * n) 4))

/-- Latency of a step (Table 7.8). -/
def stepLatency (code : Nat) : Nat := if code = 0 then 2 else if code = 5 then 10 else 4

/-- Steps of a micro-program from a step to its end step: count and sum of latencies. -/
def Currier.microLength (c : Currier) (pc : Nat) : Nat → Nat × Nat
  | 0 => (0, 0)
  | n + 1 =>
    let code := fld (c.step pc) 27 5
    if code = 0 then (1, stepLatency 0)
    else
      let r := c.microLength (pc + 1) n
      (r.1 + 1, r.2 + stepLatency code)

/-- A table evaluation of one lane: its value, its invalid event, and whether it met a load (R133, R135). -/
structure LaneTab where
  value : Ext
  invalid : Bool
  clash : Bool
  deriving DecidableEq, Repr

/-- Table j evaluated at a cycle. -/
def Currier.evaluateAt (c : Currier) (now j : Nat) (x : Ext) (neg0 : Bool) (scale : Option Ext) (compat : Bool) : LaneTab :=
  let r := c.evaluate j x neg0 scale compat
  { value := r.value, invalid := r.invalid, clash := c.tableClash now j r }

/-- binary32 code of a value; a computed zero is +0 (R127). -/
def code32 (x : Ext) : Word32 := BitVec.ofNat 32 (Fmt.b32.encode x).1

/-- Lower bound of 2^f for 0 ≤ f < 1, as an integer over 2^512: the product of the roots 2^(2^−i) of the bits of f. The
bound lies so near that rounding it to binary32 rounds 2^f. -/
def exp2Frac (f : Rat) : Nat → Nat → Nat → Nat
  | 0, _, acc => acc
  | n + 1, root, acc =>
    let r := Nat.sqrt (root * 2 ^ 512)
    let g := 2 * f
    if 1 ≤ g then exp2Frac (g - 1) n r (acc * r / 2 ^ 512) else exp2Frac g n r acc

/-- 2^b of a rational exponent, to within 2^−500 of its size (Table 7.8) (DEDUCED, assumption 54). -/
def exp2 (b : Rat) : Rat :=
  let n := b.floor
  let f := b - n
  twoPow (clampExp n) * (if f = 0 then 1 else mkRat (exp2Frac f 160 (2 ^ 513) (2 ^ 512)) (2 ^ 512))

/-- The temporaries of a micro-program: eight binary32 codes (R136). -/
abbrev Temps := Vector Word32 8

/-- What a step does: the temporaries after it, an invalid event, a table conflict. -/
structure MicroOut where
  temps : Temps
  invalid : Bool
  clash : Bool
  deriving DecidableEq, Repr

/-- Sum of a product and a third value: a NaN operand gives NaN without an event (Table 2.7). -/
def Ext.fma (x y z : Ext) : Ext × List Ev :=
  if x.isNan || y.isNan || z.isNan then (.nan, [])
  else
    let m := x.mul y
    let r := m.1.add z
    (r.1, m.2 ++ r.2)

/-- Effect of one step on the temporaries at a cycle (Table 7.8). A step that chooses an operand copies its code. -/
def Currier.microStep (c : Currier) (now : Nat) (w : Word32) (t : Temps) : MicroOut :=
  let code := fld w 27 5
  let d : Fin 8 := Fin.ofNat 8 (fld w 24 3)
  let ac := t[Fin.ofNat 8 (fld w 21 3)]
  let bc := t[Fin.ofNat 8 (fld w 18 3)]
  let ci : Fin 8 := Fin.ofNat 8 (fld w 15 3)
  let a := Fmt.b32.value ac.toNat
  let b := Fmt.b32.value bc.toNat
  let cv := Fmt.b32.value t[ci].toNat
  let imm := fld w 0 6
  let put := fun (r : Ext × List Ev) => ({ temps := t.set d (code32 r.1), invalid := r.2.contains .invalid, clash := false } : MicroOut)
  let copy := fun (x : Word32) => ({ temps := t.set d x, invalid := false, clash := false } : MicroOut)
  match code with
  | 1 => put (a.add b)
  | 2 => put (a.sub b)
  | 3 => put (a.mul b)
  | 4 => put (a.fma b cv)
  | 5 =>
    let r := c.evaluateAt now (imm % 16) a (Fmt.b32.isNegZero ac.toNat) none false
    { temps := t.set d (code32 r.value), invalid := r.invalid, clash := r.clash }
  | 6 =>
    match a with
    | .fin q =>
      { temps := (t.set d (code32 (.fin (q.floor : Rat)))).set ci (code32 (.fin (q - q.floor))), invalid := false, clash := false }
    | x =>
      let r := x.sub x
      { temps := (t.set d (code32 x)).set ci (code32 r.1), invalid := r.2.contains .invalid, clash := false }
  | 7 =>
    if imm ≠ 0 then put (a.mul (.fin (twoPow (signedN imm 6))))
    else match b with
      | .fin q => put (a.mul (.fin (exp2 q)))
      | .inf neg => put (a.mul (if neg then .fin 0 else .inf false))
      | .nan => put (.nan, [])
  | 8 => copy (BitVec.ofNat 32 (leNat (cellsGet 0 c.micro (3840 + 4 * imm) 4)))
  | 9 => copy (if a.isNan then bc else if b.isNan then ac else if a.lt b then bc else ac)
  | 10 => copy (if a.isNan then bc else if b.isNan then ac else if b.lt a then bc else ac)
  | 11 => put (.fin (if a.lt b then 1 else 0), [])
  | 12 => copy (if a.isZero then t[ci] else bc)
  | 13 => put (if a.neg? then a.negate else a, [])
  | 14 => put (a.negate, [])
  | _ => { temps := t, invalid := false, clash := false }

/-- A micro-program run for one lane from a step on, each step at its cycle: T0 at its end, whether an invalid event came
about, and whether a table step met a load (R135, R137). -/
def Currier.microRun (c : Currier) (now pc : Nat) (t : Temps) : Nat → Word32 × Bool × Bool
  | 0 => (t[0], false, false)
  | n + 1 =>
    let w := c.step pc
    if fld w 27 5 = 0 then (t[0], false, false)
    else
      let r := c.microStep now w t
      let q := c.microRun (now + stepLatency (fld w 27 5)) (pc + 1) r.temps n
      (q.1, r.invalid || q.2.1, r.clash || q.2.2)

/-! ## Loading (R135) -/

/-- Bytes of the sixteen tables. -/
def allTables : Nat := 16 * tableBytes

/-- Bytes of one sparse memory copied to the same places of another. -/
def cellsOver (src dst : List (Nat × Byte)) (lo hi : Nat) : List (Nat × Byte) :=
  (src.filter fun c => decide (lo ≤ c.1 ∧ c.1 < hi)).foldl (fun m c => cellSet 0 c.1 c.2 m) (cellsClear lo hi dst)

/-- The 4,096 bytes that a load writes in a cycle: tables first, the micro-program store behind them. -/
def Currier.loadBeat (c : Currier) (now : Nat) : Currier :=
  if now + 66 < c.loadUntil ∨ c.loadUntil ≤ now then c
  else
    let lo := 4096 * (now + 66 - c.loadUntil)
    let hi := lo + 4096
    { c with tables := cellsOver c.newTables c.tables lo (min hi allTables)
             micro := if hi ≤ allTables then c.micro else cellsOver c.newMicro c.micro (lo - allTables) (hi - allTables) }

end Sys2Proof.Machine
end

