-- ==== Sys2Proof/Machine/Currier.lean ====
section
/-! DEFINITION. The currier stream: lane operations, row sums and statistics, stray corrections, branches, threads
and the landing of results (spec/07, spec/09 Tables 9.10 to 9.12). -/

namespace Sys2Proof.Machine

/-! ## Operands -/

/-- A source operand of one lane. -/
structure LaneOp where
  x : Ext
  bad : Bool
  neg0 : Bool
  fmt : Fmt
  code : Word64
  deriving DecidableEq, Repr

/-- Place of lane l of lane-row j in a UQ8 tensor (R126). -/
def Core.lanePlace (c : Core) (rec j lane : Nat) : Place :=
  { row := j, col := lane, tileCols := 1, channel := lane % max 1 (c.qrec rec).channels }

/-- Lane l of register r as an operand of lane-row j. -/
def Core.operand (c : Core) (r j lane : Nat) : LaneOp :=
  let n : Fin 32 := Fin.ofNat 32 r
  let e := c.currier.regs[n].getD lane { code := 0, bad := false }
  let f : Fmt := c.currier.fmts[n]
  let code := e.code.toNat
  let v : Ext × Bool :=
    if f = .uq8 then
      let rec' := c.currier.recs[n]
      c.dequantAt rec' (c.lanePlace rec' j lane) (code % 256)
    else (f.value code, false)
  { x := v.1, bad := e.bad || v.2, neg0 := f.isNegZero code, fmt := f, code := e.code }

/-- A computed lane value. -/
def laneVal (r : Ext × List Ev) (bad : Bool) : LaneVal :=
  { x := r.1, neg0 := false, copy := none, bad := bad, invalid := r.2.contains .invalid }

/-- Registers of operand b and c in lane-row j. -/
def regB (w : Word128) (j : Nat) : Nat := if bitOf w 33 then curB w else curB w + j
/-- Register of operand c in lane-row j. -/
def regC (w : Word128) (j : Nat) : Nat := if bitOf w 32 then curC w else curC w + j

/-- Product of three values: a NaN operand gives NaN without an event (Table 2.7). -/
def Ext.mul3 (x y z : Ext) : Ext × List Ev :=
  if x.isNan || y.isNan || z.isNan then (.nan, [])
  else
    let m := x.mul y
    let r := m.1.mul z
    (r.1, m.2 ++ r.2)

/-- (a − b) × c × d + e: a NaN operand gives NaN without an event (Table 2.7). -/
def Ext.affine (a b c d e : Ext) : Ext × List Ev :=
  if a.isNan || b.isNan || c.isNan || d.isNan || e.isNan then (.nan, [])
  else
    let r1 := a.sub b
    let r2 := r1.1.mul3 c d
    let r3 := r2.1.add e
    (r3.1, r1.2 ++ r2.2 ++ r3.2)

/-- The exponentials of a soft maximum (R138): a TEVAL with the clear flag clears the lane quires at its first issue
cycle and adds its results to them as they land (DESIGN CHOICE, assumption 54). -/
def softAdd (w : Word128) : Bool := decide (opcodeOf w = 0x4B) && bitOf w 43

/-- The same evaluated at a difference, x − m: at m = −∞ an element −∞ gives 0 (R139) (DESIGN CHOICE, assumption 54). -/
def softSum (w : Word128) : Bool := softAdd w && bitOf w 34

/-- Instruction scale of a TEVAL (Table 9.10). -/
def tevalScale (w : Word128) : Option Ext := if bitOf w 42 then some (Fmt.b32.value (curImm w)) else none

/-- Result of one lane of a lane operation (R46, R47, R127, R133, R136); `start` is the first step of a
micro-program. -/
def Core.laneOp (c : Core) (now op : Nat) (w : Word128) (start j lane : Nat) : LaneVal × Bool :=
  let a := c.operand (curA w + j) j lane
  let b := c.operand (regB w j) j lane
  let cc := c.operand (regC w j) j lane
  let ab := a.bad || b.bad
  let plain := fun (v : LaneVal) => (v, false)
  match op with
  | 0x40 => plain (laneVal (a.x.add b.x) ab)
  | 0x41 => plain (laneVal (a.x.sub b.x) ab)
  | 0x42 => plain (laneVal (a.x.mul b.x) ab)
  | 0x43 => plain (laneVal (a.x.fma b.x cc.x) (ab || cc.bad))
  | 0x44 => plain (laneVal (a.x.mul3 b.x cc.x) (ab || cc.bad))
  | 0x45 =>
    let d := c.operand (curD2 w + j) j lane
    let e := c.operand (curE w + j) j lane
    plain (laneVal (a.x.affine b.x cc.x d.x e.x) (ab || cc.bad || d.bad || e.bad))
  | 0x46 =>
    let unord := a.x.isNan || b.x.isNan
    let t := match fld w 35 3 with
      | 0 => !unord && decide (a.x = b.x)
      | 1 => a.x.lt b.x
      | 2 => a.x.lt b.x || (!unord && decide (a.x = b.x))
      | 3 => unord
      | _ => false
    plain (laneVal (.fin (if t then 1 else 0), []) ab)
  | 0x47 => plain (laneVal (if a.x.isNan then b.x else if b.x.isNan then a.x else if a.x.lt b.x then b.x else a.x, []) ab)
  | 0x48 => plain (laneVal (if a.x.isNan then b.x else if b.x.isNan then a.x else if b.x.lt a.x then b.x else a.x, []) ab)
  | 0x49 =>
    let o := if a.x.isZero then cc else b
    plain { x := o.x, neg0 := false, copy := if o.fmt = curFmt w then some o.code else none, bad := ab || cc.bad, invalid := false }
  | 0x4A =>
    plain { x := a.x, neg0 := a.neg0 && (curFmt w).ieee, copy := none, bad := a.bad, invalid := false }
  | 0x4B =>
    let diff := bitOf w 34
    if softSum w && decide (a.x = .inf true) && decide (b.x = .inf true) then plain (laneVal (.fin 0, []) ab)
    else
      let x := if diff then a.x.sub b.x else (a.x, [])
      let r := c.currier.evaluateAt now (fld w 45 4) x.1 (!diff && a.neg0) (tevalScale w) (bitOf w 44)
      ({ x := r.value, neg0 := false, copy := none, bad := a.bad || (diff && b.bad) || r.clash,
         invalid := r.invalid || x.2.contains .invalid }, r.clash)
  | 0x4C =>
    let enc := fun (o : LaneOp) => (BitVec.ofNat 32 (Fmt.b32.encode o.x o.neg0).1 : Word32)
    let t : Temps := ((Vector.replicate 8 (0 : Word32)).set 0 (enc a)).set 1 (enc b)
    let r := c.currier.microRun now start t 960
    ({ x := Fmt.b32.value r.1.toNat, neg0 := Fmt.b32.isNegZero r.1.toNat, copy := none, bad := ab || r.2.2,
       invalid := r.2.1 }, r.2.2)
  | _ => plain (laneVal (.fin 0, []) false)

/-- Every lane of a lane-row. -/
def Core.laneRow (c : Core) (now op : Nat) (w : Word128) (start j : Nat) : List (LaneVal × Bool) :=
  (List.range (curLanes w j)).map fun lane => c.laneOp now op w start j lane

/-! ## Costs (R126, R129, R137, Table 7.2) -/

/-- The registers that an operation reads in lane-row j (R194). -/
def sourcesAt (op : Nat) (w : Word128) (j : Nat) : List Nat :=
  if op = 0x43 ∨ op = 0x44 ∨ op = 0x49 then [curA w + j, regB w j, regC w j]
  else if op = 0x45 then [curA w + j, regB w j, regC w j, curD2 w + j, curE w + j]
  else if op = 0x4A ∨ op = 0x4D ∨ op = 0x4E ∨ op = 0x4F ∨ op = 0x50 then [curA w + j]
  else if op = 0x4B then (if bitOf w 34 then [curA w + j, regB w j] else [curA w + j])
  else [curA w + j, regB w j]

/-- The registers that an operation reads in all its lane-rows. -/
def sourcesOf (op : Nat) (w : Word128) : List Nat := (List.range (curG w)).flatMap (sourcesAt op w)

/-- The operation writes a register. -/
def writesReg (op : Nat) : Bool := !(op = 0x4F || op = 0x50 || op = 0x51)

/-- A binary64 operand or destination takes part (R126). -/
def Core.involves64 (c : Core) (op : Nat) (w : Word128) : Bool :=
  (writesReg op && decide (curFmt w = .b64)) ||
    (sourcesOf op w).any fun r => decide (c.currier.fmts[Fin.ofNat 32 r] = .b64)

/-- Issue cycles of a lane-row: 1, 4 with binary64, the steps of a micro-program. -/
def Core.rowCycles (c : Core) (op : Nat) (w : Word128) (start : Nat) : Nat :=
  if op = 0x4C then max 1 (c.currier.microLength start 960).1 else if c.involves64 op w then 4 else 1

/-- Latency from the issue of the last lane-row to the landing. -/
def Core.latency (c : Core) (op : Nat) (w : Word128) (start : Nat) : Nat :=
  (if op = 0x4B then 10 else if op = 0x4C then 2 + (c.currier.microLength start 960).2
   else if op = 0x4D ∨ op = 0x4E then 13 else 4) + (if c.involves64 op w then 3 else 0)

/-! ## Issue of lane-rows -/

/-- Extreme of two values under R47. -/
def extremeOf (wantMax : Bool) (a b : Ext) : Ext :=
  if a.isNan then b else if b.isNan then a
  else if wantMax then (if a.lt b then b else a) else (if b.lt a then b else a)

/-- Zeroes the quires of an operation's lanes at its first issue cycle (R130). -/
def Currier.clearQuires (c : Currier) (lanes : Nat) : Currier :=
  { c with quires := Vector.ofFn fun (n : Fin 128) => if n.val < lanes then LaneQuire.zero else c.quires[n]
           emptyRow := false }

/-- What lane-row j of a soft maximum's exponentials does to the quires: cleared at the first, and whether the row is
still an empty one, with m = −∞ and no NaN (R138, R139). -/
def Core.softRow (c : Core) (w : Word128) (j : Nat) : Currier :=
  if softAdd w then
    let none_ := softSum w && (List.range (curLanes w j)).all fun lane =>
      decide ((c.operand (regB w j) j lane).x = .inf true) && !(c.operand (curA w + j) j lane).x.isNan
    if j = 0 then { c.currier.clearQuires (if curG w = 1 then curK w else 128) with emptyRow := none_ }
    else { c.currier with emptyRow := c.currier.emptyRow && none_ }
  else c.currier

/-- Lane-row j of an operation issues at a cycle (R126, R128 to R131): operands are read, results and addends go on
their way. `lastRow` is the issue cycle of the last lane-row. -/
def Core.issueRow (c : Core) (now op : Nat) (w : Word128) (start j lastRow : Nat) : Core × List (Nat × Nat) :=
  let lanes := curLanes w j
  let lat := c.latency op w start
  let counted : List (Nat × Nat) := [(0x04, 1)]
  if op = 0x4F ∨ op = 0x50 ∨ op = 0x51 then
    let cu := if j = 0 && bitOf w 43 then c.currier.clearQuires (if curG w = 1 then curK w else 128) else c.currier
    let vals := (List.range lanes).map fun lane =>
      let a := c.operand (curA w + j) j lane
      if op = 0x4F then laneVal (a.x, []) a.bad
      else if op = 0x50 then laneVal (a.x.mul a.x) a.bad
      else
        let b := c.operand (regB w j) j lane
        let d := a.x.sub b.x
        let q := d.1.mul d.1
        laneVal (q.1, d.2 ++ q.2) (a.bad || b.bad)
    ({ c with currier := { cu with addends := cu.addends ++ [{ land := lastRow + lat, vals := vals }] } }, counted)
  else if op = 0x4D ∨ op = 0x4E then
    let wantMax := decide (op = 0x4D)
    let ops := (List.range lanes).map fun lane => c.operand (curA w + j) j lane
    let acc : Ext × Bool := if j = 0 then (.nan, false) else c.currier.extreme.getD (.nan, false)
    let acc := ops.foldl (fun (e : Ext × Bool) o => (extremeOf wantMax e.1 o.x, e.2 || o.bad)) acc
    if j + 1 = curG w then
      let v : LaneVal := laneVal (acc.1, []) acc.2
      let r : ResultFl := { land := lastRow + lat, reg := curD w, fmt := curFmt w, record := curImm w, row := 0,
                            vals := List.replicate 128 v, sums := false }
      ({ c with currier := { c.currier with results := c.currier.results ++ [r], extreme := none } }, counted)
    else ({ c with currier := { c.currier with extreme := some acc } }, counted)
  else
    let vs := c.laneRow now op w start j
    let r : ResultFl := { land := lastRow + lat, reg := (curD w + j) % 32, fmt := curFmt w, record := curImm w,
                          row := j, vals := vs.map fun v => v.1, sums := softAdd w }
    let cu := c.softRow w j
    ({ c with currier := { cu with results := cu.results ++ [r] } },
      counted ++ [(0x37, b2n (vs.any fun v => v.2)), (0x42, b2n (softAdd w && decide (j + 1 = curG w) && cu.emptyRow))])

/-- First step of the micro-program that a word names. -/
def State.microStart (s : State) (l : CoreNo) (w : Word128) : Nat :=
  match s.foldOf l with
  | none => 0
  | some f => match s.folds[f].image with
    | some i => Config.microEntry i.measurement s.folds[f].sel.pen (fld w 38 4) % 960
    | none => 0

/-- A lane operation, row sum or row extreme issues its first lane-row; the clock issues the others (DEDUCED, assumption 17). -/
def State.laneIssue (s : State) (l : CoreNo) (i : Issuer) (op : Nat) : State :=
  match s.issuing l i op with
  | none => s
  | some (p, w) => s.onCoreE p fun c =>
      let start := s.microStart l w
      let per := c.rowCycles op w start
      let g := curG w
      let r := c.issueRow s.now op w start 0 (s.now + per * (g - 1))
      let c := match i with
        | .thread _ => r.1.issued i s.now (8 * per)
        | _ => r.1.issued i s.now (per * g)
      let c := if g = 1 then c
        else c.setStream i { c.stream i with
          active := some { word := w, part := 1, parts := per * g, due := s.now + 1 } }
      (c, r.2)

/-- The part of a currier instruction that issues at a cycle: a lane-row in the first of its cycles. -/
def Core.lanePart (c : Core) (now : Nat) (a : Active) (start : Nat) : Core × List (Nat × Nat) :=
  let op := opcodeOf a.word
  let per := max 1 (a.parts / curG a.word)
  if a.part % per = 0 then
    let j := a.part / per
    c.issueRow now op a.word start j (now + per * (curG a.word - 1 - j))
  else (c, [])

/-! ## Row quires and statistics (R130, R131) -/

/-- One addend into a lane quire, with its events. -/
def LaneQuire.add (q : LaneQuire) (v : LaneVal) : LaneQuire × List (Nat × Nat) :=
  let q := { q with bad := q.bad || v.bad, invalid := q.invalid || v.invalid }
  let tagged := fun (t : Nat) =>
    let m := tagMerge q.tag.toNat t
    { q with tag := BitVec.ofNat 2 m.1, invalid := q.invalid || m.2 }
  match v.x with
  | .fin x =>
    if twoPow 256 ≤ absQ x then (tagged (if x < 0 then 2 else 1), [(0x41, 1)])
    else
      let y := x * twoPow 320
      let n := truncQ y
      ({ q with sum := q.sum + BitVec.ofInt 640 n }, [(0x40, b2n (decide ((n : Rat) ≠ y)))])
  | x => (tagged (extTag x), [])

/-- Value of a lane quire, its mark and its invalid bit. -/
def LaneQuire.value (q : LaneQuire) : Ext :=
  tagExt q.tag.toNat ((q.sum.toInt : Rat) * twoPow (-320))

/-- The exact sum over the first lanes, its mark and invalid bit (R131). -/
def Currier.total (c : Currier) (lanes : Nat) : Ext × Bool × Bool :=
  (c.quires.toList.take lanes).foldl (fun (a : Ext × Bool × Bool) q =>
    let r := a.1.add q.value
    (r.1, a.2.1 || q.bad, a.2.2 || q.invalid || r.2.contains .invalid)) (.fin 0, false, false)

/-- Lanes over which a statistic sums, and the row length L (R194). -/
def statLanes (w : Word128) : Nat × Nat := (if curG w = 1 then curK w else 128, 128 * (curG w - 1) + curK w)

/-- RRECIP, RMEAN, RRSQRT and QREAD issue (R131, Table 7.2) (DEDUCED, assumption 17). -/
def State.statIssue (s : State) (l : CoreNo) (i : Issuer) (op : Nat) : State :=
  match s.issuing l i op with
  | none => s
  | some (p, w) => s.onCoreE p fun c =>
      let n := statLanes w
      let t := c.currier.total n.1
      let len : Ext := .fin (n.2 : Rat)
      let one := fun (x : Ext) (bad invalid : Bool) =>
        ({ x := x, neg0 := false, copy := none, bad := bad, invalid := invalid } : LaneVal)
      let vals : List LaneVal × Nat × Bool :=
        if op = 0x52 then
          let r := if c.currier.emptyRow && t.1.isFin then (.fin 0, []) else Ext.div (.fin 1) t.1
          (List.replicate 128 (one (round32 r.1) t.2.1 (t.2.2 || r.2.contains .invalid)), 24, false)
        else if op = 0x53 then
          let r := t.1.div len
          (List.replicate 128 (one (round32 r.1) t.2.1 (t.2.2 || r.2.contains .invalid)), 20, false)
        else if op = 0x54 then
          let r := t.1.div len
          let y := round32 (r.1.plus (Fmt.b32.value (curImm w)))
          let e := c.currier.evaluateAt s.now 3 y false none false
          (List.replicate 128 (one e.value (t.2.1 || e.clash) (t.2.2 || e.invalid)), 34, e.clash)
        else
          (c.currier.quires.toList.map fun q => one q.value q.bad (q.invalid && decide (q.tag = 3)), 8, false)
      let r : ResultFl := { land := s.now + vals.2.1 + (if curFmt w = .b64 then 3 else 0), reg := curD w,
                            fmt := curFmt w, record := curImm w, row := 0, vals := vals.1, sums := false }
      let c := { c with currier := { c.currier with results := c.currier.results ++ [r] } }
      (c.issued i s.now (slotCycles i), [(0x04, 1), (0x37, b2n vals.2.2)])

/-! ## Landing (R127 to R130) -/

/-- One lane value rounded into the destination (R127). -/
def Core.landLane (c : Core) (now : Nat) (r : ResultFl) (lane : Nat) (v : LaneVal) : Core × Elem × List (Nat × Nat) :=
  match v.copy with
  | some code => (c, { code := code, bad := v.bad }, [])
  | none =>
    let o := c.roundAt now r.fmt r.record (c.lanePlace r.record r.row lane) v.x v.neg0 v.bad
    (o.1, o.2.1, o.2.2 ++ [(0x14, b2n v.invalid)])

/-- Addends land in the lane quires. -/
def Currier.landAddends (c : Currier) (q : QuireFl) : Currier × List (Nat × Nat) :=
  let r := q.vals.zipIdx.foldl (fun (a : Vector LaneQuire 128 × List (Nat × Nat)) v =>
    let n : Fin 128 := Fin.ofNat 128 v.2
    let o := a.1[n].add v.1
    (a.1.set n o.1, a.2 ++ o.2)) (c.quires, [])
  ({ c with quires := r.1 }, r.2)

/-- A result lands in its register: lanes beyond its values keep what they held. The exponentials of a soft maximum join
the lane quires as they stand in the register (R138). -/
def Core.landResult (c : Core) (now : Nat) (r : ResultFl) : Core × List (Nat × Nat) :=
  let o := r.vals.zipIdx.foldl (fun (a : Core × List Elem × List (Nat × Nat)) v =>
    let e := a.1.landLane now r v.2 v.1
    (e.1, a.2.1 ++ [e.2.1], a.2.2 ++ e.2.2)) (c, [], [])
  let n : Fin 32 := Fin.ofNat 32 r.reg
  let cu := o.1.currier
  let old := sliceD { code := 0, bad := false } cu.regs[n] 0 128
  let cu := { cu with
    regs := cu.regs.set n (o.2.1 ++ old.drop o.2.1.length)
    fmts := cu.fmts.set n r.fmt
    recs := cu.recs.set n r.record }
  let c := { o.1 with currier := cu }
  if r.sums then
    let addends := o.2.1.zipIdx.map fun e => let x := c.operand n.val r.row e.2; laneVal (x.x, []) x.bad
    let q := cu.landAddends { land := r.land, vals := addends }
    ({ c with currier := q.1 }, o.2.2 ++ q.2)
  else (c, o.2.2)

/-- Every result and addend of a core that is due lands. -/
def State.currierResultLand (s : State) (l : CoreNo) : State :=
  match s.phys l with
  | none => s
  | some p => s.onCoreE p fun c =>
      let due := c.currier.results.filter fun r => decide (r.land ≤ s.now)
      let adds := c.currier.addends.filter fun r => decide (r.land ≤ s.now)
      let c := { c with currier := { c.currier with
        results := c.currier.results.filter fun r => decide (s.now < r.land)
        addends := c.currier.addends.filter fun r => decide (s.now < r.land) } }
      let a := due.foldl (fun (a : Core × List (Nat × Nat)) r =>
        let o := a.1.landResult s.now r
        (o.1, a.2 ++ o.2)) (c, [])
      adds.foldl (fun (a : Core × List (Nat × Nat)) q =>
        let o := a.1.currier.landAddends q
        ({ a.1 with currier := o.1 }, a.2 ++ o.2)) a

/-! ## STRAY (R69, R123, R455) -/

/-- w′(k, n) of R69 as a value: the weight operand, or the stray quotient of an escaped weight. Answers the clips
of the quotient. -/
def Core.strayWeightOf (c : Core) (w : WeightSet) (k n : Nat) : Ext × Nat :=
  let code := (w.cell k n).code.toNat % 256
  let rec' := leAt w.trailer 128 4
  if code = 0xFF ∧ rec' ≠ 0 then
    let list := leAt w.trailer (if k < 128 then 136 else 140) 4
    match c.strayFind list (k % 128) n with
    | none => (.fin 0, 0)
    | some v =>
      match Fmt.tp16.value v with
      | .fin q =>
        let r := strayQuotient q (c.scale (c.qrec rec') (leAt w.trailer 132 2 + n))
        (.fin (r.1 : Rat), r.2)
      | x => (x, 0)
  else (.fin (((code : Int) - (w.trailer.getD n 0).toNat : Int) : Rat), 0)

/-- c_a − z_a of a feeder entry at K position k, 0 where it is escaped, and its mark. -/
def FeederEntry.operand (e : FeederEntry) (k : Nat) : Ext × Bool :=
  let x := e.elem k
  let code := x.code.toNat % 256
  (.fin (if e.stray && decide (code = 0xFF) then 0 else (((code : Int) - e.za.toNat : Int) : Rat)), x.bad)

/-- Tiles in a row of tiles of the tensor that a STRAY names, which no item of the image gives (assumption 18). -/
def State.strayTiles (s : State) (l : CoreNo) (w : Word128) : Nat :=
  match (s.foldOf l).bind fun f => s.folds[f].image with
  | some i => max 1 (Config.tensorTiles i.measurement l.val (fld w 29 31))
  | none => 1

/-- What entry n of the stray list of a STRAY adds (R69, R455): additions, side entries and clips. `tiles` is the number of
tiles in a row of tiles of the activation tensor. A clip of an escaped weight's own quotient counts, for each column, in the
activation tensor that the STRAY names (DESIGN CHOICE, assumption 18). -/
def Core.strayEntry (c : Core) (w : Word128) (tiles n : Nat) :
    List (Nat × Nat × Nat × Int) × List (Nat × Nat × Nat × BitVec 4) × Nat :=
  let list := curImm w
  let slot := fld w 90 6
  let dest := fld w 83 7
  let weight := bitOf w 82
  let set := c.wset (bitOf w 81)
  let rec' := fld w 29 31
  let r := c.qrec rec'
  let at_ := list + 32 + 4 * n
  let lost := c.pasture.badIn list 1 || c.pasture.badIn at_ 4 || c.pasture.badIn rec' 64
  let e := c.pasture.num (list + 32 + 4 * n) 4
  let row := fldN e 25 7
  let col := fldN e 18 7
  let v := Fmt.tp16.value (fldN e 0 16)
  let tile := (list - r.strays) / 288 % max 1 tiles
  let channel := if weight then leAt set.trailer 132 2 + col else (128 * tile + col) % max 1 r.channels
  let q : Ext × Nat := match v with
    | .fin x =>
      let o := strayQuotient x (c.scale r channel)
      (.fin (o.1 : Rat), o.2)
    | x => (x, 0)
  let touch : List (Nat × Nat × (Ext × Nat) × Bool) :=
    if weight then
      let k := row + (if list = leAt set.trailer 140 4 ∧ list ≠ leAt set.trailer 136 4 then 128 else 0)
      (List.range (fld w 60 7 + 1)).map fun i =>
        let f := (c.feeder[fld w 74 7 + i]?).getD .missing
        let o := f.operand k
        ((dest + i) % 128, col, (o.1, 0), o.2)
    else
      let k := 128 * (tile % 2) + col
      (List.range (fld w 67 7 + 1)).map fun m => ((dest + row) % 128, m, c.strayWeightOf set k m, (set.cell k m).bad)
  let adds := touch.filterMap fun t =>
    match q.1, t.2.2.1.1 with
    | .fin a, .fin b => some (slot, t.1, t.2.1, (a * b).num)
    | _, _ => none
  let tags := touch.map fun t =>
    (slot, t.1, t.2.1, sideMerge (laneSide q.1 t.2.2.1.1) (sideOf false (t.2.2.2 || lost) 0))
  (adds, tags, q.2 + (touch.map fun t => t.2.2.1.2).sum)

/-- The parts of pasture that a STRAY reads (R149): its list, its tensor's record and scales, and the lists of its weight set. -/
def Core.strayParts (c : Core) (w : Word128) : List (Nat × Nat) :=
  let t := (c.wset (bitOf w 81)).trailer
  (curImm w, 288) :: c.tensorParts (fld w 29 31) [] ++
    (if leAt t 128 4 = 0 then [] else [(leAt t 136 4, 288), (leAt t 140 4, 288)].filter fun x => x.1 ≠ 0)

/-- Entry `part` of a STRAY is taken (R455): nothing beyond the count of its list; into a slot of another class its
additions are discarded, what they would touch is marked, and the STRAY counts one class conflict (R123). -/
def Core.strayPart (c : Core) (now : Nat) (w : Word128) (tiles part : Nat) : Core × List (Nat × Nat) :=
  let q := if part = 0 then c.scan now (c.strayParts w) else (c, [])
  let c := q.1
  if part < min 64 (c.pasture.num (curImm w) 1) then
    let r := c.strayEntry w tiles part
    let ok := decide (c.acc.cls (fld w 90 6) = 0)
    let rec' := fld w 29 31
    let t := c.tensor rec'
    let c := if r.2.2 = 0 then c else c.setTensor rec' { t with clips := t.clips + r.2.2 }
    let f : StrayFl := { issue := now, adds := if ok then r.1 else [],
                         tags := if ok then r.2.1 else r.2.1.map fun x => (x.1, x.2.1, x.2.2.1, 4) }
    ({ c with currier := { c.currier with strays := c.currier.strays ++ [f] } },
      q.2 ++ [(0x18, r.2.2), (0x31, b2n (decide (part = 0) && !ok))])
  else (c, q.2)

/-- Corrections reach the slot write stage. -/
def Accum.addStray (a : Accum) (f : StrayFl) : Accum :=
  let a := f.adds.foldl (fun (a : Accum) x =>
    let a := a.materialise x.1 x.2.1 false
    a.setEntry x.1 x.2.1 x.2.2.1 (word64 ((a.entry x.1 x.2.1 x.2.2.1).toNat + x.2.2.2))) a
  f.tags.foldl (fun (a : Accum) x =>
    let h := a.home x.1
    let a := a.seen x.1 x.2.1
    a.setSide h x.2.1 x.2.2.1 (sideMerge (a.side h x.2.1 x.2.2.1) x.2.2.2)) a

/-- STRAY issues its first entry; the clock issues the others. -/
def State.strayIssue (s : State) (l : CoreNo) (weight : Bool) : State :=
  match s.issuing l .currier 0x56 with
  | none => s
  | some (p, w) =>
    if bitOf w 82 == weight then
      s.onCoreE p fun c =>
        let r := c.strayPart s.now w (s.strayTiles l w) 0
        let c := r.1.issued .currier s.now 64
        (c.setStream .currier { c.cstream with active := some { word := w, part := 1, parts := 64, due := s.now + 1 } }, r.2)
    else s

/-! ## BSEL (R142, R195) -/

/-- BSEL takes its branch. -/
def State.bselOp (s : State) (l : CoreNo) : State :=
  match s.issuing l .currier 0x57 with
  | none => s
  | some (p, w) => s.onCoreE p fun c =>
      let o := c.operand (fld w 91 5) 0 0
      let takeA := !o.bad && !o.x.isNan && !o.x.isZero
      let na := fld w 79 12
      let nb := fld w 67 12
      let first := c.cstream.next + 16
      let resume := first + 16 * (na + nb)
      let longest := max (fld w 112 16) (fld w 96 16)
      let start := if takeA then first else first + 16 * na
      let len := if takeA then na else nb
      let t := if len = 0 then { c.cstream with next := resume - 16 }.advance s.now (1 + longest)
        else
          let b : Branch := { stopAt := start + 16 * len, resume := resume, ready := s.now + 1 + longest }
          { c.cstream with next := start - 16, branch := some b }.advance s.now 1
      ({ c with cstream := t }, [(0x43, b2n takeA), (0x44, b2n !takeA), (0x45, b2n o.bad)])

/-! ## Fallback sections (R143, R196) -/

/-- THRD opens a section: eight threads from the section record. -/
def State.thrdOp (s : State) (l : CoreNo) : State :=
  match s.issuing l .currier 0x58 with
  | none => s
  | some (p, w) => s.onCoreE p fun c =>
      let rec' := fld w 96 32
      let q := c.scan s.now [(rec', 64)]
      let c := q.1
      let len := c.pasture.num (rec' + 32) 4
      let threads := Vector.ofFn fun (j : Fin 8) =>
        { Stream.reset with running := true, next := c.pasture.num (rec' + 4 * j.val) 4, base := s.now + 8 }
      let c := c.issued .currier s.now (16 + len)
      ({ c with currier := { c.currier with sec? := some { issue := s.now, len := len }, threads := threads } }, q.2)

/-- The section closes (R196): a thread still running is stopped and counted. -/
def State.sectionClose (s : State) (l : CoreNo) : State :=
  match s.phys l with
  | none => s
  | some p =>
    match s.cores[p].currier.sec? with
    | some k =>
      if k.issue + 8 + k.len ≤ s.now then
        s.onCoreE p fun c =>
          let n := (c.currier.threads.toList.filter fun t => t.running).length
          ({ c with currier := { c.currier with
              sec? := none, threads := c.currier.threads.map fun t => { t with running := false } } }, [(0x3A, n)])
      else s
    | none => s

/-- TLD: a load of a thread (R143, R210). -/
def State.tldOp (s : State) (l : CoreNo) (j : ThreadNo) : State :=
  match s.issuing l (.thread j) 0x59 with
  | none => s
  | some (p, w) =>
    let far := bitOf w 80
    let from_ : CoreNo := if far then Fin.ofNat 32 (fld w 81 5) else l
    let len := fld w 72 8 + 1
    let fmt := fmtD (fld w 68 4)
    match s.foldOf l with
    | none => s
    | some f =>
      let r := s.readBeat f from_ (fld w 96 32) len
      r.1.onCore p fun c =>
        let e : LoadFl := { land := s.now + (if far then 128 else 32), reg := fld w 91 5, fmt := fmt,
                            elems := unpack fmt r.2 }
        let c := c.issued (.thread j) s.now 8
        { c with currier := { c.currier with loads := c.currier.loads ++ [e] } }

/-- Thread loads that are due land. -/
def State.threadLoadLand (s : State) (l : CoreNo) : State :=
  match s.phys l with
  | none => s
  | some p => s.onCore p fun c =>
      let due := c.currier.loads.filter fun r => decide (r.land ≤ s.now)
      let regs := due.foldl (fun (v : Vector (List Elem) 32) r =>
        let n : Fin 32 := Fin.ofNat 32 r.reg
        let old := sliceD { code := 0, bad := false } v[n] 0 128
        v.set n ((r.elems ++ old.drop r.elems.length).take 128)) c.currier.regs
      let fmts := due.foldl (fun (v : Vector Fmt 32) r => v.set (Fin.ofNat 32 r.reg) r.fmt) c.currier.fmts
      { c with currier := { c.currier with
          regs := regs, fmts := fmts, loads := c.currier.loads.filter fun r => decide (s.now < r.land) } }

/-- THEND: the thread ends. -/
def State.thendOp (s : State) (l : CoreNo) (j : ThreadNo) : State :=
  match s.issuing l (.thread j) 0x5A with
  | none => s
  | some (p, _) => s.onCore p fun c =>
      c.setStream (.thread j) { c.stream (.thread j) with running := false, lastIssue := s.now }

/-! ## Meanings -/

def execAdd (l : CoreNo) (i : Issuer) (s : State) : Host.Outcome State Fault Refusal := .next (s.laneIssue l i 0x40)
def execSub (l : CoreNo) (i : Issuer) (s : State) : Host.Outcome State Fault Refusal := .next (s.laneIssue l i 0x41)
def execMul (l : CoreNo) (i : Issuer) (s : State) : Host.Outcome State Fault Refusal := .next (s.laneIssue l i 0x42)
def execFma (l : CoreNo) (i : Issuer) (s : State) : Host.Outcome State Fault Refusal := .next (s.laneIssue l i 0x43)
def execSprod (l : CoreNo) (i : Issuer) (s : State) : Host.Outcome State Fault Refusal := .next (s.laneIssue l i 0x44)
def execAffine (l : CoreNo) (i : Issuer) (s : State) : Host.Outcome State Fault Refusal := .next (s.laneIssue l i 0x45)
def execCmp (l : CoreNo) (i : Issuer) (s : State) : Host.Outcome State Fault Refusal := .next (s.laneIssue l i 0x46)
def execMax (l : CoreNo) (i : Issuer) (s : State) : Host.Outcome State Fault Refusal := .next (s.laneIssue l i 0x47)
def execMin (l : CoreNo) (i : Issuer) (s : State) : Host.Outcome State Fault Refusal := .next (s.laneIssue l i 0x48)
def execLsel (l : CoreNo) (i : Issuer) (s : State) : Host.Outcome State Fault Refusal := .next (s.laneIssue l i 0x49)
def execCvt (l : CoreNo) (i : Issuer) (s : State) : Host.Outcome State Fault Refusal := .next (s.laneIssue l i 0x4A)
def execTeval (l : CoreNo) (i : Issuer) (s : State) : Host.Outcome State Fault Refusal := .next (s.laneIssue l i 0x4B)
def execMprog (l : CoreNo) (i : Issuer) (s : State) : Host.Outcome State Fault Refusal := .next (s.laneIssue l i 0x4C)
def execRmax (l : CoreNo) (i : Issuer) (s : State) : Host.Outcome State Fault Refusal := .next (s.laneIssue l i 0x4D)
def execRmin (l : CoreNo) (i : Issuer) (s : State) : Host.Outcome State Fault Refusal := .next (s.laneIssue l i 0x4E)
def execRsum (l : CoreNo) (i : Issuer) (s : State) : Host.Outcome State Fault Refusal := .next (s.laneIssue l i 0x4F)
def execRsumsq (l : CoreNo) (i : Issuer) (s : State) : Host.Outcome State Fault Refusal := .next (s.laneIssue l i 0x50)
def execRsumsd (l : CoreNo) (i : Issuer) (s : State) : Host.Outcome State Fault Refusal := .next (s.laneIssue l i 0x51)
def execRrecip (l : CoreNo) (i : Issuer) (s : State) : Host.Outcome State Fault Refusal := .next (s.statIssue l i 0x52)
def execRmean (l : CoreNo) (i : Issuer) (s : State) : Host.Outcome State Fault Refusal := .next (s.statIssue l i 0x53)
def execRrsqrt (l : CoreNo) (i : Issuer) (s : State) : Host.Outcome State Fault Refusal := .next (s.statIssue l i 0x54)
def execQread (l : CoreNo) (i : Issuer) (s : State) : Host.Outcome State Fault Refusal := .next (s.statIssue l i 0x55)
def execStrayActivation (l : CoreNo) (s : State) : Host.Outcome State Fault Refusal := .next (s.strayIssue l false)
def execStrayWeight (l : CoreNo) (s : State) : Host.Outcome State Fault Refusal := .next (s.strayIssue l true)
def execBsel (l : CoreNo) (s : State) : Host.Outcome State Fault Refusal := .next (s.bselOp l)
def execThrd (l : CoreNo) (s : State) : Host.Outcome State Fault Refusal := .next (s.thrdOp l)
def execFallbackSectionClose (l : CoreNo) (s : State) : Host.Outcome State Fault Refusal := .next (s.sectionClose l)
def execTld (l : CoreNo) (j : ThreadNo) (s : State) : Host.Outcome State Fault Refusal := .next (s.tldOp l j)
def execThreadLoadLand (l : CoreNo) (s : State) : Host.Outcome State Fault Refusal := .next (s.threadLoadLand l)
def execThend (l : CoreNo) (j : ThreadNo) (s : State) : Host.Outcome State Fault Refusal := .next (s.thendOp l j)
def execCurrierResultLand (l : CoreNo) (s : State) : Host.Outcome State Fault Refusal := .next (s.currierResultLand l)

end Sys2Proof.Machine
end

