-- ==== Sys2Proof/Machine/Matrix.lean ====
section
/-! DEFINITION. The matrix stream: passes, clears, spills, readouts and weight loads (spec/09 Tables 9.6 to 9.9). -/

namespace Sys2Proof.Machine

/-! ## Enabling -/

/-- The slots and the destination row of the next pass of a PASS or WPASS word. -/
def passTarget (wide : Bool) (w : Word128) (j : Nat) : List Nat × Nat :=
  (passSlots wide (fld w 73 3) (!wide && bitOf w 76) (fld w 78 6), (fld w 84 7 + j) % 128)

/-- A matrix instruction issued at a cycle would meet a row hazard (R121) (DEDUCED, assumption 14). -/
def Core.hazard (c : Core) (w : Word128) (now : Nat) : Bool :=
  let op := opcodeOf w
  if op = 0x01 ∨ op = 0x02 then
    let t := passTarget (decide (op = 0x02)) w 0
    c.passConflict now now t.1 t.2
  else if op = 0x03 then c.clearConflict now (clearSlots w 0)
  else if op = 0x04 then
    let k := c.spillWalk w now
    c.walkConflict now false k.pair k.slots
  else if op = 0x05 then
    let k := c.readWalk w now
    c.walkConflict now true k.pair k.slots
  else false

/-- The matrix instruction that may issue now, no hazard standing. -/
def State.matrixIssue (s : State) (l : CoreNo) (op : Nat) : Option (CoreNo × Word128) :=
  match s.issuing l .matrix op with
  | some (p, w) => if s.cores[p].hazard w s.now then none else some (p, w)
  | none => none

/-! ## PASS and WPASS (R76, R88, R102) -/

/-- A PASS or WPASS issues its first pass (R91, R185, R191); the clock issues the others and the release. -/
def Core.passIssue (c : Core) (wide : Bool) (w : Word128) (now : Nat) : Core × List (Nat × Nat) :=
  let r := c.passPart wide w 0 now now
  let n := passParts wide w
  let c := { c with passes := c.passes ++ [r.1] }
  let c := c.issued .matrix now n
  (c.setStream .matrix { c.matrix with active := some { word := w, part := 1, parts := n, due := now + 1 } }, r.2)

/-- PASS of full or half depth. -/
def State.passOp (s : State) (l : CoreNo) (half : Bool) : State :=
  match s.matrixIssue l 0x01 with
  | some (p, w) => if bitOf w 76 == half then s.onCoreE p fun c => c.passIssue false w s.now else s
  | none => s

/-- WPASS. -/
def State.wpassOp (s : State) (l : CoreNo) : State :=
  match s.matrixIssue l 0x02 with
  | some (p, w) => s.onCoreE p fun c => c.passIssue true w s.now
  | none => s

/-- The oldest pass whose slot write stage ends now is written (R92) (DEDUCED, assumption 15). -/
def State.passSlotUpdate (s : State) (l : CoreNo) : State :=
  match s.phys l with
  | none => s
  | some p => match s.cores[p].passes with
    | f :: _ => if f.issue + 11 ≤ s.now then s.onCoreE p fun c => c.passUpdate s.now f else s
    | [] => s

/-- A hazard holds the next matrix instruction for 12 cycles (R121) (DEDUCED, assumption 14). -/
def State.hazardHold (s : State) (l : CoreNo) : State :=
  match s.phys l with
  | none => s
  | some p =>
    match s.issuing l .matrix (opcodeOf (s.cores[p].matrix.modified (s.cores[p].nextWord .matrix))) with
    | some (_, w) =>
      if s.cores[p].hazard w s.now then
        s.onCoreE p fun c => ({ c with matrix := { c.matrix with floor := s.now + 12 } }, [(0x0A, 1)])
      else s
    | none => s

/-! ## CLEAR, SPILL, READ (R114, R117, R118) -/

/-- CLEAR issues its first slot or pair; the clock issues the others. -/
def State.clearOp (s : State) (l : CoreNo) : State :=
  match s.matrixIssue l 0x03 with
  | some (p, w) => s.onCore p fun c =>
      let n := clearCount w
      let c := { c with clears := c.clears ++ clearEntries w 0 s.now }
      let c := c.issued .matrix s.now n
      if n ≤ 1 then c
      else c.setStream .matrix { c.matrix with active := some { word := w, part := 1, parts := n, due := s.now + 1 } }
  | none => s

/-- SPILL starts its walk; a class that disagrees counts a class conflict (R120). -/
def State.spillOp (s : State) (l : CoreNo) (first : Bool) : State :=
  match s.matrixIssue l 0x04 with
  | some (p, w) =>
    if bitOf w 120 == first then
      s.onCoreE p fun c =>
        let k := c.spillWalk w s.now
        (({ c with walks := c.walks ++ [k] }).issued .matrix s.now 1, [(0x31, b2n k.mismatch)])
    else s
  | none => s

/-- READ starts its walk. -/
def State.readOp (s : State) (l : CoreNo) : State :=
  match s.matrixIssue l 0x05 with
  | some (p, w) =>
      s.onCoreE p fun c =>
        let k := c.readWalk w s.now
        (({ c with walks := c.walks ++ [k] }).issued .matrix s.now 1, [(0x31, b2n k.mismatch)])
  | none => s

/-- The walk without its oldest captured row. -/
def Walk.pop (w : Walk) : Walk := { w with caught := w.caught.drop 1 }

/-- Last cycle in which a walk holds beats (Table 6.15). -/
def Walk.lastBeat (w : Walk) : Nat :=
  if w.mismatch then 0
  else if w.isRead then (if w.quire.isSome then w.issue + 128 else 0)
  else w.issue + (if w.pair then 194 else 130)

/-- The walk is over: every row read and passed on, and no beat held any more. -/
def Walk.done (w : Walk) (now : Nat) : Bool := decide (128 ≤ w.next) && w.caught.isEmpty && decide (w.lastBeat < now)

/-- A walk of a core replaced. -/
def Core.setWalk (c : Core) (k : Nat) (w : Walk) : Core := { c with walks := c.walks.set k w }

/-- A spill walk writes its oldest row to the quire (Table 6.10) (DEDUCED, assumption 15). -/
def State.spillWalkRow (s : State) (l : CoreNo) : State :=
  match s.phys l with
  | none => s
  | some p =>
    match s.cores[p].walks.zipIdx.find? fun w => !w.1.isRead && !w.1.caught.isEmpty with
    | none => s
    | some (w, k) =>
      match w.caught with
      | [] => s
      | r :: _ =>
        if w.readAt r.row + 2 ≤ s.now then
          s.onCore p fun c =>
            let q := r.quireBytes w.cls.toNat
            let base := w.quire.getD 0
            let m := c.pasture.put s.now (base + r.row * 128 * quireBytes w.cls.toNat) q.1
            let m := m.put s.now (quireSides base w.cls.toNat r.row) q.2
            ({ c with pasture := m }).setWalk k w.pop
        else s

/-! ## Readout rows (R72, R73, R85, R118, R119, R192) -/

/-- Records of the operands of a UQ8 slot of a core (R72): those of the last pass into it, with the channel of its column 0;
where no pass has filled the slot since it was restored, the image does not say (assumption 18). -/
def State.operandsOf (s : State) (p l : CoreNo) (slot : Nat) : Nat × Nat × Nat :=
  match s.cores[p].origins.find? fun o => decide (o.1 = slot) with
  | some o => o.2
  | none => match (s.foldOf l).bind fun f => s.folds[f].image with
    | some i => Config.slotOperands i.measurement l.val slot
    | none => (0, 0, 0)

/-- The parts of pasture that give a readout its scales and records, beside its own list of tiles (R149). -/
def Core.readParts (c : Core) (w : Walk) (ops : Nat × Nat × Nat) : List (Nat × Nat) :=
  (if w.cls.toNat = 0 then c.tensorParts ops.1 [] ++ c.tensorParts ops.2.1 [] else []) ++
    (if w.fmt = .uq8 then c.tensorParts w.record [] ++
        (if w.integerPath then [((c.qrec w.record).requant, 8 * 128)] else [])
     else [])

/-- A word from which column n of a readout takes its scales was read bad (R180). -/
def Core.readBad (c : Core) (w : Walk) (ops : Nat × Nat × Nat) (n : Nat) : Bool :=
  let at_ := fun (ch : Nat) => ({ row := 0, col := 0, tileCols := 1, channel := ch } : Place)
  let ro := c.qrec w.record
  (decide (w.cls.toNat = 0) && !(w.integerPath && decide (w.fmt = .uq8)) &&
      (c.entryBad ops.1 (at_ 0) false || c.entryBad ops.2.1 (at_ (ops.2.2 + n)) false)) ||
    (decide (w.fmt = .uq8) && (c.entryBad w.record (at_ (n % max 1 ro.channels)) false ||
      (w.integerPath && c.pasture.badIn (ro.requant + 8 * n) 8)))

/-- One element of a readout row (R72, R73, R118, R119, Table 6.12): the core, the element and its events. `ops` names the
operand records of a UQ8 slot. No field of READ says which columns of the output tensor a slot holds: column n takes
requantisation record n and channel n, modulo the channels of the tensor (DESIGN CHOICE, assumption 22). An element of the
integer path counts as an element of its tensor and adds nothing to its running range (DESIGN CHOICE, assumption 22). -/
def Core.readElem (c : Core) (now : Nat) (w : Walk) (r : RowCap) (ops : Nat × Nat × Nat) (n : Nat) :
    Core × Elem × List (Nat × Nat) :=
  let v := r.value w.cls.toNat n
  let side := v.2.2
  let tag := sideTag side
  let bad := sideBad side || c.readBad w ops n
  let invalid := b2n (decide (tag = 3) && sideInvalid side)
  let ra := c.qrec ops.1
  let rw := c.qrec ops.2.1
  let x : Rat := if w.cls.toNat = 0 then (v.1 : Rat) * c.scale ra 0 * c.scale rw (ops.2.2 + n) else v.2.1
  if w.fmt = .uq8 then
    let ro := c.qrec w.record
    let chans := max 1 ro.channels
    let e := c.channel ro (n % chans)
    let t := c.tensor w.record
    if tag ≠ 0 then
      let o := requantTag (BitVec.ofNat 2 tag) (entryZero e) ro.q
      (c.setTensor w.record { t with elements := t.elements + 1, clips := t.clips + o.2.2 },
        { code := BitVec.ofNat 64 o.1, bad := bad || o.2.1 }, [(0x18, o.2.2), (0x14, invalid)])
    else if w.integerPath then
      let m := c.pasture.num (ro.requant + 8 * n) 8
      let o := if entryScale e = 0 then (entryZero e, 0)
        else requantise v.1 (fldN m 0 31) (fldN m 32 6) (entryZero e) ro.q
      (c.setTensor w.record { t with elements := t.elements + 1, clips := t.clips + o.2, operands := some ops },
        { code := BitVec.ofNat 64 o.1, bad := bad }, [(0x18, o.2)])
    else
      let pl : Place := { row := r.row, col := n, tileCols := 1, channel := n % chans }
      let q := c.quantAt now w.record pl (.fin x) bad false
      (q.1, { code := BitVec.ofNat 64 q.2.1, bad := q.2.2.1 }, q.2.2.2)
  else
    let o := w.fmt.encode (tagExt tag x)
    (c, { code := BitVec.ofNat 64 o.1, bad := bad }, evCounts o.2 ++ [(0x14, invalid)])

/-- A row of a readout as 128 elements. -/
def Core.readRow (c : Core) (now : Nat) (w : Walk) (r : RowCap) (ops : Nat × Nat × Nat) :
    Core × List Elem × List (Nat × Nat) :=
  let q := c.scan now (c.readParts w ops)
  (List.range 128).foldl (fun (a : Core × List Elem × List (Nat × Nat)) n =>
    let e := a.1.readElem now w r ops n
    (e.1, a.2.1 ++ [e.2.1], a.2.2 ++ e.2.2)) (q.1, [], q.2)

/-- The beats of a READ row: cut at the rows of its destination on this core, else in 256 B. -/
def rowBeats (w : Word256) (fmt : Fmt) (place : Nat) (own : Bool) (bs : List MByte) : List (List MByte) :=
  let out := fun (n : Nat) => outLen fmt (dDstFmt w) n
  if own then
    (List.range (dCount1 w)).flatMap fun k =>
      let run := (bs.drop (k * dInner w)).take (dInner w)
      let at0 := offOf ((place : Int) + dS1Dst w * (k : Int))
      (rowPieces at0 (out run.length)).map fun y =>
        let a := (y.1 - at0) * run.length / max 1 (out run.length)
        let b := (y.1 + y.2 - at0) * run.length / max 1 (out run.length)
        (run.drop a).take (b - a)
  else (List.range ((bs.length + 255) / 256)).map fun k => (bs.drop (256 * k)).take 256

/-- Beats that a core sends into the network in a cycle: those beyond its limit carry zeros marked bad, and are counted
(R208). -/
def Core.sendAll (c : Core) (now : Nat) (beats : List (List MByte)) : Core × List (List MByte) × Nat :=
  beats.foldl (fun (a : Core × List (List MByte) × Nat) b =>
    let q := a.1.sendBeat now
    (q.1, a.2.1 ++ [if q.2 then b else zerosBad b.length], a.2.2 + b2n (!q.2))) (c, [], 0)

/-- A READ row becomes the next unit of a drover stream (R192): without a running stream whose descriptor takes such
rows, without a transfer slot or without ring credit, it is discarded and counted as a readout loss. -/
def State.supplyRow (s : State) (p l : CoreNo) (d : DroverNo) (i : DStreamNo) (fmt : Fmt) (es : List Elem) : State :=
  match (s.ds p d i).seated (s.cores[p].freeSlot d) with
  | none => s.events p [(0x36, 1)]
  | some x =>
  match x.ctx, x.descs[x.cur]? with
  | some ctx, some de =>
    let w := de.word
    let ring : Ring := s.cores[p].rings[xRing ctx]
    if x.status ≠ .running || x.stopping || de.held.isSome || !s.mayRun x || decide (dSrcClass w ≠ 0) || decide (dKind w ≠ 1) ||
        (xRingOn ctx && decide (ring.credit = 0)) then s.events p [(0x36, 1)]
    else
      match s.plan l x ctx ring de with
      | none => s.events p [(0x36, 1)]
      | some pl =>
        let wrong := decide (fmt ≠ dSrcFmt w)
        let gone := pl.toHall.isNone && s.absent pl.dst
        let bad := x.badBase || wrong
        let bs := (pack fmt es).take (dInner w * dCount1 w)
        let near := decide (pl.dst = l) && pl.toHall.isNone && decide (dDstClass w ≠ 7)
        let own := near && toPasture w
        let pieces := rowBeats w fmt pl.place own bs
        let sent := if near then (s.cores[p], pieces, 0) else s.cores[p].sendAll s.now pieces
        let delay := if pl.toHall.isSome then 10 else landDelay w l pl.dst
        let land := if own then none else some (s.now + delay)
        let slotAt := ring.base + ring.step ring.tail ring.started * ring.slotBytes
        let un : UnitFl :=
          { unit := x.unit, desc := w, at_ := de.at_, srcBase := de.src, run := x.runNo, last := decide (x.unit + 1 = dUnits w),
            buf := if xRingOn ctx then x.firstSlot.getD slotAt else de.dst, from_ := none, to_ := pl.toHall,
            need := if own then s.now else s.now + delay, src := l,
            dst := if gone then l else pl.dst, place := pl.place,
            beats := sent.2.1.map fun y => { off := 0, len := y.length, land := land, data := y, lost := gone },
            data := [], stored := 0, first := none, granted := !own, finished := false, wrote := [], bad := bad, idle := false,
            elems := some (fmt, []), gone := gone }
        let x1 := { x with
          units := x.units ++ [un],
          firstSlot := if xRingOn ctx then some (x.firstSlot.getD slotAt) else none,
          badRuns := if bad then x.runNo :: x.badRuns else x.badRuns }.afterStart w
        let s : State := { s with cores := s.cores.set p sent.1 }
        (s.onCore p fun c =>
          let c := c.setDs d i x1
          if xRingOn ctx then c.onRing (xRing ctx) fun r => { r with started := r.started + 1 } else c).events p
            [(0x26, b2n wrong), (0x39, sent.2.2), (0x2D, if gone then pieces.length else 0)] x.fold
  | _, _ => s.events p [(0x36, 1)]

/-- A row leaves a readout walk for its destination (R192). -/
def State.readoutRowLeave (s : State) (l : CoreNo) : State :=
  match s.phys l with
  | none => s
  | some p =>
    match s.cores[p].walks.zipIdx.find? fun w => w.1.isRead && !w.1.caught.isEmpty with
    | none => s
    | some (w, k) =>
      match w.caught with
      | [] => s
      | r :: _ =>
        if w.readAt r.row + 3 ≤ s.now then
          let o := s.cores[p].readRow s.now w r (s.operandsOf p l w.slot)
          let es := if (s.cores[p].fault).isSome then o.2.1.map fun e => { e with bad := true } else o.2.1
          let s := State.events { s with cores := s.cores.set p (o.1.setWalk k w.pop) } p o.2.2
          if w.kind = 0 then
            s.onCoreE p fun c => c.feederPush (c.feederEntry w.fmt w.record es)
          else if w.kind = 1 then
            s.onCore p fun c =>
              let n : Fin 32 := Fin.ofNat 32 (w.reg.toNat + r.row % 8)
              { c with currier := { c.currier with
                  regs := c.currier.regs.set n es, fmts := c.currier.fmts.set n w.fmt,
                  recs := c.currier.recs.set n w.record } }
          else if w.kind = 2 then s.supplyRow p l w.drover w.stream w.fmt es
          else s
        else s

/-! ## WLOAD (R193) -/

/-- WLOAD re-arms a weight-load stream in issue-relative mode. -/
def State.wloadOp (s : State) (l : CoreNo) : State :=
  match s.issuing l .matrix 0x06 with
  | none => s
  | some (p, w) => s.onCoreE p fun c =>
      let d : DroverNo := Fin.ofNat 4 (fld w 94 2)
      let i : DStreamNo := Fin.ofNat 8 (fld w 91 3)
      let r : Rearm := { src := some (fld w 96 32), dst := some (fld w 90 1), origin := s.now, relative := true,
                         bad := false, tick := false }
      let q := (c.ds d i).rearmBy r s.tick.number.toNat
      ((c.setDs d i q.1).issued .matrix s.now 1, [(0x29, q.2)])

/-! ## Meanings -/

def execPass (l : CoreNo) (s : State) : Host.Outcome State Fault Refusal := .next (s.passOp l false)
def execPassHalfDepth (l : CoreNo) (s : State) : Host.Outcome State Fault Refusal := .next (s.passOp l true)
def execWpass (l : CoreNo) (s : State) : Host.Outcome State Fault Refusal := .next (s.wpassOp l)
def execPassSlotUpdate (l : CoreNo) (s : State) : Host.Outcome State Fault Refusal := .next (s.passSlotUpdate l)
def execHazardHold (l : CoreNo) (s : State) : Host.Outcome State Fault Refusal := .next (s.hazardHold l)
def execClear (l : CoreNo) (s : State) : Host.Outcome State Fault Refusal := .next (s.clearOp l)
def execSpillFirst (l : CoreNo) (s : State) : Host.Outcome State Fault Refusal := .next (s.spillOp l true)
def execSpill (l : CoreNo) (s : State) : Host.Outcome State Fault Refusal := .next (s.spillOp l false)
def execSpillWalkRow (l : CoreNo) (s : State) : Host.Outcome State Fault Refusal := .next (s.spillWalkRow l)
def execRead (l : CoreNo) (s : State) : Host.Outcome State Fault Refusal := .next (s.readOp l)
def execReadoutRowLeave (l : CoreNo) (s : State) : Host.Outcome State Fault Refusal := .next (s.readoutRowLeave l)
def execWload (l : CoreNo) (s : State) : Host.Outcome State Fault Refusal := .next (s.wloadOp l)

end Sys2Proof.Machine
end

