-- ==== Sys2Proof/Machine/Parity.lean ====
section
/-! DEFINITION. Fleece parity: the members of the group, their parity blocks, and repair of a word from them
(R153 to R156). -/

namespace Sys2Proof.Machine

/-- Bytes of a chunk. -/
def chunkBytes : Nat := 0x3800000

/-- Members of the fleece group (R153). -/
def State.groupSize (s : State) : Nat := match s.sec? with
  | some m => if m.spare then m.n + 1 else m.n
  | none => 0

/-- The physical core that is a member of the group with its data area. -/
def State.memberCore (s : State) (q : Nat) : Option CoreNo :=
  (List.finRange 32).find? fun p =>
    (decide (s.cores[p].mode = .mapped) || decide (s.cores[p].mode = .rebuilding) || decide (s.cores[p].mode = .spare)) &&
      decide (s.cores[p].member = q)

/-- The physical core that holds the parity block of a member: a block on a core that was lost or retired is gone (R157). -/
def State.parityCore (s : State) (q : Nat) : Option CoreNo :=
  (List.finRange 32).find? fun p =>
    (decide (s.cores[p].mode = .mapped) || decide (s.cores[p].mode = .rebuilding) || decide (s.cores[p].mode = .spare)) &&
      decide (s.cores[p].parity = some q) && s.cores[p].fault.isNone

/-- The static content of a member's data area at an offset, zero in dynamic regions (R154). -/
def State.staticWord (s : State) (q off : Nat) : List Byte :=
  match s.memberCore q with
  | none => List.replicate 32 0
  | some p =>
    if s.staticAt s.cores[p].logical off && decide (s.cores[p].mode ≠ .spare) then s.cores[p].pasture.bytes off 32
    else List.replicate 32 0

/-- XOR of two byte lists. -/
def xorBytes (a b : List Byte) : List Byte := List.zipWith (fun x y => x ^^^ y) a b

/-- Member that holds the parity of chunk j of member q. -/
def parityOf (g q j : Nat) : Nat := if g = 0 then 0 else (q + j + 1) % g

/-- Chunk of member q whose parity member p holds. -/
def chunkFor (g p q : Nat) : Nat := if g = 0 then 0 else (p + 2 * g - q - 1) % g

/-- The contribution of member q to the block of member p at an offset within the chunk. -/
def State.contribution (s : State) (p q w : Nat) : List Byte :=
  s.staticWord q (chunkFor s.groupSize p q * chunkBytes + w)

/-- The word that the parity block of member p holds at an offset when it is whole (R154). -/
def State.parityWord (s : State) (p w : Nat) : List Byte :=
  (List.range s.groupSize).foldl (fun x q => if q = p then x else xorBytes x (s.contribution p q w))
    (List.replicate 32 0)

/-- A stored word of a core cannot be read whole: three or more of its bits are flipped, or it is poisoned, or it was found
uncorrectable and not yet rewritten (R149, R150, R156). -/
def Pasture.unreadable (m : Pasture) (w : Nat) : Bool :=
  decide (3 ≤ flipCount (cellGet 0 w m.flips)) || m.broken.contains w || ivMem w m.poison

/-- The contribution of a member at an offset cannot be read (R154, R156, R217): static data of a member that is lost, that is
faulty, or whose word is unreadable. -/
def State.unreadable (s : State) (q off : Nat) : Bool :=
  match s.memberCore q with
  | some p => s.staticAt s.cores[p].logical off && decide (s.cores[p].mode ≠ .spare) &&
      (s.cores[p].fault.isSome || s.cores[p].pasture.unreadable (off / 32))
  | none => if h : q < 32 then s.staticAt ⟨q, h⟩ off else false

/-- The static word of member q at an offset rebuilt from parity (R156): none when a contribution cannot be read. -/
def State.rebuiltWord (s : State) (q off : Nat) : Option (List Byte) :=
  let g := s.groupSize
  let j := off / chunkBytes
  let w := off % chunkBytes
  let p := parityOf g q j
  match s.parityCore p with
  | none => none
  | some h =>
    let m := s.cores[h].pasture
    let at0 := dataEnd + w
    if m.unreadable (at0 / 32) ∨ g < j + 2 then none
    else if (List.range g).any fun r => decide (r ≠ p) && decide (r ≠ q) &&
        s.unreadable r (chunkFor g p r * chunkBytes + w) then none
    else some ((List.range g).foldl (fun x r => if r = p ∨ r = q then x else xorBytes x (s.contribution p r w))
      (m.bytes at0 32))

/-- The word of a parity block recomputed from the data (R156): none when a contribution cannot be read. -/
def State.parityFor (s : State) (p w : Nat) : Option (List Byte) :=
  let g := s.groupSize
  if (List.range g).any fun r => decide (r ≠ p) && s.unreadable r (chunkFor g p r * chunkBytes + w) then none
  else some (s.parityWord p w)

/-- A word written through the fleece port (R155, R156): whole, without mark. -/
def Pasture.fix (m : Pasture) (w : Nat) (bs : List Byte) : Pasture :=
  { m with cells := cellsSet 0 (32 * w) bs m.cells, poison := ivDel w (w + 1) m.poison,
           flips := cellSet 0 w 0 m.flips, broken := m.broken.filter (· ≠ w) }

/-- Offsets within a chunk at which some static byte of the group is listed. -/
def State.parityOffsets (s : State) : List Nat :=
  ((List.range s.groupSize).flatMap fun q => match s.memberCore q with
    | none => []
    | some p => (s.cores[p].pasture.cells.filter fun c =>
        decide (c.1 < dataEnd) && s.staticAt s.cores[p].logical c.1).map fun c => c.1 % chunkBytes / 32 * 32).dedup

/-- Every parity block formed from the static data of the group (R154). -/
def State.formParity (s : State) : State :=
  let ws := s.parityOffsets
  (List.range s.groupSize).foldl (fun (t : State) p => match s.parityCore p with
    | none => t
    | some h =>
      let m := s.cores[h].pasture
      let cells := cellsClear dataEnd (dataEnd + chunkBytes) m.cells
      let cells := ws.foldl (fun c w => cellsSet 0 (dataEnd + w) (s.parityWord p w) c) cells
      let first := dataEnd / 32
      t.onCore h fun c => { c with pasture := { c.pasture with
        cells := cells, poison := ivDel first (first + chunkBytes / 32) c.pasture.poison,
        flips := c.pasture.flips.filter fun x => decide (x.1 < first), broken := c.pasture.broken.filter fun x => decide (x < first) } }) s

/-- The fold whose data a word of a logical core is (R415): the one with a region that holds it, else the core's fold in turn. -/
def State.wordFold (s : State) (l : CoreNo) (w : Nat) : Option FoldNo :=
  ((List.finRange 32).find? fun f => (s.regionOf f l (32 * w)).isSome).or (s.foldOf l)

/-- The scrub of one word by the fleece port of a physical core (R149, R155, R156): a word corrected is written back, one
uncorrectable is rebuilt, repaired later or left. -/
def State.scrubWord (s : State) (p : CoreNo) (w : Nat) : State :=
  let m := s.cores[p].pasture
  let mask := cellGet 0 w m.flips
  if mask = 0 ∨ ivMem w m.poison then s
  else
    let r := eccRead w (m.word w) mask
    let s := s.events p r.events (s.wordFold s.cores[p].logical w)
    if !r.bad then
      (if r.events.isEmpty then s else s.onCore p fun c => { c with pasture := c.pasture.fix w r.bytes })
    else if dataEnd ≤ 32 * w then
      (match s.cores[p].parity.bind fun q => s.parityFor q (32 * w - dataEnd) with
       | some bs => s.onCore p fun c => { c with pasture := c.pasture.fix w bs }
       | none => s)
    else if s.staticAt s.cores[p].logical (32 * w) then s.onCore p fun c => { c with pasture := c.pasture.find [w] }
    else s.log1 0x0403 (s.wordFold s.cores[p].logical w) (some s.cores[p].logical) (some p) (leBytes (32 * w) 4)

/-- Rows of 256 B of a core's whole pasture memory (R155). -/
def scrubRows : Nat := 7340032

/-- Mail of this tick waits for the fleece port of a core (R266). -/
def State.mailWaits (s : State) (p : CoreNo) : Bool :=
  match s.logicalOf p with
  | none => false
  | some l => decide (s.reserveAt + 64 ≤ s.rel) && decide (s.cores[p].delivered ≠ some s.tick.number.toNat) &&
      s.hall.writes.any fun w => decide (w.msg.kind = 1) && decide (hCore w.msg.addr = l)

/-- The scrub of the next row of a physical core by its fleece port (R155), once a cycle and in ascending order over the whole
memory. It pauses while a rebuild chain runs (R213) and while mail is delivered (R266). -/
def State.scrub (s : State) (p : CoreNo) (upsets : List (Nat × Nat)) : State :=
  let s := s.onCore p fun c => { c with pasture := c.pasture.upset upsets }
  if s.rebuild.isSome || s.mailWaits p || decide (s.cores[p].scrubbed = some s.now) then s
  else
    let row := s.cores[p].scrubRow
    let s := s.onCore p fun c => { c with scrubRow := (row + 1) % scrubRows, scrubbed := some s.now }
    (List.range 8).foldl (fun (s : State) k => s.scrubWord p (8 * row + k)) s

/-- The static words of a logical core found uncorrectable are rewritten from parity in the reserve (R156). A word
that cannot be rebuilt stays marked, and a dynamic one stays as it is. -/
def State.repairWords (s : State) (l : CoreNo) : State :=
  if !s.tick.inReserve then s
  else
    match s.phys l with
    | none => s
    | some p =>
      let q := s.cores[p].member
      let words := s.cores[p].pasture.broken.filter fun w => s.staticAt l (32 * w)
      let s := s.onCore p fun c => { c with pasture := { c.pasture with broken := words } }
      words.foldl (fun (s : State) w =>
        match s.rebuiltWord q (32 * w) with
        | some bs =>
          (s.onCore p fun c => { c with pasture := c.pasture.fix w bs }).log1 0x0401 (s.wordFold l w) (some l) (some p) (leBytes (32 * w) 4)
        | none => s.log1 0x0402 (s.wordFold l w) (some l) (some p) (leBytes (32 * w) 4)) s

end Sys2Proof.Machine
end

