-- ==== Sys2Proof/Machine/TickBuffer.lean ====
section
/-! DEFINITION. Tick buffers of the stream ports: their layout, and the beats that land lines and prefill in them
(spec/13 R282 to R287, spec/08 R158, R159). -/

namespace Sys2Proof.Machine

/-- One stream port changed. -/
def State.onSt (s : State) (p : StreamPort) (g : StPort → StPort) : State := { s with st := vmod s.st p g }

/-! ## Layout (R282, R283, R286, Tables 13.4 and 13.5) -/

/-- Tick period in ns. -/
def State.periodNs (s : State) : Nat := s.period / 2

/-- Pixel formats of Table 2.10: pixels and bytes of a group. -/
def pixelGroup (code : Word32) : Option (Nat × Nat × Fmt) :=
  if code = 0x01080001 then some (1, 1, .mono8)
  else if code = 0x010A0046 then some (4, 5, .mono10)
  else if code = 0x010C0047 then some (2, 3, .mono12)
  else none

/-- Bytes of a number of pixels of a record. -/
def StreamRec.packed (r : StreamRec) (pixels : Nat) : Nat := match pixelGroup r.pixel with
  | some (n, b, _) => pixels / n * b
  | none => 0

/-- Packed bytes of a line. -/
def StreamRec.lineBytes (r : StreamRec) : Nat := r.packed r.width

/-- A number rounded up to a multiple. -/
def roundUp (x n : Nat) : Nat := (x + n - 1) / n * n

/-- Row limit. -/
def StreamRec.rowMax (r : StreamRec) (ns : Nat) : Nat := if r.period = 0 then 0 else (ns * 1000 + r.period - 1) / r.period

/-- Number of bands of a line. -/
def StreamRec.bands (r : StreamRec) : Nat := if r.bandWidth = 0 then 1 else (r.width + r.bandWidth - 1) / r.bandWidth

/-- Packed bytes of a whole band. -/
def StreamRec.bandBytes (r : StreamRec) : Nat := if r.band then r.packed r.bandWidth else r.lineBytes

/-- Pitch of a row of a band, or of a line. -/
def StreamRec.pitch (r : StreamRec) : Nat := if r.band then roundUp r.bandBytes 32 else roundUp r.lineBytes 256

/-- Bytes of one tick buffer, a multiple of 4 KiB. -/
def StreamRec.bufferBytes (r : StreamRec) (ns : Nat) : Nat :=
  roundUp (256 + (if r.band then r.bands else 1) * r.rowMax ns * r.pitch) 4096

/-- Offset of the buffer of tick k. -/
def StreamRec.buffer (r : StreamRec) (ns k : Nat) : Nat := r.base + (if r.m = 0 then 0 else k % r.m) * r.bufferBytes ns

/-- Where a byte range of a row lies in the buffer: offsets and bytes, one part for each band that it meets. -/
def StreamRec.parts (r : StreamRec) (ns row off : Nat) (bs : List Byte) : List (Nat × List Byte) :=
  if !r.band then [(256 + row * r.pitch + off, bs)]
  else (List.range r.bands).filterMap fun b =>
    let lo := max off (b * r.bandBytes)
    let hi := min (off + bs.length) ((b + 1) * r.bandBytes)
    if lo < hi then
      some (256 + (b * r.rowMax ns + row) * r.pitch + (lo - b * r.bandBytes), (bs.drop (lo - off)).take (hi - lo))
    else none

/-- Words that hold a range of bytes. -/
def wordSpan (off len : Nat) : Nat × Nat := (off / 32, (off + len + 31) / 32)

/-- Landed pixels: the words that they reach lose their marks (R287). -/
def Pasture.land (m : Pasture) (now off : Nat) (bs : List Byte) : Pasture :=
  let m := m.put now off bs
  let w := wordSpan off bs.length
  { m with poison := ivDel w.1 w.2 m.poison }

/-- Prefilled pixels, in poisoned words. -/
def Pasture.prefill (m : Pasture) (now off : Nat) (bs : List Byte) : Pasture :=
  let m := m.put now off bs
  let w := wordSpan off bs.length
  { m with poison := ivAdd w.1 w.2 m.poison }

/-- One line of pixels of value black. -/
def StreamRec.blackLine (r : StreamRec) : List Byte := match pixelGroup r.pixel with
  | some (n, b, f) =>
    let group := leBytes ((List.range n).foldl (fun v j => v + r.black * 2 ^ (f.bits * j)) 0) b
    (List.range (r.width / n)).flatMap fun _ => group
  | none => []

/-! ## Landing beats (R158, R159, R287) -/

/-- A range of bytes cut at 256 B rows. -/
def beatParts (off : Nat) (bs : List Byte) : List (Nat × List Byte) :=
  (rowPieces off bs.length).map fun y => (y.1, (bs.drop (y.1 - off)).take y.2)

/-- The beats that prefill one row of the buffer of a tick, in order. -/
def StreamRec.fillBeats (r : StreamRec) (ns k row : Nat) : List (Nat × List Byte) :=
  (r.parts ns row 0 r.blackLine).flatMap fun y => beatParts (r.buffer ns k + y.1) y.2

/-- More than the places of all prefill beats of a window: every row has a place after its last beat. -/
def StreamRec.fillSteps (r : StreamRec) (ns : Nat) : Nat := r.rowMax ns * (r.bands * (r.lineBytes / 256 + 3) + 1) + 1

/-- The words of a run of bytes that no line accepted in the window reaches. -/
def StPort.unreached (x : StPort) (r : StreamRec) (ns k row off len : Nat) : List Nat :=
  let done := (x.landed.filter fun y => decide (y.1 = row)).flatMap fun y =>
    (r.parts ns row y.2.1 (List.replicate y.2.2 (0 : Byte))).map fun z => (r.buffer ns k + z.1, z.2.length)
  (touchedWords off len).filter fun w => !done.any fun z => (touchedWords z.1 z.2).contains w

/-- The next beat that prefills the buffer of a window, and the place after it; rows that data has reached are skipped. -/
def StPort.nextFill (x : StPort) (r : StreamRec) (ns k : Nat) : Nat → Nat × Nat → Option ((Nat × Nat × List Byte) × (Nat × Nat))
  | 0, _ => none
  | n + 1, (row, j) =>
    if r.rowMax ns ≤ row then none
    else match (r.fillBeats ns k row)[j]? with
      | none => x.nextFill r ns k n (row + 1, 0)
      | some y => if (x.unreached r ns k row y.1 y.2.length).isEmpty then x.nextFill r ns k n (row, j + 1)
          else some ((row, y.1, y.2), (row, j + 1))

/-- A beat of prefill: the words of a row that no line has reached, in poisoned form. -/
def Pasture.fillWords (m : Pasture) (now off : Nat) (bs : List Byte) (ws : List Nat) : Pasture :=
  ws.foldl (fun (m : Pasture) w =>
    let q := wordPart off (bs.map fun b => (b, false)) w
    m.prefill now q.1 (q.2.map fun b => b.1)) m

/-- The landing beat of a stream port on a physical core in this cycle: the oldest line that has arrived, else one beat of
prefill, else nothing. A beat of a line is a program beat at the core's endpoint (R208), before those of the cores in its cycle
(DESIGN CHOICE, assumption 50). Answers the write beats taken. -/
def State.portBeat (s : State) (p l : CoreNo) (i : StreamPort) : State × Nat :=
  match s.cores[p].portBeats.find? fun b => decide (b.port = i) && decide (b.due ≤ s.now) with
  | some b =>
    let recv := s.cores[p].recvBeat s.now
    let s : State := { s with cores := s.cores.set p recv.1 }
    let keep := fun (m : Pasture) =>
      if recv.2 then m.land s.now b.off b.bytes else m.prefill s.now b.off (List.replicate b.bytes.length 0)
    ((s.onCore p fun c => { c with portBeats := c.portBeats.erase b, pasture := keep c.pasture }).events p [(0x39, b2n (!recv.2))] (s.st[i].cfg.map fun c => c.1), 1)
  | none =>
    match s.st[i].cfg, s.st[i].window with
    | some (_, r), some k =>
      if r.core ≠ l then (s, 0)
      else
        let x := s.st[i]
        (match x.nextFill r s.periodNs k (r.fillSteps s.periodNs) x.fill with
         | none => (s, 0)
         | some (y, f) =>
           let ws := x.unreached r s.periodNs k y.1 y.2.1 y.2.2.length
           ((s.onCore p fun c => { c with pasture := c.pasture.fillWords s.now y.2.1 y.2.2 ws }).onSt i fun z => { z with fill := f }, 1))
    | _, _ => (s, 0)

/-- The landing beats of a core's cycle (R159): one of each port, first in the order of writes. -/
def State.portBeats (s : State) (p l : CoreNo) (free : Nat) : State × Nat :=
  (List.finRange 16).foldl (fun (a : State × Nat) i =>
    if a.2 = 0 then a
    else
      let r := a.1.portBeat p l i
      ((r.1.onCore p fun c => c.takeWrites s.now s.now r.2).events p [(0x07, r.2)] (s.st[i].cfg.map fun c => c.1), a.2 - r.2)) (s, free)

end Sys2Proof.Machine
end

