-- ==== Sys2Proof/Machine/DroverCmd.lean ====
section
/-! DEFINITION. The drover stream's instructions, and the grants and landings of a core's pasture memory
(spec/08, spec/09 Tables 9.13 and 9.14). -/

namespace Sys2Proof.Machine

/-! ## START, REARM and STOP -/

/-- Drover and stream at bits [95:94] and [93:91]. -/
def startStream (w : Word128) : DroverNo × DStreamNo := (Fin.ofNat 4 (fld w 94 2), Fin.ofNat 8 (fld w 91 3))

/-- START (R163, R197, R198). -/
def State.startOp (s : State) (l : CoreNo) (armOnly : Bool) : State :=
  match s.issuing l .drover 0x80 with
  | none => s
  | some (p, w) =>
    if bitOf w 89 == armOnly && s.turn l .drover (sharedOf l w) then
      s.onCoreE p fun c =>
        let n := startStream w
        let relative := bitOf w 90
        let q := (c.ds n.1 n.2).start ((s.foldOf l).getD 0) (fld w 96 32) (if relative then s.now else s.tick.instant)
          relative armOnly false
        ((c.setDs n.1 n.2 q.1).issued .drover s.now 1, [(0x29, q.2)])
    else s

/-- A base of a REARM: from a handle, its buffer × 256 plus the field (Table 9.14). -/
def rearmBase (t : Stream) (field : Nat) (fromHandle : Bool) (reg : Nat) : Nat × Bool :=
  let h : Handle := t.handles[Fin.ofNat 4 reg]
  if fromHandle then ((h.buffer.toNat * 256 + field) % 2 ^ 32, h.bad) else (field, false)

/-- REARM (R172, R189, R197, R198). -/
def State.rearmOp (s : State) (l : CoreNo) : State :=
  match s.issuing l .drover 0x81 with
  | none => s
  | some (p, w) => if !s.turn l .drover (sharedOf l w) then s else s.onCoreE p fun c =>
      let d : DroverNo := Fin.ofNat 4 (fld w 62 2)
      let i : DStreamNo := Fin.ofNat 8 (fld w 59 3)
      let relative := bitOf w 58
      let a := rearmBase c.dstream (fld w 96 32) (bitOf w 57) (fld w 55 2)
      let b := rearmBase c.dstream (fld w 64 32) (bitOf w 54) (fld w 52 2)
      let r : Rearm := { src := some a.1, dst := some b.1, origin := if relative then s.now else s.tick.instant,
                         relative := relative, bad := a.2 || b.2, tick := false }
      let q := (c.ds d i).rearmBy r s.tick.number.toNat
      ((c.setDs d i q.1).issued .drover s.now 1, [(0x29, q.2)])

/-- STOP (R170, R197). -/
def State.stopOp (s : State) (l : CoreNo) : State :=
  match s.issuing l .drover 0x82 with
  | none => s
  | some (p, w) => if !s.turn l .drover (sharedOf l w) then s else s.onCore p fun c =>
      let n := startStream w
      let x := c.ds n.1 n.2
      let q := x.stop
      let c := match x.ctx with
        | some ctx => if xRingOn ctx then c.onRing (xRing ctx) fun r => { r with started := r.started - q.2 } else c
        | none => c
      (c.setDs n.1 n.2 (q.1.settle s.tick.number.toNat)).issued .drover s.now 1

/-! ## BEAT_GRANT -/

/-- Descriptor fetch beats and index beats of a core, in drover order (R159, R164, R168). -/
def State.fetchAll (s : State) (p l : CoreNo) (free : Nat) : State × Nat :=
  (List.finRange 4).foldl (fun (a : State × Nat) d => (List.finRange 8).foldl (fun (a : State × Nat) i =>
    if (a.1.ds p d i).status = .idle then a else a.1.fetchBeats p l d i a.2) a) (s, free)

/-- The streams whose next unit is granted at a logical core. -/
def State.servedBy (s : State) (l : CoreNo) (x : CoreNo × CoreNo × DroverNo × DStreamNo) : Bool :=
  let q := s.ds x.1 x.2.2.1 x.2.2.2
  match q.descs[q.cur]? with
  | some de =>
    let src := sideCore s.hallNo x.2.1 de.word (dSrcClass de.word)
    let hall := dKind de.word = 2 && dHall de.word
    if src.1 = s.hallNo && !s.absent src.2 && dSrcClass de.word = 2 && !hall then decide (src.2 = l) else decide (x.2.1 = l)
  | none => false

/-- The write beats of a core's cycle (R158, R159): stream ports, then READ rows by deadline. -/
def State.grantWrites (s : State) (l p : CoreNo) : State :=
  let a := s.portBeats p l (8 - s.cores[p].writesAt s.now)
  let writes := a.1.activeStreams.flatMap fun x =>
    (a.1.ds x.1 x.2.2.1 x.2.2.2).waiting x.1 x.2.1 x.2.2.1 x.2.2.2 fun u =>
      u.elems.isSome && decide (u.dst = l) && u.to_.isNone
  ((sortKey Cand.key writes).foldl (fun (a : State × Nat) k => a.1.grantWrite p a.2 k) a).1

/-- The data read beats of a core's cycle and, at its deadline among them, one row of the gather service (R159, R261). -/
def State.grantReads (s : State) (l p : CoreNo) (free : Nat) : State :=
  let cands := sortKey Cand.key (s.activeStreams.flatMap fun x =>
    (s.ds x.1 x.2.2.1 x.2.2.2).waiting x.1 x.2.1 x.2.2.1 x.2.2.2 fun u =>
      u.elems.isNone && u.from_.isNone && decide (s.server x.2.1 u = l))
  let reads := fun (a : State × Nat) (ks : List Cand) => ks.foldl (fun (a : State × Nat) k => a.1.grantRead l p a.2 k) a
  match (sortKey (fun g : Nat × SchedPacket × Nat => g.1) s.cores[p].gather).head? with
  | none => (reads (s, free) cands).1
  | some g =>
    let a := reads (s, free) (cands.filter fun k => decide (k.need ≤ g.1))
    let a := if 0 < a.2 then
        ((a.1.onCore p fun c => { c with gather := c.gather.erase g }).gatherBeat l p g.2.1, a.2 - 1)
      else a
    (reads a (cands.filter fun k => decide (g.1 < k.need))).1

/-- The grants of one cycle of a core (R158, R159, R267) (DESIGN CHOICE, assumption 48) (DESIGN CHOICE, assumption 50). -/
def State.grant (s : State) (l : CoreNo) (upsets : List (Nat × Nat)) : State :=
  match s.phys l with
  | none => s
  | some p =>
    let s := s.onCore p fun c => { c with pasture := c.pasture.upset upsets }
    if s.cores[p].lastGrant = some s.now then s
    else
      let s := s.onCore p fun c => { c with lastGrant := some s.now }
      let held := s.cores[p].walkBeats s.now
      let s := s.grantWrites l p
      let m := s.mailService l p (16 - held.1)
      let f := m.1.fetchAll p l (16 - held.1 - m.2)
      let s := (f.1.activeStreams.filter (f.1.servedBy l)).foldl (fun (s : State) x =>
        s.startUnits x.1 x.2.1 x.2.2.1 x.2.2.2 16) f.1
      let s := s.grantReads l p f.2
      s.activeStreams.foldl (fun (s : State) x =>
        s.setDs x.1 x.2.2.1 x.2.2.2 ((s.ds x.1 x.2.2.1 x.2.2.2).settle s.tick.number.toNat)) s

/-! ## DESCRIPTOR_READY and BEAT_LANDING -/

/-- The descriptors of a drover that have become usable are taken into their chains (R164, R165). A context that names a ring
whose enable bit is 0 counts a ring underrun (R171). -/
def State.descriptors (s : State) (l : CoreNo) (d : DroverNo) : State :=
  match s.phys l with
  | none => s
  | some p => (List.finRange 8).foldl (fun (s : State) i =>
      let x := s.ds p d i
      let q := x.takeDescs s.cores[p].dbufs[d] s.now 64
      let lost := match x.ctx, q.1.ctx with
        | none, some ctx => xRingOn ctx && !(s.cores[p].rings[xRing ctx]).enabled
        | _, _ => false
      (s.setDs p d i (q.1.settle s.tick.number.toNat)).events p [(0x26, q.2), (0x27, b2n lost)] x.fold) s

/-- A beat that is due at a core: sending logical core, requester's cores, stream, and its unit's number. -/
structure Due where
  from_ : CoreNo
  core : CoreNo
  lcore : CoreNo
  drover : DroverNo
  stream : DStreamNo
  run : Nat
  unit : Nat
  land : Nat
  stores : Bool
  far : Bool
  deriving DecidableEq, Repr

/-- Beats due at a logical core up to now. -/
def State.dueBeats (s : State) (l : CoreNo) : List Due :=
  s.activeStreams.flatMap fun x => (s.ds x.1 x.2.2.1 x.2.2.2).units.flatMap fun u =>
    if u.to_.isNone && decide (u.dst = l) || u.to_.isSome && decide (x.2.1 = l) then
      u.beats.filterMap fun b => match b.land with
        | some m => if m ≤ s.now then
            some { from_ := u.src, core := x.1, lcore := x.2.1, drover := x.2.2.1, stream := x.2.2.2, run := u.run,
                   unit := u.unit, land := m, stores := toPasture u.desc && u.to_.isNone && !u.gone,
                   far := decide (u.src ≠ l) && u.to_.isNone && !u.idle && !u.gone } else none
        | none => none
    else []

/-- One due beat lands. `n` counts the stores of its cycle. -/
def State.landDue (s : State) (p : CoreNo) (n : Nat) (k : Due) : State × Nat :=
  let x := s.ds k.core k.drover k.stream
  match x.units.findIdx? fun u => decide (u.run = k.run) && decide (u.unit = k.unit) &&
      (match u.beats.head? with
       | some b => decide (b.land = some k.land)
       | none => false) with
  | none => (s, n)
  | some j =>
    let recv := if k.far then s.cores[p].recvBeat k.land else (s.cores[p], true)
    let s : State := { s with cores := s.cores.set p recv.1 }
    let full := k.stores && decide (8 ≤ n)
    let idle := (x.units[j]?).any fun u => u.idle
    let s := if recv.2 then s
      else s.setDs k.core k.drover k.stream { x with units := x.units.modify j fun u =>
          { u with beats := u.beats.modifyHead fun b => { b with data := zerosBad b.len } } }
    let s := s.landBeat k.core k.lcore k.drover k.stream j k.land full
    (s.events p [(0x39, b2n (!recv.2) + b2n full), (0x07, b2n (k.stores && !full && !idle))] x.fold, n + b2n k.stores)

/-- The beats that are due at a core land, cycle by cycle and in order of the sending logical core (R160, R208)
(DESIGN CHOICE, assumption 50). -/
def State.landing (s : State) (l : CoreNo) : State :=
  match s.phys l with
  | none => s
  | some p =>
    let due := sortKey (fun d : Due => d.land * 32 + d.from_.val) (s.dueBeats l)
    let cycles := (due.map fun d => d.land).dedup
    cycles.foldl (fun (s : State) m =>
      ((due.filter fun d => decide (d.land = m)).foldl (fun (a : State × Nat) d => a.1.landDue p a.2 d)
        (s, (s.cores[p].walkBeats m).2)).1) s

/-! ## DROVER_CANCEL (R178) -/

/-- The decision on which a member acts for a tick: the shepherd's, else the deputy's (R274). -/
def Fold.decided (x : Fold) (tick : BitVec 48) : Option Decision :=
  match x.fromShepherd.filter fun d => decide (d.tick = tick) with
  | some d => some d
  | none => x.fromDeputy.filter fun d => decide (d.tick = tick)

/-- A pen change has been sampled for the next tick: by the fold's own selection, or by the decision that a member acts on. -/
def Fold.changes (x : Fold) (tick : BitVec 48) : Bool :=
  decide (x.run = .running) && (match x.image with
    | some i => if 2 ≤ i.members then (x.decided tick).any fun (d : Decision) => d.changes else decide (x.sel.next ≠ x.sel.pen)
    | none => false)

/-- The fold's streams are to be cancelled now: at a pen change sampled in this tick's reserve from cycle 1,920 × P + 1 on, or
from the cycle after a hurdle. -/
def State.cancels (s : State) (f : FoldNo) : Bool :=
  let x := s.folds[f]
  (s.tick.inReserve && decide (s.reserveAt + 1 ≤ s.rel) && x.changes s.tick.number) ||
    (match x.recov.hurdle with
     | some h => decide (h + 1 ≤ s.now)
     | none => false)

/-- DROVER_CANCEL. -/
def State.cancelOp (s : State) (f : FoldNo) : State := if s.cancels f then s.cancelFold f else s

/-! ## Meanings -/

def execStart (l : CoreNo) (s : State) : Host.Outcome State Fault Refusal := .next (s.startOp l false)
def execStartArmOnly (l : CoreNo) (s : State) : Host.Outcome State Fault Refusal := .next (s.startOp l true)
def execRearm (l : CoreNo) (s : State) : Host.Outcome State Fault Refusal := .next (s.rearmOp l)
def execStop (l : CoreNo) (s : State) : Host.Outcome State Fault Refusal := .next (s.stopOp l)
def execBeatGrant (l : CoreNo) (upsets : List (Nat × Nat)) (s : State) : Host.Outcome State Fault Refusal :=
  .next (s.grant l upsets)
def execDescriptorReady (l : CoreNo) (d : DroverNo) (s : State) : Host.Outcome State Fault Refusal :=
  .next (s.descriptors l d)
def execBeatLanding (l : CoreNo) (s : State) : Host.Outcome State Fault Refusal := .next (s.landing l)
def execDroverCancel (f : FoldNo) (s : State) : Host.Outcome State Fault Refusal := .next (s.cancelOp f)
def execFleeceScrub (p : CoreNo) (words masks : List Nat) (s : State) : Host.Outcome State Fault Refusal :=
  .next (s.scrub p (words.zip masks))
def execStaticWordRepair (l : CoreNo) (s : State) : Host.Outcome State Fault Refusal := .next (s.repairWords l)

end Sys2Proof.Machine
end

