-- ==== Sys2Proof/Machine/Clock.lean ====
section
/-! DEFINITION. One core clock cycle: the parts of instructions that issue one part a cycle, the walks, the
clears, the corrections of the currier, and the counters of conditions (DESIGN CHOICE, assumption 1). The parts come
after the commands of their cycle, the rest before them. -/

namespace Sys2Proof.Machine

/-- A stream issued something in a cycle. -/
def Stream.issuedAt (t : Stream) (now : Nat) : Bool :=
  decide (t.lastIssue = now) || (match t.active with
    | some a => decide (a.due = now + 1)
    | none => false)

/-- The stream waits at a gate. -/
def Stream.held (t : Stream) : Bool := decide (t.wait ≠ .none)

/-- The conditions of Table 18.3 as they stand in a cycle, and the cycle counter (R412, R414). -/
def Core.conditions (c : Core) (now : Nat) (pen : Bool) (fold : Option FoldNo) : Core :=
  let idleM := pen && !c.matrix.issuedAt now
  let idleC := pen && !c.cstream.issuedAt now
  let held := c.matrix.held || c.cstream.held || c.dstream.held
  { c with
    tally := c.tally.map fun t => ((t.cond 0x03 idleM fold).cond 0x05 idleC fold).cond 0x09 held fold
    cycles := if c.supply.on then c.cycles + 1 else c.cycles }

/-- The part of a matrix instruction that is due now (R121, R185, R191). -/
def Core.matrixPart (c : Core) (now : Nat) : Core × List (Nat × Nat) :=
  match c.matrix.active with
  | none => (c, [])
  | some a =>
    if now < a.due then (c, [])
    else
      let op := opcodeOf a.word
      let w := a.word
      let held := { c with matrix := { c.matrix with base := c.matrix.base + 12, active := some { a with due := now + 12 } } }
      let next := { c with matrix := { c.matrix with active := some { a with part := a.part + 1, due := now + 1 } } }
      if op = 0x03 then
        if c.clearConflict now (clearSlots w a.part) then (held, [(0x0A, 1)])
        else
          let c := { next with clears := c.clears ++ clearEntries w a.part now }
          (if a.part + 1 = a.parts then { c with matrix := { c.matrix with active := none } } else c, [])
      else
        let wide := decide (op = 0x02)
        let per := (passPieces wide (fld w 73 3)).length
        if a.parts ≤ a.part then (c, [])
        else
          let t := passTarget wide w (a.part / per)
          let fresh := decide (a.part % per = 0)
          let first := if fresh then now else ((c.passes.getLast?).map fun f => f.op).getD now
          if fresh && c.passConflict now now t.1 t.2 then (held, [(0x0A, 1)])
          else
            let r := c.passPart wide w a.part now first
            ({ next with passes := c.passes ++ [r.1] }, r.2)

/-- A PASS or WPASS whose passes have all issued releases its feeder entries (R99, R191), before any row of this cycle lands
(Table 9.5). -/
def Core.matrixRelease (c : Core) (now : Nat) : Core × List (Nat × Nat) :=
  match c.matrix.active with
  | none => (c, [])
  | some a =>
    if a.due ≤ now ∧ a.parts ≤ a.part ∧ opcodeOf a.word ≠ 0x03 then
      let r := c.feederRelease (fld a.word 120 8)
      ({ r.1 with matrix := { r.1.matrix with active := none } }, r.2)
    else (c, [])

/-- The part of a currier instruction that is due now. -/
def Core.currierPart (c : Core) (now start tiles : Nat) : Core × List (Nat × Nat) :=
  match c.cstream.active with
  | none => (c, [])
  | some a =>
    if now < a.due then (c, [])
    else
      let r := if opcodeOf a.word = 0x56 then c.strayPart now a.word tiles a.part else c.lanePart now a start
      let act := if a.parts ≤ a.part + 1 then none else some { a with part := a.part + 1, due := now + 1 }
      ({ r.1 with cstream := { r.1.cstream with active := act } }, r.2)

/-- Clears that take their effect now. -/
def Core.clearsDue (c : Core) (now : Nat) : Core :=
  let due := c.clears.filter fun x => decide (x.2.2.2 ≤ now)
  { c with acc := due.foldl (fun a x => a.clear x.1 x.2.1 x.2.2.1) c.acc,
           clears := c.clears.filter fun x => decide (now < x.2.2.2) }

/-- Corrections of the currier whose slot write stage ends now: visible from the next cycle on (R455). -/
def Core.straysDue (c : Core) (now : Nat) : Core :=
  let due := c.currier.strays.filter fun f => decide (f.issue + 11 ≤ now)
  { c with acc := due.foldl (fun a f => a.addStray f) c.acc,
           currier := { c.currier with strays := c.currier.strays.filter fun f => decide (now < f.issue + 11) } }

/-- Every walk of a core reads the row of this cycle. -/
def Core.walksDue (c : Core) (now : Nat) : Core × List (Nat × Nat) :=
  (List.range c.walks.length).foldl (fun (a : Core × List (Nat × Nat)) n =>
    match a.1.walks[n]? with
    | none => a
    | some w =>
      if w.next < 128 ∧ w.readAt w.next ≤ now then
        let r := a.1.walkCatch w now
        ({ r.1 with walks := r.1.walks.set n r.2.1 }, a.2 ++ r.2.2)
      else a) (c, [])

/-- The walks that are over leave. -/
def Core.dropWalks (c : Core) (now : Nat) : Core := { c with walks := c.walks.filter fun w => !w.done now }

/-- A core at the end of a cycle: the parts that issue in it read what has landed up to and in it (R128). -/
def State.coreParts (s : State) (p : CoreNo) : State :=
  match s.logicalOf p with
  | none => s
  | some l =>
    let start := match s.cores[p].cstream.active with
      | some a => s.microStart l a.word
      | none => 0
    let tiles := match s.cores[p].cstream.active with
      | some a => s.strayTiles l a.word
      | none => 1
    let s := s.onCoreE p fun c => c.matrixPart s.now
    let s := s.onCoreE p fun c => c.currierPart s.now start tiles
    s.onCore p fun c => c.straysDue s.now

/-- A core at the beginning of a cycle. -/
def State.coreCycle (s : State) (p : CoreNo) : State :=
  match s.logicalOf p with
  | none => s
  | some _ =>
    let s := s.onCoreE p fun c => ({ c with currier := c.currier.loadBeat s.now }).matrixRelease s.now
    let s := ([.matrix, .currier, .drover] ++ (List.finRange 8).map .thread : List Issuer).foldl (fun (s : State) i =>
      s.onCoreE p fun c => c.fetchWords s.now i) s
    let r := (s.cores[p].clearsDue s.now).walksDue s.now
    State.events { s with cores := s.cores.set p (r.1.dropWalks s.now) } p r.2

/-- The pen of a core runs in this cycle. -/
def State.penRuns (s : State) (l : CoreNo) : Bool :=
  match s.foldOf l with
  | some f => decide (s.folds[f].run = .running) && decide (s.rel < s.reserveAt)
  | none => false

/-- The conditions of a physical core counted for the cycle that ends. -/
def State.coreConditions (s : State) (p : CoreNo) : State :=
  match s.logicalOf p with
  | none => s.onCore p fun c => c.conditions s.now false none
  | some l => s.onCore p fun c => c.conditions s.now (s.penRuns l) (s.foldOf l)

/-- One core clock cycle: what is left of the cycle that ends, and the beginning of the next. -/
def clockCycle (s : State) : State :=
  let s := (List.finRange 32).foldl (fun (s : State) p => s.coreParts p) s
  let s := (List.finRange 32).foldl (fun (s : State) p => s.coreConditions p) s
  let s := { s with now := s.now + 1 }
  (List.finRange 32).foldl (fun (s : State) p => s.coreCycle p) s

end Sys2Proof.Machine
end

