-- ==== Sys2Proof/Machine/Crypto.lean ====
section
/-! DEFINITION. The algorithms that the manual names and does not print: SHA-384, HMAC and HKDF over it, AES-256-GCM, and
ECDSA and ECDH over P-384 (R219, R226, R227, R308, R342 to R344, R352, R354, R378) (PRESUMED, assumption 6: they are
written as the standards of those names give them). Their functions are irreducible: nothing here is to be unfolded by a
proof that only carries a digest or a tag about. -/

namespace Sys2Proof.Machine

/-! ## SHA-384 -/

/-- Round constants. -/
def shaK : List Word64 :=
  [0x428a2f98d728ae22, 0x7137449123ef65cd, 0xb5c0fbcfec4d3b2f, 0xe9b5dba58189dbbc] ++
  [0x3956c25bf348b538, 0x59f111f1b605d019, 0x923f82a4af194f9b, 0xab1c5ed5da6d8118] ++
  [0xd807aa98a3030242, 0x12835b0145706fbe, 0x243185be4ee4b28c, 0x550c7dc3d5ffb4e2] ++
  [0x72be5d74f27b896f, 0x80deb1fe3b1696b1, 0x9bdc06a725c71235, 0xc19bf174cf692694] ++
  [0xe49b69c19ef14ad2, 0xefbe4786384f25e3, 0x0fc19dc68b8cd5b5, 0x240ca1cc77ac9c65] ++
  [0x2de92c6f592b0275, 0x4a7484aa6ea6e483, 0x5cb0a9dcbd41fbd4, 0x76f988da831153b5] ++
  [0x983e5152ee66dfab, 0xa831c66d2db43210, 0xb00327c898fb213f, 0xbf597fc7beef0ee4] ++
  [0xc6e00bf33da88fc2, 0xd5a79147930aa725, 0x06ca6351e003826f, 0x142929670a0e6e70] ++
  [0x27b70a8546d22ffc, 0x2e1b21385c26c926, 0x4d2c6dfc5ac42aed, 0x53380d139d95b3df] ++
  [0x650a73548baf63de, 0x766a0abb3c77b2a8, 0x81c2c92e47edaee6, 0x92722c851482353b] ++
  [0xa2bfe8a14cf10364, 0xa81a664bbc423001, 0xc24b8b70d0f89791, 0xc76c51a30654be30] ++
  [0xd192e819d6ef5218, 0xd69906245565a910, 0xf40e35855771202a, 0x106aa07032bbd1b8] ++
  [0x19a4c116b8d2d0c8, 0x1e376c085141ab53, 0x2748774cdf8eeb99, 0x34b0bcb5e19b48a8] ++
  [0x391c0cb3c5c95a63, 0x4ed8aa4ae3418acb, 0x5b9cca4f7763e373, 0x682e6ff3d6b2b8a3] ++
  [0x748f82ee5defb2fc, 0x78a5636f43172f60, 0x84c87814a1f0ab72, 0x8cc702081a6439ec] ++
  [0x90befffa23631e28, 0xa4506cebde82bde9, 0xbef9a3f7b2c67915, 0xc67178f2e372532b] ++
  [0xca273eceea26619c, 0xd186b8c721c0c207, 0xeada7dd6cde0eb1e, 0xf57d4f7fee6ed178] ++
  [0x06f067aa72176fba, 0x0a637dc5a2c898a6, 0x113f9804bef90dae, 0x1b710b35131c471b] ++
  [0x28db77f523047d84, 0x32caab7b40c72493, 0x3c9ebe0a15c9bebc, 0x431d67c49c100d4c] ++
  [0x4cc5d4becb3e42b6, 0x597f299cfc657e2a, 0x5fcb6fab3ad6faec, 0x6c44198c4a475817]

/-- The eight words of a hash in the making. -/
structure ShaState where
  a : Word64
  b : Word64
  c : Word64
  d : Word64
  e : Word64
  f : Word64
  g : Word64
  h : Word64
  deriving DecidableEq, Repr

/-- Initial words of SHA-384. -/
def shaInit : ShaState :=
  match ([0xcbbb9d5dc1059ed8, 0x629a292a367cd507, 0x9159015a3070dd17, 0x152fecd8f70e5939, 0x67332667ffc00b31, 0x8eb44a8768581511, 0xdb0c2e0d64f98fa7, 0x47b5481dbefa4fa4] : List Word64) with
  | [a, b, c, d, e, f, g, h] => ⟨a, b, c, d, e, f, g, h⟩
  | _ => ⟨0, 0, 0, 0, 0, 0, 0, 0⟩

/-- One round with its constant and its word of the message schedule. -/
def ShaState.round (x : ShaState) (k w : Word64) : ShaState :=
  let s1 := x.e.rotateRight 14 ^^^ x.e.rotateRight 18 ^^^ x.e.rotateRight 41
  let ch := (x.e &&& x.f) ^^^ (~~~x.e &&& x.g)
  let t1 := x.h + s1 + ch + k + w
  let s0 := x.a.rotateRight 28 ^^^ x.a.rotateRight 34 ^^^ x.a.rotateRight 39
  let maj := (x.a &&& x.b) ^^^ (x.a &&& x.c) ^^^ (x.b &&& x.c)
  ⟨t1 + (s0 + maj), x.a, x.b, x.c, x.d + t1, x.e, x.f, x.g⟩

/-- The message schedule one word on: its sixteen newest words, oldest first. -/
def shaNext (w : List Word64) : List Word64 :=
  let a := w.getD 1 0
  let b := w.getD 14 0
  let s0 := a.rotateRight 1 ^^^ a.rotateRight 8 ^^^ (a >>> 7)
  let s1 := b.rotateRight 19 ^^^ b.rotateRight 61 ^^^ (b >>> 6)
  w.drop 1 ++ [s1 + w.getD 9 0 + s0 + w.getD 0 0]

/-- The hash after one block of 128 B. -/
def ShaState.block (x : ShaState) (bs : List Byte) : ShaState :=
  let w := (List.range 16).map fun i => BitVec.ofNat 64 (beAt bs (8 * i) 8)
  let y := (shaK.foldl (fun (p : ShaState × List Word64) k => (p.1.round k (p.2.getD 0 0), shaNext p.2)) (x, w)).1
  ⟨x.a + y.a, x.b + y.b, x.c + y.c, x.d + y.d, x.e + y.e, x.f + y.f, x.g + y.g, x.h + y.h⟩

/-- The hash after `n` blocks. -/
def ShaState.blocks : Nat → ShaState → List Byte → ShaState
  | 0, x, _ => x
  | n + 1, x, bs => ShaState.blocks n (x.block (bs.take 128)) (bs.drop 128)

/-- A message padded to whole blocks. -/
def shaPad (m : List Byte) : List Byte :=
  m ++ [0x80] ++ List.replicate ((239 - m.length % 128) % 128) 0 ++ beBytes (8 * m.length) 16

/-- SHA-384 of a byte string. -/
@[irreducible] def sha384 (m : List Byte) : BitVec 384 :=
  let p := shaPad m
  let x := ShaState.blocks (p.length / 128) shaInit p
  x.a ++ x.b ++ x.c ++ x.d ++ x.e ++ x.f

/-- SHA-384 as 48 bytes. -/
def shaBytes (m : List Byte) : List Byte := beBytes (sha384 m).toNat 48

/-! ## HMAC and HKDF -/

/-- HMAC-SHA-384 of a byte string under a key. -/
@[irreducible] def hmac384 (key m : List Byte) : BitVec 384 :=
  let k := sliceD 0 (if 128 < key.length then shaBytes key else key) 0 128
  sha384 ((k.map fun b => b ^^^ 0x5C) ++ shaBytes ((k.map fun b => b ^^^ 0x36) ++ m))

/-- The blocks of HKDF's expansion, from block `i` on: pseudo-random key, info, the block before. -/
def hkdfBlocks (prk info : List Byte) : Nat → Nat → List Byte → List Byte
  | 0, _, _ => []
  | n + 1, i, t =>
    let u := beBytes (hmac384 prk (t ++ info ++ [BitVec.ofNat 8 i])).toNat 48
    u ++ hkdfBlocks prk info n (i + 1) u

/-- HKDF-SHA-384: input keying material, salt, info and bytes of output. -/
@[irreducible] def hkdf384 (ikm salt info : List Byte) (len : Nat) : List Byte :=
  let prk := beBytes (hmac384 salt ikm).toNat 48
  (hkdfBlocks prk info ((len + 47) / 48) 1 []).take len

/-! ## AES-256-GCM -/

/-- The substitution table, sixteen rows of sixteen bytes, first byte uppermost. -/
def aesRows : List Nat :=
  [0x637c777bf26b6fc53001672bfed7ab76, 0xca82c97dfa5947f0add4a2af9ca472c0, 0xb7fd9326363ff7cc34a5e5f171d83115, 0x04c723c31896059a071280e2eb27b275] ++
  [0x09832c1a1b6e5aa0523bd6b329e32f84, 0x53d100ed20fcb15b6acbbe394a4c58cf, 0xd0efaafb434d338545f9027f503c9fa8, 0x51a3408f929d38f5bcb6da2110fff3d2] ++
  [0xcd0c13ec5f974417c4a77e3d645d1973, 0x60814fdc222a908846eeb814de5e0bdb, 0xe0323a0a4906245cc2d3ac629195e479, 0xe7c8376d8dd54ea96c56f4ea657aae08] ++
  [0xba78252e1ca6b4c6e8dd741f4bbd8b8a, 0x703eb5664803f60e613557b986c11d9e, 0xe1f8981169d98e949b1e87e9ce5528df, 0x8ca1890dbfe6426841992d0fb054bb16]

/-- Substitution of a byte. -/
def aesSub (b : Byte) : Byte := BitVec.ofNat 8 (fldN (aesRows.getD (b.toNat / 16) 0) (8 * (15 - b.toNat % 16)) 8)

/-- A byte times x in the field of AES. -/
def aesDouble (b : Byte) : Byte := (b <<< 1) ^^^ (if b.getLsbD 7 then 0x1B else 0)

/-- Two byte strings added bit by bit. -/
def xorBlock (a b : List Byte) : List Byte := a.zipWith (fun x y => x ^^^ y) b

/-- Words of a key schedule after `n` more words: the words last first, `i` the number of the next. -/
def aesExpand : Nat → Nat → Byte → List (List Byte) → List (List Byte)
  | 0, _, _, ws => ws
  | n + 1, i, rcon, ws =>
    let last := ws.getD 0 []
    let old := ws.getD 7 []
    if i % 8 = 0 then
      let t := (last.drop 1 ++ last.take 1).map aesSub
      aesExpand n (i + 1) (aesDouble rcon) (xorBlock old (xorBlock t [rcon, 0, 0, 0]) :: ws)
    else if i % 8 = 4 then aesExpand n (i + 1) rcon (xorBlock old (last.map aesSub) :: ws)
    else aesExpand n (i + 1) rcon (xorBlock old last :: ws)

/-- The fifteen round keys of a 256-bit key, 16 B each. -/
def aesKeys (key : BitVec 256) : List (List Byte) :=
  let k := beBytes key.toNat 32
  let ws := (aesExpand 52 8 1 ((List.range 8).map fun i => sliceD 0 k (4 * i) 4).reverse).reverse
  (List.range 15).map fun r => (sliceD [] ws (4 * r) 4).flatten

/-- Rows shifted: byte r + 4c from column c + r. -/
def aesShift (b : List Byte) : List Byte :=
  (List.range 16).map fun i => b.getD (i % 4 + 4 * ((i / 4 + i % 4) % 4)) 0

/-- Columns mixed. -/
def aesMix (b : List Byte) : List Byte :=
  (List.range 16).map fun i =>
    let at_ := fun k => b.getD (i / 4 * 4 + (i + k) % 4) 0
    aesDouble (at_ 0) ^^^ (aesDouble (at_ 1) ^^^ at_ 1) ^^^ at_ 2 ^^^ at_ 3

/-- Rounds of AES with the keys left; the last one mixes nothing. -/
def aesRounds : List (List Byte) → List Byte → List Byte
  | [], b => b
  | [k], b => xorBlock (aesShift (b.map aesSub)) k
  | k :: ks, b => aesRounds ks (xorBlock (aesMix (aesShift (b.map aesSub))) k)

/-- One block of 16 B encrypted under round keys. -/
def aesBlock (keys : List (List Byte)) (b : List Byte) : List Byte :=
  aesRounds (keys.drop 1) (xorBlock b (keys.getD 0 []))

/-- A block in counter mode, counters from `i` on, over the bytes of `n` blocks. -/
def gcmCounter (keys : List (List Byte)) (iv : List Byte) : Nat → Nat → List Byte → List Byte
  | 0, _, _ => []
  | n + 1, i, m => xorBlock (m.take 16) (aesBlock keys (iv ++ beBytes i 4)) ++ gcmCounter keys iv n (i + 1) (m.drop 16)

/-- Product of two blocks in the field of GCM, bit 0 uppermost: the `n` lowest-numbered bits left of `x`, times `v`. -/
def gcmTimes : Nat → BitVec 128 → BitVec 128 → BitVec 128 → BitVec 128
  | 0, _, _, z => z
  | n + 1, x, v, z =>
    gcmTimes n x ((v >>> 1) ^^^ (if v.getLsbD 0 then 0xE1000000000000000000000000000000 else 0)) (if x.getLsbD n then z ^^^ v else z)

/-- GHASH over `n` blocks. -/
def ghash (h : BitVec 128) : Nat → BitVec 128 → List Byte → BitVec 128
  | 0, y, _ => y
  | n + 1, y, bs => ghash h n (gcmTimes 128 (y ^^^ BitVec.ofNat 128 (beAt bs 0 16)) h 0) (bs.drop 16)

/-- Bytes filled with zeros to whole blocks. -/
def padBlocks (bs : List Byte) : List Byte := bs ++ List.replicate ((16 - bs.length % 16) % 16) 0

/-- Tag over additional data and ciphertext. -/
def gcmTag (keys : List (List Byte)) (iv aad cipher : List Byte) : BitVec 128 :=
  let h := BitVec.ofNat 128 (beNat (aesBlock keys (List.replicate 16 0)))
  let all := padBlocks aad ++ padBlocks cipher ++ beBytes (8 * aad.length) 8 ++ beBytes (8 * cipher.length) 8
  ghash h (all.length / 16) 0 all ^^^ BitVec.ofNat 128 (beNat (aesBlock keys (iv ++ beBytes 1 4)))

/-- AES-256-GCM seal: key, nonce, additional data, plaintext; ciphertext and tag. -/
@[irreducible] def gcmSeal (key : BitVec 256) (nonce : BitVec 96) (aad text : List Byte) : List Byte × BitVec 128 :=
  let keys := aesKeys key
  let iv := beBytes nonce.toNat 12
  let c := gcmCounter keys iv ((text.length + 15) / 16) 2 text
  (c, gcmTag keys iv aad c)

/-- AES-256-GCM open: key, nonce, additional data, ciphertext, tag; the plaintext, none when the tag fails. -/
@[irreducible] def gcmOpen (key : BitVec 256) (nonce : BitVec 96) (aad cipher : List Byte) (tag : BitVec 128) : Option (List Byte) :=
  let keys := aesKeys key
  let iv := beBytes nonce.toNat 12
  if gcmTag keys iv aad cipher = tag then some (gcmCounter keys iv ((cipher.length + 15) / 16) 2 cipher) else none

/-! ## P-384 -/

/-- The field's prime. -/
def p384 : Nat := 2 ^ 384 - 2 ^ 128 - 2 ^ 96 + 2 ^ 32 - 1
/-- The group order n. -/
def n384 : Nat :=
  0xffffffffffffffffffffffffffffffffffffffffffffffffc7634d81f4372ddf581a0db248b0a77aecec196accc52973
/-- The curve's constant b. -/
def b384 : Nat :=
  0xb3312fa7e23ee7e4988e056be3f82d19181d9c6efe8141120314088f5013875ac656398d8a2ed19d2a85c8edd3ec2aef
/-- A point in projective coordinates x = X/Z², y = Y/Z³; Z = 0 the neutral point. -/
structure Point where
  x : Nat
  y : Nat
  z : Nat
  deriving DecidableEq, Repr

/-- The generator. -/
def g384 : Point :=
  ⟨0xaa87ca22be8b05378eb1c71ef320ad746e1d3b628ba79b9859f741e082542a385502f25dbf55296c3a545e3872760ab7,
   0x3617de4a96262c6f5d9e98bf9292dc29f8f41dbd289a147ce9da3113b5f0b8c00a60b1ce1d7e819d7a431d7c90ea0e5f, 1⟩

/-- Product, sum and difference modulo the prime. -/
def fMul (a b : Nat) : Nat := a * b % p384
def fAdd (a b : Nat) : Nat := (a + b) % p384
def fSub (a b : Nat) : Nat := (a + (p384 - b % p384)) % p384

/-- A power modulo m: the `k` lowest bits of the exponent, uppermost first. -/
def powMod (m a e : Nat) : Nat → Nat → Nat
  | 0, r => r
  | k + 1, r => powMod m a e k (if e.testBit k then r * r % m * a % m else r * r % m)

/-- Inverse modulo a prime of 384 bits. -/
def invMod (m a : Nat) : Nat := powMod m (a % m) (m - 2) 384 1

/-- Twice a point. -/
def Point.double (q : Point) : Point :=
  if q.z = 0 ∨ q.y = 0 then ⟨1, 1, 0⟩
  else
    let zz := fMul q.z q.z
    let m := fMul 3 (fMul (fSub q.x zz) (fAdd q.x zz))
    let yy := fMul q.y q.y
    let s := fMul 4 (fMul q.x yy)
    let x := fSub (fMul m m) (fMul 2 s)
    ⟨x, fSub (fMul m (fSub s x)) (fMul 8 (fMul yy yy)), fMul 2 (fMul q.y q.z)⟩

/-- Sum of two points. -/
def Point.add (a b : Point) : Point :=
  if a.z = 0 then b
  else if b.z = 0 then a
  else
    let za := fMul a.z a.z
    let zb := fMul b.z b.z
    let u := fMul a.x zb
    let s := fMul a.y (fMul b.z zb)
    let h := fSub (fMul b.x za) u
    let r := fSub (fMul b.y (fMul a.z za)) s
    if h = 0 then (if r = 0 then a.double else ⟨1, 1, 0⟩)
    else
      let hh := fMul h h
      let hhh := fMul h hh
      let v := fMul u hh
      let x := fSub (fSub (fMul r r) hhh) (fMul 2 v)
      ⟨x, fSub (fMul r (fSub v x)) (fMul s hhh), fMul h (fMul a.z b.z)⟩

/-- A multiple of a point: the `n` lowest bits of the factor, uppermost first. -/
def Point.times (q : Point) (k : Nat) : Nat → Point → Point
  | 0, r => r
  | n + 1, r => Point.times q k n (if k.testBit n then r.double.add q else r.double)

/-- A factor below 2^384 times a point. -/
def Point.mul (q : Point) (k : Nat) : Point := q.times k 384 ⟨1, 1, 0⟩

/-- The coordinates of a point. -/
def Point.affine (q : Point) : Nat × Nat :=
  let i := invMod p384 q.z
  let ii := fMul i i
  (fMul q.x ii, fMul q.y (fMul i ii))

/-- A public key as a point: X ‖ Y. -/
def keyPoint (k : BitVec 768) : Point := ⟨k.toNat / 2 ^ 384, k.toNat % 2 ^ 384, 1⟩

/-- Coordinates below the prime and on the curve. -/
def Point.onCurve (q : Point) : Bool :=
  decide (q.x < p384) && decide (q.y < p384) &&
    decide (fMul q.y q.y = fAdd (fSub (fMul q.x (fMul q.x q.x)) (fMul 3 q.x)) b384)

/-- A private key out of 64 B: v mod (n − 1) + 1 (Table 15.2). -/
def privateOf (v : List Byte) : Nat := beNat v % (n384 - 1) + 1

/-- The nonce of a signature out of a draw, reduced as a private key is (DESIGN CHOICE, assumption 6: the manual says no
more than that a signature is ECDSA P-384). -/
def nonceOf (w : BitVec 384) : Nat := w.toNat % (n384 - 1) + 1

/-- The public key X ‖ Y of a private key. -/
@[irreducible] def publicKey (d : Nat) : BitVec 768 :=
  let a := (g384.mul d).affine
  BitVec.ofNat 768 (a.1 * 2 ^ 384 + a.2)

/-- X coordinate of the ECDH result of a private key and a peer's public key. -/
@[irreducible] def ecdh (d : Nat) (peer : BitVec 768) : BitVec 384 := BitVec.ofNat 384 ((keyPoint peer).mul d).affine.1

/-- ECDSA signature r ‖ s of a message with SHA-384, with the nonce k. -/
@[irreducible] def ecdsaSign (d k : Nat) (m : List Byte) : BitVec 768 :=
  let r := (g384.mul k).affine.1 % n384
  let s := invMod n384 k * ((sha384 m).toNat + r * d) % n384
  BitVec.ofNat 768 (r * 2 ^ 384 + s)

/-- ECDSA verification with SHA-384: public key, message, signature r ‖ s. -/
@[irreducible] def ecdsaVerify (key : BitVec 768) (m : List Byte) (sig : BitVec 768) : Bool :=
  let r := sig.toNat / 2 ^ 384
  let s := sig.toNat % 2 ^ 384
  let q := keyPoint key
  if r = 0 ∨ n384 ≤ r ∨ s = 0 ∨ n384 ≤ s ∨ !q.onCurve then false
  else
    let w := invMod n384 s
    let x := (g384.mul ((sha384 m).toNat * w % n384)).add (q.mul (r * w % n384))
    decide (x.z ≠ 0) && decide (x.affine.1 % n384 = r)

end Sys2Proof.Machine
end

