-- ==== Sys2Proof/Machine/Image.lean ====
section
/-! DEFINITION. Tack image containers as the module reads them: header, directory, block table, measurement, and the
items of a module section and of a fold section (spec/14_folds_images_updates.md R307 to R314). -/

namespace Sys2Proof.Machine

/-! ## Container (R307, R308) -/

/-- Bytes of a container. -/
def Slot.get (s : Slot) (off len : Nat) : List Byte := cellsGet 0 s.bytes off len
/-- A little-endian number in a container. -/
def Slot.num (s : Slot) (off len : Nat) : Nat := leNat (s.get off len)
/-- Bytes of a range are all zero. -/
def Slot.zero (s : Slot) (off len : Nat) : Bool := s.bytes.all fun c => decide (c.1 < off ∨ off + len ≤ c.1)

/-- A directory entry (Table 14.4). -/
structure Item where
  type : Nat
  core : Nat
  flags : Nat
  pos : Nat
  len : Nat
  load : Nat
  deriving DecidableEq, Repr

/-- Kind. -/
def Slot.kind (s : Slot) : Nat := s.num 2 1
/-- Fold number of the header. -/
def Slot.fold (s : Slot) : Nat := s.num 3 1
/-- Image version. -/
def Slot.version (s : Slot) : Nat := s.num 8 8
/-- Fold release. -/
def Slot.release (s : Slot) : Nat := s.num 40 8
/-- Offset of directory entry k. -/
def Slot.entryAt (s : Slot) (k : Nat) : Nat := s.num 28 4 + 32 * k
/-- The directory. -/
def Slot.items (s : Slot) : List Item :=
  (List.range (s.num 24 4)).map fun k =>
    let e := s.entryAt k
    { type := s.num e 2, core := s.num (e + 2) 1, flags := s.num (e + 3) 1, pos := s.num (e + 4) 8,
      len := s.num (e + 12) 8, load := s.num (e + 20) 4 }
/-- Items of a type, in directory order. -/
def Slot.itemsOf (s : Slot) (type : Nat) : List Item := s.items.filter fun i => decide (i.type = type)

/-- Bytes of a block. -/
def blockBytes : Nat := 2 ^ 20
/-- Blocks of a container. -/
def Slot.blocks (s : Slot) : Nat := (s.len + blockBytes - 1) / blockBytes
/-- Digest of block k as the block table holds it. -/
def Slot.blockDigest (s : Slot) (k : Nat) : BitVec 384 := BitVec.ofNat 384 (beNat (s.get (s.num 32 4 + 48 * k) 48))
/-- A block matches its digest (R308). -/
def Slot.blockOk (s : Slot) (k : Nat) : Bool :=
  decide (sha384 (s.get (k * blockBytes) (min blockBytes (s.len - k * blockBytes))) = s.blockDigest k)
/-- The measurement that the module computes (R308). -/
def Slot.measure (s : Slot) : BitVec 384 :=
  sha384 (s.get 0 208 ++ s.get (s.num 28 4) (32 * s.num 24 4) ++ s.get (s.num 32 4) (48 * s.num 36 4))
/-- The measurement of the header. -/
def Slot.measured (s : Slot) : BitVec 384 := BitVec.ofNat 384 (beNat (s.get 208 48))
/-- Every check of R308. -/
def Slot.sound (s : Slot) : Bool := decide (s.measure = s.measured) && (List.range s.blocks).all s.blockOk

/-- Item types of a container kind (Table 14.5). -/
def itemTypes (kind : Nat) : List Nat :=
  if kind = 1 then [0x0101, 0x0102, 0x0103, 0x0104, 0x0105, 0x0106, 0x0107, 0x0108]
  else if kind = 2 then [1, 2, 3, 4, 5, 6, 7, 8, 9, 10, 11, 12]
  else if kind = 3 then [0x0201]
  else if kind = 4 then [0x0301]
  else []

/-- The container keeps Tables 14.3 to 14.5 (R307, R310). -/
def Slot.formOk (s : Slot) : Bool :=
  decide (s.num 0 2 = 1) && decide (1 ≤ s.kind ∧ s.kind ≤ 4) && (decide (s.kind = 2) || decide (s.fold = 0)) &&
    decide (s.fold < 32) && s.zero 4 4 && decide (s.num 16 8 = s.len) && decide (1 ≤ s.num 24 4 ∧ s.num 24 4 ≤ 65535) &&
    decide (s.num 28 4 % 32 = 0) && decide (s.num 32 4 % 64 = 0) && decide (s.num 36 4 = s.blocks) &&
    (decide (s.kind = 2) || s.zero 40 8) && (decide (s.kind = 3) || s.zero 48 2) && s.zero 50 14 && s.zero 80 128 &&
    decide (s.num 28 4 + 32 * s.num 24 4 ≤ s.len) && decide (s.num 32 4 + 48 * s.num 36 4 ≤ s.len) &&
    (List.range (s.num 24 4)).all fun k =>
      let e := s.entryAt k
      let i : Item := { type := s.num e 2, core := s.num (e + 2) 1, flags := s.num (e + 3) 1, pos := s.num (e + 4) 8,
                        len := s.num (e + 12) 8, load := s.num (e + 20) 4 }
      (itemTypes s.kind).contains i.type && decide (i.core < 32 ∨ i.core = 255) && decide (i.flags ≤ 1) &&
        decide (i.pos + i.len ≤ s.len) && (decide (i.flags = 1) || decide (i.load = 0)) && s.zero (e + 24) 8

/-! ## Reading items -/

/-- Positions of entries of a size in an item. -/
def Item.entries (i : Item) (size : Nat) : List Nat := (List.range (i.len / size)).map fun k => i.pos + size * k

/-- A field read from the first item of a type. -/
def Slot.first (s : Slot) (type : Nat) : Nat := match s.itemsOf type with
  | i :: _ => i.pos
  | [] => s.len

/-- Entries of a size in every item of a type. -/
def Slot.entriesOf (s : Slot) (type size : Nat) : List Nat := (s.itemsOf type).flatMap fun i => i.entries size

/-- 16 bytes as an address, first byte highest. -/
def Slot.address (s : Slot) (off : Nat) : BitVec 128 := BitVec.ofNat 128 (beNat (s.get off 16))
/-- 6 bytes as a MAC address. -/
def Slot.mac (s : Slot) (off : Nat) : BitVec 48 := BitVec.ofNat 48 (beNat (s.get off 6))
/-- 48 bytes as a digest. -/
def Slot.digest (s : Slot) (off : Nat) : BitVec 384 := BitVec.ofNat 384 (beNat (s.get off 48))
/-- A number of a logical core. -/
def Slot.coreAt (s : Slot) (off : Nat) : CoreNo := Fin.ofNat 32 (s.num off 1)

/-! ## Fold sections -/

/-- One pen record at a position, and the position after it (Table 14.7). -/
def Slot.penAt (s : Slot) (p : Nat) : PenRec × Nat :=
  let n := s.num (p + 8) 1
  ({ pen := s.num p 1, thermal := (s.num (p + 1) 1).testBit 1, degraded := (s.num (p + 1) 1).testBit 0,
     worst := s.num (p + 4) 4,
     cores := (List.range n).map fun j =>
       let e := p + 16 + 32 * j
       { core := s.coreAt e, matrix := s.num (e + 4) 4, currier := s.num (e + 8) 4, drover := s.num (e + 12) 4,
         tables := s.num (e + 16) 4, worst := s.num (e + 20) 4 } }, p + 16 + 32 * n)

/-- Pen records that follow one another. -/
def Slot.pensFrom (s : Slot) (p stop : Nat) : Nat → List PenRec
  | 0 => []
  | k + 1 => if p + 16 ≤ stop then (s.penAt p).1 :: s.pensFrom (s.penAt p).2 stop k else []

/-- Pens of the image. -/
def Slot.pens (s : Slot) : List PenRec := (s.itemsOf 2).flatMap fun i => s.pensFrom i.pos (i.pos + i.len) 8

/-- Regions of the image (Table 8.3). -/
def Slot.regions (s : Slot) : List Region :=
  (s.itemsOf 3).flatMap fun i => (i.entries 16).map fun e =>
    { core := Fin.ofNat 32 i.core, start := s.num e 4, len := s.num (e + 4) 4, dynamic := decide (s.num (e + 8) 1 = 1),
      fold := s.num (e + 9) 1 }

/-- Handle lists of a gate record from a position on, for the pens of its mask. -/
def Slot.handleLists (s : Slot) (p : Nat) : List Nat → List (Nat × List Handle) × Nat
  | [] => ([], p)
  | _ :: r =>
    let h := s.num (p + 1) 1
    let q := s.handleLists (p + 4 + 4 * h) r
    ((s.num p 1, (List.range h).map fun k =>
        let w := s.num (p + 4 + 4 * k) 4
        { bad := w.testBit 31, tag := BitVec.ofNat 8 (fldN w 23 8), buffer := BitVec.ofNat 23 w }) :: q.1, q.2)

/-- One gate record and the position after it (Tables 14.20 and 14.21). -/
def Slot.gateAt (s : Slot) (p : Nat) : GateRec × Nat :=
  let pens := (List.range 8).filter fun k => (s.num (p + 12) 1).testBit k
  let q := s.handleLists (p + 32) pens
  ({ core := s.coreAt p, gate := Fin.ofNat 64 (s.num (p + 1) 1), producer := s.coreAt (p + 3), size := s.num (p + 4) 4,
     standIn := s.num (p + 8) 4, lists := q.1 }, p + (q.2 - p + 31) / 32 * 32)

/-- Gate records that follow one another. -/
def Slot.gatesFrom (s : Slot) (p stop : Nat) : Nat → List GateRec
  | 0 => []
  | k + 1 =>
    if p + 32 ≤ stop then
      let r := s.gatesFrom (s.gateAt p).2 stop k
      if (s.num (p + 2) 1).testBit 0 then (s.gateAt p).1 :: r else r
    else []

/-- Gates of the image: the records in use. -/
def Slot.gates (s : Slot) : List GateRec := (s.itemsOf 4).flatMap fun i => s.gatesFrom i.pos (i.pos + i.len) 2048

/-- Rings of the image: entry k of an item of core q is ring k of Lq (DESIGN CHOICE, assumption 21). -/
def Slot.rings (s : Slot) : List RingRec :=
  (s.itemsOf 5).flatMap fun i => (List.range (i.len / 8)).map fun k =>
    { core := Fin.ofNat 32 i.core, ring := Fin.ofNat 32 k, reg := BitVec.ofNat 64 (s.num (i.pos + 8 * k) 8) }

/-- Pen selection rows (Table 14.22). -/
def Slot.rows (s : Slot) : List SelRow :=
  (s.entriesOf 6 24).map fun e =>
    { value := BitVec.ofNat 16 (s.num e 2), mask := BitVec.ofNat 16 (s.num (e + 2) 2),
      port := if (s.num (e + 4) 1).testBit 7 then some (Fin.ofNat 16 (s.num (e + 4) 1)) else none,
      field := s.num (e + 5) 1, degradation := BitVec.ofNat 3 (s.num (e + 6) 1), pen := s.num (e + 7) 1,
      dwell := s.num (e + 8) 1, header := BitVec.ofNat 64 (s.num (e + 16) 8) }

/-- Stream port records (Table 13.1). -/
def Slot.streams (s : Slot) : List StreamRec :=
  (s.entriesOf 7 80).map fun e =>
    let flags := s.num (e + 2) 1
    { imesk := decide (s.num e 1 = 2), port := Fin.ofNat 16 (s.num (e + 1) 1), band := flags.testBit 2,
      record := flags.testBit 1, ipv6 := flags.testBit 0, m := s.num (e + 3) 1,
      pixel := BitVec.ofNat 32 (s.num (e + 4) 4), width := s.num (e + 8) 2, bandWidth := s.num (e + 10) 2,
      lines := s.num (e + 12) 2, payload := s.num (e + 14) 2, linePort := BitVec.ofNat 16 (s.num (e + 16) 2),
      processPort := BitVec.ofNat 16 (s.num (e + 18) 2), black := s.num (e + 20) 2, g := s.num (e + 22) 1,
      core := s.coreAt (e + 23), maxPackets := s.num (e + 24) 2, period := s.num (e + 28) 4,
      offset := s.num (e + 32) 4, base := s.num (e + 36) 4, src := s.address (e + 40), local_ := s.address (e + 56),
      mac := s.mac (e + 72) }

/-- Result frames (Table 14.23). -/
def Slot.frames (s : Slot) : List FrameRec :=
  (s.entriesOf 8 8).map fun e => { frame := s.num e 1, port := s.num (e + 1) 1, len := s.num (e + 2) 2 }

/-- Slice table (Table 12.3). -/
def Slot.slices (s : Slot) : List Slice :=
  (s.entriesOf 9 32).map fun e =>
    let k := s.num (e + 16) 1
    let o := s.num (e + 17) 1
    { first := s.num e 8, last := s.num (e + 8) 8, kind := if k = 2 then .mail else if k = 3 then .exported else .own,
      canRead := o.testBit 3, canWrite := o.testBit 2, canGather := o.testBit 1, canPost := o.testBit 0,
      peer := BitVec.ofNat 16 (s.num (e + 18) 2), deferral := s.num (e + 20) 1 }

/-- Flow records: the items of type 0x000A of the whole fold (Table 12.5; DESIGN CHOICE, assumption 21). -/
def Slot.flows (s : Slot) : List Flow :=
  ((s.itemsOf 10).filter fun i => decide (i.core = 255)).flatMap fun i => (i.entries 16).map fun e =>
    { control := decide (s.num e 1 = 2), rein := s.num (e + 1) 1, sender := s.coreAt (e + 2),
      target := BitVec.ofNat 12 (s.num (e + 4) 2), queue := s.num (e + 6) 4, delay := s.num (e + 10) 4 }

/-- Landing lists: the items of type 0x000A of a logical core (R258; DESIGN CHOICE, assumption 21). -/
def Slot.landings (s : Slot) : List Landing :=
  ((s.itemsOf 10).filter fun i => decide (i.core < 32)).flatMap fun i => (i.entries 16).map fun e =>
    { core := Fin.ofNat 32 i.core, type := BitVec.ofNat 4 (s.num e 1 / 16), units := BitVec.ofNat 4 (s.num e 1),
      tag := BitVec.ofNat 16 (s.num (e + 1) 2), flow := BitVec.ofNat 6 (s.num (e + 3) 1), stamp := fldN (s.num (e + 4) 4) 0 28,
      addr := BitVec.ofNat 64 (s.num (e + 8) 8) }

/-- Port indices of a list of up to four, 0xFF for none. -/
def Slot.portList (s : Slot) (off : Nat) : List Nat :=
  ((List.range 4).map fun k => s.num (off + k) 1).filter fun x => decide (x ≠ 255)

/-- Expected topology (Table 14.24). -/
def Slot.topology (s : Slot) : List Topo :=
  (s.entriesOf 11 16).map fun e =>
    { member := BitVec.ofNat 12 (s.num e 2), rein := s.num (e + 2) 1, ports := s.portList (e + 4),
      peer := BitVec.ofNat 12 (s.num (e + 8) 2), peerPorts := s.portList (e + 12) }

/-- Static data blocks. -/
def Slot.statics (s : Slot) : List StaticBlock :=
  (s.items.filter fun i => decide (i.flags = 1)).map fun i =>
    { core := Fin.ofNat 32 i.core, at_ := i.pos, len := i.len, load := i.load }

/-! ### Static data of an image (R326) -/

/-- Byte of the static data of an image at an offset of a logical core; 0 where the image gives none. -/
def Slot.staticNum (s : Slot) (i : FoldImage) (l : CoreNo) (off len : Nat) : Nat :=
  match i.statics.find? fun b => decide (b.core = l) && decide (b.load ≤ off ∧ off < b.load + b.len) with
  | some b => s.num (b.at_ + (off - b.load)) len
  | none => 0

/-- The image gives static data at an offset. -/
def FoldImage.hasStatic (i : FoldImage) (l : CoreNo) (off : Nat) : Bool :=
  i.statics.any fun b => decide (b.core = l) && decide (b.load ≤ off ∧ off < b.load + b.len)

/-! ### Tensors that an image names (R58, R71, Tables 5.13, 8.9, 9.8, 9.10, 9.12) -/

/-- Words of a program up to its last opcode. -/
def Slot.wordsTo (s : Slot) (i : FoldImage) (l : CoreNo) (stop off : Nat) : Nat → List Word128
  | 0 => []
  | n + 1 =>
    let w : Word128 := BitVec.ofNat 128 (s.staticNum i l off 16)
    if !i.hasStatic l off then [] else if opcodeOf w = stop then [w] else w :: s.wordsTo i l stop (off + 16) n

/-- Words of a stream, those of its branches and of the threads of its fallback sections included. -/
def Slot.programWords (s : Slot) (i : FoldImage) (l : CoreNo) (off : Nat) : List Word128 :=
  let ws := s.wordsTo i l 0xC6 off (2 ^ 27)
  ws ++ ws.flatMap fun w => if opcodeOf w = 0x58 then
      (List.range 8).flatMap fun j => s.wordsTo i l 0x5A (s.staticNum i l (fld w 96 32 + 4 * j) 4) (2 ^ 27)
    else []

/-- The quantiser record that a word names: READ and STRAY, and a currier operation that writes UQ8. -/
def wordRecord (w : Word128) : List Nat :=
  let op := opcodeOf w
  if op = 0x05 then (if fld w 84 4 = 6 then [fld w 40 31] else [])
  else if op = 0x56 then [fld w 29 31]
  else if 0x40 ≤ op ∧ op ≤ 0x55 ∧ ¬ (0x4F ≤ op ∧ op ≤ 0x51) ∧ curFmt w = .uq8 then [curImm w]
  else []

/-- Descriptors of a chain, from its context to its end. -/
def Slot.chainAt (s : Slot) (i : FoldImage) (l : CoreNo) (off : Nat) : Nat → List Word256
  | 0 => []
  | n + 1 =>
    let d : Word256 := BitVec.ofNat 256 (s.staticNum i l off 32)
    if dKind d = 0 ∨ !i.hasStatic l off then [] else d :: s.chainAt i l (off + 32) n

/-- Source bases that the WLOAD words of a program give to a stream, in every iteration of their loops. -/
def wloadBases (ws : List Word128) (d i : Nat) : List Nat :=
  ws.flatMap fun w =>
    if opcodeOf w = 0x06 ∧ fld w 94 2 = d ∧ fld w 91 3 = i then
      let trips := if bitOf w 31 then
          ((ws.filter fun v => decide (opcodeOf v = 0xC4 ∧ fld v 98 2 = fld w 29 2)).map fun v => fld v 112 16).foldl max 1 else 1
      (List.range trips).map fun k => wrapN ((fld w 96 32 : Int) + (k : Int) * fldS w 16 11 * 256) 32
    else []

/-- Records that the trailers of the UQ8 weight tiles of a chain name (Table 5.13): 0 names none. -/
def Slot.trailerRecords (s : Slot) (i : FoldImage) (l : CoreNo) (descs : List Word256) (bases : List Nat) : List Nat :=
  let lead := match descs with
    | d :: _ => dSrc d
    | [] => 0
  descs.flatMap fun d =>
    if dDstClass d = 4 ∧ dDstFmt d = .uq8 ∧ dKind d = 1 ∧ dSrcClass d = 1 then
      (lead :: bases).flatMap fun b => (List.range (dUnits d / 8)).filterMap fun k =>
        let t := wrapN ((dSrc d : Int) + (b : Int) - lead + dS2Src d * (8 * k : Nat) + 32768) 32
        let r := s.staticNum i l (t + 128) 4
        if i.hasStatic l t ∧ r ≠ 0 then some r else none
    else []

/-- Records that the chains of a drover program name, in their contexts and in the trailers of their weight tiles. -/
def Slot.chainRecords (s : Slot) (i : FoldImage) (l : CoreNo) (matrix drover : List Word128) : List Nat :=
  drover.flatMap fun w =>
    if opcodeOf w = 0x80 then
      match s.chainAt i l (fld w 96 32) (2 ^ 26) with
      | x :: ds => (if xHasRecord x then [xRecord x] else []) ++ s.trailerRecords i l ds (wloadBases matrix (fld w 94 2) (fld w 91 3))
      | [] => []
    else []

/-- Every tensor that the pens of an image name: pen, logical core, place of its quantiser record. -/
def Slot.tensorsOf (s : Slot) (i : FoldImage) : List (Nat × CoreNo × Nat) :=
  (i.pens.flatMap fun p => p.cores.flatMap fun c =>
    let m := s.programWords i c.core c.matrix
    let k := s.programWords i c.core c.currier
    let d := s.programWords i c.core c.drover
    ((m ++ k).flatMap wordRecord ++ s.chainRecords i c.core m d).map fun r => (p.pen, c.core, r)).dedup

/-- The fold section that a container holds, but for the tensors that its programs name. -/
def Slot.items0 (s : Slot) : FoldImage :=
  let h := s.first 1
  { version := s.version, release := s.release, measurement := s.measured, tag := BitVec.ofNat 16 (s.num h 2),
    degraded := s.num (h + 3) 1, thermal := s.num (h + 4) 1, members := s.num (h + 5) 1, confirm := s.num (h + 8) 4,
    mailBudget := s.num (h + 12) 4, shepherd := BitVec.ofNat 12 (s.num (h + 16) 2),
    deputy := BitVec.ofNat 12 (s.num (h + 18) 2), selector := BitVec.ofNat 12 (s.num (h + 20) 2), pens := s.pens,
    regions := s.regions, gates := s.gates, rings := s.rings, rows := s.rows, streams := s.streams,
    frames := s.frames, slices := s.slices, flows := s.flows, landings := s.landings, topology := s.topology,
    statics := s.statics, tensors := [] }

/-- The fold section that a container holds. -/
def Slot.image (s : Slot) : FoldImage := { s.items0 with tensors := s.tensorsOf s.items0 }

/-! ## Module sections -/

/-- Allotments (Table 14.1). -/
def Slot.allots (s : Slot) : List Allot :=
  ((s.entriesOf 0x0106 32).filter fun e => (s.num (e + 1) 1).testBit 0).map fun e =>
    { fold := Fin.ofNat 32 (s.num e 1), tag := BitVec.ofNat 16 (s.num (e + 2) 2),
      cores := BitVec.ofNat 32 (s.num (e + 4) 4) |||
        (if s.num (e + 8) 1 = 255 then 0 else BitVec.ofNat 32 (2 ^ (s.num (e + 8) 1))),
      shared := if s.num (e + 8) 1 = 255 then none else some (s.coreAt (e + 8)), second := decide (s.num (e + 9) 1 = 1),
      boundary := s.num (e + 12) 4, streams := BitVec.ofNat 16 (s.num (e + 16) 2), gate0 := s.num (e + 18) 1,
      gateN := s.num (e + 19) 1, slot0 := s.num (e + 20) 1, slotN := s.num (e + 21) 1, ring0 := s.num (e + 22) 1,
      ringN := s.num (e + 23) 1, table0 := s.num (e + 24) 1, tableN := s.num (e + 25) 1, steps := s.num (e + 26) 2,
      drovers := BitVec.ofNat 4 (s.num (e + 28) 1) }

/-- Rein definitions (Table 14.30). -/
def Slot.reins (s : Slot) : List Rein :=
  (s.entriesOf 0x0104 8).map fun e =>
    { rein := s.num e 1, ports := s.portList (e + 2), peer := BitVec.ofNat 12 (s.num (e + 6) 2) }

/-- Slot plans: for each rein in the order of the definitions its sending and then its receiving direction, 1,024
entries of 16 bits each (Table 12.4; DESIGN CHOICE, assumption 21). -/
def Slot.plan (s : Slot) : List PlanSlot :=
  let base := s.first 0x0105
  s.reins.zipIdx.flatMap fun r => [false, true].flatMap fun d => (List.range 1024).filterMap fun k =>
    let w := s.num (base + (r.2 * 2 + b2n d) * 2048 + 2 * k) 2
    if w.testBit 15 then
      some { rein := r.1.rein, receive := d, slot := k, fold := Fin.ofNat 32 (fldN w 10 5), flow := BitVec.ofNat 6 (fldN w 4 6) }
    else none

/-- A plant port record (Table 14.28). -/
def Slot.plantAt (s : Slot) (e : Nat) : PlantRec :=
  { ipv6 := (s.num e 1).testBit 1, enabled := (s.num e 1).testBit 0, mac := s.mac (e + 2), local_ := s.address (e + 8),
    udp := BitVec.ofNat 16 (s.num (e + 24) 2), resultDst := s.address (e + 32),
    resultUdp := BitVec.ofNat 16 (s.num (e + 48) 2), telemetryUdp := BitVec.ofNat 16 (s.num (e + 50) 2),
    exportUdp := BitVec.ofNat 16 (s.num (e + 52) 2), telemetryDst := s.address (e + 64),
    exportDst := s.address (e + 80), feedSrc := s.address (e + 96),
    peers := (List.range 4).map fun k => s.address (e + 112 + 16 * k) }

/-- A position rounded up to 32 bytes of its item. -/
def pad32 (base p : Nat) : Nat := base + (p - base + 31) / 32 * 32

/-- A drain order of n entries (Table 14.29). -/
def Slot.drainAt (s : Slot) (p n : Nat) : List (FoldNo × Nat) :=
  (List.range n).map fun k =>
    let w := s.num (p + 2 * k) 2
    (Fin.ofNat 32 (fldN w 11 5), fldN w 5 6)

/-- Power and thermal settings (Table 17.6). -/
def Slot.power (s : Slot) : PowerSet :=
  let e := s.first 0x0108
  { cap := s.num e 2, entry := s.num (e + 2) 1, exit := s.num (e + 3) 1, exitCount := s.num (e + 4) 4,
    lead := s.num (e + 8) 4, horizon := s.num (e + 12) 1, warming := (s.num (e + 13) 1).testBit 0,
    coolant := s.num (e + 14) 1 }

/-- The module section that a container holds. -/
def Slot.moduleSection (s : Slot) : ModuleSection :=
  let h := s.first 0x0101
  let c := s.first 0x0107
  let n0 := s.num (c + 10) 2
  let n1 := s.num (c + 12) 2
  let d0 := c + 64 + 512
  let d1 := pad32 c (d0 + 2 * n0)
  let t := pad32 c (d1 + 2 * n1)
  let hop := s.first 0x0103
  { version := s.version, measurement := s.measured, period := s.num h 4, bellwether := decide (s.num (h + 4) 1 = 1),
    n := s.num (h + 5) 1, spare := (s.num (h + 6) 1).testBit 0,
    startCounts := (List.range 32).map fun q => s.num (h + 16 + q) 1,
    placement := (s.entriesOf 0x0102 64).map fun e => (BitVec.ofNat 12 (s.num e 2), s.digest (e + 16)),
    nextHop := (List.range 4096).map fun k =>
      let b := s.num (hop + k) 1
      if b.testBit 7 then some (fldN b 0 4) else none,
    reins := s.reins, plan := s.plan, allots := s.allots,
    ptpPort := if s.num c 1 = 0 then some 0 else if s.num c 1 = 1 then some 1 else none,
    ptpDomain := BitVec.ofNat 8 (s.num (c + 1) 1), telemetryEvery := s.num (c + 4) 2,
    telemetryPorts := BitVec.ofNat 2 (s.num (c + 6) 1),
    telemetryList := (List.range (s.num (c + 8) 2)).map fun k => BitVec.ofNat 32 (s.num (t + 4 * k) 4),
    plant0 := s.plantAt (c + 64), plant1 := s.plantAt (c + 320), drain0 := s.drainAt d0 n0, drain1 := s.drainAt d1 n1,
    power := s.power }

end Sys2Proof.Machine
end

