-- ==== Sys2Proof/Machine/Replay.lean ====
section
/-! DEFINITION. Replay records: what the module writes for a recorded fold, and the stream that waits for export
(spec/10_determinism_and_spares.md R218). -/

namespace Sys2Proof.Machine

/-- A mail message as bytes (Table 12.8): header and payload. -/
def mailBytes (m : MailMsg) : List Byte :=
  [m.kind, 0x01, m.hops, BitVec.ofNat 8 (b2n m.bad)] ++ beBytes m.srcModule.toNat 2 ++ beBytes m.srcTag.toNat 2 ++
    beBytes m.dstModule.toNat 2 ++ beBytes m.dstTag.toNat 2 ++ beBytes m.epoch.toNat 2 ++ beBytes m.payload.length 2 ++
    beBytes m.number.toNat 4 ++ beBytes m.reference.toNat 4 ++ beBytes m.addr.toNat 8 ++ m.payload

/-- Hall address, mark and payload of a mail message read from its bytes. -/
def readMailWrite (b : List Byte) : Word64 × Bool × List Byte :=
  (BitVec.ofNat 64 (beAt b 24 8), (b.getD 3 0).getLsbD 0, (b.drop 32).take (beAt b 14 2))

/-- A plant port counter of Table 20.16 raised. -/
def State.countPl (s : State) (p : PlantPort) (k : Fin 6) (n : Nat) : State :=
  { s with pl := vmod s.pl p fun x => { x with ctrs := vmod x.ctrs k fun c => c.add n } }

/-- The plant port record of a port. -/
def State.plantRec (s : State) (p : PlantPort) : Option PlantRec :=
  s.sec?.map fun m => if p = 0 then m.plant0 else m.plant1

/-- The port is enabled by the module section and its link is up. -/
def State.plantOpen (s : State) (p : PlantPort) : Bool :=
  s.pl[p].up && (match s.plantRec p with
    | some r => r.enabled
    | none => false)

/-- A fold is recorded when one of its stream port records says so (R218). -/
def State.recorded (s : State) (f : FoldNo) : Bool := match s.folds[f].image with
  | some i => i.streams.any fun r => r.record
  | none => false

/-- A replay record (Table 10.6). -/
def replayRecord (kind port fold tick arrival : Nat) (payload : List Byte) : List Byte :=
  beBytes kind 1 ++ beBytes port 1 ++ beBytes fold 1 ++ [0] ++ beBytes tick 8 ++ beBytes arrival 4 ++
    beBytes payload.length 4 ++ List.replicate 4 0 ++ payload

/-- A record put into the stream of a fold: with no place for it the whole record is dropped, and a gap record that
counts the records dropped goes ahead of the next one that finds a place (DESIGN CHOICE, assumption 30). -/
def Replay.push (r : Replay) (fold tick : Nat) (bytes : List Byte) : Replay × Nat :=
  let gap := if 0 < r.dropped then replayRecord 5 0xFF fold tick 0 (beBytes r.dropped 8) else []
  if r.out.length + gap.length + bytes.length ≤ Config.replayBuffer then
    ({ r with out := r.out ++ gap ++ bytes, dropped := 0 }, 0)
  else ({ r with dropped := r.dropped + 1 }, 1)

/-- A replay record of a recorded fold (R218); a fold in replay mode records nothing (R300). -/
def State.record (s : State) (f : FoldNo) (kind port tick arrival : Nat) (payload : List Byte) : State :=
  if s.recorded f && !s.folds[f].replay.on then
    let fold := if kind = 1 ∨ kind = 2 then 0xFF else f.val
    let r := s.folds[f].replay.push f.val tick (replayRecord kind port fold tick arrival payload)
    (s.onFold f fun x => { x with replay := r.1 }).countPl (if s.plantOpen 0 then 0 else 1) 4 r.2
  else s

/-! ## The replay of a fold (R220) -/

/-- The recorded tick whose records the running tick uses. -/
def Fold.replayTick (x : Fold) (tick : Nat) : Nat := tick - x.replay.delta

/-- Records of the tick that a fold in replay mode runs. -/
def State.replayRecs (s : State) (f : FoldNo) : List FeedRec :=
  let x := s.folds[f]
  x.replay.queue.filter fun r => decide (r.tick = x.replayTick s.tick.number.toNat)

end Sys2Proof.Machine
end

