-- ==== Sys2Proof/Machine/Hall.lean ====
section
/-! DEFINITION. Hall memory as the receiving module meets it: scheduled packets at their stamps, the landing lists,
and mail for this module or through it (spec/12_hall_memory.md). -/

namespace Sys2Proof.Machine

/-! ## Scheduled packets (R255 to R262) -/

/-- A scheduled packet with its landing cycle and the module that sent it. -/
abbrev HeldPacket := Nat × BitVec 12 × SchedPacket

/-- The module at the far end of a fabric port. -/
def State.peerOf (s : State) (p : FabricPort) : BitVec 12 := match s.fab[p].peer with
  | some h => h.hallModule
  | none => 0

/-- A packet's last byte reaches a port (R255, R259): it is held until its stamp; later than 48 cycles before the
stamp it is late (DESIGN CHOICE, assumption 41). -/
def State.schedArrive (s : State) (p : FabricPort) (k : SchedPacket) : State :=
  let land := s.unstamp k.stamp
  if land < s.now + 48 then
    (match s.foldByTag k.tag with
     | some f => s.packetFault f (hCore k.addr) 13 0
     | none => s)
  else { s with hall := { s.hall with held := s.hall.held ++ [(land, s.peerOf p, k)] } }

/-- The landing list entry that a packet meets (R258): same core, type, length, tag, flow, stamp and address, not yet
met in this tick. A not-served answer meets the entry of the response that it stands for. -/
def State.entryOf (s : State) (f : FoldNo) (k : SchedPacket) : Option Nat :=
  match s.folds[f].image with
  | none => none
  | some i => (i.landings.zipIdx.find? fun x =>
      let e := x.1
      decide (e.core = hCore k.addr) &&
        ((decide (e.type = k.type) && decide (e.units = k.units)) ||
          (decide (k.type = 5) && decide (e.type = 3 ∨ e.type = 5))) &&
        decide (e.tag = k.tag) && decide (e.flow = k.flow) && decide (e.stamp = fld k.stamp 0 28) &&
        decide (e.addr = k.addr) && !s.folds[f].landed.contains x.2).map fun x => x.2

/-- The fold is hurdled or fenced (Table 16.2). -/
def State.fencedOff (s : State) (f : FoldNo) : Bool := decide (s.folds[f].run = .hurdled ∨ s.folds[f].run = .fenced)

/-- The first packet of a type whose stamp has come and that meets an entry, in order of landing cycle, then of lower module
number (Table 1.6); for a hurdled fold only read requests land, which are answered not served (Table 16.2). -/
def State.dueSched (s : State) (type : BitVec 4) : Option (HeldPacket × FoldNo × Nat) :=
  (sortKey (fun h : HeldPacket => h.1 * 2 ^ 12 + h.2.1.toNat) s.hall.held).findSome? fun h =>
    if h.1 ≤ s.now ∧ h.2.2.type = type then
      ((s.foldByTag h.2.2.tag).filter fun f => !s.fencedOff f || decide (type = 2)).bind fun f =>
        (s.entryOf f h.2.2).map fun n => (h, f, n)
    else none

/-- A held packet taken away. -/
def State.dropHeld (s : State) (h : HeldPacket) : State :=
  { s with hall := { s.hall with held := s.hall.held.erase h } }

/-- A landing list entry met. -/
def State.meetEntry (s : State) (f : FoldNo) (n : Nat) : State :=
  s.onFold f fun x => { x with landed := n :: x.landed }

/-- A packet carries the epoch that its target holds (R271). -/
def State.currentEpoch (s : State) (f : FoldNo) (k : SchedPacket) : Bool :=
  decide (k.epoch = s.folds[f].epochs[hCore k.addr])

/-- A stale packet (R271): counted, and answered by mail unless its core is absent with an epoch not yet changed. -/
def State.staleSched (s : State) (f : FoldNo) (h : HeldPacket) : State :=
  let s := s.packetFault f (hCore h.2.2.addr) 11 1
  if (s.phys (hCore h.2.2.addr)).isNone then s
  else s.sendMail (some f) 5 false h.2.1 h.2.2.tag s.folds[f].epochs[hCore h.2.2.addr] 0 h.2.2.addr []

/-- The stale check of R271 around the landing of a packet. -/
def State.landSched (s : State) (type : BitVec 4) (act : State → HeldPacket → FoldNo → State) : State :=
  match s.dueSched type with
  | none => s
  | some (h, f, n) =>
    let s := s.dropHeld h
    if s.currentEpoch f h.2.2 && ((s.phys (hCore h.2.2.addr)).isSome || decide (type = 2)) then
      act (s.meetEntry f n) h f
    else s.staleSched f h

/-- Payload bytes with the marks of their words. -/
def packetBytes (k : SchedPacket) : List MByte :=
  k.payload.zipIdx.map fun b => (b.1, bitOf k.marks (b.2 / 32))

/-- Bytes written into accumulator space (R105, R106, R122, R124): entries clear their side entries, set their row's
operation count and its cleared bit; side entries are written as they are, those of the odd slot of a pair discarded. -/
def Core.putAccSpace (c : Core) (now off : Nat) (bs : List MByte) : Core × List (Nat × Nat) :=
  if off < 0x800000 then
    c.rowWrite now (off / 0x20000) (off / 1024 % 128) (off / 8 % 128) ((List.range (bs.length / 8)).map fun j =>
      let eb := (bs.drop (8 * j)).take 8
      (BitVec.ofNat 64 (leNat (eb.map fun b => b.1)), 0, eb.any fun b => b.2))
  else
    let a := bs.zipIdx.foldl (fun (a : Accum) b =>
      let x := off - 0x800000 + b.2
      let slot := x / 0x2000
      let row := x / 64 % 128
      let n := 2 * (x % 64)
      let lo : BitVec 4 := BitVec.ofNat 4 b.1.1.toNat
      let hi : BitVec 4 := BitVec.ofNat 4 (b.1.1.toNat / 16)
      let m := fun (v : BitVec 4) => if b.1.2 then sideMark v else v
      if a.home slot = slot then
        let a := a.seen slot row
        (a.setSide slot row n (m lo)).setSide slot row (n + 1) (m hi)
      else a) c.acc
    ({ c with acc := a }, [])

/-- One 256 B beat of a packet stored with a write beat of the receiving core (R158, R160): beyond the 8 of the cycle it is
discarded and counted. -/
def State.packetBeat (s : State) (p : CoreNo) (f : FoldNo) (l : CoreNo) (off : Nat) (bs : List MByte) : State :=
  if 8 ≤ s.cores[p].writesAt s.now then s.events p [(0x39, 1)] f
  else
    let s := s.onCore p fun c => c.takeWrites s.now s.now 1
    ((s.storeAt f l s.now off bs []).1).events p [(0x07, 1)] f

/-- A write, or its substitute, lands (R257, R258): into regions of the fold, or into accumulator rows; towards an
absent core it is discarded (Table 10.3). It is one program beat at the core's endpoint (R208): beyond the limit it lands as
zeros marked bad. -/
def State.writeAt (s : State) (f : FoldNo) (addr : Word64) (bs : List MByte) : State :=
  let l := hCore addr
  match s.phys l with
  | none => s
  | some p =>
    if !addrOk s.declared addr bs.length .write false then s.events p [(0x22, 1)] f
    else if s.absent l then s
    else
      let recv := s.cores[p].recvBeat s.now
      let bs := if recv.2 then bs else zerosBad bs.length
      let s := ({ s with cores := s.cores.set p recv.1 }).events p [(0x39, b2n (!recv.2))] f
      if hSpace addr = 1 then
        (if hOff addr + bs.length ≤ 0x880000 then s.onCoreE p (fun c => c.putAccSpace s.now (hOff addr) bs) f
         else s.events p [(0x22, 1)] f)
      else (rowPieces (hOff addr) bs.length).foldl (fun (s : State) y =>
        s.packetBeat p f l y.1 ((bs.drop (y.1 - hOff addr)).take y.2)) s

/-- SCHED_WRITE. -/
def State.schedWriteOp (s : State) : State :=
  s.landSched 1 fun s h f => s.writeAt f h.2.2.addr (packetBytes h.2.2)

/-- A read request lands (R250, R261, R262): into the gather service of the serving core, or it is answered not
served when that core is absent, the offset lies outside the fold's regions, or the core has taken its 1,920 × P rows of the
tick, in order of arrival (R34). -/
def State.requestAt (s : State) (h : HeldPacket) (f : FoldNo) : State :=
  let k := h.2.2
  let l := hCore k.addr
  let ret : Word64 := BitVec.ofNat 64 (beAt k.payload 0 8)
  let stamp : BitVec 32 := BitVec.ofNat 32 (beAt k.payload 8 4)
  let len := beAt k.payload 12 2
  match s.flowOf f false l (hModule ret) with
  | none => s
  | some fl =>
    match s.phys l with
    | none => (s.sendSched f fl 5 ret [] s.now (some stamp)).countFold f 15 1
    | some p =>
      if s.absent l ∨ s.fencedOff f then (s.sendSched f fl 5 ret [] s.now (some stamp)).countFold f 15 1
      else if !addrOk s.declared k.addr len .read false then
        (s.sendSched f fl 3 ret (zerosBad len) s.now (some stamp)).events p [(0x22, 1)] f
      else if hSpace k.addr = 0 && !s.inRegions f l (hOff k.addr) len then
        (s.sendSched f fl 5 ret [] s.now (some stamp)).countFold f 15 1
      else
        let taken := s.takeRow p
        if !taken.2 then (taken.1.sendSched f fl 5 ret [] s.now (some stamp)).countFold f 15 1
        else taken.1.onCore p fun c =>
        { c with gather := c.gather ++ [(s.unstamp stamp - fl.2.lambda - 58, k, s.now)] }

/-- SCHED_READ_REQUEST. -/
def State.schedRequestOp (s : State) : State := s.landSched 2 fun s h f => s.requestAt h f

/-- The units that wait for a response at a destination: core, drover, stream and position. -/
def State.waitingAt (s : State) (f : FoldNo) (addr : Word64) : Option (CoreNo × DroverNo × DStreamNo × Nat) :=
  s.activeStreams.findSome? fun x =>
    let q := s.ds x.1 x.2.2.1 x.2.2.2
    if q.fold = f then
      (q.units.findIdx? fun u => u.from_.isSome && decide (u.dst = hCore addr) && decide (u.place = hOff addr) &&
        (match u.beats.head? with
         | some b => b.data.isEmpty
         | none => false)).map fun n => (x.1, x.2.2.1, x.2.2.2, n)
    else none

/-- A response, or zeros marked bad in its place, reaches the unit that asked for it. -/
def State.respondAt (s : State) (f : FoldNo) (addr : Word64) (bs : List MByte) : State :=
  match s.waitingAt f addr with
  | none => s
  | some (p, d, i, n) =>
    let x := s.ds p d i
    s.setDs p d i { x with units := x.units.modify n fun u =>
      { u with beats := u.beats.modifyHead fun b => { b with data := bs.take b.len } } }

/-- SCHED_READ_RESPONSE. -/
def State.schedResponseOp (s : State) : State :=
  s.landSched 3 fun s h f => s.respondAt f h.2.2.addr (packetBytes h.2.2)

/-- SCHED_NOT_SERVED: zeros marked bad land as the response, and the requester counts it (R262) (DEDUCED, assumption 25). -/
def State.schedNotServedOp (s : State) : State :=
  s.landSched 5 fun s h f => (s.respondAt f h.2.2.addr (zerosBad 256)).packetFault f (hCore h.2.2.addr) 16 3

/-- A handle lands in a gate (R257): takeable 2 cycles after its stamp; a full gate overflows (R176). -/
def State.postAt (s : State) (f : FoldNo) (addr : Word64) (h : Handle) (stamp : Nat) : State :=
  match s.phys (hCore addr) with
  | none => s
  | some p =>
    if !addrOk s.declared addr 4 .post false then s.events p [(0x22, 1)] f
    else if s.absent (hCore addr) then s
    else
      let g : GateNo := Fin.ofNat 64 (hOff addr / 4)
      if s.cores[p].gates[g].full s.now then s.events p [(0x38, 1)] f
      else s.onCore p fun c => c.onGate g fun q => q.put h (stamp + 2)

/-- SCHED_POST. -/
def State.schedPostOp (s : State) : State :=
  s.landSched 4 fun s h f =>
    let x := Handle.ofWord (BitVec.ofNat 32 (beAt h.2.2.payload 0 4))
    s.postAt f h.2.2.addr { x with bad := x.bad || bitOf h.2.2.marks 0 } h.1

/-- Substitute of a landing list entry (R258). -/
def State.substitute (s : State) (f : FoldNo) (e : Landing) : State :=
  let n := 32 * e.units.toNat
  if e.type = 1 then s.writeAt f e.addr (zerosBad n)
  else if e.type = 3 ∨ e.type = 5 then s.respondAt f e.addr (zerosBad 256)
  else if e.type = 4 then
    let g : GateNo := Fin.ofNat 64 (hOff e.addr / 4)
    let standIn := match s.folds[f].image with
      | some i => (match i.gates.find? fun r => decide (r.core = e.core) && decide (r.gate = g) with
        | some r => r.standIn
        | none => 0)
      | none => 0
    s.postAt f e.addr { bad := true, tag := 0, buffer := BitVec.ofNat 23 standIn } (s.tick.instant + e.stamp)
  else s

/-- A landing list entry of a core whose stamp has come with no current packet to meet it: fold, position, entry. -/
def State.missing (s : State) (l : CoreNo) : Option (FoldNo × Nat × Landing) :=
  (List.finRange 32).findSome? fun f => match s.folds[f].image with
    | none => none
    | some i =>
      if s.folds[f].run = .running then
        (i.landings.zipIdx.find? fun x =>
          decide (x.1.core = l) && decide (s.tick.instant + x.1.stamp ≤ s.now) && !s.folds[f].landed.contains x.2 &&
            !(s.hall.held.any fun h => decide (h.1 ≤ s.now) && decide (s.foldByTag h.2.2.tag = some f) &&
                decide (s.entryOf f h.2.2 = some x.2) && s.currentEpoch f h.2.2)).map fun x => (f, x.2, x.1)
      else none

/-- LANDING_SUBSTITUTE. -/
def State.substituteOp (s : State) (l : CoreNo) : State :=
  match s.missing l with
  | none => s
  | some (f, n, e) => ((s.meetEntry f n).countFold f 14 1).substitute f e

/-- A packet that nothing expects (R257, R258): a reserved type, no fold of its tag, or no entry. -/
def State.unexpected (s : State) (k : SchedPacket) : Bool :=
  match s.foldByTag k.tag with
  | none => true
  | some f =>
    if k.type = 6 ∨ k.type = 7 then (match s.folds[f].image with
      | some i => if k.type = 6 then decide (i.shepherd ≠ s.hallNo ∧ i.deputy ≠ s.hallNo) else decide (i.members < 2)
      | none => true)
    else if k.type = 0 ∨ 8 ≤ k.type.toNat then true
    else (s.fencedOff f && decide (k.type ≠ 2)) || (s.entryOf f k).isNone

/-- SCHED_UNEXPECTED. -/
def State.unexpectedOp (s : State) : State :=
  match s.hall.held.find? fun h => decide (h.1 ≤ s.now) && s.unexpected h.2.2 with
  | none => s
  | some h =>
    let s := s.dropHeld h
    match s.foldByTag h.2.2.tag with
    | some f => s.packetFault f (hCore h.2.2.addr) 12 2
    | none => s

/-! ## Mail (R252, R253, R263 to R267) -/

/-- A counter of the fold with a tag, when this module holds it. -/
def State.countTag (s : State) (tag : BitVec 16) (i : Fin 23) : State :=
  match s.foldByTag tag with
  | some f => s.countFold f i 1
  | none => s

/-- A message of another module on its way through this one (R253, R263): one hop more; at 8 hops, and at a full
queue, it is dropped; without a valid entry it is answered "no route" (DEDUCED, assumption 25). -/
def State.forward (s : State) (m : MailMsg) : State :=
  let m := { m with hops := m.hops + 1 }
  if 8 ≤ m.hops.toNat then s.countTag m.srcTag 17
  else
    match s.nextHop m.dstModule with
    | none => s.answerMail m 7 0 m.addr []
    | some r =>
      let q := s.hall.enqueue r m
      let t := { s with hall := q.1 }
      if q.2 then t else t.countTag m.srcTag 17

/-- A message that reaches the module: its own is acted on, another's is forwarded. -/
def State.onMail (s : State) (m : MailMsg) (act : State → State) : State :=
  if m.dstModule = s.hallNo then act s else s.forward m

/-- An export entry of a fold admits an access (R252). -/
def State.exports (s : State) (f : FoldNo) (m : MailMsg) (len : Nat) (op : HallOp) : Bool :=
  match s.folds[f].image with
  | none => false
  | some i => i.slices.any fun e =>
      decide (e.kind = .exported) && decide (e.peer = m.srcTag) && e.admits op &&
        decide (e.first ≤ m.addr.toNat ∧ m.addr.toNat + len ≤ e.last + 1)

/-- The admission of R252: the fold, when its export entries admit the access and it is neither hurdled nor fenced
(Table 16.2). -/
def State.admitted (s : State) (m : MailMsg) (len : Nat) (op : HallOp) : Option FoldNo :=
  ((s.foldByTag m.dstTag).filter fun f => !s.fencedOff f).filter fun f => s.exports f m len op

/-- A range lies in one dynamic region of a fold. -/
def State.dynamicAt (s : State) (f : FoldNo) (l : CoreNo) (off len : Nat) : Bool :=
  match s.regionOf f l off with
  | some r => r.dynamic && decide (off + len ≤ r.start + r.len)
  | none => false

/-- Bytes of writes held (R266). -/
def Hall.heldBytes (h : Hall) : Nat := (h.writes.map fun w => w.msg.payload.length).sum

/-- MAIL_WRITE (R252, R266): admitted and held for the reserve, or refused. -/
def State.mailWriteOp (s : State) (m : MailMsg) : State :=
  s.onMail m fun s =>
    let refuse := fun (s : State) => (s.answerMail m 6 (s.mailEpoch m) m.addr []).countTag m.dstTag 18
    if !addrOk s.declared m.addr m.payload.length .write true then
      (match s.phys (hCore m.addr) with
       | some p => refuse (s.events p [(0x22, 1)] (s.foldByTag m.dstTag))
       | none => refuse s)
    else
      match s.admitted m m.payload.length .write with
      | none => refuse s
      | some f =>
        if !s.dynamicAt f (hCore m.addr) (hOff m.addr) m.payload.length then refuse s
        else if 2 ^ 24 < s.hall.heldBytes + m.payload.length then refuse s
        else
          { s with hall := { s.hall with writes := s.hall.writes ++
              [{ tick := s.tick.number.toNat, fold := f, due := s.tick.number.toNat, msg := m }] } }

/-- A stale message (R271): counted, and answered "stale role" unless its core is absent with an epoch not yet
changed. -/
def State.staleMail (s : State) (f : FoldNo) (m : MailMsg) : State :=
  let s := s.countFold f 11 1
  if (s.phys (hCore m.addr)).isNone then s else s.answerMail m 5 s.folds[f].epochs[hCore m.addr] m.addr []

/-- The epoch of a message is accepted: 0x0000, or the one in force. -/
def State.mailCurrent (s : State) (f : FoldNo) (m : MailMsg) : Bool :=
  (decide (m.epoch = 0) || decide (m.epoch = s.folds[f].epochs[hCore m.addr])) && (s.phys (hCore m.addr)).isSome

/-- MAIL_GATHER_REQUEST (R252, R267): admitted for the service window of the serving core, or answered "not
served". -/
def State.mailGatherOp (s : State) (m : MailMsg) : State :=
  s.onMail m fun s =>
    let len := beAt m.payload 8 2
    let ret : Word64 := BitVec.ofNat 64 (beAt m.payload 0 8)
    let shut := match s.foldByTag m.dstTag with
      | some f => s.fencedOff f
      | none => false
    let decline := fun (s : State) =>
      if shut then (s.answerMail m 6 (s.mailEpoch m) m.addr []).countTag m.dstTag 18
      else (s.answerMail m 4 (s.mailEpoch m) ret []).countTag m.dstTag 15
    if !addrOk s.declared m.addr len .gather true then
      (match s.phys (hCore m.addr) with
       | some p => decline (s.events p [(0x22, 1)] (s.foldByTag m.dstTag))
       | none => decline s)
    else
      match s.admitted m len .gather with
      | none => decline s
      | some f =>
        if !s.inRegions f (hCore m.addr) (hOff m.addr) len ∨ s.absent (hCore m.addr) then decline s
        else if !s.mailCurrent f m then s.staleMail f m
        else
          let key := fun g : Nat × FoldNo × MailMsg => g.1 * 2 ^ 12 + g.2.2.srcModule.toNat
          { s with hall := { s.hall with gathers := insertKey key (s.now, f, m) s.hall.gathers } }

/-- The logical core that an answer or response speaks of: that of the gather it answers, else of its address. -/
def State.answered (s : State) (m : MailMsg) : CoreNo :=
  match s.hall.asked.find? fun a => decide (a.number = m.reference) with
  | some a => a.target
  | none => hCore m.addr

/-- The epoch of an answer or response put into the mail epoch cache (R270); 0 says nothing. -/
def State.learn (s : State) (m : MailMsg) : State :=
  if m.epoch = 0 then s else { s with hall := s.hall.learn m.srcModule (s.answered m) m.epoch }

/-- MAIL_GATHER_RESPONSE (R267): held for the reserve in which its row is due; later it is discarded as late. -/
def State.gatherResponseOp (s : State) (m : MailMsg) : State :=
  s.onMail m fun s =>
    let t := s.learn m
    match s.hall.asked.find? fun a => decide (a.number = m.reference) with
    | some a =>
      if s.tick.number.toNat < a.due ∨ (s.tick.number.toNat = a.due ∧ s.rel < s.reserveAt) then
        { t with hall := { t.hall with writes := t.hall.writes ++
            [{ tick := s.tick.number.toNat, fold := a.fold, due := a.due, msg := m }] } }
      else t.countFold a.fold 19 1
    | none => t.countTag m.dstTag 19

/-- An answer that says only that a message was not acted on: it updates the cache and counts. -/
def State.answerOp (s : State) (m : MailMsg) (ctr : Option (Fin 23)) : State :=
  s.onMail m fun s =>
    let t := s.learn m
    match ctr with
    | some i => t.countTag m.dstTag i
    | none => t

/-- MAIL_RESERVED_KIND (R264): answered "unknown kind" and never acted on. -/
def State.reservedKind (s : State) (m : MailMsg) : State :=
  s.onMail m fun s =>
    if m.kind = 0 ∨ 0x11 ≤ m.kind.toNat then s.answerMail m 8 (s.mailEpoch m) m.addr [] else s

/-- A message of kinds 0x09 and 0x0C to 0x10 passes only between supervisors: to a fold it is refused (R264). -/
def State.onSupervisor (s : State) (m : MailMsg) (act : State → State) : State :=
  s.onMail m fun s =>
    if m.dstTag = 0xFFFF ∧ m.srcTag = 0xFFFF then act s
    else (s.answerMail m 6 (s.mailEpoch m) m.addr []).countTag m.dstTag 18

/-! ## The delivery window (R266, R267) -/

/-- Bytes written through the fleece port of a core into a dynamic region of a fold. -/
def State.fleeceWrite (s : State) (f : FoldNo) (l : CoreNo) (off : Nat) (bs : List MByte) : State :=
  match s.phys l with
  | none => s
  | some p =>
    if s.dynamicAt f l off bs.length then s.onCore p fun c => { c with pasture := c.pasture.store s.now off bs } else s

/-- One message written through the fleece port of its core, and recorded (R218). -/
def State.deliverWrite (s : State) (w : HeldMail) : State :=
  let m := w.msg
  let f := w.fold
  match s.phys (hCore m.addr) with
  | none => s.staleMail f m
  | some _ =>
    if !s.mailCurrent f m then s.staleMail f m
    else
      let s := s.fleeceWrite f (hCore m.addr) (hOff m.addr) (m.payload.map fun b => (b, m.bad))
      (s.countFold f 21 1).record f 3 0xFF s.tick.number.toNat 0 (mailBytes m)

/-- The first writes of a core that the budgets of their folds let through in this tick, and the others. -/
def splitBudget (budget : FoldNo → Nat) : List HeldMail → List (FoldNo × Nat) → List HeldMail × List HeldMail
  | [], _ => ([], [])
  | w :: r, used =>
    let n := ((used.filter fun u => decide (u.1 = w.fold)).map fun u => u.2).sum + w.msg.payload.length
    let q := splitBudget budget r ((w.fold, w.msg.payload.length) :: used)
    if n ≤ budget w.fold then (w :: q.1, q.2) else (q.1, w :: q.2)

/-- Declared mail budget of a fold, bytes per core and tick. -/
def State.mailBudget (s : State) (f : FoldNo) : Nat := match s.folds[f].image with
  | some i => i.mailBudget
  | none => 0

/-- The row of a gather request written: the response, or zeros marked bad; "not served" counts on both ends. -/
def State.deliverRow (s : State) (a : MailGather) : State :=
  let row := s.hall.writes.find? fun w => decide (w.msg.kind = 3) && decide (w.msg.reference = a.number)
  let bs := match row with
    | some w => (sliceD 0 w.msg.payload 0 a.len).map fun b => (b, w.msg.bad)
    | none => zerosBad a.len
  let s := s.fleeceWrite a.fold (hCore a.addr) (hOff a.addr) bs
  let writes := s.hall.writes.filter fun w => !(decide (w.msg.kind = 3) && decide (w.msg.reference = a.number))
  let s := { s with hall := { s.hall with writes := writes, asked := s.hall.asked.erase a } }
  let m : MailMsg :=
    { kind := 3, hops := 0, bad := bs.any fun b => b.2, srcModule := hModule a.addr, srcTag := 0, dstModule := s.hallNo, dstTag := 0,
      epoch := 0, number := 0, reference := a.number, addr := a.addr, payload := bs.map fun b => b.1 }
  s.record a.fold 3 0xFF s.tick.number.toNat 0 (mailBytes m)

/-- The recorded deliveries of a fold in replay mode on a core, in place of its live mail (R220). -/
def State.replayMail (s : State) (f : FoldNo) (l : CoreNo) : State :=
  if s.folds[f].replay.on then
    ((s.replayRecs f).filter fun r => decide (r.kind = 3)).foldl (fun (s : State) r =>
      let m := readMailWrite r.payload
      if hCore m.1 = l then s.fleeceWrite f l (hOff m.1) (m.2.2.map fun b => (b, m.2.1)) else s) s
  else s

/-- A live write for a fold in replay mode is dropped and counted. -/
def State.writeOrDrop (s : State) (w : HeldMail) : State :=
  if s.folds[w.fold].replay.on then s.countFold w.fold 17 1 else s.deliverWrite w

/-- A row asked for by a fold in replay mode comes from its records alone. -/
def State.rowOrDrop (s : State) (a : MailGather) : State :=
  if s.folds[a.fold].replay.on then { s with hall := { s.hall with asked := s.hall.asked.erase a } } else s.deliverRow a

/-- MAIL_DELIVERY_WINDOW of a core (R266, R267): once a tick, from cycle 1,920 × P + 64 to 2,000 × P − 65, not while
a rebuild chain runs. -/
def State.deliveryWindow (s : State) (l : CoreNo) : State :=
  match s.phys l with
  | none => s
  | some p =>
    let tick := s.tick.number.toNat
    if s.rebuild.isSome ∨ s.rel < s.reserveAt + 64 ∨ s.period < s.rel + 65 ∨ s.cores[p].delivered = some tick then s
    else
      let s := s.onCore p fun c => { c with delivered := some tick }
      let mine := s.hall.writes.filter fun w => decide (w.msg.kind = 1) && decide (hCore w.msg.addr = l)
      let q := splitBudget s.mailBudget mine []
      let s := { s with hall := { s.hall with writes := s.hall.writes.filter fun w => !q.1.contains w } }
      let s := q.1.foldl State.writeOrDrop s
      let s := (s.hall.asked.filter fun a => decide (a.due ≤ tick) && decide (hCore a.addr = l)).foldl State.rowOrDrop s
      (List.finRange 32).foldl (fun (s : State) f => s.replayMail f l) s

/-! ## Meanings -/

def execSchedPacketArrival (p : FabricPort) (k : SchedPacket) (s : State) : Host.Outcome State Fault Refusal :=
  .next (s.schedArrive p k)
def execSchedWrite (s : State) : Host.Outcome State Fault Refusal := .next s.schedWriteOp
def execSchedReadRequest (s : State) : Host.Outcome State Fault Refusal := .next s.schedRequestOp
def execSchedReadResponse (s : State) : Host.Outcome State Fault Refusal := .next s.schedResponseOp
def execSchedPost (s : State) : Host.Outcome State Fault Refusal := .next s.schedPostOp
def execSchedNotServed (s : State) : Host.Outcome State Fault Refusal := .next s.schedNotServedOp
def execLandingSubstitute (l : CoreNo) (s : State) : Host.Outcome State Fault Refusal := .next (s.substituteOp l)
def execSchedUnexpected (s : State) : Host.Outcome State Fault Refusal := .next s.unexpectedOp
def execMailWrite (m : MailMsg) (s : State) : Host.Outcome State Fault Refusal := .next (s.mailWriteOp m)
def execMailGatherRequest (m : MailMsg) (s : State) : Host.Outcome State Fault Refusal := .next (s.mailGatherOp m)
def execMailGatherResponse (m : MailMsg) (s : State) : Host.Outcome State Fault Refusal :=
  .next (s.gatherResponseOp m)
def execMailStaleRole (m : MailMsg) (s : State) : Host.Outcome State Fault Refusal := .next (s.answerOp m none)
def execMailRefused (m : MailMsg) (s : State) : Host.Outcome State Fault Refusal := .next (s.answerOp m none)
def execMailNoRoute (m : MailMsg) (s : State) : Host.Outcome State Fault Refusal := .next (s.answerOp m (some 17))
def execMailReservedKind (m : MailMsg) (s : State) : Host.Outcome State Fault Refusal := .next (s.reservedKind m)
def execMailDeliveryWindow (l : CoreNo) (s : State) : Host.Outcome State Fault Refusal := .next (s.deliveryWindow l)

end Sys2Proof.Machine
end

