-- ==== Sys2Proof/Machine/Exchange.lean ====
section
/-! DEFINITION. The reserve exchange of a fold on several modules: reports, decisions and their landing
(spec/12_hall_memory.md R272 to R274, spec/14_folds_images_updates.md R335). -/

namespace Sys2Proof.Machine

/-! ## Members -/

/-- Member modules in expected-topology order (Table 12.11). -/
def FoldImage.memberList (i : FoldImage) : List (BitVec 12) := (i.topology.map fun t => t.member).dedup

/-- The fold runs on several modules. -/
def FoldImage.multi (i : FoldImage) : Bool := decide (2 ≤ i.members)

/-- Λ_c: the largest Λ of the control flows (R272). -/
def FoldImage.lambdaC (i : FoldImage) : Nat :=
  (i.flows.filter fun w => w.control).foldl (fun m w => max m w.lambda) 0

/-! ## Reports (Table 12.10) -/

/-- A tack record with every entry idle, no active slot and no SSD in step (R345). -/
def TackRec.first : TackRec :=
  { seq := 0, fw := .idle, single := false, step0 := false, step1 := false, retired := 0,
    entries := Vector.replicate 33 TackEntry.zero }

/-- The tack record as the module has last changed it: the newest one whose commit is requested, else the one in
force (DESIGN CHOICE, assumption 31). -/
def State.tack (s : State) : TackRec := (s.store.commits.getLast?).getD (s.store.record.getD TackRec.first)

/-- Slot entry of a fold. -/
def State.entry (s : State) (f : FoldNo) : TackEntry := s.tack.entries[f.val]

/-- The row pen: pen of the first matching row of the last sample. -/
def State.rowPen (s : State) (f : FoldNo) : Option Nat :=
  s.folds[f].image.bind fun i => s.folds[f].sel.matched.bind fun n => (i.rows[n]?).map fun r => r.pen

/-- Logical cores of a fold whose map changes at the next instant (R206, R212): isolated cores with a spare free, and
cores whose handover falls on the next tick. -/
def State.advances (s : State) (f : FoldNo) : Word32 :=
  match s.folds[f].allot with
  | none => 0
  | some a => (List.finRange 32).foldl (fun (m : Word32) p =>
      let c := s.cores[p]
      let spare := s.cores.any fun x => decide (x.mode = .spare)
      let takeover := decide (c.mode = .failed) && c.absent && spare
      let handover := decide (c.mode = .mapped) && decide (c.supply.handover = some (s.tick.number.toNat + 1))
      if a.holds c.logical && (takeover || handover) then m ||| BitVec.ofNat 32 (2 ^ c.logical.val) else m) 0

/-- The exchange report of this member (Table 12.10). -/
def State.report (s : State) (f : FoldNo) : Report :=
  let x := s.folds[f]
  let e := s.entry f
  { from_ := s.hallNo, tick := s.tick.number, thermal := x.sel.thermal, degraded := x.sel.degraded,
    matched := (s.rowPen f).isSome, hurdled := decide (x.run = .hurdled ∨ x.run = .fenced),
    staged := decide (e.state = .staged) && !e.onRequest && decide (e.switch ≤ s.tick.number.toNat),
    rowPen := (s.rowPen f).getD 0, pen := x.sel.pen, advances := s.advances f }

/-- A report as the 64 bytes of Table 12.10. -/
def Report.bytes (r : Report) : List Byte :=
  let flags := b2n r.thermal * 128 + b2n r.degraded * 64 + b2n r.matched * 32 + b2n r.hurdled * 16 + b2n r.staged * 8
  beBytes r.tick.toNat 8 ++ beBytes flags 1 ++ beBytes r.rowPen 1 ++ beBytes r.pen 1 ++ [0] ++
    beBytes r.advances.toNat 4 ++ List.replicate 48 0

/-- 64 bytes as a report of a module. -/
def readReport (m : BitVec 12) (bs : List Byte) : Report :=
  let flags := beAt bs 8 1
  { from_ := m, tick := BitVec.ofNat 48 (beAt bs 0 8), thermal := flags.testBit 7, degraded := flags.testBit 6,
    matched := flags.testBit 5, hurdled := flags.testBit 4, staged := flags.testBit 3, rowPen := beAt bs 9 1,
    pen := beAt bs 10 1, advances := BitVec.ofNat 32 (beAt bs 12 4) }

/-! ## Decisions (R273, Table 12.11) -/

/-- Ticks in 4 s, rounded up. -/
def ModuleSection.fourSeconds (m : ModuleSection) : Nat := if m.period = 0 then 0 else (4000000 + m.period - 1) / m.period

/-- The first multiple of 16 at least 4 s after a tick (R329, R335). -/
def State.switchAfter (s : State) (tick : Nat) : Nat :=
  let t := tick + (match s.sec? with
    | some m => m.fourSeconds
    | none => 0)
  (t + 15) / 16 * 16

/-- A pen of the image (R27). -/
def FoldImage.hasPen (i : FoldImage) (pen : Nat) : Bool := i.pens.any fun p => decide (p.pen = pen)

/-- The report of a member for the running tick, as it landed. -/
def State.gotReport (s : State) (f : FoldNo) (m : BitVec 12) : Option Report :=
  s.folds[f].reports.find? fun r => decide (r.from_ = m) && decide (r.tick = s.tick.number)

/-- Step 3 of R273: the selector's row pen, outside a dwell, when it is a pen of the image (R27). It is evaluated
in every reserve, those with a thermal or degraded condition too (R26). -/
def State.selectorRow (s : State) (f : FoldNo) (i : FoldImage) : Option Nat :=
  (s.gotReport f i.selector).bind fun r =>
    if r.matched && decide (s.folds[f].sel.dwell = 0) && i.hasPen r.rowPen then some r.rowPen else none

/-- The decision that the shepherd or the deputy makes from the reports of this tick (R273, R335). -/
def State.decision (s : State) (f : FoldNo) (i : FoldImage) : Decision :=
  let x := s.folds[f]
  let tick := s.tick.number
  let got := s.gotReport f
  let rs := i.memberList.filterMap got
  let missing := decide (rs.length < i.memberList.length)
  let strange := match x.lastDecision with
    | some d => rs.any fun r => decide (r.pen ≠ d.pen)
    | none => false
  let row := s.selectorRow f i
  let pen := if rs.any fun r => r.thermal then i.thermal
    else if missing || strange || (rs.any fun r => r.degraded) then i.degraded
    else row.getD x.sel.base
  let staged := !missing && rs.all fun r => r.staged
  { tick := tick, pen := pen, changes := decide (pen ≠ x.sel.pen), hurdleAll := rs.any fun r => r.hurdled,
    announced := staged, switch := if staged then s.switchAfter tick.toNat else 0,
    advances := i.memberList.map fun m => match got m with
      | some r => r.advances
      | none => 0 }

/-- A decision as the 160 bytes of Table 12.11. -/
def Decision.bytes (d : Decision) : List Byte :=
  let flags := b2n d.changes * 128 + b2n d.hurdleAll * 64 + b2n d.announced * 32
  beBytes d.tick.toNat 8 ++ beBytes d.pen 1 ++ beBytes flags 1 ++ List.replicate 6 0 ++ beBytes d.switch 8 ++
    sliceD 0 (d.advances.flatMap fun a => beBytes a.toNat 4) 0 128 ++ List.replicate 8 0

/-- 160 bytes as a decision over a number of members. -/
def readDecision (n : Nat) (bs : List Byte) : Decision :=
  let flags := beAt bs 9 1
  { tick := BitVec.ofNat 48 (beAt bs 0 8), pen := beAt bs 8 1, changes := flags.testBit 7, hurdleAll := flags.testBit 6,
    announced := flags.testBit 5, switch := beAt bs 16 8,
    advances := (List.range n).map fun k => BitVec.ofNat 32 (beAt bs (24 + 4 * k) 4) }

/-! ## Sending -/

/-- An exchange packet to a member: over the control flow, or within the module. -/
def State.sendControl (s : State) (f : FoldNo) (type : Nat) (m : BitVec 12) (bytes : List Byte) (stamp : Nat) : State :=
  match s.flowOf f true 0 m with
  | some fl => s.sendSched f fl type (hallAddr 0 m 0 0) (bytes.map fun b => (b, false)) s.now (some (s.stamp stamp))
  | none => s

/-- A report kept by a shepherd or deputy; one module has one report a tick. -/
def Fold.takeReport (x : Fold) (r : Report) : Fold :=
  { x with reports := r :: x.reports.filter fun q => decide (q.from_ ≠ r.from_) && decide (q.tick = r.tick) }

/-- A decision kept by a member, from the shepherd or from the deputy (R274). -/
def Fold.takeDecision (x : Fold) (i : FoldImage) (m : BitVec 12) (d : Decision) : Fold :=
  let x := if m = i.shepherd then { x with fromShepherd := some d } else x
  if m = i.deputy then { x with fromDeputy := some d } else x

/-- The member's report sent to the shepherd and to the deputy (R272). -/
def State.sendReport (s : State) (f : FoldNo) : State :=
  match s.folds[f].image with
  | none => s
  | some i =>
    if !i.multi then s
    else
      let r := s.report f
      let stamp := s.tick.instant + s.reserveAt + 16 + i.lambdaC
      let s := if i.shepherd = s.hallNo ∨ i.deputy = s.hallNo then s.onFold f fun x => x.takeReport r else s
      [i.shepherd, i.deputy].dedup.foldl (fun (s : State) m =>
        if m = s.hallNo then s else s.sendControl f 6 m r.bytes stamp) s

/-- The base pen that step 3 gives, with the dwell of the first row of that pen (R26, R28, R273). -/
def PenSel.rebase (x : PenSel) (i : FoldImage) (row : Option Nat) : PenSel :=
  match row with
  | some pen =>
    if pen = x.base then x
    else { x with base := pen, dwell := ((i.rows.find? fun r => decide (r.pen = pen)).map fun r => r.dwell).getD 0 }
  | none => x

/-- The shepherd or the deputy decides, keeps the base pen of step 3 with its dwell, and sends its decision to every
member (R272, R273). -/
def State.makeDecision (s : State) (f : FoldNo) (i : FoldImage) : State :=
  let d := s.decision f i
  let row := s.selectorRow f i
  let s := s.onFold f fun x => { x with lastDecision := some d, sel := x.sel.rebase i row }.takeDecision i s.hallNo d
  let stamp := s.tick.instant + s.reserveAt + 80 + 2 * i.lambdaC
  i.memberList.foldl (fun (s : State) m => if m = s.hallNo then s else s.sendControl f 7 m d.bytes stamp) s

/-- This module decides for the fold, has not yet done so in this tick, and either holds every report or has reached
the cycle at which it decides without the rest. -/
def State.mustDecide (s : State) (f : FoldNo) (i : FoldImage) : Bool :=
  let x := s.folds[f]
  i.multi && (decide (i.shepherd = s.hallNo) || decide (i.deputy = s.hallNo)) && decide (x.run = .running ∨ x.run = .hurdled) &&
    decide (s.reserveAt ≤ s.rel) &&
    (match x.lastDecision with
     | some d => decide (d.tick ≠ s.tick.number)
     | none => true) &&
    (decide (s.reserveAt + 80 + i.lambdaC ≤ s.rel + 48) ||
      i.memberList.all fun m => x.reports.any fun r => decide (r.from_ = m) && decide (r.tick = s.tick.number))

/-- Every fold whose decision is due decides. -/
def State.decideDue (s : State) : State :=
  (List.finRange 32).foldl (fun (s : State) f => match s.folds[f].image with
    | some i => if s.mustDecide f i then s.makeDecision f i else s
    | none => s) s

/-! ## Landing -/

/-- The first control packet of a type whose stamp has come, in order of landing cycle, then of lower module number, with its
fold and image (Table 1.6). -/
def State.dueControl (s : State) (type : BitVec 4) : Option (HeldPacket × FoldNo × FoldImage) :=
  (sortKey (fun h : HeldPacket => h.1 * 2 ^ 12 + h.2.1.toNat) s.hall.held).findSome? fun h =>
    if h.1 ≤ s.now ∧ h.2.2.type = type ∧ !s.unexpected h.2.2 then
      (s.foldByTag h.2.2.tag).bind fun f => s.folds[f].image.map fun i => (h, f, i)
    else none

/-- EXCHANGE_REPORT: an intact report is kept; the module decides when it has them all. -/
def State.exchangeReportOp (s : State) : State :=
  match s.dueControl 6 with
  | none => s
  | some (h, f, _) =>
    let s := s.dropHeld h
    let s := if h.2.2.marks = 0 then s.onFold f fun x => x.takeReport (readReport h.2.1 h.2.2.payload) else s
    s.decideDue

/-- EXCHANGE_DECISION: an intact decision of this tick is kept for the next instant (R274). One that names no pen of the
image is not intact, so that it never makes the module run anything else (R27). -/
def State.exchangeDecisionOp (s : State) : State :=
  match s.dueControl 7 with
  | none => s
  | some (h, f, i) =>
    let s := s.dropHeld h
    let d := readDecision i.memberList.length h.2.2.payload
    if h.2.2.marks = 0 ∧ d.tick = s.tick.number ∧ i.hasPen d.pen then s.onFold f fun x => x.takeDecision i h.2.1 d else s

def execExchangeReport (s : State) : Host.Outcome State Fault Refusal := .next s.exchangeReportOp
def execExchangeDecision (s : State) : Host.Outcome State Fault Refusal := .next s.exchangeDecisionOp

end Sys2Proof.Machine
end

