-- ==== Sys2Proof/Machine/Status.lean ====
section
/-! DEFINITION. The status space: what every register reads, how kind R registers are sampled, how pairs are read, and
the two writable register groups (spec/20_status_space.md, spec/18_tally_counters.md R416 to R418). -/

namespace Sys2Proof.Machine

/-! ## Values -/

/-- Microseconds since input was applied. -/
def State.micros (s : State) : Nat := s.now / 2000

/-- A field of a register. -/
def bitsAt (v lo : Nat) : Nat := v * 2 ^ lo

/-- A register from a sum of fields. -/
def reg (v : Nat) : Word32 := BitVec.ofNat 32 v

/-- A signed value of 16 bits, sign-extended (Table 20.3). -/
def regS (x : Int) : Word32 := BitVec.ofInt 32 x

/-- Low and high half of a 64-bit value. -/
def halves (v : Nat) : List Word32 := [reg v, reg (v / 2 ^ 32)]

/-- A 48 B value as twelve registers, first byte of each in [7:0]. -/
def digestRegs (d : BitVec 384) : List Word32 :=
  (List.range 12).map fun i => reg (leAt (beBytes d.toNat 48) (4 * i) 4)

/-- Code of a core map state (Table 10.2). -/
def CoreMode.code : CoreMode → Nat
  | .fusedOff => 0
  | .idle => 1
  | .spare => 2
  | .mapped => 3
  | .rebuilding => 4
  | .failed => 5
  | .retired => 6

/-- Core map entry of a physical core (R205, Table 10.2). -/
def Core.mapEntry (c : Core) : Word32 :=
  let none' := decide (c.mode = .fusedOff ∨ c.mode = .idle ∨ c.mode = .retired)
  reg (bitsAt c.mode.code 29 + (if none' then 0 else bitsAt c.logical.val 24 + bitsAt (c.member % 32) 19) +
    bitsAt (b2n c.planned) 18)

/-- Code of a life cycle state (Table 20.3). -/
def Life.code : Life → Nat
  | .test => 0
  | .shipped => 1
  | .branded => 2
  | .brandLost => 3

/-- Code of an update state (Table 14.12). -/
def UpdState.code : UpdState → Nat
  | .idle => 0
  | .downloading => 1
  | .downloaded => 2
  | .staged => 3
  | .activating => 4
  | .confirming => 5
  | .reverting => 6

/-- Code of a run state (Table 14.2). -/
def RunState.code : RunState → Nat
  | .unallotted => 0
  | .stopped => 1
  | .loading => 2
  | .waiting => 3
  | .running => 4
  | .hurdled => 5
  | .fenced => 6
  | .refused => 7

/-- Code of a firmware state (Table 14.10). -/
def FwState.code : FwState → Nat
  | .idle => 0
  | .f1Updating => 1
  | .handedOver => 2
  | .f0Updating => 3

/-- Code of a link state (Table 11.7). -/
def LinkState.code : LinkState → Nat
  | .down => 0
  | .acquire => 1
  | .align => 2
  | .hello => 3
  | .key => 4
  | .verify => 5
  | .up => 6
  | .unpaired => 7

/-- Code of a lane state (Table 20.15). -/
def LaneState.code : LaneState → Nat
  | .noSignal => 0
  | .training => 1
  | .active => 2
  | .usable => 3
  | .lost => 4

/-- Code of an active slot: A, B or none. -/
def slotCode : Option Bool → Nat
  | some false => 0
  | some true => 1
  | none => 3

/-- Code of an Ethernet mode (Table 20.14). -/
def ethCode : EthMode → Nat
  | .kr => 0
  | .cr => 1
  | .aui => 2

/-- Code of a supervisor state (Table 20.8). -/
def SupState.code : SupState → Nat
  | .active => 0
  | .standby => 1
  | .restarting => 2
  | .outOfService => 3

/-- 1588 locked: a Sync accepted within the last 4 s (R292). -/
def State.ptpLocked (s : State) : Bool := match s.ptp.syncAt with
  | some c => !s.ptp.lost && decide (s.now ≤ c + 8000000000)
  | none => false

/-- The module section gives the bellwether role. -/
def State.isBellwether (s : State) : Bool := match s.sec? with
  | some m => m.bellwether
  | none => false

/-- The core map has been built (boot step 6). -/
def State.mapped (s : State) : Bool := decide (6 ≤ s.power.bootStep)

/-- FAULT_N conditions that hold (Table 16.8). -/
def State.faultCause (s : State) : Nat :=
  b2n (s.folds.any fun f => decide (f.run = .fenced)) +
    2 * b2n ((s.cores.any fun c => decide (c.mode = .failed) && c.absent) &&
      !(s.cores.any fun x => decide (x.mode = .spare))) +
    4 * b2n (decide (s.supA.state = .outOfService) || decide (s.supB.state = .outOfService)) +
    8 * b2n (!(s.tack.step0 && s.store.ssds[0].present) && !(s.tack.step1 && s.store.ssds[1].present)) +
    16 * b2n s.log.failed + 32 * b2n (decide (s.trust.life = .brandLost)) +
    64 * b2n (s.folds.any fun f => decide (1000 ≤ f.refusedTicks))

/-- MOD_STATE (Table 20.4). -/
def State.modState (s : State) : Word32 :=
  let m := s.sec?
  reg (bitsAt (match m with | some x => x.n | none => 0) 16 + bitsAt (match m with | some x => b2n x.spare | none => 0) 8 +
    bitsAt (b2n (s.cores.any fun c => decide (c.mode = .spare))) 7 + bitsAt (b2n (s.isBellwether && s.ptpLocked)) 6 +
    bitsAt (b2n s.power.refLost.isSome) 5 + bitsAt (b2n s.place.isSome) 4 + bitsAt (b2n s.isBellwether) 3 +
    bitsAt (b2n s.tick.holdover) 1 + b2n s.tick.lock)

/-- Whole seconds left in the open window. -/
def State.windowSeconds (s : State) : Nat := match s.trust.pres.window with
  | some t => min 120 ((t - s.micros) / 1000000)
  | none => 0

/-- MOD_PRESENCE (Table 20.5). -/
def State.presenceReg (s : State) : Word32 :=
  let p := s.trust.pres
  reg (bitsAt s.windowSeconds 16 + bitsAt (b2n s.trust.sess.num.isSome) 7 + bitsAt (b2n p.window.isSome) 6 +
    bitsAt (b2n p.discrepancy) 5 + bitsAt (b2n p.fuse) 4 + bitsAt (b2n p.tackLock) 3 + bitsAt (b2n p.sealOpen) 2 +
    bitsAt (b2n p.bridleB) 1 + b2n p.bridleA)

/-- MOD_STORE (Table 20.6). -/
def State.storeReg (s : State) : Word32 :=
  let a := s.store.ssds[0]
  let b := s.store.ssds[1]
  reg (bitsAt b.rate.toNat 16 + bitsAt b.width.toNat 12 + bitsAt a.rate.toNat 8 + bitsAt a.width.toNat 4 +
    bitsAt (b2n s.tack.step1) 3 + bitsAt (b2n b.present) 2 + bitsAt (b2n s.tack.step0) 1 + b2n a.present)

/-- MOD_FW. -/
def State.fwReg (s : State) : Word32 :=
  let e : TackEntry := s.tack.entries[32]
  reg (bitsAt (slotCode e.active) 12 + bitsAt e.state.code 8 + bitsAt (b2n (decide (s.supB.state = .active))) 4 +
    s.tack.fw.code)

/-- FOLD_STATE (Table 20.11). -/
def State.foldState (s : State) (f : FoldNo) : Word32 :=
  let x := s.folds[f]
  let e := s.entry f
  reg (bitsAt (min 3 e.attempts) 22 + bitsAt (slotCode e.active) 20 + bitsAt e.state.code 16 + bitsAt (b2n e.held) 14 +
    bitsAt (b2n x.replay.on) 13 + bitsAt (b2n x.sel.clamped) 12 + bitsAt (b2n x.sel.linkShort) 11 +
    bitsAt (b2n x.sel.spareInUse) 10 + bitsAt (b2n x.sel.degraded) 9 + bitsAt (b2n x.sel.thermal) 8 +
    bitsAt (x.sel.pen % 8) 4 + x.run.code)

/-- Mean of a sum of samples. -/
def meanOf (sum n : Nat) : Nat := if n = 0 then 0 else sum / n

/-- The base die of a physical core (R394). -/
def dieOf (p : CoreNo) : Fin 8 := Fin.ofNat 8 (p.val / 4)

/-- Values at consecutive addresses. -/
def regsFrom (base : Nat) (vs : List Word32) : List (Nat × Word32) := vs.zipIdx.map fun v => (base + 4 * v.2, v.1)

/-- Kind R registers of the module block. -/
def State.sampleModule (s : State) : List (Nat × Word32) :=
  regsFrom 0x0 [if s.gradeF then 0x325646B1 else 0x325645B1, s.enabled] ++ regsFrom 0xC [s.modState] ++
    regsFrom 0x14 ([reg (s.log.fuses + bitsAt (b2n (decide (256 ≤ s.log.fuses))) 9)] ++ halves s.log.failTick) ++
    regsFrom 0x24 [reg s.trust.generation, match s.place with | some m => reg (2 ^ 31 + m.toNat) | none => 0,
      match s.sec? with | some m => reg m.period | none => 0] ++
    regsFrom 0x30 (halves s.tick.number.toNat) ++ regsFrom 0x40 (digestRegs s.trust.fingerprint) ++
    regsFrom 0x70 [regS s.power.tjMax, regS s.power.inlet, regS s.power.outlet, reg s.power.flow,
      reg (meanOf s.power.tickWatts s.power.tickN), reg (meanOf s.power.tickMv s.power.tickN), reg s.power.cap, s.storeReg,
      s.fwReg, match s.ptp.pps with | some x => regS x | none => 0x80000000, s.tack.retired] ++
    regsFrom 0x100 (if s.mapped then s.cores.toList.map Core.mapEntry else [])

/-- Kind R registers of the supervisor blocks. -/
def State.sampleSups (s : State) : List (Nat × Word32) :=
  let one := fun (base : Nat) (u : Supervisor) =>
    regsFrom (base + 4) [reg (min u.misses (2 ^ 32 - 1))] ++ regsFrom (base + 0x10) (digestRegs u.meas)
  one 0x100000 s.supA ++ one 0x100100 s.supB

/-- Kind R registers of a core block (Table 20.9). -/
def State.sampleCore (s : State) (p : CoreNo) : List (Nat × Word32) :=
  let c := s.cores[p]
  let u := c.supply
  let b := 0x01000000 + 0x10000 * p.val
  regsFrom b [c.mapEntry,
      reg (u.code + bitsAt u.plan 8 + bitsAt u.floor 16 + bitsAt (b2n s.power.clampDie[dieOf p]) 24),
      reg (u.minMargin.getD 0), regS u.tj, reg s.power.phi[dieOf p]] ++
    regsFrom (b + 0x20) (halves (u.handover.getD 0)) ++
    regsFrom (b + 0x30) ((u.rings.toList.map fun x => reg x.toNat) ++ halves c.cycles.toNat)

/-- Kind R registers of a fold block (Table 20.10). -/
def State.sampleFold (s : State) (f : FoldNo) : List (Nat × Word32) :=
  let x := s.folds[f]
  let e := s.entry f
  let b := 0x02000000 + 0x1000 * f.val
  let mine := fun (l : CoreNo) => match x.allot with
    | some a => if a.holds l then x.epochs[l].toNat else 0
    | none => 0
  regsFrom b ([s.foldState f, match x.allot with | some a => reg a.tag.toNat | none => 0,
      reg (s.trust.debugCount[f] + bitsAt (b2n x.debug) 8), reg x.refuse] ++ halves x.release ++ halves x.startTick ++
      halves e.switch ++ [reg x.confirm]) ++
    regsFrom (b + 0x30) (halves x.digest.toNat) ++ regsFrom (b + 0x40) (digestRegs e.meas ++ digestRegs e.other) ++
    regsFrom (b + 0x100) ((List.range 16).map fun j =>
      reg (mine (Fin.ofNat 32 (2 * j)) + bitsAt (mine (Fin.ofNat 32 (2 * j + 1))) 16))

/-- Kind R registers of a fabric port block (Table 20.13). -/
def State.samplePort (s : State) (i : FabricPort) : List (Nat × Word32) :=
  let x := s.fab[i]
  regsFrom (0x03000004 + 0x1000 * i.val)
      [match x.peer with | some h => reg (2 ^ 31 + bitsAt h.port.toNat 16 + h.hallModule.toNat) | none => 0, reg x.latency,
        reg x.rxDelay, reg ((x.lanes.toList.zipIdx.map fun l => bitsAt l.1.code (4 * l.2)).sum)] ++
    regsFrom (0x03000040 + 0x1000 * i.val) (match x.peer with | some h => digestRegs h.fingerprint | none => [])

/-- Every kind R register as it stands, those that read 0 left out (R445, R416). -/
def State.sampled (s : State) : List (Nat × Word32) :=
  (s.sampleModule ++ s.sampleSups ++ (List.finRange 32).flatMap s.sampleCore ++ (List.finRange 32).flatMap s.sampleFold ++
    (List.finRange 24).flatMap s.samplePort).filter fun r => decide (r.2 ≠ 0)

/-- The kind R registers sampled. -/
def State.takeSample (s : State) : State := { s with sample := s.sampled }

/-! ## Snapshots of counters (R416, R417) -/

/-- A programmable counter at the snapshot: it is copied, restarts when its select register says so, and takes an
accepted select value, which clears it. -/
def Tally.snapshot (t : Tally) : Tally :=
  let u := { t with snap := t.ctr, ctr := if bitOf t.sel 29 then Ctr.zero else t.ctr }
  match t.selNext with
  | some w => { u with sel := w, selNext := none, ctr := Ctr.zero, prev := false }
  | none => u

/-- Every counter of every block copied into its snapshot (R416). -/
def State.snapshot (s : State) : State :=
  { s with
    cores := s.cores.map fun c => { c with tally := c.tally.map Tally.snapshot }
    folds := s.folds.map fun f => { f with snaps := f.ctrs }
    st := s.st.map fun p => { p with snaps := p.ctrs }
    pl := s.pl.map fun p => { p with snaps := p.ctrs }
    fab := s.fab.map fun p => { p with snaps := p.ctrs }
    snaps := s.ctrs }

/-! ## Reading (R444 to R448) -/

/-- One half of a counter snapshot (R418). -/
def Ctr.half (c : Ctr) (hi : Bool) : Word32 :=
  if hi then reg (fldN c.val.toNat 32 16 + bitsAt (b2n c.sat) 31) else reg (fldN c.val.toNat 0 32)

/-- A counter of a list by its offset from 0x400. -/
def ctrAt (cs : List Ctr) (off : Nat) : Word32 :=
  match cs[(off - 0x400) / 8]? with
  | some c => c.half (decide (off / 4 % 2 = 1))
  | none => 0

/-- Bytes of a log entry (Table 16.7). -/
def LogEntry.bytes (e : LogEntry) : List Byte :=
  leBytes e.seq 8 ++ leBytes e.tick.toNat 8 ++ leBytes e.cycle 4 ++ leBytes e.code.toNat 2 ++
    leBytes (match e.fold with | some f => f.val | none => 255) 1 ++
    leBytes (match e.lcore with | some l => l.val | none => 255) 1 ++
    leBytes (match e.pcore with | some p => p.val | none => 255) 1 ++
    leBytes (b2n e.debug * 128 + b2n e.coalesced * 64) 1 ++ leBytes e.count 2 ++ sliceD 0 e.detail 0 20 ++
    beBytes e.tag.toNat 16

/-- Bytes of a ring of 64 MiB. -/
def ringBytes : Nat := 2 ^ 26
/-- Bytes of an erase sector. -/
def sectorBytes : Nat := 2 ^ 18

/-- A byte of the NOR ring: 0xFF where nothing is written and in a sector marked unusable (R448). -/
def TallyLog.byte (g : TallyLog) (x : Nat) : Byte :=
  if g.badSectors.contains (x / sectorBytes) then 0xFF
  else match g.ring.find? fun e => decide (e.1 ≤ x ∧ x < e.1 + 64) with
    | some e => (e.2.bytes).getD (x - e.1) 0xFF
    | none => 0xFF

/-- Bytes of the NOR ring from an offset. -/
def TallyLog.bytes (g : TallyLog) (x n : Nat) : List Byte := (List.range n).map fun k => g.byte ((x + k) % ringBytes)

/-- A register of the tally log window (Table 20.17). -/
def State.peekTally (s : State) (off : Nat) : Word32 :=
  let g := s.log
  let first := match g.ring.head? with | some e => e.2.seq | none => 0
  let last := match g.ring.getLast? with | some e => e.2.seq | none => 0
  if off = 0x0 then reg first else if off = 0x4 then reg (first / 2 ^ 32)
  else if off = 0x8 then reg last else if off = 0xC then reg (last / 2 ^ 32)
  else if off = 0x10 then reg g.pos
  else if off = 0x14 then reg g.staged.length
  else if off = 0x18 then
    reg (b2n s.store.ssds[0].mirror + 2 * b2n s.store.ssds[1].mirror + 4 * b2n (decide (g.badSectors.length < 256)))
  else if 0x40 ≤ off ∧ off < 0x70 then (digestRegs g.digest).getD ((off - 0x40) / 4) 0
  else if 0x1000 ≤ off ∧ off < 0x1000 + ringBytes then reg (leNat (g.bytes (off - 0x1000) 4))
  else 0

/-- PORT_STATE of a fabric port (Table 20.14). -/
def State.fabState (s : State) (i : FabricPort) : Word32 :=
  let x := s.fab[i]
  let rein := match s.sec? with | some m => m.reins.any fun r => r.ports.contains i.val | none => false
  reg (bitsAt (b2n rein) 28 + bitsAt (x.revision.toNat % 16) 24 + bitsAt x.rxActive.toNat 16 + bitsAt x.txActive.toNat 8 +
    bitsAt (b2n x.standIn.isSome) 7 + x.state.code)

/-- PORT_STATE of a stream port. -/
def State.stState (s : State) (i : StreamPort) : Word32 :=
  let x := s.st[i]
  reg ((match x.cfg with | some c => bitsAt 1 15 + bitsAt c.1.val 8 | none => 0) + bitsAt (ethCode x.mode) 4 + b2n x.up)

/-- PORT_STATE of a plant port. -/
def State.plState (s : State) (i : PlantPort) : Word32 := reg (bitsAt (ethCode s.pl[i].mode) 4 + b2n s.pl[i].up)

/-- A register of a port block. -/
def State.peekPort (s : State) (i off addr : Nat) : Word32 :=
  if h : i < 24 then
    (if off = 0 then s.fabState ⟨i, h⟩
     else if 0x400 ≤ off then ctrAt s.fab[i].snaps.toList off else cellGet 0 addr s.sample)
  else if 32 ≤ i ∧ i < 48 then
    (if off = 0 then s.stState (Fin.ofNat 16 (i - 32))
     else if 0x400 ≤ off then ctrAt s.st[Fin.ofNat 16 (i - 32)].snaps.toList off else 0)
  else if 48 ≤ i ∧ i < 50 then
    (if off = 0 then s.plState (Fin.ofNat 2 (i - 48))
     else if 0x400 ≤ off then ctrAt s.pl[Fin.ofNat 2 (i - 48)].snaps.toList off else 0)
  else 0

/-- A register of a core block: 0 with its rail off, CORE_STATE excepted (R444). -/
def State.peekCore (s : State) (p : CoreNo) (off addr : Nat) : Word32 :=
  if off ≠ 0 && !s.cores[p].supply.on then 0
  else if 0x100 ≤ off ∧ off < 0x120 then s.cores[p].tally[Fin.ofNat 8 ((off - 0x100) / 4)].sel
  else if 0x200 ≤ off ∧ off < 0x240 then
    s.cores[p].tally[Fin.ofNat 8 ((off - 0x200) / 8)].snap.half (decide (off / 4 % 2 = 1))
  else cellGet 0 addr s.sample

/-- A register of a fold block: 0 for an unallotted fold (R444). -/
def State.peekFold (s : State) (f : FoldNo) (off addr : Nat) : Word32 :=
  if s.folds[f].run = .unallotted then 0
  else if 0x400 ≤ off then ctrAt s.folds[f].snaps.toList off
  else cellGet 0 addr s.sample

/-- SUP_STATE (Table 20.8). -/
def State.supState (s : State) (u : Supervisor) : Word32 :=
  let recent := (u.restarts.filter fun t => decide (s.tick.number.toNat < t + 2 ^ 20)).length
  reg (u.state.code + bitsAt (min 15 recent) 4 + bitsAt (Config.mirrorFormat % 256) 8 + bitsAt (b2n u.region) 16)

/-- A register of the module block. -/
def State.peekModule (s : State) (off : Nat) : Word32 :=
  if off = 0x8 then reg s.trust.life.code
  else if off = 0x10 then reg s.faultCause
  else if off = 0x20 then s.presenceReg
  else if 0x200 ≤ off ∧ off < 0x240 then s.userTags[Fin.ofNat 16 ((off - 0x200) / 4)]
  else if 0x400 ≤ off then ctrAt s.snaps.toList off
  else cellGet 0 off s.sample

/-- What an address of the status space reads, without the latch of R447 (Table 20.1). -/
def State.peek (s : State) (addr : Nat) : Word32 :=
  if addr % 4 ≠ 0 then 0
  else if addr < 0x100000 then s.peekModule addr
  else if s.trust.life = .brandLost then 0
  else if addr < 0x100200 then
    (let u := if addr < 0x100100 then s.supA else s.supB
     if addr % 0x100 = 0 then s.supState u else cellGet 0 addr s.sample)
  else if 0x01000000 ≤ addr ∧ addr < 0x01200000 then
    s.peekCore (Fin.ofNat 32 ((addr - 0x01000000) / 0x10000)) (addr % 0x10000) addr
  else if 0x02000000 ≤ addr ∧ addr < 0x02020000 then
    s.peekFold (Fin.ofNat 32 ((addr - 0x02000000) / 0x1000)) (addr % 0x1000) addr
  else if 0x03000000 ≤ addr ∧ addr < 0x03032000 then
    s.peekPort ((addr - 0x03000000) / 0x1000) (addr % 0x1000) addr
  else if 0x04000000 ≤ addr ∧ addr < 0x09000000 then s.peekTally (addr - 0x04000000)
  else 0

/-- The address is the _LO of a pair (R447, R418). -/
def isLow (addr : Nat) : Bool :=
  let counter := fun (off base n : Nat) => decide (base ≤ off ∧ off < base + 8 * n ∧ off % 8 = 0)
  if addr < 0x100000 then addr = 0x18 || addr = 0x30 || counter addr 0x400 12
  else if 0x01000000 ≤ addr ∧ addr < 0x01200000 then
    addr % 0x10000 = 0x20 || addr % 0x10000 = 0x40 || counter (addr % 0x10000) 0x200 8
  else if 0x02000000 ≤ addr ∧ addr < 0x02020000 then
    [0x10, 0x18, 0x20, 0x30].contains (addr % 0x1000) || counter (addr % 0x1000) 0x400 23
  else if 0x03000000 ≤ addr ∧ addr < 0x03032000 then counter (addr % 0x1000) 0x400 14
  else addr = 0x04000000 || addr = 0x04000008

/-- Base of the block of an address (Table 20.1). -/
def blockOf (addr : Nat) : Nat :=
  if addr < 0x100000 then 0
  else if addr < 0x100200 then addr / 0x100 * 0x100
  else if addr < 0x02000000 then addr / 0x10000 * 0x10000
  else if addr < 0x04000000 then addr / 0x1000 * 0x1000
  else 0x04000000

/-- Offsets at which the 48 B values of a block begin. -/
def digestsIn (block : Nat) : List Nat :=
  if block = 0 then [0x40]
  else if block < 0x100200 then [0x10]
  else if block < 0x02000000 then []
  else if block < 0x02020000 then [0x40, 0x70]
  else if block < 0x03018000 then [0x40]
  else if block = 0x04000000 then [0x40]
  else []

/-- First address of the 48 B value of which an address is a later register. -/
def digestAt (addr : Nat) : Option Nat :=
  ((digestsIn (blockOf addr)).map fun o => blockOf addr + o).find? fun a => decide (a < addr ∧ addr < a + 48)

/-- The address is the first register of a 48 B value. -/
def isDigest (addr : Nat) : Bool := (digestsIn (blockOf addr)).contains (addr - blockOf addr)

/-- A read of a _LO register latches its _HI, and a read of the first register of a 48 B value the eleven that follow (R447). -/
def State.latchPair (s : State) (addr : Nat) : State :=
  let keep := fun (n : Nat) (h : Nat → Nat) => { s with latches :=
    ((List.range n).map fun k => (reg (h k), s.peek (h k))) ++ s.latches.filter fun l => !(List.range n).any fun k => decide (l.1 = reg (h k)) }
  if isLow addr then keep 1 fun _ => addr + 4
  else if isDigest addr then keep 11 fun k => addr + 4 * (k + 1)
  else s

/-- A read that does not go on with the 48 B value begun in its block ends that value's latches (R447). -/
def State.endDigest (s : State) (addr : Nat) : State :=
  { s with latches := s.latches.filter fun l =>
      !((digestAt l.1.toNat).isSome && decide (blockOf l.1.toNat = blockOf addr) && decide (l.1.toNat < addr ∨ digestAt addr ≠ digestAt l.1.toNat)) }

/-- What a read returns: the latched register where there is one, and the state after the read. -/
def State.readStatus (s : State) (addr : Nat) : Word32 × State :=
  let s := s.endDigest addr
  match s.latches.find? fun l => decide (l.1.toNat = addr) with
  | some l => (l.2, { s with latches := s.latches.erase l })
  | none => (s.peek addr, s.latchPair addr)

/-! ## Writing (R417, R445, R431) -/

/-- A presence window is open. -/
def State.windowOpen (s : State) : Bool := s.trust.pres.window.isSome

/-- The address is CORE_TALLY_SELn: physical core and counter. -/
def tallySel (addr : Nat) : Option (CoreNo × Fin 8) :=
  if 0x01000000 ≤ addr ∧ addr < 0x01200000 ∧ addr % 4 = 0 ∧ 0x100 ≤ addr % 0x10000 ∧ addr % 0x10000 < 0x120 then
    some (Fin.ofNat 32 ((addr - 0x01000000) / 0x10000), Fin.ofNat 8 ((addr % 0x10000 - 0x100) / 4))
  else none

/-- The address is MOD_USER_TAGn. -/
def userTag (addr : Nat) : Option (Fin 16) :=
  if addr % 4 = 0 ∧ 0x200 ≤ addr ∧ addr < 0x240 then some (Fin.ofNat 16 ((addr - 0x200) / 4)) else none

/-- A select register value as it is kept: reserved bits read 0 (Table 18.1). -/
def selValue (w : Word32) : Word32 := w &&& 0xEFFFE0FF

/-- The address is a register of kind W (Table 20.2): a user tag, or a select register of a core whose rail is on. -/
def State.writable (s : State) (addr : Nat) : Bool := match tallySel addr with
  | some x => s.cores[x.1].supply.on
  | none => (userTag addr).isSome

/-- An accepted write of a kind W register: a select value waits for the next snapshot (R417), a user tag takes effect
at once; a core whose rail is off accepts none. -/
def State.putStatus (s : State) (addr : Nat) (v : Word32) : Option State :=
  match tallySel addr with
  | some (p, k) =>
    if s.cores[p].supply.on then
      some (s.onCore p fun c => { c with tally := vmod c.tally k fun t => { t with selNext := some (selValue v) } })
    else none
  | none => match userTag addr with
    | some k => some { s with userTags := vmod s.userTags k fun _ => v }
    | none => none

/-- A refused status write counts (R445, Table 20.7). -/
def State.countRefusedWrite (s : State) : State := s.count 9 1

/-- A status write over I3C (R431): accepted inside a window, else NACKed and counted. -/
def State.i3cWrite (s : State) (addr v : Word32) : State :=
  match (if s.windowOpen then s.putStatus addr.toNat v else none) with
  | some t => { t with nack := false }
  | none => { s.countRefusedWrite with nack := true }

/-- PAIR_LOW_READ (R447, R418): a read of its block like any other. -/
def State.pairLowOp (s : State) (addr : Word32) : State := (s.endDigest addr.toNat).latchPair addr.toNat

def execPairLowRead (addr : BitVec 32) (s : State) : Host.Outcome State Fault Refusal := .next (s.pairLowOp addr)

end Sys2Proof.Machine
end

