-- ==== Sys2Proof/Machine/Load.lean ====
section
/-! DEFINITION. What is loaded into the cores of a fold: currier tables, gates, rings, slots, weight sets and the first
words of the streams (spec/07 R135, spec/08 R174 and R179, spec/05 R451, spec/06 R115, spec/09 R186). -/

namespace Sys2Proof.Machine

/-! ## Folds and their pens -/

/-- The record of a pen of an image. -/
def FoldImage.pen (i : FoldImage) (n : Nat) : Option PenRec := i.pens.find? fun p => decide (p.pen = n)

/-- The entry of a logical core in the pen that a fold runs. -/
def State.penCore (s : State) (f : FoldNo) (l : CoreNo) : Option PenCore :=
  s.folds[f].image.bind fun i => (i.pen s.folds[f].sel.pen).bind fun p => p.cores.find? fun c => decide (c.core = l)

/-- The logical cores that a fold holds, wholly or as a share. -/
def State.coresOf (s : State) (f : FoldNo) : List CoreNo := match s.folds[f].allot with
  | some a => (List.finRange 32).filter a.holds
  | none => []

/-- The physical cores on which they run. -/
def State.physOf (s : State) (f : FoldNo) : List CoreNo := (s.coresOf f).filterMap s.phys

/-- Folds that hold a logical core (R206). -/
def State.holders (s : State) (l : CoreNo) : List FoldNo :=
  (List.finRange 32).filter fun f => match s.folds[f].allot with
    | some a => a.holds l
    | none => false

/-- The fold has the second share of a logical core. -/
def State.secondOn (s : State) (f : FoldNo) (l : CoreNo) : Bool := match s.folds[f].allot with
  | some a => decide (a.shared = some l) && a.second
  | none => false

/-- The fold shares a logical core. -/
def State.sharesOn (s : State) (f : FoldNo) (l : CoreNo) : Bool := match s.folds[f].allot with
  | some a => decide (a.shared = some l)
  | none => false

/-- One change made to the physical core of every logical core of a fold. -/
def State.onFoldCores (s : State) (f : FoldNo) (g : CoreNo → Core → Core) : State :=
  (s.coresOf f).foldl (fun (s : State) l => match s.phys l with
    | some p => s.onCore p (g l)
    | none => s) s

/-! ## Currier tables (R135) -/

/-- Bytes of one sparse memory copied to a place of another. -/
def cellsCopy (src : List (Nat × Byte)) (from_ len to_ : Nat) (dst : List (Nat × Byte)) : List (Nat × Byte) :=
  (src.filter fun c => decide (from_ ≤ c.1 ∧ c.1 < from_ + len)).foldl (fun m c => cellSet 0 (to_ + (c.1 - from_)) c.2 m)
    (cellsClear to_ (to_ + len) dst)

/-- The tables and steps of a table set loaded as the 66 cycles from `now` on are to leave them: `t0` and `tn` the
tables, `s0` and `sn` the steps of the fold. -/
def Core.planTables (c : Core) (now off t0 tn s0 sn : Nat) (consts : Bool) : Core :=
  let m := c.pasture.cells
  let k := c.currier
  let busy := decide (now < k.loadUntil)
  let micro := off + 16416 * 16
  let steps := cellsCopy m micro (4 * sn) (4 * s0) (if busy then k.newMicro else k.micro)
  { c with currier := { k with
      newTables := cellsCopy m off (16416 * tn) (16416 * t0) (if busy then k.newTables else k.tables)
      newMicro := if consts then cellsCopy m (micro + 3840) 256 3840 steps else steps
      loadUntil := now + 66 } }

/-- A load of currier tables begins. -/
def Core.loadTables (c : Core) (now off t0 tn s0 sn : Nat) (consts : Bool) : Core :=
  let c := c.planTables now off t0 tn s0 sn consts
  { c with currier := c.currier.loadBeat now }

/-- The currier tables of a logical core for the pen that its fold runs; on a shared core the fold's own tables and
steps, the first share taking the lowest steps (R302). -/
def State.loadTablesOn (s : State) (f : FoldNo) (l : CoreNo) : State :=
  match s.penCore f l, s.folds[f].allot, s.phys l with
  | some e, some a, some p =>
    if a.shared = some l then
      s.onCore p fun c => c.loadTables s.now e.tables a.table0 a.tableN (if a.second then 960 - a.steps else 0) a.steps true
    else s.onCore p fun c => c.loadTables s.now e.tables 0 16 0 960 true
  | _, _, _ => s

/-! ## Gates and rings (R169, R174) -/

/-- A gate belongs to a fold on a core. -/
def Allot.ownsGate (a : Allot) (l : CoreNo) (g : Nat) : Bool :=
  if a.shared = some l then decide (a.gate0 ≤ g ∧ g < a.gate0 + a.gateN) else a.holds l

/-- A ring belongs to a fold on a core. -/
def Allot.ownsRing (a : Allot) (l : CoreNo) (r : Nat) : Bool :=
  if a.shared = some l then decide (a.ring0 ≤ r ∧ r < a.ring0 + a.ringN) else a.holds l

/-- The handles with which a gate starts under a pen. -/
def FoldImage.initial (i : FoldImage) (l : CoreNo) (g : GateNo) (pen : Nat) : List Handle :=
  match i.gates.find? fun r => decide (r.core = l) && decide (r.gate = g) with
  | some r => (match r.lists.find? fun x => decide (x.1 = pen) with
    | some x => x.2
    | none => [])
  | none => []

/-- Every gate of a fold on one core emptied and loaded; handles on their way to them are never placed. -/
def Core.loadGates (c : Core) (now : Nat) (a : Allot) (i : FoldImage) (l : CoreNo) (pen : Nat) : Core :=
  { c with
    gates := Vector.ofFn fun g => if a.ownsGate l g.val then
        { queue := (i.initial l g pen).map fun h => (h, now), freed := [] } else c.gates[g]
    arrivals := c.arrivals.map fun x => if a.ownsGate l x.gate.val && decide (x.sent < now) then { x with dead := true } else x }

/-- The gates of a fold on one logical core. -/
def State.loadGatesOn (s : State) (f : FoldNo) (l : CoreNo) : State :=
  match s.folds[f].allot, s.folds[f].image, s.phys l with
  | some a, some i, some p => s.onCore p fun c => c.loadGates s.now a i l s.folds[f].sel.pen
  | _, _, _ => s

/-- The rings of a fold on one logical core as the image gives them. -/
def State.loadRingsOn (s : State) (f : FoldNo) (l : CoreNo) : State :=
  match s.folds[f].allot, s.folds[f].image, s.phys l with
  | some a, some i, some p => s.onCore p fun c =>
      { c with rings := Vector.ofFn fun r => if a.ownsRing l r.val then
          { reg := (match i.rings.find? fun x => decide (x.core = l) && decide (x.ring = r) with
              | some x => x.reg
              | none => 0), started := 0 } else c.rings[r] }
  | _, _, _ => s

/-- The rings of cancelled streams reset and the row feeder queue emptied, at the instant after a cancellation
(R179). -/
def Core.resetRings (c : Core) : Core :=
  let c := c.ringsToReset.foldl (fun c r => c.onRing r Ring.zero) c
  { c with ringsToReset := [], emptyFeeder := false, feeder := if c.emptyFeeder then [] else c.feeder }

/-! ## Slots and weight sets (R115, R451) -/

/-- Every slot cleared to class UQ8 with window base 0. -/
def Core.clearSlots (c : Core) : Core :=
  { c with acc := (List.range 64).foldl (fun a s => a.clear s 0 0) c.acc }

/-- The slots of a fold on one core: all, or its own on a shared core. -/
def Core.clearSlotsOf (c : Core) (a : Allot) (l : CoreNo) : Core :=
  if a.shared = some l then
    { c with acc := (List.range a.slotN).foldl (fun m s => m.clear (a.slot0 + s) 0 0) c.acc }
  else c.clearSlots

/-- Both weight sets without a format, zeros marked bad. -/
def Core.clearSets (c : Core) : Core := { c with setX := WeightSet.reset, setY := WeightSet.reset }

/-- The UQ8 tensors that the pen of a fold names on a core begin again with the entries of the image (R61). -/
def State.restartTensorsOf (s : State) (f : FoldNo) (l : CoreNo) (c : Core) : Core :=
  match s.folds[f].image with
  | none => c
  | some i =>
    let named := fun (rec : Nat) => i.tensors.any fun t => decide (t.1 = s.folds[f].sel.pen ∧ t.2.1 = l ∧ t.2.2 = rec)
    (c.tensors.filter fun t => named t.1).foldl (fun c t => c.restartTensor s.now t.1) c

/-- The UQ8 tensors of a fold on a core begin with its start: those of its image, and none that it had before (R61). -/
def State.beginTensorsOf (s : State) (f : FoldNo) (l : CoreNo) (c : Core) : Core :=
  match s.folds[f].image with
  | none => c
  | some i =>
    let dyn := fun (off : Nat) => match s.regionOf f l off with
      | some r => r.dynamic
      | none => false
    let c := { c with tensors := c.tensors.filter fun t => (s.regionOf f l t.1).isNone }
    (((i.tensors.filter fun t => decide (t.2.1 = l)).map fun t => t.2.2).dedup).foldl
      (fun (c : Core) rec => c.beginTensor s.now dyn i.measurement l.val rec) c

/-- What a start or a restart clears on the cores of a fold (R323, R369, R451), with the UQ8 tensors beginning anew
(R61). Descriptors that drovers keep are read again, since a load may have changed them (DESIGN CHOICE, assumption 19). -/
def State.clearCores (s : State) (f : FoldNo) : State :=
  match s.folds[f].allot with
  | none => s
  | some a => s.onFoldCores f fun l c =>
      { s.beginTensorsOf f l (c.clearSlotsOf a l).clearSets with dbufs := Vector.replicate 4 [] }

/-! ## Streams (R186, R304) -/

/-- A stream at its first word. -/
def Stream.begin (t : Stream) (first base : Nat) : Stream :=
  { Stream.reset with running := true, next := first, base := base, lastIssue := base, handles := t.handles }

/-- The three streams of a core at their first words. -/
def Core.beginStreams (c : Core) (e : PenCore) (base : Nat) : Core :=
  { c with matrix := c.matrix.begin e.matrix base, cstream := c.cstream.begin e.currier base,
           dstream := c.dstream.begin e.drover base }

/-- The streams of a fold on one logical core start at a cycle, unless the core is absent. -/
def State.startOn (s : State) (f : FoldNo) (l : CoreNo) (base : Nat) : State :=
  match s.penCore f l, s.phys l with
  | some e, some p => if s.absent l then s else s.onCore p fun c => c.beginStreams e base
  | _, _ => s

/-- The streams of every core of a running fold start at the instant; second shares wait for their boundary. -/
def State.startStreams (s : State) (f : FoldNo) : State :=
  (s.coresOf f).foldl (fun (s : State) l => if s.secondOn f l then s else s.startOn f l s.tick.instant) s

/-- The streams of a core stop: nothing further issues, and what its threads and parts had in hand is dropped. -/
def Core.stopStreams (c : Core) : Core :=
  { c with matrix := { c.matrix with running := false, active := none, wait := .none }
           cstream := { c.cstream with running := false, active := none, wait := .none }
           dstream := { c.dstream with running := false, active := none, wait := .none }
           currier := { c.currier with sec? := none, threads := c.currier.threads.map fun t => { t with running := false } } }

/-- A stream of a core has not issued ENDP. -/
def Core.anyRunning (c : Core) : Bool := c.matrix.running || c.cstream.running || c.dstream.running

/-- The stream of a core whose issue belongs to a fold now, or to its share in force. -/
def State.stopFoldStreams (s : State) (f : FoldNo) : State :=
  (s.coresOf f).foldl (fun (s : State) l => match s.phys l with
    | some p => if s.sharesOn f l && decide (s.foldOf l ≠ some f) then s else s.onCore p Core.stopStreams
    | none => s) s

/-! ## SHARE_BOUNDARY (R304, R305) -/

/-- Streams of a fold on a core that are still active are cancelled. -/
def State.cancelOn (s : State) (f : FoldNo) (p : CoreNo) : State :=
  s.onCoreE p (fun c =>
    let r := c.cancel fun x => decide (x.fold = f)
    ({ r.1 with emptyFeeder := true }, r.2)) f

/-- From cycle b of a shared core on, and not earlier: an unfinished first share is reported, its drover streams are cancelled, the feeder is
emptied, and the second share starts. -/
def State.shareBoundaryOp (s : State) (l : CoreNo) : State :=
  let first := (s.holders l).find? fun f => s.sharesOn f l && !s.secondOn f l
  let second := (s.holders l).find? fun f => s.secondOn f l
  let early := (s.holders l).any fun f => s.sharesOn f l && (match s.folds[f].allot with
    | some a => decide (s.rel < a.boundary)
    | none => false)
  match (if early then none else s.phys l) with
  | none => s
  | some p =>
    let s : State := match first with
      | some f =>
        if s.cores[p].anyRunning && decide (s.folds[f].run = RunState.running) then
          s.onFold f fun x => { x with recov := { x.recov with overrun := true, hang := some 0x0502 } }
        else s
      | none => s
    let s := s.onCore p fun c => { c.stopStreams with feeder := [] }
    let s : State := match first with
      | some f => s.cancelOn f p
      | none => s
    match second with
    | some f => if s.folds[f].run = .running then s.startOn f l s.now else s
    | none => s

def execShareBoundary (l : CoreNo) (s : State) : Host.Outcome State Fault Refusal := .next (s.shareBoundaryOp l)

end Sys2Proof.Machine
end

