-- ==== Sys2Proof/Machine/CoreLoss.lean ====
section
/-! DEFINITION. The loss of a core: fault, isolation, takeover by the spare, rebuild, and the planned handover of a worn
core (spec/10_determinism_and_spares.md R209 to R217, spec/17 R407). -/

namespace Sys2Proof.Machine

/-! ## Fault notices (R373) -/

/-- Payload of a fault notice (Table 16.4). -/
def noticeBytes (tick : Nat) (m : BitVec 12) (tag : BitVec 16) (code : BitVec 16) (l : Option CoreNo) (action : Nat)
    (detail : List Byte) : List Byte :=
  beBytes tick 8 ++ beBytes m.toNat 2 ++ beBytes tag.toNat 2 ++ beBytes code.toNat 2 ++
    beBytes (match l with | some l => l.val | none => 255) 1 ++ beBytes action 1 ++ sliceD 0 detail 0 16

/-- A notice of an event of a fold on this module: from the shepherd to every other member, from another member to
the shepherd and the deputy. -/
def State.notice (s : State) (f : FoldNo) (code : BitVec 16) (l : Option CoreNo) (action : Nat) (detail : List Byte) :
    State :=
  match s.folds[f].image, s.folds[f].allot with
  | some i, some a =>
    if !i.multi then s
    else
      let to_ := if i.shepherd = s.hallNo then i.memberList else [i.shepherd, i.deputy].dedup
      let bytes := noticeBytes s.tick.number.toNat s.hallNo a.tag code l action detail
      to_.foldl (fun (s : State) m => if m = s.hallNo then s else s.sendMail none 9 false m 0xFFFF 0 0 0 bytes) s
  | _, _ => s

/-! ## CORE_FAULT_DETECTED and CORE_ISOLATED (R209) -/

/-- Code of a cause (Table 16.6). -/
def causeCode : FatalCause → Nat
  | .regulator => 1
  | .clock => 2
  | .endpoint => 3
  | .selfCheck => 4
  | .recurrence => 5

/-- A core is in state spare, without a fault. -/
def State.spareFree (s : State) : Bool := s.cores.any fun c => decide (c.mode = .spare) && c.fault.isNone

/-- The core runs a logical core. -/
def Core.inUse (c : Core) : Bool := decide (c.mode = .mapped) || decide (c.mode = .rebuilding)

/-- The last tick whose frames can carry a mark that has no end yet. -/
def noEnd : Nat := 2 ^ 48

/-- A core that runs a logical core and is faulty, or that ran one and is lost. -/
def Core.lost (c : Core) : Bool := c.inUse && c.fault.isSome || decide (c.mode = .failed) && c.absent

/-- A physical core without a fault that is lost now would be taken over at T1 (R212, Table 10.4): it runs a logical core on
its own data, a spare is free, and no other lost core has it. -/
def State.willTake (s : State) (p : CoreNo) : Bool :=
  decide (s.cores[p].mode = .mapped) && s.spareFree && !(List.finRange 32).any fun q => decide (q ≠ p) && s.cores[q].lost

/-- A fault of a physical core is detected (R209): from now everything that leaves it is marked bad, and where a takeover
follows the frames of its folds carry the takeover mark (R215). -/
def State.coreFault (s : State) (p : CoreNo) (c : FatalCause) : State :=
  let x := s.cores[p]
  if x.fault.isSome ∨ x.mode = .fusedOff ∨ x.mode = .retired then s
  else
    let follows := s.willTake p
    let s := s.onCore p fun c' => { c' with fault := some s.now, cause := some c }
    let l := s.logicalOf p
    let s := s.log1 0x0101 none l (some p) (leBytes (causeCode c) 1)
    match l with
    | none => s
    | some l => (s.holders l).foldl (fun (s : State) f =>
        let s := if follows then s.onFold f fun x => { x with takeoverUntil := some noEnd } else s
        s.notice f 0x0101 (some l) 0 (leBytes (causeCode c) 1)) s

/-- The takeover marks that wait for the end of a rebuild end: no takeover follows, or its chain has stopped, and the frames of
this tick and the two after it are the last ones marked (DESIGN CHOICE, assumption 32). -/
def State.endMarks (s : State) : State :=
  { s with folds := s.folds.map fun (x : Fold) =>
      if x.takeoverUntil = some noEnd then { x with takeoverUntil := some (s.tick.number.toNat + 2) } else x }

/-- The faulty core is fenced (R209): its streams stop and its drover work is cancelled (R179). A core that was lost
while the chain of R213 runs leaves the rest of the chain to be written poisoned, and the chain ends when it was the
spare (Table 10.4). -/
def State.isolate (s : State) (p : CoreNo) : State :=
  let x := s.cores[p]
  if x.fault.isNone ∨ x.isolated then s
  else
    let used := x.inUse
    let s := if x.mode = .spare ∨ x.mode = .rebuilding then s.endMarks else s
    let s := s.onCoreE p fun c =>
      let r := c.cancel fun _ => true
      ({ r.1.stopStreams with
          passes := [], walks := [], clears := [], mode := .failed, isolated := true, absent := used, planned := false,
          supply := { r.1.supply with on := false, handover := none, copy := none, warming := false } }, r.2)
    let s := match s.rebuild with
      | some r => if r.spare = p then { s with rebuild := none } else if used then { s with rebuild := some { r with poisoned := true } } else s
      | none => s
    if used && !s.spareFree then s.log1 0x0102 none (some x.logical) (some p) [] else s

/-! ## The takeover instant (R206, R212, R419) -/

/-- Epoch of a logical core advanced in every fold that holds it (R206, R269). -/
def State.advanceEpoch (s : State) (l : CoreNo) : State :=
  (s.holders l).foldl (fun (s : State) f => s.onFold f fun x => { x with epochs := vmod x.epochs l epochNext }) s

/-- Region records of a logical core over every fold that holds it, in their order. -/
def State.regionsOf (s : State) (l : CoreNo) : List Region :=
  (List.finRange 32).flatMap fun f => match s.folds[f].image with
    | some i => i.regions.filter fun r => decide (r.core = l)
    | none => []

/-- 256 B units of static regions. -/
def unitsOf (rs : List Region) : Nat := (rs.map fun r => if r.dynamic then 0 else (r.len + 255) / 256).sum

/-- The counters of the spare at the instant that maps a logical core onto it (R419). -/
def takeTallies (old new : Vector Tally 8) : Vector Tally 8 :=
  Vector.zipWith (fun a b => { b with sel := a.sel, selNext := a.selNext, ctr := Ctr.zero, prev := false }) old new

/-- The spare takes a logical core with its fleece member number; its own parity block stays. -/
def State.mapOnto (s : State) (from_ to_ : CoreNo) (mode : CoreMode) (absent : Bool) : State :=
  let old := s.cores[from_]
  let s := s.onCore to_ fun c =>
    { c with mode := mode, logical := old.logical, member := old.member, absent := absent,
             tally := takeTallies old.tally c.tally, supply := { c.supply with warming := false },
             tensors := old.tensors.map fun t => (t.1, .fresh t.2.initial) }
  let s := s.onCore from_ fun c => { c with absent := false }
  let s := s.advanceEpoch old.logical
  (s.holders old.logical).foldl (fun (s : State) f => s.onFold f fun x => { x with sel := { x.sel with spareInUse := true } }) s

/-- Start count of a logical core (R214). -/
def State.startCount (s : State) (l : CoreNo) : Nat := match s.sec? with
  | some m => m.startCounts.getD l.val 0
  | none => 0

/-- The rebuild chain is complete (R213, R215). The spare keeps its own parity block and the block of the lost core's place is
gone: the log entry reports the protection that is left (R157), with the units lost. -/
def State.rebuilt (s : State) (r : Rebuild) : State :=
  let s := s.onCore r.spare fun c => { c with mode := .mapped }
  let s := (s.holders r.logical).foldl (fun (s : State) f =>
    s.onFold f fun x => { x with takeoverUntil := some (s.tick.number.toNat + 2) }) s
  { s.log1 0x0103 none (some r.logical) (some r.spare) (leBytes r.losses 4) with rebuild := none }

/-- The takeover of a lost core at T1: the spare is mapped in state rebuilding and the chain starts; handover notices
are cancelled, because the spare is used (Table 17.8). Of several lost cores the first whose fault was found is taken over
(DESIGN CHOICE, assumption 32); a second loss leaves no chain of senders, and every unit is poisoned. -/
def State.takeover (s : State) : State :=
  let lost := (List.finRange 32).filter fun p => decide (s.cores[p].mode = .failed) && s.cores[p].absent
  match (sortKey (fun p : CoreNo => s.cores[p].fault.getD 0) lost).head?,
      (List.finRange 32).find? fun p => decide (s.cores[p].mode = .spare) && s.cores[p].fault.isNone with
  | some p, some q =>
    let l := s.cores[p].logical
    let s := s.mapOnto p q .rebuilding true
    let calm := fun (c : Core) => { c with planned := false, supply := { c.supply with handover := none, copy := none } }
    let s := { s with cores := s.cores.map calm }
    let rs := s.regionsOf l
    let r : Rebuild :=
      { t1 := s.now, logical := l, spare := q,
        units := (rs.filter fun x => !x.dynamic).map fun x => (x.start, (x.len + 255) / 256), done := 0,
        startUnits := unitsOf (rs.take (s.startCount l)), losses := 0
        poisoned := (List.finRange 32).any fun o => decide (o ≠ p ∧ o ≠ q) && s.cores[o].lost }
    let s := { s with rebuild := some r }
    let s := (s.holders l).foldl (fun (s : State) f => s.notice f 0x0103 (some l) 4 []) s
    if unitsOf rs = 0 then s.rebuilt r else s
  | _, _ => s

/-! ## REBUILD_UNIT_WRITTEN (R213) -/

/-- Offset of the next unit of the chain. -/
def nextUnit (units : List (Nat × Nat)) (done : Nat) : Option Nat :=
  match units with
  | [] => none
  | (start, n) :: r => if done < n then some (start + 256 * done) else nextUnit r (done - n)

/-- The words of one unit from parity; none when one of them cannot be rebuilt. -/
def State.unitWords (s : State) (q off : Nat) : Option (List Byte) :=
  (List.range 8).foldl (fun a k => a.bind fun bs => (s.rebuiltWord q (off + 32 * k)).map fun w => bs ++ w) (some [])

/-- The chain writes its next unit, from cycle T1 + 8 + i + 50 × (G − 2) on: whole and without poison, or poisoned
when a contribution cannot be read or a second core is lost (Table 10.4). -/
def State.rebuildUnit (s : State) : State :=
  match s.rebuild with
  | none => s
  | some r =>
    match nextUnit r.units r.done with
    | none => s
    | some off =>
      if s.now < r.t1 + 8 + r.done + 50 * (s.groupSize - 2) then s
      else
        let words := if r.poisoned then none else s.unitWords s.cores[r.spare].member off
        let s := s.onCore r.spare fun c => { c with pasture := match words with
          | some bs => (List.range 8).foldl (fun m k => m.fix (off / 32 + k) ((bs.drop (32 * k)).take 32)) c.pasture
          | none => c.pasture.poisonZero (off / 32) (off / 32 + 8) }
        let r := { r with done := r.done + 1, losses := r.losses + b2n words.isNone }
        if r.done = (r.units.map fun u => u.2).sum then s.rebuilt r else { s with rebuild := some r }

/-- The UQ8 tensors of a core begin again with the entries of the image (R61). -/
def Core.restartTensors (c : Core) (now : Nat) : Core := c.tensors.foldl (fun c t => c.restartTensor now t.1) c

/-- The spare begins to run the pen at the first instant after the units of its first s regions are written (R214):
its currier tables are loaded, and with them its rings and gates (DEDUCED, assumption 32). -/
def State.spareRuns (s : State) : State :=
  (List.finRange 32).foldl (fun (s : State) q =>
    let c := s.cores[q]
    let ready := match s.rebuild with
      | some r => if r.spare = q then decide (r.startUnits ≤ r.done) else true
      | none => true
    if c.inUse && c.absent && ready then
      let s := s.onCore q fun c => { c.restartTensors s.now with absent := false }
      (s.holders c.logical).foldl (fun (s : State) f =>
        ((s.loadTablesOn f c.logical).loadRingsOn f c.logical).loadGatesOn f c.logical) s
    else s) s

/-! ## The planned handover (R216, R407) -/

/-- 256 B units of static data of a logical core. -/
def State.staticUnits (s : State) (l : CoreNo) : Nat := unitsOf (s.regionsOf l)

/-- The copy of a worn core starts at the instant H − (ceil(U / (1,920 × P)) + 1). -/
def State.copyStarts (s : State) : State :=
  (List.finRange 32).foldl (fun (s : State) p =>
    let c := s.cores[p]
    match c.supply.handover with
    | some h =>
      let u := s.staticUnits c.logical
      if c.supply.copy.isNone && decide (s.tick.number.toNat + (u + s.reserveAt - 1) / max 1 s.reserveAt + 1 ≥ h) && s.spareFree then
        s.onCore p fun c => { c with supply := { c.supply with copy := some u } }
      else s
    | none => s) s

/-- The copy goes on by one unit in a cycle outside the mail delivery window and while no rebuild chain runs. -/
def Core.copyCycle (c : Core) : Core :=
  match c.supply.copy with
  | some (n + 1) => { c with supply := { c.supply with copy := some n } }
  | _ => c

/-- The numbers of a set from `lo` up to `hi` put into another set in place of its own. -/
def ivCopy (src : List (Nat × Nat)) (lo hi : Nat) (dst : List (Nat × Nat)) : List (Nat × Nat) :=
  src.foldl (fun d r => ivAdd (max lo r.1) (min hi r.2) d) (ivDel lo hi dst)

/-- The static data of one physical core put into another, as the reads of the copy find it: one or two flipped bits are
corrected, poisoned and uncorrectable words stay so (R149, R150). -/
def State.copyStatic (s : State) (from_ to_ : CoreNo) (l : CoreNo) : State :=
  let rs := (s.regionsOf l).filter fun r => !r.dynamic
  let src := s.cores[from_].pasture
  s.onCore to_ fun c => { c with pasture := rs.foldl (fun m r =>
    let lo := r.start / 32
    let hi := (r.start + r.len) / 32
    let inside := fun (w : Nat) => decide (lo ≤ w ∧ w < hi)
    { m with cells := cellsCopy src.cells r.start r.len r.start m.cells
             poison := ivCopy src.poison lo hi m.poison
             flips := (src.flips.filter fun x => inside x.1 && decide (3 ≤ flipCount x.2)).foldl (fun l x => cellSet 0 x.1 x.2 l)
               (m.flips.filter fun x => !inside x.1)
             broken := (src.broken.filter inside) ++ m.broken.filter fun w => !inside w }) c.pasture }

/-- The handover instant: the logical core moves onto the spare, the worn core is switched off and retired, or the
handover is deferred while the copy has not ended. Its UQ8 tensors, whose dynamic regions are not copied, start again with the
image's entries and an empty window (DESIGN CHOICE, assumption 32). -/
def State.handovers (s : State) : State :=
  (List.finRange 32).foldl (fun (s : State) p =>
    let c := s.cores[p]
    if c.mode = .mapped ∧ c.supply.handover = some s.tick.number.toNat then
      match (List.finRange 32).find? fun q => decide (s.cores[q].mode = .spare) && s.cores[q].fault.isNone with
      | some q =>
        if c.supply.copy = some 0 then
          let l := c.logical
          let s := s.copyStatic p q l
          let s := (s.mapOnto p q .mapped false).onCore q fun c => c.restartTensors s.now
          let s := s.onCore p fun c => { c.stopStreams with
            mode := .retired, planned := false, logical := 0, member := 0,
            supply := { c.supply with on := false, handover := none, copy := none } }
          let s := { s with store := { s.store with commits := s.store.commits ++
            [{ s.tack with retired := s.tack.retired ||| BitVec.ofNat 32 (2 ^ p.val) }] } }
          let s := (s.holders l).foldl (fun (s : State) f =>
            let s := s.onFold f fun x => { x with takeoverUntil := some (s.tick.number.toNat + 2) }
            (((s.loadTablesOn f l).loadRingsOn f l).loadGatesOn f l).notice f 0x0104 (some l) 4 []) s
          s.log1 0x0104 none (some l) (some p) []
        else
          let h := (s.tick.number.toNat / 65536 + 1) * 65536
          (s.onCore p fun c => { c with supply := { c.supply with handover := some h } }).log1 0x0D06 none (some c.logical)
            (some p) (leBytes p.val 1 ++ leBytes h 8)
      | none => s.onCore p fun c => { c with planned := false, supply := { c.supply with handover := none, copy := none } }
    else s) s

/-! ## Meanings -/

def execCoreFaultDetected (p : CoreNo) (c : FatalCause) (s : State) : Host.Outcome State Fault Refusal :=
  .next (s.coreFault p c)
def execCoreIsolated (p : CoreNo) (s : State) : Host.Outcome State Fault Refusal := .next (s.isolate p)
def execRebuildUnitWritten (s : State) : Host.Outcome State Fault Refusal := .next s.rebuildUnit

end Sys2Proof.Machine
end

