-- ==== Sys2Proof/Machine/ImageCheck.lean ====
section
/-! DEFINITION. What the module rejects in a tack image: instruction words, descriptors, tables, records, and the items
of fold and module sections (R9, R25, R32, R57, R132, R151, R165, R169, R171, R183, R187, R188, R243, R252, R254, R303,
R312 to R314, R408). -/

namespace Sys2Proof.Machine

/-! ## Instruction words (R183, R187, R188) -/

/-- Stream of an opcode (Table 9.1): 0 matrix, 1 currier, 2 drover; 3 any, 4 none. -/
def opStream (op : Nat) : Nat :=
  if 0x01 ≤ op ∧ op ≤ 0x06 then 0
  else if 0x40 ≤ op ∧ op ≤ 0x5A then 1
  else if 0x80 ≤ op ∧ op ≤ 0x82 then 2
  else if 0xC0 ≤ op ∧ op ≤ 0xC7 then 3
  else 4

/-- Reserved fields of an opcode: position and width (Tables 9.2, 9.3, 9.7 to 9.14) (DEDUCED, assumption 23). -/
def reservedFields (op : Nat) : List (Nat × Nat) :=
  match op with
  | 0x01 => [(32, 41)]
  | 0x02 => [(98, 3), (76, 1), (32, 41)]
  | 0x03 => [(16, 80)]
  | 0x04 => [(32, 57)]
  | 0x05 => [(32, 8)]
  | 0x06 => [(32, 58)]
  | 0x56 => [(16, 13)]
  | 0x57 => [(16, 51)]
  | 0x58 => [(16, 80)]
  | 0x59 => [(86, 5), (16, 52)]
  | 0x80 => [(16, 73)]
  | 0x81 => [(32, 20)]
  | 0x82 => [(96, 32), (16, 75)]
  | 0xC0 => [(16, 112)]
  | 0xC1 => [(16, 84)]
  | 0xC2 => [(16, 104)]
  | 0xC3 => [(16, 54)]
  | 0xC4 => [(8, 90)]
  | 0xC5 => [(16, 102)]
  | 0xC6 => [(16, 112)]
  | 0xC7 => [(16, 104)]
  | _ => []

/-- Opcodes whose map shows an index modifier. -/
def hasModifier (op : Nat) : Bool :=
  decide (op = 0x01 ∨ op = 0x02 ∨ op = 0x04 ∨ op = 0x05 ∨ op = 0x06 ∨ op = 0x81 ∨ op = 0x5A) ||
    decide (0x40 ≤ op ∧ op ≤ 0x55)

/-- Ranges of the fields of a word. -/
def rangesOk (w : Word128) : Bool :=
  let op := opcodeOf w
  let even := fun (lo : Nat) => decide (fld w lo 1 = 0)
  if op = 0x01 then
    decide (fld w 120 8 ≤ 128) && decide (fld w 73 3 ≤ 4) && (decide (fld w 73 3 ≤ 1) || even 78) &&
      (!bitOf w 76 || (decide (fld w 98 8 < 128) && decide (fld w 73 3 ≤ 1) && even 78))
  else if op = 0x02 then
    decide (fld w 120 8 ≤ 128) && decide (fld w 101 5 ≤ 23) && even 78 && decide (fld w 73 3 ≤ 3)
  else if op = 0x03 then
    decide (fld w 112 3 ≤ 3) && (!bitOf w 121 || even 122) &&
      decide (fld w 122 6 + (fld w 115 6 + 1) * (if bitOf w 121 then 2 else 1) ≤ 64)
  else if op = 0x04 then (!bitOf w 121 || even 122) && zeros w 89 12
  else if op = 0x05 then
    (!bitOf w 121 || even 122) && zeros w 88 12 && decide (1 ≤ fld w 84 4 ∧ fld w 84 4 ≤ 6) && decide (fld w 82 2 ≤ 2)
  else if op = 0x06 then !bitOf w 127
  else if 0x40 ≤ op ∧ op ≤ 0x55 ∨ op = 0x5A then
    (decide (1 ≤ fld w 62 4 ∧ fld w 62 4 ≤ 6) || (decide (fld w 62 4 = 0) && decide (op = 0x4F ∨ op = 0x50 ∨ op = 0x51 ∨ op = 0x5A))) &&
      decide (fld w 49 8 < 128) && (decide (op ≠ 0x46) || decide (fld w 35 3 ≤ 3))
  else if op = 0x58 then zeros w 96 6
  else if op = 0x59 then (fmtOf (fld w 68 4)).isSome
  else if op = 0x80 then zeros w 96 5
  else if op = 0xC4 then decide (1 ≤ fld w 112 16) && decide (1 ≤ fld w 100 12)
  else if op = 0xC5 then decide (fld w 118 5 ≤ 16)
  else true

/-- A word may stand in a stream of a kind, alone (R183). -/
def wordOk (stream : Nat) (w : Word128) : Bool :=
  let op := opcodeOf w
  (decide (opStream op = stream) || decide (opStream op = 3)) &&
    ((reservedFields op).all fun f => zeros w f.1 f.2) && (!hasModifier op || bitOf w 31 || zeros w 16 16) && rangesOk w

/-- An open loop of a program: level, trip count, end of its body. -/
abbrev OpenLoop := Nat × Nat × Nat

/-- The slot of a word must be even: pair classes, half-depth, wide passes, and the pair flag of a SPILL or READ
(Tables 9.7 and 9.8). -/
def evenSlot (w : Word128) : Bool :=
  let op := opcodeOf w
  (decide (op = 0x01) && (decide (2 ≤ fld w 73 3) || bitOf w 76)) || decide (op = 0x02) ||
    (decide (op = 0x04 ∨ op = 0x05) && bitOf w 121)

/-- Iterations of the loop that the modifier of a word names. -/
def modTrips (loops : List OpenLoop) (w : Word128) : Nat :=
  match loops.find? fun o => decide (o.1 = fld w 29 2) with
  | some o => o.2.1
  | none => 1

/-- No iteration of the loops open takes a modified field outside its range (R188), to an odd slot where the word needs an even
one, or a WLOAD to a source base with bit 31 set (Table 9.9). -/
def modifierOk (loops : List OpenLoop) (w : Word128) : Bool :=
  if hasModifier (opcodeOf w) && bitOf w 31 then
    let trips := modTrips loops w
    let fs := modTargets (opcodeOf w) (fld w 27 2)
    !fs.isEmpty && fs.all fun f =>
      let last : Int := fld w f.1 f.2.1 + ((trips - 1 : Nat) : Int) * fldS w 16 11 * f.2.2
      let width := if opcodeOf w = 0x06 then 31 else f.2.1
      decide (0 ≤ last ∧ last < 2 ^ width) &&
        (!(evenSlot w && decide (fld w 27 2 = 0)) || decide (trips ≤ 1) || decide (fldS w 16 11 % 2 = 0))
  else true

/-- Steps of a micro-program of the static data, from a step to its end step (R137); `store` is the place of step 0. -/
def Slot.microSteps (s : Slot) (i : FoldImage) (l : CoreNo) (store pc : Nat) : Nat → Nat
  | 0 => 0
  | n + 1 => if fldN (s.staticNum i l (store + 4 * pc) 4) 27 5 = 0 then 1 else 1 + s.microSteps i l store (pc + 1) n

/-- Least and most issue cycles of a word of a branch (R126, R128, R137, R185): a lane operation or a row pass with binary64 takes
4 cycles a lane-row, and whether a source register holds binary64 is not in the word (DEDUCED, assumption 23). `micro` gives the
steps of a micro-program entry. -/
def branchCycles (micro : Nat → Nat) (w : Word128) : Nat × Nat :=
  let op := opcodeOf w
  let g := curG w
  if op = 0xC0 ∨ 0x52 ≤ op then (1, 1)
  else if op = 0x4C then (g * micro (fld w 38 4), g * micro (fld w 38 4))
  else if curFmt w = .b64 ∧ ¬ (0x4F ≤ op ∧ op ≤ 0x51) then (4 * g, 4 * g)
  else (g, 4 * g)

/-- A branch of a BSEL holds only lane operations, row statistics and NOP, and its declared cycles are the occupancy of its
words, as far as the words fix it (R195). -/
def Slot.branchOk (s : Slot) (i : FoldImage) (l : CoreNo) (micro : Nat → Nat) (off words cycles : Nat) : Bool :=
  let ws : List Word128 := (List.range words).map fun k => BitVec.ofNat 128 (s.staticNum i l (off + 16 * k) 16)
  let least := (ws.map fun w => delayOf w + (branchCycles micro w).1).sum
  let most := (ws.map fun w => delayOf w + (branchCycles micro w).2).sum
  (ws.all fun w => decide (opcodeOf w = 0xC0) || decide (0x40 ≤ opcodeOf w ∧ opcodeOf w ≤ 0x55)) &&
    decide (least ≤ cycles ∧ cycles ≤ most)

/-- Thread code up to its THEND: lane operations of one lane-row, TLD and NOP (R196). -/
def Slot.threadOk (s : Slot) (i : FoldImage) (l : CoreNo) (off : Nat) : Nat → Bool
  | 0 => false
  | n + 1 =>
    let w : Word128 := BitVec.ofNat 128 (s.staticNum i l off 16)
    let op := opcodeOf w
    if op = 0x5A then wordOk 1 w && modifierOk [] w
    else i.hasStatic l off && wordOk 1 w && modifierOk [] w && (decide (op = 0xC0 ∨ op = 0x59) || (decide (0x40 ≤ op ∧ op ≤ 0x4C) && decide (curG w = 1))) &&
      s.threadOk i l (off + 16) n

/-- A fallback section: its record and the code of its eight threads (R196). -/
def Slot.sectionOk (s : Slot) (i : FoldImage) (l : CoreNo) (rec' : Nat) : Bool :=
  ((List.range 8).all fun j => s.threadOk i l (s.staticNum i l (rec' + 4 * j) 4) (2 ^ 27)) &&
    decide (s.staticNum i l (rec' + 36) 28 = 0)

/-- A ring of a core is enabled by the image (R171). -/
def FoldImage.ringOn (i : FoldImage) (l : CoreNo) (r : RingNo) : Bool :=
  i.rings.any fun x => decide (x.core = l) && decide (x.ring = r) && bitOf x.reg 63

/-- A tensor quantiser record of the static data (R57, R58). -/
def Slot.recordOk (s : Slot) (i : FoldImage) (l : CoreNo) (rec' : Nat) : Bool :=
  let r := QRec.parse ((List.range 64).map fun k => BitVec.ofNat 8 (s.staticNum i l (rec' + k) 1))
  let e := fld r.g 23 8
  decide (fld r.g 31 1 = 0 ∧ 1 ≤ e ∧ e ≤ 254) && decide (1 ≤ r.channels ∧ r.channels ≤ 16384) && decide (r.window ≤ 8) &&
    decide (s.staticNum i l (rec' + 11) 1 < 4) && decide (r.table < 2 ^ 31 ∧ r.ring < 2 ^ 31 ∧ r.strays < 2 ^ 31) &&
    decide (r.stats < 2 ^ 31 ∧ r.requant < 2 ^ 31) && decide (s.staticNum i l (rec' + 32) 32 = 0) &&
    (List.range r.channels).all fun c =>
      let v := s.staticNum i l (r.table + 4 * c) 4
      decide (fldN v 16 16 = 0) && decide (fldN v 8 8 ≤ 0x7E) && decide (fldN v 0 8 ≤ r.q)

/-- A descriptor chain of the static data up to its end-of-chain descriptor (R164, R165, R171). -/
def Slot.chainOk (s : Slot) (i : FoldImage) (l : CoreNo) (ctx : Option Word256) (off : Nat) : Nat → Bool
  | 0 => false
  | n + 1 =>
    let d : Word256 := BitVec.ofNat 256 (s.staticNum i l off 32)
    if !i.hasStatic l off then false
    else match ctx with
      | none => ctxOk d && (!xRingOn d || i.ringOn l (xRing d)) && (!xHasRecord d || s.recordOk i l (xRecord d)) &&
          s.chainOk i l (some d) (off + 32) n
      | some x => if dKind d = 0 then decide (d = 0) else descOk x d && s.chainOk i l ctx (off + 32) n

/-- A program of a stream from a word on, up to its ENDP (R183 to R188). -/
def Slot.programOk (s : Slot) (i : FoldImage) (l : CoreNo) (micro : Nat → Nat) (stream : Nat) (loops : List OpenLoop) (off : Nat) : Nat → Bool
  | 0 => false
  | n + 1 =>
    let w : Word128 := BitVec.ofNat 128 (s.staticNum i l off 16)
    let op := opcodeOf w
    let loops := loops.filter fun o => decide (off < o.2.2)
    if !i.hasStatic l off || !wordOk stream w || !modifierOk loops w then false
    else if op = 0xC6 then true
    else if op = 0xC4 then
      let stop := off + 16 + 16 * fld w 100 12
      decide (loops.length < 4) && (loops.all fun o => decide (o.1 ≠ fld w 98 2) && decide (stop ≤ o.2.2)) &&
        s.programOk i l micro stream ((fld w 98 2, fld w 112 16, stop) :: loops) (off + 16) n
    else
      (if op = 0x57 then
        s.branchOk i l micro (off + 16) (fld w 79 12) (fld w 112 16) &&
          s.branchOk i l micro (off + 16 + 16 * fld w 79 12) (fld w 67 12) (fld w 96 16)
       else if op = 0x58 then s.sectionOk i l (fld w 96 32)
       else if op = 0x80 then s.chainOk i l none (fld w 96 32) (2 ^ 26)
       else if op = 0xC5 then i.ringOn l (Fin.ofNat 32 (fld w 123 5))
       else true) && s.programOk i l micro stream loops (off + 16) n

/-- A pattern table header (R132, Tables 7.4 and 7.5). -/
def Slot.tableOk (s : Slot) (i : FoldImage) (l : CoreNo) (off : Nat) : Bool :=
  let mode := s.staticNum i l (off + 8) 1
  let b := s.staticNum i l (off + 4) 4
  let outcome := fun (k : Nat) => fldN (s.staticNum i l (off + 12) 4) (4 * k) 4
  decide (mode ≤ 2) && decide (1 ≤ b ∧ b < 0x7F800000) && ((List.range 6).all fun k => decide (outcome k ≤ 8)) &&
    decide (fldN (s.staticNum i l (off + 12) 4) 24 8 = 0) && decide (s.staticNum i l (off + 11) 1 ≤ 1) &&
    (decide (mode ≠ 1) || decide (s.staticNum i l (off + 9) 1 = 1 ∨ s.staticNum i l (off + 9) 1 = 2)) &&
    decide (s.staticNum i l (off + 20) 1 < 4) && decide (s.staticNum i l (off + 21) 11 = 0)

/-- The tables and the micro-program store at a table set offset (R132, R136). -/
def Slot.tablesOk (s : Slot) (i : FoldImage) (l : CoreNo) (off tables steps : Nat) : Bool :=
  ((List.range tables).all fun j => s.tableOk i l (off + 16416 * j)) &&
    (List.range steps).all fun k =>
      let w := s.staticNum i l (off + 16416 * 16 + 4 * k) 4
      decide (fldN w 27 5 ≤ 0x0E) && decide (fldN w 6 9 = 0)

/-! ## Fold sections -/

/-- Largest chunk that may hold static data: chunk j is protected when j ≤ G − 2 (R153). -/
def ModuleSection.groupSize (m : ModuleSection) : Nat := if m.spare then m.n + 1 else m.n

/-- Regions of one core overlap. -/
def Region.meets (a b : Region) : Bool :=
  decide (a.core = b.core) && decide (a.start < b.start + b.len) && decide (b.start < a.start + a.len)

/-- No two members of a list meet. -/
def apart {α : Type} (meets : α → α → Bool) : List α → Bool
  | [] => true
  | a :: r => (r.all fun b => !meets a b) && apart meets r

/-- Regions (R151, Table 8.3). -/
def FoldImage.regionsOk (i : FoldImage) (m : ModuleSection) (f : FoldNo) : Bool :=
  apart Region.meets i.regions && ((List.finRange 32).all fun l => decide ((i.regions.filter fun r => decide (r.core = l)).length ≤ 64)) &&
    i.regions.all fun r => decide (r.start % 4096 = 0) && decide (r.start < 2 ^ 31) && decide (r.len % 4096 = 0) &&
      decide (1 ≤ r.len) && decide (r.fold = f.val) && decide (r.core.val < m.n) && decide (r.start + r.len ≤ 0x6C800000) &&
      (r.dynamic || decide (r.start + r.len ≤ (m.groupSize - 1) * 0x3800000))

/-- A range of bytes lies in one dynamic region of a core. -/
def FoldImage.inDynamic (i : FoldImage) (l : CoreNo) (off len : Nat) : Bool :=
  match i.regionAt l off with
  | some r => r.dynamic && decide (off + len ≤ r.start + r.len)
  | none => false

/-- Gate records (R312). -/
def FoldImage.gatesOk (i : FoldImage) (a : Allot) : Bool :=
  i.gates.all fun g =>
    a.holds g.core && a.holds g.producer &&
      (decide (a.shared ≠ some g.core) || decide (a.gate0 ≤ g.gate.val ∧ g.gate.val < a.gate0 + a.gateN)) &&
      decide (1 ≤ g.size ∧ g.size < 2 ^ 23) && i.inDynamic g.core (g.standIn * 256) (g.size * 256) &&
      apart (fun x y => decide (x.1 = y.1)) g.lists &&
      g.lists.all fun x => decide (x.1 < 8) && decide (x.2.length ≤ 16) &&
        x.2.all fun h => !h.bad && i.inDynamic g.core (h.buffer.toNat * 256) (g.size * 256)

/-- Ring registers (R169, Table 8.10); those of rings not in use hold no state either. -/
def FoldImage.ringsOk (i : FoldImage) (a : Allot) : Bool :=
  i.rings.all fun r =>
    let n := fld r.reg 15 5
    let size := (fld r.reg 20 12 + 1) * 256
    decide (fld r.reg 0 15 = 0 ∧ fld r.reg 32 8 = 0) && (bitOf r.reg 63 || decide (r.reg = 0 ∨ (3 ≤ n ∧ n ≤ 16))) &&
    (!bitOf r.reg 63 ||
      (a.holds r.core && decide (3 ≤ n ∧ n ≤ 16) &&
        (decide (a.shared ≠ some r.core) || decide (a.ring0 ≤ r.ring.val ∧ r.ring.val < a.ring0 + a.ringN)) &&
        i.inDynamic r.core (fld r.reg 32 31) (n * size)))

/-- Stream port records (R279, Table 13.1). -/
def FoldImage.streamsOk (i : FoldImage) (m : ModuleSection) (a : Allot) : Bool :=
  apart (fun x y : StreamRec => decide (x.port = y.port)) i.streams && i.streams.all fun r =>
    match pixelGroup r.pixel with
    | none => false
    | some (n, _, f) =>
      a.streams.getLsbD r.port.val && decide (2 ≤ r.m ∧ r.m ≤ 8) && decide (1 ≤ r.width ∧ r.width ≤ 16384) &&
        decide (r.width % n = 0) && decide (r.bandWidth % n = 0) && (r.band == decide (r.bandWidth ≠ 0)) &&
        (if r.imesk then decide (r.lines = 0 ∧ r.payload = 0) else decide (1 ≤ r.lines) && decide (1 ≤ r.payload ∧ r.payload % 32 = 0)) &&
        decide (r.g ≤ 16) && decide (r.black < 2 ^ f.bits) && a.holds r.core && decide (1 ≤ r.maxPackets) &&
        decide (1 ≤ r.period) && decide (r.offset ≤ 500 * m.period) && decide (r.base % 4096 = 0 ∧ r.base < 2 ^ 31) &&
        decide (r.mac.toNat / 2 ^ 40 % 2 = 0)

/-- Selection rows, frames, slices, flows and topology (R250 to R254, R313). -/
def FoldImage.tablesOk (i : FoldImage) : Bool :=
  decide (i.rows.length ≤ 16) && (i.rows.all fun r => decide (r.field ≤ 6) && (i.pens.any fun p => decide (p.pen = r.pen)) &&
      (r.port.isSome || decide (r.field = 0 ∧ r.header = 0))) &&
    decide (i.frames.length ≤ 64) && (i.frames.zipIdx.all fun x => decide (x.1.frame = x.2) && decide (x.1.port ≤ 2) &&
      decide (32 ≤ x.1.len ∧ x.1.len ≤ 8192 ∧ x.1.len % 32 = 0)) &&
    decide (i.slices.length ≤ 64) && (i.slices.all fun e => (decide (e.kind = .own) == decide (e.peer = 0)) &&
      (if e.kind = .mail ∧ e.canGather then decide (2 ≤ e.deferral ∧ e.deferral ≤ 8) else decide (e.deferral = 0))) &&
    decide (i.flows.length ≤ 64) && (i.flows.all fun w => decide (w.rein ≤ 11)) &&
    apart (fun x y : Topo => decide (x.member = y.member ∧ x.rein = y.rein)) i.topology &&
    (i.topology.all fun t => decide ((i.topology.filter fun u => decide (u.member = t.member)).length ≤ 12)) &&
    i.topology.all fun t => decide (t.rein ≤ 11) && decide (1 ≤ t.ports.length) && decide (t.ports.length = t.peerPorts.length)

/-- Pens: their roles and their ends within the budget (R25, R32, R304, R311). -/
def FoldImage.pensOk (i : FoldImage) (m : ModuleSection) (a : Allot) : Bool :=
  let coresOf := fun (k : Nat) => match i.pens.find? fun p => decide (p.pen = k) with
    | some p => some p.cores.length
    | none => none
  decide (1 ≤ i.pens.length ∧ i.pens.length ≤ 8) && apart (fun x y : PenRec => decide (x.pen = y.pen)) i.pens &&
    (match coresOf i.thermal, coresOf i.degraded with
     | some t, some d => decide (t ≤ d)
     | _, _ => false) &&
    i.pens.all fun p => decide (p.pen < 8) && (p.thermal == decide (p.pen = i.thermal)) &&
      (p.degraded == decide (p.pen = i.degraded)) && decide (p.worst + 1 ≤ 1920 * m.period) &&
      p.cores.all fun c => a.holds c.core && decide (c.worst ≤ p.worst) &&
        (decide (a.shared ≠ some c.core) || a.second || decide (c.worst + 1 ≤ a.boundary))

/-- Every program, chain, table and record of the image (R58, R132, R136, R165, R183). -/
def Slot.codeOk (s : Slot) (i : FoldImage) (a : Allot) : Bool :=
  (i.tensors.all fun t => s.recordOk i t.2.1 t.2.2) &&
  i.pens.all fun p => p.cores.all fun c =>
    let shared := decide (a.shared = some c.core)
    let first := if shared && a.second then 960 - a.steps else 0
    let micro := fun (e : Nat) =>
      s.microSteps i c.core (c.tables + 16416 * 16) (Config.microEntry i.measurement p.pen e % 960 - first) 960
    s.programOk i c.core micro 0 [] c.matrix (2 ^ 27) && s.programOk i c.core micro 1 [] c.currier (2 ^ 27) &&
      s.programOk i c.core micro 2 [] c.drover (2 ^ 27) &&
      (!i.hasStatic c.core c.tables || s.tablesOk i c.core c.tables (if shared then a.tableN else 16) (if shared then a.steps else 960))

/-- Static blocks lie inside one static region (Table 14.4). -/
def FoldImage.staticsOk (i : FoldImage) : Bool :=
  i.statics.all fun b => match i.regionAt b.core b.load with
    | some r => !r.dynamic && decide (b.load + b.len ≤ r.start + r.len)
    | none => false

/-- Parts of an entry, place and length from its start, are all zero. -/
def Slot.blank (s : Slot) (e : Nat) (parts : List (Nat × Nat)) : Bool := parts.all fun x => s.zero (e + x.1) x.2

/-- A field of a byte of an entry is below a bound. -/
def Slot.below (s : Slot) (off bound : Nat) : Bool := decide (s.num off 1 < bound)

/-- An address field holds zeros after its 4 bytes of IPv4. -/
def Slot.addressOk (s : Slot) (off : Nat) (ipv6 : Bool) : Bool := ipv6 || s.zero (off + 4) 12

/-- Reserved fields of pen records that follow one another (Table 14.7). -/
def Slot.penFieldsOk (s : Slot) (p stop : Nat) : Nat → Bool
  | 0 => true
  | k + 1 =>
    if p + 16 ≤ stop then
      s.below (p + 1) 4 && s.blank p [(2, 2), (9, 7)] &&
        ((List.range (s.num (p + 8) 1)).all fun j =>
          let e := p + 16 + 32 * j
          s.below e 32 && s.blank e [(1, 3), (24, 8)]) && s.penFieldsOk (s.penAt p).2 stop k
    else true

/-- Reserved fields and padding of the handle lists of a gate record (Table 14.21). -/
def Slot.listFieldsOk (s : Slot) (p : Nat) : List Nat → Bool
  | [] => true
  | k :: r =>
    let h := s.num (p + 1) 1
    decide (s.num p 1 = k) && s.blank p [(2, 2)] && decide (h ≤ 16) && s.listFieldsOk (p + 4 + 4 * h) r

/-- Reserved fields of gate records that follow one another, in ascending core and gate (R312, Table 14.20). -/
def Slot.gateFieldsOk (s : Slot) (last : Option Nat) (p stop : Nat) : Nat → Bool
  | 0 => true
  | k + 1 =>
    if p + 32 ≤ stop then
      let pens := (List.range 8).filter fun k => (s.num (p + 12) 1).testBit k
      let here := s.num p 1 * 64 + s.num (p + 1) 1
      let stop' := (s.handleLists (p + 32) pens).2
      let next := (s.gateAt p).2
      s.below p 32 && s.below (p + 1) 64 && s.below (p + 2) 2 && s.below (p + 3) 32 && s.blank p [(13, 19)] &&
        (last.all fun x => decide (x < here)) && s.listFieldsOk (p + 32) pens && s.zero stop' (next - stop') &&
        s.gateFieldsOk (some here) next stop k
    else true

/-- The port lists of a topology entry or a rein definition: as many ports as their count says, in ascending order, unused
bytes 0xFF (Tables 14.24 and 14.30). -/
def Slot.portListOk (s : Slot) (off count : Nat) (ascending : Bool) : Bool :=
  decide (1 ≤ count ∧ count ≤ 4) && ((List.range 4).all fun k => decide (s.num (off + k) 1 = 255) == decide (count ≤ k)) &&
    (!ascending || decide ((s.portList off).Pairwise (fun a b => a < b)))

/-- Reserved fields and codes of the records of a fold section (R9, R151, R251, R254, R279, R310 to R313). -/
def Slot.foldFieldsOk (s : Slot) : Bool :=
  s.blank (s.first 1) [(6, 2), (22, 42)] &&
  ((s.itemsOf 2).all fun i => s.penFieldsOk i.pos (i.pos + i.len) 8) &&
  ((s.itemsOf 3).all fun i => decide (i.core < 32) && (i.entries 16).all fun e => s.below (e + 8) 2 && s.blank e [(10, 6)]) &&
  ((s.itemsOf 4).all fun i => s.gateFieldsOk none i.pos (i.pos + i.len) 2048) &&
  ((s.itemsOf 5).all fun i => decide (i.core < 32) && decide (i.len ≤ 256)) &&
  ((s.entriesOf 6 24).all fun e =>
    decide (s.num (e + 4) 1 / 16 % 8 = 0) && s.below (e + 6) 8 && s.blank e [(9, 7)] &&
      (decide (128 ≤ s.num (e + 4) 1) || s.blank e [(5, 1), (16, 8)])) &&
  ((s.entriesOf 7 80).all fun e =>
    let v6 := (s.num (e + 2) 1).testBit 0
    decide (s.num e 1 = 1 ∨ s.num e 1 = 2) && s.below (e + 1) 16 && s.below (e + 2) 8 && s.below (e + 23) 32 &&
      s.blank e [(26, 2), (78, 2)] && s.addressOk (e + 40) v6 && s.addressOk (e + 56) v6) &&
  ((s.entriesOf 8 8).all fun e => s.blank e [(4, 4)]) &&
  ((s.entriesOf 9 32).all fun e =>
    decide (1 ≤ s.num (e + 16) 1 ∧ s.num (e + 16) 1 ≤ 3) && s.below (e + 17) 16 && s.blank e [(21, 11)]) &&
  (((s.itemsOf 10).filter fun i => decide (i.core = 255)).all fun i => (i.entries 16).all fun e =>
    decide (s.num e 1 = 1 ∨ s.num e 1 = 2) && s.below (e + 2) 32 && (decide (s.num e 1 = 1) || s.blank e [(2, 1)]) &&
      s.blank e [(3, 1), (14, 2)] && decide (s.num (e + 4) 2 < 4096)) &&
  ((s.entriesOf 11 16).all fun e =>
    s.portListOk (e + 4) (s.num (e + 3) 1) true && s.portListOk (e + 12) (s.num (e + 3) 1) false && s.blank e [(10, 2)] &&
      decide (s.num e 2 < 4096 ∧ s.num (e + 8) 2 < 4096))

/-- Every rejection rule of a fold section beyond its form and its digests. -/
def Slot.foldRulesOk (s : Slot) (m : ModuleSection) (a : Allot) : Bool :=
  let i := s.image
  decide (i.pens.length = s.num (s.first 1 + 2) 1) && decide (1 ≤ i.members ∧ i.members ≤ 32) && decide (1 ≤ i.confirm) &&
    s.foldFieldsOk && i.regionsOk m a.fold && i.staticsOk && i.gatesOk a && i.ringsOk a && i.streamsOk m a && i.tablesOk && i.pensOk m a &&
    s.codeOk i a

/-! ## Module sections -/

/-- Ranges [a, a + n) and [b, b + k) meet. -/
def rangesMeet (a n b k : Nat) : Bool := decide (a < b + k) && decide (b < a + n)

/-- Two allotments clash (R252, R303). -/
def Allot.clash (x y : Allot) : Bool :=
  let wx := match x.shared with
    | some q => x.cores &&& ~~~(BitVec.ofNat 32 (2 ^ q.val))
    | none => x.cores
  let wy := match y.shared with
    | some q => y.cores &&& ~~~(BitVec.ofNat 32 (2 ^ q.val))
    | none => y.cores
  decide (x.fold = y.fold) || decide (x.tag = y.tag) || decide (wx &&& y.cores ≠ 0) || decide (x.cores &&& wy ≠ 0) ||
    decide (x.streams &&& y.streams ≠ 0) ||
    (decide (x.shared.isSome ∧ x.shared = y.shared) && (x.second == y.second || decide (x.boundary ≠ y.boundary) ||
      rangesMeet x.gate0 x.gateN y.gate0 y.gateN || rangesMeet x.slot0 x.slotN y.slot0 y.slotN ||
      rangesMeet x.ring0 x.ringN y.ring0 y.ringN || rangesMeet x.table0 x.tableN y.table0 y.tableN ||
      decide (960 < x.steps + y.steps) || decide (x.drovers &&& y.drovers ≠ 0)))

/-- Allotments (Table 14.1, R303). -/
def ModuleSection.allotsOk (m : ModuleSection) : Bool :=
  apart Allot.clash m.allots && m.allots.all fun a =>
    decide (1 ≤ a.tag.toNat ∧ a.tag.toNat ≤ 0xFFFE) && decide (a.cores.toNat < 2 ^ m.n) &&
      (a.shared.isNone || (decide (a.boundary % 64 = 0) && decide (64 ≤ a.boundary ∧ a.boundary + 64 ≤ 1920 * m.period) &&
        decide (a.slot0 % 2 = 0) && decide (a.slot0 + a.slotN ≤ 64 ∧ a.gate0 + a.gateN ≤ 64) &&
        decide (a.ring0 + a.ringN ≤ 32 ∧ a.table0 + a.tableN ≤ 16) && decide (a.steps ≤ 960)))

/-- Ports of one medium: copper CU0 to CU15 or optical OP0 to OP7. -/
def oneMedium (ports : List Nat) : Bool := (ports.all fun p => decide (p < 16)) || (ports.all fun p => decide (16 ≤ p ∧ p < 24))

/-- Reins (R243). -/
def ModuleSection.reinsOk (m : ModuleSection) : Bool :=
  decide (m.reins.length ≤ 12) && apart (fun x y : Rein => decide (x.rein = y.rein) || x.ports.any fun p => y.ports.contains p) m.reins &&
    m.reins.all fun r => decide (r.rein ≤ 11) && decide (1 ≤ r.ports.length ∧ r.ports.length ≤ 4) && oneMedium r.ports &&
      decide (r.ports.Pairwise (fun a b => a < b))

/-- Plant port settings (R314, Tables 14.27 to 14.29). -/
def ModuleSection.plantOk (m : ModuleSection) : Bool :=
  decide (1 ≤ m.telemetryEvery ∧ m.telemetryEvery ≤ 1000) && decide (m.telemetryList.length ≤ 256) &&
    (m.telemetryList.all fun a => decide (fld a 0 2 = 0)) && decide (m.drain0.length ≤ 2048 ∧ m.drain1.length ≤ 2048) &&
    (m.bellwether || m.ptpPort.isNone) && (!m.plant0.enabled || decide (m.plant0.mac.toNat / 2 ^ 40 % 2 = 0)) &&
    (!m.plant1.enabled || decide (m.plant1.mac.toNat / 2 ^ 40 % 2 = 0))

/-- Power and thermal settings (R408, Table 17.6). -/
def PowerSet.ok (p : PowerSet) : Bool :=
  decide (400 ≤ p.cap ∧ p.cap ≤ 1750) && decide (70 ≤ p.entry ∧ p.entry ≤ 93) && decide (60 ≤ p.exit ∧ p.exit + 3 ≤ p.entry) &&
    decide (1 ≤ p.exitCount ∧ p.exitCount ≤ 2 ^ 20) && decide (3600 ≤ p.lead ∧ p.lead ≤ 604800) &&
    decide (7 ≤ p.horizon ∧ p.horizon ≤ 90) && decide (20 ≤ p.coolant ∧ p.coolant ≤ 40)

/-- Reserved fields of a plant port record (Table 14.28). -/
def Slot.plantFieldsOk (s : Slot) (e : Nat) : Bool :=
  let v6 := (s.num e 1).testBit 1
  s.below e 4 && s.blank e [(1, 1), (26, 6), (54, 10), (176, 80)] &&
    ([8, 32, 64, 80, 96, 112, 128, 144, 160].all fun k => s.addressOk (e + k) v6)

/-- Reserved fields and codes of the records of a module section (R9, R253, R254, R302, R314, R408). -/
def Slot.moduleFieldsOk (s : Slot) : Bool :=
  let h := s.first 0x0101
  let c := s.first 0x0107
  let n0 := s.num (c + 10) 2
  let n1 := s.num (c + 12) 2
  let d0 := c + 64 + 512
  let d1 := pad32 c (d0 + 2 * n0)
  let t := pad32 c (d1 + 2 * n1)
  let stop := t + 4 * s.num (c + 8) 2
  let drained := fun (p n : Nat) => (List.range n).all fun k => decide (s.num (p + 2 * k) 2 % 32 = 0)
  s.below (h + 4) 2 && s.below (h + 6) 2 && s.blank h [(7, 9), (48, 16)] &&
  ((s.entriesOf 0x0102 64).all fun e => decide (s.num e 2 < 4096) && s.blank e [(2, 14)]) &&
  decide ((s.entriesOf 0x0102 64).length ≤ 4096) &&
  ((List.range 4096).all fun k => decide (s.num (s.first 0x0103 + k) 1 / 16 % 8 = 0)) &&
  ((s.entriesOf 0x0104 8).all fun e => s.portListOk (e + 2) (s.num (e + 1) 1) true && decide (s.num (e + 6) 2 < 4096)) &&
  ((s.itemsOf 0x0105).all fun i => (i.entries 2).all fun e => decide (s.num e 2 % 16 = 0)) &&
  ((s.entriesOf 0x0106 32).all fun e =>
    s.below e 32 && s.below (e + 1) 2 && decide (s.num (e + 8) 1 < 32 ∨ s.num (e + 8) 1 = 255) && s.below (e + 9) 2 &&
      s.below (e + 28) 16 && s.blank e [(10, 2), (29, 3)]) &&
  ((s.itemsOf 0x0107).isEmpty ||
    (decide (s.num c 1 = 0 ∨ s.num c 1 = 1 ∨ s.num c 1 = 255) && s.below (c + 2) 4 && s.below (c + 6) 4 &&
      s.blank c [(3, 1), (7, 1), (14, 50)] && s.plantFieldsOk (c + 64) && s.plantFieldsOk (c + 320) && drained d0 n0 && drained d1 n1 &&
      s.zero (d0 + 2 * n0) (d1 - (d0 + 2 * n0)) && s.zero (d1 + 2 * n1) (t - (d1 + 2 * n1)) && s.zero stop (pad32 c stop - stop))) &&
  ((s.itemsOf 0x0108).isEmpty || (s.below (s.first 0x0108 + 13) 2 && s.blank (s.first 0x0108) [(16, 48)]))

/-- Every rejection rule of a module section beyond its form and its digests (R10, R243, R253, R254, R303, R314, R408). -/
def Slot.moduleRulesOk (s : Slot) : Bool :=
  let m := s.moduleSection
  let h := s.first 0x0101
  s.moduleFieldsOk && decide (100 ≤ m.period ∧ m.period ≤ 100000) && decide (s.num (h + 4) 1 ≤ 1) && decide (1 ≤ m.n ∧ m.groupSize ≤ 32) &&
    decide (s.num (h + 6) 1 ≤ 1) && s.zero (h + 7) 9 && s.zero (h + 48) 16 &&
    (m.startCounts.zipIdx.all fun c => decide (c.1 ≤ 64) && (decide (c.2 < m.n) || decide (c.1 = 0))) &&
    apart (fun x y : BitVec 12 × BitVec 384 => decide (x.1 = y.1 ∨ x.2 = y.2)) m.placement &&
    (m.nextHop.all fun r => match r with
      | some k => decide (k ≤ 11)
      | none => true) &&
    m.reinsOk && m.allotsOk && m.plantOk && m.power.ok && decide (s.num (s.first 0x0108 + 13) 1 ≤ 1) &&
    decide (s.num (s.first 0x0108 + 15) 1 ≤ 40)

end Sys2Proof.Machine
end

