-- ==== Sys2Proof/Machine/Store.lean ====
section
/-! DEFINITION. Keys of the module, acceptance of containers, image slots and SSDs, the tack record and its commits
(spec/14 R309, R315 to R319, R337, R338, spec/15 R342 to R345). -/

namespace Sys2Proof.Machine

/-! ## Keys (R342, R343, Table 15.2) -/

/-- ASCII bytes of a string. -/
def ascii (x : String) : List Byte := x.toList.map fun c => BitVec.ofNat 8 c.toNat

/-- A draw of bits from the entropy source (R341). -/
def State.draw (s : State) (w : Nat) : BitVec w × State :=
  (Config.entropy s.trust.draws w, { s with trust := { s.trust with draws := s.trust.draws + 1 } })

/-- K_root from the PUF and the seed (R342). -/
def rootOf (seed : BitVec 384) : BitVec 384 :=
  BitVec.ofNat 384 (beNat (hkdf384 (beBytes Config.puf.toNat 48 ++ beBytes seed.toNat 48) [] (ascii "JV root") 48))

/-- A key of Table 15.2 of some bytes, while the key block holds K_root. -/
def State.key (s : State) (info : List Byte) (len : Nat) : List Byte := match s.trust.root with
  | some k => hkdf384 (beBytes k.toNat 48) [] info len
  | none => List.replicate len 0

/-- Brand private key. -/
def State.brandPrivate (s : State) : Nat := privateOf (s.key (ascii "JV brand") 64)
/-- Acceptance key. -/
def State.acceptKey (s : State) : List Byte := s.key (ascii "JV accept") 48
/-- Record key. -/
def State.recordKey (s : State) : List Byte := s.key (ascii "JV record") 48
/-- Pairing private key of a generation. -/
def State.pairPrivate (s : State) (g : Nat) : Nat := privateOf (s.key (ascii "JV pair" ++ beBytes g 1) 64)
/-- Fold key for an image measurement, at the debug count fused. -/
def State.foldKey (s : State) (f : FoldNo) (tag : BitVec 16) (meas : BitVec 384) : List Byte :=
  s.key (ascii "JV fold" ++ beBytes tag.toNat 2 ++ beBytes s.trust.debugCount[f] 1 ++ beBytes meas.toNat 48) 32

/-- Brand public key. -/
def State.brandKey (s : State) : BitVec 768 := publicKey s.brandPrivate
/-- Brand fingerprint: SHA-384 of X ‖ Y. -/
def fingerprintOf (k : BitVec 768) : BitVec 384 := sha384 (beBytes k.toNat 96)

/-! ## Acceptance (R309, R344) -/

/-- Acceptance code of a container: its kind, fold and measurement. -/
def State.acceptCode (s : State) (kind fold : Nat) (meas : BitVec 384) : BitVec 384 :=
  hmac384 s.acceptKey (ascii "JV accept" ++ beBytes kind 1 ++ beBytes fold 1 ++ beBytes meas.toNat 48)

/-- Acceptance code of the container in an image slot. -/
def State.codeOf (s : State) (c : Slot) : BitVec 384 := s.acceptCode c.kind c.fold c.measure

/-- The trailer of a container verifies. -/
def State.trailerOk (s : State) (c : Slot) : Bool := decide (c.trailer = some (s.codeOf c))

/-- Kind and fold byte of the NOR containers: 0, 1 boot stage copies, 2, 3 firmware regions. -/
def norKind (k : Nat) : Nat := if k < 2 then 4 else 3

/-- A boot stage copy or a firmware region passes R309: its trailer is the acceptance code of what it holds. A measurement
of zero says that it holds no whole container. -/
def State.norOk (s : State) (k : Fin 4) : Bool :=
  decide (s.trust.romMeas[k] ≠ 0) && decide (s.trust.romCode[k] = s.acceptCode (norKind k.val) 0 s.trust.romMeas[k])

/-! ## Image slots (R317) -/

/-- Content of an image slot. -/
def Store.slot? (t : Store) (k : SlotKey) : Option Slot := (t.slots.find? fun x => decide (x.1 = k)).map fun x => x.2

/-- An image slot replaced (DESIGN CHOICE, assumption 43). -/
def Store.setSlot (t : Store) (k : SlotKey) (c : Slot) : Store :=
  { t with slots := (k, c) :: t.slots.filter fun x => decide (x.1 ≠ k) }

/-- An image slot freed. -/
def Store.freeSlot (t : Store) (k : SlotKey) : Store := { t with slots := t.slots.filter fun x => decide (x.1 ≠ k) }

/-- An empty container of a length. -/
def Slot.fresh (len : Nat) : Slot := { bytes := [], len := len, written := false, trailer := none }

/-- Bytes put into a container. -/
def Slot.put (c : Slot) (off : Nat) (bs : List Byte) : Slot := { c with bytes := cellsSet 0 off bs c.bytes }

/-- The tack record names SSD n in step. -/
def State.stepFlag (s : State) (n : SsdNo) : Bool := if n = 0 then s.tack.step0 else s.tack.step1

/-- SSD n is in step: the tack record says so and it is present (Table 14.10). -/
def State.inStep (s : State) (n : SsdNo) : Bool :=
  s.store.ssds[n].present && s.stepFlag n

/-- Some SSD is in step. -/
def State.storeUp (s : State) : Bool := s.inStep 0 || s.inStep 1

/-- Slot entry k of the tack record: 0 to 31 folds, 32 the module section. -/
def State.entryAt (s : State) (k : Fin 33) : TackEntry := s.tack.entries[k]

/-- Entry of a fold as one of the 33. -/
def foldEntry (f : FoldNo) : Fin 33 := ⟨f.val, Nat.lt_of_lt_of_le f.isLt (by decide)⟩

/-- Entry of the module section. -/
def moduleEntry : Fin 33 := 32

/-- The slot into which a download goes: the one that is not active, A where none is (R327). -/
def TackEntry.otherSlot (e : TackEntry) : Bool := match e.active with
  | some b => !b
  | none => false

/-- The measurement that the tack record holds for a slot. -/
def TackEntry.measOf (e : TackEntry) (b : Bool) : BitVec 384 := if e.active = some b then e.meas else e.other

/-- A container put together from the blocks fetched from peers (R338). -/
def Store.fetchedSlot (t : Store) (meas : BitVec 384) : Slot :=
  let mine := t.fetched.filter fun x => decide (x.1 = meas)
  let bytes := mine.foldl (fun m x => cellsSet 0 x.2.1 x.2.2 m) []
  { bytes := bytes, len := leNat (cellsGet 0 bytes 16 8), written := true, trailer := none }

/-- A fetched container is whole: its measurement is the one asked for and every block passes R308. -/
def Store.fetchedOk (t : Store) (meas : BitVec 384) : Bool :=
  (t.fetched.any fun x => decide (x.1 = meas)) && decide ((t.fetchedSlot meas).measure = meas) && (t.fetchedSlot meas).sound

/-- The container of an entry's slot that the module runs (R309): from an SSD in step with trailer and measurement, or
fetched from peers with the measurement of the tack record; none when neither holds. -/
def State.container (s : State) (k : Fin 33) (b : Bool) : Option Slot :=
  let meas := (s.entryAt k).measOf b
  let onSsd := if s.storeUp then s.store.slot? (k.val, b) else none
  match onSsd.filter fun c => c.written && s.trailerOk c && decide (c.measure = meas) && decide (c.measured = meas) with
  | some c => some c
  | none => if s.store.fetchedOk meas then some (s.store.fetchedSlot meas) else none

/-! ## The tack record (R318, R319) -/

/-- The next record is requested, with the sequence raised by one (DESIGN CHOICE, assumption 31). -/
def State.commit (s : State) (g : TackRec → TackRec) : State :=
  { s with store := { s.store with commits := s.store.commits ++ [{ g s.tack with seq := s.tack.seq + 1 }] } }

/-- A record with one entry changed. -/
def State.commitEntry (s : State) (k : Fin 33) (g : TackEntry → TackEntry) : State :=
  s.commit fun t => { t with entries := vmod t.entries k g }

/-- An entry as the record holds it (Table 14.11). -/
def TackEntry.bytes (e : TackEntry) : List Byte :=
  leBytes e.state.code 1 ++ leBytes (match e.active with | some b => b2n b | none => 255) 1 ++ leBytes e.attempts 1 ++
    leBytes (4 * b2n e.held + 2 * b2n e.onRequest + b2n e.preload) 1 ++ leBytes e.switch 8 ++ leBytes e.confirm 4 ++
    leBytes e.version 8 ++ leBytes e.otherVersion 8 ++ beBytes e.meas.toNat 48 ++ beBytes e.other.toNat 48

/-- Bytes 0 to 8,127 of a record (Table 14.10). -/
def TackRec.bytes (t : TackRec) : List Byte :=
  leBytes t.seq 8 ++ leBytes 1 1 ++ leBytes t.fw.code 1 ++ leBytes (4 * b2n t.single + 2 * b2n t.step1 + b2n t.step0) 1 ++
    List.replicate 5 0 ++ leBytes t.retired.toNat 4 ++ List.replicate 44 0 ++ t.entries.toList.flatMap TackEntry.bytes ++
    List.replicate 3840 0

/-- Authentication code of a record: under the record key (R344). -/
def State.recordCodeOf (s : State) (t : TackRec) : BitVec 384 := hmac384 s.recordKey t.bytes

/-- The record whose authentication code fails is invalid (R318); it is not used. -/
def State.readRecord (s : State) : State :=
  match s.store.record with
  | some t => if s.store.recordCode = s.recordCodeOf t then s else { s with store := { s.store with record := none } }
  | none => s

/-- Positions of 8 KiB in a region of 4 MiB. -/
def recordPositions : Nat := 512

/-- TACK_RECORD_COMMIT: the oldest requested record is written with its authentication code into the region that does not hold the record in force,
which is erased first when it is full. -/
def State.commitOp (s : State) : State :=
  match s.store.commits with
  | [] => s
  | r :: rest =>
    let t := s.store
    let y := match t.record with
      | some _ => !t.inY
      | none => false
    let used := if y then t.usedY else t.usedX
    let used := if recordPositions ≤ used then 1 else used + 1
    { s with store := { t with
        record := some r
        recordCode := s.recordCodeOf r
        commits := rest
        inY := y
        usedX := if y then t.usedX else used
        usedY := if y then used else t.usedY } }

/-! ## Flock peers (R338, R351, R378) -/

/-- Slot of a hall module number in its flock. -/
def slotOf (m : BitVec 12) : Nat := m.toNat % 16
/-- Flock of a hall module number. -/
def flockOf (m : BitVec 12) : Nat := m.toNat / 16

/-- A flock module with an Up copper port to it. -/
def State.flockUp (s : State) (m : BitVec 12) : Bool :=
  decide (flockOf m = flockOf s.hallNo) && decide (m ≠ s.hallNo) &&
    (List.finRange 24).any fun p => decide (p.val < 16) && decide (s.fab[p].state = .up) && (match s.fab[p].peer with
      | some h => decide (h.hallModule = m)
      | none => false)

/-- Flock modules with an Up copper port, in ascending slot order. -/
def State.flockPeers (s : State) : List (BitVec 12) :=
  ((List.range 16).map fun k => BitVec.ofNat 12 (flockOf s.hallNo * 16 + k)).filter s.flockUp

/-- Largest block asked for (R338). -/
def fetchLen : Nat := 4000

/-- The block that a fetch asks for next, asked of its peer. -/
def State.askBlock (s : State) (x : Fetch) : State :=
  match s.flockPeers.find? fun m => decide (x.peer ≤ slotOf m) with
  | some m =>
    ({ s with store := { s.store with fetch := some { x with peer := slotOf m } } }).sendMail none 0x0C false m 0xFFFF 0 0 0
      (beBytes x.meas.toNat 48 ++ beBytes x.at_ 8 ++ beBytes fetchLen 2)
  | none => { s with store := { s.store with fetch := none } }

/-- A fetch begins while no SSD is in step (R337, R338) (DESIGN CHOICE, assumption 43). -/
def State.beginFetch (s : State) (k : Fin 33) (b : Bool) : State :=
  let meas := (s.entryAt k).measOf b
  if s.storeUp ∨ s.store.fetch.isSome ∨ s.store.fetchedOk meas then s
  else s.askBlock { key := (k.val, b), meas := meas, at_ := 0, peer := 0 }

/-- IMAGE_BLOCK_REQUEST (R338): answered from any bound container with that measurement, else "not served". -/
def State.blockRequest (s : State) (m : MailMsg) : State :=
  s.onSupervisor m fun s =>
    let meas : BitVec 384 := BitVec.ofNat 384 (beAt m.payload 0 48)
    let off := beAt m.payload 48 8
    let len := beAt m.payload 56 2
    let bound := (s.store.slots.find? fun x => x.2.written && s.trailerOk x.2 && decide (x.2.measure = meas)).filter
      fun _ => s.storeUp && decide (1 ≤ len ∧ len ≤ fetchLen)
    match bound with
    | some c =>
      s.sendMail none 0x0D false m.srcModule 0xFFFF 0 m.number 0
        (beBytes off 8 ++ c.2.get off (min len (c.2.len - off)))
    | none => s.answerMail m 4 0 m.addr []

/-- IMAGE_BLOCK_RESPONSE (R308, R338): the bytes are kept and the next block is asked for, until the container is
whole. -/
def State.blockResponse (s : State) (m : MailMsg) : State :=
  s.onSupervisor m fun s =>
    match s.store.fetch with
    | none => s
    | some x =>
      let off := beAt m.payload 0 8
      let bs := m.payload.drop 8
      if off ≠ x.at_ then s
      else
        let s := { s with store := { s.store with fetched := s.store.fetched ++ [(x.meas, off, bs)] } }
        let len := (s.store.fetchedSlot x.meas).len
        let header := decide (256 ≤ off + bs.length)
        if s.store.fetchedOk x.meas then { s with store := { s.store with fetch := none } }
        else if bs.isEmpty ∨ (header ∧ len ≤ off + bs.length) then
          -- the container of this peer fails R308: its bytes are dropped and the next peer is asked
          let s := { s with store := { s.store with fetched := s.store.fetched.filter fun y => decide (y.1 ≠ x.meas) } }
          s.askBlock { x with at_ := 0, peer := x.peer + 1 }
        else s.askBlock { x with at_ := off + bs.length }

/-- A peer that answers "not served" or "unknown kind" to a block request: the next peer is asked. -/
def State.nextPeer (s : State) (m : MailMsg) : State :=
  match s.store.fetch with
  | some x => if m.dstTag = 0xFFFF ∧ slotOf m.srcModule = x.peer ∧ m.dstModule = s.hallNo then s.askBlock { x with at_ := 0, peer := x.peer + 1 } else s
  | none => s

/-! ## SSDs (R337, R435, R436) -/

/-- The tack record binds the container in an image slot. -/
def State.binds (s : State) (k : SlotKey) (c : Slot) : Bool :=
  c.written && (List.finRange 33).any fun n =>
    decide (k = (n.val, true) ∨ k = (n.val, false)) && decide ((s.entryAt n).measOf k.2 ≠ 0) &&
      decide (c.measure = (s.entryAt n).measOf k.2)

/-- A container of the store that the tack record binds carries this module's trailer (R344). -/
def State.writeTrailers (s : State) : State :=
  let trail := fun (x : SlotKey × Slot) => if s.binds x.1 x.2 then (x.1, { x.2 with trailer := some (s.codeOf x.2) }) else x
  { s with store := { s.store with slots := s.store.slots.map trail } }

/-- Containers fetched from peers that the tack record binds are written into an empty store (R344). -/
def State.storeFetched (s : State) : State :=
  (List.finRange 33).foldl (fun (s : State) k => [false, true].foldl (fun (s : State) b =>
    let meas := (s.entryAt k).measOf b
    if s.store.fetchedOk meas ∧ (s.store.slot? (k.val, b)).isNone then
      { s with store := s.store.setSlot (k.val, b) (s.store.fetchedSlot meas) }
    else s) s) s

/-- An SSD in step or out of step in the record. -/
def TackRec.setStep (t : TackRec) (n : SsdNo) (on : Bool) : TackRec :=
  let t := if n = 0 then { t with step0 := on } else { t with step1 := on }
  { t with single := t.step0 != t.step1 }

/-- An SSD is lost (R337, R436): logged, its step bit cleared, PERST_N asserted. -/
def State.ssdLost (s : State) (n : SsdNo) : State :=
  if s.store.ssds[n].present then
    let s := { s with store := { s.store with ssds := vmod s.store.ssds n fun d =>
      { d with present := false, width := 0, rate := 0, perst := false, resync := false, mirror := false } } }
    let s := if s.stepFlag n then s.commit fun t => t.setStep n false else s
    s.log1 0x0B01 none none none (leBytes n.val 1 ++ [0])
  else s

/-- SSD_INSERTED (R435, R436): with this module's fingerprint it is resynchronised, without it left untouched until
an adopt request. The first SSD of a module whose record names it in step is in step again at once, because nothing
has been written without it. -/
def State.ssdInsert (s : State) (n : SsdNo) (i : SsdInfo) : State :=
  let own := decide (i.fingerprint = s.trust.fingerprint) && decide (s.trust.life = .branded)
  let flag := s.stepFlag n
  let inStep := own && flag
  let s := if flag && !own then s.commit fun t => t.setStep n false else s
  let s := { s with store := { s.store with ssds := vmod s.store.ssds n fun d =>
    { d with present := true, width := i.width, rate := i.rate, perst := s.power.good, fingerprint := i.fingerprint,
             resync := own && !inStep, mirror := inStep } } }
  s.log1 0x0B01 none none none (leBytes n.val 1 ++ [1] ++ leBytes i.width.toNat 1 ++ leBytes i.rate.toNat 1)

/-- ADOPT_SSD: formatted and resynchronised (R337). -/
def State.adopt (s : State) (n : SsdNo) : State :=
  { s with store := { s.store with ssds := vmod s.store.ssds n fun d =>
    { d with fingerprint := s.trust.fingerprint, resync := true, mirror := false } } }

/-- SSD_RESYNC_COMPLETE (R337, R344): the SSD is in step, and carries trailers of the containers that are bound. -/
def State.resyncDone (s : State) (n : SsdNo) : State :=
  if s.store.ssds[n].present && s.store.ssds[n].resync then
    let s := { s with store := { s.store with ssds := vmod s.store.ssds n fun d => { d with resync := false, mirror := true } } }
    let s := (if s.storeUp then s else s.storeFetched).commit fun t => t.setStep n true
    s.writeTrailers
  else s

/-! ## Meanings -/

def execTackRecordCommit (s : State) : Host.Outcome State Fault Refusal := .next s.commitOp
def execSsdRemoved (n : SsdNo) (s : State) : Host.Outcome State Fault Refusal := .next (s.ssdLost n)
def execSsdLinkDown (n : SsdNo) (s : State) : Host.Outcome State Fault Refusal := .next (s.ssdLost n)
def execSsdCommandTimeout (n : SsdNo) (s : State) : Host.Outcome State Fault Refusal := .next (s.ssdLost n)
def execMailNotServed (m : MailMsg) (s : State) : Host.Outcome State Fault Refusal :=
  .next ((s.answerOp m (some 16)).nextPeer m)
def execMailUnknownKind (m : MailMsg) (s : State) : Host.Outcome State Fault Refusal :=
  .next ((s.answerOp m none).nextPeer m)
def execImageBlockRequest (m : MailMsg) (s : State) : Host.Outcome State Fault Refusal := .next (s.blockRequest m)
def execImageBlockResponse (m : MailMsg) (s : State) : Host.Outcome State Fault Refusal := .next (s.blockResponse m)

end Sys2Proof.Machine
end

