-- ==== Sys2Proof/Machine/Pens.lean ====
section
/-! DEFINITION. The choice of a fold's pen: replay records of a fold in replay mode, the degradation state, the thermal
condition, selection rows and dwell (spec/01 R25 to R28, spec/10 R220, spec/13 R289, spec/17 R397 and R400). -/

namespace Sys2Proof.Machine

/-! ## Inputs -/

/-- The plant code that a fold uses: of the tick word, or of the record in replay mode. -/
def State.codeFor (s : State) (f : FoldNo) : BitVec 16 :=
  if s.folds[f].replay.on then
    match (s.replayRecs f).find? fun r => decide (r.kind = 2) with
    | some r => BitVec.ofNat 16 (beAt r.payload 6 2)
    | none => 0
  else s.tick.code

/-! ## The degradation state (R26, Table 1.5) -/

/-- A logical core of the fold is absent with no spare to take it (R215, R217). -/
def State.degradedNow (s : State) (f : FoldNo) : Bool :=
  !s.spareFree && (s.coresOf f).any fun l => s.cores.any fun c =>
    decide (c.mode = .failed) && c.absent && decide (c.logical = l)

/-- Ports of the reins over which the flows of a fold run (R234, R243). -/
def State.foldPorts (s : State) (f : FoldNo) : List FabricPort :=
  match s.sec?, s.folds[f].image with
  | some m, some i => (List.finRange 24).filter fun p =>
      m.reins.any fun r => r.ports.contains p.val && i.flows.any fun w => decide (w.rein = r.rein)
  | _, _ => []

/-- The port on which a port's part of its rein travels: itself, or CU15 in its place (R245). -/
def State.carrier (s : State) (p : FabricPort) : FabricPort :=
  if s.fab[15].standIn = some p.val then 15 else p

/-- The member port of a rein whose part of every rein slot a port carries: its own, or the one for which CU15 stands
in (R243 to R245). -/
def State.memberOf (s : State) (p : FabricPort) : Option (Rein × Nat) :=
  s.sec?.bind fun m => m.reins.findSome? fun r =>
    (r.ports.find? fun q => decide (s.carrier (Fin.ofNat 24 q) = p)).map fun q => (r, q)

/-- Guard between two modules (R256). -/
def State.guard (s : State) (m : BitVec 12) : Nat := if flockOf m = flockOf s.hallNo then 32 else 132

/-- The receive delay of a port fits the padding of every flow of an image on a rein (R256). -/
def State.delayFits (s : State) (i : FoldImage) (r : Rein) (p : FabricPort) : Bool :=
  i.flows.all fun w => decide (w.rein ≠ r.rein ∨ s.fab[p].rxDelay + 48 + s.guard r.peer ≤ w.delay)

/-- A port of the fold's plan is down or has not rejoined. -/
def State.linkShortNow (s : State) (f : FoldNo) : Bool :=
  (s.foldPorts f).any fun p =>
    let c := s.carrier p
    !(decide (s.fab[c].state = .up) && (s.fab[c].inPlan || decide (c ≠ p)))

/-- A core of the fold is held above the code that its own margin loop would choose, or by a clamp (R397). -/
def State.clampedNow (s : State) (f : FoldNo) : Bool :=
  (s.physOf f).any fun p => decide (s.cores[p].supply.own < s.cores[p].supply.code) || s.power.clampDie[dieOf p]

/-- The degradation bits of a fold as the reserve samples them: spare in use stays as the takeover set it. -/
def State.sampleDegradation (s : State) (f : FoldNo) : State :=
  s.onFold f fun x => { x with sel := { x.sel with
    degraded := s.degradedNow f, linkShort := s.linkShortNow f, clamped := s.clampedNow f } }

/-! ## The thermal condition (R400) -/

/-- Power and thermal settings in force; the basic level before a section runs. -/
def State.settings (s : State) : PowerSet := match s.sec? with
  | some m => m.power
  | none => { cap := 1750, entry := 93, exit := 88, exitCount := 1024, lead := 86400, horizon := 30, warming := true,
              coolant := 40 }

/-- The thermal condition of a fold at the reserve sample. -/
def State.sampleThermal (s : State) (f : FoldNo) : State :=
  let set := s.settings
  let cs := (s.physOf f).map fun p => s.cores[p].supply
  let hotNow := cs.any fun u => decide (4 * (set.entry : Int) ≤ u.tjMax ∨ 4 * (set.entry : Int) ≤ u.stackMax)
  let coolNow := cs.all fun u => decide (u.tjMax < 4 * (set.exit : Int) ∧ u.stackMax < 4 * (set.exit : Int))
  let weak := cs.any fun u => decide (u.code = 100 ∧ u.minMargin.getD 40 < 40)
  let old := s.folds[f].sel
  let cool := if hotNow ∨ !coolNow ∨ !old.hot then 0 else old.coolTicks + 1
  let hot := hotNow || (old.hot && decide (cool < set.exitCount))
  let now := hot || weak || old.forced
  let s := s.onFold f fun x => { x with sel := { x.sel with
    hot := hot, coolTicks := if hot then cool else 0, thermal := now, forced := false } }
  let peak := cs.foldl (fun m u => max m (max u.tjMax u.stackMax)) (-273)
  if now ≠ old.thermal then
    s.log1 0x0D07 (some f) none none
      (leBytes f.val 1 ++ leBytes (b2n hot + 2 * b2n weak + 4 * b2n old.forced) 1 ++ leBytes (wrapN peak 16) 2)
  else s

/-! ## Selection (R26, R28, R289) -/

/-- A process field by its selector code (Table 13.3). -/
def processField (bs : List Byte) (code : Nat) : Nat :=
  if code = 1 then beAt bs 0 4
  else if code = 2 then beAt bs 4 8
  else if code = 3 then beAt bs 12 4
  else if code = 4 then beAt bs 16 2
  else if code = 5 then beAt bs 20 4
  else if code = 6 then beAt bs 24 4
  else 0

/-- Degradation bits as Table 14.22 numbers them. -/
def PenSel.bits (x : PenSel) : BitVec 3 :=
  BitVec.ofNat 3 (b2n x.spareInUse + 2 * b2n x.linkShort + 4 * b2n x.clamped)

/-- A degradation record: the bits of Table 14.22, then the thermal and the degraded condition (DESIGN CHOICE, assumption 33). -/
def PenSel.record (x : PenSel) : Nat := x.bits.toNat + 8 * b2n x.thermal + 16 * b2n x.degraded

/-- The degradation state as a record gives it (DESIGN CHOICE, assumption 33). -/
def PenSel.ofRecord (x : PenSel) (n : Nat) : PenSel :=
  { x with spareInUse := n.testBit 0, linkShort := n.testBit 1, clamped := n.testBit 2, thermal := n.testBit 3,
           degraded := n.testBit 4 }

/-- The degradation state that the selection of a fold uses: its own, or that of the record in replay mode. -/
def State.selFor (s : State) (f : FoldNo) : PenSel :=
  let x := s.folds[f]
  if x.replay.on then
    match (s.replayRecs f).find? fun r => decide (r.kind = 4) with
    | some r => x.sel.ofRecord (beAt r.payload 0 8)
    | none => x.sel
  else x.sel

/-- Process fields of a stream port as the last sample found them (R289). -/
def State.sampledFields (s : State) (p : StreamPort) : Option (List Byte) := s.st[p].sampled

/-- A selection row matches a plant code, process fields and degradation bits (Table 1.5). -/
def SelRow.matched (r : SelRow) (code : BitVec 16) (fields : StreamPort → Option (List Byte)) (bits : BitVec 3) : Bool :=
  decide (code &&& r.mask = r.value) &&
    (match r.port with
     | none => true
     | some p => decide (r.field = 0) || (match fields p with
       | some bs => decide (processField bs r.field = r.header.toNat)
       | none => false)) &&
    decide (bits &&& r.degradation = r.degradation)

/-- Index and record of the first row that matches. -/
def firstRow (rows : List SelRow) (code : BitVec 16) (fields : StreamPort → Option (List Byte)) (bits : BitVec 3) :
    Option (Nat × SelRow) :=
  (rows.zipIdx.find? fun r => r.1.matched code fields bits).map fun r => (r.2, r.1)

/-- The pen of the next tick of a fold on one module, with its base pen and dwell; the row that a fold on several
modules reports (R26, R28, R272). -/
def State.selectPen (s : State) (f : FoldNo) : State :=
  match s.folds[f].image with
  | none => s
  | some i =>
    let d := s.selFor f
    let row := firstRow i.rows (s.codeFor f) s.sampledFields d.bits
    let x := s.folds[f].sel
    let sel := { x with matched := row.map fun r => r.1, code := s.codeFor f }
    if i.multi then s.onFold f fun y => { y with sel := sel }
    else
      let sel : PenSel := match row with
        | some (_, r) => if x.dwell = 0 then { sel with base := r.pen, dwell := if r.pen = x.base then 0 else r.dwell } else sel
        | none => sel
      let next := if d.thermal then i.thermal else if d.degraded then i.degraded else sel.base
      s.onFold f fun y => { y with sel := { sel with next := next } }

end Sys2Proof.Machine
end

