-- ==== Sys2Proof/Machine/Folds.lean ====
section
/-! DEFINITION. Loading, starting, stopping and switching a fold (spec/14 R306, R321 to R331, R334, R335). -/

namespace Sys2Proof.Machine

/-! ## Entries -/

/-- The slot whose image the fold runs: the candidate's while it is confirming, else the active one (R331). -/
def TackEntry.runSlot (e : TackEntry) : Option Bool := if e.state = .confirming then some e.otherSlot else e.active

/-- The entry of a fold after its candidate has been given up: idle, the other slot freed (R332). -/
def TackEntry.giveUp (e : TackEntry) : TackEntry :=
  { e with state := .idle, switch := 0, attempts := 0, onRequest := false, preload := false, otherVersion := 0, other := 0 }

/-- The entry after confirmation: the candidate active, the former image bound in the other slot (R331). -/
def TackEntry.confirmed (e : TackEntry) : TackEntry :=
  { e with state := .idle, active := some e.otherSlot, switch := 0, attempts := 0, version := e.otherVersion, meas := e.other,
           otherVersion := e.version, other := e.meas, onRequest := false, preload := false }

/-! ## Loading (R326, R154, R150) -/

/-- Static bytes of one block written into pasture memory, whole words without marks. -/
def Pasture.load (m : Pasture) (c : Slot) (b : StaticBlock) : Pasture :=
  let lo := b.load / 32
  let hi := (b.load + b.len + 31) / 32
  { m with cells := cellsCopy c.bytes b.at_ b.len b.load m.cells
           poison := ivDel lo hi m.poison
           flips := m.flips.filter fun x => decide (x.1 < lo ∨ hi ≤ x.1)
           broken := m.broken.filter fun w => decide (w < lo ∨ hi ≤ w) }

/-- Every static block of an image written on the cores that hold it. -/
def State.loadStatics (s : State) (i : FoldImage) (c : Slot) : State :=
  i.statics.foldl (fun (s : State) b => match s.phys b.core with
    | some p => s.onCore p fun x => { x with pasture := x.pasture.load c b }
    | none => s) s

/-- Every dynamic region of an image set to poisoned zero words. The module meets the tensors of the image anew (R61). -/
def State.poisonDynamic (s : State) (i : FoldImage) : State :=
  i.regions.foldl (fun (s : State) r => match s.phys r.core with
    | some p => s.onCore p fun x => { x with
        tensors := x.tensors.filter fun t => decide (t.1 < r.start ∨ r.start + r.len ≤ t.1)
        pasture := if r.dynamic then x.pasture.poisonZero (r.start / 32) ((r.start + r.len) / 32) else x.pasture }
    | none => s) s

/-- The load of the image in a slot begins: run state loading, its regions those that parity now covers (R154). With no SSD in step its container is fetched from flock
peers (R337, R338). -/
def State.beginLoad (s : State) (f : FoldNo) (b : Bool) : State :=
  let image := (s.container (foldEntry f) b).map Slot.image
  ((s.onFold f fun x => { x with run := .loading, slot := b, image := image, loaded := false, blocksOk := false,
                                 preloaded := false, sel := { x.sel with matched := none } }).formParity).beginFetch (foldEntry f) b

/-- First tick number that is a multiple of 8 and at least 8 greater than a tick (R324). -/
def startAfter (tick : Nat) : Nat := (tick + 8 + 7) / 8 * 8

/-- The fold reaches waiting; a member of a multi-module fold publishes its release and start tick (R324). -/
def State.reachWaiting (s : State) (f : FoldNo) (i : FoldImage) : State :=
  s.onFold f fun x =>
    if i.multi then { x with run := .waiting, release := i.release, startTick := startAfter s.tick.number.toNat }
    else { x with run := .waiting }

/-- STATIC_LOAD_COMPLETE: the static data of a loading fold is in place, checked, with parity formed and dynamic regions
poisoned; or that of a candidate to be preloaded (R322, R326, R330). Loads run in ascending fold number. -/
def State.loadComplete (s : State) (f : FoldNo) : State :=
  let x := s.folds[f]
  let e := s.entry f
  if (List.finRange 32).any fun g => decide (g < f) && decide (s.folds[g].run = .loading) then s
  else if x.run = .loading then
    match s.container (foldEntry f) x.slot with
    | none => s
    | some c =>
      let i := c.image
      let s := ((s.loadStatics i c).poisonDynamic i).formParity
      let s := s.onFold f fun x => { x with image := some i, loaded := true, blocksOk := c.sound }
      s.reachWaiting f i
  else if e.state = .activating ∧ e.preload ∧ !x.preloaded then
    match s.container (foldEntry f) e.otherSlot with
    | none => s
    | some c => ((((s.loadStatics c.image c).poisonDynamic c.image).formParity).onFold f fun x =>
        { x with preloaded := true })
  else s

/-! ## Start conditions (R322, R6, R32, R240) -/

/-- Healthy physical cores: enabled, not failed, not retired (DEDUCED, assumption 47). A core whose fatal fault is
detected and which is not yet isolated still counts: its map state is still mapped (DESIGN CHOICE, assumption 47). -/
def State.healthyCores (s : State) : Nat :=
  ((List.finRange 32).filter fun p =>
    decide (s.cores[p].mode ≠ .fusedOff ∧ s.cores[p].mode ≠ .failed ∧ s.cores[p].mode ≠ .retired)).length

/-- Brand fingerprint that the placement table gives a module. -/
def State.placedPrint (s : State) (m : BitVec 12) : Option (BitVec 384) :=
  s.sec?.bind fun x => (x.placement.find? fun e => decide (e.1 = m)).map fun e => e.2

/-- One listed port reaches the listed peer port of the peer module (R240). -/
def State.portReaches (s : State) (port : Nat) (peer : BitVec 12) (peerPort : Nat) : Bool :=
  let x := s.fab[Fin.ofNat 24 port]
  decide (x.state = .up) && (match x.peer with
    | some h => decide (h.hallModule = peer ∧ h.port.toNat = peerPort) && decide (some h.fingerprint = s.placedPrint peer)
    | none => false)

/-- The entries of the expected topology that are this member's, and the first of them that does not match, or whose
receive delay exceeds the padding (R240, R256). -/
def State.mismatch (s : State) (i : FoldImage) : Option Topo :=
  (i.topology.filter fun t => decide (t.member = s.hallNo)).find? fun t =>
    !((t.ports.zip t.peerPorts).all fun q => s.portReaches q.1 t.peer q.2 &&
      (match s.memberOf (Fin.ofNat 24 q.1) with
       | some r => s.delayFits i r.1 (Fin.ofNat 24 q.1)
       | none => true))

/-- First failing condition of R322 in its order, 1 to 5; 0 when every one holds. An unplaced module fails the fourth
(R237) (DEDUCED, assumption 47). -/
def State.startCause (s : State) (f : FoldNo) : Nat :=
  let x := s.folds[f]
  match x.image, s.sec? with
  | some i, some m =>
    let meas := match (s.entry f).runSlot with
      | some b => (s.entry f).measOf b
      | none => if (s.entry f).state = .activating then (s.entry f).other else 0
    if !x.blocksOk ∨ i.measurement ≠ meas then 1
    else if s.healthyCores < m.groupSize ∨ !(i.pens.all fun p => decide (p.worst + 1 ≤ 1920 * m.period)) then 2
    else if !x.loaded then 3
    else if s.place.isNone ∨ (s.mismatch i).isSome then 4
    else if !(s.tick.lock || s.tick.holdover) then 5
    else 0
  | _, _ => 1

/-- A start is refused (R322): the cause is reported, counted, and logged when it is new. -/
def State.refuseStart (s : State) (f : FoldNo) (cause : Nat) : State :=
  let fresh := decide (s.folds[f].run ≠ .refused ∨ s.folds[f].refuse ≠ cause)
  let s := s.onFold f fun x => { x with run := .refused, refuse := cause, refusedTicks := x.refusedTicks + 1 }
  if fresh then s.log1 0x0C01 (some f) none none (leBytes cause 1) else s

/-! ## Starting (R323) -/

/-- Ports of the fold's expected topology, which carry its slots from its start (R240). -/
def State.joinPorts (s : State) (i : FoldImage) : State :=
  let ports := (i.topology.filter fun t => decide (t.member = s.hallNo)).flatMap fun t => t.ports
  { s with fab := Vector.ofFn fun p =>
      if ports.contains p.val then
        { s.fab[p] with inPlan := true, rejoin := false, joined := s.fab[p].peer.map fun h => (h.fingerprint, h.port) }
      else s.fab[p] }

/-- Stream ports of a fold: their records set them up, and their transmitters come on with the first start. -/
def State.openPorts (s : State) (f : FoldNo) (i : FoldImage) (fresh : Bool) : State :=
  { s with st := Vector.ofFn fun p => match i.streams.find? fun r => decide (r.port = p) with
      | some r => { s.st[p] with cfg := some (f, r), enabled := true
                                 fields := if fresh then none else s.st[p].fields
                                 sampled := if fresh then none else s.st[p].sampled, block := none }
      | none => if (s.st[p].cfg.map fun c => c.1) = some f then { s.st[p] with cfg := none } else s.st[p] }

/-- The pen with which a fold starts or restarts (R26, R30): base pen 0, unless a row of the image that starts matches the
plant code and the degradation state of the last sample, and the process fields that still count. A member of a fold on
several modules takes it from its own sample too, since no decision stands yet (DESIGN CHOICE, assumption 53). -/
def PenSel.first (x : PenSel) (i : FoldImage) (fields : StreamPort → Option (List Byte)) : PenSel :=
  let row := firstRow i.rows x.code fields x.bits
  let base := match row with
    | some r => r.2.pen
    | none => 0
  let pen := if x.thermal then i.thermal else if x.degraded then i.degraded else base
  { x with pen := pen, next := pen, base := base, matched := row.map fun r => r.1, dwell := match row with
      | some r => r.2.dwell - 1
      | none => 0 }

/-- Gates, rings and currier tables of every core of a fold. -/
def State.loadFold (s : State) (f : FoldNo) : State :=
  (s.coresOf f).foldl (fun (s : State) l => ((s.loadTablesOn f l).loadRingsOn f l).loadGatesOn f l) s

/-- The fold runs from this instant. A start from stopped sets its epochs to 1 and its counts to 0; a restart keeps
its static data and advances its epochs (R269, R323, R369). -/
def State.runFold (s : State) (f : FoldNo) (i : FoldImage) (fresh : Bool) : State :=
  let fields := fun p => if fresh then none else s.sampledFields p
  let s := s.onFold f fun x =>
    { x with run := .running, sel := x.sel.first i fields, refuse := 0, refusedTicks := 0, reports := [], fromShepherd := none,
             fromDeputy := none, lastDecision := none, landed := [], preloaded := false,
             epochs := if fresh then Vector.replicate 32 1 else x.epochs.map epochNext
             peerEpochs := if fresh then [] else x.peerEpochs.map fun e => (e.1, e.2.1, epochNext e.2.2)
             sent := if fresh then 0 else x.sent
             sentMarked := if fresh then 0 else x.sentMarked
             ctrs := if fresh then Vector.replicate 23 Ctr.zero else (x.count 10 1).ctrs
             confirm := if fresh then 0 else x.confirm
             recov := if fresh then Recovery.reset else { Recovery.reset with restarted := some s.tick.number.toNat } }
  let s := ((s.clearCores f).loadFold f).openPorts f i fresh
  s.joinPorts i

/-- The fold starts, or is refused. A revert ends with its start (R331). -/
def State.tryStart (s : State) (f : FoldNo) : State :=
  match s.folds[f].image with
  | none => s.refuseStart f 1
  | some i =>
    let cause := s.startCause f
    if cause ≠ 0 then s.refuseStart f cause
    else
      let fresh := s.folds[f].recov.hurdle.isNone
      let s := s.runFold f i fresh
      let s := if (s.entry f).state = .reverting then s.commitEntry (foldEntry f) fun e => { e with state := .idle, attempts := 0 } else s
      if fresh then s
      else (s.log1 0x0503 (some f) none none []).notice f 0x0503 none 2 []

/-! ## Members of a multi-module fold (R324, R325) -/

/-- Offsets of the fold block that a member reads of the others: FOLD_STATE, the release and the start tick. -/
def polledRegs : List Nat := [0x00, 0x10, 0x14, 0x18, 0x1C]

/-- A register of the fold block of another member, as last read. -/
def Fold.peerReg (x : Fold) (m : BitVec 12) (off : Nat) : Option Nat :=
  (x.peerRegs.find? fun r => decide (r.1 = m) && decide (r.2.1 = off)).map fun r => r.2.2.toNat

/-- A 64-bit value published by another member. -/
def Fold.peerPair (x : Fold) (m : BitVec 12) (off : Nat) : Option Nat :=
  match x.peerReg m off, x.peerReg m (off + 4) with
  | some lo, some hi => some (lo + 2 ^ 32 * hi)
  | _, _ => none

/-- Members other than this module. -/
def State.others (s : State) (i : FoldImage) : List (BitVec 12) := i.memberList.filter fun m => decide (m ≠ s.hallNo)

/-- Run state of another member. -/
def Fold.peerRun (x : Fold) (m : BitVec 12) : Option Nat := (x.peerReg m 0).map fun v => v % 16

/-- Once per tick the supervisor reads the published values of every other member under the fold's own tag. A running
or hurdled member reads them too, so that it sees a member that comes back (R325) or is fenced (R372). -/
def State.pollMembers (s : State) (f : FoldNo) : State :=
  match s.folds[f].image, s.folds[f].allot with
  | some i, some a =>
    if i.multi && decide (s.folds[f].run = .waiting ∨ s.folds[f].run = .running ∨ s.folds[f].run = .hurdled) then
      (s.others i).foldl (fun (s : State) m => polledRegs.foldl (fun (s : State) off =>
        s.sendMail (some f) 0x0A false m a.tag 0 0 (hallAddr 3 m 0 (0x02000000 + 0x1000 * f.val + off)) []) s) s
    else s
  | _, _ => s

/-- Ticks of the pause of R325: the smallest multiple of 8 that is at least 4 ms and at least 8. -/
def ModuleSection.pause (m : ModuleSection) : Nat :=
  if m.period = 0 then 8 else max 8 (((4000 + m.period - 1) / m.period + 7) / 8 * 8)

/-- Pause of the running module section. -/
def State.pauseTicks (s : State) : Nat := match s.sec? with
  | some m => m.pause
  | none => 8

/-- Every other member has published the release of this one. -/
def State.sameRelease (s : State) (f : FoldNo) (i : FoldImage) : Bool :=
  (s.others i).all fun m => decide (s.folds[f].peerPair m 0x10 = some s.folds[f].release)

/-- Some member has published another release. -/
def State.otherRelease (s : State) (f : FoldNo) (i : FoldImage) : Bool :=
  (s.others i).any fun m => match s.folds[f].peerPair m 0x10 with
    | some r => decide (r ≠ 0 ∧ r ≠ s.folds[f].release)
    | none => false

/-- The largest published start tick. -/
def State.lastStart (s : State) (f : FoldNo) (i : FoldImage) : Nat :=
  (s.others i).foldl (fun e m => max e ((s.folds[f].peerPair m 0x18).getD 0)) s.folds[f].startTick

/-- A waiting fold at an instant: on one module it starts; a member starts at the largest published start tick once
all have published the same release, and puts its start off while the others still run (R324, R325). -/
def State.waitingInstant (s : State) (f : FoldNo) : State :=
  match s.folds[f].image with
  | none => s
  | some i =>
    let t := s.tick.number.toNat
    if !i.multi then s.tryStart f
    else if t ≠ s.lastStart f i then s
    else if !s.sameRelease f i then
      (if s.otherRelease f i then s.log1 0x0C01 (some f) none none [0] else s)
    else if (s.others i).any fun m => decide (s.folds[f].peerRun m = some 4) then
      s.onFold f fun x => { x with startTick := t + s.pauseTicks }
    else s.tryStart f

/-! ## Stopping (R321) -/

/-- Mail held for a fold and rows it has asked for are discarded; writes are counted. -/
def State.dropMail (s : State) (f : FoldNo) : State :=
  let held := s.hall.writes.filter fun w => decide (w.fold = f)
  ({ s with hall := { s.hall with writes := s.hall.writes.filter fun w => decide (w.fold ≠ f)
                                  asked := s.hall.asked.filter fun a => decide (a.fold ≠ f) } }).countFold f 17 held.length

/-- The fold stops at this instant: nothing issues, its drover work is cancelled, its held mail discarded. -/
def State.stopFold (s : State) (f : FoldNo) : State :=
  let s := ((s.stopFoldStreams f).cancelFold f).dropMail f
  s.onFold f fun x => { x with run := .stopped }

/-- A running member at the start tick that a returning member has published: it stops, poisons its dynamic regions
and starts again after the pause (R325). -/
def State.yieldMember (s : State) (f : FoldNo) : State :=
  match s.folds[f].image with
  | none => s
  | some i =>
    let t := s.tick.number.toNat
    let x := s.folds[f]
    if i.multi && (s.others i).any fun m => decide (x.peerPair m 0x18 = some t) && decide (x.peerPair m 0x10 = some i.release) &&
        decide (x.peerRun m = some 3) then
      let s := (s.stopFold f).poisonDynamic i
      s.onFold f fun x => { x with run := .waiting, release := i.release, startTick := t + s.pauseTicks }
    else s

/-- A stopped fold that is not held is made ready again: with its static data still there it only poisons its dynamic
regions, else it loads. -/
def State.resume (s : State) (f : FoldNo) : State :=
  match (s.entry f).runSlot with
  | none => s
  | some b =>
    match s.folds[f].image with
    | some i =>
      if s.folds[f].loaded && decide (s.folds[f].slot = b) && decide (i.measurement = (s.entry f).measOf b) then
        (s.poisonDynamic i).reachWaiting f i
      else s.beginLoad f b
    | none => s.beginLoad f b

/-! ## Switching (R329, R330, R331, R334) -/

/-- The switch tick of an activating fold has come: the preloaded candidate starts in place of the active image, or
the fold stops and loads the candidate (DEDUCED, assumption 27). -/
def State.switchFold (s : State) (f : FoldNo) : State :=
  let e := s.entry f
  let pre := s.folds[f].preloaded
  let image := (s.container (foldEntry f) e.otherSlot).map Slot.image
  let s := if s.folds[f].run = .running ∨ s.folds[f].run = .hurdled then s.stopFold f else s
  let s := s.onFold f fun x => { x with recov := Recovery.reset }
  let s := s.commitEntry (foldEntry f) fun e => { e with state := .confirming, attempts := 1 }
  match pre, image with
  | true, some i =>
    let s := s.onFold f fun x => { x with image := some i, slot := e.otherSlot, loaded := true, blocksOk := true }
    s.formParity.reachWaiting f i
  | _, _ => s.beginLoad f e.otherSlot

/-- A revert of a confirming fold begins: reverting is committed (R331). -/
def State.beginRevert (s : State) (f : FoldNo) : State :=
  s.commitEntry (foldEntry f) fun e => { e with state := .reverting }

/-- The active image of a reverting fold is reloaded; with none, the fold stays stopped and idle is committed. -/
def State.revertLoad (s : State) (f : FoldNo) : State :=
  let s := s.onFold f fun x => { x with recov := Recovery.reset }
  match (s.entry f).active with
  | some b => s.beginLoad f b
  | none =>
    (s.onFold f fun x => { x with run := .stopped }).commitEntry (foldEntry f) fun e => { e with state := .idle, attempts := 0 }

/-- CONFIRMATION_COMPLETE: after C healthy ticks the candidate is the active image (R331). -/
def State.confirmFold (s : State) (f : FoldNo) : State :=
  let e := s.entry f
  if e.state = .confirming ∧ e.confirm ≤ s.folds[f].confirm then s.commitEntry (foldEntry f) TackEntry.confirmed else s

/-- What a fold owns under a section: its allotment, its reins and slot plan entries (R334). -/
def ModuleSection.ownedBy (m : ModuleSection) (f : FoldNo) : Option Allot × List PlanSlot :=
  (m.allots.find? fun a => decide (a.fold = f), m.plan.filter fun q => decide (q.fold = f))

/-- A new section makes the fold stop. -/
def ModuleSection.stops (old new : ModuleSection) (f : FoldNo) : Bool :=
  decide (old.period ≠ new.period ∨ old.bellwether ≠ new.bellwether ∨ old.n ≠ new.n ∨ old.spare ≠ new.spare ∨
    old.startCounts ≠ new.startCounts) || decide (old.ownedBy f ≠ new.ownedBy f) || decide (old.reins ≠ new.reins) ||
    decide (old.placement ≠ new.placement)

/-- Own hall module number under a section: the placement entry that holds the module's fingerprint (R237). -/
def State.ownPlace (s : State) (m : ModuleSection) : Option (BitVec 12) :=
  (m.placement.find? fun e => decide (e.2 = s.trust.fingerprint)).map fun e => e.1

/-! ## Meanings -/

def execStaticLoadComplete (f : FoldNo) (s : State) : Host.Outcome State Fault Refusal := .next (s.loadComplete f)
def execConfirmationComplete (f : FoldNo) (s : State) : Host.Outcome State Fault Refusal := .next (s.confirmFold f)

end Sys2Proof.Machine
end

