-- ==== Sys2Proof/Machine/Crook.lean ====
section
/-! DEFINITION. The crook, the hurdle, crash dumps, the walk of the regions, fencing and restart, and the supervisors
(spec/16_faults_and_recovery.md R364 to R375). -/

namespace Sys2Proof.Machine

/-! ## The wait-for graph (R365) -/

/-- Waits of one stream of a core. -/
def waitOf (l : CoreNo) (kind slot : Nat) (t : Stream) : List WaitNode :=
  match t.wait with
  | .none => []
  | .take g _ _ => [{ core := l, kind := kind, slot := slot, gate := g }]
  | .post g _ _ => [{ core := l, kind := kind, slot := slot, gate := g }]

/-- A node waits at an empty gate rather than a full one. -/
def State.takes (s : State) (p : CoreNo) (n : WaitNode) : Bool :=
  let t := if n.kind = 0 then s.cores[p].matrix
    else if n.kind = 1 then (if n.slot = 0 then s.cores[p].cstream else s.cores[p].currier.threads[Fin.ofNat 8 (n.slot - 1)])
    else s.cores[p].dstream
  match t.wait with
  | .take _ _ _ => decide (n.kind ≠ 2)
  | _ => false

/-- Waits of a fold on one core: its streams, its threads, and its drover transfer slots held at a full gate. -/
def State.waitsOn (s : State) (f : FoldNo) (l p : CoreNo) : List WaitNode :=
  let c := s.cores[p]
  let own := s.foldOf l = some f
  (if own then waitOf l 0 0 c.matrix ++ waitOf l 1 0 c.cstream ++ waitOf l 3 0 c.dstream ++
      c.currier.threads.toList.zipIdx.flatMap fun t => waitOf l 1 (t.2 + 1) t.1
    else []) ++
    (List.finRange 4).flatMap fun d => (List.finRange 8).flatMap fun i =>
      let x := c.ds d i
      if x.fold = f then x.descs.filterMap fun e => e.held.map fun h =>
          { core := l, kind := 2, slot := d.val * 8 + e.slot.getD 0, gate := h.1 } else []

/-- Every wait of a fold. -/
def State.waits (s : State) (f : FoldNo) : List WaitNode :=
  (s.coresOf f).flatMap fun l => match s.phys l with
    | some p => s.waitsOn f l p
    | none => []

/-- Edge of the graph (R365): from a wait at an empty gate to every wait on its producer's core, from a wait at a full
gate to every waiting stream of the gate's core. -/
def State.waitEdge (s : State) (a b : WaitNode) : Bool :=
  let takes := match s.phys a.core with
    | some p => s.takes p a
    | none => false
  if takes then
    (match s.gateRec a.core a.gate with
     | some r => decide (b.core = r.producer)
     | none => false)
  else decide (b.core = a.core) && decide (b.kind ≠ 2)

/-- Nodes reached from a set in up to a number of steps. -/
def State.reached (s : State) (ns : List WaitNode) : Nat → List WaitNode → List WaitNode
  | 0, from_ => from_
  | k + 1, from_ => s.reached ns k (from_ ++ ns.filter fun b => !from_.contains b && from_.any fun a => s.waitEdge a b)

/-- Nodes that lie on a closed path. -/
def State.onCycle (s : State) (ns : List WaitNode) : List WaitNode :=
  ns.filter fun a => (s.reached ns ns.length (ns.filter fun b => s.waitEdge a b)).contains a

/-- Samples after which a cycle is declared a hang. -/
def hangSamples : Nat := 126

/-- CROOK_SAMPLE, at a tick-relative cycle that is a multiple of 1,024: the waits on a closed path are counted over
consecutive samples; a closed path whose every wait has been on one for 126 samples is a hang. -/
def State.crookSample (s : State) (f : FoldNo) : State :=
  if s.folds[f].run ≠ .running ∨ s.rel % 1024 ≠ 0 then s
  else
    let now := s.onCycle (s.waits f)
    let old := s.folds[f].recov.lastCycle
    let counted := now.map fun n => (n, 1 + (match old.find? fun o => decide (o.1 = n) with
      | some o => o.2
      | none => 0))
    let long := s.onCycle ((counted.filter fun c => decide (hangSamples ≤ c.2)).map fun c => c.1)
    s.onFold f fun x =>
      { x with recov := { x.recov with
          lastCycle := counted
          nodes := if long.isEmpty then x.recov.nodes else long
          hang := if long.isEmpty || x.recov.hang.isSome then x.recov.hang else some 0x0501 } }

/-! ## Crash dumps (R374, Table 16.5) -/

/-- A cycle as a tick-relative number of 4 bytes. -/
def State.relBytes (s : State) (c : Nat) : List Byte := leBytes (c - s.tick.instant) 4

/-- State of one stream, 64 B. -/
def State.streamBytes (s : State) (t : Stream) : List Byte :=
  let loops := (List.range 4).flatMap fun n => match t.loops.find? fun x => decide (x.level.val = n) with
    | some x => leBytes x.index 2 ++ leBytes x.trip 2
    | none => leBytes 0 4
  let wait := match t.wait with
    | .none => [0, 0]
    | .take g _ _ => leBytes 1 1 ++ leBytes g.val 1
    | .post g _ _ => leBytes 2 1 ++ leBytes g.val 1
  sliceD 0 (leBytes t.next 4 ++ s.relBytes t.lastIssue ++ s.relBytes t.base ++ s.relBytes t.floor ++ loops ++ wait ++ [0, 0] ++
    t.handles.toList.flatMap fun h => leBytes h.toWord.toNat 4) 0 64

/-- A transfer slot, 64 B: descriptor offset, unit reached, beats granted and landed, need cycle. -/
def State.slotBytes (s : State) (x : DStream) : List Byte :=
  let d := match x.descs[x.cur]? with
    | some e => e.at_
    | none => x.fetch
  let beats := x.units.flatMap fun u => u.beats
  let need := match x.units with
    | u :: _ => u.need
    | [] => s.tick.instant
  sliceD 0 (leBytes d 4 ++ leBytes x.seq 4 ++ leBytes (beats.filter fun b => b.land.isSome).length 4 ++
    leBytes (x.units.map fun u => u.data.length).sum 4 ++ s.relBytes need) 0 64

/-- A gate, 72 B. -/
def gateBytes (g : Gate) : List Byte :=
  leBytes g.queue.length 4 ++ leBytes 0 4 ++ sliceD 0 (g.queue.flatMap fun h => leBytes h.1.toWord.toNat 4) 0 64

/-- Fault counts of a core in the running tick: the summary details of the log. -/
def State.faultCounts (s : State) (p : CoreNo) (code : BitVec 16) : List Byte :=
  match s.log.staged.find? fun e => decide (e.code = code) && decide (e.pcore = some p) && decide (e.tick = s.tick.number) with
  | some e => e.detail
  | none => List.replicate 20 0

/-- One core record, 41,472 B. -/
def State.coreBytes (s : State) (i : FoldImage) (l p : CoreNo) : List Byte :=
  let c := s.cores[p]
  let head := leBytes l.val 1 ++ leBytes p.val 1 ++
    leBytes (i.regions.filter fun r => decide (r.core = l)).length 2 ++ s.faultCounts p 0x0201 ++ s.faultCounts p 0x0301
  let part := fun (bs : List Byte) (n : Nat) => sliceD 0 bs 0 n
  part head 0x100 ++
    part (s.streamBytes c.matrix ++ s.streamBytes c.cstream ++ s.streamBytes c.dstream) 0x100 ++
    part ((List.finRange 4).flatMap fun d => (List.finRange 8).flatMap fun k => s.slotBytes (c.ds d k)) 0x800 ++
    part (c.rings.toList.flatMap fun r => leBytes r.reg.toNat 8) 0x100 ++
    part (c.gates.toList.flatMap gateBytes) 0x1200 ++
    part ((List.range 64).flatMap fun k => leBytes (c.acc.slot k).toNat 4) 0x100 ++
    part (leBytes c.cycles.toNat 8 ++ c.tally.toList.flatMap fun t => leBytes t.ctr.val.toNat 8) 0x200 ++
    part (c.currier.regs.toList.flatMap fun r =>
      (List.range 128).flatMap fun k => leBytes (match r[k]? with | some e => e.code.toNat | none => 0) 8) 0x8000 ++
    part (c.currier.regs.toList.flatMap fun r => (List.range 16).map fun k =>
      BitVec.ofNat 8 ((List.range 8).map fun j => (match r[8 * k + j]? with | some e => b2n e.bad | none => 0) * 2 ^ j).sum) 0x200

/-- A node of a cycle as 4 bytes: [31:27] core, [26:25] kind, [24:22] transfer slot, [21:16] gate (DEDUCED, assumption 24). -/
def WaitNode.word (n : WaitNode) : Nat :=
  n.core.val * 2 ^ 27 + n.kind * 2 ^ 25 + (n.slot % 8) * 2 ^ 22 + n.gate.val * 2 ^ 16

/-- The dump of a fold as it stands: header of 256 B and, unless only a summary is kept, a record for each logical
core. -/
def State.dumpBytes (s : State) (f : FoldNo) (i : FoldImage) (code : BitVec 16) (nodes : List WaitNode)
    (number : Nat) (summary : Bool) : List Byte :=
  let x := s.folds[f]
  let cores := if summary then [] else (s.coresOf f).filterMap fun l => (s.phys l).map fun p => s.coreBytes i l p
  let flags := b2n (!x.debug) * 128 + b2n x.debug * 64 + b2n summary * 32
  let nodes := if code = 0x0505 then [] else nodes.take 16
  let head := leBytes 1 1 ++ leBytes flags 1 ++ leBytes f.val 1 ++ leBytes x.sel.pen 1 ++
    leBytes (match x.allot with | some a => a.tag.toNat | none => 0) 2 ++ leBytes code.toNat 2 ++ leBytes number 4 ++
    leBytes s.tick.number.toNat 8 ++ leBytes s.rel 4 ++ leBytes cores.length 1 ++ leBytes nodes.length 1 ++ List.replicate 6 0 ++
    beBytes i.measurement.toNat 48 ++ sliceD 0 (nodes.flatMap fun n => leBytes n.word 4) 0 64
  sliceD 0 head 0 256 ++ cores.flatten

/-- A capture of another fold has not ended (R375). -/
def State.capturing (s : State) (f : FoldNo) : Bool :=
  (List.finRange 32).any fun g => decide (g ≠ f) && decide (s.folds[g].run = .hurdled) && !s.folds[g].recov.captured

/-- DUMP_CAPTURE (R368, R374): from h + 4,000 on the dump is kept for writing. -/
def State.captureDump (s : State) (f : FoldNo) : State :=
  let r := s.folds[f].recov
  match r.hurdle with
  | some h =>
    if h + 4000 ≤ s.now ∧ !r.captured then
      let s := (s.cancelFold f).onFold f fun x => { x with recov := { x.recov with captured := true, dump := [] } }
      { s with captures := s.captures ++ [(f, leAt r.dump 8 4, r.dump)] }
    else s
  | none => s

/-- Slots of the dump area. -/
def dumpSlots : Nat := 8128

/-- A dump sealed under the fold key (R354, R374): the records are encrypted with the header as additional data, and
the tag goes into the header; with the debug flag nothing is sealed. -/
def State.sealDump (s : State) (f : FoldNo) (bs : List Byte) : List Byte :=
  if (bs.getD 1 0).toNat.testBit 7 then
    let key := s.foldKey f (BitVec.ofNat 16 (leAt bs 4 2)) (BitVec.ofNat 384 (beAt bs 32 48))
    let head := sliceD 0 bs 0 256
    let r := gcmSeal (BitVec.ofNat 256 (beNat key)) (BitVec.ofNat 96 (leAt bs 8 4)) head (bs.drop 256)
    sliceD 0 head 0 144 ++ beBytes r.2.toNat 16 ++ sliceD 0 head 160 96 ++ r.1
  else bs

/-- DUMP_WRITTEN (R375): the oldest capture goes into the next slot of the dump area; with no SSD in step only its
header goes into the log. -/
def State.writeDump (s : State) : State :=
  match s.captures with
  | [] => s
  | (f, n, bs) :: rest =>
    let s := { s with captures := rest }
    if s.storeUp then
      let k := n % dumpSlots
      let old := s.store.dumps.find? fun d => decide (d.1 = k)
      let s : State := match old with
        | some d => s.log1 0x0507 (some f) none none (leBytes d.2.1 4)
        | none => s
      let body := s.sealDump f bs
      let s := { s with store := { s.store with dumps := (k, n, body) :: s.store.dumps.filter fun d => decide (d.1 ≠ k) } }
      s.log1 0x0506 (some f) none none (leBytes n 4)
    else s.log1 0x0506 (some f) none none (sliceD 0 bs 0 20)

/-! ## Fencing and hurdling (R367, R370) -/

/-- The fold is fenced: recovery has failed. -/
def State.fence (s : State) (f : FoldNo) : State :=
  ((s.onFold f fun x => { x with run := .fenced }).log1 0x0504 (some f) none none []).notice f 0x0504 none 3 []

/-- The fold is hurdled at this cycle h (Table 16.2): nothing further issues, its drover streams are cancelled by the
DROVER_CANCEL of cycle h + 1, and before the capture at the latest, its held mail is discarded, the results of this tick drain marked, and the dump is formed. A confirming fold is to be
reverted (R331); a hang within 1,024 ticks of the last restart fences the fold. -/
def State.hurdle (s : State) (f : FoldNo) (code : BitVec 16) (nodes : List WaitNode) : State :=
  match s.folds[f].image with
  | none => s
  | some i =>
    if s.folds[f].run ≠ .running then s
    else
      let tick := s.tick.number.toNat
      let again : Bool := match s.folds[f].recov.restarted with
        | some t => decide (tick < t + 1024)
        | none => false
      let confirming := decide ((s.entry f).state = .confirming)
      let summary := s.capturing f
      let n := s.dumpNo
      let dump := s.dumpBytes f i code nodes n summary
      let s := { s with dumpNo := n + 1 }
      let s := (s.stopFoldStreams f).dropMail f
      let s := s.onFold f fun x =>
        { x with run := .hurdled, markAll := true
                 recov := { x.recov with hurdle := some s.now, cause := code, nodes := nodes, captured := false, dump := dump
                                         summary := summary, walking := s.coresOf f, paused := 0, unrepairable := false, lastCycle := []
                                         overrun := false, hang := none } }
      let s := s.countFold f 9 1
      let detail := sliceD 0 (nodes.flatMap fun n => leBytes n.word 4) 0 20
      let s := (s.log1 code (some f) none none detail).notice f code none 1 detail
      match confirming, again with
      | true, _ => s.beginRevert f
      | false, true => s.fence f
      | false, false => s

/-- HANG_DECLARED: a hang found by the crook, or an overrun, hurdles the fold. -/
def State.declareHang (s : State) (f : FoldNo) : State :=
  match s.folds[f].recov.hang with
  | some code => s.hurdle f code s.folds[f].recov.nodes
  | none => s

/-! ## The walk (R368) -/

/-- Bytes of the regions of a fold on a core, in units of 256 B. -/
def FoldImage.unitsOn (i : FoldImage) (l : CoreNo) : Nat :=
  ((i.regions.filter fun r => decide (r.core = l)).map fun r => (r.len + 255) / 256).sum

/-- A word lies in a static region of a list. -/
def staticIn (rs : List Region) (w : Nat) : Bool :=
  rs.any fun r => !r.dynamic && decide (r.start ≤ 32 * w ∧ 32 * w < r.start + r.len)

/-- FOLD_WALK_END: on this core every static word has been checked and repaired where parity allows, and every
dynamic word is a poisoned zero word. The walk takes one cycle per unit, from h + 4,000 on, and the cycles in which it has
paused. A static word that cannot be repaired fences the fold when its walk is over. -/
def State.walkEnd (s : State) (f : FoldNo) (l : CoreNo) : State :=
  let x := s.folds[f]
  match x.image, x.recov.hurdle with
  | some i, some h =>
    if x.run ≠ .hurdled ∨ !x.recov.walking.contains l ∨ s.now < h + 4000 + i.unitsOn l + x.recov.paused then s
    else
      let s := s.onFold f fun x => { x with recov := { x.recov with walking := x.recov.walking.filter fun q => decide (q ≠ l) } }
      let rs := i.regions.filter fun r => decide (r.core = l)
      let s : State := match s.phys l with
        | none => s
        | some p =>
          let q := s.cores[p].member
          let s := ((s.cores[p].pasture.flips.map fun x => x.1).filter (staticIn rs)).foldl (fun (s : State) w => s.scrubWord p w) s
          let r := (s.cores[p].pasture.broken.filter (staticIn rs)).foldl (fun (a : State × Bool) w =>
            match a.1.rebuiltWord q (32 * w) with
            | some bs =>
              ((a.1.onCore p fun c => { c with pasture := c.pasture.fix w bs }).log1 0x0401 (some f) (some l) (some p)
                (leBytes (32 * w) 4), a.2)
            | none => (a.1.log1 0x0402 (some f) (some l) (some p) (leBytes (32 * w) 4), true)) (s, false)
          let s := r.1.onCore p fun c => { c with pasture := (rs.filter fun g => g.dynamic).foldl (fun m g =>
            m.poisonZero (g.start / 32) ((g.start + g.len) / 32)) c.pasture }
          s.onFold f fun x => { x with recov := { x.recov with unrepairable := x.recov.unrepairable || r.2 } }
      if s.folds[f].recov.unrepairable && s.folds[f].recov.walking.isEmpty && decide ((s.entry f).state ≠ .reverting) then
        s.fence f
      else s
  | _, _ => s

/-- A fenced fold makes one new attempt (R370): its regions are walked again. -/
def State.retryFenced (s : State) (f : FoldNo) : State :=
  if s.folds[f].run = .fenced then
    s.onFold f fun x => { x with run := .hurdled, peerRegs := [], recov := { x.recov with
      hurdle := some s.now, captured := true, walking := s.coresOf f, paused := 0, unrepairable := false } }
  else s

/-- A hurdled fold at an instant (R331, R369): a reverting fold loads its active image, any other restarts once the
capture and the walk have ended; the members of a multi-module fold wait for one another under R324. -/
def State.hurdledInstant (s : State) (f : FoldNo) : State :=
  let x := s.folds[f]
  match x.image with
  | none => s
  | some i =>
    if !x.recov.captured then s
    else if (s.entry f).state = .reverting then s.revertLoad f
    else if !x.recov.walking.isEmpty then s
    else if i.multi then s.reachWaiting f i
    else s.tryStart f

/-! ## Supervisors (R364) -/

/-- Ticks over which restarts count. -/
def restartWindow : Nat := 2 ^ 20

/-- A supervisor fails: it restarts, or stays out of service after three restarts within 2^20 ticks. -/
def Supervisor.fail (u : Supervisor) (tick : Nat) : Supervisor :=
  let recent := u.restarts.filter fun t => decide (tick < t + restartWindow)
  if u.state = .outOfService then u
  else if 3 ≤ recent.length then { u with state := .outOfService, restarts := recent }
  else { u with state := .restarting, restarts := tick :: recent }

/-- One supervisor changed. -/
def State.onSup (s : State) (u : Sup) (g : Supervisor → Supervisor) : State :=
  match u with
  | .a => { s with supA := g s.supA }
  | .b => { s with supB := g s.supB }

/-- A supervisor. -/
def State.sup (s : State) (u : Sup) : Supervisor := match u with
  | .a => s.supA
  | .b => s.supB

/-- Number of a supervisor in log details. -/
def supNo (u : Sup) : Nat := match u with
  | .a => 0
  | .b => 1

/-- The region that a supervisor boots (R315): its own, or the other when its own fails R309. -/
def State.bootRegion (s : State) (u : Sup) : Bool :=
  match u with
  | .a => !s.norOk 2
  | .b => s.norOk 3

/-- Measurement of the firmware in a region. -/
def State.regionMeas (s : State) (b : Bool) : BitVec 384 := if b then s.trust.romMeas[3] else s.trust.romMeas[2]

/-- A supervisor misses its reserve completion, or fails a self-check. -/
def State.supFail (s : State) (u : Sup) : State :=
  let s := s.onSup u fun x => x.fail s.tick.number.toNat
  if (s.sup u).state = .outOfService then s.log1 0x0A02 none none none (leBytes (supNo u) 1 ++ [1]) else s

/-- SUPERVISOR_RESTART: the restarting supervisor runs its firmware again and is standby. -/
def State.supRestart (s : State) (u : Sup) : State :=
  if (s.sup u).state = .restarting then
    let b := s.bootRegion u
    s.onSup u fun x => { x with state := .standby, region := b, meas := s.regionMeas b }
  else s

/-- Both supervisors are out of service or restarting: none is active. -/
def State.supIdle (s : State) : Bool := decide (s.supA.state ≠ .active) && decide (s.supB.state ≠ .active)

/-- The standby takes every duty at an instant after the active one has failed; and, in a firmware update, supervisor B
takes over once it runs the verified region F1 (R336). -/
def State.supInstant (s : State) : State :=
  if s.supIdle then
    (if s.supA.state = .standby then
      ({ s with supA := { s.supA with state := .active } }).log1 0x0A01 none none none [0, 0]
     else if s.supB.state = .standby then
      ({ s with supB := { s.supB with state := .active } }).log1 0x0A01 none none none [1, 0]
     else s)
  else if s.tack.fw = .f1Updating ∧ s.supA.state = .active ∧ s.supB.state = .standby ∧ s.supB.region ∧ s.norOk 3 ∧
      s.supB.meas = s.trust.romMeas[3] then
    let s := { s with supA := { s.supA with state := .standby }, supB := { s.supB with state := .active } }
    (s.commit fun t => { t with fw := .handedOver }).log1 0x0A01 none none none [1, 1]
  else s

/-! ## Meanings -/

def execCrookSample (f : FoldNo) (s : State) : Host.Outcome State Fault Refusal := .next (s.crookSample f)
def execHangDeclared (f : FoldNo) (s : State) : Host.Outcome State Fault Refusal := .next (s.declareHang f)
def execDumpCapture (f : FoldNo) (s : State) : Host.Outcome State Fault Refusal := .next (s.captureDump f)
def execDumpWritten (s : State) : Host.Outcome State Fault Refusal := .next s.writeDump
def execFoldWalkEnd (f : FoldNo) (l : CoreNo) (s : State) : Host.Outcome State Fault Refusal := .next (s.walkEnd f l)
def execSupervisorRestart (u : Sup) (s : State) : Host.Outcome State Fault Refusal := .next (s.supRestart u)

end Sys2Proof.Machine
end

