-- ==== Sys2Proof/Machine/Log.lean ====
section
/-! DEFINITION. Writing the tally log, its mirror and witnesses, and the mail between supervisors that only informs
(spec/16 R373, R376 to R380, spec/12 R268, spec/14 R324). -/

namespace Sys2Proof.Machine

/-! ## Writing (R376, R377, R380) -/

/-- Entries of one code: fold, cores and detail given. -/
def State.entryOfLog (s : State) (code : BitVec 16) (detail : List Byte) : LogEntry :=
  { seq := 0, tick := s.tick.number, cycle := s.rel, code := code, fold := none, lcore := none, pcore := none,
    debug := false, coalesced := false, count := 1, detail := detail20 detail, tag := 0 }

/-- The next entry to write: a loss entry with the number of entries lost, or the oldest staged one; and the log
without it. -/
def State.nextEntry (s : State) : Option (LogEntry × TallyLog) :=
  let g := s.log
  if 0 < g.lost then some (s.entryOfLog 0x0B04 (leBytes g.lost 4), { g with lost := 0 })
  else match g.staged with
    | e :: r => some (e, { g with staged := r })
    | [] => none

/-- Tag of an entry (Table 16.7): under the fold key or the record key, zero with the debug flag. -/
def State.entryTag (s : State) (e : LogEntry) : BitVec 128 :=
  if e.debug then 0
  else
    let key := match e.fold with
      | some f => match s.folds[f].image, s.folds[f].allot with
        | some i, some a => s.foldKey f a.tag i.measurement
        | _, _ => s.recordKey
      | none => s.recordKey
    BitVec.ofNat 128 ((hmac384 key (e.bytes.take 48)).toNat / 2 ^ 256)

/-- The first sector from one on, in ring order, that is usable. -/
def nextSector (bad : List Nat) (from_ : Nat) : Option Nat :=
  ((List.range 256).map fun k => (from_ + k) % 256).find? fun k => !bad.contains k

/-- The ring without the entries of a sector. -/
def TallyLog.erase (g : TallyLog) (sector : Nat) : TallyLog :=
  { g with ring := g.ring.filter fun e => decide (e.1 / sectorBytes ≠ sector) }

/-- The write position after an entry: where a sector is full, the next usable sector is erased and begun. -/
def TallyLog.advance (g : TallyLog) : TallyLog :=
  let p := (g.pos + 64) % ringBytes
  if p % sectorBytes ≠ 0 then { g with pos := p }
  else match nextSector g.badSectors (p / sectorBytes) with
    | some k => { g.erase k with pos := k * sectorBytes }
    | none => g

/-- An entry with its sequence and tag joins the chain digest (R378). -/
def TallyLog.chain (g : TallyLog) (e : LogEntry) : TallyLog :=
  { g with seq := g.seq + 1, digest := sha384 (beBytes g.digest.toNat 48 ++ e.bytes) }

/-- A sector fails (R380): it is skipped, the next tally fuse is blown, the failure is logged and told to the
witnesses (DESIGN CHOICE, assumption 49). -/
def State.sectorFails (s : State) : State :=
  let g := s.log
  let k := g.pos / sectorBytes
  let bad := k :: g.badSectors.filter (· ≠ k)
  let blow := decide (g.fuses < 256)
  let next := nextSector bad (k + 1)
  let g := g.erase k
  let g := match next with
    | some n => { g.erase n with pos := n * sectorBytes }
    | none => g
  let g := { g with badSectors := bad
                    fuses := if blow then g.fuses + 1 else g.fuses
                    failTick := if g.fuses = 0 then s.tick.number.toNat else g.failTick
                    failed := true, witnessDue := true }
  let s := { s with log := g }
  let s := s.log1 0x0B02 none none none (leBytes k 2)
  if blow then s.log1 0x0B03 none none none (leBytes g.fuses 2) else s

/-- LOG_ENTRY_WRITE: the next entry goes into the NOR ring; with no usable sector into the mirror alone, and with no SSD
in step it stays staged. -/
def State.writeEntry (s : State) (ok : Bool) : State :=
  match s.nextEntry with
  | none => s
  | some (e, g) =>
    let usable := decide (s.log.badSectors.length < 256)
    if usable ∧ !ok then s.sectorFails
    else
      let e := { e with seq := s.log.seq }
      let e := { e with tag := s.entryTag e }
      if usable then { s with log := ({ g.chain e with ring := g.ring ++ [(g.pos, e)] }).advance }
      else if s.storeUp then { s with log := { g.chain e with mirrorSeq := e.seq } }
      else s

/-- LOG_MIRROR_COPY (R378): every entry written is on the mirror of each present SSD. -/
def State.mirrorCopy (s : State) : State :=
  if s.store.ssds.any fun d => d.present then
    { s with log := { s.log with mirrorSeq := s.log.seq - 1 }
             store := { s.store with ssds := s.store.ssds.map fun d => if d.present then { d with mirror := true } else d } }
  else s

/-! ## Witness records (R378) -/

/-- The two witnesses: the first two flock modules with an Up copper port, from the next slot upward. -/
def State.witnesses (s : State) : List (BitVec 12) :=
  (((List.range 15).map fun k => BitVec.ofNat 12 (flockOf s.hallNo * 16 + (slotOf s.hallNo + 1 + k) % 16)).filter s.flockUp).take 2

/-- Payload of a witness record, 72 B. -/
def State.witnessBytes (s : State) : List Byte :=
  let g := s.log
  beBytes g.witnessFrom 8 ++ beBytes (g.seq - 1) 8 ++ beBytes g.digest.toNat 48 ++
    beBytes (b2n g.failed + 2 * b2n (decide (256 ≤ g.fuses))) 1 ++ beBytes (min 255 g.fuses) 1 ++ List.replicate 6 0

/-- A witness record is due (R378, R380): every 1,024 ticks, after a log memory failure, and in every tick while the log goes
on in the staging memory alone. -/
def State.witnessIsDue (s : State) : Bool :=
  s.log.witnessDue || decide (s.tick.number.toNat % 1024 = 0) || (decide (256 ≤ s.log.badSectors.length) && !s.storeUp)

/-- WITNESS_SEND: to both witnesses, with the records kept from before; with no witness up to 64 records are kept. -/
def State.witnessSend (s : State) : State :=
  if !s.witnessIsDue then s
  else
  let bs := s.witnessBytes
  let ws := s.witnesses
  let s := { s with log := { s.log with witnessFrom := s.log.seq, witnessDue := false } }
  if ws.isEmpty then
    { s with hall := { s.hall with witnessPending := (s.hall.witnessPending ++ [bs]).drop (s.hall.witnessPending.length + 1 - 64) } }
  else
    let all := s.hall.witnessPending ++ [bs]
    let s := { s with hall := { s.hall with witnessPending := [] } }
    ws.foldl (fun (s : State) m => all.foldl (fun (s : State) b => s.sendMail none 0x10 false m 0xFFFF 0 0 0 b) s) s

/-- WITNESS_RECORD: logged with the sender, its last sequence and the first 10 B of its digest. -/
def State.witnessed (s : State) (m : MailMsg) : State :=
  s.onSupervisor m fun s =>
    s.log1 0x0E03 none none none (leBytes m.srcModule.toNat 2 ++ leBytes (beAt m.payload 8 8) 8 ++ sliceD 0 m.payload 16 10)

/-! ## LOG_CLEAR (R379, R383) -/

/-- The NOR ring and the mirror are erased; the log cleared entry is written before the staged ones. -/
def State.clearLog (s : State) : State :=
  let last := s.log.seq - 1
  let e := s.entryOfLog 0x0E04 (leBytes last 8)
  { s with log := { s.log with ring := [], staged := e :: s.log.staged, failed := false } }

/-! ## Notices and status reads (R268, R324, R373) -/

/-- FAULT_NOTICE (R373): logged; the shepherd tells every other member. -/
def State.noticed (s : State) (m : MailMsg) : State :=
  s.onSupervisor m fun s =>
    let s := s.log1 0x0F01 none none none (sliceD 0 m.payload 8 20)
    let tag : BitVec 16 := BitVec.ofNat 16 (beAt m.payload 10 2)
    match (s.foldByTag tag).bind fun f => s.folds[f].image with
    | some i =>
      if i.multi ∧ i.shepherd = s.hallNo ∧ beAt m.payload 8 2 = m.srcModule.toNat then
        i.memberList.foldl (fun (s : State) k =>
          if k = s.hallNo ∨ k = m.srcModule then s else s.sendMail none 9 false k 0xFFFF 0 0 0 m.payload) s
      else s
    | none => s

/-- The fold whose export entry admits a status read (R252, R268). A hurdled or fenced fold refuses it (Table 16.2), but a
read of its own fold block is answered from the last sample (Table 20.18; the split is DEDUCED, assumption 49). -/
def State.statusAdmitted (s : State) (m : MailMsg) : Option FoldNo :=
  if hSpace m.addr = 3 ∧ zeros m.addr 31 12 then
    (s.foldByTag m.dstTag).filter fun f =>
      s.exports f m 4 .read && (!s.fencedOff f || decide (hOff m.addr / 0x1000 = 0x2000 + f.val))
  else none

/-- STATUS_READ_REQUEST (R252, R324): the register read, or refused. -/
def State.statusRequest (s : State) (m : MailMsg) : State :=
  s.onMail m fun s =>
    match s.statusAdmitted m with
    | some f =>
      let r := s.readStatus (hOff m.addr)
      r.2.sendMail (some f) 0x0B false m.srcModule m.srcTag (s.mailEpoch m) m.number m.addr (beBytes r.1.toNat 4)
    | none => (s.answerMail m 6 (s.mailEpoch m) m.addr []).countTag m.dstTag 18

/-- STATUS_READ_RESPONSE (R324): a member keeps what another one publishes. -/
def State.statusResponse (s : State) (m : MailMsg) : State :=
  s.onMail m fun s =>
    let s := s.learn m
    match s.foldByTag m.dstTag with
    | none => s
    | some f =>
      let off := hOff m.addr % 0x1000
      s.onFold f fun x =>
        { x with peerRegs := (m.srcModule, off, BitVec.ofNat 32 (beAt m.payload 0 4)) ::
            x.peerRegs.filter fun r => !(decide (r.1 = m.srcModule) && decide (r.2.1 = off)) }

/-! ## Meanings -/

def execLogEntryWrite (ok : Bool) (s : State) : Host.Outcome State Fault Refusal := .next (s.writeEntry ok)
def execLogMirrorCopy (s : State) : Host.Outcome State Fault Refusal := .next s.mirrorCopy
def execWitnessSend (s : State) : Host.Outcome State Fault Refusal := .next s.witnessSend
def execWitnessRecord (m : MailMsg) (s : State) : Host.Outcome State Fault Refusal := .next (s.witnessed m)
def execFaultNotice (m : MailMsg) (s : State) : Host.Outcome State Fault Refusal := .next (s.noticed m)
def execStatusReadRequest (m : MailMsg) (s : State) : Host.Outcome State Fault Refusal := .next (s.statusRequest m)
def execStatusReadResponse (m : MailMsg) (s : State) : Host.Outcome State Fault Refusal := .next (s.statusResponse m)

end Sys2Proof.Machine
end

