-- ==== Sys2Proof/Machine/Links.lean ====
section
/-! DEFINITION. The fabric links: training, keys, lane frames, lanes lost and regained, ports going down and coming
back, and CU15 standing in (spec/11_eswavy_links.md, spec/15 R352). -/

namespace Sys2Proof.Machine

/-! ## Bytes on a link (Tables 11.3, 11.6, 12.6, 12.8) -/

/-- Cycles of uncorrectable codewords within the last 2^20 (R231). -/
def State.recentUncorr (s : State) (l : List Nat) : List Nat := since (s.now + 1 - 2 ^ 20) l

/-- Lanes set in a mask. -/
def lanesIn (m : BitVec 8) : Nat := ((List.range 8).filter fun l => m.getLsbD l).length

/-- A lane's bit. -/
def laneBit (l : LaneNo) : BitVec 8 := BitVec.ofNat 8 (2 ^ l.val)

/-- A hello, 128 B. -/
def helloBytes (h : Hello) : List Byte :=
  [0x10, h.lowRev, h.highRev, BitVec.ofNat 8 (128 * b2n h.bellwether + 64 * b2n h.spareCopper + 32 * b2n h.unplaced)] ++
    beBytes h.hallModule.toNat 2 ++ [h.port, h.lanes] ++ beBytes h.fingerprint.toNat 48 ++ beBytes h.tick.toNat 8 ++
    beBytes h.txCycle.toNat 4 ++ beBytes h.echoed.toNat 4 ++ beBytes h.turnaround.toNat 4 ++ beBytes 0 4 ++
    beBytes h.nonce.toNat 32 ++ beBytes h.confirmation.toNat 16

/-- A hello read from its bytes. -/
def readHello (b : List Byte) : Hello :=
  { lowRev := b.getD 1 0, highRev := b.getD 2 0, bellwether := (b.getD 3 0).getLsbD 7, spareCopper := (b.getD 3 0).getLsbD 6,
    unplaced := (b.getD 3 0).getLsbD 5, hallModule := BitVec.ofNat 12 (beAt b 4 2), port := b.getD 6 0, lanes := b.getD 7 0,
    fingerprint := BitVec.ofNat 384 (beAt b 8 48), tick := BitVec.ofNat 48 (beAt b 56 8), txCycle := BitVec.ofNat 32 (beAt b 64 4),
    echoed := BitVec.ofNat 32 (beAt b 68 4), turnaround := BitVec.ofNat 32 (beAt b 72 4), nonce := BitVec.ofNat 256 (beAt b 80 32),
    confirmation := BitVec.ofNat 128 (beAt b 112 16) }

/-- Header of a frame of a kind, 16 B. -/
def headerBytes (kind : Byte) (h : LaneHeader) : List Byte :=
  [kind, h.revision, BitVec.ofNat 8 (h.lane.val * 32 + h.port.toNat), h.active] ++ beBytes h.counter.toNat 8 ++
    [h.request, h.announced, h.countdown, 0]

/-- Nonce of a unit (R226). -/
def unitNonce (lane : LaneNo) (unit : Nat) (counter : BitVec 64) : BitVec 96 :=
  BitVec.ofNat 96 (lane.val * 2 ^ 88 + unit * 2 ^ 80 + counter.toNat)

/-- A scheduled packet on the link: header and payload (DEDUCED, assumption 24). -/
def schedBytes (k : SchedPacket) : List Byte :=
  [BitVec.ofNat 8 (k.type.toNat * 16 + k.units.toNat), k.marks] ++ beBytes k.tag.toNat 2 ++ beBytes k.epoch.toNat 2 ++
    beBytes k.flow.toNat 2 ++ beBytes k.stamp.toNat 4 ++ beBytes k.addr.toNat 8 ++ beBytes 0 4 ++ k.payload

/-- Half-bytes of a run of bytes, the upper one first. -/
def halfBytes (bs : List Byte) : List Byte := bs.flatMap fun b => [b / 16, b % 16]

/-- Bytes of a run of half-bytes. -/
def fromHalves : List Byte → List Byte
  | a :: b :: r => (a * 16 + b) :: fromHalves r
  | _ => []

/-! ## Peers, pairs and keys (R227, R237, R352) -/

/-- One port changed. -/
def State.onFab (s : State) (p : FabricPort) (g : FabPort → FabPort) : State := { s with fab := vmod s.fab p g }

/-- A counter of Table 20.16 of a fabric port raised. -/
def State.countFab (s : State) (p : FabricPort) (k : Fin 13) (n : Nat) : State :=
  s.onFab p fun x => { x with ctrs := vmod x.ctrs k fun c => c.add n }

/-- Receive lanes in the active mask that are not lost. -/
def FabPort.liveRx (x : FabPort) : BitVec 8 :=
  (List.finRange 8).foldl (fun m l =>
    if x.lanes[l] = .noSignal ∨ x.lanes[l] = .lost ∨ x.lanes[l] = .training then m else m ||| (x.rxActive &&& laneBit l)) 0

/-- The peer of a port is paired (R352). -/
def State.paired (s : State) (p : FabricPort) : Bool :=
  match s.fab[p].peer, s.fab[p].offer, s.sec? with
  | some h, some o, some m =>
    (m.placement.any fun e => decide (e.2 = h.fingerprint)) &&
      decide (sha384 (beBytes o.brandKey.toNat 96) = h.fingerprint) &&
      ecdsaVerify o.brandKey o.signed o.signature && decide (o.expected = s.trust.fingerprint)
  | _, _, _ => false

/-- The pair key of this module and the peer of a port. -/
def State.pairKey (s : State) (h : Hello) (o : PairingOffer) : List Byte :=
  let x := ecdh (s.pairPrivate s.trust.generation) o.pairKey
  let mine := s.trust.fingerprint
  let own : BitVec 8 := BitVec.ofNat 8 s.trust.generation
  let lower := decide (mine.toNat < h.fingerprint.toNat)
  let salt := if lower then beBytes mine.toNat 48 ++ beBytes h.fingerprint.toNat 48
    else beBytes h.fingerprint.toNat 48 ++ beBytes mine.toNat 48
  let gens := if lower then [own, o.generation] else [o.generation, own]
  hkdf384 (beBytes x.toNat 48) salt (ascii "ESW2 pair" ++ gens) 32

/-- The two direction keys out of a pair key and the session nonces of the end with the lower fingerprint and of the other:
the key from the lower end, and the key to it. -/
def linkKeys (pair lower upper : List Byte) : BitVec 256 × BitVec 256 :=
  let k := hkdf384 pair (lower ++ upper) (ascii "ESW2 link") 64
  (BitVec.ofNat 256 (beNat (k.take 32)), BitVec.ofNat 256 (beNat (k.drop 32)))

/-- The two direction keys of a port: sending and receiving (R227). -/
def State.directionKeys (s : State) (p : FabricPort) (peerNonce : BitVec 256) : Option (BitVec 256 × BitVec 256) :=
  match s.fab[p].peer, s.fab[p].offer with
  | some h, some o =>
    let lower := decide (s.trust.fingerprint.toNat < h.fingerprint.toNat)
    let own := beBytes s.fab[p].nonce.toNat 32
    let peer := beBytes peerNonce.toNat 32
    let keys := if lower then linkKeys (s.pairKey h o) own peer else linkKeys (s.pairKey h o) peer own
    some (if lower then keys else keys.swap)
  | _, _ => none

/-- Key confirmation of a hello: the tag under the sender's direction key over bytes 0 to 111 (DEDUCED, assumption 40). -/
def confirmationOf (key : BitVec 256) (h : Hello) : BitVec 128 :=
  (gcmSeal key (unitNonce 0 17 0) ((helloBytes h).take 112) []).2

/-- Bytes of a lane frame before its fill. -/
def frameBytes : Nat := 13328
/-- Place of the management unit in a lane frame. -/
def mgmtPlace : Nat := 13072

/-- Fill of the lane frames of the n-th slot frame, so that 13,492 12/17 B leave in each on average (R224, R225) (DEDUCED,
assumption 40). -/
def fillOf (n : Nat) : Nat := 164 + ((n + 1) * 12 / 17 - n * 12 / 17)

/-- Cycles from the first byte of a lane frame to the byte at a place: 224/17 B leave in a cycle (R224). -/
def byteLag (place : Nat) : Nat := place * 17 / 224

/-- A cycle to come counted from the instant of its tick. -/
def State.relAfter (s : State) (n : Nat) : Nat := (s.rel + n) % max 1 s.period

/-- The hello that a port sends `lag` cycles from now (Table 11.6): the session nonce stands in it in the Key state alone,
the confirmation from the Key state on. -/
def State.helloOf (s : State) (p : FabricPort) (lag : Nat) : Hello :=
  let x := s.fab[p]
  let keying := decide (x.state = .key)
  let h : Hello :=
    { lowRev := 1, highRev := 2, bellwether := match s.sec? with | some m => m.bellwether | none => false
      spareCopper := decide (p.val = 15), unplaced := s.place.isNone, hallModule := s.hallNo, port := BitVec.ofNat 8 p.val,
      lanes := x.sig, fingerprint := s.trust.fingerprint, tick := s.tick.number, txCycle := BitVec.ofNat 32 (s.relAfter lag),
      echoed := x.heard.getD 0
      turnaround := match x.heard with | some _ => BitVec.ofNat 32 (s.now + lag - x.helloAt) | none => 0
      nonce := if keying then x.nonce else 0, confirmation := 0 }
  if keying then
    match x.peer with
    | some q =>
      if q.nonce = 0 then h
      else match s.directionKeys p q.nonce with
        | some k => { h with confirmation := confirmationOf k.1 h }
        | none => h
    | none => h
  else match x.txKey with
    | some k => { h with confirmation := confirmationOf k h }
    | none => h

/-- The bytes of the pairing offer of this module that its signature covers (Table 15.4). -/
def State.offerBytes (s : State) (p : FabricPort) : List Byte :=
  [0x11, BitVec.ofNat 8 s.trust.generation, 0, 0] ++ beBytes s.brandKey.toNat 96 ++
    beBytes (publicKey (s.pairPrivate s.trust.generation)).toNat 96 ++
    beBytes (match s.fab[p].peer with | some h => h.fingerprint.toNat | none => 0) 48 ++ List.replicate 12 0

/-- The pairing offer of this module on a port, with its signature. -/
def State.ownOffer (s : State) (p : FabricPort) : PairingOffer :=
  let bs := s.offerBytes p
  { generation := BitVec.ofNat 8 s.trust.generation, brandKey := s.brandKey
    pairKey := publicKey (s.pairPrivate s.trust.generation)
    expected := match s.fab[p].peer with | some h => h.fingerprint | none => 0
    signature := ecdsaSign s.brandPrivate (nonceOf (Config.offerNonce bs)) bs, signed := bs }

/-- The pattern of a training frame: n bytes of the PRBS31 sequence x^31 + x^28 + 1 from a seed, uppermost bit of each byte
first (R236) (DESIGN CHOICE, assumption 40: each new bit enters the register at its low end and is the bit sent). -/
def prbs31 : Nat → BitVec 31 → List Byte
  | 0, _ => []
  | n + 1, x =>
    let step := fun (q : BitVec 31 × Byte) (_ : Nat) =>
      let b := q.1.getLsbD 30 ^^ q.1.getLsbD 27
      ((q.1 <<< 1) ||| BitVec.ofNat 31 (b2n b), (q.2 <<< 1) ||| BitVec.ofNat 8 (b2n b))
    let r := (List.range 8).foldl step (x, 0)
    r.2 :: prbs31 n r.1

/-- Seed of a lane's pattern: the lane number in bits [2:0], the other bits 1. -/
def patternSeed (lane : LaneNo) : BitVec 31 := BitVec.ofNat 31 (2 ^ 31 - 8 + lane.val)

/-- A training frame's bytes (Table 11.10). -/
def TrainFrame.bytes (k : TrainFrame) : List Byte :=
  headerBytes 0x02 k.header ++ helloBytes k.hello ++ k.offer.signed ++ beBytes k.offer.signature.toNat 96 ++
    prbs31 (frameBytes + k.fill - 496) (patternSeed k.header.lane)

/-- The training frames of one boundary, one on each lane that has signal (R236). -/
def State.trainingFrames (s : State) (p : FabricPort) (h : Hello) : List TrainFrame :=
  let x := s.fab[p]
  ((List.finRange 8).filter fun l => x.sig.getLsbD l.val).map fun lane =>
    { header := { revision := x.revision, lane := lane, port := BitVec.ofNat 5 p.val, active := 0
                  counter := BitVec.ofNat 64 x.trainFrames, request := 0, announced := 0, countdown := 0 }
      hello := h, offer := s.ownOffer p, fill := fillOf x.trainFrames }

/-! ## Training (R236 to R239, R247) -/

/-- Lane states in training: the lanes with signal are training, the others have none. -/
def lanesFrom (m : BitVec 8) : Vector LaneState 8 := Vector.ofFn fun l => if m.getLsbD l.val then .training else .noSignal

/-- A port enters a training state. -/
def FabPort.enter (x : FabPort) (st : LinkState) (now : Nat) : FabPort := { x with state := st, since := now }

/-- Training starts afresh: keys and masks are gone (R234, R238). -/
def FabPort.retrain (x : FabPort) (now : Nat) : FabPort :=
  { x with
      state := if 6 ≤ lanesIn x.sig then .acquire else .down
      since := now, lanes := lanesFrom x.sig, txActive := 0, rxActive := 0, request := 0, peerRequest := 0, announced := 0
      countdown := 0, counter := 0, revision := 0, peer := none, authHello := none, heard := none, latencies := [], anchor := none
      offer := none, peerLanes := [], nonce := 0, txKey := none, rxKey := none, rejoin := false, inPlan := false
      goDown := false, uncorr := Vector.replicate 8 [], authFails := [], rx := [], ownHello := none, txFrames := []
      txTraining := [], trainFrames := 0 }

/-- Bound of a training state in core cycles (Table 11.7); none where the table gives none. -/
def State.trainBound (s : State) (p : FabricPort) : Option Nat :=
  match s.fab[p].state with
  | .acquire => some (if 16 ≤ p.val then 600000 else if s.fab[p].stored then 800000 else 60000000)
  | .align => some 100000
  | .hello => some 40000
  | .key => some 100000
  | .verify => some 200000
  | _ => none

/-- The revisions of the two ends overlap (R247). -/
def revisionsMeet (h : Hello) : Bool := decide (h.lowRev.toNat ≤ 2 ∧ 1 ≤ h.highRev.toNat ∧ h.lowRev.toNat ≤ h.highRev.toNat)

/-- Lanes get signal; those that had none or were lost retrain alone (R231). -/
def FabPort.regain (x : FabPort) (lanes : BitVec 8) (now : Nat) : FabPort :=
  let back := fun (l : LaneNo) => lanes.getLsbD l.val && (decide (x.lanes[l] = .noSignal) || decide (x.lanes[l] = .lost))
  { x with sig := x.sig ||| lanes
           lanes := Vector.ofFn fun l => if back l then .training else x.lanes[l]
           cleanSince := Vector.ofFn fun l => if back l then now else x.cleanSince[l] }

/-- SIGNAL_DETECTED: a port that is Down goes to Acquire with six lanes or more. -/
def State.signalOp (s : State) (p : FabricPort) (lanes : BitVec 8) : State :=
  s.onFab p fun x =>
    let x := x.regain lanes s.now
    if x.state = .down ∧ 6 ≤ lanesIn x.sig then { x.enter .acquire s.now with trainFrames := 0 } else x

/-- ACQUIRE_DONE. -/
def State.acquireOp (s : State) (p : FabricPort) (lanes : BitVec 8) : State :=
  if s.fab[p].state = .acquire ∧ 6 ≤ lanesIn (lanes &&& s.fab[p].sig) then
    s.onFab p fun x => { x.enter .align s.now with stored := true }
  else s

/-- ALIGN_DONE: the lanes aligned are those on which this end will ask for traffic. -/
def State.alignOp (s : State) (p : FabricPort) (lanes : BitVec 8) : State :=
  if s.fab[p].state = .align ∧ 6 ≤ lanesIn (lanes &&& s.fab[p].sig) then
    s.onFab p fun x => { x.enter .hello s.now with request := lanes &&& x.sig }
  else s

/-- The port enters Key with a fresh session nonce; a draw waits while the entropy source has failed (R341). -/
def State.enterKey (s : State) (p : FabricPort) : State :=
  if s.trust.entropyFailed then s
  else
    let r := s.draw 256
    r.2.onFab p fun x => { x.enter .key s.now with nonce := r.1, txKey := none, rxKey := none }

/-- HELLO_AGREED: the peer is placed and the revisions overlap; without a pair key the port is Unpaired (R239). Ports
that share no revision stay in Hello and are counted. -/
def State.helloOp (s : State) (p : FabricPort) : State :=
  match s.fab[p].state, s.fab[p].peer with
  | .hello, some h =>
    if !revisionsMeet h then s.countFab p 10 1
    else if h.unplaced then s
    else
      let s := s.onFab p fun x => { x with revision := if h.highRev.toNat < 2 then h.highRev else 2 }
      if s.paired p then s.enterKey p else s.onFab p fun x => x.enter .unpaired s.now
  | _, _ => s

/-- KEY_CONFIRMED: the keys of this training are those of both nonces, and the peer's confirmation verifies. -/
def State.keyOp (s : State) (p : FabricPort) (h : Hello) : State :=
  if s.fab[p].state ≠ .key then s
  else match s.directionKeys p h.nonce with
    | some k =>
      if h.confirmation = confirmationOf k.2 h then
        s.onFab p fun x => { x.enter .verify s.now with
          txKey := some k.1, rxKey := some k.2, counter := 0, txActive := x.peer.elim 0 fun q => q.lanes, rxActive := x.request }
      else s
    | none => s

/-- The fields of a hello that stand in both copies: all but times, nonce and confirmation. -/
def helloFields (h : Hello) : Hello :=
  { h with lanes := 0, tick := 0, txCycle := 0, echoed := 0, turnaround := 0, nonce := 0, confirmation := 0 }

/-- The delay of a port fits the padding of every fold that runs over its rein (R241). -/
def State.fitsRunning (s : State) (p : FabricPort) : Bool :=
  match s.memberOf p with
  | none => true
  | some r => s.folds.all fun x => match x.image with
    | some i => decide (x.run ≠ .running) || s.delayFits i r.1 p
    | none => true

/-- A port has returned with the peer and peer port with which it last joined a running fold. -/
def FabPort.samePeer (x : FabPort) : Bool := match x.joined, x.peer with
  | some j, some h => decide (j = (h.fingerprint, h.port))
  | _, _ => false

/-- The end of Verify: the authenticated hello equals the clear one and 16 latencies have been measured; the receive delay is
fixed (R229, R237). A port that returns with the same peer and a delay that fits rejoins at the next instant; one that
does not is counted (R241). -/
def State.verifyOp (s : State) (p : FabricPort) : State :=
  match s.fab[p].state, s.fab[p].peer, s.fab[p].authHello with
  | .verify, some c, some h =>
    if helloFields c ≠ helloFields h then
      let s := s.onFab p fun x => (x.retrain s.now)
      ((s.countFab p 10 1).countFab p 7 1).log1 0x0704 none none none ([BitVec.ofNat 8 p.val, h.lanes] ++ leBytes h.hallModule.toNat 2)
    else if s.fab[p].latencies.length < 16 then s
    else
      let worst := s.fab[p].latencies.foldl max 0
      let s := s.onFab p fun x =>
        { x.enter .up s.now with
            peer := some h, latency := worst, rxDelay := worst + 16, goDown := false, owed := x.rxActive
            anchor := x.anchor.map fun a => (a.1 - worst, a.2)
            lanes := Vector.ofFn fun l => if x.rxActive.getLsbD l.val ∧ x.sig.getLsbD l.val then .active else x.lanes[l]
            cleanSince := Vector.replicate 8 s.now }
      if s.fab[p].joined.isNone then s
      else if s.fab[p].samePeer && s.fitsRunning p then s.onFab p fun x => { x with rejoin := true }
      else s.countFab p 8 1
  | _, _, _ => s

/-- VERIFY_DONE comes with the hello and the latencies that it rests on: a command that names others than those that the
port has gathered tells of no step of this training (DESIGN CHOICE, assumption 9). -/
def State.verifyDoneOp (s : State) (p : FabricPort) (h : Hello) (latencies : List Nat) : State :=
  if s.fab[p].authHello = some h ∧ s.fab[p].latencies = latencies then s.verifyOp p else s

/-- TRAINING_TIMEOUT: a state exceeds its bound and the port returns to Acquire. Key stays and retries; ports that
share no revision stay in Hello (R238, R247). -/
def State.timeoutOp (s : State) (p : FabricPort) : State :=
  let x := s.fab[p]
  let stays := decide (x.state = .key) || (decide (x.state = .hello) && (match x.peer with
    | some h => !revisionsMeet h
    | none => false))
  match s.trainBound p with
  | some b => if stays ∨ s.now < x.since + b then s else s.onFab p fun x => { (x.retrain s.now) with stored := x.stored }
  | none => s

/-- Cycles between two tries in Key, and between two clear hellos of an Unpaired port. -/
def retryCycles : Nat := 2 ^ 21

/-- KEY_RETRY. -/
def State.keyRetryOp (s : State) (p : FabricPort) : State :=
  if s.fab[p].state = .key ∧ s.fab[p].since + retryCycles ≤ s.now then s.enterKey p else s

/-- UNPAIRED_HELLO: a clear hello is sent and the attempt counted; a port for whose peer a pair key has been set goes
on to Key (Table 11.7). -/
def State.unpairedOp (s : State) (p : FabricPort) : State :=
  if s.fab[p].state ≠ .unpaired then s
  else if s.paired p then s.enterKey p
  else
    let h := s.helloOf p (byteLag 16)
    let fs := s.trainingFrames p h
    let s := (s.onFab p fun x => { x with ownHello := some h, txTraining := fs }).countFab p 11 1
    s.log1 0x0705 none none none []

/-- TRAINING_FRAME: the clear hello and the pairing offer of the peer; after keying only authenticated copies count. -/
def State.trainingOp (s : State) (p : FabricPort) (lane : LaneNo) (h : Hello) (o : PairingOffer) : State :=
  let st := s.fab[p].state
  if st = .acquire ∨ st = .align ∨ st = .hello ∨ st = .key ∨ st = .unpaired then
    s.onFab p fun x =>
      { x.regain (laneBit lane) s.now with
          peer := some h, offer := some o, helloAt := s.now + byteLag 16, heard := some h.txCycle }
  else s

/-! ## Ports going down (R234) -/

/-- Fault notices of a port of a fold's expected topology (R373). -/
def State.portNotice (s : State) (p : FabricPort) (code : BitVec 16) (action : Nat) (detail : List Byte) : State :=
  (List.finRange 32).foldl (fun (s : State) f => match s.folds[f].image with
    | some i =>
      if i.topology.any fun t => decide (t.member = s.hallNo) && t.ports.contains p.val then s.notice f code none action detail
      else s
    | none => s) s

/-- Detail of a port's log entries: port, lanes, peer module. -/
def State.portDetail (s : State) (p : FabricPort) : List Byte :=
  [BitVec.ofNat 8 p.val, s.fab[p].sig] ++ leBytes (s.peerOf p).toNat 2

/-- An Up port is taken down and trains afresh: `k` is the cause's counter and `code` its log code. CU15 then stands in
for no other port. -/
def State.takeDown (s : State) (p : FabricPort) (k : Fin 13) (code : BitVec 16) : State :=
  let d := s.portDetail p
  let s := (s.onFab p fun x => { (x.retrain s.now) with stored := true, standIn := none }).countFab p k 1
  (s.log1 code none none none d).portNotice p code 5 d

/-- The conditions of an Up port fail: fewer than six active lanes in one direction. -/
def FabPort.short (x : FabPort) : Bool := decide (lanesIn x.txActive < 6) || decide (lanesIn x.liveRx < 6)

/-- PORT_DOWN. -/
def State.portDownOp (s : State) (p : FabricPort) : State :=
  let x := s.fab[p]
  if x.state = .up ∧ (x.goDown ∨ x.short) then s.takeDown p 5 0x0702 else s

/-- Authentication failures that still count: of the last 2^20 slot frames. -/
def FabPort.recentFails (x : FabPort) : List Nat := x.authFails.filter fun c => decide (x.counter.toNat < c + 2 ^ 20)

/-- AUTH_FAILURE_RETRAIN (R228): with fresh keys; a pending lane change is abandoned. -/
def State.authRetrainOp (s : State) (p : FabricPort) : State :=
  if s.fab[p].recentFails.length < 16 then s
  else if s.fab[p].state = .up then s.takeDown p 6 0x0703
  else if s.fab[p].state = .verify then
    ((s.onFab p fun x => { (x.retrain s.now) with stored := x.stored }).countFab p 6 1).log1 0x0703 none none none (s.portDetail p)
  else s

/-! ## Lanes (R231, R232) -/

/-- LANE_SIGNAL_LOSS: no signal or no codeword alignment on a receive lane. -/
def State.signalLossOp (s : State) (p : FabricPort) (lane : LaneNo) : State :=
  s.onFab p fun x => { x with lanes := x.lanes.set lane .noSignal, sig := x.sig &&& ~~~(laneBit lane) }

/-- LANE_LOST: a lane of the request mask that has no signal or has lost it since, or that delivered four uncorrectable
codewords, leaves the request mask; with fewer than six lanes the port is to go down. A lost lane that has signal begins to retrain alone with the next frame or signal on it (DESIGN CHOICE, assumption 41). -/
def State.laneLostOp (s : State) (p : FabricPort) (lane : LaneNo) : State :=
  let x := s.fab[p]
  if x.state ≠ .up ∨ !(decide (x.lanes[lane] = .noSignal ∨ x.lanes[lane] = .training) || decide (4 ≤ (s.recentUncorr x.uncorr[lane]).length)) ∨
      !x.request.getLsbD lane.val then s
  else
    let s := s.onFab p fun x =>
      let x := { x with lanes := x.lanes.set lane (if x.lanes[lane] = LaneState.active ∨ x.lanes[lane] = LaneState.usable then .lost else x.lanes[lane])
                        request := x.request &&& ~~~(laneBit lane), cleanSince := x.cleanSince.set lane s.now }
      { x with goDown := x.goDown || x.short }
    (s.countFab p 3 1).log1 0x0701 none none none (s.portDetail p)

/-- LANE_USABLE: a lane that retrains alone has had no uncorrectable codeword for 2^24 cycles; it joins the request
mask. -/
def State.laneUsableOp (s : State) (p : FabricPort) (lane : LaneNo) : State :=
  let x := s.fab[p]
  if x.state = .up ∧ x.lanes[lane] = .training ∧ x.sig.getLsbD lane.val ∧ x.cleanSince[lane] + 2 ^ 24 ≤ s.now then
    s.onFab p fun x => { x with lanes := x.lanes.set lane .usable, request := x.request ||| laneBit lane }
  else s

/-- ACTIVE_MASK_CHANGE: the frame that would carry countdown 0 uses the announced mask on every lane at once. -/
def State.maskOp (s : State) (p : FabricPort) : State :=
  if s.fab[p].state = .up ∧ s.fab[p].countdown = 1 then
    (s.onFab p fun x =>
      let x := { x with txActive := x.announced, countdown := 0 }
      { x with goDown := x.goDown || x.short }).countFab p 4 1
  else s

/-- The masks and the countdown of a frame boundary (R232): a request that differs from the active mask is announced
with countdown 2. -/
def State.boundaryMasks (s : State) (p : FabricPort) : State :=
  let x := s.fab[p]
  if x.countdown = 1 then s.maskOp p
  else s.onFab p fun x =>
    if 1 < x.countdown then { x with countdown := x.countdown - 1 }
    else if x.peerRequest ≠ 0 ∧ x.peerRequest ≠ x.txActive then { x with announced := x.peerRequest, countdown := 2 }
    else x

/-! ## Rein slots (R223, R230, R244, R253, R254, R263) -/

/-- The bytes that the packets of a flow of a rein put into one slot, at most `need`, and the packets left. -/
def pullSched (rein : Nat) (f : FoldNo) (flow cycle : Nat) : Nat → List SchedTx → List Byte × List SchedTx
  | _, [] => ([], [])
  | need, t :: r =>
    if need = 0 ∨ t.rein ≠ rein ∨ t.fold ≠ f ∨ t.flow ≠ flow ∨ cycle < t.ready then
      let q := pullSched rein f flow cycle need r
      (q.1, t :: q.2)
    else
      let all := schedBytes t.pkt
      let bs := (all.drop t.placed).take need
      let q := pullSched rein f flow cycle (need - bs.length) r
      if all.length ≤ t.placed + bs.length then (bs ++ q.1, q.2)
      else (bs ++ q.1, { t with placed := t.placed + bs.length } :: q.2)

/-- Half-bytes of mail for the mail part of one slot: of the message partly sent, then of the next ones of the queue. -/
def pullMail : Nat → Nat → List Byte → List MailMsg → List Byte × List Byte × List MailMsg
  | 0, _, left, queue => ([], left, queue)
  | n + 1, need, left, queue =>
    let now := left.take need
    let rest := left.drop need
    match queue with
    | m :: r =>
      if now.length < need then
        let q := pullMail n (need - now.length) (halfBytes (mailBytes m)) r
        (now ++ q.1, q.2)
      else (now, rest, queue)
    | [] => (now, rest, [])

/-- What the making of a rein frame carries along. -/
structure ReinBuild where
  tx : List SchedTx
  left : List Byte
  queue : List MailMsg
  /-- slots of each member, last first -/
  parts : List (Nat × List (List Byte))
  deriving DecidableEq, Repr

/-- Active mask of the next frame of a port (R232). -/
def FabPort.nextActive (x : FabPort) : BitVec 8 := if x.countdown = 1 then x.announced else x.txActive

/-- Half-bytes of mail in each slot of the next frame of a member port: 25 B at eight active lanes, 12.5 B at seven, none at
six (R233). The ports of a module share their frame boundaries (Table 11.8), so the mask of each member in that frame is
known when the first member's boundary makes the frame of the rein. -/
def State.mailRoom (s : State) (q : Nat) : Nat :=
  let c := s.carrier (Fin.ofNat 24 q)
  if s.fab[c].state = .up then 25 * (lanesIn s.fab[c].nextActive - 6) else 0

/-- One slot of a rein, `k` cycles after the boundary: 75 B of each member for the flow of its slot plan entry, then
mail. -/
def State.buildSlot (s : State) (r : Rein) (plan : List PlanSlot) (b : ReinBuild) (k : Nat) : ReinBuild :=
  let n := 75 * r.ports.length
  let sched := match plan.find? fun e => decide (e.slot = k) with
    | some e => pullSched r.rein e.fold e.flow.toNat (s.now + k) n b.tx
    | none => ([], b.tx)
  (r.ports.zipIdx).foldl (fun (b : ReinBuild) q =>
    let mail := pullMail 64 (s.mailRoom q.1) b.left b.queue
    let slot := halfBytes (sliceD 0 sched.1 (75 * q.2) 75) ++ mail.1
    { b with left := mail.2.1, queue := mail.2.2,
             parts := b.parts.map fun x => if x.1 = q.1 then (x.1, slot :: x.2) else x }) { b with tx := sched.2 }

/-- The next frame of a rein: the parts of every member, 1,024 slots each. -/
def State.buildRein (s : State) (r : Rein) : State :=
  let i : Fin 12 := Fin.ofNat 12 r.rein
  let plan := match s.sec? with
    | some m => m.plan.filter fun e => decide (e.rein = r.rein) && !e.receive
    | none => []
  let b := (List.range 1024).foldl (s.buildSlot r plan)
    { tx := s.hall.tx, left := s.hall.mailLeft[i], queue := s.hall.queues[i], parts := r.ports.map fun q => (q, []) }
  { s with hall := { s.hall with
      tx := b.tx, mailLeft := vmod s.hall.mailLeft i fun _ => b.left, queues := vmod s.hall.queues i fun _ => b.queue,
      frames := vmod s.hall.frames i fun _ => b.parts.map fun x => (x.1, x.2.reverse) } }

/-- The part of a member port in the frame of its rein, made when no earlier boundary has made it; the scheduled part
of a port that is in no running plan is left out (R240, R241). -/
def State.takePart (s : State) (p : FabricPort) : List (List Byte) × State :=
  match s.memberOf p with
  | none => ([], s)
  | some (r, q) =>
    let i : Fin 12 := Fin.ofNat 12 r.rein
    let s := if s.hall.frames[i].any fun x => decide (x.1 = q) then s else s.buildRein r
    let part := (s.hall.frames[i].find? fun x => decide (x.1 = q)).elim [] fun x => x.2
    let open_ := s.fab[p].inPlan || decide (p.val ≠ q)
    let part := if open_ then part else part.map fun x => List.replicate 150 0 ++ x.drop 150
    (part, { s with hall := { s.hall with frames := vmod s.hall.frames i fun l => l.filter fun x => decide (x.1 ≠ q) } })

/-! ## Lane frames (R224 to R229) -/

/-- The place of a lane among the active ones. -/
def lanePlace (active : BitVec 8) (lane : LaneNo) : Nat :=
  ((List.range lane.val).filter fun l => active.getLsbD l).length

/-- Plaintext of slot unit u of a lane: 64 slots of 100 bits. -/
def unitText (slots : List (List Byte)) (active : BitVec 8) (lane : LaneNo) (u : Nat) : List Byte :=
  if active.getLsbD lane.val then
    fromHalves ((sliceD [] slots (64 * u) 64).flatMap fun x => sliceD 0 x (25 * lanePlace active lane) 25)
  else List.replicate 800 0

/-- Lane report of a port, 16 B. -/
def State.laneReport (s : State) (p : FabricPort) : List Byte :=
  (List.finRange 8).flatMap fun l =>
    beBytes (s.fab[p].lanes[l].code * 4096 + min 4095 (s.recentUncorr s.fab[p].uncorr[l]).length) 2

/-- Plaintext of the management unit: in revision 1 the hello alone (R247). -/
def State.mgmtText (s : State) (p : FabricPort) (h : Hello) : List Byte :=
  if s.fab[p].revision = 1 then helloBytes h else helloBytes h ++ s.laneReport p ++ List.replicate 96 0

/-- A unit sealed under the sending key. -/
def sealUnit (key : BitVec 256) (h : LaneHeader) (u : Nat) (text : List Byte) : LaneUnit :=
  let c := gcmSeal key (unitNonce h.lane u h.counter) (headerBytes 0x01 h) text
  { cipher := c.1, tag := c.2 }

/-- The traffic frames of one boundary, one on each lane (Table 11.2) (DEDUCED, assumption 40). -/
def State.trafficFrames (s : State) (p : FabricPort) (key : BitVec 256) (h : Hello) (slots : List (List Byte)) : List LaneFrame :=
  let x := s.fab[p]
  (List.finRange 8).map fun lane =>
    let hd : LaneHeader :=
      { revision := x.revision, lane := lane, port := BitVec.ofNat 5 p.val, active := x.txActive, counter := x.counter
        request := x.request, announced := if x.countdown = 0 then x.txActive else x.announced
        countdown := BitVec.ofNat 8 x.countdown }
    { header := hd, units := (List.range 16).map fun u => sealUnit key hd u (unitText slots x.txActive lane u)
      mgmt := sealUnit key hd 16 (s.mgmtText p h), fill := fillOf x.counter.toNat }

/-- The traffic frames of a port go out with a hello in each. -/
def State.sendTraffic (s : State) (p : FabricPort) (slots : List (List Byte)) : State :=
  let h := s.helloOf p (byteLag mgmtPlace)
  s.onFab p fun x => { x with
    ownHello := some h, counter := x.counter + 1, txTraining := []
    txFrames := match x.txKey with | some k => s.trafficFrames p k h slots | none => [] }

/-- SLOT_FRAME_BOUNDARY (R225, R236): a training frame from Acquire to Key, a traffic frame from Verify on, in Verify
with zero slots; the part of a rein slot that a port which is not Up would have sent is discarded (R234). -/
def State.boundaryOp (s : State) (p : FabricPort) : State :=
  let r := s.takePart p
  let s := r.2
  match s.fab[p].state with
  | .down => s
  | .unpaired => s
  | .verify => s.sendTraffic p []
  | .up => (s.boundaryMasks p).sendTraffic p r.1
  | _ =>
    let h := s.helloOf p (byteLag 16)
    let fs := s.trainingFrames p h
    s.onFab p fun x => { x with ownHello := some h, txTraining := fs, trainFrames := x.trainFrames + 1 }

/-! ## Codewords (R224) -/

/-- Symbols that the module corrects in a codeword. -/
def correctable : Nat := 15

/-- Codewords in which bytes of a frame lie. -/
def lineOver (r : LineRx) (place len : Nat) : List Nat :=
  let first := (r.phase + place) / 640
  (List.range ((r.phase + place + len - 1) / 640 + 1 - first)).map fun i => r.errors.getD (first + i) 0

/-- Bytes of a frame lie wholly in codewords that were clean or corrected. -/
def lineWhole (r : LineRx) (place len : Nat) : Bool := (lineOver r place len).all fun e => decide (e ≤ correctable)

/-- Bytes of a frame lie wholly in clean codewords. -/
def lineClean (r : LineRx) (place len : Nat) : Bool := (lineOver r place len).all fun e => decide (e = 0)

/-- The codewords that a frame is the first to reach: one that the frame before it began was counted there. -/
def lineFresh (r : LineRx) : List Nat := if r.phase = 0 then r.errors else r.errors.drop 1

/-- Symbols corrected. -/
def lineCorrected (r : LineRx) : Nat := ((lineFresh r).filter fun e => decide (e ≤ correctable)).sum

/-- Codewords that could not be corrected. -/
def lineUncorrectable (r : LineRx) : Nat := ((lineFresh r).filter fun e => decide (correctable < e)).length

/-! ## Units received (R228) -/

/-- Place of a unit in a lane frame. -/
def unitPlace (u : Nat) : Nat := 16 + 816 * u

/-- A unit is opened (R228): its plaintext when its tag verifies and its codewords were clean or corrected. -/
def openUnit (key : BitVec 256) (lane : LaneNo) (r : LineRx) (h : LaneHeader) (u : Nat) (x : LaneUnit) : Option (List Byte) :=
  if lineWhole r (unitPlace u) (x.cipher.length + 16) then
    gcmOpen key (unitNonce lane u h.counter) (headerBytes 0x01 h) x.cipher x.tag
  else none

/-- Units of a frame with their numbers. -/
def unitsOfFrame (k : LaneFrame) : List (Nat × LaneUnit) :=
  (k.units.zipIdx.map fun x => (x.2, x.1)) ++ [(16, k.mgmt)]

/-- Every codeword of a unit and of the header that it authenticates was clean. -/
def cleanUnit (r : LineRx) (u : Nat × LaneUnit) : Bool :=
  lineClean r 0 16 && lineClean r (unitPlace u.1) (u.2.cipher.length + 16)

/-- An authentication failure: every codeword was clean and the tag does not verify. -/
def authFailed (key : BitVec 256) (lane : LaneNo) (r : LineRx) (h : LaneHeader) (u : Nat × LaneUnit) : Bool :=
  cleanUnit r u && (openUnit key lane r h u.1 u.2).isNone

/-- A unit that fails though no codeword of it was beyond correction: it is counted as a unit of an uncorrectable codeword
(DEDUCED, assumption 40: a unit with one is counted by that codeword). -/
def falseCorrection (key : BitVec 256) (lane : LaneNo) (r : LineRx) (h : LaneHeader) (u : Nat × LaneUnit) : Bool :=
  lineWhole r 0 16 && lineWhole r (unitPlace u.1) (u.2.cipher.length + 16) && !cleanUnit r u &&
    (openUnit key lane r h u.1 u.2).isNone

/-- Lane states after the header of a frame with an active mask. -/
def lanesUnder (lanes : Vector LaneState 8) (active : BitVec 8) : Vector LaneState 8 :=
  Vector.ofFn fun l => match lanes[l] with
    | .active => if active.getLsbD l.val then .active else .usable
    | .usable => if active.getLsbD l.val then .active else .usable
    | other => other

/-- What a received frame gives: the header when some unit verifies, the slot units, the management unit. -/
structure Opened where
  header : Option LaneHeader
  slots : List (Option (List Byte))
  mgmt : Option (List Byte)
  deriving DecidableEq, Repr

/-- A frame opened under the receiving key. -/
def openFrame (key : BitVec 256) (lane : LaneNo) (r : LineRx) (k : LaneFrame) : Opened :=
  { header := if (unitsOfFrame k).any fun u => (openUnit key lane r k.header u.1 u.2).isSome then some k.header else none
    slots := k.units.zipIdx.map fun u => openUnit key lane r k.header u.2 u.1
    mgmt := openUnit key lane r k.header 16 k.mgmt }

/-- Cycle at which the peer placed the first slot of a frame: counted on from the frame that the training has timed, else
from this frame's own arrival (R229). -/
def FabPort.placedAt (x : FabPort) (now : Nat) (h : Option LaneHeader) : Nat :=
  match x.anchor, h with
  | some a, some h => a.1 + 1024 * h.counter.toNat - 1024 * a.2.toNat
  | some a, none => a.1 + (now - x.latency - a.1 + 512) / 1024 * 1024
  | none, _ => now - x.latency

/-- The slices of a frame: each unit at its delivery cycle. A slice of a lane that is lost, or that comes after its delivery
cycle, is bad (R229, R232). -/
def FabPort.slices (x : FabPort) (now : Nat) (lane : LaneNo) (o : Opened) : List SliceRx :=
  let mask := match o.header with | some h => h.active | none => x.rxActive
  let good := decide (x.lanes[lane] = .active) || decide (x.lanes[lane] = .usable)
  if mask.getLsbD lane.val then
    o.slots.zipIdx.map fun u =>
      let at_ := x.placedAt now o.header + 64 * u.2 + x.rxDelay
      { at_ := at_, mask := mask, lane := lane, unit := u.2, bytes := if good ∧ now ≤ at_ then u.1 else none }
  else []

/-- A hello's latency: from its echoed cycle to its arrival, less the turnaround, halved, rounded up (R229, R237). -/
def State.latencyOf (s : State) (h : Hello) : Nat :=
  let p := max 1 s.period
  ((s.relAfter (byteLag mgmtPlace) + p - h.echoed.toNat % p) % p - h.turnaround.toNat + 1) / 2

/-- The management unit of a frame: the authenticated hello and, from revision 2 on, the lane report. In Verify each new
hello that echoes one of this end gives a measurement, up to 16 (R237). -/
def State.takeMgmt (s : State) (x : FabPort) (t : List Byte) : FabPort :=
  let h := readHello t
  let new := decide (x.heard ≠ some h.txCycle) && decide (h.echoed ≠ 0) && decide (x.state = .verify)
  { x with
      helloAt := s.now + byteLag mgmtPlace, heard := some h.txCycle
      peer := if x.state = .up then some h else x.peer
      authHello := if x.state = .verify then some h else x.authHello
      latencies := if new ∧ x.latencies.length < 16 then x.latencies ++ [s.latencyOf h] else x.latencies
      peerLanes := if x.revision = 1 then x.peerLanes else (t.drop 128).take 16 }

/-- An accepted header is followed: the peer's request, in Up the mask of this direction (R232), and before the first
timed frame of a training its time. -/
def FabPort.follow (x : FabPort) (now : Nat) (h : LaneHeader) : FabPort :=
  let x := { x with peerRequest := h.request, anchor := match x.state with
    | .verify => some (now, h.counter)
    | _ => x.anchor.or (some (now - x.latency, h.counter)) }
  if x.state = .up then { x with rxActive := h.active, owed := h.active, lanes := lanesUnder x.lanes h.active } else x

/-- TRAFFIC_FRAME (R224, R228, R229, R231, R232): units are opened, slices kept for the receive delay or bad, the masks of
an accepted header followed, and the errors counted. A frame on a lane without signal or lost is signal on it: the lane
retrains alone (DESIGN CHOICE, assumption 41). -/
def State.trafficOp (s : State) (p : FabricPort) (lane : LaneNo) (r : LineRx) (k : LaneFrame) : State :=
  let x := s.fab[p]
  match x.rxKey with
  | none => s
  | some key =>
    if x.state ≠ .up ∧ x.state ≠ .verify then s
    else
      let o := openFrame key lane r k
      let fails := ((unitsOfFrame k).filter fun u => authFailed key lane r k.header u).length
      let bad := lineUncorrectable r
      let s := s.onFab p fun (x : FabPort) =>
        let x := x.regain (laneBit lane) s.now
        let x : FabPort := { x with
          uncorr := x.uncorr.set lane (List.replicate bad s.now ++ s.recentUncorr x.uncorr[lane])
          cleanSince := if 0 < bad then x.cleanSince.set lane s.now else x.cleanSince
          authFails := List.replicate fails x.counter.toNat ++ x.recentFails
          rx := (x.rx.filter fun r => decide (s.now < r.at_ + 64)) ++ (if x.state = .up then x.slices s.now lane o else []) }
        let x := match o.header with | some h => x.follow s.now h | none => x
        let x := match o.mgmt with | some t => s.takeMgmt x t | none => x
        { x with goDown := x.goDown || (decide (x.state = .up) && x.short) }
      ((s.countFab p 0 (lineCorrected r)).countFab p 1
        (bad + ((unitsOfFrame k).filter fun u => falseCorrection key lane r k.header u).length)).countFab p 2 fails

/-! ## Slots delivered (R229, R232, R234) -/

/-- The slice that a port delivers on a lane in a cycle: the 100 bits of a unit that came and verified, else zeros marked
bad. -/
def FabPort.sliceAt (x : FabPort) (now : Nat) (lane : LaneNo) : LaneNo × List Byte × Bool :=
  match x.rx.find? fun r => decide (r.lane = lane ∧ r.at_ ≤ now ∧ now < r.at_ + 64) with
  | some r => match r.bytes with
    | some bs => (lane, sliceD 0 (halfBytes bs) (25 * (now - r.at_)) 25, false)
    | none => (lane, List.replicate 25 0, true)
  | none => (lane, List.replicate 25 0, true)

/-- The lanes whose slices a port delivers in a cycle: those of the mask of the frame that is due, else of its last receive
mask; a port that is not Up goes on delivering on the lanes of its last receive mask. -/
def FabPort.slotLanes (x : FabPort) (now : Nat) : BitVec 8 :=
  match x.rx.find? fun r => decide (r.at_ ≤ now ∧ now < r.at_ + 64) with
  | some r => r.mask
  | none => x.owed

/-- One cycle of a port's receiver: the slices of one slot are delivered, and the bad ones counted. -/
def FabPort.deliverSlot (x : FabPort) (now : Nat) : FabPort :=
  let m := x.slotLanes now
  let out := ((List.finRange 8).filter fun l => m.getLsbD l.val).map (x.sliceAt now)
  { x with slot := out, ctrs := vmod x.ctrs 12 fun c => c.add (out.filter fun y => y.2.2).length }

/-- One cycle of every fabric port. -/
def State.deliverSlots (s : State) : State := { s with fab := s.fab.map fun x => x.deliverSlot s.now }

/-! ## What happens at a tick instant (R241, R245, R353) -/

/-- Ports that wait to rejoin their plan do so, unless CU15 stands in for them. -/
def State.rejoinInstant (s : State) : State :=
  (List.finRange 24).foldl (fun (s : State) p =>
    if s.fab[p].rejoin ∧ s.fab[p].state = .up ∧ s.fab[15].standIn ≠ some p.val then
      (s.onFab p fun x => { x with rejoin := false, inPlan := true }).portNotice p 0x0702 6 (s.portDetail p)
    else s) s

/-- The copper port of a rein that CU15 can replace: it is down, and CU15 reaches the same peer module on the peer's
spare port or on the port that the failed one had reached, with a delay that fits. -/
def State.replaceable (s : State) : Option Nat :=
  match s.sec?, s.fab[15].peer with
  | some m, some h =>
    if s.fab[15].state = .up ∧ s.fab[15].standIn.isNone ∧ !(m.reins.any fun r => r.ports.contains 15) then
      m.reins.findSome? fun r => r.ports.find? fun q =>
        let x := s.fab[Fin.ofNat 24 q]
        decide (q < 15) && decide (x.state ≠ .up) && decide (h.hallModule = r.peer) &&
          (h.spareCopper || decide (x.joined = some (h.fingerprint, h.port))) &&
          s.folds.all fun y => match y.image with
            | some i => decide (y.run ≠ .running) || s.delayFits i r 15
            | none => true
    else none
  | _, _ => none

/-- CU15 takes the place of a failed copper port. -/
def State.substituteInstant (s : State) : State :=
  match s.replaceable with
  | some q =>
    (s.onFab 15 fun x => { x with standIn := some q, inPlan := true }).log1 0x0706 none none none
      ([BitVec.ofNat 8 q, s.fab[15].sig] ++ leBytes (s.peerOf 15).toNat 2)
  | none => s

/-- After a key change every fabric port retrains. -/
def State.retrainInstant (s : State) : State :=
  if s.trust.retrain then
    let s := (List.finRange 24).foldl (fun (s : State) p =>
      if s.fab[p].state = .up then s.takeDown p 9 0x0702
      else if s.fab[p].state = .down then s
      else (s.onFab p fun x => { (x.retrain s.now) with stored := x.stored }).countFab p 9 1) s
    { s with trust := { s.trust with retrain := false } }
  else s

/-! ## Meanings -/

def execSlotFrameBoundary (p : FabricPort) (s : State) : Host.Outcome State Fault Refusal := .next (s.boundaryOp p)
def execTrafficFrame (p : FabricPort) (k : LaneRx) (s : State) : Host.Outcome State Fault Refusal :=
  .next (s.trafficOp p k.lane k.line k.frame)
def execActiveMaskChange (p : FabricPort) (s : State) : Host.Outcome State Fault Refusal := .next (s.maskOp p)
def execTrainingFrame (p : FabricPort) (lane : LaneNo) (h : Hello) (o : PairingOffer) (s : State) : Host.Outcome State Fault Refusal :=
  .next (s.trainingOp p lane h o)
def execLaneSignalLoss (p : FabricPort) (lane : LaneNo) (s : State) : Host.Outcome State Fault Refusal :=
  .next (s.signalLossOp p lane)
def execLaneLost (p : FabricPort) (lane : LaneNo) (s : State) : Host.Outcome State Fault Refusal := .next (s.laneLostOp p lane)
def execLaneUsable (p : FabricPort) (lane : LaneNo) (s : State) : Host.Outcome State Fault Refusal :=
  .next (s.laneUsableOp p lane)
def execPortDown (p : FabricPort) (s : State) : Host.Outcome State Fault Refusal := .next (s.portDownOp p)
def execAuthFailureRetrain (p : FabricPort) (s : State) : Host.Outcome State Fault Refusal := .next (s.authRetrainOp p)
def execSignalDetected (p : FabricPort) (lanes : BitVec 8) (s : State) : Host.Outcome State Fault Refusal :=
  .next (s.signalOp p lanes)
def execAcquireDone (p : FabricPort) (lanes : BitVec 8) (s : State) : Host.Outcome State Fault Refusal :=
  .next (s.acquireOp p lanes)
def execAlignDone (p : FabricPort) (lanes : BitVec 8) (s : State) : Host.Outcome State Fault Refusal := .next (s.alignOp p lanes)
def execHelloAgreed (p : FabricPort) (s : State) : Host.Outcome State Fault Refusal := .next (s.helloOp p)
def execKeyConfirmed (p : FabricPort) (h : Hello) (s : State) : Host.Outcome State Fault Refusal := .next (s.keyOp p h)
def execVerifyDone (p : FabricPort) (h : Hello) (latencies : List Nat) (s : State) : Host.Outcome State Fault Refusal :=
  .next (s.verifyDoneOp p h latencies)
def execTrainingTimeout (p : FabricPort) (s : State) : Host.Outcome State Fault Refusal := .next (s.timeoutOp p)
def execKeyRetry (p : FabricPort) (s : State) : Host.Outcome State Fault Refusal := .next (s.keyRetryOp p)
def execUnpairedHello (p : FabricPort) (s : State) : Host.Outcome State Fault Refusal := .next (s.unpairedOp p)

end Sys2Proof.Machine
end

