-- ==== Sys2Proof/Machine/Streams.lean ====
section
/-! DEFINITION. Stream ports, tick buffers, result frames, telemetry, replay export and feed
(spec/13_streams_and_plant_io.md, spec/10 R218 to R221, spec/19 R434). -/

namespace Sys2Proof.Machine

/-! ## Acceptance on a stream port (R279) -/

/-- A counter of Table 20.16 of a stream port raised. -/
def State.countSt (s : State) (p : StreamPort) (k : Fin 14) (n : Nat) : State :=
  s.onSt p fun x => { x with ctrs := vmod x.ctrs k fun c => c.add n }

/-- Kind of an input data fault in its summary, by its counter: 1 late, 2 early, 3 excess, 4 duplicate, 5 malformed or
otherwise discarded; 0 is missing. -/
def inputKind (k : Fin 14) : Nat := if k = 7 then 1 else if k = 8 then 2 else if k = 9 then 3 else if k = 10 then 4 else 5

/-- An input data fault of a port's fold and buffer core (Table 16.1). -/
def State.inputFault (s : State) (p : StreamPort) (kind : Nat) : State := match s.st[p].cfg with
  | some (f, r) => s.summary 0x0901 (some f) (some r.core) kind
  | none => s

/-- A packet discarded inside a window: counted by its cause and in the window's header (Table 13.5). -/
def State.discardSt (s : State) (p : StreamPort) (k : Fin 14) : State :=
  ((s.countSt p k 1).onSt p fun x => { x with discarded := x.discarded + 1 }).inputFault p (inputKind k)

/-- The cause for which a frame is not accepted, as the counter of Table 20.16; none when it is accepted. -/
def StreamRec.cause (r : StreamRec) (e : EthFrame) : Option (Fin 14) :=
  if !e.fcsOk then some 1
  else if e.vlan then some 2
  else if e.dstMac ≠ r.mac then some 3
  else if !e.isIp ∨ e.ipv6 ≠ r.ipv6 ∨ e.options ∨ e.fragment then some 4
  else if e.src ≠ r.src then some 5
  else if !e.isUdp ∨ !(e.udpDst = r.linePort ∨ (r.processPort ≠ 0 ∧ e.udpDst = r.processPort)) ∨
      !(e.checksum = .good ∨ (e.checksum = .zero ∧ !r.ipv6)) then some 6
  else none

/-! ## Lines -/

/-- The core that holds a port's buffers is there (R300). -/
def State.bufferCore (s : State) (r : StreamRec) : Option CoreNo := if s.absent r.core then none else s.phys r.core

/-- Byte ranges overlap. -/
def byteRangesMeet (a b : Nat × Nat × Nat) : Bool := decide (a.1 = b.1 ∧ a.2.1 < b.2.1 + b.2.2 ∧ b.2.1 < a.2.1 + a.2.2)

/-- B_k, R_k and τ_0 of the window of tick k as its first line fixes them (R283). -/
def StreamRec.baseFor (r : StreamRec) (ns line stamp k : Nat) : Int × Nat × Nat :=
  let phase := stamp + r.offset - k * ns
  let first := if r.period = 0 then 0 else phase * 1000 / r.period
  let t0 := phase * 1000 - first * r.period
  ((line : Int) - first, (ns * 1000 - t0 - 1) / max 1 r.period + 1, t0)

/-- A byte range of one line is placed by its timestamp (R282 to R284): its beats reach the buffer core's endpoint 48 cycles after
the acceptance (R207). `shift` is the ticks by which a replay runs behind its records, 0 for a live packet. -/
def State.landLine (s : State) (p : StreamPort) (r : StreamRec) (shift line stamp off : Nat) (bs : List Byte) : State :=
  let ns := s.periodNs
  let x := s.st[p]
  match x.window, s.bufferCore r with
  | some w, some q =>
    let own := if ns = 0 then 0 else (stamp + r.offset) / ns
    let k := own + shift
    if k < w then s.discardSt p 7
    else if w < k then s.discardSt p 8
    else
      let b := x.base.getD (r.baseFor ns line stamp own)
      let row : Int := line - b.1
      if row < 0 ∨ (r.rowMax ns : Int) ≤ row then s.discardSt p 12
      else
        let row := row.toNat
        let here := (row, off, bs.length)
        let again := x.landed.any fun l => byteRangesMeet l here
        let at_ := r.buffer ns k
        let beats := (r.parts ns row off bs).flatMap fun y => beatParts (at_ + y.1) y.2
        let s := s.onCore q fun c =>
          { c with portBeats := c.portBeats ++ beats.map fun y => { port := p, due := s.now + 48, off := y.1, bytes := y.2 } }
        let s := s.onSt p fun x => { x with base := some b, landed := here :: x.landed }
        if again then (s.countSt p 10 1).inputFault p 4 else s
  | _, _ => s.discardSt p 9

/-! ## Packets (R280, R281, R284, R289) -/

/-- Where a packet comes from: a port, its first byte at a tick and tick-relative cycle, or the records of a replay that runs a
number of ticks behind them. -/
inductive Origin where
  | live (tick arrival : Nat)
  | replay (shift : Nat)
  deriving DecidableEq, Repr

/-- Ticks by which a packet's own tick lies before the window that it is to meet. -/
def Origin.shift : Origin → Nat
  | .live _ _ => 0
  | .replay n => n

/-- A packet that the port accepts counts in its window, discarded afterwards or not, and is recorded for replay where the
record says so (R218, R284) (DEDUCED, assumption 46). -/
def State.acceptSt (s : State) (p : StreamPort) (f : FoldNo) (r : StreamRec) (o : Origin) (payload : List Byte) : State :=
  let s := s.onSt p fun x => { x with accepted := x.accepted + 1 }
  match o with
  | .live t c => if r.record then s.record f 1 p.val t c payload else s
  | .replay _ => s

/-- An Imesk stream frame keeps Table 13.2; `line` is false on a port whose line format is GigE Vision, which takes
process frames alone. -/
def imeskOk (r : StreamRec) (line : Bool) (b : List Byte) : Bool :=
  let kind := beAt b 1 1
  let len := beAt b 34 2
  decide (48 ≤ b.length) && decide (beAt b 0 1 = 1) && decide (b.length = 48 + len) &&
    ((line && decide (kind = 1) && decide (beAt b 4 4 = r.pixel.toNat) && decide (beAt b 32 2 = r.width) &&
        decide (32 ≤ len ∧ len ≤ 8960) && decide (beAt b 28 4 % 32 = 0) && decide (beAt b 28 4 + len ≤ r.lineBytes)) ||
      (decide (kind = 2) && decide (beAt b 4 4 = 0) && decide (len = 32)))

/-- An Imesk stream frame: a line is landed, a process frame kept; gaps of the sequence are counted. -/
def State.imeskFrame (s : State) (p : StreamPort) (r : StreamRec) (shift : Nat) (b : List Byte) : State :=
  let seq : Word32 := BitVec.ofNat 32 (beAt b 8 4)
  let s := s.onSt p fun x =>
    { x with seq := some seq, gaps := match x.seq with
        | some q => x.gaps + (seq - (q + 1)).toNat
        | none => x.gaps }
  if beAt b 1 1 = 2 then
    let fields := (b.drop 48).take 32
    let early := decide (s.rel < s.reserveAt)
    s.onSt p fun x =>
      { x with fields := some fields, windowFields := some fields, sampled := if early then some fields else x.sampled }
  else s.landLine p r shift (beAt b 12 8) (beAt b 20 8) (beAt b 28 4) (b.drop 48)

/-- A GigE Vision packet keeps the subset of R281: extended ID mode, status 0, formats leader, payload and trailer,
payload type Image (PRESUMED, assumption 34 for the header's places). -/
def gevOk (b : List Byte) : Bool :=
  let form := beAt b 4 1 % 16
  decide (20 ≤ b.length) && decide (beAt b 0 2 = 0) && (b.getD 4 0).getLsbD 7 &&
    ((decide (form = 1) && decide (56 ≤ b.length) && decide (beAt b 22 2 = 1)) || decide (form = 2 ∨ form = 3))

/-- The lines that a payload packet of a block touches: line, offset in it and bytes. -/
def StreamRec.lines? (r : StreamRec) (x0 : Nat) (bs : List Byte) : List (Nat × Nat × List Byte) :=
  let n := r.lineBytes
  if n = 0 then []
  else (List.range' (x0 / n) ((x0 + bs.length + n - 1) / n - x0 / n)).filterMap fun i =>
    let lo := max x0 (i * n)
    let hi := min (x0 + bs.length) ((i + 1) * n)
    if i < r.lines ∧ lo < hi then some (i, lo - i * n, (bs.drop (lo - x0)).take (hi - lo)) else none

/-- A GigE Vision packet (PRESUMED, assumption 34). -/
def State.gevFrame (s : State) (p : StreamPort) (r : StreamRec) (shift : Nat) (b : List Byte) : State :=
  let form := beAt b 4 1 % 16
  let block : Word64 := BitVec.ofNat 64 (beAt b 8 8)
  if form = 1 then
    if beAt b 36 4 = r.width ∧ beAt b 40 4 = r.lines ∧ beAt b 32 4 = r.pixel.toNat ∧ beAt b 52 4 = 0 then
      s.onSt p fun x => { x with block := some (block, beAt b 24 8) }
    else (s.onSt p fun x => { x with block := none }).discardSt p 13
  else if form = 2 then s
  else
    match s.st[p].block with
    | some (id, stamp) =>
      let j := beAt b 16 4
      if id = block ∧ 1 ≤ j then
        (r.lines? ((j - 1) * r.payload) (b.drop 20)).foldl (fun (s : State) l =>
          s.landLine p r shift (block.toNat * r.lines + l.1) (stamp + l.1 * r.period / 1000) l.2.1 l.2.2) s
      else s.discardSt p 11
    | none => s.discardSt p 11

/-- The payload of an accepted frame, or of a replay record: with its fold not running it is discarded and counted. Packets
beyond the maximum of the window are discarded in order of arrival (R284). -/
def State.streamPayload (s : State) (p : StreamPort) (f : FoldNo) (r : StreamRec) (o : Origin) (b : List Byte) : State :=
  let live := match o with
    | .live _ _ => true
    | .replay _ => false
  if s.folds[f].run ≠ .running ∨ s.st[p].window.isNone ∨ (live && s.folds[f].replay.on) then s.discardSt p 9
  else
    let full := decide (r.maxPackets ≤ s.st[p].accepted)
    let s := s.acceptSt p f r o b
    if full then s.discardSt p 9
    else if r.imesk ∨ beAt b 0 1 = 1 then
      (if imeskOk r r.imesk b then s.imeskFrame p r o.shift b else s.discardSt p 11)
    else if gevOk b then s.gevFrame p r o.shift b
    else s.discardSt p 11

/-- Bytes of a frame on the wire from its first address byte to its FCS. -/
def EthBytes (v6 : Bool) (payload : Nat) : Nat := 14 + (if v6 then 40 else 20) + 8 + payload + 4

/-- Cycles from the first byte of a packet at a port to its acceptance: its time on the wire, at 6.25 B per cycle, and 64. -/
def acceptDelay (v6 : Bool) (payload : Nat) : Nat := 64 + (EthBytes v6 payload * 4 + 24) / 25

/-- Tick and tick-relative cycle at which the first byte of a frame accepted now arrived; the tick before is one period long. -/
def State.arrivalOf (s : State) (e : EthFrame) : Origin :=
  let d := acceptDelay e.ipv6 e.payload.length
  if d ≤ s.rel then .live s.tick.number.toNat (s.rel - d) else .live (s.tick.number.toNat - 1) (s.period + s.rel - d)

/-- A frame at a stream port: accepted and handled, or discarded and counted by cause. A port with no record, and a
link that is down, take none. -/
def State.streamFrame (s : State) (p : StreamPort) (e : EthFrame) : State :=
  match s.st[p].cfg with
  | some (f, r) =>
    if !s.st[p].up then s
    else match r.cause e with
      | some k => s.countSt p k 1
      | none => (s.countSt p 0 1).streamPayload p f r (s.arrivalOf e) e.payload
  | none => s

/-- STREAM_FRAME_INVALID: discarded and counted by cause, a frame that breaks its format as malformed. -/
def State.invalidFrame (s : State) (p : StreamPort) (e : EthFrame) : State :=
  match s.st[p].cfg with
  | some (_, r) =>
    if !s.st[p].up then s
    else match r.cause e with
      | some k => s.countSt p k 1
      | none =>
        let ok := if r.imesk ∨ beAt e.payload 0 1 = 1 then imeskOk r r.imesk e.payload else gevOk e.payload
        if ok then s else (s.countSt p 0 1).discardSt p 11
  | none => s

/-! ## Windows at the tick instant (R287, R288) -/

/-- The process fields of a frame as they stand in a tick buffer (Table 13.3): each field least significant byte first (R8). -/
def processBytes (b : List Byte) : List Byte :=
  [(0, 4), (4, 8), (12, 4), (16, 2), (18, 2), (20, 4), (24, 4), (28, 4)].flatMap fun f => (sliceD 0 b f.1 f.2).reverse

/-- Header of a tick buffer (Table 13.5). -/
def StPort.header (x : StPort) (k : Nat) : List Byte :=
  let rows := ((x.landed.map fun l => l.1).dedup).length
  let b := x.base.getD (0, 0, 0)
  leBytes k 8 ++ leBytes b.2.1 2 ++ leBytes rows 2 ++ leBytes 0 4 ++ leBytes (wrapN b.1 64) 8 ++ leBytes x.accepted 4 ++
    leBytes x.discarded 4 ++ processBytes (x.windowFields.getD []) ++
    leBytes (2 * b2n x.windowFields.isSome + b2n x.base.isNone) 1 ++ leBytes 0 191

/-- The window of a port closes: the header of its buffer is written, and the prefilled rows that were not expected
lose their marks. -/
def State.closeWindow (s : State) (p : StreamPort) : State :=
  match s.st[p].cfg, s.st[p].window with
  | some (_, r), some k =>
    let x := s.st[p]
    let ns := s.periodNs
    let landed := ((x.landed.map fun l => l.1).dedup).length
    let s := if x.base.isNone ∨ landed < (x.base.getD (0, 0, 0)).2.1 then s.inputFault p 0 else s
    match s.bufferCore r with
    | some q =>
      let at_ := r.buffer ns k
      let rows : List Nat := match x.base with
        | some b => List.range' b.2.1 (r.rowMax ns - b.2.1)
        | none => []
      s.onCore q fun c =>
        let m := c.pasture.land s.now at_ (x.header k)
        { c with pasture := rows.foldl (fun (m : Pasture) row =>
            (r.parts ns row 0 r.blackLine).foldl (fun (m : Pasture) y => m.land s.now (at_ + y.1) y.2) m) m }
    | none => s
  | _, _ => s

/-- A window opens for the tick that begins: its buffer is prefilled in free landing beats from now on (R287). -/
def State.openWindow (s : State) (p : StreamPort) : State :=
  match s.st[p].cfg with
  | some (f, _) =>
    let fresh : Option Nat := if s.folds[f].run = .running then some s.tick.number.toNat else none
    s.onSt p fun x =>
      { x with window := fresh, base := none, accepted := 0, discarded := 0, landed := [], windowFields := none, sampled := x.fields
               fill := (0, 0) }
  | none => s.onSt p fun x => { x with window := none }

/-- Every window rolls on: those of the tick that ended close, those of the tick that begins open
(DESIGN CHOICE, assumption 13). -/
def State.windowsInstant (s : State) : State :=
  let s := (List.finRange 16).foldl State.closeWindow s
  (List.finRange 16).foldl State.openWindow s

/-- Cycle at which a packet record of a replay is accepted (R220): at its recorded arrival, in the tick that replays its own. -/
def State.replayDue (s : State) (f : FoldNo) (r : StreamRec) (x : FeedRec) : Nat :=
  let at_ := s.tick.instant + x.arrival + acceptDelay r.ipv6 x.payload.length
  if x.tick = s.folds[f].replayTick s.tick.number.toNat then at_ else at_ - s.period

/-- The packets of a fold in replay mode that are accepted in this cycle (R220), in recorded order: those of the tick that it
replays, and those of the tick before whose first byte had arrived then. -/
def State.presentReplay (s : State) (f : FoldNo) : State :=
  if s.folds[f].replay.on ∧ s.folds[f].run = .running then
    let n := s.folds[f].replayTick s.tick.number.toNat
    s.folds[f].replay.queue.foldl (fun (s : State) x =>
      if x.kind = 1 ∧ x.port < 16 ∧ (x.tick = n ∨ x.tick + 1 = n) then
        let p : StreamPort := Fin.ofNat 16 x.port
        match s.st[p].cfg with
        | some (g, r) =>
          if g = f ∧ s.replayDue f r x = s.now then s.streamPayload p f r (.replay s.folds[f].replay.delta) x.payload else s
        | none => s
      else s) s
  else s

/-! ## Result frames (R294, R295, R219) -/

/-- The image whose frame list gives a fold's drain offsets: the one loaded, or the one that its active slot holds. -/
def State.frameImage (s : State) (f : FoldNo) : Option FoldImage :=
  match s.folds[f].image with
  | some i => some i
  | none => ((s.entry f).runSlot.bind fun b => s.container (foldEntry f) b).map Slot.image

/-- Bytes of a plant frame on the wire: headers, payload, map, FCS, preamble and gap. -/
def wireBytes (v6 : Bool) (payload map : Nat) : Nat := 32 + payload + map + 8 + (if v6 then 40 else 20) + 14 + 4 + 8 + 12

/-- Bytes of a mark map. -/
def mapBytes (len : Nat) : Nat := (len / 32 + 7) / 8

/-- A result frame as its buffer stands: payload, mark map, words not written. -/
def frameContent (bufs : List FrameBuf) (all : Bool) (e : FrameRec) : List Byte × List Byte × Nat :=
  let b : FrameBuf := (bufs.find? fun b => decide (b.frame = e.frame)).getD { frame := e.frame, bytes := [], written := [], marked := [] }
  let full := fun (k : Nat) => (List.range' (32 * k) 32).all fun x => b.written.contains x
  let bad := fun (k : Nat) => all || b.marked.contains k || !full k
  let words := e.len / 32
  (cellsGet 0 b.bytes 0 e.len,
    (List.range (mapBytes e.len)).map fun j =>
      BitVec.ofNat 8 (((List.range 8).map fun i => if 8 * j + i < words ∧ bad (8 * j + i) then 2 ^ i else 0).sum),
    ((List.range words).filter fun k => !full k).length)

/-- The result frame of an entry of a drain order, as it leaves on a port. -/
def State.resultFrame (s : State) (f : FoldNo) (i : FoldImage) (e : FrameRec) (all : Bool) (bufs : List FrameBuf)
    (startAt : Nat) : PlantFrame × Nat :=
  let x := s.folds[f]
  let c := frameContent bufs all e
  let marked := c.2.1.any fun b => decide (b ≠ 0)
  let n := s.tick.number.toNat
  let takeover := match x.takeoverUntil with
    | some t => decide (n ≤ t)
    | none => false
  let flags := 128 * b2n s.tick.holdover + 64 * b2n takeover + 32 * b2n marked + 16 * b2n x.replay.on +
    8 * b2n (decide (x.sel.pen = i.degraded)) + 4 * b2n (decide (x.sel.pen = i.thermal)) + 2 * b2n (decide (e.port = 2))
  ({ kind := 1, tag := i.tag, hallModule := s.hallNo, number := BitVec.ofNat 16 e.frame, tick := s.tick.number, pen := x.sel.pen
     flags := BitVec.ofNat 8 flags, imageId := BitVec.ofNat 32 (i.measurement.toNat / 2 ^ 352)
     offset := BitVec.ofNat 64 (mapBytes e.len), startAt := startAt, payload := c.1, marks := c.2.1 }, c.2.2)

/-- A result frame of the list of an image. -/
def FoldImage.frame? (i : FoldImage) (k : Nat) : Option FrameRec := i.frames.find? fun e => decide (e.frame = k)

/-- Frames of one plant port, in its drain order, of the folds that ran a pen; the offsets of the others stay reserved.
`even` is the parity of the tick that ended. Answers fold, frame and words not written. -/
def State.drainPort (s : State) (p : PlantPort) (even : Bool) : List (FoldNo × PlantFrame × Nat) :=
  let v6 : Bool := match s.plantRec p with
    | some r => r.ipv6
    | none => false
  let order := match s.sec? with
    | some m => if p = 0 then m.drain0 else m.drain1
    | none => []
  (order.foldl (fun (a : Nat × List (FoldNo × PlantFrame × Nat)) d =>
    match (s.frameImage d.1).bind fun i => (i.frame? d.2).map fun e => (i, e) with
    | some (i, e) =>
      let x := s.folds[d.1]
      let next := a.1 + wireBytes v6 e.len (mapBytes e.len)
      if x.ran then
        let r := s.resultFrame d.1 i e x.markAll (if even then x.bufEven else x.bufOdd) ((a.1 + 24) / 25)
        (next, a.2 ++ [(d.1, r.1, r.2)])
      else (next, a.2)
    | none => a) (0, [])).2

/-- First 64 bits of SHA-384 over the bytes and marks of all result frames of one drain (R219) (DEDUCED, assumption 46). -/
def digestOf (fs : List PlantFrame) : Word64 :=
  BitVec.ofNat 64 ((sha384 (fs.flatMap fun x => x.payload ++ x.marks)).toNat / 2 ^ 320)

/-- One plant port changed. -/
def State.onPl (s : State) (p : PlantPort) (g : PlPort → PlPort) : State := { s with pl := vmod s.pl p g }

/-- The frames of a drain leave on a port whose link is open; words not written are counted there. -/
def State.sendDrain (s : State) (p : PlantPort) (fs : List (FoldNo × PlantFrame × Nat)) : State :=
  if s.plantOpen p then
    let s := s.onPl p fun x => { x with sent := fs.map fun y => y.2.1 }
    (s.countPl p 0 fs.length).countPl p 1 (fs.map fun y => y.2.2).sum
  else s.onPl p fun x => { x with sent := [] }

/-- A plant port with a drain order has its link open. -/
def State.drainHanded (s : State) (p : PlantPort) : Bool :=
  match s.sec? with
  | some m => (if p = 0 then m.drain0 else m.drain1).isEmpty || s.plantOpen p
  | none => true

/-- The drains of the tick that ended, whose number had parity `even` (R15, R219, R295): digests, counts, and records of
the digests; the buffers drained are empty again (DESIGN CHOICE, assumption 13) (DEDUCED, assumption 46). -/
def State.drainInstant (s : State) (even : Bool) : State :=
  let d0 := s.drainPort 0 even
  let d1 := s.drainPort 1 even
  let was := s.tick.number.toNat - 1
  let s := (s.sendDrain 0 d0).sendDrain 1 d1
  let s := { s with tick := { s.tick with drained := s.drainHanded 0 && s.drainHanded 1 } }
  (List.finRange 32).foldl (fun (s : State) f =>
    let mine := ((d0 ++ d1).filter fun y => decide (y.1 = f)).map fun y => y.2.1
    let ran := s.folds[f].ran
    let s := s.onFold f fun x =>
      { x with bufEven := if even then [] else x.bufEven, bufOdd := if even then x.bufOdd else [], ran := false, markAll := false
               digest := if x.ran then digestOf mine else x.digest
               sent := x.sent + mine.length
               sentMarked := x.sentMarked + (mine.filter fun y => y.flags.getLsbD 5).length }
    if !ran then s else s.record f 6 0xFF was 0 (beBytes s.folds[f].digest.toNat 8)) s

/-! ## Telemetry (R296, R297) -/

/-- Module record of a telemetry payload (Table 13.11). -/
def State.moduleRecord (s : State) (m : ModuleSection) (folds status : Nat) : List Byte :=
  let p := s.power
  let low := (s.cores.toList.filter fun c => c.supply.on).filterMap fun c => c.supply.minMargin
  let lowest := match low with
    | [] => 0
    | x :: r => r.foldl min x
  let state := 128 * b2n s.log.failed + 64 * b2n s.ptp.lost + 32 * b2n s.power.refLost.isSome +
    16 * b2n (s.isBellwether && s.ptpLocked) + 8 * b2n s.isBellwether + 2 * b2n s.tick.holdover + b2n s.tick.lock
  beBytes s.tick.number.toNat 8 ++ beBytes (wrapN p.tjMax 16) 2 ++ beBytes (wrapN p.inlet 16) 2 ++ beBytes (wrapN p.outlet 16) 2 ++
    beBytes lowest 2 ++ beBytes (meanOf p.tickWatts p.tickN) 4 ++ beBytes (meanOf p.tickMv p.tickN) 4 ++
    beBytes (match s.ptp.pps with | some x => wrapN x 32 | none => 2 ^ 31) 4 ++ beBytes s.faultCause 4 ++ beBytes state 1 ++
    beBytes folds 1 ++ beBytes status 2 ++ beBytes m.telemetryEvery 2 ++ List.replicate 26 0

/-- Fold record of a telemetry payload (Table 13.12). -/
def State.foldRecord (s : State) (f : FoldNo) : List Byte :=
  let x := s.folds[f]
  let e := s.entry f
  let tag := match x.allot with
    | some a => a.tag.toNat
    | none => 0
  let flags := x.run.code * 4096 + e.state.code * 256 + 128 * b2n x.sel.thermal + 64 * b2n x.sel.degraded + 32 * b2n x.sel.spareInUse +
    16 * b2n x.sel.linkShort + 8 * b2n x.sel.clamped + 4 * b2n x.replay.on + 2 * b2n e.held + b2n x.debug
  beBytes tag 2 ++ beBytes f.val 1 ++ beBytes x.sel.pen 1 ++ beBytes flags 2 ++ beBytes 0 2 ++ beBytes x.digest.toNat 8 ++
    beBytes x.sent 8 ++ beBytes x.sentMarked 8

/-- The telemetry payload as the reserve samples it. -/
def State.telemetryPayload (s : State) : List Byte :=
  match s.sec? with
  | some m =>
    let fs := (List.finRange 32).filter fun f => s.folds[f].allot.isSome
    s.moduleRecord m fs.length m.telemetryList.length ++ fs.flatMap s.foldRecord ++
      m.telemetryList.flatMap fun a => beBytes a.toNat 4 ++ beBytes (s.peek a.toNat).toNat 4
  | none => []

/-- A module-wide or export frame leaves on a port. -/
def State.sendPlant (s : State) (p : PlantPort) (k : PlantFrame) : State := s.onPl p fun x => { x with sent := x.sent ++ [k] }

/-- First cycle in which telemetry and export frames may leave (R296, R298). -/
def plantFrom : Nat := 8000

/-- IPv6 on a plant port. -/
def State.plantV6 (s : State) (p : PlantPort) : Bool := match s.plantRec p with
  | some r => r.ipv6
  | none => false

/-- Cycles that a frame takes on a plant port, at 25 B per cycle. -/
def State.plantCycles (s : State) (p : PlantPort) (payload map : Nat) : Nat := (wireBytes (s.plantV6 p) payload map + 24) / 25

/-- A telemetry or export frame of a payload may start now (R14): the port has sent its other frames, and the frame ends before
the next instant, so it delays no result frame. -/
def State.plantFits (s : State) (p : PlantPort) (payload : Nat) : Bool :=
  decide (plantFrom ≤ s.rel) && decide (s.rel + s.plantCycles p payload 0 ≤ s.period) &&
    s.pl[p].sent.all fun k => decide (k.startAt + s.plantCycles p k.payload.length k.marks.length ≤ s.rel)

/-- TELEMETRY_SEND: every t ticks, on each plant port named for it, the payload sampled in the last reserve. -/
def State.telemetryOp (s : State) : State :=
  match s.sec? with
  | none => s
  | some m =>
    if m.telemetryEvery = 0 ∨ s.tick.number.toNat % max 1 m.telemetryEvery ≠ 0 ∨ s.telemetry.isEmpty then s
    else (List.finRange 2).foldl (fun (s : State) p =>
      if m.telemetryPorts.getLsbD p.val && s.plantOpen p && s.plantFits p s.telemetry.length &&
          !(s.pl[p].sent.any fun k => decide (k.kind = 2)) then
        let k : PlantFrame :=
          { kind := 2, tag := 0xFFFF, hallModule := s.hallNo, number := s.pl[p].numTelemetry
            tick := BitVec.ofNat 48 (beAt s.telemetry 0 8), pen := 0, flags := 0, imageId := 0, offset := 0, startAt := s.rel
            payload := s.telemetry, marks := [] }
        (s.sendPlant p k).onPl p fun x => { x with numTelemetry := x.numTelemetry + 1 }
      else s) s

/-! ## Replay export and feed (R218, R220, R298) -/

/-- Largest payload of an export frame. -/
def exportMax : Nat := 8192

/-- Telemetry of this tick has still to leave on a port: export uses the capacity left after it (R298). -/
def State.telemetryWaits (s : State) (p : PlantPort) : Bool := match s.sec? with
  | some m => m.telemetryPorts.getLsbD p.val && decide (1 ≤ m.telemetryEvery) &&
      decide (s.tick.number.toNat % max 1 m.telemetryEvery = 0) && !s.telemetry.isEmpty && !(s.pl[p].sent.any fun k => decide (k.kind = 2))
  | none => false

/-- REPLAY_EXPORT_FRAME: bytes of the record stream of a fold leave on a port that has room for them in this tick. -/
def State.exportOp (s : State) (f : FoldNo) : State :=
  let x := s.folds[f]
  let bs := x.replay.out.take exportMax
  let room := fun (p : PlantPort) => s.plantOpen p && s.plantFits p bs.length && !s.telemetryWaits p
  let port : Option PlantPort := (List.finRange 2).find? room
  match port, x.allot with
  | some p, some a =>
    if bs.isEmpty then s
    else
      let k : PlantFrame :=
        { kind := 3, tag := a.tag, hallModule := s.hallNo, number := s.pl[p].numExport, tick := 0, pen := 0, flags := 0
          imageId := match x.image with | some i => BitVec.ofNat 32 (i.measurement.toNat / 2 ^ 352) | none => 0
          offset := BitVec.ofNat 64 x.replay.outAt, startAt := s.rel, payload := bs, marks := [] }
      let s := (s.sendPlant p k).onPl p fun x => { x with numExport := x.numExport + 1 }
      s.onFold f fun x => { x with replay := { x.replay with out := x.replay.out.drop bs.length, outAt := x.replay.outAt + bs.length } }
  | _, _ => s

/-- A byte of a feed kept at its place; the first arrival of a place stands. Answers whether it is a second one. -/
def feedPut (off : Nat) (b : Byte) : List (Nat × Byte) → List (Nat × Byte) × Bool
  | [] => ([(off, b)], false)
  | (k, v) :: r =>
    if k < off then ((k, v) :: (feedPut off b r).1, (feedPut off b r).2)
    else if k = off then ((k, v) :: r, true)
    else ((off, b) :: (k, v) :: r, false)

/-- Bytes of a feed that follow one another without a gap from an offset. -/
def feedRun (feed : List (Nat × Byte)) (off : Nat) : List Byte :=
  match feed with
  | [] => []
  | (k, b) :: r => if k < off then feedRun r off else if k = off then b :: feedRun r (off + 1) else []

/-- Records at the head of a run of bytes and the bytes that they take; `n` bounds their number. -/
def parseFeed (bs : List Byte) : Nat → List FeedRec × Nat
  | 0 => ([], 0)
  | n + 1 =>
    let len := beAt bs 16 4
    if bs.length < 24 ∨ bs.length < 24 + len then ([], 0)
    else
      let q := parseFeed (bs.drop (24 + len)) n
      ({ kind := beAt bs 0 1, port := beAt bs 1 1, tick := beAt bs 4 8, arrival := beAt bs 12 4,
         payload := (bs.drop 24).take len } :: q.1, 24 + len + q.2)

/-- Bytes put into the feed: those already there or already taken are duplicates. -/
def Replay.feedBytes (r : Replay) (off : Nat) (bs : List Byte) : Replay × Nat :=
  bs.zipIdx.foldl (fun (a : Replay × Nat) b =>
    if off + b.2 < a.1.taken then (a.1, a.2 + 1)
    else
      let q := feedPut (off + b.2) b.1 a.1.feed
      ({ a.1 with feed := q.1 }, a.2 + b2n q.2)) (r, 0)

/-- A whole record reaches the module: the first one fixes Δ, the smallest multiple of 360,360 with which it is in time;
a record later than the instant of the tick before its own is discarded. Answers whether it was. -/
def Replay.takeRecord (r : Replay) (tick : Nat) (x : FeedRec) : Replay × Bool :=
  let delta := if r.begun then r.delta else (tick + 2 - x.tick + 360359) / 360360 * 360360
  let r := { r with begun := true, delta := delta }
  if x.tick + delta ≤ tick + 1 then (r, true) else ({ r with queue := r.queue ++ [x] }, false)

/-- Whole records are taken out of the feed; answers how many came too late. -/
def Replay.takeRecords (r : Replay) (tick : Nat) : Replay × Nat :=
  let run := feedRun r.feed r.taken
  let q := parseFeed run run.length
  let taken := r.taken + q.2
  let r := { r with taken := taken, feed := r.feed.filter fun b => decide (taken ≤ b.1) }
  q.1.foldl (fun (a : Replay × Nat) x => let c := a.1.takeRecord tick x; (c.1, a.2 + b2n c.2)) (r, 0)

/-- Why an inbound plant frame is not accepted: the counter of Table 20.16 (R293, R356). -/
def State.plantCause (s : State) (p : PlantPort) (e : EthFrame) : Option (Fin 6) :=
  match s.plantRec p with
  | none => some 2
  | some r =>
    let b := e.payload
    let kind := beAt b 1 1
    if !e.fcsOk ∨ e.vlan ∨ e.dstMac ≠ r.mac ∨ !e.isIp ∨ e.ipv6 ≠ r.ipv6 ∨ e.options ∨ e.fragment ∨ !e.isUdp ∨ e.udpDst ≠ r.udp ∨
        !(e.checksum = .good ∨ (e.checksum = .zero ∧ !r.ipv6)) ∨ b.length < 32 ∨ beAt b 0 1 ≠ 1 ∨ !(kind = 4 ∨ kind = 5) ∨
        beAt b 4 2 ≠ s.hallNo.toNat ∨ beAt b 18 2 ≠ b.length - 32 then some 2
    else if kind = 5 ∧ !r.peers.contains e.src then some 3
    else if kind = 4 ∧ e.src ≠ r.feedSrc then some 2
    else none

/-- PLANT_FRAME_INVALID: an inbound frame that is not accepted is counted. -/
def State.plantInvalid (s : State) (p : PlantPort) (e : EthFrame) : State :=
  if s.pl[p].up then match s.plantCause p e with
    | some k => s.countPl p k 1
    | none => s
  else s

/-- REPLAY_FEED_FRAME: bytes of the record stream of a fold in replay mode. -/
def State.feedOp (s : State) (p : PlantPort) (e : EthFrame) : State :=
  if !s.pl[p].up then s
  else match s.plantCause p e with
    | some k => s.countPl p k 1
    | none =>
      let b := e.payload
      match (s.foldByTag (BitVec.ofNat 16 (beAt b 2 2))).filter fun f => s.folds[f].replay.on && decide (beAt b 1 1 = 4) with
      | none => s.countPl p 2 1
      | some f =>
        let q := s.folds[f].replay.feedBytes (beAt b 24 8) (b.drop 32)
        let r := q.1.takeRecords s.tick.number.toNat
        let s := (s.onFold f fun x => { x with replay := r.1 }).countFold f 22 r.2
        s.countPl p 5 q.2

/-- A fold in replay mode at an instant: older records are gone, and its tick is complete when its records are there
without a gap (R221). -/
def State.replayInstant (s : State) (f : FoldNo) : State :=
  if !s.folds[f].replay.on then s
  else
    let n := s.folds[f].replayTick s.tick.number.toNat
    let s := s.onFold f fun x => { x with replay := { x.replay with queue := x.replay.queue.filter fun r => decide (n ≤ r.tick + 1) } }
    let recs := s.replayRecs f
    let whole := (recs.any fun r => decide (r.kind = 2)) && !(recs.any fun r => decide (r.kind = 5)) && s.folds[f].replay.feed.isEmpty
    s.onFold f fun x => { x with replay := { x.replay with complete := whole } }

/-! ## Addresses and links (R279, R293, R434) -/

/-- An address of a port is asked for; its own is answered. -/
def State.neighbourOp (s : State) (p : EthPort) (v6 : Bool) (target : BitVec 128) : State :=
  match p with
  | .st q => match s.st[q].cfg with
    | some (_, r) =>
      if s.st[q].up ∧ r.ipv6 = v6 ∧ target = r.local_ then
        s.onSt q fun x => { x with neighbourReplies := x.neighbourReplies + 1 }
      else s
    | none => s
  | .pl q => match s.plantRec q with
    | some r =>
      if s.pl[q].up ∧ r.ipv6 = v6 ∧ target = r.local_ then
        s.onPl q fun x => { x with neighbourReplies := x.neighbourReplies + 1 }
      else s
    | none => s

/-- ETHERNET_LINK_UP: a stream port comes up once its fold has started; a plant port once the section enables it. -/
def State.linkUpOp (s : State) (p : EthPort) (m : EthMode) : State :=
  match p with
  | .st q => if s.st[q].enabled ∧ s.st[q].cfg.isSome then s.onSt q fun x => { x with up := true, mode := m } else s
  | .pl q => match s.plantRec q with
    | some r => if r.enabled then s.onPl q fun x => { x with up := true, mode := m } else s
    | none => s

/-- ETHERNET_LINK_LOSS: the port renegotiates. -/
def State.linkLossOp (s : State) (p : EthPort) : State :=
  match p with
  | .st q => s.onSt q fun x => { x with up := false }
  | .pl q => s.onPl q fun x => { x with up := false }

/-- AUTONEG_TIMEOUT: with no page within 500 ms the port runs chip-to-module. -/
def State.autonegOp (s : State) (p : EthPort) : State :=
  match p with
  | .st q => s.onSt q fun x => if x.up then x else { x with mode := .aui }
  | .pl q => s.onPl q fun x => if x.up then x else { x with mode := .aui }

/-! ## Meanings -/

def execStreamFrameInvalid (p : StreamPort) (e : EthFrame) (s : State) : Host.Outcome State Fault Refusal :=
  .next (s.invalidFrame p e)
def execImeskLineFrame (p : StreamPort) (e : EthFrame) (s : State) : Host.Outcome State Fault Refusal := .next (s.streamFrame p e)
def execImeskProcessFrame (p : StreamPort) (e : EthFrame) (s : State) : Host.Outcome State Fault Refusal :=
  .next (s.streamFrame p e)
def execGevLeader (p : StreamPort) (e : EthFrame) (s : State) : Host.Outcome State Fault Refusal := .next (s.streamFrame p e)
def execGevPayload (p : StreamPort) (e : EthFrame) (s : State) : Host.Outcome State Fault Refusal := .next (s.streamFrame p e)
def execGevTrailer (p : StreamPort) (e : EthFrame) (s : State) : Host.Outcome State Fault Refusal := .next (s.streamFrame p e)
def execArpRequest (p : EthPort) (t : BitVec 128) (s : State) : Host.Outcome State Fault Refusal := .next (s.neighbourOp p false t)
def execNeighbourSolicitation (p : EthPort) (t : BitVec 128) (s : State) : Host.Outcome State Fault Refusal :=
  .next (s.neighbourOp p true t)
def execEthernetLinkUp (p : EthPort) (m : EthMode) (s : State) : Host.Outcome State Fault Refusal := .next (s.linkUpOp p m)
def execEthernetLinkLoss (p : EthPort) (s : State) : Host.Outcome State Fault Refusal := .next (s.linkLossOp p)
def execAutonegTimeout (p : EthPort) (s : State) : Host.Outcome State Fault Refusal := .next (s.autonegOp p)
def execPlantFrameInvalid (p : PlantPort) (e : EthFrame) (s : State) : Host.Outcome State Fault Refusal :=
  .next (s.plantInvalid p e)
def execReplayFeedFrame (p : PlantPort) (e : EthFrame) (s : State) : Host.Outcome State Fault Refusal := .next (s.feedOp p e)
def execTelemetrySend (s : State) : Host.Outcome State Fault Refusal := .next s.telemetryOp
def execReplayExportFrame (f : FoldNo) (s : State) : Host.Outcome State Fault Refusal := .next (s.exportOp f)

end Sys2Proof.Machine
end

