-- ==== Sys2Proof/Machine/Power.lean ====
section
/-! DEFINITION. Rails, power, core voltage, phase, temperature, trips, ageing and the forecast of a handover
(spec/17_power_and_ageing.md). -/

namespace Sys2Proof.Machine

/-! ## Switching off (R387) -/

/-- A core without power: the next boot finds the cores that have failed since the last one (R204). -/
def Core.unpowered (c : Core) : Core := { Core.reset with mode := if c.mode = .failed then .failed else .idle }

/-- An SSD without power: what is fitted stays fitted. -/
def Ssd.unpowered (d : Ssd) : Ssd := { d with perst := false, resync := false, mirror := false }

/-- What the module keeps without power: fuses, NOR, SSDs, and what stands on its pins is read afresh. -/
def State.unpowered (s : State) : State :=
  { State.reset with
    now := s.now, gradeF := s.gradeF, enabled := s.enabled, dumpNo := s.dumpNo, free := s.free, pending := s.pending
    trust := { Trust.reset with
      life := s.trust.life, fingerprint := s.trust.fingerprint, masked := s.trust.masked, generation := s.trust.generation
      debugCount := s.trust.debugCount, keyErased := s.trust.keyErased, bound := s.trust.bound, romMeas := s.trust.romMeas
      romCode := s.trust.romCode, draws := s.trust.draws
      pres := { Presence.reset with fuse := s.trust.pres.fuse, windows := s.trust.pres.windows, openings := s.trust.pres.openings } }
    store := { s.store with commits := [], fetched := [], fetch := none, ssds := s.store.ssds.map Ssd.unpowered }
    cores := s.cores.map Core.unpowered
    log := { s.log with staged := [], lost := 0, witnessDue := false }
    power := { Power.reset with
      packageTrip := s.power.packageTrip, lostBricks := s.power.lostBricks, lost1v8 := s.power.lost1v8, lostNet := s.power.lostNet
      lostIo := s.power.lostIo, lostOpt := s.power.lostOpt, lostStk := s.power.lostStk } }

/-- Staged entries that the shutdown writes on stored charge. -/
def brownoutEntries : Nat := 256

/-- The shutdown: an entry is staged, the oldest staged entries are written, and every rail goes off. A commit and an
update in progress end with it. -/
def State.shutdown (s : State) (code : BitVec 16) (detail : List Byte) : State :=
  let s := s.log1 code none none none detail
  ((List.range brownoutEntries).foldl (fun (s : State) _ => s.writeEntry true) s).unpowered

/-- The rails are up or coming up. -/
def Power.live (p : Power) : Bool := p.good || p.sequencing

/-- INPUT_POWER_APPLIED (R386): the rails are brought up in order, unless a package trip holds the module off. -/
def State.inputApplied (s : State) : State :=
  if s.power.live ∨ s.power.packageTrip then s else { s with power := { s.power with sequencing := true } }

/-- INPUT_UNDERVOLTAGE (R387); while the module is down after a package trip, power is thereby removed. -/
def State.undervoltage (s : State) (mv : Nat) : State :=
  if s.power.live then s.shutdown 0x0D0B (leBytes mv 4) else { s with power := { s.power with packageTrip := false } }

/-- INPUT_OVERVOLTAGE (R387). -/
def State.overvoltage (s : State) (mv : Nat) : State :=
  if s.power.live then s.shutdown 0x0D0B (leBytes mv 4) else s

/-- A package trip (R402). -/
def State.tripPackage (s : State) (cause : Nat) : State :=
  let t := s.shutdown 0x0D0F (leBytes cause 1)
  { t with power := { t.power with packageTrip := true } }

/-! ## Rails and their units (R384, R385) -/

/-- TDP, W. -/
def tdp : Nat := 1750

/-- Watts that `left` units carry when `need` of them carry the TDP. -/
def carried (left need : Nat) : Nat := if need ≤ left then tdp else tdp * left / need

/-- What the bricks and the 1.8 V phases left carry. -/
def Power.carries (p : Power) : Nat := min (carried (4 - p.lostBricks) 3) (carried (16 - p.lost1v8) 14)

/-- The run-time cap that the units left allow: 90 % of what they carry once that is below the TDP. -/
def Power.capLeft (p : Power) : Nat := if p.carries < tdp then p.carries * 9 / 10 else tdp

/-- Number of a unit rail in log details. -/
def UnitRail.number : UnitRail → Nat
  | .bricks => 0
  | .phases1v8 => 1
  | .phasesNet => 2
  | .phasesIo => 3
  | .phasesStk _ => 4
  | .phasesOpt => 5

/-- One unit more lost. -/
def Power.lose (p : Power) : UnitRail → Power
  | .bricks => { p with lostBricks := p.lostBricks + 1 }
  | .phases1v8 => { p with lost1v8 := p.lost1v8 + 1 }
  | .phasesNet => { p with lostNet := p.lostNet + 1 }
  | .phasesIo => { p with lostIo := p.lostIo + 1 }
  | .phasesStk d => { p with lostStk := vmod p.lostStk d fun n => n + 1 }
  | .phasesOpt => { p with lostOpt := p.lostOpt + 1 }

/-- CONVERTER_UNIT_LOST (R385). -/
def State.unitLost (s : State) (r : UnitRail) : State :=
  let p := s.power.lose r
  let p := { p with cap := min p.cap p.capLeft }
  ({ s with power := p }).log1 0x0D0D none none none (leBytes (UnitRail.number r) 1 ++ leBytes p.cap 2)

/-- The cores of a base die. -/
def coresOfDie (d : Fin 8) : List CoreNo := (List.range 4).map fun k => Fin.ofNat 32 (4 * d.val + k)

/-- A fault of the on-module network or of the package as a whole (Table 16.9): every running fold is hurdled. -/
def State.packageFault (s : State) : State := (List.finRange 32).foldl (fun (s : State) f => s.hurdle f 0x0501 []) s

/-- Ports of a rail are down (R234). -/
def State.railPorts (s : State) (copper : Bool) : State :=
  (List.finRange 24).foldl (fun (s : State) p =>
    if copper = decide (p.val < 16) then
      let dark := fun (x : FabPort) => { x with lanes := Vector.replicate 8 .noSignal, sig := 0, state := .down }
      (if s.fab[p].state = .up then s.takeDown p 5 0x0702 else s).onFab p dark
    else s) s

/-- RAIL_OUT_OF_BAND (Table 17.1). -/
def State.railOut (s : State) (r : Rail) : State :=
  match r with
  | .stby u => (s.onSup u fun x => { x with state := .outOfService }).log1 0x0A02 none none none [BitVec.ofNat 8 (supNo u), 2]
  | .bus12 =>
    let cap := min s.power.cap (s.power.carries * 9 / 10)
    ({ s with power := { s.power with cap := cap } }).log1 0x0D0D none none none (leBytes 0 1 ++ leBytes cap 2)
  | .pkg1v8 =>
    let cap := min s.power.cap (s.power.carries * 9 / 10)
    ({ s with power := { s.power with cap := cap } }).log1 0x0D0D none none none (leBytes 1 1 ++ leBytes cap 2)
  | .vcore p => s.coreFault p .regulator
  | .vstk d => (coresOfDie d).foldl (fun (s : State) p => s.coreFault p .regulator) s
  | .vnet => s.packageFault
  | .vio =>
    let s := s.railPorts true
    { s with st := s.st.map fun x => { x with up := false }, pl := s.pl.map fun x => { x with up := false } }
  | .vopt => s.railPorts false

/-! ## Thermal causes (R400) -/

/-- The supply of a core changed. -/
def State.onSupply (s : State) (p : CoreNo) (g : Supply → Supply) : State := s.onCore p fun c => { c with supply := g c.supply }

/-- The thermal condition is set for a fold until its next reserve sample. -/
def State.forceFold (s : State) (f : FoldNo) : State := s.onFold f fun x => { x with sel := { x.sel with forced := true } }

/-- It is set for every fold that holds a core. -/
def State.forceCore (s : State) (p : CoreNo) : State := match s.logicalOf p with
  | some l => (s.holders l).foldl State.forceFold s
  | none => s

/-! ## Input power (R389) -/

/-- Cycles of 10 ms. -/
def meanCycles : Nat := 20000000

/-- Every warming stops (R389). -/
def State.stopWarming (s : State) : State :=
  (List.finRange 32).foldl (fun (s : State) p =>
    if s.cores[p].supply.warming then
      (s.onSupply p fun u => { u with warming := false }).log1 0x0D0A none none (some p) (leBytes p.val 1 ++ [0])
    else s) s

/-- A 10 ms mean exceeds the cap: the first time warming stops, the next time every fold's thermal condition is set. -/
def State.overPower (s : State) (mean : Nat) : State :=
  let s := s.log1 0x0D0C none none none (leBytes (mean / 10) 2 ++ leBytes s.power.cap 2)
  if s.power.overCap then (List.finRange 32).foldl State.forceFold s
  else { s.stopWarming with power := { s.power with overCap := true } }

/-- POWER_SAMPLE (DEDUCED, assumption 45). -/
def State.powerOp (s : State) (deciwatts mv : Nat) : State :=
  let p := s.power
  let p := { p with watts := deciwatts, mv := mv, tickWatts := p.tickWatts + deciwatts, tickMv := p.tickMv + mv, tickN := p.tickN + 1
                    meanSum := p.meanSum + deciwatts, meanN := p.meanN + 1 }
  if s.now < p.meanFrom + meanCycles then { s with power := p }
  else
    let mean := meanOf p.meanSum p.meanN
    let t : State := { s with power := { p with meanFrom := s.now, meanSum := 0, meanN := 0 } }
    if 10 * p.cap < mean then t.overPower mean else { t with power := { t.power with overCap := false } }

/-! ## Neighbours and floors (R394, R395) -/

/-- Row of a core in the grid. -/
def gridRow (p : CoreNo) : Nat := 2 * (p.val / 4 / 4) + p.val % 4 / 2
/-- Column of a core in the grid. -/
def gridCol (p : CoreNo) : Nat := 2 * (p.val / 4 % 4) + p.val % 2

/-- Adjacent cores. -/
def adjacent (p q : CoreNo) : Bool :=
  let one := fun (a b : Nat) => decide (a = b + 1 ∨ b = a + 1)
  (decide (gridRow p = gridRow q) && one (gridCol p) (gridCol q)) || (decide (gridCol p = gridCol q) && one (gridRow p) (gridRow q))

/-- Powered cores adjacent to a core. -/
def State.neighbours (s : State) (p : CoreNo) : List CoreNo := (List.finRange 32).filter fun q => adjacent p q && s.cores[q].supply.on

/-- The floor of a core: its highest adjacent code less 40. -/
def State.floorOf (s : State) (p : CoreNo) : Nat := ((s.neighbours p).map fun q => s.cores[q].supply.code).foldl max 0 - 40

/-- Every powered core raised to its floor once. -/
def State.lift (s : State) : State :=
  { s with cores := Vector.ofFn fun p =>
      let c := s.cores[p]
      if c.supply.on then { c with supply := { c.supply with code := max c.supply.code (s.floorOf p) } } else c }

/-- Every floor as it stands. -/
def State.setFloors (s : State) : State :=
  { s with cores := Vector.ofFn fun p => { s.cores[p] with supply := { s.cores[p].supply with
      floor := if s.cores[p].supply.on then s.floorOf p else 0 } } }

/-- A core stands above the code that its own loop would hold. -/
def Supply.lifted (u : Supply) : Bool := u.on && decide (u.own < u.code)

/-- A raise lifts the floors of its neighbours in the same sample, and theirs; clamps set and released are logged. -/
def State.settle (s : State) : State :=
  let t := ((List.range 32).foldl (fun (s : State) _ => s.lift) s).setFloors
  (List.finRange 32).foldl (fun (t : State) p =>
    if s.cores[p].supply.lifted ≠ t.cores[p].supply.lifted then
      t.log1 0x0D09 none none (some p) (leBytes p.val 1 ++ leBytes (b2n t.cores[p].supply.lifted) 1 ++ leBytes (t.cores[p].supply.code - t.cores[p].supply.own) 1)
    else t) t

/-! ## Margin (R391 to R393, R406) -/

/-- Codes by which a margin raises the voltage. -/
def raiseFor (m : Nat) : Nat := if m < 40 then 4 else if m < 45 then 1 else 0

/-- A sample of one powered core. -/
def Supply.sample (u : Supply) (m : Nat) : Supply :=
  let v := min 100 (u.code + raiseFor m)
  { u with margin := m, minMargin := some (match u.minMargin with | some x => min x m | none => m), code := v
           own := if raiseFor m = 0 then u.own else v }

/-- A notice can be given: a spare is free and not committed to another worn core. -/
def State.canNotice (s : State) (p : CoreNo) : Bool :=
  s.spareFree && s.rebuild.isNone && (List.finRange 32).all fun q => decide (q = p) || s.cores[q].supply.handover.isNone

/-- Handover notice of a core at a tick (R405). -/
def State.giveNotice (s : State) (p : CoreNo) (h : Nat) : State :=
  let s := s.onCore p fun c => { c with planned := true, supply := { c.supply with handover := some h } }
  s.log1 0x0D05 none (s.logicalOf p) (some p) (leBytes p.val 1 ++ leBytes s.cores[p].logical.val 1 ++ leBytes h 8)

/-- The first tick after which the copy of a core's static units can end (R406, R407). -/
def State.copyEnd (s : State) (p : CoreNo) : Nat :=
  s.tick.number.toNat + 2 + (s.staticUnits s.cores[p].logical + s.reserveAt - 1) / max 1 s.reserveAt

/-- A mapped core at code 100 loses its margin (R406). -/
def State.marginLost (s : State) (p : CoreNo) : State :=
  let s := s.forceCore p
  let h := s.copyEnd p
  match s.cores[p].supply.handover with
  | some old => if old ≤ h then s else s.giveNotice p h
  | none => if s.canNotice p then s.giveNotice p h else s

/-- MARGIN_SAMPLE: raises, violations, floors, and lost margins at code 100. -/
def State.marginOp (s : State) (ms : List Nat) : State :=
  let at100 := (List.finRange 32).filter fun p =>
    decide (s.cores[p].mode = .mapped) && s.cores[p].supply.on && decide (s.cores[p].supply.code = 100 ∧ ms.getD p.val 0 < 40)
  let t : State := { s with cores := Vector.ofFn fun p =>
    let c := s.cores[p]
    if c.supply.on then { c with supply := c.supply.sample (ms.getD p.val 0) } else c }
  let t := (List.finRange 32).foldl (fun (t : State) p =>
    if s.cores[p].supply.on ∧ ms.getD p.val 0 < 40 then
      t.log1 0x0D01 none (s.logicalOf p) (some p) (leBytes p.val 1 ++ leBytes t.cores[p].supply.code 1 ++ leBytes (ms.getD p.val 0) 2)
    else t) t
  at100.foldl State.marginLost t.settle

/-- A core may be lowered by one code in the reserve (R392, R395, R397). -/
def State.lowers (s : State) (p : CoreNo) : Bool :=
  let u := s.cores[p].supply
  let wide := match u.minMargin with
    | some m => decide (55 ≤ m)
    | none => false
  u.on && wide && decide (u.plan < u.code) && !s.power.clampDie[dieOf p] && decide (s.floorOf p < u.code)

/-- The lowering of the reserve, and what each core's own loop would have done. -/
def State.lowerCores (s : State) : State :=
  let t : State := { s with cores := Vector.ofFn fun p =>
    let c := s.cores[p]
    let wide := match c.supply.minMargin with
      | some m => decide (55 ≤ m)
      | none => false
    let own := if c.supply.on && wide && decide (c.supply.plan < c.supply.own) then c.supply.own - 1 else c.supply.own
    { c with supply := { c.supply with own := own, code := if s.lowers p then c.supply.code - 1 else c.supply.code } } }
  t.setFloors

/-- The reserve self-check of every powered core (R393). -/
def State.selfChecks (s : State) : State :=
  (List.finRange 32).foldl (fun (s : State) p =>
    let u := s.cores[p].supply
    match u.on, u.minMargin with
    | true, some m =>
      if m < 15 then (s.log1 0x0D02 none (s.logicalOf p) (some p) (leBytes p.val 1 ++ leBytes m 2)).coreFault p .selfCheck else s
    | _, _ => s) s

/-! ## Phase (R397) -/

/-- Sum of the codes of a die's powered cores. -/
def State.dieCode (s : State) (d : Fin 8) : Nat := ((coresOfDie d).map fun p => if s.cores[p].supply.on then s.cores[p].supply.code else 0).sum

/-- The cores of a die raised by one code. -/
def State.raiseDie (s : State) (d : Fin 8) : State :=
  (coresOfDie d).foldl (fun (s : State) p => s.onSupply p fun u => if u.on then { u with code := min 100 (u.code + 1) } else u) s

/-- One crossing of a phase sample: dies and |φ| (DEDUCED, assumption 45). -/
def State.crossing (s : State) (x : (Fin 8 × Fin 8) × Nat) : State :=
  let a := x.1.1
  let b := x.1.2
  let both := s.power.clampDie[a] && s.power.clampDie[b]
  let s := if 100 < x.2 ∧ both then s.raiseDie (if s.dieCode b < s.dieCode a then b else a) else s
  let s := if 140 ≤ x.2 then (coresOfDie a ++ coresOfDie b).foldl State.forceCore s else s
  if 200 < x.2 then s.packageFault else s

/-- Clamp of a die after a sample: set by a crossing at or above 125 ps, and held until every crossing of it is at most
100 ps. -/
def clampAfter (was : Bool) (d : Fin 8) (phis : List ((Fin 8 × Fin 8) × Nat)) : Bool :=
  let mine := phis.filter fun x => decide (x.1.1 = d ∨ x.1.2 = d)
  (mine.any fun x => decide (125 ≤ x.2)) || (was && mine.any fun x => decide (100 < x.2))

/-- PHASE_SAMPLE. -/
def State.phaseOp (s : State) (phis : List ((Fin 8 × Fin 8) × Nat)) : State :=
  let old : Vector Bool 8 := s.power.clampDie
  let clamp : Vector Bool 8 := Vector.ofFn fun d => clampAfter old[d] d phis
  let top := fun (d : Fin 8) => ((phis.filter fun x => decide (x.1.1 = d ∨ x.1.2 = d)).map fun x => x.2).foldl max s.power.phi[d]
  let s : State := { s with power := { s.power with clampDie := clamp, phi := Vector.ofFn top } }
  let s := (List.finRange 8).foldl (fun (s : State) (d : Fin 8) =>
    if old[d] ≠ clamp[d] then s.log1 0x0D09 none none none (leBytes (32 + d.val) 1 ++ leBytes (b2n clamp[d]) 1 ++ leBytes s.power.phi[d] 2)
    else s) s
  (phis.foldl State.crossing s).settle

/-! ## Temperature (R396, R398, R399, R401, R402) -/

/-- A reading below every sensor's range: the start of a tick's maxima. -/
def coldest : Int := -1092

/-- Maxima, minima and means of the tick that begins. -/
def State.resetTickSamples (s : State) : State :=
  { s with
    cores := s.cores.map fun c => { c with supply := { c.supply with minMargin := none, tjMax := coldest, stackMax := coldest } }
    power := { s.power with tickWatts := 0, tickMv := 0, tickN := 0, tjMax := coldest, phi := Vector.replicate 8 0 } }

/-- A hotter core beside a cooler one, 27 °C or more apart (R396). `before` holds the junctions of the last sample. -/
def State.spread (s : State) (before : Vector Int 32) (hot cool : CoreNo) : State :=
  let c := s.cores[cool]
  let d := s.cores[hot].supply.tj - c.supply.tj
  let free := decide (c.mode = .idle ∨ c.mode = .spare)
  let vain := c.supply.warming && decide (before[hot] - before[cool] ≤ d)
  if free && s.settings.warming && !s.power.overCap && !vain then
    (if c.supply.warming then s
     else (s.onSupply cool fun u => { u with warming := true }).log1 0x0D0A none none (some cool) (leBytes cool.val 1 ++ [20]))
  else s.forceCore hot

/-- Adjacent powered pairs that are 27 °C or more apart, and warmings that may end at 22 °C. -/
def State.manageWarming (s : State) (before : Vector Int 32) : State :=
  let s := (List.finRange 32).foldl (fun (s : State) p => (s.neighbours p).foldl (fun (s : State) q =>
    if s.cores[p].supply.on ∧ s.cores[q].supply.tj + 108 ≤ s.cores[p].supply.tj then s.spread before p q else s) s) s
  (List.finRange 32).foldl (fun (s : State) q =>
    if s.cores[q].supply.warming && (s.neighbours q).all fun p => decide (s.cores[p].supply.tj ≤ s.cores[q].supply.tj + 88) then
      (s.onSupply q fun u => { u with warming := false }).log1 0x0D0A none none (some q) (leBytes q.val 1 ++ [0])
    else s) s

/-- The estimated coolant flow in mL/min from the input power in 0.1 W and the rise in 0.25 °C (R399); a free value
where the coolant does not rise. -/
def State.estimateFlow (s : State) : State :=
  let rise := s.power.outlet - s.power.inlet
  if 0 < rise then
    { s with power := { s.power with flow := s.power.watts * 24000000 / (1030 * 3900 * rise.toNat) } }
  else { s with power := { s.power with flow := Config.coolantFlow s.free }, free := s.free + 1 }

/-- The coolant alarm (R399). -/
def State.coolantAlarm (s : State) : State :=
  let p := s.power
  let now := decide (4 * (s.settings.coolant : Int) < p.inlet ∨ p.flow < 2000)
  let t : State := { s with power := { p with alarm := now } }
  if now && !p.alarm then
    t.log1 0x0D0E none none none (leBytes (wrapN p.inlet 16) 2 ++ leBytes (wrapN p.outlet 16) 2 ++ leBytes p.flow 4)
  else t

/-- TEMPERATURE_SAMPLE: readings in 0.25 °C. -/
def State.temperatureOp (s : State) (r : TempReadings) : State :=
  let before : Vector Int 32 := Vector.ofFn fun p => s.cores[p].supply.tj
  let s : State := { s with cores := Vector.ofFn fun p =>
    let c := s.cores[p]
    let t := r.cores.getD p.val 0
    { c with supply := { c.supply with
        tj := t, tjMax := max c.supply.tjMax t, stackMax := max c.supply.stackMax (r.sramStacks.getD (dieOf p).val 0) } } }
  let s : State := { s with power := { s.power with
    inlet := r.inlet, outlet := r.outlet, tjMax := r.cores.foldl max s.power.tjMax } }
  let s := ((s.manageWarming before).estimateFlow).coolantAlarm
  if (r.optical ++ r.converters).any fun t => decide (412 ≤ t) then s.tripPackage 1 else s

/-- Cycles of one second. -/
def secondCycles : Nat := 2000000000

/-- JUNCTION_TRIP (R401, R402): VCORE goes off, each such core is core fatal, and three dies within a second trip the
package. -/
def State.tripOp (s : State) (x : TripSensor) (reading : Int) : State :=
  if reading < 412 then s
  else
    let die : Fin 8 := match x with
      | .core p => dieOf p
      | .stack d => d
    let cores : List CoreNo := match x with
      | .core p => [p]
      | .stack d => coresOfDie d
    let sensor := match x with
      | .core p => p.val
      | .stack d => 32 + d.val
    let s := s.log1 0x0D08 none none none (leBytes sensor 1 ++ leBytes (wrapN reading 16) 2)
    let s := cores.foldl (fun (s : State) p => (s.coreFault p .regulator).onSupply p fun u => { u with on := false }) s
    let trips := (die, s.now) :: s.power.trips.filter fun t => decide (s.now < t.2 + secondCycles)
    let s : State := { s with power := { s.power with trips := trips } }
    if 3 ≤ ((trips.map fun t => t.1).dedup).length then s.tripPackage 0 else s

/-! ## Ageing (R403 to R405) -/

/-- An entry of its own for each record (R403). -/
def State.logEach (s : State) (code : BitVec 16) (p : CoreNo) (detail : List Byte) : State :=
  if 4096 ≤ s.log.staged.length then { s with log := { s.log with lost := s.log.lost + 1 }, ctrs := vmod s.ctrs 11 fun c => c.add 1 }
  else
    let e : LogEntry :=
      { seq := 0, tick := s.tick.number, cycle := s.rel, code := code, fold := none, lcore := s.logicalOf p, pcore := some p
        debug := false, coalesced := false, count := 1, detail := detail20 detail, tag := 0 }
    { s with log := { s.log with staged := s.log.staged ++ [e] } }

/-- Ticks between two ageing records. -/
def ageingTicks : Nat := 2 ^ 20

/-- AGEING_RECORD: one entry for each powered core. -/
def State.ageingOp (s : State) (rs : List AgeingReading) : State :=
  if s.tick.number.toNat % ageingTicks ≠ 0 then s
  else (List.finRange 32).foldl (fun (s : State) p =>
    match s.cores[p].supply.on, rs[p.val]? with
    | true, some r =>
      let s := s.onSupply p fun u => { u with rings := #v[r.ring0, r.ring1, r.ring2, r.ring3] }
      let u := s.cores[p].supply
      s.logEach 0x0D03 p (leBytes r.ring0.toNat 2 ++ leBytes r.ring1.toNat 2 ++ leBytes r.ring2.toNat 2 ++ leBytes r.ring3.toNat 2 ++
        leBytes (u.minMargin.getD u.margin) 2 ++ leBytes u.code 1 ++ leBytes (wrapN u.tj 16) 2 ++ leBytes (wrapN (r.predicted - r.measured) 16) 2)
    | _, _ => s) s

/-- Ticks between two re-plans: floor(86,400,000,000 / P) with P in µs. -/
def State.replanTicks (s : State) : Nat := match s.sec? with
  | some m => if m.period = 0 then 0 else 86400000000 / m.period
  | none => 0

/-- Smallest code at or above a rational number, within 0 to 100. -/
def planOf (q : Rat) : Nat := min 100 (q.ceil.toNat)

/-- Slope and last value of the least-squares line through values given newest first, one a day. -/
def fitLine (vs : List Nat) : Rat × Rat :=
  let n : Rat := vs.length
  let pts := vs.reverse.zipIdx.map fun v => ((v.2 : Rat), (v.1 : Rat))
  let sx := (pts.map fun p => p.1).sum
  let sy := (pts.map fun p => p.2).sum
  let sxx := (pts.map fun p => p.1 * p.1).sum
  let sxy := (pts.map fun p => p.1 * p.2).sum
  let det := n * sxx - sx * sx
  let slope := if det = 0 then 0 else (n * sxy - sx * sy) / det
  let base := if n = 0 then 0 else (sy - slope * sx) / n
  (slope, base + slope * (n - 1))

/-- The line exceeds 100 within a number of days. -/
def exceeds (line : Rat × Rat) (days : Nat) : Bool := decide (100 < line.2) || decide (100 < line.2 + line.1 * days)

/-- The handover tick: the first multiple of 2^16 at least the lead after a tick (R405). -/
def State.handoverTick (s : State) : Nat :=
  let p := s.period / 2000
  let lead := if p = 0 then 0 else (s.settings.lead * 1000000 + p - 1) / p
  (s.tick.number.toNat + lead + 65535) / 65536 * 65536

/-- The re-plan of one core. -/
def State.replanCore (s : State) (p : CoreNo) (q : Rat) : State :=
  let plan := planOf q
  let s := s.onSupply p fun u => { u with plan := plan, plans := (plan :: u.plans).take 30 }
  let line := fitLine s.cores[p].supply.plans
  let days := if line.1 ≤ 0 then 65535 else ((100 - line.2) / line.1).ceil.toNat
  let s := s.log1 0x0D04 none (s.logicalOf p) (some p)
    (leBytes p.val 1 ++ leBytes plan 1 ++ leBytes (wrapN (line.1 * 1000).floor 32) 4 ++ leBytes (min 65535 days) 2)
  if s.cores[p].mode = .mapped ∧ s.cores[p].supply.handover.isNone ∧ (exceeds line s.settings.horizon ∨ 100 < q) ∧ s.canNotice p then
    s.giveNotice p s.handoverTick
  else s

/-- REPLAN: each mapped, spare and idle core that is powered. -/
def State.replanOp (s : State) (required : List Rat) : State :=
  if s.replanTicks = 0 ∨ s.tick.number.toNat % max 1 s.replanTicks ≠ 0 then s
  else (List.finRange 32).foldl (fun (s : State) p =>
    let m := s.cores[p].mode
    match s.cores[p].supply.on && decide (m = .mapped ∨ m = .spare ∨ m = .idle), required[p.val]? with
    | true, some q => s.replanCore p q
    | _, _ => s) s

/-! ## Meanings -/

def execInputPowerApplied (s : State) : Host.Outcome State Fault Refusal := .next s.inputApplied
def execInputUndervoltage (mv : Nat) (s : State) : Host.Outcome State Fault Refusal := .next (s.undervoltage mv)
def execInputOvervoltage (mv : Nat) (s : State) : Host.Outcome State Fault Refusal := .next (s.overvoltage mv)
def execRailOutOfBand (r : Rail) (s : State) : Host.Outcome State Fault Refusal := .next (s.railOut r)
def execConverterUnitLost (r : UnitRail) (s : State) : Host.Outcome State Fault Refusal := .next (s.unitLost r)
def execPowerSample (w mv : Nat) (s : State) : Host.Outcome State Fault Refusal := .next (s.powerOp w mv)
def execMarginSample (ms : List Nat) (s : State) : Host.Outcome State Fault Refusal := .next (s.marginOp ms)
def execPhaseSample (phis : List ((Fin 8 × Fin 8) × Nat)) (s : State) : Host.Outcome State Fault Refusal := .next (s.phaseOp phis)
def execTemperatureSample (r : TempReadings) (s : State) : Host.Outcome State Fault Refusal := .next (s.temperatureOp r)
def execJunctionTrip (x : TripSensor) (r : Int) (s : State) : Host.Outcome State Fault Refusal := .next (s.tripOp x r)
def execAgeingRecord (rs : List AgeingReading) (s : State) : Host.Outcome State Fault Refusal := .next (s.ageingOp rs)
def execReplan (qs : List Rat) (s : State) : Host.Outcome State Fault Refusal := .next (s.replanOp qs)

end Sys2Proof.Machine
end

