-- ==== Sys2Proof/Machine/Boot.lean ====
section
/-! DEFINITION. Boot: identity, first binding, firmware, tack record, module section, core map and the loads that follow
(spec/14 R302, R315, R320, R333, spec/15 R342, R345, spec/10 R204). Boot steps 1 to 6 take their effect at
POWER_GOOD as far as what they need is there; each goes on as soon as it is (DESIGN CHOICE, assumption 35). -/

namespace Sys2Proof.Machine

/-! ## What reads before the first sample (R446) -/

/-- The reset columns of Tables 20.3, 20.9 and 20.10 with the fused values of this module, those that read 0 left out. -/
def State.resetRegs (s : State) : List (Nat × Word32) :=
  (regsFrom 0x0 [if s.gradeF then 0x325646B1 else 0x325645B1, s.enabled] ++ regsFrom 0x24 [reg s.trust.generation] ++
    regsFrom 0x40 (digestRegs s.trust.fingerprint) ++ [(0x88, reg 1750), (0x98, s.tack.retired)] ++
    ((List.finRange 32).flatMap fun (p : CoreNo) =>
      [(0x01000000 + 0x10000 * p.val, if s.enabled.getLsbD p.val then 0x20000000 else 0), (0x01000004 + 0x10000 * p.val, 60)]) ++
    (List.finRange 32).map fun (f : FoldNo) => (0x02000008 + 0x1000 * f.val, reg s.trust.debugCount[f])).filter fun r => decide (r.2 ≠ 0)

/-! ## Step 1: the brand key (R342) -/

/-- The trust state with the life cycle and K_root. -/
def State.withLife (s : State) (l : Life) (root : Option (BitVec 384)) : State := { s with trust := { s.trust with life := l, root := root } }

/-- First power-up in state shipped: the seed is drawn, the keys derived, and the identity fused. -/
def State.brand (s : State) : State :=
  let d := s.draw 384
  let t := d.2.withLife .branded (some (rootOf d.1))
  { t with trust := { t.trust with masked := d.1 ^^^ Config.puf, fingerprint := fingerprintOf t.brandKey } }

/-- A later boot: the seed is unmasked and the derived fingerprint compared with the fused one; keys of a brand lost are
not usable. -/
def State.recall (s : State) : State :=
  let t := s.withLife .branded (some (rootOf (s.trust.masked ^^^ Config.puf)))
  if Config.pufHolds s.now && decide (fingerprintOf t.brandKey = s.trust.fingerprint) then t
  else (s.withLife .brandLost none).log1 0x0E06 none none none []

/-- Boot step 1. A draw waits while the entropy source has failed (R341). -/
def State.identify (s : State) : State :=
  match s.trust.life with
  | .test => s
  | .shipped => if s.trust.entropyFailed then s else s.brand
  | _ => if s.trust.root.isSome then s else s.recall

/-! ## Binding in the first window (R345) -/

/-- Boot stage copies and firmware regions are measured, their trailers written, and the first tack record committed. -/
def State.bindFirst (s : State) : State :=
  if s.trust.bound ∨ s.trust.life ≠ .branded then s
  else
    let meas : Vector (BitVec 384) 4 := Vector.ofFn fun k => Config.norMeasurement k.val
    { s with
      trust := { s.trust with bound := true, romMeas := meas
                              romCode := Vector.ofFn fun k => s.acceptCode (norKind k.val) 0 meas[k] }
      store := { s.store with commits := s.store.commits ++ [TackRec.first] } }

/-! ## Steps 2 to 4: boot stage, firmware, tack record, SSDs (R315, R336, R337) -/

/-- The boot stage copy to use: copy 1 when copy 0 fails R309. -/
def State.bootChoice (s : State) : Option Bool := if s.norOk 0 then some false else if s.norOk 1 then some true else none

/-- A supervisor with its firmware started. -/
def State.supBoot (s : State) (u : Sup) (active : Bool) : Supervisor :=
  let b := s.bootRegion u
  { Supervisor.reset with state := if active then .active else .standby, region := b, meas := s.regionMeas b }

/-- SSDs that the record names in step and that are absent are out of step. -/
def State.bootStores (s : State) : State :=
  let s := { s with store := { s.store with ssds := s.store.ssds.map fun d => { d with perst := d.present } } }
  let gone := fun (n : SsdNo) => s.stepFlag n && !s.store.ssds[n].present
  if gone 0 || gone 1 then
    s.commit fun t =>
      let t := if gone 0 then t.setStep 0 false else t
      if gone 1 then t.setStep 1 false else t
  else s

/-- Steps 2 and 3 of a module whose boot stage and firmware are bound; B is active after a handover that power loss cut
short (Table 14.16). -/
def State.startFirmware (s : State) : State :=
  if !s.trust.bound ∨ s.trust.life ≠ .branded ∨ 3 ≤ s.power.bootStep then s
  else match s.bootChoice with
    | some b =>
      if s.norOk 2 || s.norOk 3 then
        let s := s.readRecord
        let toB := decide (s.tack.fw = .handedOver)
        State.bootStores
          { s with trust := { s.trust with bootCopy := b }, power := { s.power with bootStep := 3 }
                   supA := s.supBoot .a (!toB), supB := s.supBoot .b toB }
      else { s with power := { s.power with bootStep := 2 } }
    | none => { s with power := { s.power with bootStep := 2 } }

/-! ## Step 5: entries (R333) -/

/-- Attempts of an entry whose fold is kept stopped until the plant reverts it. -/
def keptStopped : Nat := 4

/-- Entry at boot (Table 14.14); `multi` says whether the candidate is a member of a multi-module fold. -/
def TackEntry.atBoot (e : TackEntry) (multi : Bool) : TackEntry :=
  match e.state with
  | .downloading => e.giveUp
  | .confirming =>
    if e.attempts < 3 then { e with attempts := e.attempts + 1 }
    else if multi then { e with attempts := keptStopped }
    else { e with state := .reverting }
  | .reverting => { e with state := .idle, attempts := 0 }
  | _ => e

/-- The candidate of an entry is a member of a multi-module fold. -/
def State.candidateMulti (s : State) (k : Fin 33) : Bool :=
  match s.container k (s.entryAt k).otherSlot with
  | some c => decide (k.val < 32) && c.image.multi
  | none => false

/-- Every entry taken as the last power loss left it, in one commit; a slot given up is freed. A module section beyond
its attempts goes back to its active slot at once. -/
def State.bootEntries (s : State) : State :=
  let next : Vector TackEntry 33 := Vector.ofFn fun k =>
    let e := (s.entryAt k).atBoot (s.candidateMulti k)
    if k = moduleEntry ∧ e.state = .reverting then { e with state := .idle, attempts := 0 } else e
  let freed := (List.finRange 33).filter fun k => decide ((s.entryAt k).state = .downloading)
  let kept := (List.finRange 32).filter fun f =>
    decide ((next[f.val]).attempts = keptStopped) && decide ((s.entry f).attempts ≠ keptStopped)
  let s : State := if next = s.tack.entries then s else s.commit fun t => { t with entries := next }
  let s : State := freed.foldl (fun (s : State) k =>
    { s with store := s.store.freeSlot (k.val, (s.entryAt k).otherSlot) }) s
  kept.foldl (fun (s : State) f => s.log1 0x0C01 (some f) none none [0]) s

/-! ## Step 6: core map (R204) -/

/-- Healthy enabled cores that are not retired, in ascending order. -/
def State.usable (s : State) : List CoreNo :=
  (List.finRange 32).filter fun p => s.enabled.getLsbD p.val && decide (s.cores[p].mode ≠ .failed) && !s.tack.retired.getLsbD p.val

/-- Cores that have failed since the last boot. -/
def State.failedSet (s : State) : Word32 :=
  (List.finRange 32).foldl (fun (m : Word32) p => if s.cores[p].mode = .failed then m ||| BitVec.ofNat 32 (2 ^ p.val) else m) 0

/-- The map entry of one core: logical number, member and parity block by its place among the usable cores. -/
def Core.mapAs (c : Core) (on : Bool) (place : Option Nat) (n : Nat) (spare : Bool) : Core :=
  let c := { c with planned := false, fault := none, cause := none, isolated := false, absent := false }
  match place with
  | some i =>
    if i < n then { c with mode := .mapped, logical := Fin.ofNat 32 i, member := i, parity := some i }
    else if i = n ∧ spare then
      { c with mode := .spare, logical := 0, member := n, parity := some n, pasture := c.pasture.poisonZero 0 (dataEnd / 32) }
    else { c with mode := .idle, logical := 0, member := 0, parity := none, supply := { c.supply with code := 0, own := 0 } }
  | none => { c with mode := if on then .retired else .fusedOff, logical := 0, member := 0, parity := none
                     supply := { c.supply with on := false } }

/-- The core map of a section is built: failed cores are retired, L0 to Ln−1 and the spare take the usable cores in
ascending order, the rest stay idle at the lowest voltage. -/
def State.buildMap (s : State) (m : ModuleSection) : State :=
  let bad := s.failedSet
  let s : State := if bad = 0 then s else s.commit fun t => { t with retired := t.retired ||| bad }
  let us := s.usable
  let s := { s with cores := Vector.ofFn fun p => s.cores[p].mapAs (s.enabled.getLsbD p.val) (us.idxOf? p) m.n m.spare }
  { s with power := { s.power with bootStep := max 6 s.power.bootStep } }.settle

/-- The ageing baseline of boot step 6 (R403): one record for each enabled core; what its monitors report is free. -/
def State.baseline (s : State) : State :=
  (List.finRange 32).foldl (fun (s : State) p =>
    if s.enabled.getLsbD p.val then
      let r := Config.bootAgeing s.free
      let at_ := fun k => BitVec.ofNat 16 (fld r (16 * k) 16)
      let s := { s with free := s.free + 1 }
      let s := s.onSupply p fun u => { u with rings := #v[at_ 0, at_ 1, at_ 2, at_ 3] }
      let u := s.cores[p].supply
      s.logEach 0x0D03 p (leBytes (fld r 0 64) 8 ++ leBytes (u.minMargin.getD u.margin) 2 ++ leBytes u.code 1 ++ leBytes (wrapN u.tj 16) 2 ++
        leBytes (fld r 64 16) 2)
    else s) s

/-! ## The module section in force (R302, R237, R385) -/

/-- A fold under its allotment: unallotted without one. -/
def Fold.under (x : Fold) (a : Option Allot) : Fold :=
  { x with allot := a, run := match a with
      | none => .unallotted
      | some _ => if x.run = .unallotted then .stopped else x.run }

/-- The module runs a section from now on. -/
def State.useSection (s : State) (m : ModuleSection) : State :=
  { s with sec? := some m, place := s.ownPlace m
           folds := Vector.ofFn fun f => s.folds[f].under (m.allots.find? fun a => decide (a.fold = f))
           power := { s.power with cap := min m.power.cap s.power.capLeft } }

/-- Folds that are stopped, not held and not kept stopped are made ready (R320). -/
def State.readyFolds (s : State) : State :=
  (List.finRange 32).foldl (fun (s : State) f =>
    if s.folds[f].run = .stopped ∧ !(s.entry f).held ∧ (s.entry f).attempts ≠ keptStopped then s.resume f else s) s

/-- The section that a booting module is to run: of its entry's slot, when its container passes R309. -/
def State.bootSection (s : State) : Option ModuleSection :=
  (s.entryAt moduleEntry).runSlot.bind fun b => (s.container moduleEntry b).map Slot.moduleSection

/-- Steps 4 to 7: the entries are taken once a store is in step; with a module section the core map is built and the
static data of the folds begins to load. -/
def State.bootStore (s : State) : State :=
  if s.power.bootStep < 3 ∨ s.sec?.isSome ∨ !s.storeUp then s
  else
    let s : State := if s.power.bootStep = 3 then { s.bootEntries with power := { s.power with bootStep := 5 } } else s
    match s.bootSection with
    | some m => (((s.useSection m).buildMap m).baseline).readyFolds
    | none => s

/-- The boot goes on as far as it can (DESIGN CHOICE, assumption 35) (DESIGN CHOICE, assumption 37). -/
def State.continueBoot (s : State) : State :=
  if s.power.good then
    let s := s.identify
    let s := s.startFirmware
    s.bootStore
  else s

/-! ## POWER_GOOD (R386, R320) -/

/-- The enabled cores with their rail on at the boot voltage; the tally defaults and the rest of a core stand at reset. -/
def State.coresOn (s : State) : State :=
  { s with cores := Vector.ofFn fun p =>
      let c := s.cores[p]
      if s.enabled.getLsbD p.val then { c with supply := { c.supply with on := true, code := 60, plan := 60, own := 60 } }
      else { c with mode := .fusedOff, supply := { c.supply with on := false } } }

/-- POWER_GOOD: the rails are up and the boot begins (DESIGN CHOICE, assumption 35). -/
def State.powerGoodOp (s : State) : State :=
  if s.power.sequencing then
    let s := { s with power := { s.power with good := true, sequencing := false, goodAt := s.now, bootStep := 1 } }
    let s := s.coresOn
    let s := { s with sample := s.resetRegs }
    s.continueBoot
  else s

/-! ## Meanings -/

def execPowerGood (s : State) : Host.Outcome State Fault Refusal := .next s.powerGoodOp
def execSsdInserted (n : SsdNo) (i : SsdInfo) (s : State) : Host.Outcome State Fault Refusal := .next (s.ssdInsert n i).continueBoot
def execSsdResyncComplete (n : SsdNo) (s : State) : Host.Outcome State Fault Refusal := .next (s.resyncDone n).continueBoot

end Sys2Proof.Machine
end

