-- ==== Sys2Proof/Machine/Maint.lean ====
section
/-! DEFINITION. The maintenance protocol: sessions, downloads, verification, activation, reverts, debug, exports and the
attestation report (spec/15_trust_and_presence.md R353 to R358, spec/14 R327 to R332, R336). -/

namespace Sys2Proof.Machine

/-! ## Answers (R356, R357, Tables 15.5 and 15.7) -/

/-- A session changed. -/
def State.onSess (s : State) (g : Session → Session) : State := { s with trust := { s.trust with sess := g s.trust.sess } }

/-- The answer to a request. -/
def answerTo (r : MaintReq) (status : Nat) (session : BitVec 32) (body : List Byte) : Answer :=
  { op := r.op, status := BitVec.ofNat 8 status, session := session, number := r.number, target := r.target, arg := r.arg, body := body
    port := r.port, dst := r.src, udp := r.udp }

/-- A message of Table 15.5. -/
def Answer.bytes (a : Answer) : List Byte :=
  [a.op, 2, a.status, 0] ++ beBytes a.session.toNat 4 ++ beBytes a.number.toNat 4 ++ beBytes a.target.toNat 2 ++ [0, 0] ++
    beBytes a.arg.toNat 8 ++ beBytes a.body.length 4 ++ [0, 0, 0, 0] ++ a.body

/-- Ticks run, so that drains and reserves come. -/
def State.ticks (s : State) : Bool := s.sec?.isSome && s.tick.predicting && s.power.good

/-- An answer may leave on its plant port now: outside the drain and after telemetry, as export does (R356, R298); where no
ticks run nothing drains. -/
def State.answerFits (s : State) (a : Answer) : Bool :=
  !s.ticks || (s.plantFits a.port a.bytes.length && !s.telemetryWaits a.port)

/-- An answer leaves on the plant port of its request, as a plant frame of kind 0x05. -/
def State.emitAnswer (s : State) (a : Answer) : State :=
  let k : PlantFrame :=
    { kind := 5, tag := 0xFFFF, hallModule := s.hallNo, number := s.pl[a.port].numMaint, tick := 0, pen := 0, flags := 0, imageId := 0
      offset := 0, startAt := s.rel, payload := a.bytes, marks := [] }
  (s.sendPlant a.port k).onPl a.port fun x => { x with numMaint := x.numMaint + 1 }

/-- An answer given: it leaves at once, or waits on its port behind those that wait. -/
def State.sendAnswer (s : State) (a : Answer) : State :=
  let s := s.onSess fun x => { x with sent := x.sent ++ [a] }
  if s.pl[a.port].answers.isEmpty && s.answerFits a then s.emitAnswer a
  else s.onPl a.port fun x => { x with answers := x.answers ++ [a] }

/-- The oldest answer that waits on a port leaves when it may. -/
def State.answerCycle (s : State) (p : PlantPort) : State :=
  match s.pl[p].answers with
  | a :: r => if s.answerFits a then (s.onPl p fun x => { x with answers := r }).emitAnswer a else s
  | [] => s

/-- Answers kept for repeats. -/
def answersKept : Nat := 64

/-- The request is answered, and the answer kept. -/
def State.finishWith (s : State) (r : MaintReq) (status : Nat) (session : BitVec 32) (body : List Byte) : State :=
  let a := answerTo r status session body
  (s.onSess fun x => { x with answers := (a :: x.answers).take answersKept }).sendAnswer a

/-- The request is answered in its own session. -/
def State.finish (s : State) (r : MaintReq) (status : Nat) (body : List Byte) : State := s.finishWith r status r.session body

/-- The fold of a target. -/
def targetFold (t : BitVec 16) : Option FoldNo := if h : t.toNat < 32 then some ⟨t.toNat, h⟩ else none

/-- The tack record entry of a target. -/
def targetEntry (t : BitVec 16) : Option (Fin 33) := if t = 0xFF then some moduleEntry else (targetFold t).map foldEntry

/-- A request that changed state is logged with its operation, target and source (R357). -/
def State.logMaint (s : State) (r : MaintReq) : State :=
  s.log1 0x0E02 (targetFold r.target) none none (leBytes r.op.toNat 1 ++ leBytes r.target.toNat 2 ++ beBytes r.src.toNat 16)

/-- The request is done. -/
def State.done (s : State) (r : MaintReq) : State := (s.logMaint r).finish r 0 []

/-! ## Admission (R350, R356, R357) -/

/-- The firmware runs and the request came from a maintenance peer; before any module section runs there are no peers
to name, and any source is heard (DESIGN CHOICE, assumption 36). -/
def State.hears (s : State) (r : MaintReq) : Bool :=
  (decide (3 ≤ s.power.bootStep) || decide (s.trust.life = .brandLost)) && s.power.good &&
    (match s.plantRec r.port with
     | none => true
     | some x => s.plantOpen r.port && decide (r.src ≠ 0) && x.peers.contains r.src)

/-- An answer already given to a request number of the same session and source. -/
def Session.given (x : Session) (r : MaintReq) : Option Answer :=
  x.answers.find? fun a => decide (a.number = r.number ∧ a.dst = r.src ∧ a.udp = r.udp) &&
    (decide (a.session = r.session) || decide (a.op = 1 ∧ r.op = 1))

/-- The request is in progress: the long operation that runs, or one that waits for the reserve. -/
def Session.busyWith (x : Session) (r : MaintReq) : Bool :=
  (x.busy.toList ++ x.reads).any fun b => decide (b.number = r.number ∧ b.session = r.session ∧ b.src = r.src)

/-- A request of a session keeps it open. -/
def State.touch (s : State) (r : MaintReq) : State :=
  s.onSess fun x => if x.num = some r.session then { x with last := s.now } else x

/-- Every request number is executed once; a repeat gets the first answer, or "in progress" (R357). -/
def State.request (s : State) (r : MaintReq) (act : State → State) : State :=
  if !s.hears r then s.countPl r.port 3 1
  else match s.trust.sess.given r with
    | some a => s.sendAnswer a
    | none => if s.trust.sess.busyWith r then s.sendAnswer (answerTo r 1 r.session []) else act (s.touch r)

/-- Status of a request that needs a window, before its own session is looked at: 0 when a window is open
(DEDUCED, assumption 44). -/
def State.windowStatus (s : State) : Nat :=
  let p := s.trust.pres
  if p.fuse then 3 else if p.discrepancy then 9 else if p.window.isNone then 2 else 0

/-- Status of a request that needs a window and a session: 0 when it is admitted (DEDUCED, assumption 44). -/
def State.admitStatus (s : State) (r : MaintReq) : Nat :=
  if s.windowStatus ≠ 0 then s.windowStatus else if s.trust.sess.num ≠ some r.session then 4 else 0

/-- A request that needs a window. -/
def State.inWindow (s : State) (r : MaintReq) (act : State → State) : State :=
  s.request r fun s => match s.admitStatus r with
    | 0 => act s
    | n + 1 => s.finish r (n + 1) []

/-! ## Sessions -/

/-- The session begins with a number drawn from the entropy source, made nonzero. -/
def State.beginSession (s : State) (r : MaintReq) : State :=
  let d := s.draw 32
  let n : BitVec 32 := BitVec.ofNat 32 (1 + d.1.toNat % (2 ^ 32 - 1))
  let t := d.2.onSess fun x => { x with num := some n, last := s.now, download := none }
  (t.logMaint r).finishWith r 0 n []

/-- OPEN_SESSION: inside a window, one at a time; it waits while the entropy source has failed (R359). -/
def State.openOp (s : State) (r : MaintReq) : State :=
  s.request r fun s =>
    if s.windowStatus ≠ 0 then s.finish r s.windowStatus []
    else if s.trust.sess.num.isSome ∨ s.trust.sess.waiting.isSome then s.finish r 5 []
    else if s.trust.entropyFailed then s.onSess fun x => { x with waiting := some (r, s.now) }
    else s.beginSession r

/-- The session ends. -/
def State.endSession (s : State) : State := s.onSess fun x => { x with num := none, download := none }

/-- CLOSE_SESSION; once the window has closed a session accepts only its download. -/
def State.closeOp (s : State) (r : MaintReq) : State :=
  s.request r fun s =>
    if s.trust.sess.num ≠ some r.session then s.finish r 4 []
    else if s.trust.pres.window.isNone then s.finish r 2 []
    else s.endSession.done r

/-- Cycles of 10 s. -/
def sessionCycles : Nat := 20000000000

/-- SESSION_TIMEOUT: 10 s without a request. -/
def State.sessionTimeoutOp (s : State) : State :=
  if s.trust.sess.num.isSome ∧ s.trust.sess.last + sessionCycles ≤ s.now then s.endSession else s

/-- MAINT_IN_PROGRESS_ANSWER: the operation in progress is answered so every second. -/
def State.inProgressOp (s : State) : State := match s.trust.sess.busy with
  | some r => s.sendAnswer (answerTo r 1 r.session [])
  | none => s

/-- MAINT_UNKNOWN_OPERATION. -/
def State.unknownOp (s : State) (r : MaintReq) : State := s.request r fun s => s.finish r 0x0A []

/-! ## Attestation (R358) -/

/-- A fold entry of the report, 128 B. -/
def State.attestFold (s : State) (f : FoldNo) : List Byte :=
  let x := s.folds[f]
  let e := s.entry f
  beBytes f.val 1 ++ beBytes x.run.code 1 ++ beBytes e.state.code 1 ++ beBytes (match e.active with | some b => b2n b | none => 255) 1 ++
    beBytes s.trust.debugCount[f] 1 ++ beBytes (4 * b2n e.held + 2 * b2n x.replay.on + b2n x.debug) 1 ++
    beBytes (match x.allot with | some a => a.tag.toNat | none => 0) 2 ++ beBytes e.version 8 ++ beBytes e.otherVersion 8 ++
    beBytes e.meas.toNat 48 ++ beBytes e.other.toNat 48 ++ List.replicate 8 0

/-- The report without its signature. -/
def State.attestBytes (s : State) (nonce : List Byte) : List Byte :=
  let t := s.trust
  let p := t.pres
  let fs := (List.finRange 32).filter fun f => s.folds[f].allot.isSome
  let m := s.entryAt moduleEntry
  let flags := 128 * b2n p.fuse + 64 * b2n p.sealOpen + 32 * b2n p.window.isSome + 16 * b2n p.discrepancy + 8 * b2n t.sess.num.isSome
  beBytes 1 1 ++ beBytes t.life.code 1 ++ beBytes flags 1 ++ beBytes fs.length 1 ++ beBytes t.generation 1 ++
    beBytes s.tack.fw.code 1 ++ beBytes (b2n (decide (s.supB.state = .active))) 1 ++ [(0 : Byte)] ++ beBytes s.tick.number.toNat 8 ++
    beBytes p.windows 8 ++ beBytes p.openings 8 ++ sliceD 0 nonce 0 32 ++ beBytes s.brandKey.toNat 96 ++
    beBytes (if t.bootCopy then t.romMeas[1] else t.romMeas[0]).toNat 48 ++ beBytes s.supA.meas.toNat 48 ++ beBytes s.supB.meas.toNat 48 ++
    beBytes m.meas.toNat 48 ++ beBytes m.other.toNat 48 ++ beBytes m.state.code 1 ++
    beBytes (match m.active with | some b => b2n b | none => 255) 1 ++ List.replicate 6 0 ++ beBytes s.tack.retired.toNat 4 ++
    List.replicate 4 0 ++ fs.flatMap s.attestFold

/-- The report, signed with the brand key; the draw is the nonce of the signature. -/
def State.attest (s : State) (r : MaintReq) : State :=
  let bs := s.attestBytes r.body
  let k := s.draw 384
  k.2.finish r 0 (bs ++ beBytes (ecdsaSign s.brandPrivate (nonceOf k.1) bs).toNat 96)

/-- The request waits for the next reserve. -/
def State.keepRead (s : State) (r : MaintReq) : State := s.onSess fun x => { x with reads := x.reads ++ [r] }

/-- The attestation made now; it waits while the entropy source has failed (R341). -/
def State.attestNow (s : State) (r : MaintReq) : State :=
  if s.trust.entropyFailed then
    (if s.trust.sess.waiting.isSome then s.finish r 5 [] else s.onSess fun x => { x with waiting := some (r, s.now) })
  else s.attest r

/-- ATTESTATION: needs no window. The report holds the state of the reserve of the running tick; where no ticks run it holds
the state as it stands (DEDUCED, assumption 44). A module without a usable brand key answers "check failed". -/
def State.attestationOp (s : State) (r : MaintReq) : State :=
  s.request r fun s =>
    if r.body.length ≠ 32 then s.finish r 7 []
    else if s.trust.life ≠ .branded then s.finish r 8 []
    else if s.ticks && !s.tick.inReserve then s.keepRead r
    else s.attestNow r

/-! ## The entropy source (R341, R359) -/

/-- A request that waited on the entropy source goes on. -/
def State.resumeWaiting (s : State) : State :=
  match s.trust.sess.waiting with
  | none => s
  | some (r, _) =>
    let s := s.onSess fun x => { x with waiting := none }
    if r.op = 0x10 then s.attest r
    else if s.windowStatus ≠ 0 then s.finish r s.windowStatus []
    else s.beginSession r

/-- ENTROPY_HEALTH_FAILURE: the source gives nothing; counted and logged. -/
def State.entropyFail (s : State) : State :=
  (({ s with trust := { s.trust with entropyFailed := true } }).count 10 1).log1 0x0E05 none none none []

/-- ENTROPY_RECOVERED: 1,024 consecutive samples have passed; every draw that waited goes on. -/
def State.entropyBack (s : State) : State :=
  if s.trust.entropyFailed then (({ s with trust := { s.trust with entropyFailed := false } }).continueBoot).resumeWaiting else s

/-- Cycles of one second. -/
def drawCycles : Nat := 2000000000

/-- ENTROPY_DRAW_TIMEOUT: a request that has waited for 1 s is answered "busy". -/
def State.drawTimeout (s : State) : State :=
  match s.trust.sess.waiting with
  | none => s
  | some (r, since) => if since + drawCycles ≤ s.now then (s.onSess fun x => { x with waiting := none }).finish r 5 [] else s

/-! ## Reads (R356) -/

/-- STATUS_READ: of the register, most significant byte first; nothing is read of a module in brand lost. -/
def State.statusReadOp (s : State) (r : MaintReq) : State :=
  s.request r fun s =>
    if s.trust.life = .brandLost then s.finish r 6 []
    else
      let v := s.readStatus r.arg.toNat
      v.2.finish r 0 (beBytes v.1.toNat 4)

/-- Largest body of a message. -/
def bodyMax : Nat := 8192

/-- LOG_READ: bytes of the NOR ring from an offset. -/
def State.logReadOp (s : State) (r : MaintReq) : State :=
  s.request r fun s =>
    if s.trust.life = .brandLost then s.finish r 6 []
    else if ringBytes ≤ r.arg.toNat then s.finish r 7 []
    else s.finish r 0 (s.log.bytes r.arg.toNat (min bodyMax (ringBytes - r.arg.toNat)))

/-! ## Downloads (R327, R317, R336) -/

/-- An update of firmware goes into F1 first, and into F0 after the handover. -/
def State.fwRegion (s : State) : Bool := !(decide (s.tack.fw = .handedOver) || decide (s.tack.fw = .f0Updating))

/-- The image slot into which a target is downloaded. -/
def State.downKey (s : State) (t : BitVec 16) : Option SlotKey :=
  match targetEntry t with
  | some k => some (k.val, (s.entryAt k).otherSlot)
  | none => if t = 0x100 then some (33, s.fwRegion) else if t = 0x101 then some (34, false) else none

/-- The states in which a download is refused. -/
def UpdState.blocksDownload : UpdState → Bool
  | .staged => true
  | .activating => true
  | .confirming => true
  | .reverting => true
  | _ => false

/-- The update state of a target; firmware and boot stage have none of their own. -/
def State.targetState (s : State) (t : BitVec 16) : UpdState := match targetEntry t with
  | some k => (s.entryAt k).state
  | none => .idle

/-- DOWNLOAD_BEGIN: admitted in a window while the entry lets it and an SSD is in step. A partial container is dropped. -/
def State.downloadBeginOp (s : State) (r : MaintReq) : State :=
  s.inWindow r fun s =>
    match s.downKey r.target with
    | none => s.finish r 7 []
    | some key =>
      if r.arg = 0 then s.finish r 7 []
      else if !s.storeUp ∨ (s.targetState r.target).blocksDownload ∨ s.trust.sess.busy.isSome then s.finish r 6 []
      else
        let t := s.onSess fun x => { x with download := some (r.target, r.arg.toNat) }
        let t := if s.targetState r.target = .downloading ∨ (targetEntry r.target).isNone then
            { t with store := t.store.freeSlot key }
          else t
        t.done r

/-- An invalid boot stage copy or firmware region in NOR. -/
def State.spoilNor (s : State) (k : Fin 4) : State :=
  { s with trust := { s.trust with romMeas := vmod s.trust.romMeas k fun _ => 0, romCode := vmod s.trust.romCode k fun _ => 0 } }

/-- The first byte of a download: the former content of the slot is given up, and downloading committed. -/
def State.beginTransfer (s : State) (t : BitVec 16) (key : SlotKey) (len : Nat) : State :=
  let s := { s with store := s.store.setSlot key (Slot.fresh len) }
  match targetEntry t with
  | some k => s.commitEntry k fun e =>
      { e with state := .downloading, other := 0, otherVersion := 0, switch := 0, onRequest := false, preload := false }
  | none =>
    if t = 0x100 then
      (if s.fwRegion then (s.spoilNor 3).commit fun r => { r with fw := .f1Updating }
       else (s.spoilNor 2).commit fun r => { r with fw := .f0Updating })
    else s

/-- The first byte of a download has still to come. -/
def State.notBegun (s : State) (t : BitVec 16) (key : SlotKey) : Bool :=
  (s.store.slot? key).isNone || ((targetEntry t).isSome && decide (s.targetState t ≠ .downloading))

/-- DOWNLOAD_DATA: bytes of the container at an offset, for the download that this session began. -/
def State.downloadDataOp (s : State) (r : MaintReq) : State :=
  s.request r fun s =>
    if s.trust.sess.num ≠ some r.session then s.finish r 4 []
    else match s.trust.sess.download, s.downKey r.target with
      | some (t, len), some key =>
        if t ≠ r.target ∨ len = 0 ∨ !s.storeUp then s.finish r 6 []
        else if r.arg.toNat % 32 ≠ 0 ∨ r.body.isEmpty ∨ len < r.arg.toNat + r.body.length then s.finish r 7 []
        else
          let s := if s.notBegun t key then s.beginTransfer t key len else s
          let c := (s.store.slot? key).getD (Slot.fresh len)
          ({ s with store := s.store.setSlot key (c.put r.arg.toNat r.body) }).done r
      | _, _ => s.finish r 6 []

/-- DOWNLOAD_END: the slot is written and flushed, and downloaded committed. -/
def State.downloadEndOp (s : State) (r : MaintReq) : State :=
  s.request r fun s =>
    if s.trust.sess.num ≠ some r.session then s.finish r 4 []
    else match s.trust.sess.download, (s.downKey r.target).bind fun k => (s.store.slot? k).map fun c => (k, c) with
      | some (t, len), some (key, c) =>
        if t ≠ r.target ∨ len = 0 ∨ s.notBegun t key ∨ !s.storeUp then s.finish r 6 []
        else
          let s := { s with store := s.store.setSlot key { c with written := true } }
          let s := s.onSess fun x => { x with download := some (t, 0) }
          let s := match targetEntry t with
            | some k => s.commitEntry k fun e => { e with state := .downloaded }
            | none => s
          s.done r
      | _, _ => s.finish r 6 []

/-! ## Verification (R328, R334, R336) -/

/-- VERIFY: in a window, or in the session of the download; it runs until VERIFICATION_END. -/
def State.verifyReqOp (s : State) (r : MaintReq) : State :=
  s.request r fun s =>
    let own := decide (s.trust.sess.num = some r.session) && (match s.trust.sess.download with
      | some (t, _) => decide (t = r.target)
      | none => false)
    if !own ∧ s.admitStatus r ≠ 0 then s.finish r (s.admitStatus r) []
    else match (s.downKey r.target).bind s.store.slot? with
      | none => s.finish r (if (s.downKey r.target).isNone then 7 else 6) []
      | some c =>
        let ready := match targetEntry r.target with
          | some k => decide ((s.entryAt k).state = .downloaded)
          | none => true
        if !c.written ∨ !ready ∨ !s.storeUp ∨ s.trust.sess.busy.isSome then s.finish r 6 []
        else s.onSess fun x => { x with busy := some r }

/-- Images of a fold that its entry binds as active or as candidate. -/
def State.boundImages (s : State) (f : FoldNo) : List Slot :=
  let e := s.entry f
  let other := decide (e.state = .staged ∨ e.state = .activating ∨ e.state = .confirming)
  ((match e.active with | some b => [b] | none => []) ++ (if other then [e.otherSlot] else [])).filterMap fun b => s.container (foldEntry f) b

/-- Regions of two images meet. -/
def FoldImage.meets (i j : FoldImage) : Bool := i.regions.any fun a => j.regions.any fun b => a.meets b

/-- Every frame that a fold routes to a port appears exactly once in that port's drain order (R314). -/
def ModuleSection.drainsOk (m : ModuleSection) (f : FoldNo) (i : FoldImage) : Bool :=
  let once := fun (d : List (FoldNo × Nat)) (e : FrameRec) => decide ((d.filter fun x => decide (x = (f, e.frame))).length = 1)
  i.frames.all fun e => (decide (e.port = 1) || once m.drain0 e) && (decide (e.port = 0) || once m.drain1 e)

/-- A fold image keeps its own rules and those it shares with a module section. -/
def ModuleSection.fits (m : ModuleSection) (f : FoldNo) (c : Slot) : Bool :=
  match m.allots.find? fun a => decide (a.fold = f) with
  | some a => decide (c.image.tag = a.tag) && c.foldRulesOk m a && m.drainsOk f c.image
  | none => true

/-- First failed check of a candidate fold section, in the order of R328; 0 when every one passes. -/
def State.foldCheck (s : State) (f : FoldNo) (c : Slot) : Nat :=
  match s.sec?, s.folds[f].allot with
  | some m, some a =>
    let i := c.image
    if !c.formOk ∨ c.kind ≠ 2 ∨ c.fold ≠ f.val ∨ i.tag ≠ a.tag then 1
    else if !c.sound then 2
    else if !c.foldRulesOk m a ∨ !m.drainsOk f i then 3
    else if s.healthyCores < m.groupSize ∨ !(i.pens.all fun p => decide (p.worst + 1 ≤ 1920 * m.period)) then 4
    else if (List.finRange 32).any fun g => decide (g ≠ f) && (s.boundImages g).any fun d => i.meets d.image then 5
    else 0
  | _, _ => 1

/-- First failed check of a candidate module section; every fold's active and staged image is checked against it. -/
def State.moduleCheck (s : State) (c : Slot) : Nat :=
  let m := c.moduleSection
  if !c.formOk ∨ c.kind ≠ 1 then 1
  else if !c.sound then 2
  else if !c.moduleRulesOk ∨ !((List.finRange 32).all fun f => (s.boundImages f).all fun d => m.fits f d) then 3
  else if s.usable.length < m.groupSize then 4
  else 0

/-- First failed check of firmware (kind 3) or of a boot stage (kind 4). -/
def Slot.programCheck (c : Slot) (kind : Nat) : Nat :=
  let running := Config.mirrorFormat
  if !c.formOk ∨ c.kind ≠ kind then 1
  else if !c.sound then 2
  else if kind = 3 ∧ !(c.num 49 1 ≤ running ∧ running ≤ c.num 48 1) then 3
  else 0

/-- A NOR copy or region holds an accepted container. -/
def State.writeNor (s : State) (k : Fin 4) (c : Slot) : State :=
  { s with trust := { s.trust with romMeas := vmod s.trust.romMeas k fun _ => c.measure
                                   romCode := vmod s.trust.romCode k fun _ => s.acceptCode (norKind k.val) 0 c.measure } }

/-- Verified firmware: its trailer is written, and the supervisor of its region restarts (Table 14.16). -/
def State.acceptFirmware (s : State) (c : Slot) : State :=
  if s.fwRegion then { s.writeNor 3 c with supB := { s.supB with state := .restarting } }
  else ({ s.writeNor 2 c with supA := { s.supA with state := .restarting } }).commit fun t => { t with fw := .idle }

/-- A verified candidate: trailer, and staged committed; it waits for an activation. -/
def State.acceptCandidate (s : State) (k : Fin 33) (key : SlotKey) (c : Slot) : State :=
  let s := { s with store := s.store.setSlot key { c with trailer := some (s.codeOf c) } }
  s.commitEntry k fun e =>
    { e with state := .staged, onRequest := true, preload := false, switch := 0, other := c.measure, otherVersion := c.version
             confirm := if k.val < 32 then c.image.confirm else 0 }

/-- The first failed check of a target's container. -/
def State.targetCheck (s : State) (t : BitVec 16) (c : Slot) : Nat :=
  match targetFold t with
  | some f => s.foldCheck f c
  | none => if t = 0xFF then s.moduleCheck c else if t = 0x100 then c.programCheck 3 else c.programCheck 4

/-- What an accepted container of a target becomes. -/
def State.acceptTarget (s : State) (t : BitVec 16) (key : SlotKey) (c : Slot) : State :=
  match targetEntry t with
  | some k => s.acceptCandidate k key c
  | none => if t = 0x100 then s.acceptFirmware c else (s.writeNor 0 c).writeNor 1 c

/-- VERIFICATION_END: every check has been made. A failure names the first failed check, leaves a candidate downloaded,
and ends a firmware update. -/
def State.verificationEndOp (s : State) : State :=
  match s.trust.sess.busy with
  | none => s
  | some r =>
    let s := s.onSess fun x => { x with busy := none }
    match (s.downKey r.target).bind fun k => (s.store.slot? k).map fun c => (k, c) with
    | none => s.finish r 6 []
    | some (key, c) =>
      let n := s.targetCheck r.target c
      if !s.storeUp then s.finish r 6 []
      else if n = 0 then (s.acceptTarget r.target key c).done r
      else
        let s := if r.target = 0x100 then s.commit fun t => { t with fw := .idle } else s
        let s := s.log1 0x0E02 (targetFold r.target) none none (leBytes r.op.toNat 1 ++ leBytes r.target.toNat 2 ++ leBytes n 1)
        s.finish r 8 [BitVec.ofNat 8 n]

/-! ## Activation, revert, withdraw, hold (R329 to R332, R335, R370) -/

/-- The fold of an entry is a member of a multi-module fold, by the candidate in its other slot. -/
def State.entryMulti (s : State) (k : Fin 33) : Bool := s.candidateMulti k

/-- An activation of a staged entry: of one module it commits activating with its switch tick; of a member it permits
the report of R335 from a tick on. A first module section has no tick to wait for and runs at once (DESIGN CHOICE, assumption 37). -/
def State.activate (s : State) (k : Fin 33) (tick : Nat) (preload : Bool) : State :=
  if s.entryMulti k then
    s.commitEntry k fun e => { e with onRequest := false, switch := tick, preload := preload }
  else if s.sec?.isNone then
    (s.commitEntry k fun e => { e with state := .confirming, attempts := 1, switch := 0, onRequest := false }).continueBoot
  else
    s.commitEntry k fun e =>
      { e with state := .activating, onRequest := false, preload := preload, switch := max tick (s.switchAfter s.tick.number.toNat) }

/-- Preload is asked for and the candidate's regions meet those of its own active image (R328). -/
def State.preloadClash (s : State) (k : Fin 33) : Bool :=
  match (s.entryAt k).active.bind fun b => s.container k b, s.container k (s.entryAt k).otherSlot with
  | some a, some c => c.image.meets a.image
  | _, _ => false

/-- The three activation requests: `mode` 0 immediate, 1 at a tick, 2 on a later request. -/
def State.activateOp (s : State) (r : MaintReq) (mode : Nat) : State :=
  s.inWindow r fun s =>
    match targetEntry r.target with
    | none => s.finish r 7 []
    | some k =>
      let preload := bitOf r.arg 55
      let tick := fld r.arg 0 48
      if fld r.arg 56 8 ≠ mode then s.finish r 7 []
      else if (s.entryAt k).state ≠ .staged then s.finish r 6 []
      else if preload ∧ s.preloadClash k then s.finish r 8 [5]
      else
        let s := match targetFold r.target with
          | some f => s.retryFenced f
          | none => s
        if mode = 2 then (s.commitEntry k fun e => { e with onRequest := true, preload := preload }).done r
        else (s.activate k (if mode = 1 then tick else 0) preload).done r

/-- REVERT: an idle entry activates its other slot; a confirming one goes back to its active image. -/
def State.revertReqOp (s : State) (r : MaintReq) : State :=
  s.inWindow r fun s =>
    match targetEntry r.target with
    | none => s.finish r 7 []
    | some k =>
      let e := s.entryAt k
      let s := match targetFold r.target with
        | some f => s.retryFenced f
        | none => s
      if e.state = .idle ∧ e.other ≠ 0 ∧ (s.container k e.otherSlot).isSome then
        let c := ((s.container k e.otherSlot).map fun c => if k.val < 32 then c.image.confirm else 0).getD 0
        let s := s.commitEntry k fun e => { e with state := .staged, confirm := c, switch := 0 }
        (s.activate k 0 false).done r
      else if e.state = .confirming then (s.commitEntry k fun e => { e with state := .reverting }).done r
      else s.finish r 6 []

/-- HOLD_STOP: held stopped is committed; the fold stops at the next tick instant. -/
def State.holdStopOp (s : State) (r : MaintReq) : State :=
  s.inWindow r fun s =>
    match targetFold r.target with
    | some f => if bitOf r.arg 0 then (s.commitEntry (foldEntry f) fun e => { e with held := true }).done r else s.finish r 7 []
    | none => s.finish r 7 []

/-- HOLD_RELEASE: the hold is given up; a fenced fold makes one new attempt (R370). -/
def State.holdReleaseOp (s : State) (r : MaintReq) : State :=
  s.inWindow r fun s =>
    match targetFold r.target with
    | some f =>
      if bitOf r.arg 0 then s.finish r 7 []
      else ((s.commitEntry (foldEntry f) fun e => { e with held := false }).retryFenced f).done r
    | none => s.finish r 7 []

/-- A decision of this tick announces the switch tick of the fold of an entry (R332, R335). -/
def State.announced (s : State) (k : Fin 33) : Bool :=
  if h : k.val < 32 then
    (s.folds[k.val].fromShepherd.toList ++ s.folds[k.val].fromDeputy.toList).any fun d => d.announced && decide (d.tick = s.tick.number)
  else false

/-- A withdraw is accepted in the present state of an entry (R332): of an activating one up to one tick before its switch, of a
member's only while no switch tick is announced. -/
def State.canWithdraw (s : State) (k : Fin 33) : Bool :=
  let e := s.entryAt k
  match e.state with
  | .downloading => true
  | .downloaded => true
  | .staged => !(s.entryMulti k && s.announced k)
  | .activating => !s.entryMulti k && decide (s.tick.number.toNat + 1 ≤ e.switch)
  | _ => false

/-- WITHDRAW: the candidate is given up, and the active image keeps running. -/
def State.withdrawOp (s : State) (r : MaintReq) : State :=
  s.inWindow r fun s =>
    match targetEntry r.target with
    | none => s.finish r 7 []
    | some k =>
      if s.canWithdraw k then
        let key : SlotKey := (k.val, (s.entryAt k).otherSlot)
        let s := s.onSess fun x => { x with
          download := match x.download with
            | some d => if d.1 = r.target then none else some d
            | none => none
          busy := match x.busy with
            | some b => if b.target = r.target then none else some b
            | none => none }
        let s := { s with store := s.store.freeSlot key }
        let s := match targetFold r.target with
          | some f => s.onFold f fun x => { x with preloaded := false }
          | none => s
        (s.commitEntry k TackEntry.giveUp).done r
      else s.finish r 6 []

/-! ## Other requests -/

/-- RE_LOCK: every fold restarts on the new tick source at its next instant (R23). -/
def State.relockReqOp (s : State) (r : MaintReq) : State :=
  s.inWindow r fun s => ({ s with tick := { s.tick with relock := true } }).done r

/-- REPLAY_ON: the fold takes its inputs from the feed from now on (R220). -/
def State.replayOnOp (s : State) (r : MaintReq) : State :=
  s.inWindow r fun s =>
    match targetFold r.target with
    | some f =>
      if !bitOf r.arg 0 then s.finish r 7 []
      else if s.folds[f].allot.isNone then s.finish r 6 []
      else (s.onFold f fun x => { x with replay := { x.replay with
        on := true, delta := 0, feed := [], taken := 0, queue := [], begun := false, complete := true } }).done r
    | none => s.finish r 7 []

/-- REPLAY_OFF: the fold takes its live inputs again. -/
def State.replayOffOp (s : State) (r : MaintReq) : State :=
  s.inWindow r fun s =>
    match targetFold r.target with
    | some f =>
      if bitOf r.arg 0 then s.finish r 7 []
      else if s.folds[f].allot.isNone then s.finish r 6 []
      else (s.onFold f fun x => { x with replay := { x.replay with
        on := false, delta := 0, feed := [], taken := 0, queue := [], begun := false, complete := true } }).done r
    | none => s.finish r 7 []

/-- DEBUG_ENABLE: the next debug fuse of the fold is blown and its key erased (R355). -/
def State.debugOnOp (s : State) (r : MaintReq) : State :=
  s.inWindow r fun s =>
    match targetFold r.target with
    | some f =>
      if !bitOf r.arg 0 then s.finish r 7 []
      else if 16 ≤ s.trust.debugCount[f] ∨ s.folds[f].debug then s.finish r 6 []
      else
        let s := { s with trust := { s.trust with
          debugCount := vmod s.trust.debugCount f fun n => n + 1, keyErased := vmod s.trust.keyErased f fun _ => true } }
        (s.onFold f fun x => { x with debug := true }).done r
    | none => s.finish r 7 []

/-- DEBUG_DISABLE: debug ends, and a fold key with the new debug count is derived. -/
def State.debugOffOp (s : State) (r : MaintReq) : State :=
  s.inWindow r fun s =>
    match targetFold r.target with
    | some f =>
      if bitOf r.arg 0 then s.finish r 7 []
      else
        let s := { s with trust := { s.trust with keyErased := vmod s.trust.keyErased f fun _ => false } }
        (s.onFold f fun x => { x with debug := false }).done r
    | none => s.finish r 7 []

/-- Largest answer of a debug read. -/
def debugMax : Nat := 4096

/-- Bytes of a space of a core (Table 12.2): pasture, accumulator, gates. -/
def State.spaceBytes (s : State) (f : FoldNo) (p l : CoreNo) (space off len : Nat) : Option (List Byte) :=
  let c := s.cores[p]
  if space = 0 then
    (match s.regionOf f l off, s.regionOf f l (off + len - 1) with
     | some _, some _ => some (c.pasture.bytes off len)
     | _, _ => none)
  else if space = 1 then (if off + len ≤ 0x884100 then some ((c.accSpace s.now off len).map fun b => b.1) else none)
  else if space = 2 then
    (if off + len ≤ 0x100 then
      some (((c.gates.toList.flatMap fun g => leBytes (match g.queue with | h :: _ => h.1.toWord.toNat | [] => 0) 4).drop off).take len)
     else none)
  else none

/-- A debug read served: the bytes that it names of a core of a fold under debug. -/
def State.serveDebug (s : State) (r : MaintReq) (f : FoldNo) : State :=
  let l := hCore r.arg
  if !s.folds[f].debug then s.finish r 6 []
  else match (s.phys l).bind fun p => s.spaceBytes f p l (hSpace r.arg) (hOff r.arg) (beAt r.body 0 4) with
    | some bs => s.finish r 0 bs
    | none => s.finish r 7 []

/-- DEBUG_READ: of a core of a fold under debug, served in the reserve; where no ticks run it is served at once (DEDUCED,
assumption 44). -/
def State.debugReadOp (s : State) (r : MaintReq) : State :=
  s.inWindow r fun s =>
    match targetFold r.target with
    | none => s.finish r 7 []
    | some f =>
      let len := beAt r.body 0 4
      if !s.folds[f].debug then s.finish r 6 []
      else if r.body.length ≠ 4 ∨ len = 0 ∨ debugMax < len ∨ hModule r.arg ≠ s.hallNo ∨ !zeros r.arg 31 12 then s.finish r 7 []
      else if !(s.coresOf f).contains (hCore r.arg) then s.finish r 7 []
      else if s.ticks then s.keepRead r
      else s.serveDebug r f

/-- Bytes that one core gives debug reads in a tick (R355). -/
def debugBudget : Nat := 65536

/-- One request that waited for the reserve; `used` holds what each core has given in it. A debug read beyond the 64 KiB of its
core waits for a later reserve. -/
def State.serveRead (a : State × List Nat) (r : MaintReq) : State × List Nat :=
  match decide (r.op = 0x10), targetFold r.target with
  | true, _ => (a.1.attestNow r, a.2)
  | false, some f =>
    let l := (hCore r.arg).val
    let len := beAt r.body 0 4
    if a.2.getD l 0 + len ≤ debugBudget then (a.1.serveDebug r f, a.2.set l (a.2.getD l 0 + len)) else (a.1.keepRead r, a.2)
  | false, none => a

/-- The requests that wait for the reserve are served in the order in which they came (R355, R358). -/
def State.serveReads (s : State) : State :=
  (s.trust.sess.reads.foldl State.serveRead (s.onSess fun x => { x with reads := [] }, List.replicate 32 0)).1

/-- How a dump is exported: 0 verified or never sealed, 1 its tag fails, 2 its key is destroyed; and its bytes (R354,
R355) (DESIGN CHOICE, assumption 38). -/
def State.openDump (s : State) (bs : List Byte) : Nat × List Byte :=
  if (bs.getD 1 0).toNat.testBit 7 then
    let head := sliceD 0 bs 0 256
    let tag : BitVec 128 := BitVec.ofNat 128 (beAt head 144 16)
    let aad := sliceD 0 head 0 144 ++ List.replicate 16 0 ++ sliceD 0 head 160 96
    let f : FoldNo := Fin.ofNat 32 (leAt bs 2 1)
    let key := s.foldKey f (BitVec.ofNat 16 (leAt bs 4 2)) (BitVec.ofNat 384 (beAt bs 32 48))
    match gcmOpen (BitVec.ofNat 256 (beNat key)) (BitVec.ofNat 96 (leAt bs 8 4)) aad (bs.drop 256) tag with
    | some clear => (0, head ++ clear)
    | none => (if s.trust.keyErased[f] || decide (0 < s.trust.debugCount[f]) then 2 else 1, bs)
  else (0, bs)

/-- Bytes cut into bodies of at most a length; `n` bounds their number. -/
def bodies (len : Nat) (bs : List Byte) : Nat → List (List Byte)
  | 0 => []
  | n + 1 => if bs.isEmpty then [] else bs.take len :: bodies len (bs.drop len) n

/-- DUMP_EXPORT: the dump in consecutive answers, the first body opened by how it was exported (DESIGN CHOICE, assumption 38). -/
def State.dumpExportOp (s : State) (r : MaintReq) : State :=
  s.inWindow r fun s =>
    match s.store.dumps.find? fun d => decide (d.2.1 = r.arg.toNat) with
    | none => s.finish r 6 []
    | some d =>
      if !s.storeUp then s.finish r 6 []
      else
        let x := s.openDump d.2.2
        let bs := BitVec.ofNat 8 x.1 :: x.2
        (bodies bodyMax bs (bs.length / bodyMax + 1)).foldl (fun (s : State) b => s.finish r 0 b) s

/-- LOG_CLEAR (R379). -/
def State.logClearOp (s : State) (r : MaintReq) : State := s.inWindow r fun s => s.clearLog.done r

/-- KEY_CHANGE: the next generation fuse is blown; every port retrains at the next instant (R353). -/
def State.keyChangeOp (s : State) (r : MaintReq) : State :=
  s.inWindow r fun s =>
    if 15 ≤ s.trust.generation then s.finish r 6 []
    else ({ s with trust := { s.trust with generation := s.trust.generation + 1, retrain := true } }).done r

/-- ADOPT_SSD: an SSD without this module's fingerprint is formatted and resynchronised (R337). -/
def State.adoptOp (s : State) (r : MaintReq) : State :=
  s.inWindow r fun s =>
    let n : SsdNo := if bitOf r.arg 0 then 1 else 0
    if s.store.ssds[n].present && !s.inStep n then (s.adopt n).done r else s.finish r 6 []

/-- A status write (R356, R417, R445): a tally selection or a user tag inside a window; a write of any other register is
counted, and refused in the present state where a window is open. -/
def State.statusWriteOp (s : State) (w : StatusWrite) : State :=
  match w with
  | .i3c addr v => s.i3cWrite addr v
  | .maint r => s.request r fun s =>
    let n := s.admitStatus r
    let s := if s.writable r.arg.toNat then s else s.countRefusedWrite
    if n ≠ 0 then s.finish r n []
    else if r.body.length ≠ 4 then s.finish r 7 []
    else match s.putStatus r.arg.toNat (BitVec.ofNat 32 (beAt r.body 0 4)) with
      | some t => t.done r
      | none => s.finish r 6 []

/-! ## Meanings -/

def execOpenSession (r : MaintReq) (s : State) : Host.Outcome State Fault Refusal := .next (s.openOp r)
def execCloseSession (r : MaintReq) (s : State) : Host.Outcome State Fault Refusal := .next (s.closeOp r)
def execSessionTimeout (s : State) : Host.Outcome State Fault Refusal := .next s.sessionTimeoutOp
def execMaintInProgressAnswer (s : State) : Host.Outcome State Fault Refusal := .next s.inProgressOp
def execAttestation (r : MaintReq) (s : State) : Host.Outcome State Fault Refusal := .next (s.attestationOp r)
def execStatusRead (r : MaintReq) (s : State) : Host.Outcome State Fault Refusal := .next (s.statusReadOp r)
def execLogRead (r : MaintReq) (s : State) : Host.Outcome State Fault Refusal := .next (s.logReadOp r)
def execDownloadBegin (r : MaintReq) (s : State) : Host.Outcome State Fault Refusal := .next (s.downloadBeginOp r)
def execDownloadData (r : MaintReq) (s : State) : Host.Outcome State Fault Refusal := .next (s.downloadDataOp r)
def execDownloadEnd (r : MaintReq) (s : State) : Host.Outcome State Fault Refusal := .next (s.downloadEndOp r)
def execVerify (r : MaintReq) (s : State) : Host.Outcome State Fault Refusal := .next (s.verifyReqOp r)
def execVerificationEnd (s : State) : Host.Outcome State Fault Refusal := .next s.verificationEndOp
def execActivateImmediate (r : MaintReq) (s : State) : Host.Outcome State Fault Refusal := .next (s.activateOp r 0)
def execActivateAtTick (r : MaintReq) (s : State) : Host.Outcome State Fault Refusal := .next (s.activateOp r 1)
def execActivateDeferred (r : MaintReq) (s : State) : Host.Outcome State Fault Refusal := .next (s.activateOp r 2)
def execRevert (r : MaintReq) (s : State) : Host.Outcome State Fault Refusal := .next (s.revertReqOp r)
def execHoldStop (r : MaintReq) (s : State) : Host.Outcome State Fault Refusal := .next (s.holdStopOp r)
def execHoldRelease (r : MaintReq) (s : State) : Host.Outcome State Fault Refusal := .next (s.holdReleaseOp r)
def execWithdraw (r : MaintReq) (s : State) : Host.Outcome State Fault Refusal := .next (s.withdrawOp r)
def execReLock (r : MaintReq) (s : State) : Host.Outcome State Fault Refusal := .next (s.relockReqOp r)
def execReplayOn (r : MaintReq) (s : State) : Host.Outcome State Fault Refusal := .next (s.replayOnOp r)
def execReplayOff (r : MaintReq) (s : State) : Host.Outcome State Fault Refusal := .next (s.replayOffOp r)
def execDebugEnable (r : MaintReq) (s : State) : Host.Outcome State Fault Refusal := .next (s.debugOnOp r)
def execDebugDisable (r : MaintReq) (s : State) : Host.Outcome State Fault Refusal := .next (s.debugOffOp r)
def execDebugRead (r : MaintReq) (s : State) : Host.Outcome State Fault Refusal := .next (s.debugReadOp r)
def execDumpExport (r : MaintReq) (s : State) : Host.Outcome State Fault Refusal := .next (s.dumpExportOp r)
def execLogClear (r : MaintReq) (s : State) : Host.Outcome State Fault Refusal := .next (s.logClearOp r)
def execKeyChange (r : MaintReq) (s : State) : Host.Outcome State Fault Refusal := .next (s.keyChangeOp r)
def execAdoptSsd (r : MaintReq) (s : State) : Host.Outcome State Fault Refusal := .next (s.adoptOp r)
def execTallySelWrite (w : StatusWrite) (s : State) : Host.Outcome State Fault Refusal := .next (s.statusWriteOp w)
def execUserTagWrite (w : StatusWrite) (s : State) : Host.Outcome State Fault Refusal := .next (s.statusWriteOp w)
def execStatusWriteRefused (w : StatusWrite) (s : State) : Host.Outcome State Fault Refusal := .next (s.statusWriteOp w)
def execMaintUnknownOperation (r : MaintReq) (s : State) : Host.Outcome State Fault Refusal := .next (s.unknownOp r)
def execEntropyHealthFailure (s : State) : Host.Outcome State Fault Refusal := .next s.entropyFail
def execEntropyRecovered (s : State) : Host.Outcome State Fault Refusal := .next s.entropyBack
def execEntropyDrawTimeout (s : State) : Host.Outcome State Fault Refusal := .next s.drawTimeout

end Sys2Proof.Machine
end

