-- ==== Sys2Proof/Machine/Presence.lean ====
section
/-! DEFINITION. Physical presence: the bridle press, the seal loop, TACK_LOCK, presence windows and flock notices
(spec/15_trust_and_presence.md R346 to R351, R345, Tables 15.3 and 15.10). Causes of a presence event in the log are the
model's codes (DESIGN CHOICE, assumption 39). -/

namespace Sys2Proof.Machine

/-- The presence inputs and windows changed. -/
def State.onPres (s : State) (g : Presence → Presence) : State := { s with trust := { s.trust with pres := g s.trust.pres } }

/-- A presence event is logged with its cause (DESIGN CHOICE, assumption 39). -/
def State.logPresence (s : State) (cause : Nat) (detail : List Byte) : State :=
  s.log1 0x0E01 none none none (BitVec.ofNat 8 cause :: detail)

/-! ## Windows (R348, R349, R351) -/

/-- Microseconds of a window. -/
def windowMicros : Nat := 120000000

/-- A presence notice or close notice goes to every flock module with an Up copper port to this module. -/
def State.notifyFlock (s : State) (kind : Nat) (payload : List Byte) : State :=
  s.flockPeers.foldl (fun (s : State) m => s.sendMail none kind false m 0xFFFF 0 0 0 payload) s

/-- A window of 120 s opens, or the open one restarts. -/
def State.openPresence (s : State) (notice : Bool) : State :=
  let old := s.trust.pres.window
  let s := s.onPres fun x => { x with
    window := some (s.micros + windowMicros)
    byNotice := notice && (old.isNone || x.byNotice)
    windows := if old.isNone then x.windows + 1 else x.windows }
  let s := s.logPresence (b2n notice) []
  if s.isBellwether then s.notifyFlock 0x0E (beBytes s.tick.number.toNat 8) else s

/-- The open window closes for a cause; `early` when its 120 s have not ended. -/
def State.closePresence (s : State) (cause : Nat) (early : Bool) : State :=
  match s.trust.pres.window with
  | none => s
  | some _ =>
    let s := (s.onPres fun x => { x with window := none, byNotice := false }).logPresence cause []
    if early && s.isBellwether then s.notifyFlock 0x0F [] else s

/-- WINDOW_EXPIRY. -/
def State.expirePresence (s : State) : State :=
  match s.trust.pres.window with
  | none => s
  | some t => if t ≤ s.micros then s.closePresence 0x10 false else s

/-- First condition of R348 that does not hold, none when a window may open. -/
def State.pressBar (s : State) : Option Nat :=
  let x := s.trust.pres
  if !x.sealOpen then some 1 else if x.tackLock || x.fuse then some 2 else if x.discrepancy then some 3
  else if s.trust.life ≠ .branded then some 4 else none

/-- A valid press: the window opens, and in the first one boot stage and firmware are bound (R345); or it is refused,
counted and logged. -/
def State.validPress (s : State) : State :=
  match s.pressBar with
  | some k => (s.count 8 1).logPresence (0x20 + k) []
  | none => ((s.openPresence false).bindFirst).continueBoot

/-! ## The bridle (R347) -/

/-- Confirmed level of a bridle channel. -/
def Presence.level (x : Presence) : Chan → Bool
  | .a => x.bridleA
  | .b => x.bridleB

/-- A confirmed level, and the stamp of a release. -/
def Presence.change (x : Presence) (ch : Chan) (down : Bool) (stamp : Nat) : Presence :=
  match ch with
  | .a => { x with bridleA := down, relA := if down then x.relA else some stamp }
  | .b => { x with bridleB := down, relB := if down then x.relB else some stamp }

/-- No press in progress. -/
def Presence.noPress (x : Presence) : Presence := { x with press := none, pressed := false, released := none }

/-- Largest distance of two stamps of one press or release, in µs. -/
def pairMicros : Nat := 50000

/-- What a confirmed change to pressed does to the press in progress: `true` with it when the press becomes valid. -/
def Presence.down (x : Presence) (ch : Chan) (stamp : Nat) : Presence × Bool :=
  let other := match ch with
    | .a => x.bridleB
    | .b => x.bridleA
  match x.press with
  | none => if other then (x, false) else ({ x with press := some (ch, stamp), pressed := false, released := none }, false)
  | some (c, t) =>
    if x.pressed ∨ c = ch ∨ t + pairMicros < stamp then (x, false) else ({ x with pressed := true }, true)

/-- What a confirmed release does: `true` with it for an incomplete press. -/
def Presence.up (x : Presence) (ch : Chan) (stamp : Nat) : Presence × Bool :=
  match x.press with
  | none => (x, false)
  | some (c, _) =>
    if x.pressed then
      (match x.released with
       | none => ({ x with released := some (ch, stamp) }, false)
       | some (d, t) => if d ≠ ch ∧ stamp ≤ t + pairMicros then (x.noPress, false) else (x, false))
    else if c = ch then (x.noPress, !(x.bridleA || x.bridleB))
    else (x, false)

/-- BRIDLE_CHANGE_CONFIRMED. A latched discrepancy clears when both channels are released. -/
def State.bridleOp (s : State) (ch : Chan) (down : Bool) (stamp : Nat) : State :=
  if !s.power.good then s
  else
    let s := s.onPres fun x => x.change ch down stamp
    if down then
      let r := s.trust.pres.down ch stamp
      let s := s.onPres fun _ => r.1
      if r.2 then s.validPress else s
    else
      let r := s.trust.pres.up ch stamp
      let s := s.onPres fun _ => r.1
      let s := if r.2 then s.count 7 1 else s
      s.onPres fun x => if x.discrepancy && !x.bridleA && !x.bridleB then { x.noPress with discrepancy := false } else x

/-- Time that a press or a release of one channel waits for the other one, in µs. -/
def waitMicros : Nat := 55000

/-- At a microsecond a press or a release of one channel has waited for the other one for 55,000 µs. -/
def Presence.disagrees (x : Presence) (micros : Nat) : Bool :=
  match x.press with
  | none => false
  | some (c, t) =>
    if x.pressed then (match x.released with
      | some (_, u) => decide (u + waitMicros ≤ micros)
      | none => false)
    else x.level c && decide (t + waitMicros ≤ micros)

/-- DISCREPANCY_TIMEOUT: the discrepancy fault latches and closes any open window. -/
def State.discrepancyOp (s : State) : State :=
  if s.trust.pres.disagrees s.micros then
    ((s.onPres fun x => { x.noPress with discrepancy := true }).logPresence 0x40 []).closePresence 0x12 true
  else s

/-! ## Seal loop and TACK_LOCK (R346, R350) -/

/-- SEAL_LOOP_CHANGE: logged with its stamp; an opening is counted, a closure closes an open window. -/
def State.sealOp (s : State) (isOpen : Bool) (stamp : Nat) : State :=
  if !s.power.good then s
  else
    let branded := decide (s.trust.life = .branded)
    let s := s.onPres fun x => { x with
      sealOpen := isOpen
      openings := if isOpen && !x.sealOpen && branded then x.openings + 1 else x.openings }
    let s := s.logPresence (0x30 + b2n isOpen) (leBytes stamp 8)
    if isOpen then s else s.closePresence 0x11 true

/-- A session ends with "locked": so is its verification answered (Table 15.10). -/
def State.lockSession (s : State) : State :=
  let s := match s.trust.sess.busy with
    | some r => (s.onSess fun x => { x with busy := none }).finish r 3 []
    | none => s
  s.endSession

/-- TACK_LOCK_CONFIRMED: once fitted, the fuse is blown and the module never opens a window again. -/
def State.tackLockOp (s : State) (fitted : Bool) : State :=
  if !s.power.good then s
  else if fitted then
    ((s.onPres fun x => { x with tackLock := true, fuse := true }).closePresence 0x13 true).lockSession
  else s.onPres fun x => { x with tackLock := false }

/-! ## Flock notices (R351) -/

/-- A notice arrived on a copper port whose peer hello carries the bellwether flag and this module's flock number. -/
def State.fromBellwether (s : State) (p : FabricPort) : Bool :=
  decide (p.val < 16) && (match s.fab[p].peer with
    | some h => h.bellwether && decide (flockOf h.hallModule = flockOf s.hallNo)
    | none => false)

/-- PRESENCE_NOTICE: the window of this module opens or restarts under the conditions of R351; brand lost has no window
(Table 15.10) (DESIGN CHOICE, assumption 39). -/
def State.noticeOp (s : State) (p : FabricPort) (m : MailMsg) : State :=
  s.onSupervisor m fun s => if s.fromBellwether p && s.pressBar.isNone then s.openPresence true else s

/-- PRESENCE_CLOSE_NOTICE: the window that a notice opened closes. -/
def State.closeNoticeOp (s : State) (p : FabricPort) (m : MailMsg) : State :=
  s.onSupervisor m fun s => if s.fromBellwether p && s.trust.pres.byNotice then s.closePresence 0x14 true else s

/-! ## Meanings -/

def execBridleChangeConfirmed (ch : Chan) (pressed : Bool) (stamp : Nat) (s : State) : Host.Outcome State Fault Refusal :=
  .next (s.bridleOp ch pressed stamp)
def execDiscrepancyTimeout (s : State) : Host.Outcome State Fault Refusal := .next s.discrepancyOp
def execSealLoopChange (isOpen : Bool) (stamp : Nat) (s : State) : Host.Outcome State Fault Refusal := .next (s.sealOp isOpen stamp)
def execTackLockConfirmed (fitted : Bool) (s : State) : Host.Outcome State Fault Refusal := .next (s.tackLockOp fitted)
def execWindowExpiry (s : State) : Host.Outcome State Fault Refusal := .next s.expirePresence
def execPresenceNotice (p : FabricPort) (m : MailMsg) (s : State) : Host.Outcome State Fault Refusal := .next (s.noticeOp p m)
def execPresenceCloseNotice (p : FabricPort) (m : MailMsg) (s : State) : Host.Outcome State Fault Refusal := .next (s.closeNoticeOp p m)

end Sys2Proof.Machine
end

