-- ==== Sys2Proof/Machine/Hardware.lean ====
section
/-! DEFINITION. REFCLK, the 1588 time receiver of a bellwether, its TICK_OUT, the heartbeat, the I3C address and the output
states (spec/19_module_hardware.md R430, R431 and R438, spec/13 R291, R292 and R299, spec/01 R19). -/

namespace Sys2Proof.Machine

/-! ## REFCLK (R430, Table 19.7) -/

/-- A loss or return of REFCLK is logged with every detail byte set. -/
def State.logRefclk (s : State) : State := s.log1 0x0605 none none none (List.replicate 20 0xFF)

/-- REFCLK_LOST: the synthesiser holds the clock, and every tick is a holdover tick from now on. -/
def State.refLostOp (s : State) : State :=
  if s.power.refLost.isSome then s
  else ({ s with power := { s.power with refLost := some s.now } }).logRefclk

/-- REFCLK_HOLDOVER_EXPIRED: the module is neither in tick lock nor in holdover, and folds stop at the next instant. -/
def State.refExpiredOp (s : State) : State :=
  if s.power.refLost.isNone then s
  else { s with power := { s.power with refExpired := true }
                tick := { s.tick with lock := false, holdover := false, agree := 0 } }

/-- REFCLK_RELOCK: after the limit of holdover tick lock begins afresh (R24). -/
def State.refRelockOp (s : State) : State :=
  if s.power.refLost.isNone then s
  else
    let old := s.power.refExpired
    let s := { s with power := { s.power with refLost := none, refExpired := false }
                      tick := if old then { s.tick with predicting := false, agree := 0 } else s.tick }
    s.logRefclk

/-! ## 1588 time (R19, R292) -/

/-- A message of the domain of this bellwether. -/
def State.ptpHears (s : State) (domain : BitVec 8) : Bool := match s.sec? with
  | some m => s.power.good && m.bellwether && decide (m.ptpDomain = domain)
  | none => false

/-- A message comes from the selected transmitter. -/
def State.ptpFrom (s : State) (source : BitVec 64) : Bool := match s.ptp.best with
  | some d => decide (d.identity = source)
  | none => false

/-- Twice the 1588 time in ns at a core cycle: origin time and path delay carried on by core cycles of 0.5 ns. -/
def Ptp.time2 (x : Ptp) (c : Nat) : Option Int := x.time.map fun t => 2 * ((t.1 : Int) + x.delay) + ((c : Int) - t.2)

/-- PTP_SYNC: a Sync is accepted, and gives the time at once when it is one-step (DEDUCED, assumption 29). -/
def State.syncOp (s : State) (domain : BitVec 8) (seq : BitVec 16) (source : BitVec 64) (twoStep : Bool) (origin rx : Nat) : State :=
  if s.ptpHears domain && s.ptpFrom source then
    { s with ptp := { s.ptp with
      syncAt := some s.now, lost := false
      pending := if twoStep then some (seq, source, rx) else none
      time := if twoStep then s.ptp.time else some (origin, rx) } }
  else s

/-- PTP_FOLLOW_UP: the origin time of the Sync that waits for it. -/
def State.followOp (s : State) (domain : BitVec 8) (seq : BitVec 16) (source : BitVec 64) (origin : Nat) : State :=
  match s.ptp.pending with
  | some (q, src, rx) =>
    if s.ptpHears domain ∧ s.ptpFrom source ∧ q = seq ∧ src = source then
      { s with ptp := { s.ptp with pending := none, time := some (origin, rx) } }
    else s
  | none => s

/-- PTP_DELAY_REQ_SEND: the receiver measures the path to the selected transmitter. -/
def State.delayReqOp (s : State) : State := match s.sec? with
  | some m =>
    if s.power.good ∧ m.bellwether ∧ s.ptp.best.isSome then
      { s with ptp := { s.ptp with delayReq := some (s.ptp.seq, s.now), seq := s.ptp.seq + 1 } }
    else s
  | none => s

/-- PTP_DELAY_RESP: half the sum of both ways, rounded down to a nanosecond. -/
def State.delayRespOp (s : State) (domain : BitVec 8) (seq : BitVec 16) (source : BitVec 64) (rxNs : Nat) : State :=
  match s.ptp.delayReq, s.ptp.time with
  | some (q, sent), some (origin, rx) =>
    if s.ptpHears domain ∧ s.ptpFrom source ∧ q = seq then
      { s with ptp := { s.ptp with delayReq := none, delay := (2 * ((rxNs : Int) - origin) - ((sent : Int) - rx)) / 4 } }
    else s
  | _, _ => s

/-- The data set of an Announce message as the default best master clock algorithm compares it. -/
def announceKey (d : AnnounceData) : List Nat :=
  [d.priority1.toNat, d.clockClass.toNat, d.accuracy.toNat, d.variance.toNat, d.priority2.toNat, d.identity.toNat]

/-- One list of numbers comes before another. -/
def before : List Nat → List Nat → Bool
  | a :: r, b :: t => decide (a < b) || (decide (a = b) && before r t)
  | _, _ => false

/-- PTP_ANNOUNCE: the better transmitter of the domain is selected; a new one has given no Sync yet. -/
def State.announceOp (s : State) (domain : BitVec 8) (d : AnnounceData) : State :=
  if !s.ptpHears domain then s
  else match s.ptp.best with
    | none => { s with ptp := { s.ptp with best := some d } }
    | some b =>
      if b.identity = d.identity then { s with ptp := { s.ptp with best := some d } }
      else if before (announceKey d) (announceKey b) then
        { s with ptp := { s.ptp with best := some d, pending := none, delayReq := none } }
      else s

/-- Cycles of 4 s. -/
def syncCycles : Nat := 8000000000

/-- TIME_SOURCE_LOSS: no Sync has been accepted for 4 s; corrections stop until the next one (DEDUCED, assumption 29). -/
def State.sourceLossOp (s : State) : State :=
  if s.isBellwether ∧ !s.ptp.lost ∧ s.ptp.syncAt.getD s.power.goodAt + syncCycles ≤ s.now then
    (({ s with ptp := { s.ptp with lost := true } }).count 6 1).log1 0x0605 none none none []
  else s

/-- PPS_IN_EDGE: the offset of the pulse from the nearest 1588 second, in ns; none without 1588 time. -/
def State.ppsOp (s : State) : State :=
  { s with ptp := { s.ptp with pps := (s.ptp.time2 s.now).map fun t =>
      let r := t / 2 % 1000000000
      if r < 500000000 then r else r - 1000000000 } }

/-! ## TICK_OUT (R19, R20, R291) -/

/-- The instant that a bellwether places next, and its tick number: at first the next multiple of the period on 1588
time, or this very cycle when it is one, from then on one period of core cycles later, with the correction of R19. -/
def State.placeNext (s : State) (m : ModuleSection) : Option (Nat × BitVec 48) :=
  match s.tick.placed with
  | some c => some (((c + 2000 * m.period : Nat) + s.tick.correction : Int).toNat, s.tick.placedNumber + 1)
  | none => (s.ptp.time2 s.now).map fun t =>
      let p : Int := 2000 * m.period
      let n := if p = 0 then 0 else -(-t / p)
      (((s.now : Int) + (n * p - t)).toNat, BitVec.ofInt 48 n)

/-- TICK_OUT_SEND: the tick word of the next instant leaves the measured loop before that instant, and not earlier; a follower
does not drive TICK_OUT. -/
def State.tickOutOp (s : State) : State := match s.sec? with
  | some m =>
    if !m.bellwether ∨ !s.power.good ∨ s.power.bootStep < 3 then s
    else match s.placeNext m with
      | some (c, n) =>
        if c ≤ s.now + s.tick.loop.getD 0 then { s with tick := { s.tick with
          placed := some c, placedNumber := n, correction := 0, outAt := some s.now
          outWord := n ++ Config.bellwetherCode n.toNat } }
        else s
      | none => s
  | none => s

/-! ## Heartbeat and I3C -/

/-- First cycle of a tick in which HEARTBEAT_OUT toggles (R299). -/
def heartbeatFrom : Nat := 64

/-- HEARTBEAT_TOGGLE: once a fold has run, the level changes from cycle 64 of the tick on, once after every healthy tick. -/
def State.heartbeatOp (s : State) : State :=
  if s.power.good ∧ s.power.bootStep = 10 ∧ s.trust.life = .branded ∧ s.tick.healthy ∧ heartbeatFrom ≤ s.rel then
    { s with tick := { s.tick with heartbeat := !s.tick.heartbeat, healthy := false } }
  else s

/-- The provisional ID of the I3C target (R431): Imesk's manufacturer code, 1, and the first 32 bits of the brand
fingerprint. -/
def State.provisionalId (s : State) : BitVec 48 :=
  BitVec.ofNat 48 (Config.makerCode.toNat * 2 ^ 33 + 2 ^ 32 + s.trust.fingerprint.toNat / 2 ^ 352)

/-- I3C_ENTDAA: the target sends its provisional ID, and the controller assigns its dynamic address. -/
def State.entdaaOp (s : State) (addr : BitVec 7) : State := { s with i3c := some (addr, s.provisionalId) }

/-! ## Output states (R438, Table 19.9) -/

/-- Columns of Table 19.9. -/
inductive OutPhase where
  | unpowered
  | reset
  | boot
  | running
  | held
  deriving DecidableEq, Repr

/-- Level of an output pin. -/
inductive PinLevel where
  | highZ
  | low
  | high
  deriving DecidableEq, Repr

/-- What stands on TICK_OUT. -/
inductive TickOutPin where
  | highZ
  | steady
  | words
  deriving DecidableEq, Repr

/-- The outputs of the module; of an SSD clock and of a transmitter whether it runs. -/
structure Outputs where
  heartbeat : PinLevel
  /-- FAULT_N is asserted -/
  fault : Bool
  tickOut : TickOutPin
  /-- the I3C target answers -/
  i3c : Bool
  perst : Vector PinLevel 2
  ssdClk : Bool
  plant : Bool
  streams : Vector Bool 16
  fabric : Bool
  deriving DecidableEq, Repr

/-- The column of Table 19.9 in which the module stands: held in brand lost and while it runs mask ROM only (R345). -/
def State.outPhase (s : State) : OutPhase :=
  if !s.power.live then .unpowered
  else if s.power.good && (decide (s.trust.life = .brandLost) || !s.trust.bound) then .held
  else if s.power.bootStep < 3 then .reset
  else if s.power.bootStep < 10 then .boot
  else .running

/-- The outputs with nothing driven but FAULT_N, whose switch is normally on. -/
def Outputs.off : Outputs :=
  { heartbeat := .highZ, fault := true, tickOut := .highZ, i3c := false, perst := Vector.replicate 2 .highZ, ssdClk := false
    plant := false, streams := Vector.replicate 16 false, fabric := false }

/-- The outputs in reset, and those of a module that is held. -/
def Outputs.idle : Outputs := { Outputs.off with heartbeat := .low, i3c := true, perst := Vector.replicate 2 .low }

/-- The outputs of the module (Table 19.9). -/
def State.outputs (s : State) : Outputs :=
  let fw : Outputs := { Outputs.idle with
    tickOut := if !s.isBellwether then .highZ else if s.tick.placed.isSome then .words else .steady
    perst := s.store.ssds.map fun d => if d.perst then .high else .low
    ssdClk := true, plant := true, streams := s.st.map fun p => p.enabled, fabric := true }
  match s.outPhase with
  | .unpowered => Outputs.off
  | .reset => Outputs.idle
  | .held => Outputs.idle
  | .boot => fw
  | .running => { fw with heartbeat := if s.tick.heartbeat then .high else .low, fault := decide (s.faultCause ≠ 0) }

/-! ## Meanings -/

def execRefclkLost (s : State) : Host.Outcome State Fault Refusal := .next s.refLostOp
def execRefclkHoldoverExpired (s : State) : Host.Outcome State Fault Refusal := .next s.refExpiredOp
def execRefclkRelock (s : State) : Host.Outcome State Fault Refusal := .next s.refRelockOp
def execPtpSync (domain : BitVec 8) (seq : BitVec 16) (source : BitVec 64) (twoStep : Bool) (origin rx : Nat) (s : State) :
    Host.Outcome State Fault Refusal := .next (s.syncOp domain seq source twoStep origin rx)
def execPtpFollowUp (domain : BitVec 8) (seq : BitVec 16) (source : BitVec 64) (origin : Nat) (s : State) :
    Host.Outcome State Fault Refusal := .next (s.followOp domain seq source origin)
def execPtpDelayResp (domain : BitVec 8) (seq : BitVec 16) (source : BitVec 64) (rxNs : Nat) (s : State) :
    Host.Outcome State Fault Refusal := .next (s.delayRespOp domain seq source rxNs)
def execPtpAnnounce (domain : BitVec 8) (d : AnnounceData) (s : State) : Host.Outcome State Fault Refusal :=
  .next (s.announceOp domain d)
/-- Management and signalling messages are ignored (R292). -/
def execPtpOtherMessage (_domain : BitVec 8) (s : State) : Host.Outcome State Fault Refusal := .next s
def execPtpDelayReqSend (s : State) : Host.Outcome State Fault Refusal := .next s.delayReqOp
def execTimeSourceLoss (s : State) : Host.Outcome State Fault Refusal := .next s.sourceLossOp
def execPpsInEdge (s : State) : Host.Outcome State Fault Refusal := .next s.ppsOp
def execTickOutSend (s : State) : Host.Outcome State Fault Refusal := .next s.tickOutOp
def execHeartbeatToggle (s : State) : Host.Outcome State Fault Refusal := .next s.heartbeatOp
def execI3cEntdaa (addr : BitVec 7) (s : State) : Host.Outcome State Fault Refusal := .next (s.entdaaOp addr)

end Sys2Proof.Machine
end

