-- ==== Sys2Proof/Machine/Tick.lean ====
section
/-! DEFINITION. The tick: its words and their classification, what happens at an instant, tick lock and holdover, and the
reserve (spec/01_tick_and_schedule.md R11 to R30, and the rules that spec/95_what_each_step_holds.md places in
TICK_INSTANT and RESERVE_START). -/

namespace Sys2Proof.Machine

/-! ## Tick words (R16, Table 1.3) -/

/-- Tick number of a word. -/
def TickWord.number (w : TickWord) : BitVec 48 := BitVec.ofNat 48 (fld w.word 16 48)
/-- Plant code of a word. -/
def TickWord.code (w : TickWord) : BitVec 16 := BitVec.ofNat 16 (fld w.word 0 16)

/-- TICK_WORD_RECEIVED: a word whose cells all kept the code is the word of its channel for the coming instant. -/
def State.wordOp (s : State) (ch : Chan) (word : Word64) (codeOk : Bool) (edge : Nat) : State :=
  let w : Option TickWord := if codeOk then some { word := word, edge := edge } else none
  match ch with
  | .a => { s with tick := { s.tick with chA := w } }
  | .b => { s with tick := { s.tick with chB := w } }

/-! ## Classification (R22, Table 1.4) -/

/-- Two cycles at most a distance apart. -/
def edgesNear (a b n : Nat) : Bool := decide (a ≤ b + n) && decide (b ≤ a + n)

/-- A channel matches the predicted number and instant: within ±16 cycles. -/
def TickWord.fits (w : TickWord) (number : BitVec 48) (at_ : Nat) : Bool := decide (w.number = number) && edgesNear w.edge at_ 16

/-- The channels agree: equal words, edges at most 16 ns apart. -/
def TickWord.agrees (x y : TickWord) : Bool := decide (x.word = y.word) && edgesNear x.edge y.edge 32

/-- Row of Table 1.4, counted from 1 in its order, and the channel taken; none is taken in the holdover rows
(DEDUCED, assumption 11). Two cases stand in no row, and the model takes them to holdover (DESIGN CHOICE, assumption 53):
channels that disagree though both match are row 3, and channels that agree though only one edge lies within 16 cycles of
the prediction are row 5. -/
def judge (number : BitVec 48) (at_ : Nat) (a b : Option TickWord) : Nat × Option TickWord :=
  match a, b with
  | none, none => (6, none)
  | some x, none => if x.fits number at_ then (4, some x) else (3, none)
  | none, some y => if y.fits number at_ then (4, some y) else (3, none)
  | some x, some y =>
    if x.agrees y then (if x.fits number at_ && y.fits number at_ then (1, some x) else (5, none))
    else
      match x.fits number at_, y.fits number at_ with
      | true, false => (2, some x)
      | false, true => (2, some y)
      | _, _ => (3, none)

/-- The word on which both channels agree. -/
def Tick.agreed (t : Tick) : Option TickWord :=
  match t.chA, t.chB with
  | some x, some y => if x.agrees y then some x else none
  | _, _ => none

/-- The tick taken from a word (DEDUCED, assumption 11). -/
def Tick.take (t : Tick) (w : TickWord) : Tick :=
  { t with number := w.number, instant := w.edge, code := w.code, lastCode := w.code, predicting := true, holdoverTick := false }

/-- A holdover tick: predicted cycle, next number, last valid code (R23). -/
def Tick.hold (t : Tick) (at_ : Nat) : Tick :=
  { t with number := t.number + 1, instant := at_, code := t.lastCode, holdoverTick := true }

/-- Fault of a row is counted and logged with both words (Table 16.6). -/
def State.tickFault (s : State) (row : Nat) : State :=
  let bytes := fun (w : Option TickWord) => leBytes (match w with | some x => x.word.toNat | none => 0) 8
  let detail := bytes s.tick.chA ++ bytes s.tick.chB
  if row = 1 then s
  else
    (s.count (Fin.ofNat 12 (row - 1)) 1).log1 (if row = 5 then 0x0602 else if row = 6 then 0x0603 else 0x0601) none none none detail

/-- The instant placed (R19, R22, R23, R24): the tick as it begins, none when there is no tick to begin; a re-lock
takes the words on which both channels agree. A re-lock taken in holdover does not end it: the module stays in holdover
until 16 ticks agree and match (DESIGN CHOICE, assumption 53). -/
def State.placeInstant (s : State) : Option State :=
  let t := s.tick
  let at_ := t.instant + s.period
  let fresh := fun (s : State) => match t.agreed with
    | some w => some { s with tick := { (t.take w) with agree := 0, case := 1 } }
    | none => none
  if s.sec?.isNone ∨ !s.power.good then none
  else if !t.predicting then fresh s
  else if t.relock && t.agreed.isSome then fresh s
  else
    let j := judge (t.number + 1) at_ t.chA t.chB
    let s := s.tickFault j.1
    let agree := if j.1 = 1 then t.agree + 1 else 0
    let held := { (t.hold at_) with agree := agree, case := j.1, lock := false, holdover := true }
    if s.power.refExpired then some { s with tick := { (t.hold at_) with agree := 0, case := j.1, lock := false, holdover := false } }
    else if t.lock || t.holdover then
      (if s.power.refLost.isSome || t.holdover then some { s with tick := held }
       else match j.2 with
         | some w => some { s with tick := { (t.take w) with agree := agree, case := j.1 } }
         | none => some { s with tick := held })
    else match j.2 with
      | some w => some { s with tick := { (t.take w) with agree := agree, case := j.1 } }
      | none => match t.agreed with
        | some w => some { s with tick := { (t.take w) with agree := 0, case := j.1 } }
        | none => some { s with tick := { (t.hold at_) with agree := 0, case := j.1, predicting := false } }

/-! ## HOLDOVER_LEFT and TICK_LOCK_REACHED (R23, R24, R291) -/

/-- Consecutive ticks that agree and match. -/
def lockTicks : Nat := 16

/-- HOLDOVER_LEFT: not while REFCLK is lost (Table 19.7) (DEDUCED, assumption 12). -/
def State.holdoverLeftOp (s : State) : State :=
  if s.tick.holdover ∧ lockTicks ≤ s.tick.agree ∧ s.power.refLost.isNone then
    ({ s with tick := { s.tick with holdover := false, lock := true } }).log1 0x0604 none none none []
  else s

/-- A scheduled activation whose tick has passed at a boot is void: the candidate waits for a request (Table 14.14). -/
def TackEntry.voidPast (e : TackEntry) (tick : Nat) : TackEntry :=
  if e.state = .staged ∧ !e.onRequest ∧ e.switch ≠ 0 ∧ e.switch ≤ tick then { e with onRequest := true, switch := 0 } else e

/-- TICK_LOCK_REACHED: a bellwether measures the loop from its TICK_OUT to its own input (DEDUCED, assumption 12). -/
def State.tickLockOp (s : State) : State :=
  let t := s.tick
  if t.predicting ∧ !t.lock ∧ !t.holdover ∧ lockTicks ≤ t.agree ∧ !s.power.refExpired ∧ s.power.refLost.isNone then
    let loop := if s.isBellwether then t.outAt.map fun o => t.instant - o else none
    let s := { s with tick := { t with lock := true, loop := loop } }
    let past := s.tack.entries.map fun e => e.voidPast t.number.toNat
    if past = s.tack.entries then s else s.commit fun r => { r with entries := past }
  else s

/-! ## The tick that ends -/

/-- A fold's tick that ends: healthy ticks of a confirming fold (R331). -/
def State.endFoldTick (s : State) (f : FoldNo) : State :=
  let x := s.folds[f]
  if x.ran ∧ x.run = .running ∧ (s.entry f).state = .confirming ∧ !x.recov.overrun then
    s.onFold f fun x => { x with confirm := x.confirm + 1 }
  else s

/-- Correction of a bellwether for its next instant: one cycle towards 1588 time when it is more than 8 ns off (R19). -/
def State.correct (s : State) : State := match s.sec?, s.ptp.time2 s.tick.instant with
  | some m, some t =>
    let off := t - 2000 * m.period * s.tick.number.toNat
    if m.bellwether && s.ptpLocked then
      { s with tick := { s.tick with correction := if 16 < off then -1 else if off < -16 then 1 else 0 } }
    else s
  | _, _ => s

/-! ## The module section at an instant (R334) -/

/-- The role epochs of the logical cores that are not where they were advance (R206). -/
def State.advanceMoved (t : State) (was : List (Option CoreNo)) : State :=
  (List.finRange 32).foldl (fun (u : State) (l : CoreNo) =>
    if was.getD l.val none == t.phys l then u else u.advanceEpoch l) t

/-- The module goes on under a section: folds that it changes stop, and with another map the cores are mapped anew, and the
role epochs of the logical cores that moved advance (R206) (DEDUCED, assumption 27). -/
def State.switchSection (s : State) (m : ModuleSection) : State :=
  match s.sec? with
  | none => s
  | some old =>
    let hit := (List.finRange 32).filter fun f => old.stops m f
    let s := hit.foldl (fun (s : State) f =>
      if s.folds[f].run = .unallotted then s else (s.stopFold f).onFold f fun x => { x with recov := Recovery.reset }) s
    let s := s.useSection m
    let s := if old.bellwether ≠ m.bellwether then { s with tick := { s.tick with placed := none, correction := 0 } } else s
    if old.n ≠ m.n ∨ old.spare ≠ m.spare ∨ old.startCounts ≠ m.startCounts then
      let s := { s with rebuild := none, folds := s.folds.map fun (x : Fold) => { x with loaded := false } }
      (s.buildMap m).advanceMoved ((List.finRange 32).map s.phys)
    else s

/-- The entry of the module section at an instant: a candidate whose switch tick has come runs, and has no ticks to
wait for until it is confirmed at the next instant; a revert goes back to the active slot (DEDUCED, assumption 27). -/
def State.sectionInstant (s : State) : State :=
  let e := s.entryAt moduleEntry
  let section_ := fun (b : Bool) => (s.container moduleEntry b).map Slot.moduleSection
  if e.state = .confirming then s.commitEntry moduleEntry TackEntry.confirmed
  else if e.state = .activating ∧ e.switch ≤ s.tick.number.toNat then
    (match section_ e.otherSlot with
     | some m => (s.commitEntry moduleEntry fun e => { e with state := .confirming, attempts := 1 }).switchSection m
     | none => s)
  else if e.state = .reverting then
    let s1 := s.commitEntry moduleEntry fun e => { e with state := .idle, attempts := 0 }
    (match e.active.bind section_ with
     | some m => s1.switchSection m
     | none => s1)
  else s

/-! ## Pens at an instant (R29, R30, R274) -/

/-- Epochs of the other members advanced where a test says so (R269, R270). -/
def Fold.advancePeers (x : Fold) (ms : List (BitVec 12)) (pick : BitVec 12 → CoreNo → Bool) : Fold :=
  { x with peerEpochs := ms.flatMap fun m => (List.finRange 32).map fun (l : CoreNo) =>
      let e : BitVec 16 := match x.peerEpochs.find? fun e => decide (e.1 = m) && decide (e.2.1 = l) with
        | some e => e.2.2
        | none => 1
      (m, l, if pick m l then epochNext e else e) }

/-- Place of the table set of a logical core in the pen that its fold runs. -/
def State.tableSet (s : State) (f : FoldNo) (l : CoreNo) : Option Nat := (s.penCore f l).map fun e => e.tables

/-- The fold changes its pen: drover work that is left is cancelled, its epochs advance, the gates are those of the new pen,
so are the tables where its table set differs, and its UQ8 tensors begin again (R29, R61, R135, R174). -/
def State.changePen (s : State) (f : FoldNo) (pen : Nat) : State :=
  let was := s.tableSet f
  let s := s.cancelFold f
  let s := s.onFold f fun x => { x with epochs := x.epochs.map epochNext, sel := { x.sel with pen := pen } }
  (s.coresOf f).foldl (fun (s : State) l =>
    let s := (if s.tableSet f l = was l then s else s.loadTablesOn f l).loadGatesOn f l
    match s.phys l with
    | some p => s.onCore p fun c => s.restartTensorsOf f l c
    | none => s) s

/-- A running member acts on the decision: pen, epochs, announced switch, hurdle-all; without one it runs the degraded
pen and marks the results of the next tick. -/
def State.actDecision (s : State) (f : FoldNo) (i : FoldImage) (was : BitVec 48) : State :=
  let others := s.others i
  match s.folds[f].decided was with
  | some d =>
    let mask := fun (m : BitVec 12) => d.advances.getD (i.memberList.idxOf m) 0
    let s := s.onFold f fun x => x.advancePeers others fun m l => decide ((mask m).getLsbD l = true)
    let s := if d.changes then
        (s.changePen f d.pen).onFold f fun x => x.advancePeers others fun _ _ => true
      else s.onFold f fun x => { x with sel := { x.sel with pen := d.pen } }
    let e := s.entry f
    let s := if d.announced ∧ e.state = .staged then
        s.commitEntry (foldEntry f) fun e => { e with state := .activating, switch := d.switch }
      else s
    if d.hurdleAll then s.hurdle f 0x0505 [] else s
  | none =>
    let s := (s.changePen f i.degraded).onFold f fun x => x.advancePeers others fun _ _ => true
    s.onFold f fun x => { x with markAll := true }

/-- The pen of a running fold for the tick that begins; its dwell goes down by one, whichever pen runs, the thermal and
the degraded pen too (R28) (DESIGN CHOICE, assumption 53). -/
def State.penInstant (s : State) (f : FoldNo) (was : BitVec 48) : State :=
  let x := s.folds[f]
  match x.image with
  | none => s
  | some i =>
    if x.run ≠ .running then s
    else
      let s : State := if i.multi then s.actDecision f i was
        else if x.sel.next ≠ x.sel.pen then s.changePen f x.sel.next else s
      s.onFold f fun x => { x with sel := { x.sel with dwell := x.sel.dwell - 1 } }

/-! ## A fold at an instant -/

/-- A member that recovers from a hurdle sees another member fenced: it fences too (R372). -/
def State.peerFenced (s : State) (f : FoldNo) : Bool :=
  let x := s.folds[f]
  match x.image with
  | some i => i.multi && x.recov.hurdle.isSome && decide (x.run = .hurdled ∨ x.run = .waiting) &&
      (s.others i).any fun m => decide (x.peerRun m = some 6)
  | none => false

/-- The active image of a reverting fold has still to be loaded. -/
def State.mustRevert (s : State) (f : FoldNo) : Bool :=
  let e := s.entry f
  let x := s.folds[f]
  decide (e.state = .reverting) && (decide (e.active ≠ some x.slot) || decide (x.run = .running))

/-- The switch tick of an activating fold has come. -/
def State.mustSwitch (s : State) (f : FoldNo) : Bool :=
  let e := s.entry f
  decide (e.state = .activating) && decide (e.switch ≤ s.tick.number.toNat) && decide (e.switch ≠ 0)

/-- The fold restarts on the source of a re-lock at its first instant (R23). -/
def State.relockFold (s : State) (f : FoldNo) : State :=
  match s.folds[f].image with
  | some i => (((s.stopFold f).poisonDynamic i).reachWaiting f i).waitingInstant f
  | none => s

/-- A running fold: stopped without tick lock and holdover, or when it is held; switched, reverted, restarted. -/
def State.runningInstant (s : State) (f : FoldNo) (relock : Bool) : State :=
  if !(s.tick.lock || s.tick.holdover) || (s.entry f).held then s.stopFold f
  else if s.mustSwitch f then
    let s := s.switchFold f
    if s.folds[f].run = .waiting then s.waitingInstant f else s
  else if s.mustRevert f then (s.stopFold f).revertLoad f
  else if relock then s.relockFold f
  else s.yieldMember f

/-- Any other allotted fold. -/
def State.otherInstant (s : State) (f : FoldNo) : State :=
  let e := s.entry f
  let x := s.folds[f]
  if e.held then (if x.run = .stopped then s else s.stopFold f)
  else if s.mustSwitch f then
    let s := s.switchFold f
    if s.folds[f].run = .waiting then s.waitingInstant f else s
  else if s.peerFenced f then s.fence f
  else if s.mustRevert f && decide (x.run ≠ .hurdled) then s.revertLoad f
  else match x.run with
    | .hurdled => s.hurdledInstant f
    | .waiting => s.waitingInstant f
    | .refused =>
      (match x.refuse, e.runSlot with
       | 1, some b => s.beginLoad f b
       | _, _ => s.tryStart f)
    | .stopped => if e.attempts = keptStopped then s else s.resume f
    | _ => s

/-- What a fold does at an instant. -/
def State.foldInstant (s : State) (f : FoldNo) (was : BitVec 48) (relock : Bool) : State :=
  match s.folds[f].run with
  | .unallotted => s
  | .running =>
    let s := s.penInstant f was
    if s.folds[f].run = .running then s.runningInstant f relock else s
  | _ => s.otherInstant f

/-- Every persistent stream with a tick modulus re-armed for the tick that begins (R173). -/
def State.rearmInstant (s : State) : State :=
  let r : Rearm := { src := none, dst := none, origin := s.tick.instant, relative := false, bad := false, tick := true }
  (List.finRange 32).foldl (fun (s : State) p =>
    if s.cores[p].inUse then
      s.onCoreE p fun c => (List.finRange 4).foldl (fun (a : Core × List (Nat × Nat)) d =>
        (List.finRange 8).foldl (fun (a : Core × List (Nat × Nat)) k =>
          let x := a.1.ds d k
          match x.ctx with
          | some ctx =>
            if 1 ≤ xMod ctx ∧ x.status ≠ .idle ∧ !x.persistent.isEmpty then
              let q := x.rearmBy r s.tick.number.toNat
              (a.1.setDs d k q.1, a.2 ++ [(0x29, q.2)])
            else a
          | none => a) a) (c, [])
    else s) s

/-- A running fold begins its tick: the tick is counted, in all and by pen (Table 20.12), its streams start, the stray
lists of its tensors are empty, its landing list is unmet, and its tick word is recorded (DEDUCED, assumption 46). -/
def State.beginFoldTick (s : State) (f : FoldNo) : State :=
  let s := s.onFold f fun x => { x with landed := [] }
  if s.folds[f].run ≠ .running then s
  else
    let s := s.onFold f fun x => { x with ran := true }
    let s := (s.countFold f 0 1).countFold f (Fin.ofNat 23 (1 + s.folds[f].sel.pen % 8)) 1
    let s := s.onFoldCores f fun l c => (c.tensors.filter fun t => (s.regionOf f l t.1).isSome).foldl (fun c t => c.clearLists s.now t.1) c
    let s := s.startStreams f
    s.record f 2 0xFF s.tick.number.toNat 0 (beBytes (s.tick.number.toNat * 65536 + s.tick.code.toNat) 8)

/-! ## TICK_INSTANT -/

/-- What the instant does once it is placed; `was` is the tick number that ended, `healthy` whether that tick was
(R299). -/
def State.instantActions (s : State) (was : BitVec 48) (healthy relock : Bool) : State :=
  let s := { s with tick := { s.tick with chA := none, chB := none, healthy := healthy, confirmed := false, inReserve := false
                                          relock := s.tick.relock && !relock } }
  let s := if s.tick.holdover then s.count 0 1 else s
  let s := s.onSess fun x => { x with sent := [] }
  let s := (s.takeover).handovers
  let s := s.drainInstant (decide (was.toNat % 2 = 0))
  let s := ((s.retrainInstant).rejoinInstant).substituteInstant
  let s := s.sectionInstant
  let s := s.copyStarts
  let s := (List.finRange 32).foldl (fun (s : State) f => s.foldInstant f was relock) s
  let s := { s with cores := s.cores.map Core.resetRings }
  let s := s.spareRuns
  let s := s.rearmInstant
  let s := (List.finRange 32).foldl State.replayInstant s
  let s := s.windowsInstant
  let s := (List.finRange 32).foldl State.beginFoldTick s
  let s := s.supInstant
  let s := (List.finRange 32).foldl State.pollMembers s
  let s := s.resetTickSamples
  let s := s.correct
  if s.folds.any fun x => decide (x.run = .running) then { s with power := { s.power with bootStep := 10 } } else s

/-- TICK_INSTANT (R11): the tick that ran ends, and the next one begins; without a tick to begin only the words are
gone (DESIGN CHOICE, assumption 10). -/
def State.instantOp (s : State) : State :=
  let t := s.tick
  let ended := (List.finRange 32).foldl State.endFoldTick s
  match ended.placeInstant with
  | none => { s with tick := { t with chA := none, chB := none } }
  | some n => n.instantActions t.number ((t.lock || t.holdover) && t.confirmed && t.drained) (t.relock && t.agreed.isSome)

/-! ## RESERVE_START (R26, R61, R71, R74, R186, R272, R296, R363, R364, R392, R393, R416) -/

/-- A fold whose streams have not all issued ENDP by the end of the pen budget: they stop, and the overrun is reported
to the crook (R186, R366). Where the crook has found a cycle in the same cycle, the cause is the overrun and the nodes of the
cycle stay (Table 16.10). -/
def State.overrunCheck (s : State) (f : FoldNo) : State :=
  if s.folds[f].run ≠ .running then s
  else
    let late := (s.coresOf f).filter fun l => decide (s.foldOf l = some f) && (match s.phys l with
      | some p => s.cores[p].anyRunning
      | none => false)
    if late.isEmpty then s
    else
      let s := late.foldl (fun (s : State) l => match s.phys l with
        | some p => s.onCore p Core.stopStreams
        | none => s) s
      s.onFold f fun x => { x with recov := { x.recov with overrun := true, hang := some 0x0502 } }

/-- Inputs of the pen selection are sampled (R26), and recorded. -/
def State.sampleFoldInputs (s : State) (f : FoldNo) : State :=
  if s.folds[f].allot.isNone then s
  else
    let s := ((s.sampleDegradation f).sampleThermal f).selectPen f
    if s.folds[f].run = .running then
      s.record f 4 0xFF s.tick.number.toNat 0 (beBytes s.folds[f].sel.record 8)
    else s

/-- The report of a member of a multi-module fold (R272). -/
def State.reportReserve (s : State) (f : FoldNo) : State :=
  if s.folds[f].run = .running ∨ s.folds[f].run = .hurdled ∨ s.folds[f].run = .fenced then s.sendReport f else s

/-- The running fold of a logical core one of whose regions holds a record. -/
def State.tensorFold (s : State) (l : CoreNo) (rec : Nat) : Option FoldNo :=
  (s.holders l).find? fun f => decide (s.folds[f].run = .running) && (s.regionOf f l rec).isSome

/-- The tensors of a core close their tick: first every channel entry and count, then the requantisation records, with the
operands of the last READ into the tensor. -/
def State.closeTensors (s : State) (p : CoreNo) : State :=
  match s.logicalOf p with
  | none => s
  | some l =>
    let c := s.cores[p]
    let mine := (c.tensors.map fun t => t.1).filterMap fun rec => (s.tensorFold l rec).map fun f => (rec, f)
    let c := mine.foldl (fun (c : Core) x => c.closeTensor s.now x.1) c
    let c := mine.foldl (fun (c : Core) x => match s.folds[x.2].image with
      | some i => c.requantTensor s.now x.1 ((c.tensor x.1).operands.getD (Config.requantOperands i.measurement l.val x.1))
      | none => c) c
    { s with cores := s.cores.set p c }

/-- A core with faults in four ticks within 2^16 is fatal at the reserve of the fourth (R363). -/
def State.recurrence (s : State) (p : CoreNo) : State :=
  let ts := s.cores[p].faultTicks
  let n := s.tick.number.toNat
  match ts with
  | [a, _, _, d] => if a = n ∧ n < d + 65536 then s.coreFault p .recurrence else s
  | _ => s

/-- A supervisor in service confirms its reserve work, or misses it and fails (R364) (DESIGN CHOICE, assumption 49). -/
def State.supReserve (s : State) (u : Sup) (ok : Bool) : State :=
  let x := s.sup u
  if x.state = .active ∨ x.state = .standby then
    (if ok then { s with tick := { s.tick with confirmed := true } }
     else (s.onSup u fun x => { x with misses := x.misses + 1 }).supFail u)
  else s

/-- RESERVE_START: the first cycle of the reserve, not before cycle 1,920 × P, once in a tick (R26) (DESIGN CHOICE,
assumption 10). -/
def State.reserveOp (s : State) (confirmA confirmB : Bool) : State :=
  if s.sec?.isNone ∨ !s.tick.predicting ∨ s.tick.inReserve ∨ !s.power.good ∨ s.rel < s.reserveAt then s
  else
    let s := { s with tick := { s.tick with inReserve := true } }
    let s := (List.finRange 32).foldl State.overrunCheck s
    let s := { s with cores := s.cores.map fun c => c.endPlains s.tick.number.toNat }
    let s := (List.finRange 32).foldl State.sampleFoldInputs s
    let s := ((s.snapshot).takeSample)
    let s := { s with telemetry := s.telemetryPayload }
    let s := s.serveReads
    let s := (List.finRange 32).foldl State.reportReserve s
    let s := (List.finRange 32).foldl State.closeTensors s
    let s := (List.finRange 32).foldl State.recurrence s
    let s := s.selfChecks
    let s := s.lowerCores
    (s.supReserve .a confirmA).supReserve .b confirmB

/-! ## Meanings -/

def execTickWordReceived (ch : Chan) (word : BitVec 64) (codeOk : Bool) (edge : Nat) (s : State) :
    Host.Outcome State Fault Refusal := .next (s.wordOp ch word codeOk edge)
def execTickInstant (s : State) : Host.Outcome State Fault Refusal := .next s.instantOp
def execHoldoverLeft (s : State) : Host.Outcome State Fault Refusal := .next s.holdoverLeftOp
def execTickLockReached (s : State) : Host.Outcome State Fault Refusal := .next s.tickLockOp
def execReserveStart (confirmA confirmB : Bool) (s : State) : Host.Outcome State Fault Refusal := .next (s.reserveOp confirmA confirmB)

end Sys2Proof.Machine
end

