-- ==== Sys2Proof/Machine/Cycle.lean ====
section
/-! DEFINITION. What a core clock cycle does beside the cores: the samples before the first tick, exchange decisions that
fall due, the copies of planned handovers, the slots that the fabric ports deliver, the maintenance answers that wait, and the
packets of a replay, and the walks of hurdled folds (spec/20 R446, spec/12 R273, spec/17 R407, spec/11 R229, spec/15 R356, spec/10 R220,
spec/16 R363 and R368). -/

namespace Sys2Proof.Machine

/-- Cycles between two samples before the first tick instant. -/
def earlySample : Nat := 2000000

/-- Before the first instant after power-good the kind R registers are sampled every 2,000,000 cycles. -/
def State.sampleEarly (s : State) : State :=
  if s.power.good ∧ s.tick.instant ≤ s.power.goodAt ∧ s.power.goodAt < s.now ∧ (s.now - s.power.goodAt) % earlySample = 0 then
    s.takeSample
  else s

/-- The mail delivery window is open (R266): cycles 1,920 × P + 64 to 2,000 × P − 65. -/
def State.inMailWindow (s : State) : Bool := decide (s.reserveAt + 64 ≤ s.rel) && decide (s.rel + 65 ≤ s.period)

/-- The copies of planned handovers go on. -/
def State.copyCycles (s : State) : State :=
  if s.inMailWindow || s.rebuild.isSome then s else { s with cores := s.cores.map Core.copyCycle }

/-- The walks of hurdled folds pause in the mail delivery window and while a rebuild chain runs (R368). -/
def State.pauseWalks (s : State) : State :=
  if s.inMailWindow || s.rebuild.isSome then
    { s with folds := s.folds.map fun (x : Fold) => match x.recov.hurdle with
        | some h => if h + 4000 ≤ s.now ∧ x.run = .hurdled then { x with recov := { x.recov with paused := x.recov.paused + 1 } } else x
        | none => x }
  else s

/-- A core whose fourth faulty tick shows only after the reserve has begun is found fatal in that reserve too (R363). -/
def State.lateRecurrence (s : State) : State :=
  if s.tick.inReserve then (List.finRange 32).foldl State.recurrence s else s

/-- One core clock cycle of the module. -/
def moduleCycle (s : State) : State :=
  let s := (((clockCycle s.pauseWalks).lateRecurrence).decideDue.sampleEarly).copyCycles.deliverSlots
  (List.finRange 32).foldl State.presentReplay ((List.finRange 2).foldl State.answerCycle s)

end Sys2Proof.Machine
end

