-- ==== Sys2Proof/Machine/Dispatch.lean ====
section
/-! DEFINITION. The one arm of every command. -/

namespace Sys2Proof.Machine

/-- The effect of a command on everything but the queue. -/
def exec (i : Instr) (s : State) : Host.Outcome State Fault Refusal :=
  match i with
  | .tickWordReceived ch word codeOk edge => Sys2Proof.Machine.execTickWordReceived ch word codeOk edge s
  | .tickInstant => Sys2Proof.Machine.execTickInstant s
  | .holdoverLeft => Sys2Proof.Machine.execHoldoverLeft s
  | .tickLockReached => Sys2Proof.Machine.execTickLockReached s
  | .tickOutSend => Sys2Proof.Machine.execTickOutSend s
  | .reserveStart confirmA confirmB => Sys2Proof.Machine.execReserveStart confirmA confirmB s
  | .shareBoundary l => Sys2Proof.Machine.execShareBoundary l s
  | .heartbeatToggle => Sys2Proof.Machine.execHeartbeatToggle s
  | .telemetrySend => Sys2Proof.Machine.execTelemetrySend s
  | .replayExportFrame f => Sys2Proof.Machine.execReplayExportFrame f s
  | .nop l iss => Sys2Proof.Machine.execNop l iss s
  | .waitt l iss => Sys2Proof.Machine.execWaitt l iss s
  | .take l iss => Sys2Proof.Machine.execTake l iss s
  | .takeCompletion l iss => Sys2Proof.Machine.execTakeCompletion l iss s
  | .post l iss => Sys2Proof.Machine.execPost l iss s
  | .postHoldRelease l h => Sys2Proof.Machine.execPostHoldRelease l h s
  | .loop l iss => Sys2Proof.Machine.execLoop l iss s
  | .release l iss => Sys2Proof.Machine.execRelease l iss s
  | .endp l iss => Sys2Proof.Machine.execEndp l iss s
  | .mark l iss => Sys2Proof.Machine.execMark l iss s
  | .pass l => Sys2Proof.Machine.execPass l s
  | .passHalfDepth l => Sys2Proof.Machine.execPassHalfDepth l s
  | .wpass l => Sys2Proof.Machine.execWpass l s
  | .passSlotUpdate l => Sys2Proof.Machine.execPassSlotUpdate l s
  | .hazardHold l => Sys2Proof.Machine.execHazardHold l s
  | .clear l => Sys2Proof.Machine.execClear l s
  | .spillFirst l => Sys2Proof.Machine.execSpillFirst l s
  | .spill l => Sys2Proof.Machine.execSpill l s
  | .spillWalkRow l => Sys2Proof.Machine.execSpillWalkRow l s
  | .read l => Sys2Proof.Machine.execRead l s
  | .readoutRowLeave l => Sys2Proof.Machine.execReadoutRowLeave l s
  | .wload l => Sys2Proof.Machine.execWload l s
  | .add l iss => Sys2Proof.Machine.execAdd l iss s
  | .sub l iss => Sys2Proof.Machine.execSub l iss s
  | .mul l iss => Sys2Proof.Machine.execMul l iss s
  | .fma l iss => Sys2Proof.Machine.execFma l iss s
  | .sprod l iss => Sys2Proof.Machine.execSprod l iss s
  | .affine l iss => Sys2Proof.Machine.execAffine l iss s
  | .cmp l iss => Sys2Proof.Machine.execCmp l iss s
  | .max l iss => Sys2Proof.Machine.execMax l iss s
  | .min l iss => Sys2Proof.Machine.execMin l iss s
  | .lsel l iss => Sys2Proof.Machine.execLsel l iss s
  | .cvt l iss => Sys2Proof.Machine.execCvt l iss s
  | .teval l iss => Sys2Proof.Machine.execTeval l iss s
  | .mprog l iss => Sys2Proof.Machine.execMprog l iss s
  | .rmax l iss => Sys2Proof.Machine.execRmax l iss s
  | .rmin l iss => Sys2Proof.Machine.execRmin l iss s
  | .rsum l iss => Sys2Proof.Machine.execRsum l iss s
  | .rsumsq l iss => Sys2Proof.Machine.execRsumsq l iss s
  | .rsumsd l iss => Sys2Proof.Machine.execRsumsd l iss s
  | .rrecip l iss => Sys2Proof.Machine.execRrecip l iss s
  | .rmean l iss => Sys2Proof.Machine.execRmean l iss s
  | .rrsqrt l iss => Sys2Proof.Machine.execRrsqrt l iss s
  | .qread l iss => Sys2Proof.Machine.execQread l iss s
  | .strayActivation l => Sys2Proof.Machine.execStrayActivation l s
  | .strayWeight l => Sys2Proof.Machine.execStrayWeight l s
  | .bsel l => Sys2Proof.Machine.execBsel l s
  | .thrd l => Sys2Proof.Machine.execThrd l s
  | .fallbackSectionClose l => Sys2Proof.Machine.execFallbackSectionClose l s
  | .tld l j => Sys2Proof.Machine.execTld l j s
  | .threadLoadLand l => Sys2Proof.Machine.execThreadLoadLand l s
  | .thend l j => Sys2Proof.Machine.execThend l j s
  | .currierResultLand l => Sys2Proof.Machine.execCurrierResultLand l s
  | .start l => Sys2Proof.Machine.execStart l s
  | .startArmOnly l => Sys2Proof.Machine.execStartArmOnly l s
  | .rearm l => Sys2Proof.Machine.execRearm l s
  | .stop l => Sys2Proof.Machine.execStop l s
  | .beatGrant l upsets => Sys2Proof.Machine.execBeatGrant l upsets s
  | .descriptorReady l d => Sys2Proof.Machine.execDescriptorReady l d s
  | .beatLanding l => Sys2Proof.Machine.execBeatLanding l s
  | .handleArrival l => Sys2Proof.Machine.execHandleArrival l s
  | .droverCancel f => Sys2Proof.Machine.execDroverCancel f s
  | .fleeceScrub p ws ms => Sys2Proof.Machine.execFleeceScrub p ws ms s
  | .staticWordRepair l => Sys2Proof.Machine.execStaticWordRepair l s
  | .schedPacketArrival p k => Sys2Proof.Machine.execSchedPacketArrival p k s
  | .schedWrite => Sys2Proof.Machine.execSchedWrite s
  | .schedReadRequest => Sys2Proof.Machine.execSchedReadRequest s
  | .schedReadResponse => Sys2Proof.Machine.execSchedReadResponse s
  | .schedPost => Sys2Proof.Machine.execSchedPost s
  | .schedNotServed => Sys2Proof.Machine.execSchedNotServed s
  | .exchangeReport => Sys2Proof.Machine.execExchangeReport s
  | .exchangeDecision => Sys2Proof.Machine.execExchangeDecision s
  | .landingSubstitute l => Sys2Proof.Machine.execLandingSubstitute l s
  | .schedUnexpected => Sys2Proof.Machine.execSchedUnexpected s
  | .mailWrite m => Sys2Proof.Machine.execMailWrite m s
  | .mailGatherRequest m => Sys2Proof.Machine.execMailGatherRequest m s
  | .mailGatherResponse m => Sys2Proof.Machine.execMailGatherResponse m s
  | .mailNotServed m => Sys2Proof.Machine.execMailNotServed m s
  | .mailStaleRole m => Sys2Proof.Machine.execMailStaleRole m s
  | .mailRefused m => Sys2Proof.Machine.execMailRefused m s
  | .mailNoRoute m => Sys2Proof.Machine.execMailNoRoute m s
  | .mailUnknownKind m => Sys2Proof.Machine.execMailUnknownKind m s
  | .mailReservedKind m => Sys2Proof.Machine.execMailReservedKind m s
  | .faultNotice m => Sys2Proof.Machine.execFaultNotice m s
  | .statusReadRequest m => Sys2Proof.Machine.execStatusReadRequest m s
  | .statusReadResponse m => Sys2Proof.Machine.execStatusReadResponse m s
  | .imageBlockRequest m => Sys2Proof.Machine.execImageBlockRequest m s
  | .imageBlockResponse m => Sys2Proof.Machine.execImageBlockResponse m s
  | .presenceNotice p m => Sys2Proof.Machine.execPresenceNotice p m s
  | .presenceCloseNotice p m => Sys2Proof.Machine.execPresenceCloseNotice p m s
  | .witnessRecord m => Sys2Proof.Machine.execWitnessRecord m s
  | .mailDeliveryWindow l => Sys2Proof.Machine.execMailDeliveryWindow l s
  | .streamFrameInvalid p e => Sys2Proof.Machine.execStreamFrameInvalid p e s
  | .imeskLineFrame p e => Sys2Proof.Machine.execImeskLineFrame p e s
  | .imeskProcessFrame p e => Sys2Proof.Machine.execImeskProcessFrame p e s
  | .gevLeader p e => Sys2Proof.Machine.execGevLeader p e s
  | .gevPayload p e => Sys2Proof.Machine.execGevPayload p e s
  | .gevTrailer p e => Sys2Proof.Machine.execGevTrailer p e s
  | .arpRequest p target => Sys2Proof.Machine.execArpRequest p target s
  | .neighbourSolicitation p target => Sys2Proof.Machine.execNeighbourSolicitation p target s
  | .ethernetLinkUp p mode => Sys2Proof.Machine.execEthernetLinkUp p mode s
  | .ethernetLinkLoss p => Sys2Proof.Machine.execEthernetLinkLoss p s
  | .autonegTimeout p => Sys2Proof.Machine.execAutonegTimeout p s
  | .plantFrameInvalid p e => Sys2Proof.Machine.execPlantFrameInvalid p e s
  | .replayFeedFrame p e => Sys2Proof.Machine.execReplayFeedFrame p e s
  | .ptpSync domain seq source twoStep origin rx => Sys2Proof.Machine.execPtpSync domain seq source twoStep origin rx s
  | .ptpFollowUp domain seq source origin => Sys2Proof.Machine.execPtpFollowUp domain seq source origin s
  | .ptpDelayResp domain seq source rxNs => Sys2Proof.Machine.execPtpDelayResp domain seq source rxNs s
  | .ptpAnnounce domain d => Sys2Proof.Machine.execPtpAnnounce domain d s
  | .ptpOtherMessage domain => Sys2Proof.Machine.execPtpOtherMessage domain s
  | .ptpDelayReqSend => Sys2Proof.Machine.execPtpDelayReqSend s
  | .timeSourceLoss => Sys2Proof.Machine.execTimeSourceLoss s
  | .ppsInEdge => Sys2Proof.Machine.execPpsInEdge s
  | .slotFrameBoundary p => Sys2Proof.Machine.execSlotFrameBoundary p s
  | .trafficFrame p k => Sys2Proof.Machine.execTrafficFrame p k s
  | .activeMaskChange p => Sys2Proof.Machine.execActiveMaskChange p s
  | .trainingFrame p lane h o => Sys2Proof.Machine.execTrainingFrame p lane h o s
  | .laneSignalLoss p lane => Sys2Proof.Machine.execLaneSignalLoss p lane s
  | .laneLost p lane => Sys2Proof.Machine.execLaneLost p lane s
  | .laneUsable p lane => Sys2Proof.Machine.execLaneUsable p lane s
  | .portDown p => Sys2Proof.Machine.execPortDown p s
  | .authFailureRetrain p => Sys2Proof.Machine.execAuthFailureRetrain p s
  | .signalDetected p lanes => Sys2Proof.Machine.execSignalDetected p lanes s
  | .acquireDone p lanes => Sys2Proof.Machine.execAcquireDone p lanes s
  | .alignDone p lanes => Sys2Proof.Machine.execAlignDone p lanes s
  | .helloAgreed p => Sys2Proof.Machine.execHelloAgreed p s
  | .keyConfirmed p h => Sys2Proof.Machine.execKeyConfirmed p h s
  | .verifyDone p h ls => Sys2Proof.Machine.execVerifyDone p h ls s
  | .trainingTimeout p => Sys2Proof.Machine.execTrainingTimeout p s
  | .keyRetry p => Sys2Proof.Machine.execKeyRetry p s
  | .unpairedHello p => Sys2Proof.Machine.execUnpairedHello p s
  | .coreFaultDetected p c => Sys2Proof.Machine.execCoreFaultDetected p c s
  | .coreIsolated p => Sys2Proof.Machine.execCoreIsolated p s
  | .rebuildUnitWritten => Sys2Proof.Machine.execRebuildUnitWritten s
  | .crookSample f => Sys2Proof.Machine.execCrookSample f s
  | .hangDeclared f => Sys2Proof.Machine.execHangDeclared f s
  | .dumpCapture f => Sys2Proof.Machine.execDumpCapture f s
  | .dumpWritten => Sys2Proof.Machine.execDumpWritten s
  | .foldWalkEnd f l => Sys2Proof.Machine.execFoldWalkEnd f l s
  | .supervisorRestart u => Sys2Proof.Machine.execSupervisorRestart u s
  | .logEntryWrite ok => Sys2Proof.Machine.execLogEntryWrite ok s
  | .logMirrorCopy => Sys2Proof.Machine.execLogMirrorCopy s
  | .witnessSend => Sys2Proof.Machine.execWitnessSend s
  | .inputPowerApplied => Sys2Proof.Machine.execInputPowerApplied s
  | .powerGood => Sys2Proof.Machine.execPowerGood s
  | .inputUndervoltage mv => Sys2Proof.Machine.execInputUndervoltage mv s
  | .inputOvervoltage mv => Sys2Proof.Machine.execInputOvervoltage mv s
  | .railOutOfBand r => Sys2Proof.Machine.execRailOutOfBand r s
  | .converterUnitLost r => Sys2Proof.Machine.execConverterUnitLost r s
  | .powerSample deciwatts mv => Sys2Proof.Machine.execPowerSample deciwatts mv s
  | .marginSample ms => Sys2Proof.Machine.execMarginSample ms s
  | .phaseSample phis => Sys2Proof.Machine.execPhaseSample phis s
  | .temperatureSample r => Sys2Proof.Machine.execTemperatureSample r s
  | .junctionTrip x reading => Sys2Proof.Machine.execJunctionTrip x reading s
  | .ageingRecord rs => Sys2Proof.Machine.execAgeingRecord rs s
  | .replan required => Sys2Proof.Machine.execReplan required s
  | .refclkLost => Sys2Proof.Machine.execRefclkLost s
  | .refclkHoldoverExpired => Sys2Proof.Machine.execRefclkHoldoverExpired s
  | .refclkRelock => Sys2Proof.Machine.execRefclkRelock s
  | .bridleChangeConfirmed ch pressed stamp => Sys2Proof.Machine.execBridleChangeConfirmed ch pressed stamp s
  | .discrepancyTimeout => Sys2Proof.Machine.execDiscrepancyTimeout s
  | .sealLoopChange isOpen stamp => Sys2Proof.Machine.execSealLoopChange isOpen stamp s
  | .tackLockConfirmed fitted => Sys2Proof.Machine.execTackLockConfirmed fitted s
  | .windowExpiry => Sys2Proof.Machine.execWindowExpiry s
  | .entropyHealthFailure => Sys2Proof.Machine.execEntropyHealthFailure s
  | .entropyRecovered => Sys2Proof.Machine.execEntropyRecovered s
  | .ssdInserted n info => Sys2Proof.Machine.execSsdInserted n info s
  | .ssdRemoved n => Sys2Proof.Machine.execSsdRemoved n s
  | .ssdLinkDown n => Sys2Proof.Machine.execSsdLinkDown n s
  | .ssdCommandTimeout n => Sys2Proof.Machine.execSsdCommandTimeout n s
  | .tackRecordCommit => Sys2Proof.Machine.execTackRecordCommit s
  | .staticLoadComplete f => Sys2Proof.Machine.execStaticLoadComplete f s
  | .confirmationComplete f => Sys2Proof.Machine.execConfirmationComplete f s
  | .openSession r => Sys2Proof.Machine.execOpenSession r s
  | .closeSession r => Sys2Proof.Machine.execCloseSession r s
  | .sessionTimeout => Sys2Proof.Machine.execSessionTimeout s
  | .maintInProgressAnswer => Sys2Proof.Machine.execMaintInProgressAnswer s
  | .attestation r => Sys2Proof.Machine.execAttestation r s
  | .statusRead r => Sys2Proof.Machine.execStatusRead r s
  | .logRead r => Sys2Proof.Machine.execLogRead r s
  | .downloadBegin r => Sys2Proof.Machine.execDownloadBegin r s
  | .downloadData r => Sys2Proof.Machine.execDownloadData r s
  | .downloadEnd r => Sys2Proof.Machine.execDownloadEnd r s
  | .verify r => Sys2Proof.Machine.execVerify r s
  | .activateImmediate r => Sys2Proof.Machine.execActivateImmediate r s
  | .activateAtTick r => Sys2Proof.Machine.execActivateAtTick r s
  | .activateDeferred r => Sys2Proof.Machine.execActivateDeferred r s
  | .revert r => Sys2Proof.Machine.execRevert r s
  | .holdStop r => Sys2Proof.Machine.execHoldStop r s
  | .holdRelease r => Sys2Proof.Machine.execHoldRelease r s
  | .withdraw r => Sys2Proof.Machine.execWithdraw r s
  | .reLock r => Sys2Proof.Machine.execReLock r s
  | .replayOn r => Sys2Proof.Machine.execReplayOn r s
  | .replayOff r => Sys2Proof.Machine.execReplayOff r s
  | .debugEnable r => Sys2Proof.Machine.execDebugEnable r s
  | .debugDisable r => Sys2Proof.Machine.execDebugDisable r s
  | .debugRead r => Sys2Proof.Machine.execDebugRead r s
  | .dumpExport r => Sys2Proof.Machine.execDumpExport r s
  | .logClear r => Sys2Proof.Machine.execLogClear r s
  | .keyChange r => Sys2Proof.Machine.execKeyChange r s
  | .adoptSsd r => Sys2Proof.Machine.execAdoptSsd r s
  | .tallySelWrite w => Sys2Proof.Machine.execTallySelWrite w s
  | .userTagWrite w => Sys2Proof.Machine.execUserTagWrite w s
  | .statusWriteRefused w => Sys2Proof.Machine.execStatusWriteRefused w s
  | .pairLowRead addr => Sys2Proof.Machine.execPairLowRead addr s
  | .i3cEntdaa addr => Sys2Proof.Machine.execI3cEntdaa addr s
  | .ssdResyncComplete n => Sys2Proof.Machine.execSsdResyncComplete n s
  | .verificationEnd => Sys2Proof.Machine.execVerificationEnd s
  | .maintUnknownOperation r => Sys2Proof.Machine.execMaintUnknownOperation r s
  | .entropyDrawTimeout => Sys2Proof.Machine.execEntropyDrawTimeout s

end Sys2Proof.Machine
end

