-- ==== Sys2Proof/Machine/Step.lean ====
section
/-! DEFINITION. One step: the command at the front of the queue, or one core clock cycle when none waits. -/

namespace Sys2Proof.Machine

/-- One step (DESIGN CHOICE, assumption 1): the command at the front of the queue takes its effect on the state with the rest of
the queue; with no command waiting one core clock cycle passes (DESIGN CHOICE, assumption 42). -/
def step (s : State) : Host.Outcome State Fault Refusal :=
  match s.pending with
  | [] => .next (moduleCycle s)
  | c :: rest => exec c { s with pending := rest }

/-- The state with the command that a word spells put at the front of its queue. -/
def State.withFetchWord (s : State) (nbits w : Nat) : State :=
  match Sys2Proof.decodeTableWord nbits w with
  | some c => { s with pending := c :: s.pending }
  | none => s

end Sys2Proof.Machine
end

