-- ==== Sys2Proof/Safety.lean ====
section
/-! DEFINITION. The terms in which the claims are stated: what a command on one core may change, and the invariants
of every step. -/

namespace Sys2Proof.Machine

/-! ## Commands that act on one physical core -/

/-- The core without what the events of a cycle change: its tally counters and the ticks in which it raised faults. -/
def Core.quiet (c : Core) : Core := { c with tally := defaultSel.map Tally.of, faultTicks := [] }

/-- Nothing differs but the core at `p`, the tally log and the module counters. -/
def onlyCore (s t : State) (p : CoreNo) : Prop :=
  (∀ q : CoreNo, q ≠ p → t.cores[q] = s.cores[q]) ∧ t = { s with cores := t.cores, log := t.log, ctrs := t.ctrs }

/-- The command answers the state in which the core at `p` is `e`, and nothing else differs. -/
def coreBecomes (c : Instr) (s : State) (p : CoreNo) (e : Core) : Prop :=
  exec c s = .next { s with cores := s.cores.set p e }

/-- The command answers a state in which the core at `p` is `e` with the events `es` of this cycle counted and logged,
and nothing else differs. -/
def coreRaises (c : Instr) (s : State) (p : CoreNo) (e : Core) (es : List (Nat × Nat)) : Prop :=
  ∃ t, exec c s = .next t ∧ t = State.events { s with cores := s.cores.set p e } p es ∧ onlyCore s t p ∧
    t.cores[p].quiet = e.quiet

/-- Cycles that a currier instruction of `g` lane-rows of `per` issue cycles takes of its stream: a thread issues one cycle
in eight (R143). -/
def takenCycles : Issuer → Nat → Nat → Nat
  | .thread _, per, _ => 8 * per
  | _, per, g => per * g

/-! ## Tick words -/

/-- The words of both channels agree (R22): equal words, edges at most 16 ns apart. -/
def wordsAgree (x y : TickWord) : Prop := x.word = y.word ∧ x.edge ≤ y.edge + 32 ∧ y.edge ≤ x.edge + 32

/-- A word matches what the module predicts (R22): the next tick number, and an edge within 16 cycles of the instant and one
period. -/
def wordMatches (s : State) (m : ModuleSection) (x : TickWord) : Prop :=
  x.number = s.tick.number + 1 ∧ x.edge ≤ s.tick.instant + 2000 * m.period + 16 ∧
    s.tick.instant + 2000 * m.period ≤ x.edge + 16

/-- Both words are there, agree and match. -/
def goodTick (s : State) (m : ModuleSection) : Prop :=
  ∃ x y, s.tick.chA = some x ∧ s.tick.chB = some y ∧ wordsAgree x y ∧ wordMatches s m x ∧ wordMatches s m y

/-- The tick of `t` begins where a word says, in tick lock. -/
def takesWord (t : State) (x : TickWord) : Prop :=
  t.tick.instant = x.edge ∧ t.tick.lock = true ∧ t.tick.holdover = false

/-- The tick of `t` begins at the predicted cycle, in holdover. -/
def holdsOver (s t : State) (m : ModuleSection) : Prop :=
  t.tick.instant = s.tick.instant + 2000 * m.period ∧ t.tick.lock = false ∧ t.tick.holdover = true

/-- The producer of a gate is there (Table 10.3). -/
def producerThere (s : State) (l : CoreNo) (g : GateNo) : Prop := ∀ x, s.gateRec l g = some x → s.absent x.producer = false

/-! ## Stores of packets -/

/-- A packet of `n` bytes finds its core ready to store it (R158, R208, R250, R257): its address is one of pasture memory, all of
it lies in dynamic regions of its fold, and the core's write beats and its endpoint are free in this cycle. -/
def storeOk (s : State) (f : FoldNo) (p : CoreNo) (addr : Word64) (n : Nat) : Prop :=
  addrOk s.declared addr n .write false = true ∧ hSpace addr = 0 ∧
    (∀ a, hOff addr ≤ a → a < hOff addr + n → ∃ g, s.regionOf f (hCore addr) a = some g ∧ g.dynamic = true) ∧
    s.cores[p].walks = [] ∧ s.cores[p].writeBeats = [] ∧ s.cores[p].recvs = []

/-- The core at `p` has stored bytes at an offset in this cycle, 256 B row by row, and nothing else of it changes but the counts
of its beats. -/
def storedBy (s t : State) (p : CoreNo) (off : Nat) (bs : List MByte) : Prop :=
  t.cores[p].quiet = { s.cores[p].quiet with
    pasture := (rowPieces off bs.length).foldl (fun m y => m.store s.now y.1 ((bs.drop (y.1 - off)).take y.2)) s.cores[p].pasture
    recvs := t.cores[p].recvs, writeBeats := t.cores[p].writeBeats }

/-! ## Frames, requests and their answers -/

/-- A stream port of a running fold takes a frame: its link is up, the frame passes the acceptance rules of the port's
record, the window of tick `k` is open, and it has room for another packet (R279, R284). -/
def frameTaken (s : State) (p : StreamPort) (f : FoldNo) (r : StreamRec) (e : EthFrame) (k : Nat) : Prop :=
  s.st[p].cfg = some (f, r) ∧ s.st[p].up = true ∧ r.cause e = none ∧ s.folds[f].run = .running ∧ s.st[p].window = some k ∧
    s.folds[f].replay.on = false ∧ s.st[p].accepted < r.maxPackets

/-- No step of the boot is left to take: the module is down, or a branded module runs a module section (R320). -/
def bootSettled (s : State) : Prop :=
  s.power.good = false ∨
    (3 ≤ s.power.bootStep ∧ s.sec?.isSome = true ∧ s.trust.life = .branded ∧ s.trust.root.isSome = true)

/-- A maintenance request is heard and is no repeat (R356, R357). -/
def isNew (s : State) (r : MaintReq) : Prop :=
  s.hears r = true ∧ s.trust.sess.given r = none ∧ s.trust.sess.busyWith r = false

/-- A new request of the open session while a window is open (R350, R356). -/
def inSession (s : State) (r : MaintReq) : Prop :=
  isNew s r ∧ s.windowStatus = 0 ∧ s.trust.sess.num = some r.session

/-- `t` is `e` with an answer given on its port: it leaves at once as a plant frame of kind 5 when nothing waits there before it
and the port may send, else it waits on that port; no other port changes (R356). -/
def answerGiven (e t : State) (a : Answer) : Prop :=
  (∀ q : PlantPort, q ≠ a.port → t.pl[q] = e.pl[q]) ∧
  (e.pl[a.port].answers = [] ∧ e.answerFits a = true → ∃ k : PlantFrame, k.kind = 5 ∧ k.payload = a.bytes ∧
    t.pl[a.port] = { e.pl[a.port] with sent := e.pl[a.port].sent ++ [k], numMaint := e.pl[a.port].numMaint + 1 }) ∧
  (e.pl[a.port].answers ≠ [] ∨ e.answerFits a = false →
    t.pl[a.port] = { e.pl[a.port] with answers := e.pl[a.port].answers ++ [a] })

/-- `t` is `e` after the request has been answered once: the answer is given on the request's port and kept for repeats; the log
may have an entry more, and the session has been heard of now. -/
def answered (e t : State) (r : MaintReq) (status : Nat) (session : BitVec 32) (body : List Byte) : Prop :=
  t = { e with
    trust := { e.trust with sess := { e.trust.sess with
      last := t.trust.sess.last
      sent := e.trust.sess.sent ++ [answerTo r status session body]
      answers := (answerTo r status session body :: e.trust.sess.answers).take answersKept } }
    pl := t.pl, log := t.log, ctrs := t.ctrs } ∧
  answerGiven e t (answerTo r status session body)

/-! ## Invariants -/

/-- The parts of an accumulator are in canonical form. -/
def Accum.wf (a : Accum) : Prop :=
  cellWf 0 a.entries = true ∧ cellWf 0 a.sides = true ∧ cellWf 0 a.rows = true ∧ cellWf 0 a.slots = true

/-- No window is open against the seal loop, TACK_LOCK, its fuse or a discrepancy (R348, R349, R350). -/
def windowSafe (s : State) : Prop :=
  s.trust.pres.window.isSome = true →
    s.trust.pres.sealOpen = true ∧ s.trust.pres.tackLock = false ∧ s.trust.pres.fuse = false ∧
      s.trust.pres.discrepancy = false

/-- TACK_LOCK has been seen fitted: its fuse is blown, and no window is open (R350). -/
def lockedForGood (s : State) : Prop := s.trust.pres.fuse = true ∧ s.trust.pres.window = none

/-- The grade and the cores that test left enabled agree: all 32 in grade F, exactly 30 in grade E (R2). -/
def gradeOk (s : State) : Prop :=
  (s.gradeF = true ∧ s.enabled = 0xFFFFFFFF) ∨
    (s.gradeF = false ∧ ((List.range 32).filter fun i => s.enabled.getLsbD i).length = 30)

/-- The module is not in tick lock and in holdover at once (R23, R24). -/
def lockOrHoldover (s : State) : Prop := ¬(s.tick.lock = true ∧ s.tick.holdover = true)

end Sys2Proof.Machine
end

