-- ==== Sys2Proof/Certificates/Slice0/Obligations.lean ====
section
/-! DEFINITION. The statements for the provers, from the numbered rules of spec/. -/

open Sys2Proof Sys2Proof.Machine

/-! ## The queue, the clock and the whole machine -/

/-- A step with a command waiting is exec of the command at the front on the state with the rest of the queue. -/
def Obligations.StepRunsTheFrontCommand : Prop :=
  ∀ (c : Instr) (rest : List Instr) (s : State),
    step { s with pending := c :: rest } = exec c { s with pending := rest }

/-- A step on an empty queue is one core clock cycle: the clock goes on by one, nothing is queued, and presence and the
tick stand as they stood (log entry 1: the model's choice). -/
def Obligations.IdleStepIsOneCycle : Prop :=
  ∀ s : State, s.pending = [] → ∃ t, step s = .next t ∧ t.now = s.now + 1 ∧ t.pending = [] ∧
    t.trust.pres = s.trust.pres ∧ t.tick = s.tick ∧ t.enabled = s.enabled ∧ t.gradeF = s.gradeF

/-- R371: nothing resets or stops the module as a whole. Every command answers a next state in every state, and leaves
the queue, the clock, the grade and the enabled cores as they are. R2: a module of grade F with all 32 cores enabled, or of
grade E with exactly 30, stays one. -/
def Obligations.EveryCommandAnswers : Prop :=
  ∀ (c : Instr) (s : State), ∃ t, exec c s = .next t ∧ t.pending = s.pending ∧ t.now = s.now ∧ t.gradeF = s.gradeF ∧
    t.enabled = s.enabled ∧ (gradeOk s → gradeOk t)

/-- After reset no window is open, the module is in neither tick lock nor holdover, power is not good, nothing is queued,
every core's memory is in canonical form with nothing listed, and every fold is unallotted. R2: at reset a module of grade F
has all 32 cores enabled, and one of grade E the 30 that its two fused-off cores leave. -/
def Obligations.ResetIsSafe : Prop :=
  windowSafe State.reset ∧ lockOrHoldover State.reset ∧ State.reset.trust.pres.window = none ∧
    State.reset.tick.lock = false ∧ State.reset.tick.holdover = false ∧
    State.reset.pending = [] ∧ State.reset.power.good = false ∧
    (∀ p : CoreNo, State.reset.cores[p].pasture.cells = [] ∧ State.reset.cores[p].pasture.wf = true ∧
      State.reset.cores[p].acc.wf) ∧
    (∀ f : FoldNo, State.reset.folds[f].run = .unallotted) ∧
    (State.reset.gradeF = true ∧ gradeOk State.reset) ∧
    (∀ a b : CoreNo, a ≠ b → (State.resetE a b).gradeF = false ∧ gradeOk (State.resetE a b) ∧
      ∀ p : CoreNo, (State.resetE a b).cores[p].mode = .fusedOff ↔ (p = a ∨ p = b))

/-- R348, R349, R351: no step leaves a window open while the seal loop is closed, TACK_LOCK fitted, its fuse blown or a
discrepancy latched. -/
def Obligations.WindowsStaySafe : Prop :=
  ∀ s t : State, windowSafe s → step s = .next t → windowSafe t

/-- R350: once the tack lock fuse is blown no step opens a window or makes the fuse whole. -/
def Obligations.LockedForGood : Prop :=
  ∀ s t : State, lockedForGood s → step s = .next t → lockedForGood t

/-- R23, R24: tick lock and holdover exclude each other in every step. -/
def Obligations.LockOrHoldoverKept : Prop :=
  ∀ s t : State, lockOrHoldover s → step s = .next t → lockOrHoldover t

/-! ## The tick -/

/-- R11, R16, R22, R23, Table 1.4: TICK_INSTANT of a module in tick lock, with no re-lock asked for and REFCLK present. The
tick gets the next number. Words of both channels that agree and match, the one of two disagreeing words that matches, and
the only word when it matches give it their instant, and the module stays in tick lock. Silence, an only word that does not
match, words that disagree of which none matches, and words that agree of which none matches give it the predicted cycle, in
holdover. Two cases stand in no row of Table 1.4 and go to holdover (the model's choice, log entry 53): words that disagree
and both match, and words that agree of which one alone lies near enough to the prediction. -/
def Obligations.TickInstantInLock : Prop :=
  ∀ (s : State) (m : ModuleSection), s.sec? = some m → s.power.good = true → s.tick.predicting = true →
    s.tick.lock = true → s.tick.holdover = false → s.tick.relock = false → s.power.refLost = none →
    s.power.refExpired = false →
    ∃ t, exec .tickInstant s = .next t ∧ t.tick.number = s.tick.number + 1 ∧ t.tick.chA = none ∧ t.tick.chB = none ∧
      t.tick.inReserve = false ∧ t.trust.pres = s.trust.pres ∧
      (∀ x y, s.tick.chA = some x → s.tick.chB = some y →
        (wordsAgree x y → wordMatches s m x → wordMatches s m y → takesWord t x) ∧
        (wordsAgree x y → ¬(wordMatches s m x ∧ wordMatches s m y) → holdsOver s t m) ∧
        (¬wordsAgree x y → wordMatches s m x → ¬wordMatches s m y → takesWord t x) ∧
        (¬wordsAgree x y → ¬wordMatches s m x → wordMatches s m y → takesWord t y) ∧
        (¬wordsAgree x y → (wordMatches s m x ↔ wordMatches s m y) → holdsOver s t m)) ∧
      (∀ x, (s.tick.chA = some x ∧ s.tick.chB = none) ∨ (s.tick.chA = none ∧ s.tick.chB = some x) →
        (wordMatches s m x → takesWord t x) ∧ (¬wordMatches s m x → holdsOver s t m)) ∧
      (s.tick.chA = none → s.tick.chB = none → holdsOver s t m)

/-- R24: the module takes the first words on which both channels agree as its starting prediction, and without such words it
only lets go of those it has. It reaches tick lock after 16 further consecutive ticks that agree and match: each of them
raises the count by one, any other tick sets it back to 0, and TICK_LOCK_REACHED changes nothing before the count of 16. -/
def Obligations.TickLockIsReached : Prop :=
  (∀ (s : State) (m : ModuleSection), s.sec? = some m → s.power.good = true → s.tick.predicting = false →
     (∀ x y, s.tick.chA = some x → s.tick.chB = some y → wordsAgree x y →
       ∃ t, exec .tickInstant s = .next t ∧ t.tick.predicting = true ∧ t.tick.number = x.number ∧ t.tick.instant = x.edge ∧
         t.tick.agree = 0 ∧ t.tick.lock = s.tick.lock ∧ t.tick.holdover = s.tick.holdover) ∧
     ((∀ x y, s.tick.chA = some x → s.tick.chB = some y → ¬wordsAgree x y) →
       exec .tickInstant s = .next { s with tick := { s.tick with chA := none, chB := none } })) ∧
  (∀ (s : State) (m : ModuleSection), s.sec? = some m → s.power.good = true → s.tick.predicting = true →
     s.tick.lock = false → s.tick.holdover = false → s.tick.relock = false → s.power.refExpired = false →
     ∃ t, exec .tickInstant s = .next t ∧ t.tick.lock = false ∧ t.tick.holdover = false ∧
       (goodTick s m → t.tick.agree = s.tick.agree + 1 ∧ t.tick.number = s.tick.number + 1 ∧ t.tick.predicting = true ∧
         ∀ x, s.tick.chA = some x → t.tick.instant = x.edge) ∧
       (¬goodTick s m → t.tick.agree = 0)) ∧
  (∀ s : State, s.power.refLost = none → s.power.refExpired = false → s.tick.predicting = true → s.tick.lock = false →
     s.tick.holdover = false →
     (s.tick.agree < 16 → exec .tickLockReached s = .next s) ∧
     (16 ≤ s.tick.agree → ∃ t, exec .tickLockReached s = .next t ∧ t.tick.lock = true ∧
       t = { s with tick := { s.tick with lock := true, loop := t.tick.loop }, store := t.store }))

/-- R23, R24: HOLDOVER_LEFT and TICK_LOCK_REACHED after 16 consecutive ticks that agree and match, with REFCLK present, put
the module in tick lock; before that, or with REFCLK lost, they change nothing. R23, R430, Table 19.7: REFCLK lost is kept
and logged once, and every tick that begins without it in tick lock or holdover is a holdover tick at the predicted cycle. Past
the limit of holdover the module is in neither tick lock nor holdover, and stays so at every instant. REFCLK found again
begins tick lock afresh when that limit had passed, and else leaves the tick as it is. -/
def Obligations.LockFollowsTicksAndRefclk : Prop :=
  (∀ s : State,
     (16 ≤ s.tick.agree → s.power.refLost = none → s.tick.holdover = true → ∃ t, exec .holdoverLeft s = .next t ∧
       t = { s with tick := { s.tick with holdover := false, lock := true }, log := t.log, ctrs := t.ctrs }) ∧
     (s.tick.agree < 16 ∨ s.power.refLost.isSome = true ∨ s.tick.holdover = false →
       exec .holdoverLeft s = .next s) ∧
     (16 ≤ s.tick.agree → s.power.refLost = none → s.tick.predicting = true → s.tick.lock = false →
       s.tick.holdover = false → s.power.refExpired = false →
       ∃ t, exec .tickLockReached s = .next t ∧ t.tick.lock = true ∧ t.tick.holdover = false ∧
         t.tick.number = s.tick.number ∧ t.tick.instant = s.tick.instant ∧
         t = { s with tick := t.tick, store := t.store }) ∧
     (s.tick.agree < 16 ∨ s.power.refLost.isSome = true → exec .tickLockReached s = .next s)) ∧
  (∀ (s : State) (m : ModuleSection), s.sec? = some m → s.power.good = true → s.tick.predicting = true →
     s.tick.relock = false →
     (s.power.refLost.isSome = true → s.power.refExpired = false → s.tick.lock = true ∨ s.tick.holdover = true →
       ∃ t, exec .tickInstant s = .next t ∧ t.tick.number = s.tick.number + 1 ∧ holdsOver s t m) ∧
     (s.power.refExpired = true → ∃ t, exec .tickInstant s = .next t ∧ t.tick.number = s.tick.number + 1 ∧
       t.tick.instant = s.tick.instant + 2000 * m.period ∧ t.tick.lock = false ∧ t.tick.holdover = false)) ∧
  (∀ s : State,
     (s.power.refLost.isSome = true → exec .refclkLost s = .next s) ∧
     (s.power.refLost = none → ∃ t, exec .refclkLost s = .next t ∧
       t = { s with power := { s.power with refLost := some s.now }, log := t.log, ctrs := t.ctrs }) ∧
     (s.power.refLost = none → exec .refclkHoldoverExpired s = .next s ∧ exec .refclkRelock s = .next s) ∧
     (s.power.refLost.isSome = true → exec .refclkHoldoverExpired s = .next { s with
       power := { s.power with refExpired := true }, tick := { s.tick with lock := false, holdover := false, agree := 0 } }) ∧
     (s.power.refLost.isSome = true → ∃ t, exec .refclkRelock s = .next t ∧ t = { s with
         power := { s.power with refLost := none, refExpired := false }, tick := t.tick, log := t.log, ctrs := t.ctrs } ∧
       (s.power.refExpired = true → t.tick = { s.tick with predicting := false, agree := 0 }) ∧
       (s.power.refExpired = false → t.tick = s.tick)))

/-- R16: a tick word is held as the word of its channel for the coming instant when its cells kept the code, and none is
held otherwise. R19, R20, R291: the word of a bellwether is that of the instant one period and the correction of R19 behind
the last one that it placed, with the next number; the first is the next multiple of the period on 1588 time, and without
1588 time there is none. It leaves the measured loop before that instant, and nothing leaves earlier; a follower sends none. The plant code of the word is a free value (log entry 8). R26: the reserve begins once in a
tick, at 1,920 × P or later. R299: from cycle 64 of a tick the heartbeat toggles once after a healthy tick, and not
otherwise. -/
def Obligations.TickCommandsTakeEffect : Prop :=
  (∀ (s : State) (w : Word64) (edge : Nat),
    exec (.tickWordReceived .a w true edge) s =
      .next { s with tick := { s.tick with chA := some { word := w, edge := edge } } } ∧
    exec (.tickWordReceived .b w true edge) s =
      .next { s with tick := { s.tick with chB := some { word := w, edge := edge } } } ∧
    exec (.tickWordReceived .a w false edge) s = .next { s with tick := { s.tick with chA := none } } ∧
    exec (.tickWordReceived .b w false edge) s = .next { s with tick := { s.tick with chB := none } }) ∧
  (∀ (s : State) (m : ModuleSection) (c d : Nat), s.sec? = some m → s.power.good = true → 3 ≤ s.power.bootStep →
    s.tick.placed = some c → (d : Int) = c + 2000 * m.period + s.tick.correction →
    (m.bellwether = true → d ≤ s.now + s.tick.loop.getD 0 →
      exec .tickOutSend s = .next { s with tick := { s.tick with
        placed := some d, placedNumber := s.tick.placedNumber + 1, correction := 0, outAt := some s.now,
        outWord := (s.tick.placedNumber + 1) ++ Config.bellwetherCode (s.tick.placedNumber + 1).toNat } }) ∧
    (m.bellwether = false ∨ s.now + s.tick.loop.getD 0 < d → exec .tickOutSend s = .next s)) ∧
  (∀ (s : State) (m : ModuleSection), s.sec? = some m → m.bellwether = true → s.power.good = true →
    3 ≤ s.power.bootStep → s.tick.placed = none →
    (s.ptp.time2 s.now = none → exec .tickOutSend s = .next s) ∧
    (∀ (t n : Int) (d : Nat), s.ptp.time2 s.now = some t → 2000 * m.period * (n - 1) < t → t ≤ 2000 * m.period * n →
      (d : Int) = s.now + 2000 * m.period * n - t →
      (d ≤ s.now + s.tick.loop.getD 0 → exec .tickOutSend s = .next { s with tick := { s.tick with
        placed := some d, placedNumber := BitVec.ofInt 48 n, correction := 0, outAt := some s.now,
        outWord := BitVec.ofInt 48 n ++ Config.bellwetherCode (BitVec.ofInt 48 n).toNat } }) ∧
      (s.now + s.tick.loop.getD 0 < d → exec .tickOutSend s = .next s))) ∧
  (∀ (s : State) (m : ModuleSection) (a b : Bool), s.sec? = some m → s.tick.predicting = true →
    s.tick.inReserve = false → s.power.good = true →
    (s.tick.instant + 1920 * m.period ≤ s.now →
      ∃ t, exec (.reserveStart a b) s = .next t ∧ t.tick.inReserve = true ∧ t.tick.number = s.tick.number ∧
        t.tick.instant = s.tick.instant ∧ t.trust.pres = s.trust.pres ∧ exec (.reserveStart a b) t = .next t) ∧
    (s.now < s.tick.instant + 1920 * m.period → 0 < m.period → exec (.reserveStart a b) s = .next s)) ∧
  (∀ s : State, s.power.good = true → s.power.bootStep = 10 → s.trust.life = .branded →
    (s.tick.healthy = true → s.tick.instant + 64 ≤ s.now → exec .heartbeatToggle s =
      .next { s with tick := { s.tick with heartbeat := !s.tick.heartbeat, healthy := false } }) ∧
    (s.tick.healthy = false ∨ s.now < s.tick.instant + 64 → exec .heartbeatToggle s = .next s))

/-! ## Issue -/

/-- R143, R185, R186: what an instruction needs to issue on a stream of a core: the stream runs, waits on nothing and has no
part left, its ready cycle has come, so has its floor unless the word is a WAITT or a LOOP, and the reserve has not begun. The
currier stream issues nothing while a thread section is open; a thread issues in its own cycle of 8 within its section, and its
delays count slots of 8 cycles.
R184, R185, R187: the stream after an instruction. The next word follows 16 bytes on; at the end of a loop body the
stream goes round with the index one higher, 12 cycles later when the body exceeds 256 words, until the trip count
is reached, when the loop is left; past the end of a branch it goes on behind both branches, ready when the longer one is
over (R195). The floor is used up.
A stream command that names an instruction its stream cannot issue now changes nothing (the model's choice: a command
is taken only when the machine would issue it; log entry 9). -/
def Obligations.IssueKeepsItsTime : Prop :=
  (∀ (s : State) (l p : CoreNo) (i : Issuer) (op : Nat) (w : Word128), (∀ j, i ≠ .thread j) →
     (s.issuing l i op = some (p, w) ↔
       s.phys l = some p ∧ w = (s.cores[p].stream i).modified (s.cores[p].nextWord i) ∧ opcodeOf w = op ∧
       (s.cores[p].stream i).running = true ∧ (s.cores[p].stream i).wait = .none ∧
       (s.cores[p].stream i).active = none ∧ (s.cores[p].stream i).base + delayOf w ≤ s.now ∧
       (op = 0xC1 ∨ op = 0xC4 ∨ (s.cores[p].stream i).floor ≤ s.now) ∧ s.rel < s.reserveAt ∧
       (i = .currier → s.cores[p].currier.sec? = none))) ∧
  (∀ (s : State) (l p : CoreNo) (j : Fin 8) (op : Nat) (w : Word128),
     (s.issuing l (.thread j) op = some (p, w) ↔
       s.phys l = some p ∧ w = (s.cores[p].stream (.thread j)).modified (s.cores[p].nextWord (.thread j)) ∧
       opcodeOf w = op ∧ (s.cores[p].stream (.thread j)).running = true ∧ (s.cores[p].stream (.thread j)).wait = .none ∧
       (s.cores[p].stream (.thread j)).active = none ∧
       (s.cores[p].stream (.thread j)).base + 8 * delayOf w ≤ s.now ∧
       (op = 0xC1 ∨ op = 0xC4 ∨ (s.cores[p].stream (.thread j)).floor ≤ s.now) ∧ s.rel < s.reserveAt ∧
       s.rel % 8 = j.val ∧ ∃ k, s.cores[p].currier.sec? = some k ∧ s.now < k.issue + 8 + k.len)) ∧
  ((∀ (t : Stream) (issue occ : Nat), t.branch = none →
     (t.advance issue occ).floor = 0 ∧ (t.advance issue occ).lastIssue = issue ∧
     (t.advance issue occ).running = t.running ∧ (t.advance issue occ).handles = t.handles ∧
     (t.loops = [] → (t.advance issue occ).next = t.next + 16 ∧ (t.advance issue occ).base = issue + occ ∧
       (t.advance issue occ).loops = []) ∧
     (∀ f r, t.loops = f :: r →
       (t.next + 16 ≠ f.body + 16 * f.len →
         (t.advance issue occ).next = t.next + 16 ∧ (t.advance issue occ).base = issue + occ ∧
           (t.advance issue occ).loops = t.loops) ∧
       (t.next + 16 = f.body + 16 * f.len → f.index + 1 < f.trip →
         (t.advance issue occ).next = f.body ∧
           (t.advance issue occ).base = issue + occ + (if 256 < f.len then 12 else 0) ∧
           (t.advance issue occ).loops = { f with index := f.index + 1 } :: r) ∧
       (t.next + 16 = f.body + 16 * f.len → f.trip ≤ f.index + 1 →
         (∀ g ∈ r.head?, t.next + 16 ≠ g.body + 16 * g.len) →
         (t.advance issue occ).next = t.next + 16 ∧ (t.advance issue occ).base = issue + occ ∧
           (t.advance issue occ).loops = r) ∧
       (t.next + 16 = f.body + 16 * f.len → f.trip ≤ f.index + 1 → t.advance issue occ = { t with loops := r }.advance issue occ))) ∧
   ∀ (t : Stream) (b : Branch) (issue occ : Nat), t.branch = some b → t.loops = [] →
     (t.next + 16 = b.stopAt → (t.advance issue occ).next = b.resume ∧ (t.advance issue occ).base = b.ready ∧
       (t.advance issue occ).branch = none) ∧
     (t.next + 16 ≠ b.stopAt → (t.advance issue occ).next = t.next + 16 ∧ (t.advance issue occ).base = issue + occ ∧
       (t.advance issue occ).branch = some b)) ∧
  (∀ (s : State) (l : CoreNo) (i : Issuer),
     (s.issuing l i 0xC0 = none → exec (.nop l i) s = .next s) ∧
     (s.issuing l i 0xC1 = none → exec (.waitt l i) s = .next s) ∧
     (s.issuing l i 0xC2 = none → exec (.take l i) s = .next s) ∧
     (s.issuing l i 0xC3 = none → exec (.post l i) s = .next s) ∧
     (s.issuing l i 0xC4 = none → exec (.loop l i) s = .next s) ∧
     (s.issuing l i 0xC5 = none → exec (.release l i) s = .next s) ∧
     (s.issuing l i 0xC6 = none → exec (.endp l i) s = .next s) ∧
     (s.issuing l i 0xC7 = none → exec (.mark l i) s = .next s) ∧
     (s.matrixIssue l 0x01 = none → exec (.pass l) s = .next s ∧ exec (.passHalfDepth l) s = .next s) ∧
     (s.matrixIssue l 0x02 = none → exec (.wpass l) s = .next s) ∧
     (s.matrixIssue l 0x03 = none → exec (.clear l) s = .next s) ∧
     (s.matrixIssue l 0x04 = none → exec (.spill l) s = .next s ∧ exec (.spillFirst l) s = .next s) ∧
     (s.matrixIssue l 0x05 = none → exec (.read l) s = .next s) ∧
     (s.issuing l .matrix 0x06 = none → exec (.wload l) s = .next s))

/-- Table 9.2, R185, R187, R414: NOP only moves its stream on, WAITT sets the floor to its tick-relative cycle, LOOP opens
a loop of index 0 at the next word and leaves the floor of a WAITT before it standing, ENDP ends the stream for this tick, and
MARK counts one program mark with its tag.
R170, R171: RELEASE of ring slots lowers the fill by the count, at most to 0, and moves the head on by as many; more
than the fill raises event 0x28; a ring whose enable bit is 0 is unchanged and raises an underrun, event 0x27. R190: a
RELEASE that an instruction of an earlier stream still precedes in its cycle changes nothing. -/
def Obligations.CommonInstructionsAndRelease : Prop :=
  (∀ (s : State) (l p : CoreNo) (i : Issuer) (w : Word128),
     (s.issuing l i 0xC0 = some (p, w) → coreBecomes (.nop l i) s p
       (s.cores[p].setStream i ((s.cores[p].stream i).advance s.now (slotCycles i)))) ∧
     (s.issuing l i 0xC1 = some (p, w) → coreBecomes (.waitt l i) s p
       (s.cores[p].setStream i
         { (s.cores[p].stream i).advance s.now 0 with floor := s.tick.instant + fld w 100 28 })) ∧
     (s.issuing l i 0xC4 = some (p, w) → coreBecomes (.loop l i) s p
       (s.cores[p].setStream i { (s.cores[p].stream i).advance s.now 0 with
         floor := (s.cores[p].stream i).floor
         loops := { level := Fin.ofNat 4 (fld w 98 2), index := 0, trip := fld w 112 16,
                    body := ((s.cores[p].stream i).advance s.now 0).next, len := fld w 100 12 } ::
           ((s.cores[p].stream i).advance s.now 0).loops })) ∧
     (s.issuing l i 0xC6 = some (p, w) → coreBecomes (.endp l i) s p
       (s.cores[p].setStream i { s.cores[p].stream i with running := false, lastIssue := s.now })) ∧
     (s.issuing l i 0xC7 = some (p, w) → coreBecomes (.mark l i) s p
       ({ s.cores[p] with tally := s.cores[p].tally.map fun (t : Tally) => t.occur 0x0B 1 (s.foldOf l) (fld w 120 8) s.now }.setStream i
         ((s.cores[p].stream i).advance s.now 1)))) ∧
  (∀ (s : State) (l p : CoreNo) (i : Issuer) (w : Word128), s.issuing l i 0xC5 = some (p, w) →
     ∀ r : RingNo, r = Fin.ofNat 32 (fld w 123 5) →
     (s.turn l i (some (.ring r)) = false → exec (.release l i) s = .next s) ∧
     (s.turn l i (some (.ring r)) = true →
       (s.cores[p].rings[r].enabled = false → coreRaises (.release l i) s p
         (s.cores[p].setStream i ((s.cores[p].stream i).advance s.now 1)) [(0x27, 1)]) ∧
       (s.cores[p].rings[r].enabled = true →
         ∃ q : Ring, q.started = s.cores[p].rings[r].started ∧ q.base = s.cores[p].rings[r].base ∧
           q.slotBytes = s.cores[p].rings[r].slotBytes ∧ q.count = s.cores[p].rings[r].count ∧ q.enabled = true ∧
           q.tail = s.cores[p].rings[r].tail ∧
           q.fill = s.cores[p].rings[r].fill - min (fld w 118 5) s.cores[p].rings[r].fill ∧
           (s.cores[p].rings[r].count ≠ 0 → s.cores[p].rings[r].count ≤ 16 →
             q.head = (s.cores[p].rings[r].head + min (fld w 118 5) s.cores[p].rings[r].fill) % s.cores[p].rings[r].count) ∧
           coreRaises (.release l i) s p
             ({ s.cores[p] with rings := s.cores[p].rings.set r q }.setStream i ((s.cores[p].stream i).advance s.now 1))
             (if s.cores[p].rings[r].fill < fld w 118 5 then [(0x28, 1)] else []))))

/-- R175, R189, R190: a TAKE whose gate shows a handle takes it into the register it names and frees its place; one on a gate
that shows none, or that an instruction of an earlier stream still precedes in its cycle, holds its stream; the held take
completes the same way, its occupancy counted from its issue, and not before. (Table 10.3: with the producer absent, the
stand-in of the gate record is taken, and the gate left alone.)
R175, R189, R209: a POST to a gate of its own core is visible two cycles later, and holds its stream when the gate is full or
an earlier stream precedes it; the handle is the register's with from-handle set, else the word's buffer and tag with bad bit
0, and it is bad from a core with a fatal fault.
R175, R189, R207: a POST to another core of the module leaves the posting core's stream going on and arrives there 48
cycles after it was sent. A target that is absent takes nothing and the posting core raises event 0x2D (R210).
R175, R189, R251, R255: a POST to another module goes on its way as one scheduled packet of type 4 through hall space
2 when its fold's slices admit the address and a flow leads there; an address that no slice admits leaves the hall
alone and raises event 0x22 at the posting core.
R174, R175, R176, R454: a held post of a stream or of a transfer slot is put into its gate as soon as the gate has
room, and stays held while it has none; a handle that arrives is put into its gate, or raises event 0x2A when its gate was
loaded again and 0x38 when the gate is full. -/
def Obligations.HandlesMoveThroughGates : Prop :=
  (∀ (s : State) (l p : CoreNo) (i : Issuer) (w : Word128),
     (s.issuing l i 0xC2 = some (p, w) → ∀ g : GateNo, g = Fin.ofNat 64 (fld w 122 6) →
       (s.turn l i (some (.handles g)) = true → producerThere s l g →
         ∀ h v r, s.cores[p].gates[g].queue = (h, v) :: r → v ≤ s.now →
         coreBecomes (.take l i) s p
           ({ s.cores[p] with gates := s.cores[p].gates.set g (s.cores[p].gates[g].take s.now) }.setStream i
             { (s.cores[p].stream i).advance s.now 1 with
               wait := .none, handles := (s.cores[p].stream i).handles.set (fld w 120 2 % 4) h (by omega) })) ∧
       (s.turn l i (some (.handles g)) = false ∨
           (producerThere s l g ∧ ∀ h v r, s.cores[p].gates[g].queue = (h, v) :: r → s.now < v) →
         coreBecomes (.take l i) s p (s.cores[p].setStream i { s.cores[p].stream i with
           wait := .take g (BitVec.ofNat 2 (fld w 120 2)) s.now, lastIssue := s.now })) ∧
       (s.turn l i (some (.handles g)) = true → ∀ x, s.gateRec l g = some x → s.absent x.producer = true →
         coreBecomes (.take l i) s p (s.cores[p].setStream i
           { (s.cores[p].stream i).advance s.now 1 with
             wait := .none
             handles := (s.cores[p].stream i).handles.set (fld w 120 2 % 4)
               { bad := true, tag := 0, buffer := BitVec.ofNat 23 x.standIn } (by omega) }))) ∧
     (∀ g reg since, s.phys l = some p → (s.cores[p].stream i).wait = .take g reg since →
       (s.turn l i (some (.handles g)) = true → producerThere s l g →
         ∀ h v r, s.cores[p].gates[g].queue = (h, v) :: r → v ≤ s.now →
         coreBecomes (.takeCompletion l i) s p
           ({ s.cores[p] with gates := s.cores[p].gates.set g (s.cores[p].gates[g].take s.now) }.setStream i
             { (s.cores[p].stream i).advance since (s.now - since + 1) with
               wait := .none, handles := (s.cores[p].stream i).handles.set reg.toNat h })) ∧
       (s.turn l i (some (.handles g)) = true → ∀ x, s.gateRec l g = some x → s.absent x.producer = true →
         coreBecomes (.takeCompletion l i) s p (s.cores[p].setStream i
           { (s.cores[p].stream i).advance since (s.now - since + 1) with
             wait := .none
             handles := (s.cores[p].stream i).handles.set reg.toNat
               { bad := true, tag := 0, buffer := BitVec.ofNat 23 x.standIn } })) ∧
       (s.turn l i (some (.handles g)) = false ∨
           (producerThere s l g ∧ ∀ h v r, s.cores[p].gates[g].queue = (h, v) :: r → s.now < v) →
         exec (.takeCompletion l i) s = .next s))) ∧
  (∀ (s : State) (l p : CoreNo) (i : Issuer) (w : Word128), s.issuing l i 0xC3 = some (p, w) → bitOf w 104 = false →
     fld w 105 5 = l.val →
     ∀ (g : GateNo) (h x : Handle), g = Fin.ofNat 64 (fld w 122 6) →
       x = (if bitOf w 103 then (s.cores[p].stream i).handles[Fin.ofNat 4 (fld w 101 2)]
            else { bad := false, tag := BitVec.ofNat 8 (fld w 70 8), buffer := BitVec.ofNat 23 (fld w 78 23) }) →
       h = (if s.cores[p].fault.isSome then { x with bad := true } else x) →
       (s.cores[p].gates[g].full s.now = false → s.turn l i (some (.places g)) = true → coreBecomes (.post l i) s p
         ({ s.cores[p] with
             gates := s.cores[p].gates.set g
               { s.cores[p].gates[g] with queue := s.cores[p].gates[g].queue ++ [(h, s.now + 2)] } }.setStream i
           ((s.cores[p].stream i).advance s.now 1))) ∧
       (s.cores[p].gates[g].full s.now = true ∨ s.turn l i (some (.places g)) = false → coreBecomes (.post l i) s p
         (s.cores[p].setStream i { s.cores[p].stream i with wait := .post g h s.now, lastIssue := s.now }))) ∧
  (∀ (s : State) (l p q x : CoreNo) (i : Issuer) (w : Word128), s.issuing l i 0xC3 = some (p, w) → bitOf w 104 = false →
     x = Fin.ofNat 32 (fld w 105 5) → x ≠ l → q ≠ p →
     ∀ (h : Handle), h = (if s.cores[p].fault.isSome then { (s.cores[p].stream i).posted w with bad := true }
         else (s.cores[p].stream i).posted w) →
     (s.absent x = false → s.phys x = some q →
       ∃ t, exec (.post l i) s = .next t ∧ t = { s with cores := t.cores } ∧
         t.cores[p] = s.cores[p].setStream i ((s.cores[p].stream i).advance s.now 1) ∧
         t.cores[q] = { s.cores[q] with arrivals := s.cores[q].arrivals ++
           [{ gate := Fin.ofNat 64 (fld w 122 6), handle := h, sent := s.now, arrive := s.now + 48, dead := false }] } ∧
         ∀ o : CoreNo, o ≠ p → o ≠ q → t.cores[o] = s.cores[o]) ∧
     (s.absent x = true → ∃ t, exec (.post l i) s = .next t ∧ onlyCore s t p ∧
       t.cores[p].quiet = (s.cores[p].setStream i ((s.cores[p].stream i).advance s.now 1)).quiet ∧
       t.cores[p].tally = (s.events p [(0x2D, 1)]).cores[p].tally ∧ t.log = (s.events p [(0x2D, 1)]).log)) ∧
  (∀ (s : State) (l p : CoreNo) (i : Issuer) (w : Word128) (f : FoldNo) (a : Word64),
     s.issuing l i 0xC3 = some (p, w) → bitOf w 104 = true → s.foldOf l = some f →
     a = hallAddr 2 (BitVec.ofNat 12 (fld w 110 12)) (Fin.ofNat 32 (fld w 105 5)) (4 * (Fin.ofNat 64 (fld w 122 6) : GateNo).val) →
     ((addrOk s.declared a 4 .post false && (s.sliceOf f a .post).isSome) = false →
       ∃ t, exec (.post l i) s = .next t ∧ onlyCore s t p ∧
         t.cores[p].quiet = (s.cores[p].setStream i ((s.cores[p].stream i).advance s.now 1)).quiet ∧
         t.cores[p].tally = (s.events p [(0x22, 1)]).cores[p].tally ∧ t.log = (s.events p [(0x22, 1)]).log) ∧
     (∀ fl, addrOk s.declared a 4 .post false = true → (s.sliceOf f a .post).isSome = true →
       s.flowOf f false l (BitVec.ofNat 12 (fld w 110 12)) = some fl →
       ∃ t x, exec (.post l i) s = .next t ∧ onlyCore { s with hall := t.hall } t p ∧
         t.cores[p] = s.cores[p].setStream i ((s.cores[p].stream i).advance s.now 1) ∧
         t.hall = { s.hall with tx := s.hall.tx ++ [x] } ∧ x.ready = s.now + 48 ∧ x.rein = fl.2.rein ∧
         x.pkt.type = 4 ∧ x.pkt.addr = a ∧ x.pkt.stamp = s.stamp (s.now + 48 + fl.2.lambda) ∧ x.fold = f)) ∧
  (∀ (s : State) (l p : CoreNo), s.phys l = some p →
     (∀ i g h since, (s.cores[p].stream i).wait = .post g h since → s.cores[p].gates[g].full s.now = false →
       s.turn l i (some (.places g)) = true →
       coreBecomes (.postHoldRelease l (.stream i)) s p
         ({ s.cores[p] with
             gates := s.cores[p].gates.set g
               { s.cores[p].gates[g] with queue := s.cores[p].gates[g].queue ++ [(h, s.now + 2)] } }.setStream i
           { (s.cores[p].stream i).advance since (s.now - since + 1) with wait := .none })) ∧
     (∀ i g h since, (s.cores[p].stream i).wait = .post g h since →
       s.cores[p].gates[g].full s.now = true ∨ s.turn l i (some (.places g)) = false →
       exec (.postHoldRelease l (.stream i)) s = .next s) ∧
     (∀ d k i e g h, s.cores[p].heldSlot d k.val = some (i, e, g, h) →
       (s.cores[p].gates[g].full s.now = false →
         coreBecomes (.postHoldRelease l (.slot d k)) s p
           ({ s.cores[p] with
               gates := s.cores[p].gates.set g
                 { s.cores[p].gates[g] with queue := s.cores[p].gates[g].queue ++ [(h, s.now + 2)] } }.setDs d i
             (((s.ds p d i).posted e).settle s.tick.number.toNat))) ∧
       (s.cores[p].gates[g].full s.now = true → exec (.postHoldRelease l (.slot d k)) s = .next s)) ∧
     (∀ a, s.cores[p].arrivals.find? (fun a => decide (a.arrive ≤ s.now)) = some a →
       (a.dead = true → coreRaises (.handleArrival l) s p
         { s.cores[p] with arrivals := s.cores[p].arrivals.erase a } [(0x2A, 1)]) ∧
       (a.dead = false → s.cores[p].gates[a.gate].full s.now = true → coreRaises (.handleArrival l) s p
         { s.cores[p] with arrivals := s.cores[p].arrivals.erase a } [(0x38, 1)]) ∧
       (a.dead = false → s.cores[p].gates[a.gate].full s.now = false → coreBecomes (.handleArrival l) s p
         { s.cores[p] with
           arrivals := s.cores[p].arrivals.erase a
           gates := s.cores[p].gates.set a.gate
             { s.cores[p].gates[a.gate] with queue := s.cores[p].gates[a.gate].queue ++ [(a.handle, a.arrive)] } })))

/-! ## Number formats -/

/-- R42, R43, with M and the smallest positive value of Table 2.1: a magnitude above M and below 2M becomes ±M with a
clip event, one of 2M or more becomes ±∞ with an overflow event, and exactly M stays M without an event. No nonzero value
is rounded to zero: a magnitude above zero and below the smallest positive value becomes ± that value with a lift event.
Within the range no event is raised, and zero is the code 0. -/
def Obligations.TaperedRangeIsKept : Prop :=
  ∀ (f : Fmt) (n : Nat) (big small : Int),
    (f, n, big, small) ∈ [(Fmt.tp8, 8, 10, -12), (.tp16, 16, 26, -28), (.tp32, 32, 232, -240)] →
    ∀ (q : Rat) (z : Bool),
      (q = 0 → f.encode (.fin q) z = (0, [])) ∧
      (q ≠ 0 → 0 < (f.encode (.fin q) z).1 ∧ (f.encode (.fin q) z).1 < 2 ^ n) ∧
      (0 < absQ q → absQ q < twoPow small → f.encode (.fin q) z = (if q < 0 then 2 ^ n - 1 else 1, [.lift])) ∧
      (twoPow small ≤ absQ q → absQ q ≤ twoPow big → (f.encode (.fin q) z).2 = []) ∧
      (absQ q = twoPow big → (f.encode (.fin q) z).1 = if q < 0 then 2 ^ (n - 1) + 2 else 2 ^ (n - 1) - 2) ∧
      (twoPow big < absQ q → absQ q < 2 * twoPow big →
        f.encode (.fin q) z = (if q < 0 then 2 ^ (n - 1) + 2 else 2 ^ (n - 1) - 2, [.clip])) ∧
      (2 * twoPow big ≤ absQ q →
        f.encode (.fin q) z = (if q < 0 then 2 ^ (n - 1) + 1 else 2 ^ (n - 1) - 1, [.overflow]))

/-! ## Array and accumulator -/

/-- R88, R91, R100, R102, R191, R452, Tables 9.7 and 4.2: PASS of full or half depth and WPASS put their first pass in
flight: the feeder entry at the offset as its row when its format fits the pair, else the missing row; the named weight
set, counts, slot and destination row of the word. The matrix stream goes on after M × p passes, the others of which
are left to the clock. Nothing else changes; a command of the other depth than the word's changes nothing.
R92, R93, R95, R102, R122: 11 cycles after its issue the oldest pass leaves the slot write stage: its slot, and the next
slot in half-depth mode, have been added to, and it is in flight no longer; what the currier and the drovers read in that cycle
stands without it. Earlier, nothing happens. -/
def Obligations.PassesIssueAndLeave : Prop :=
  (∀ (s : State) (l p : CoreNo) (w : Word128) (wide : Bool) (c : Instr),
     (if wide then s.matrixIssue l 0x02 = some (p, w) ∧ c = .wpass l
      else s.matrixIssue l 0x01 = some (p, w) ∧ c = (if bitOf w 76 then .passHalfDepth l else .pass l)) →
     ∃ (f : PassFl) (act : Active),
       f.issue = s.now ∧ f.op = s.now ∧ f.wide = wide ∧ f.pair = BitVec.ofNat 3 (fld w 73 3) ∧
       f.half = (!wide && bitOf w 76) ∧ f.set = bitOf w 77 ∧
       f.weights = (if bitOf w 77 then s.cores[p].setY else s.cores[p].setX) ∧
       f.slot = fld w 78 6 ∧ f.dest = fld w 84 7 ∧ f.ncount = fld w 91 7 + 1 ∧
       f.kcount = (if wide then fld w 101 5 + 1 else fld w 98 8 + 1) ∧
       (∀ e, s.cores[p].feeder[fld w 113 7]? = some e → e.fmt ∈ pairAct wide (fld w 73 3) → f.row = e) ∧
       (∀ e, s.cores[p].feeder[fld w 113 7]? = some e → e.fmt ∉ pairAct wide (fld w 73 3) → f.row = FeederEntry.missing) ∧
       (s.cores[p].feeder[fld w 113 7]? = none → f.row = FeederEntry.missing) ∧
       act.word = w ∧ act.part = 1 ∧ act.due = s.now + 1 ∧
       act.parts = (fld w 106 7 + 1) * (passPieces wide (fld w 73 3)).length ∧
       coreRaises c s p
         { s.cores[p] with
           passes := s.cores[p].passes ++ [f]
           matrix := { s.cores[p].matrix.advance s.now act.parts with active := some act } }
         [(if wide then 0x02 else 0x01, 1), (0x34, b2n (decide (f.row = FeederEntry.missing))), (0x30, b2n f.mismatch)]) ∧
  (∀ (s : State) (l p : CoreNo) (w : Word128), s.matrixIssue l 0x01 = some (p, w) →
     exec (if bitOf w 76 then .pass l else .passHalfDepth l) s = .next s) ∧
  (∀ (s : State) (l p : CoreNo) (f : PassFl) (rest : List PassFl), s.phys l = some p → s.cores[p].passes = f :: rest →
     (s.now < f.issue + 11 → exec (.passSlotUpdate l) s = .next s) ∧
     (f.issue + 11 ≤ s.now → ∀ mark : Bool, mark = (f.mismatch || f.rowBad || f.weights.conflict ||
         (if f.set then s.cores[p].setY else s.cores[p].setX).conflict) →
       ∃ e : Core, e = { s.cores[p] with passes := rest, acc := e.acc, wroteBack := e.wroteBack, origins := e.origins } ∧
         e.accAt s.now = s.cores[p].accAt s.now ∧
         (f.half = false → e.acc = (s.cores[p].acc.addPass f f.slot false mark).1 ∧
           coreRaises (.passSlotUpdate l) s p e (s.cores[p].acc.addPass f f.slot false mark).2) ∧
         (f.half = true → ∀ a, a = s.cores[p].acc.addPass f f.slot false mark →
           e.acc = (a.1.addPass f (f.slot + 1) true mark).1 ∧
           coreRaises (.passSlotUpdate l) s p e (a.2 ++ (a.1.addPass f (f.slot + 1) true mark).2))))

/-- R66, R88, R89, R93, R114: a UQ8 pass adds to entry (destination row, n) of its slot, for n below the N count, the exact
sum over its K positions of (c_a − z_a) × (c_w − z_w), in two's complement; in a tensor with strays the code 255 counts as 0.
A row in the cleared state counts as zeros. Every other entry and side entry of the accumulator stays as it is, but for the
zeros of a cleared row, and so do the slot state words. -/
def Obligations.Uq8PassAddsExactSums : Prop :=
  ∀ (a : Accum) (f : PassFl), a.wf → f.wide = false → f.pair = 1 → f.half = false → a.cls f.slot = 0 →
    f.row.fmt = .uq8 → f.weights.fmt = some .uq8 → f.dest < 128 → f.ncount ≤ 128 →
    ∀ (b : Accum) (es : List (Nat × Nat)) (act : Nat → Int) (wt : Nat → Nat → Int) (was : Nat → Word64),
      a.addPass f f.slot false false = (b, es) →
      (∀ k, act k = if f.row.stray = true ∧ (f.row.elem k).code = 0xFF then 0
        else ((f.row.elem k).code.toNat : Int) - f.row.za.toNat) →
      (∀ k n, wt k n = if leAt f.weights.trailer 128 4 ≠ 0 ∧ (f.weights.cell k n).code = 0xFF then 0
        else ((f.weights.cell k n).code.toNat : Int) - (f.weights.trailer.getD n 0).toNat) →
      (∀ n, was n = if rowCleared (a.row f.slot f.dest) then 0 else a.entry f.slot f.dest n) →
      (∀ n, n < f.ncount → b.entry f.slot f.dest n = was n + BitVec.ofInt 64
        (((List.range f.kcount).map fun k => act k * wt k n).sum)) ∧
      (∀ n, f.ncount ≤ n → n < 128 → b.entry f.slot f.dest n = was n ∧
        b.side f.slot f.dest n = if rowCleared (a.row f.slot f.dest) then 0 else a.side f.slot f.dest n) ∧
      (∀ slot row n, row < 128 → n < 128 → (slot ≠ f.slot ∨ row ≠ f.dest) →
        b.entry slot row n = a.entry slot row n ∧ b.side slot row n = a.side slot row n) ∧
      b.slots = a.slots

/-- R114, R117, R118, R120, R193, Tables 9.8 and 9.9: CLEAR puts its first slot or pair down to be cleared in the next
cycle and leaves the others to the clock; SPILL and READ start a walk, a class that disagrees counting event 0x31; WLOAD
re-arms its stream from its own issue cycle with the word's source base and set. Each moves the matrix stream on; a SPILL
command of the other kind than the word's changes nothing.
R121: a matrix instruction that would meet a row hazard is held for 12 cycles, counted as event 0x0A; without a
hazard nothing is held. -/
def Obligations.WalksAndLoadsIssue : Prop :=
  (∀ (s : State) (l p : CoreNo) (w : Word128),
     (s.matrixIssue l 0x03 = some (p, w) → ∃ t : Stream,
       t = (if fld w 115 6 = 0 then s.cores[p].matrix.advance s.now 1
            else { s.cores[p].matrix.advance s.now (fld w 115 6 + 1) with
              active := some { word := w, part := 1, parts := fld w 115 6 + 1, due := s.now + 1 } }) ∧
       coreBecomes (.clear l) s p
         { s.cores[p] with
           matrix := t
           clears := s.cores[p].clears ++
             (if bitOf w 121 then
               [(fld w 122 6, BitVec.ofNat 3 (fld w 112 3), if fld w 112 3 = 3 then BitVec.ofNat 16 (fld w 96 16) else 0, s.now + 1),
                (fld w 122 6 + 1, 7, 0, s.now + 1)]
              else
               [(fld w 122 6, BitVec.ofNat 3 (fld w 112 3), if fld w 112 3 = 3 then BitVec.ofNat 16 (fld w 96 16) else 0,
                 s.now + 1)]) }) ∧
     (s.matrixIssue l 0x04 = some (p, w) → ∃ k : Walk, k.isRead = false ∧ k.issue = s.now ∧ k.slot = fld w 122 6 ∧
       k.pair = bitOf w 121 ∧ k.flag = bitOf w 120 ∧ k.quire = some (fld w 89 31) ∧ k.next = 0 ∧ k.caught = [] ∧
       (k.mismatch = false ↔ (s.cores[p].acc.cls k.slot = 1 ∧ k.pair = false) ∨
         (s.cores[p].acc.cls k.slot = 2 ∧ k.pair = true)) ∧
       coreRaises (if bitOf w 120 then .spillFirst l else .spill l) s p
         { s.cores[p] with walks := s.cores[p].walks ++ [k], matrix := s.cores[p].matrix.advance s.now 1 }
         [(0x31, b2n k.mismatch)] ∧
       exec (if bitOf w 120 then .spill l else .spillFirst l) s = .next s) ∧
     (s.matrixIssue l 0x05 = some (p, w) → ∃ k : Walk, k.isRead = true ∧ k.issue = s.now ∧ k.slot = fld w 122 6 ∧
       k.flag = bitOf w 120 ∧ k.cls = BitVec.ofNat 3 (s.cores[p].acc.cls k.slot) ∧ k.next = 0 ∧ k.caught = [] ∧
       k.fmt = fmtD (fld w 84 4) ∧ k.kind = BitVec.ofNat 2 (fld w 82 2) ∧
       (k.mismatch = false ↔ s.cores[p].acc.cls k.slot ≠ 7 ∧
         (bitOf w 121 = true ↔ s.cores[p].acc.cls k.slot = 2 ∨ s.cores[p].acc.cls k.slot = 3) ∧
         (bitOf w 119 = true → s.cores[p].acc.cls k.slot = 1 ∨ s.cores[p].acc.cls k.slot = 2)) ∧
       (k.quire = if bitOf w 119 && !k.mismatch then some (fld w 88 31) else none) ∧
       coreRaises (.read l) s p
         { s.cores[p] with walks := s.cores[p].walks ++ [k], matrix := s.cores[p].matrix.advance s.now 1 }
         [(0x31, b2n k.mismatch)]) ∧
     (s.issuing l .matrix 0x06 = some (p, w) → ∀ q, q = (s.ds p (Fin.ofNat 4 (fld w 94 2)) (Fin.ofNat 8 (fld w 91 3))).rearmBy
         { src := some (fld w 96 32), dst := some (fld w 90 1), origin := s.now, relative := true, bad := false, tick := false }
         s.tick.number.toNat →
       coreRaises (.wload l) s p
         { s.cores[p].setDs (Fin.ofNat 4 (fld w 94 2)) (Fin.ofNat 8 (fld w 91 3)) q.1 with
           matrix := s.cores[p].matrix.advance s.now 1 } [(0x29, q.2)])) ∧
  (∀ (s : State) (l p : CoreNo) (w : Word128), s.phys l = some p →
     s.issuing l .matrix (opcodeOf (s.cores[p].matrix.modified (s.cores[p].nextWord .matrix))) = some (p, w) →
     (s.cores[p].hazard w s.now = true → coreRaises (.hazardHold l) s p
       { s.cores[p] with matrix := { s.cores[p].matrix with floor := s.now + 12 } } [(0x0A, 1)]) ∧
     (s.cores[p].hazard w s.now = false → exec (.hazardHold l) s = .next s))

/-- R114: a clear that takes its effect sets the cleared bit of every row of its slot, with a count of 0, and writes the
slot state word: class in [2:0], window base in [31:16]. Other slots keep rows and slot state, and no entry changes.
R110, R114: the first operation that reads a cleared row of one slot finds integer 0, zero side entries and a count of 0
there, and the cleared bit gone, the carry guard left; a row that is not cleared stays as it is.
R116, R117, Table 6.10: a spill walk writes the oldest row it has read to its quire, two cycles after the read: the
integers of the row at the row's place, and its side entries behind the 128 × 128 entries.
R118, R119, R192, Table 6.11: a readout row leaves three cycles after it was read, as 128 elements with their marks:
into one feeder entry at the tail, or discarded when the feeder is full; into register first + row mod 8 of the currier; or
to a drover stream, which leaves the feeder, the registers and the accumulator as they are, and nowhere when that stream does
not run. A core with a fatal fault marks every element (R209).
R41, R49, R72, R118, R119, Table 6.12: an element of a readout row that is not UQ8 is its exact value, slot plus quire in
the unit of the class, encoded once in the destination format; of a UQ8 slot it is the integer times the scales of both
operands; a tag gives the infinity or NaN that it names; the element carries the bad bit of the merged side entry, and in a UQ8
slot that of a scale read bad.
Table 6.8 and R113: the merge of two side entries: a finite tag gives way to the other, equal infinities stay, and
infinities of both signs give NaN with the invalid bit; NaN stays NaN; bad and invalid bits are joined. -/
def Obligations.RowsAreClearedSpilledAndReadOut : Prop :=
  (∀ (a : Accum) (slot : Nat) (cls : BitVec 3) (base : BitVec 16), a.wf →
     (∀ row, row < 128 → (a.clear slot cls base).row slot row = 0x8000) ∧
     (a.clear slot cls base).cls slot = cls.toNat ∧ fld ((a.clear slot cls base).slot slot) 16 16 = base.toNat ∧
     (∀ x row, x ≠ slot → row < 128 → (a.clear slot cls base).row x row = a.row x row ∧
       (a.clear slot cls base).slot x = a.slot x) ∧
     (a.clear slot cls base).entries = a.entries ∧ (a.clear slot cls base).sides = a.sides) ∧
  (∀ (a : Accum) (slot row : Nat), a.wf → row < 128 → a.cls slot ≠ 3 →
     (rowCleared (a.row slot row) = false → a.materialise slot row false = a) ∧
     (rowCleared (a.row slot row) = true →
       (a.materialise slot row false).row slot row = (if rowGuard (a.row slot row) then 0x4000 else 0) ∧
       (∀ n, n < 128 → (a.materialise slot row false).entry slot row n = 0 ∧
         (a.materialise slot row false).side slot row n = 0) ∧
       (∀ x r n, (x ≠ slot ∨ r ≠ row) → r < 128 → n < 128 → (a.materialise slot row false).entry x r n = a.entry x r n ∧
         (a.materialise slot row false).side x r n = a.side x r n))) ∧
  (∀ (s : State) (l p : CoreNo) (w : Walk) (k : Nat) (r : RowCap) (rest : List RowCap) (q : Nat), s.phys l = some p →
     (s.cores[p].walks.zipIdx.find? fun x => !x.1.isRead && !x.1.caught.isEmpty) = some (w, k) →
     w.caught = r :: rest → w.quire = some q →
     (s.now < w.readAt r.row + 2 → exec (.spillWalkRow l) s = .next s) ∧
     (w.readAt r.row + 2 ≤ s.now → coreBecomes (.spillWalkRow l) s p
       { s.cores[p] with
         pasture := (s.cores[p].pasture.put s.now (q + r.row * 128 * quireBytes w.cls.toNat) (r.quireBytes w.cls.toNat).1).put
           s.now (quireSides q w.cls.toNat r.row) (r.quireBytes w.cls.toNat).2
         walks := s.cores[p].walks.set k { w with caught := rest } })) ∧
  (∀ (s : State) (l p : CoreNo) (w : Walk) (k : Nat) (r : RowCap) (rest : List RowCap), s.phys l = some p →
     (s.cores[p].walks.zipIdx.find? fun x => x.1.isRead && !x.1.caught.isEmpty) = some (w, k) →
     w.caught = r :: rest →
     (s.now < w.readAt r.row + 3 → exec (.readoutRowLeave l) s = .next s) ∧
     (w.readAt r.row + 3 ≤ s.now → ∀ (o : Core × List Elem × List (Nat × Nat)) (e : Core) (es : List Elem),
       o = s.cores[p].readRow s.now w r (s.operandsOf p l w.slot) →
       e = { o.1 with walks := o.1.walks.set k { w with caught := rest } } →
       es = (if s.cores[p].fault.isSome then o.2.1.map fun x => { x with bad := true } else o.2.1) →
       (w.kind = 0 → ∃ t, exec (.readoutRowLeave l) s = .next t ∧ onlyCore s t p ∧
         t.cores[p].quiet = ({ e with feeder := if 128 ≤ e.feeder.length then e.feeder
             else e.feeder ++ [e.feederEntry w.fmt w.record es] } : Core).quiet) ∧
       (w.kind = 1 → ∃ t, exec (.readoutRowLeave l) s = .next t ∧ onlyCore s t p ∧
         ∀ n : Fin 32, n = Fin.ofNat 32 (w.reg.toNat + r.row % 8) →
         t.cores[p].quiet = ({ e with currier := { e.currier with
             regs := e.currier.regs.set n es, fmts := e.currier.fmts.set n w.fmt
             recs := e.currier.recs.set n w.record } } : Core).quiet) ∧
       (w.kind = 2 → ∃ t, exec (.readoutRowLeave l) s = .next t ∧ onlyCore s t p ∧ t.cores[p].walks = e.walks ∧
         t.cores[p].feeder = e.feeder ∧ t.cores[p].currier = e.currier ∧ t.cores[p].acc = e.acc ∧
         ((e.ds w.drover w.stream).status ≠ .running → t.cores[p].quiet = e.quiet)))) ∧
  (∀ (c : Core) (now n : Nat) (w : Walk) (r : RowCap) (ops : Nat × Nat × Nat), w.fmt ≠ .uq8 →
     ∀ (v : Int × Rat × BitVec 4) (x : Rat), v = r.value w.cls.toNat n →
     (w.cls.toNat = 0 → x = (v.1 : Rat) * c.scale (c.qrec ops.1) 0 * c.scale (c.qrec ops.2.1) (ops.2.2 + n)) →
     (w.cls.toNat = 1 → x = (((r.vals.getD n (0, 0)).1 + r.quire.getD n 0 : Int) : Rat) * twoPow (-24)) →
     (w.cls.toNat = 2 → x = (((r.vals.getD n (0, 0)).1 + r.quire.getD n 0 : Int) : Rat) * twoPow (-56)) →
     (w.cls.toNat = 3 → x = ((r.vals.getD n (0, 0)).1 : Rat) * twoPow (r.vals.getD n (0, 0)).2) →
     w.cls.toNat ≤ 3 →
     (c.readElem now w r ops n).1 = c ∧
     (c.readElem now w r ops n).2.1.code = BitVec.ofNat 64 (w.fmt.encode (tagExt (sideTag v.2.2) x)).1 ∧
     (w.cls.toNat ≠ 0 → (c.readElem now w r ops n).2.1.bad = sideBad v.2.2) ∧
     (w.cls.toNat = 0 → (c.readElem now w r ops n).2.1.bad = (sideBad v.2.2 || c.readBad w ops n))) ∧
  (∀ a b : BitVec 4,
     sideBad (sideMerge a b) = (sideBad a || sideBad b) ∧
     (sideTag a = 0 → sideTag (sideMerge a b) = sideTag b ∧ sideInvalid (sideMerge a b) = (sideInvalid a || sideInvalid b)) ∧
     (sideTag b = 0 → sideTag (sideMerge a b) = sideTag a ∧ sideInvalid (sideMerge a b) = (sideInvalid a || sideInvalid b)) ∧
     (sideTag a = 3 ∨ sideTag b = 3 → sideTag (sideMerge a b) = 3 ∧
       sideInvalid (sideMerge a b) = (sideInvalid a || sideInvalid b)) ∧
     (sideTag a = sideTag b → sideTag (sideMerge a b) = sideTag a ∧
       sideInvalid (sideMerge a b) = (sideInvalid a || sideInvalid b)) ∧
     (sideTag a = 1 ∧ sideTag b = 2 ∨ sideTag a = 2 ∧ sideTag b = 1 →
       sideTag (sideMerge a b) = 3 ∧ sideInvalid (sideMerge a b) = true))

/-- The accumulator stays in canonical form under every operation on it: clears, the first read of a cleared row, passes,
stray corrections, rows written from outside the array and the rows that walks read. -/
def Obligations.AccumulatorStaysCanonical : Prop :=
  ∀ (c : Core) (a : Accum), a.wf →
    (∀ slot cls base, (a.clear slot cls base).wf) ∧ (∀ slot row pair, (a.materialise slot row pair).wf) ∧
    (∀ f slot lower mark, (a.addPass f slot lower mark).1.wf) ∧ (∀ f, (a.addStray f).wf) ∧
    (∀ slot row col es, (a.putRow slot row col es).wf) ∧
    (∀ w now, c.acc = a → (c.walkCatch w now).1.acc.wf)

/-! ## The currier -/

/-- R126, R128, R129, R143, R185, R194, Table 9.11: a lane operation reads its operands in its issue cycle and sends the
results of its first lane-row towards register d; they land the latency after the issue of the last lane-row. The stream
goes on after g lane-rows of 1 cycle each, of 4 with binary64, of its step count for a micro-program (a thread after
a slot of 8 cycles for each issue cycle), and the other lane-rows are left to the clock. A TEVAL with the clear flag zeroes the
lane quires at its first issue cycle, and its results join them as they land (R138; the model's choice of flag, log entry 54).
Table 7.2, R126, R129: the latency from the issue of the last lane-row: 4 cycles for arithmetic, compares, selects and
conversions, and for row sums; 10 for a table evaluation; 13 for a row extreme; 3 more with a binary64 operand or
destination, whose lane-rows take 4 issue cycles instead of 1.
R46, R47, R127, Table 9.11: on finite operands a lane holds the exact result, to be rounded once; a compare gives 1 or
0; maximum and minimum ignore a NaN; LSEL selects b where a is not 0, else c, and keeps a code of the destination format;
CVT holds the value of its operand; a mark of any operand marks the result. -/
def Obligations.LaneOperationsIssueAndCompute : Prop :=
  (∀ (s : State) (l p : CoreNo) (i : Issuer) (w : Word128) (op : Nat) (c : Instr),
     (c, op) ∈ [(Instr.add l i, 0x40), (.sub l i, 0x41), (.mul l i, 0x42), (.fma l i, 0x43), (.sprod l i, 0x44),
       (.affine l i, 0x45), (.cmp l i, 0x46), (.max l i, 0x47), (.min l i, 0x48), (.lsel l i, 0x49), (.cvt l i, 0x4A),
       (.teval l i, 0x4B), (.mprog l i, 0x4C)] →
     s.issuing l i op = some (p, w) →
     ∀ (start per : Nat), start = s.microStart l w → per = s.cores[p].rowCycles op w start →
     ∃ (r : ResultFl) (t : Stream) (clash : Bool) (z : Currier),
       r.land = s.now + per * (curG w - 1) + s.cores[p].latency op w start ∧ r.reg = curD w % 32 ∧ r.row = 0 ∧
       r.fmt = curFmt w ∧ r.record = curImm w ∧
       r.vals = ((List.range (curLanes w 0)).map fun lane => (s.cores[p].laneOp s.now op w start 0 lane).1) ∧
       (clash = true ↔ ∃ lane, lane < curLanes w 0 ∧ (s.cores[p].laneOp s.now op w start 0 lane).2 = true) ∧
       t = { (s.cores[p].stream i).advance s.now (takenCycles i per (curG w)) with
         active := if curG w = 1 then (s.cores[p].stream i).active
           else some { word := w, part := 1, parts := per * curG w, due := s.now + 1 } } ∧
       r.sums = (decide (op = 0x4B) && bitOf w 43) ∧
       (r.sums = false → z = s.cores[p].currier ∧ coreRaises c s p
         ({ s.cores[p] with currier := { z with results := z.results ++ [r] } }.setStream i t) [(0x04, 1), (0x37, b2n clash)]) ∧
       (r.sums = true → z = { s.cores[p].currier with
           quires := Vector.ofFn fun (n : Fin 128) =>
             if n.val < (if curG w = 1 then curK w else 128) then LaneQuire.zero else s.cores[p].currier.quires[n]
           emptyRow := z.emptyRow } ∧
         coreRaises c s p ({ s.cores[p] with currier := { z with results := z.results ++ [r] } }.setStream i t)
           [(0x04, 1), (0x37, b2n clash), (0x42, b2n (decide (curG w = 1) && z.emptyRow))])) ∧
  (∀ (c : Core) (op start : Nat) (w : Word128), op ∈ [0x40, 0x41, 0x42, 0x43, 0x44, 0x45, 0x46, 0x47, 0x48, 0x49, 0x4A, 0x4B,
       0x4D, 0x4E, 0x4F, 0x50, 0x51] →
     (c.involves64 op w = false → c.rowCycles op w start = 1 ∧
       c.latency op w start = (if op = 0x4B then 10 else if op = 0x4D ∨ op = 0x4E then 13 else 4)) ∧
     (c.involves64 op w = true → c.rowCycles op w start = 4 ∧
       c.latency op w start = (if op = 0x4B then 13 else if op = 0x4D ∨ op = 0x4E then 16 else 7)) ∧
     (curFmt w = .b64 → op ≠ 0x4F → op ≠ 0x50 → op ≠ 0x51 → c.involves64 op w = true) ∧
     (∀ j, j < curG w → c.currier.fmts[Fin.ofNat 32 (curA w + j)] = .b64 → c.involves64 op w = true)) ∧
  (∀ (c : Core) (now start j lane : Nat) (w : Word128) (a b d e f : LaneOp),
     a = c.operand (curA w + j) j lane → b = c.operand (regB w j) j lane → d = c.operand (regC w j) j lane →
     e = c.operand (curD2 w + j) j lane → f = c.operand (curE w + j) j lane →
     (∀ x y, a.x = .fin x → b.x = .fin y →
       ((c.laneOp now 0x40 w start j lane).1.x = .fin (x + y) ∧ (c.laneOp now 0x41 w start j lane).1.x = .fin (x - y) ∧
         (c.laneOp now 0x42 w start j lane).1.x = .fin (x * y)) ∧
       (∀ z, d.x = .fin z → (c.laneOp now 0x43 w start j lane).1.x = .fin (x * y + z) ∧
         (c.laneOp now 0x44 w start j lane).1.x = .fin (x * y * z) ∧
         (∀ u v, e.x = .fin u → f.x = .fin v → (c.laneOp now 0x45 w start j lane).1.x = .fin ((x - y) * z * u + v))) ∧
       (c.laneOp now 0x46 w start j lane).1.x = .fin (if (fld w 35 3 = 0 ∧ x = y) ∨ (fld w 35 3 = 1 ∧ x < y) ∨
         (fld w 35 3 = 2 ∧ x ≤ y) then 1 else 0) ∧
       (c.laneOp now 0x47 w start j lane).1.x = .fin (max x y) ∧ (c.laneOp now 0x48 w start j lane).1.x = .fin (min x y)) ∧
     (a.x = .nan → (c.laneOp now 0x47 w start j lane).1.x = b.x ∧ (c.laneOp now 0x48 w start j lane).1.x = b.x ∧
       (c.laneOp now 0x46 w start j lane).1.x = .fin (if fld w 35 3 = 3 then 1 else 0)) ∧
     (b.x = .nan → (c.laneOp now 0x47 w start j lane).1.x = a.x ∧ (c.laneOp now 0x48 w start j lane).1.x = a.x) ∧
     (a.x.isZero = false → (c.laneOp now 0x49 w start j lane).1.x = b.x ∧
       (b.fmt = curFmt w → (c.laneOp now 0x49 w start j lane).1.copy = some b.code)) ∧
     (a.x.isZero = true → (c.laneOp now 0x49 w start j lane).1.x = d.x ∧
       (d.fmt = curFmt w → (c.laneOp now 0x49 w start j lane).1.copy = some d.code)) ∧
     ((c.laneOp now 0x4A w start j lane).1.x = a.x ∧ (c.laneOp now 0x4A w start j lane).1.bad = a.bad) ∧
     (∀ op, op ∈ [0x40, 0x41, 0x42, 0x46, 0x47, 0x48] → (c.laneOp now op w start j lane).1.bad = (a.bad || b.bad)) ∧
     (∀ op, op ∈ [0x43, 0x44, 0x49] → (c.laneOp now op w start j lane).1.bad = (a.bad || b.bad || d.bad)) ∧
     (c.laneOp now 0x45 w start j lane).1.bad = (a.bad || b.bad || d.bad || e.bad || f.bad))

/-- R130, R185, R194: a row sum sends the element, its square or its squared difference of each lane of its first lane-row
towards the lane quires, which the clear flag zeroes first; a row extreme takes the extreme of its first lane-row, and
with one lane-row sends it to every lane of register d.
R131, R139, R185, Table 7.2: a row statistic reads the quires in its issue cycle and lands a fixed latency later: 1/S at t +
24, and 0 after an empty soft maximum row; S/L at t + 20, table 3 of round32(S/L + ε) at t + 34, and each lane quire at t + 8;
3 cycles later in binary64. The quires stay as they are.
R69, R123, R149, R455: a STRAY takes entry 0 of its list in its issue cycle and leaves the others of its 64 cycles to the
clock; on a list that holds none it only takes its cycles. Into a slot of another class than UQ8 its additions are discarded,
what they would touch is marked, and one class conflict is counted, event 0x31; clips of a quotient count in its tensor. A
STRAY command of the other kind than the word's changes nothing. -/
def Obligations.RowAndStrayOperationsIssue : Prop :=
  (∀ (s : State) (l p : CoreNo) (i : Issuer) (w : Word128) (op : Nat) (c : Instr), s.issuing l i op = some (p, w) →
     ∀ (per : Nat) (t : Stream), per = s.cores[p].rowCycles op w (s.microStart l w) →
     t = { (s.cores[p].stream i).advance s.now (takenCycles i per (curG w)) with
         active := if curG w = 1 then (s.cores[p].stream i).active
           else some { word := w, part := 1, parts := per * curG w, due := s.now + 1 } } →
     ((c, op) ∈ [(Instr.rsum l i, 0x4F), (.rsumsq l i, 0x50), (.rsumsd l i, 0x51)] →
       ∃ (q : QuireFl) (z : Currier),
         q.land = s.now + per * (curG w - 1) + s.cores[p].latency op w (s.microStart l w) ∧
         q.vals.length = curLanes w 0 ∧
         (∀ lane v, lane < curLanes w 0 → q.vals[lane]? = some v → ∀ x, (s.cores[p].operand (curA w) 0 lane).x = .fin x →
           (op = 0x4F → v.x = .fin x) ∧ (op = 0x50 → v.x = .fin (x * x)) ∧
           (∀ y, op = 0x51 → (s.cores[p].operand (regB w 0) 0 lane).x = .fin y → v.x = .fin ((x - y) * (x - y)))) ∧
         z = { s.cores[p].currier with
           quires := if bitOf w 43 then Vector.ofFn fun (n : Fin 128) =>
               if n.val < (if curG w = 1 then curK w else 128) then LaneQuire.zero else s.cores[p].currier.quires[n]
             else s.cores[p].currier.quires
           emptyRow := !bitOf w 43 && s.cores[p].currier.emptyRow
           addends := s.cores[p].currier.addends ++ [q] } ∧
         coreRaises c s p ({ s.cores[p] with currier := z }.setStream i t) [(0x04, 1)]) ∧
     ((c, op) ∈ [(Instr.rmax l i, 0x4D), (.rmin l i, 0x4E)] →
       ∀ x : Ext × Bool, x = ((List.range (curLanes w 0)).map fun lane => s.cores[p].operand (curA w) 0 lane).foldl
         (fun (e : Ext × Bool) o => (extremeOf (decide (op = 0x4D)) e.1 o.x, e.2 || o.bad)) (.nan, false) →
       (curG w = 1 → ∃ r : ResultFl, r.land = s.now + s.cores[p].latency op w (s.microStart l w) ∧ r.reg = curD w ∧
         r.fmt = curFmt w ∧ r.vals.length = 128 ∧ (∀ v ∈ r.vals, v.x = x.1 ∧ v.bad = x.2) ∧
         coreRaises c s p ({ s.cores[p] with currier := { s.cores[p].currier with
           results := s.cores[p].currier.results ++ [r], extreme := none } }.setStream i t)
           [(0x04, 1)]) ∧
       (curG w ≠ 1 → coreRaises c s p ({ s.cores[p] with currier := { s.cores[p].currier with
           extreme := some x } }.setStream i t) [(0x04, 1)]))) ∧
  (∀ (s : State) (l p : CoreNo) (i : Issuer) (w : Word128) (op lat : Nat) (c : Instr),
     (c, op, lat) ∈ [(Instr.rrecip l i, 0x52, 24), (.rmean l i, 0x53, 20), (.rrsqrt l i, 0x54, 34), (.qread l i, 0x55, 8)] →
     s.issuing l i op = some (p, w) →
     ∀ total : Ext × Bool × Bool, total = s.cores[p].currier.total (if curG w = 1 then curK w else 128) →
     ∃ (r : ResultFl) (clash : Bool), r.land = s.now + lat + (if curFmt w = .b64 then 3 else 0) ∧ r.reg = curD w ∧
       r.fmt = curFmt w ∧ r.vals.length = 128 ∧
       (op = 0x52 → ∀ q : Rat, total.1 = .fin q → (q ≠ 0 ∨ s.cores[p].currier.emptyRow = true) → ∀ v ∈ r.vals,
         v.x = round32 (.fin (if s.cores[p].currier.emptyRow then 0 else 1 / q)) ∧ v.bad = total.2.1) ∧
       (op = 0x53 → ∀ q : Rat, total.1 = .fin q → ∀ v ∈ r.vals,
         v.x = round32 (.fin (q / ((128 * (curG w - 1) + curK w : Nat) : Rat))) ∧ v.bad = total.2.1) ∧
       (op = 0x54 → ∀ q e : Rat, total.1 = .fin q → Fmt.b32.value (curImm w) = .fin e → ∀ v ∈ r.vals,
         v.x = (s.cores[p].currier.evaluateAt s.now 3
           (round32 (.fin (q / ((128 * (curG w - 1) + curK w : Nat) : Rat) + e))) false none false).value) ∧
       (op = 0x55 → ∀ lane : Fin 128, ∃ v, r.vals[lane.val]? = some v ∧ v.x = s.cores[p].currier.quires[lane].value ∧
         v.bad = s.cores[p].currier.quires[lane].bad) ∧
       (op ≠ 0x54 → clash = false) ∧
       coreRaises c s p
         ({ s.cores[p] with currier := { s.cores[p].currier with results := s.cores[p].currier.results ++ [r] } }.setStream i
           ((s.cores[p].stream i).advance s.now (slotCycles i))) [(0x04, 1), (0x37, b2n clash)]) ∧
  (∀ (s : State) (l p : CoreNo) (w : Word128), s.issuing l .currier 0x56 = some (p, w) →
     ∀ (c d : Instr) (e : Core) (evs : List (Nat × Nat)) (t : Stream) (ok : Bool),
       c = (if bitOf w 82 then .strayWeight l else .strayActivation l) →
       d = (if bitOf w 82 then .strayActivation l else .strayWeight l) →
       (e, evs) = s.cores[p].scan s.now (s.cores[p].strayParts w) →
       t = { s.cores[p].cstream.advance s.now 64 with
         active := some { word := w, part := 1, parts := 64, due := s.now + 1 } } →
       (ok = true ↔ s.cores[p].acc.cls (fld w 90 6) = 0) →
     exec d s = .next s ∧
     (e.pasture.num (curImm w) 1 = 0 → coreRaises c s p { e with cstream := t } evs) ∧
     (∀ x, x = e.strayEntry w (s.strayTiles l w) 0 → 1 ≤ e.pasture.num (curImm w) 1 →
       ∃ f : StrayFl, f.issue = s.now ∧
         (ok = true → f.adds = x.1 ∧ f.tags = x.2.1) ∧
         (ok = false → f.adds = [] ∧ f.tags = x.2.1.map fun y => (y.1, y.2.1, y.2.2.1, 4)) ∧
         coreRaises c s p
           { e with
             cstream := t, currier := { e.currier with strays := e.currier.strays ++ [f] }
             tensors := if x.2.2 = 0 then e.tensors
               else (e.setTensor (fld w 29 31)
                 { e.tensor (fld w 29 31) with clips := (e.tensor (fld w 29 31)).clips + x.2.2 }).tensors }
           (evs ++ [(0x18, x.2.2), (0x31, b2n !ok)])))

/-- R127, R128: CURRIER_RESULT_LAND of one due result that no other is beside: register d holds the landed elements, the
lanes beyond them unchanged, with the format of the word; a copied code arrives unchanged, and every other value is
encoded once; the exponentials of a soft maximum join their lane quires as they stand in the register (R138). Addends that are
due are added to the quires of their lanes. Without anything due nothing changes.
R130, Tables 6.8 and 7.3: a finite addend below 2^256 in magnitude whose value is a multiple of 2^−320 is added
exactly to its lane quire; one of 2^256 or more sets the infinity of its sign in a finite quire and counts one quire
overflow, event 0x41, the sum left alone; an addend with lower bits is truncated toward zero, event 0x40. -/
def Obligations.ResultsAndAddends : Prop :=
  (∀ (s : State) (l p : CoreNo), s.phys l = some p →
     (∀ r : ResultFl, s.cores[p].currier.results = [r] → s.cores[p].currier.addends = [] → r.land ≤ s.now → r.fmt ≠ .uq8 →
       r.vals.length ≤ 128 →
       ∃ (es : List Elem) (evs : List (Nat × Nat)), es.length = 128 ∧
         (∀ (n : Nat) (v : LaneVal), r.vals[n]? = some v → ∃ e : Elem, es[n]? = some e ∧ e.bad = v.bad ∧
           (∀ code, v.copy = some code → e.code = code) ∧
           (v.copy = none → e.code = BitVec.ofNat 64 (r.fmt.encode v.x v.neg0).1)) ∧
         (∀ n : Nat, r.vals.length ≤ n → es[n]? =
           (sliceD { code := 0, bad := false } s.cores[p].currier.regs[Fin.ofNat 32 r.reg] 0 128)[n]?) ∧
         ∃ quires : Vector LaneQuire 128, (r.sums = false → quires = s.cores[p].currier.quires) ∧
         (r.sums = true → ∀ n : Fin 128,
           (∀ e : Elem, n.val < r.vals.length → es[n.val]? = some e → quires[n] = ((s.cores[p].currier.quires[n] : LaneQuire).add
             { x := r.fmt.value e.code.toNat, neg0 := false, copy := none, bad := e.bad, invalid := false }).1) ∧
           (r.vals.length ≤ n.val → quires[n] = s.cores[p].currier.quires[n])) ∧
         coreRaises (.currierResultLand l) s p
           { s.cores[p] with currier := { s.cores[p].currier with
               quires := quires, results := [], regs := s.cores[p].currier.regs.set (Fin.ofNat 32 r.reg : Fin 32) es
               fmts := s.cores[p].currier.fmts.set (Fin.ofNat 32 r.reg : Fin 32) r.fmt
               recs := s.cores[p].currier.recs.set (Fin.ofNat 32 r.reg : Fin 32) r.record } } evs) ∧
     (∀ q : QuireFl, s.cores[p].currier.results = [] → s.cores[p].currier.addends = [q] → q.land ≤ s.now →
       q.vals.length ≤ 128 →
       ∃ (quires : Vector LaneQuire 128) (evs : List (Nat × Nat)),
         (∀ (n : Fin 128) (v : LaneVal), q.vals[n.val]? = some v → quires[n] = ((s.cores[p].currier.quires[n] : LaneQuire).add v).1) ∧
         (∀ n : Fin 128, q.vals.length ≤ n.val → quires[n] = s.cores[p].currier.quires[n]) ∧
         coreRaises (.currierResultLand l) s p
           { s.cores[p] with currier := { s.cores[p].currier with addends := [], quires := quires } } evs) ∧
     ((∀ r ∈ s.cores[p].currier.results, s.now < r.land) → (∀ r ∈ s.cores[p].currier.addends, s.now < r.land) →
       coreBecomes (.currierResultLand l) s p s.cores[p])) ∧
  (∀ (q : LaneQuire) (v : LaneVal) (x : Rat), v.x = .fin x →
     (∀ n : Int, x * twoPow 320 = (n : Rat) → absQ x < twoPow 256 →
       q.add v = ({ q with sum := q.sum + BitVec.ofInt 640 n, bad := q.bad || v.bad, invalid := q.invalid || v.invalid },
         [(0x40, 0)])) ∧
     (absQ x < twoPow 256 → (∀ n : Int, x * twoPow 320 ≠ (n : Rat)) →
       q.add v = ({ q with sum := q.sum + BitVec.ofInt 640 (truncQ (x * twoPow 320)), bad := q.bad || v.bad
                           invalid := q.invalid || v.invalid }, [(0x40, 1)])) ∧
     (twoPow 256 ≤ absQ x → q.tag = 0 →
       q.add v = ({ q with tag := if x < 0 then 2 else 1, bad := q.bad || v.bad, invalid := q.invalid || v.invalid },
         [(0x41, 1)])))

/-- R142, R195: BSEL takes branch A when lane 0 of its register is neither 0 nor NaN and carries no mark, else branch B;
the word after the branches is ready at issue + 1 + the longer declared count, whichever branch was taken (inside a loop or a branch the stream goes
on by the same rules as after any instruction). Event 0x43 counts
A, 0x44 counts B, 0x45 a marked condition.
R143, R196: THRD starts eight threads at the offsets of its section record and takes 16 + λ cycles of the stream; a
thread's THEND stops it; the section closes at issue + 8 + λ, every thread still running stopped and counted as event
0x3A.
R143: a thread load from its own core lands 32 cycles after its issue, one from another core 128 cycles after, and
takes the thread's slot; it brings the bytes as they are when it issues (a core of no fold runs no thread); a load that is due writes its elements into its register, with the format that it names. -/
def Obligations.BranchesAndThreadsKeepTime : Prop :=
  (∀ (s : State) (l p : CoreNo) (w : Word128), s.issuing l .currier 0x57 = some (p, w) →
     ∀ (o : LaneOp) (takeA : Bool) (first na nb len longest : Nat), o = s.cores[p].operand (fld w 91 5) 0 0 →
       (takeA = true ↔ o.bad = false ∧ o.x ≠ .nan ∧ o.x ≠ .fin 0) → first = s.cores[p].cstream.next + 16 →
       na = fld w 79 12 → nb = fld w 67 12 → len = (if takeA then na else nb) →
       longest = max (fld w 112 16) (fld w 96 16) →
       coreRaises (.bsel l) s p { s.cores[p] with cstream :=
           if len = 0 then { s.cores[p].cstream with next := first + 16 * (na + nb) - 16 }.advance s.now (1 + longest)
           else
             { s.cores[p].cstream with
               next := (if takeA then first else first + 16 * na) - 16
               branch := some { stopAt := (if takeA then first else first + 16 * na) + 16 * len
                                resume := first + 16 * (na + nb), ready := s.now + 1 + longest } }.advance s.now 1 }
         [(0x43, b2n takeA), (0x44, b2n !takeA), (0x45, b2n o.bad)] ∧
       (s.cores[p].cstream.loops = [] → s.cores[p].cstream.branch = none →
       (len = 0 → coreRaises (.bsel l) s p
         { s.cores[p] with cstream := { s.cores[p].cstream with
             next := first + 16 * (na + nb), base := s.now + 1 + longest, floor := 0, lastIssue := s.now } }
         [(0x43, b2n takeA), (0x44, b2n !takeA), (0x45, b2n o.bad)]) ∧
       (len ≠ 0 → coreRaises (.bsel l) s p
         { s.cores[p] with cstream := { s.cores[p].cstream with
             next := if takeA then first else first + 16 * na
             base := s.now + 1, floor := 0, lastIssue := s.now
             branch := some { stopAt := (if takeA then first else first + 16 * na) + 16 * len
                              resume := first + 16 * (na + nb), ready := s.now + 1 + longest } } }
         [(0x43, b2n takeA), (0x44, b2n !takeA), (0x45, b2n o.bad)]))) ∧
  ((∀ (s : State) (l p : CoreNo) (w : Word128), s.issuing l .currier 0x58 = some (p, w) →
     ∀ (e : Core) (evs : List (Nat × Nat)) (len : Nat) (threads : Vector Stream 8),
     (e, evs) = s.cores[p].scan s.now [(fld w 96 32, 64)] → len = e.pasture.num (fld w 96 32 + 32) 4 →
     threads = (Vector.ofFn fun (j : Fin 8) => { Stream.reset with
       running := true, next := e.pasture.num (fld w 96 32 + 4 * j.val) 4, base := s.now + 8 }) →
     coreRaises (.thrd l) s p
       { e with
         cstream := s.cores[p].cstream.advance s.now (16 + len)
         currier := { s.cores[p].currier with sec? := some { issue := s.now, len := len }, threads := threads } } evs) ∧
   (∀ (s : State) (l p : CoreNo) (j : ThreadNo) (w : Word128), s.issuing l (.thread j) 0x5A = some (p, w) →
     coreBecomes (.thend l j) s p
       (s.cores[p].setStream (.thread j) { s.cores[p].stream (.thread j) with running := false, lastIssue := s.now })) ∧
   (∀ (s : State) (l p : CoreNo) (k : Section), s.phys l = some p → s.cores[p].currier.sec? = some k →
     (s.now < k.issue + 8 + k.len → exec (.fallbackSectionClose l) s = .next s) ∧
     (k.issue + 8 + k.len ≤ s.now → coreRaises (.fallbackSectionClose l) s p
       { s.cores[p] with currier := { s.cores[p].currier with
           sec? := none, threads := s.cores[p].currier.threads.map fun t => { t with running := false } } }
       [(0x3A, (s.cores[p].currier.threads.toList.filter fun t => t.running).length)]))) ∧
  ((∀ (s : State) (l p : CoreNo) (j : ThreadNo) (w : Word128) (f : FoldNo), s.issuing l (.thread j) 0x59 = some (p, w) →
     s.foldOf l = some f →
     ∃ (x : LoadFl) (t : State), x.land = s.now + (if bitOf w 80 then 128 else 32) ∧ x.reg = fld w 91 5 ∧
       x.fmt = fmtD (fld w 68 4) ∧ exec (.tld l j) s = .next t ∧
       x.elems = unpack x.fmt
         (s.readBeat f (if bitOf w 80 then Fin.ofNat 32 (fld w 81 5) else l) (fld w 96 32) (fld w 72 8 + 1)).2 ∧
       t.cores[p].currier.loads = s.cores[p].currier.loads ++ [x] ∧
       t.cores[p].currier.threads[j] = (s.cores[p].currier.threads[j]).advance s.now 8 ∧
       t.cores[p].pasture.cells = s.cores[p].pasture.cells ∧ t.cores[p].acc = s.cores[p].acc ∧
       t.cores[p].currier.regs = s.cores[p].currier.regs ∧ t.tick = s.tick ∧ t.folds = s.folds ∧ t.hall = s.hall) ∧
   (∀ (s : State) (l : CoreNo) (j : ThreadNo), s.foldOf l = none → exec (.tld l j) s = .next s) ∧
   (∀ (s : State) (l p : CoreNo) (x : LoadFl) (n : Fin 32), s.phys l = some p → s.cores[p].currier.loads = [x] →
     n = Fin.ofNat 32 x.reg → x.elems.length ≤ 128 →
     (x.land ≤ s.now → coreBecomes (.threadLoadLand l) s p
       { s.cores[p] with currier := { s.cores[p].currier with
           regs := s.cores[p].currier.regs.set n (x.elems ++
             (sliceD { code := 0, bad := false } s.cores[p].currier.regs[n] 0 128).drop x.elems.length)
           fmts := s.cores[p].currier.fmts.set n x.fmt, loads := [] } }) ∧
     (s.now < x.land → coreBecomes (.threadLoadLand l) s p s.cores[p])))

/-! ## Pasture and drovers -/

/-- R163, R172, R189, R197, R198, Table 9.14: START of an idle stream makes it run, or arms it with arm only, with its
chain to take from the offset it names; on any other stream it is discarded and counted as event 0x29. REARM takes its bases
from the word or from handles (buffer × 256 plus the field); on an idle stream it is discarded and counted. STOP of an idle
stream changes nothing there, of an armed one disarms it, and of a running one drops the units of which no beat is granted,
with their ring credits back, and what was to follow; a run it cuts posts nothing; with nothing left the stream is idle. Each
moves the drover stream on by one cycle. R190: an instruction that another stream's instruction of an earlier place still
precedes in its cycle changes nothing.
R172, R173, R197: a re-arm of an armed or finished run gives the chain's first data descriptor the new bases: every persistent
descriptor moves by the same two differences, and the run restarts from unit 0; while units are ungranted it waits; a second
one while one is pending is dropped and counted. A tick re-arm moves every persistent descriptor from its own base by tick step
× (tick number mod modulus), at its source or its destination, and leaves that base. -/
def Obligations.DroverInstructionsAndRearm : Prop :=
  (∀ (s : State) (l p : CoreNo) (w : Word128),
     (s.issuing l .drover 0x80 = some (p, w) →
       ∀ (d : DroverNo) (i : DStreamNo) (c other : Instr), d = Fin.ofNat 4 (fld w 94 2) → i = Fin.ofNat 8 (fld w 91 3) →
         c = (if bitOf w 89 then .startArmOnly l else .start l) → other = (if bitOf w 89 then .start l else .startArmOnly l) →
       exec other s = .next s ∧
       (s.turn l .drover (some (.dstream d i)) = false → exec c s = .next s) ∧
       (s.turn l .drover (some (.dstream d i)) = true →
         ((s.ds p d i).status = .idle → coreRaises c s p
           { s.cores[p].setDs d i { DStream.reset with
               status := if bitOf w 89 then .armed else .running, fold := (s.foldOf l).getD 0, armOnly := bitOf w 89
               next := fld w 96 32, origin := if bitOf w 90 then s.now else s.tick.instant
               relative := bitOf w 90, runNo := (s.ds p d i).runNo + 1 } with
             dstream := s.cores[p].dstream.advance s.now 1 } [(0x29, 0)]) ∧
         ((s.ds p d i).status ≠ .idle → coreRaises c s p
           { s.cores[p] with dstream := s.cores[p].dstream.advance s.now 1 } [(0x29, 1)]))) ∧
     (s.issuing l .drover 0x81 = some (p, w) →
       ∀ (d : DroverNo) (i : DStreamNo) (a b : Handle) (r : Rearm), d = Fin.ofNat 4 (fld w 62 2) →
         i = Fin.ofNat 8 (fld w 59 3) → a = s.cores[p].dstream.handles[Fin.ofNat 4 (fld w 55 2)] →
         b = s.cores[p].dstream.handles[Fin.ofNat 4 (fld w 52 2)] →
         r = { src := some (if bitOf w 57 then (a.buffer.toNat * 256 + fld w 96 32) % 2 ^ 32 else fld w 96 32)
               dst := some (if bitOf w 54 then (b.buffer.toNat * 256 + fld w 64 32) % 2 ^ 32 else fld w 64 32)
               origin := if bitOf w 58 then s.now else s.tick.instant, relative := bitOf w 58
               bad := (bitOf w 57 && a.bad) || (bitOf w 54 && b.bad), tick := false } →
       (s.turn l .drover (some (.dstream d i)) = false → exec (.rearm l) s = .next s) ∧
       (s.turn l .drover (some (.dstream d i)) = true →
         ((s.ds p d i).status = .idle → coreRaises (.rearm l) s p
           { s.cores[p] with dstream := s.cores[p].dstream.advance s.now 1 } [(0x29, 1)]) ∧
         ((s.ds p d i).status ≠ .idle → coreRaises (.rearm l) s p
           { s.cores[p].setDs d i ((s.ds p d i).rearmBy r s.tick.number.toNat).1 with
             dstream := s.cores[p].dstream.advance s.now 1 } [(0x29, ((s.ds p d i).rearmBy r s.tick.number.toNat).2)]))) ∧
     (s.issuing l .drover 0x82 = some (p, w) →
       ∀ (d : DroverNo) (i : DStreamNo), d = Fin.ofNat 4 (fld w 94 2) → i = Fin.ofNat 8 (fld w 91 3) →
       (s.turn l .drover (some (.dstream d i)) = false → exec (.stop l) s = .next s) ∧
       (s.turn l .drover (some (.dstream d i)) = true →
         (∃ e : Core, coreBecomes (.stop l) s p { e with dstream := s.cores[p].dstream.advance s.now 1 } ∧
           e.quiet = { s.cores[p].quiet with drovers := e.drovers, rings := e.rings } ∧
           (∀ (d2 : DroverNo) (i2 : DStreamNo), (d2, i2) ≠ (d, i) → e.ds d2 i2 = s.ds p d2 i2)) ∧
         ((s.ds p d i).status = .idle → (s.ds p d i).rearm = none → coreBecomes (.stop l) s p
           { s.cores[p] with dstream := s.cores[p].dstream.advance s.now 1 }) ∧
         ((s.ds p d i).status = .armed → ∃ e : Core,
           coreBecomes (.stop l) s p { e with dstream := s.cores[p].dstream.advance s.now 1 } ∧ e.ds d i = DStream.reset) ∧
         (∀ keep, (s.ds p d i).status = .running → keep = ((s.ds p d i).units.filter fun u => u.granted) →
           (keep = [] → (∀ e ∈ (s.ds p d i).descs, e.held = none) → ∃ e : Core,
             coreBecomes (.stop l) s p { e with dstream := s.cores[p].dstream.advance s.now 1 } ∧ e.ds d i = DStream.reset) ∧
           (keep ≠ [] → ∃ e : Core,
             coreBecomes (.stop l) s p { e with dstream := s.cores[p].dstream.advance s.now 1 } ∧
             e.ds d i = { s.ds p d i with
               units := keep.map fun u => { u with last := u.last &&
                 !(decide (u.run = (s.ds p d i).runNo) || (s.ds p d i).units.any fun v => decide (v.run = u.run) && !v.granted) }
               stopping := true, rearm := none, ended := true, want := false, cur := (s.ds p d i).descs.length } ∧
             (∀ ctx, (s.ds p d i).ctx = some ctx → xRingOn ctx = true →
               e.rings = s.cores[p].rings.set (xRing ctx) { s.cores[p].rings[xRing ctx] with
                 started := s.cores[p].rings[xRing ctx].started - ((s.ds p d i).units.length - keep.length) })))))) ∧
  (∀ (x : DStream) (r : Rearm) (tick : Nat),
     (x.status ≠ .idle → x.rearm.isSome = true → x.rearmBy r tick = (x, 1)) ∧
     (x.status = .armed → x.rearm = none →
       (x.ended = true → x.rearmBy r tick = (x.applyRearm r tick, 0)) ∧
       (x.ended = false → x.rearmBy r tick = ({ x with rearm := some r }, 0))) ∧
     (x.status = .running → x.rearm = none →
       (x.allStarted = false ∨ x.ungranted ≠ 0 → x.rearmBy r tick = ({ x with rearm := some r }, 0)) ∧
       (x.allStarted = true → x.ungranted = 0 → x.rearmBy r tick = (x.applyRearm r tick, 0))) ∧
     ((x.applyRearm r tick).status = .running ∧ (x.applyRearm r tick).cur = 0 ∧ (x.applyRearm r tick).unit = 0 ∧
       (x.applyRearm r tick).origin = r.origin ∧ (x.applyRearm r tick).units = x.units ∧
       (x.applyRearm r tick).ctx = x.ctx) ∧
     (∀ a0 b0 a b, r.tick = false → x.lead = some (a0, b0) → r.src = some a → r.dst = some b →
       (x.applyRearm r tick).lead = some (a, b) ∧
       (x.applyRearm r tick).descs = (x.descs.filter fun e => dPersistent e.word).map fun y =>
           { y with src0 := wrapN ((y.src0 : Int) + (a : Int) - a0) 32, dst0 := wrapN ((y.dst0 : Int) + (b : Int) - b0) 32
                    src := wrapN ((y.src0 : Int) + (a : Int) - a0) 32, dst := wrapN ((y.dst0 : Int) + (b : Int) - b0) 32 }) ∧
     (∀ ctx, r.tick = true → x.ctx = some ctx → 1 ≤ xMod ctx →
       (x.applyRearm r tick).lead = x.lead ∧
       (x.applyRearm r tick).descs = (x.descs.filter fun e => dPersistent e.word).map fun e =>
         if xTarget ctx then { e with src := e.src0, dst := (e.dst0 + fld ctx 104 24 * 256 * (tick % xMod ctx)) % 2 ^ 32 }
         else { e with src := (e.src0 + fld ctx 104 24 * 256 * (tick % xMod ctx)) % 2 ^ 32, dst := e.dst0 }))

/-- R164, R165: the descriptor at a chain's next offset, once its drover holds it and it is usable: the all-zero word ends the
chain, the first well-formed context is the chain's context, a well-formed data descriptor joins the chain, the first of them
naming the bases that a re-arm moves; and one that is ill-formed or read bad is passed over and counted; before it is usable,
or once the chain has ended, nothing is taken.
R164, R171: DESCRIPTOR_READY takes, for every stream of the drover, the descriptors that have become usable; the other
drovers, the other cores and all else stay as they are. -/
def Obligations.DescriptorsJoinAndServe : Prop :=
  (∀ (x : DStream) (now off ready : Nat) (w : Word256) (bad : Bool) (buf : List (Nat × Nat × Word256 × Bool)),
     ((∀ e ∈ buf, e.1 ≠ x.next) → x.takeDesc buf now = (x, 0)) ∧
     ((buf.find? fun e => decide (e.1 = x.next)) = some (off, ready, w, bad) →
       (now < ready ∨ x.ended = true ∨ x.status = .idle → x.takeDesc buf now = (x, 0)) ∧
       (ready ≤ now → x.ended = false → x.status ≠ .idle →
         (w = 0 → bad = false → x.takeDesc buf now = ({ x with next := x.next + 32, ended := true }, 0)) ∧
         (w ≠ 0 ∨ bad = true →
           (x.ctx = none → bad = false → ctxOk w = true →
             x.takeDesc buf now = ({ x with next := x.next + 32, ctx := some w }, 0)) ∧
           (x.ctx = none → bad = true ∨ ctxOk w = false → x.takeDesc buf now = ({ x with next := x.next + 32 }, 1)) ∧
           (∀ ctx, x.ctx = some ctx → bad = false → descOk ctx w = true →
             x.takeDesc buf now = ({ x with
               next := x.next + 32
               lead := some (x.lead.getD (fld w 176 32, fld w 144 32))
               descs := x.descs ++
                 [{ at_ := x.next, word := w, src0 := fld w 176 32, dst0 := fld w 144 32, src := fld w 176 32
                    dst := fld w 144 32, slot := none, held := none }] }, 0)) ∧
           (∀ ctx, x.ctx = some ctx → bad = true ∨ descOk ctx w = false →
             x.takeDesc buf now = ({ x with next := x.next + 32 }, 1)))))) ∧
  (∀ (s : State) (l p : CoreNo) (d : DroverNo), s.phys l = some p →
     ∃ t, exec (.descriptorReady l d) s = .next t ∧ onlyCore s t p ∧
       (∀ i : DStreamNo, t.ds p d i =
         ((s.ds p d i).takeDescs s.cores[p].dbufs[d] s.now 64).1.settle s.tick.number.toNat) ∧
       (∀ (e : DroverNo) (i : DStreamNo), e ≠ d → t.ds p e i = s.ds p e i) ∧
       t.cores[p].quiet = { s.cores[p].quiet with drovers := t.cores[p].drovers })

/-- R149, R158, R160, R161: BEAT_GRANT of a core with one waiting beat and no other work in its cycle, of a unit that moves the
core's own pasture: the beat is granted, returns the bytes as they stood two cycles ago, and lands 10 cycles later; no byte of
memory changes. In a second BEAT_GRANT of a cycle nothing is granted: it only adds its bit errors.
R160, R161: BEAT_LANDING of the one beat of a unit that moves unmarked raw bytes within a core's own pasture, as one run that no
4 KiB page end cuts: the bytes are stored at the unit's place in the landing cycle, and the unit is complete; no other core
and no accumulator changes. Without a due beat nothing changes.
R149, R150, R161: a store puts its bytes at its offset and changes no other byte of the memory, and it keeps the
memory in canonical form. -/
def Obligations.BeatsMoveTheirBytes : Prop :=
  (∀ (s : State) (l p : CoreNo) (ups : List (Nat × Nat)), s.phys l = some p →
     (s.cores[p].lastGrant = some s.now → coreBecomes (.beatGrant l ups) s p
       { s.cores[p] with pasture := s.cores[p].pasture.upset ups }) ∧
     (∀ (d : DroverNo) (i : DStreamNo) (u : UnitFl) (b : BeatFl) (x : DStream), x = s.ds p d i →
       s.cores[p].lastGrant ≠ some s.now → ups = [] → s.activeStreams = [(p, l, d, i)] → s.absent l = false →
       s.cores[p].walks = [] → s.cores[p].writeBeats = [] → s.cores[p].gather = [] → s.hall.gathers = [] →
       s.cores[p].portBeats = [] → (∀ q : StreamPort, s.st[q].cfg = none) → s.cores[p].fault = none →
       x.status = .running → x.want = false → x.ended = true → x.descs = [] → x.rearm = none → x.units = [u] →
       u.beats = [b] → b.land = none → u.elems = none → u.from_ = none → u.to_ = none → u.idle = false → u.gone = false →
       u.src = l → u.dst = l → dSrcClass u.desc = 1 → dDstClass u.desc = 1 → b.off ≠ noOff →
       s.inRegions x.fold l b.off b.len = true → s.cores[p].underrun b.off = false →
       s.cores[p].pasture.flips = [] → s.cores[p].pasture.broken = [] →
       ∃ t, exec (.beatGrant l ups) s = .next t ∧ onlyCore s t p ∧
         t.ds p d i = { x with units := [{ u with
           granted := true
           beats := [{ b with land := some (s.now + 10), data := (s.cores[p].pasture.read s.now b.off b.len).bytes }] }] } ∧
         t.cores[p].lastGrant = some s.now ∧ t.cores[p].pasture = s.cores[p].pasture)) ∧
  (∀ (s : State) (l p : CoreNo), s.phys l = some p →
     (s.dueBeats l = [] → exec (.beatLanding l) s = .next s) ∧
     (∀ (d : DroverNo) (i : DStreamNo) (u : UnitFl) (b : BeatFl) (x : DStream) (ctx : Word256) (g : Region) (m n : Nat),
       x = s.ds p d i → s.activeStreams = [(p, l, d, i)] → x.status = .running → x.units = [u] → x.ctx = some ctx →
       xRingOn ctx = false → x.rearm = none → x.ended = false → u.beats = [b] → b.land = some m → m ≤ s.now → u.need = m →
       b.lost = false → b.data.length = n → b.len = n → 1 ≤ n → u.place % 4096 + n ≤ 4096 → u.data = [] → u.stored = 0 →
       u.bad = false → u.last = false → u.elems = none → u.from_ = none → u.to_ = none → u.idle = false → u.gone = false →
       u.src = l → u.dst = l → dKind u.desc = 1 → dCount1 u.desc = 1 → dInner u.desc = n → dDstClass u.desc = 1 →
       dSrcFmt u.desc = .raw → dDstFmt u.desc = .raw → (b.data.any fun y => y.2) = false → s.cores[p].walks = [] →
       s.inRegions x.fold l u.place n = true → s.regionOf x.fold l u.place = some g → g.dynamic = true →
       ∃ t, exec (.beatLanding l) s = .next t ∧ onlyCore s t p ∧
         t.cores[p].pasture = s.cores[p].pasture.store m u.place b.data ∧ t.cores[p].acc = s.cores[p].acc ∧
         t.ds p d i = { x with units := [] })) ∧
  (∀ (m : Pasture) (now off : Nat) (bs : List MByte), m.wf = true →
     (m.store now off bs).wf = true ∧
     cellsGet 0 (m.store now off bs).cells off bs.length = bs.map (fun b => b.1) ∧
     (m.flips = [] → (m.store now off bs).bytes off bs.length = bs.map (fun b => b.1)) ∧
     (∀ a, a < off ∨ off + bs.length ≤ a → cellGet 0 a (m.store now off bs).cells = cellGet 0 a m.cells))

/-- R174, R178, R179: DROVER_CANCEL of a fold, from the cycle after its hurdle, or from cycle 1,920 × P + 1 of a tick in whose
reserve a pen change of it has been sampled: every stream of that fold that is not idle is idle with nothing left, its ring
waits to be reset at the next tick instant, the feeders of the fold's cores wait to be emptied, and no stream of another fold,
no gate and no byte of memory changes. At any other time nothing changes. -/
def Obligations.CancelStopsStreamsOfFold : Prop :=
  ∀ (s : State) (f : FoldNo),
    ((∀ h, s.folds[f].recov.hurdle = some h → s.now ≤ h) →
       (s.tick.inReserve = false ∨ s.rel ≤ s.reserveAt ∨ s.folds[f].changes s.tick.number = false) →
       exec (.droverCancel f) s = .next s) ∧
    ((∃ h, s.folds[f].recov.hurdle = some h ∧ h + 1 ≤ s.now) ∨
       (s.tick.inReserve = true ∧ s.reserveAt + 1 ≤ s.rel ∧ s.folds[f].changes s.tick.number = true) →
       ∃ t, exec (.droverCancel f) s = .next t ∧
         (∀ (p : CoreNo) (d : DroverNo) (i : DStreamNo),
           ((s.ds p d i).fold = f → (s.ds p d i).status ≠ .idle → t.ds p d i = DStream.reset ∧
             (∀ ctx, (s.ds p d i).ctx = some ctx → xRingOn ctx = true → xRing ctx ∈ t.cores[p].ringsToReset)) ∧
           ((s.ds p d i).fold ≠ f → t.ds p d i = s.ds p d i)) ∧
         (∀ (p l : CoreNo) (a : Allot), s.logicalOf p = some l → s.folds[f].allot = some a → a.holds l = true →
           t.cores[p].emptyFeeder = true) ∧
         (∀ p : CoreNo, t.cores[p].quiet = { s.cores[p].quiet with
           drovers := t.cores[p].drovers, ringsToReset := t.cores[p].ringsToReset, emptyFeeder := t.cores[p].emptyFeeder }) ∧
         t = { s with cores := t.cores, log := t.log, ctrs := t.ctrs })

/-! ## Fleece parity -/

/-- R154, R156: when a parity block holds the parity of its group at an offset, the word of any one member that it covers
is rebuilt exactly as it was, as long as the block's own word and every other contribution can be read. -/
def Obligations.ParityRebuildsAnyWord : Prop :=
  ∀ (s : State) (q off p : Nat) (h : CoreNo), q < s.groupSize → off / chunkBytes + 2 ≤ s.groupSize →
    p = parityOf s.groupSize q (off / chunkBytes) → s.parityCore p = some h →
    s.cores[h].pasture.unreadable ((dataEnd + off % chunkBytes) / 32) = false →
    s.cores[h].pasture.bytes (dataEnd + off % chunkBytes) 32 = s.parityWord p (off % chunkBytes) →
    (∀ r, r < s.groupSize → r ≠ p → r ≠ q →
      s.unreadable r (chunkFor s.groupSize p r * chunkBytes + off % chunkBytes) = false) →
    s.rebuiltWord q off = some (s.staticWord q off)

/-- R149, R155, R213, R266: FLEECE_SCRUB takes a core's next row of 256 B, once a cycle and in ascending order over its whole
memory, round and round; without an upset nothing is counted. One or two flipped bits of a word of the row are corrected,
written back and counted as event 0x20; three leave a static word found for repair and count event 0x21. It pauses during a
rebuild and while mail waits for the core; it then only takes the bit errors that have come about.
R156: STATIC_WORD_REPAIR in the reserve writes a static word found uncorrectable from parity; one that cannot be rebuilt stays
as it is; a word that is no longer static is not kept for repair. Outside the reserve nothing changes. -/
def Obligations.ScrubAndRepair : Prop :=
  (∀ (s : State) (p : CoreNo) (ws ms : List Nat) (row : Nat), row = s.cores[p].scrubRow →
     (s.rebuild.isSome = true ∨ s.mailWaits p = true ∨ s.cores[p].scrubbed = some s.now →
       coreBecomes (.fleeceScrub p ws ms) s p { s.cores[p] with pasture := s.cores[p].pasture.upset (ws.zip ms) }) ∧
     (s.rebuild = none → s.mailWaits p = false → s.cores[p].scrubbed ≠ some s.now →
       (ws = [] → s.cores[p].pasture.flips = [] → coreBecomes (.fleeceScrub p ws ms) s p
         { s.cores[p] with scrubRow := (row + 1) % scrubRows, scrubbed := some s.now }) ∧
       (∀ w mask : Nat, ws = [] → s.cores[p].pasture.flips = [(w, mask)] → w / 8 = row →
         ivMem w s.cores[p].pasture.poison = false →
         (flipCount mask = 1 ∨ flipCount mask = 2 → coreRaises (.fleeceScrub p ws ms) s p
           { s.cores[p] with
             scrubRow := (row + 1) % scrubRows, scrubbed := some s.now
             pasture := s.cores[p].pasture.fix w (s.cores[p].pasture.word w) } [(0x20, 1)]) ∧
         (flipCount mask = 3 → 32 * w < dataEnd → s.staticAt s.cores[p].logical (32 * w) = true →
           coreRaises (.fleeceScrub p ws ms) s p
             { s.cores[p] with
               scrubRow := (row + 1) % scrubRows, scrubbed := some s.now
               pasture := s.cores[p].pasture.find [w] } [(0x21, 1)])))) ∧
  (∀ (m : Pasture) (w : Nat), m.wf = true → cellWf 0 m.flips = true →
     (∀ bs, bs.length = 32 → (m.fix w bs).bytes (32 * w) 32 = bs ∧ w ∉ (m.fix w bs).broken) ∧
     w ∈ (m.find [w]).broken ∧ (m.fix w (m.word w)).cells = m.cells ∧ cellGet 0 w (m.fix w (m.word w)).flips = 0) ∧
  (∀ (s : State) (l p : CoreNo) (w : Nat), s.phys l = some p →
     (s.tick.inReserve = false → exec (.staticWordRepair l) s = .next s) ∧
     (s.tick.inReserve = true → s.cores[p].pasture.broken = [w] →
       (s.staticAt l (32 * w) = false → coreBecomes (.staticWordRepair l) s p
         { s.cores[p] with pasture := { s.cores[p].pasture with broken := [] } }) ∧
       (s.staticAt l (32 * w) = true →
         (∀ bs, s.rebuiltWord s.cores[p].member (32 * w) = some bs →
           ∃ t, exec (.staticWordRepair l) s = .next t ∧ onlyCore s t p ∧
             t.cores[p] = { s.cores[p] with pasture := s.cores[p].pasture.fix w bs }) ∧
         (s.rebuiltWord s.cores[p].member (32 * w) = none →
           ∃ t, exec (.staticWordRepair l) s = .next t ∧ onlyCore s t p ∧ t.cores[p] = s.cores[p]))))

/-! ## Hall memory -/

/-- R255, Table 12.6: a landing stamp names its cycle: the absolute cycle that a module reads from the stamp of a cycle at
most eight ticks ahead of its own instant is that cycle.
R255, R259: a scheduled packet whose last byte arrives at least 48 cycles before its stamp is held with its sender;
one that comes later is discarded and counted as late at its fold.
R258: an entry of a running fold's landing list whose stamp has come unmet is met by a substitute and counted: the
entry of a write by zeros marked bad at its address, the entry of a post by the stand-in handle with the bad bit. With
no such entry nothing changes. (A write takes the write beats of its cycle and one program beat of its core's endpoint: R158,
R208.)
R257, R271: a held packet that nothing expects is discarded at its stamp and counted at its fold; a packet of an old
epoch is discarded and counted as stale, and its sender is told, while its core is present. Neither writes anything into
a core. -/
def Obligations.PacketsAreHeldDroppedOrReplaced : Prop :=
  (∀ (s : State) (c : Nat), 0 < s.period → s.period < 2 ^ 28 → s.tick.instant ≤ c →
     c < s.tick.instant + 8 * s.period → s.unstamp (s.stamp c) = c) ∧
  (∀ (s : State) (p : FabricPort) (k : SchedPacket),
     (s.now + 48 ≤ s.unstamp k.stamp → exec (.schedPacketArrival p k) s = .next { s with hall := { s.hall with
       held := s.hall.held ++ [(s.unstamp k.stamp, s.peerOf p, k)] } }) ∧
     (s.unstamp k.stamp < s.now + 48 →
       (∀ f, s.foldByTag k.tag = some f → ∃ t, exec (.schedPacketArrival p k) s = .next t ∧
         t = { s with folds := s.folds.set f (s.folds[f].count 13 1), log := t.log, ctrs := t.ctrs }) ∧
       (s.foldByTag k.tag = none → exec (.schedPacketArrival p k) s = .next s))) ∧
  (∀ (s : State) (l p : CoreNo),
     (s.missing l = none → exec (.landingSubstitute l) s = .next s) ∧
     (∀ (f : FoldNo) (n : Nat) (e : Landing), s.missing l = some (f, n, e) →
       ∃ t, exec (.landingSubstitute l) s = .next t ∧
         t.folds = s.folds.set f (({ s.folds[f] with landed := n :: s.folds[f].landed } : Fold).count 14 1)) ∧
     (∀ (f : FoldNo) (n : Nat) (e : Landing), s.missing l = some (f, n, e) → s.phys (hCore e.addr) = some p →
       s.absent (hCore e.addr) = false →
       ∀ x : Fold, x = ({ s.folds[f] with landed := n :: s.folds[f].landed } : Fold).count 14 1 →
       (e.type = 1 → 0 < e.units.toNat → storeOk s f p e.addr (32 * e.units.toNat) →
         ∃ t, exec (.landingSubstitute l) s = .next t ∧ onlyCore { s with folds := s.folds.set f x } t p ∧
           storedBy s t p (hOff e.addr) (List.replicate (32 * e.units.toNat) (0, true))) ∧
       (∀ (i : FoldImage) (r : GateRec) (g : GateNo), e.type = 4 → g = Fin.ofNat 64 (hOff e.addr / 4) →
         s.folds[f].image = some i → (i.gates.find? fun r => decide (r.core = e.core) && decide (r.gate = g)) = some r →
         addrOk s.declared e.addr 4 .post false = true → s.cores[p].gates[g].full s.now = false →
         exec (.landingSubstitute l) s = .next { s with
           folds := s.folds.set f x
           cores := s.cores.set p { s.cores[p] with
             gates := s.cores[p].gates.set g { s.cores[p].gates[g] with queue := s.cores[p].gates[g].queue ++
               [({ bad := true, tag := 0, buffer := BitVec.ofNat 23 r.standIn }, s.tick.instant + e.stamp + 2)] } } }))) ∧
  ((∀ (s : State) (h : HeldPacket) (f : FoldNo),
     (s.hall.held.find? fun h => decide (h.1 ≤ s.now) && s.unexpected h.2.2) = some h → s.foldByTag h.2.2.tag = some f →
     ∃ t, exec .schedUnexpected s = .next t ∧ t = { s with
       hall := { s.hall with held := s.hall.held.erase h }, folds := s.folds.set f (s.folds[f].count 12 1)
       log := t.log, ctrs := t.ctrs }) ∧
   (∀ (s : State) (type : BitVec 4) (c : Instr) (h : HeldPacket) (f : FoldNo) (n : Nat),
     (c, type) ∈ [(Instr.schedWrite, (1 : BitVec 4)), (.schedReadRequest, 2), (.schedReadResponse, 3), (.schedPost, 4),
       (.schedNotServed, 5)] →
     s.dueSched type = some (h, f, n) → s.currentEpoch f h.2.2 = false →
     ∃ t, exec c s = .next t ∧ t.cores = s.cores ∧ t.hall.held = s.hall.held.erase h ∧
       (t.folds[f].ctrs[11] = (s.folds[f].ctrs[11] : Ctr).add 1) ∧ t.folds[f].landed = s.folds[f].landed ∧
       (s.phys (hCore h.2.2.addr) = none → t.hall = { s.hall with held := s.hall.held.erase h }) ∧
       (∀ r, (s.phys (hCore h.2.2.addr)).isSome = true → s.nextHop h.2.1 = some r →
         ((s.hall.queues[r] : List MailMsg).map mailSize).sum + 32 ≤ 2 ^ 20 →
         ∃ a : MailMsg, t.hall = { s.hall with
             held := s.hall.held.erase h, number := s.hall.number + 1, queues := s.hall.queues.set r (s.hall.queues[r] ++ [a]) } ∧
           a.kind = 5 ∧ a.dstModule = h.2.1 ∧ a.epoch = s.folds[f].epochs[hCore h.2.2.addr] ∧ a.addr = h.2.2.addr) ∧
       t = { s with hall := t.hall, folds := t.folds, log := t.log, ctrs := t.ctrs }))

/-- R160, R208, R257, R258, R271: a scheduled write into pasture memory that its landing list expects, whose epoch is current
and whose core is present, stores its bytes with their marks at its address in the cycle in which it lands, 256 B row by
row; it is held no longer and its entry is met. No other core, accumulator or fold changes.
R174, R176, R257: a scheduled post that is expected and current is takeable from its gate two cycles after its stamp,
bad when its word is marked; at a full gate it is discarded and counted as event 0x38. -/
def Obligations.ScheduledWritesAndPostsLand : Prop :=
  (∀ (s : State) (h : HeldPacket) (f : FoldNo) (n : Nat) (p : CoreNo), s.dueSched 1 = some (h, f, n) →
     s.currentEpoch f h.2.2 = true → s.phys (hCore h.2.2.addr) = some p → s.absent (hCore h.2.2.addr) = false →
     h.2.2.payload ≠ [] → h.2.2.payload.length ≤ 256 → storeOk s f p h.2.2.addr h.2.2.payload.length →
     ∃ t, exec .schedWrite s = .next t ∧ onlyCore { s with hall := t.hall, folds := t.folds } t p ∧
       t.hall = { s.hall with held := s.hall.held.erase h } ∧
       t.folds = s.folds.set f { s.folds[f] with landed := n :: s.folds[f].landed } ∧
       storedBy s t p (hOff h.2.2.addr) (h.2.2.payload.zipIdx.map fun b => (b.1, bitOf h.2.2.marks (b.2 / 32)))) ∧
  (∀ (s : State) (h : HeldPacket) (f : FoldNo) (n : Nat) (p : CoreNo) (g : GateNo) (x : Handle), s.dueSched 4 = some (h, f, n) →
     s.currentEpoch f h.2.2 = true → s.phys (hCore h.2.2.addr) = some p → s.absent (hCore h.2.2.addr) = false →
     addrOk s.declared h.2.2.addr 4 .post false = true → g = Fin.ofNat 64 (hOff h.2.2.addr / 4) →
     x = Handle.ofWord (BitVec.ofNat 32 (beAt h.2.2.payload 0 4)) →
     ∃ t, exec .schedPost s = .next t ∧ onlyCore { s with hall := t.hall, folds := t.folds } t p ∧
       t.hall = { s.hall with held := s.hall.held.erase h } ∧
       t.folds = s.folds.set f { s.folds[f] with landed := n :: s.folds[f].landed } ∧
       (s.cores[p].gates[g].full s.now = false → t.cores[p] = { s.cores[p] with
         gates := s.cores[p].gates.set g { s.cores[p].gates[g] with queue := s.cores[p].gates[g].queue ++
           [({ x with bad := x.bad || bitOf h.2.2.marks 0 }, h.1 + 2)] } }) ∧
       (s.cores[p].gates[g].full s.now = true → t.cores[p].quiet = s.cores[p].quiet ∧
         t.cores[p].tally = (s.events p [(0x38, 1)] (some f)).cores[p].tally))

/-- R34, R261, R262: a scheduled read request that is expected and current joins the gather service of its core, as one of the
1,920 × P rows that it takes in a tick; towards an absent core or a hurdled or fenced fold, outside the regions of its fold,
or beyond those rows, it is answered at once by one packet of type 5 with its return address and stamp, and counted as not
served.
R256, R262: a scheduled read response that is expected and current puts its bytes into the unit that waits for it,
and a not-served answer puts zeros marked bad there and is counted at the requesting fold. -/
def Obligations.ScheduledReadsAreServed : Prop :=
  (∀ (s : State) (h : HeldPacket) (f : FoldNo) (n : Nat) (fl : Nat × Flow) (len : Nat) (ret : Word64) (stamp : BitVec 32),
     s.dueSched 2 = some (h, f, n) → s.currentEpoch f h.2.2 = true → ret = BitVec.ofNat 64 (beAt h.2.2.payload 0 8) →
     stamp = BitVec.ofNat 32 (beAt h.2.2.payload 8 4) → len = beAt h.2.2.payload 12 2 →
     s.flowOf f false (hCore h.2.2.addr) (hModule ret) = some fl →
     ∀ x : Fold, x = { s.folds[f] with landed := n :: s.folds[f].landed } →
     (∀ p, s.phys (hCore h.2.2.addr) = some p → s.absent (hCore h.2.2.addr) = false → s.fencedOff f = false →
       addrOk s.declared h.2.2.addr len .read false = true → hSpace h.2.2.addr = 0 →
       s.inRegions f (hCore h.2.2.addr) (hOff h.2.2.addr) len = true →
       ∀ k : Nat, k = (if s.cores[p].rowsTaken.1 = s.tick.number.toNat then s.cores[p].rowsTaken.2 else 0) → k < s.reserveAt →
       exec .schedReadRequest s = .next { s with
         hall := { s.hall with held := s.hall.held.erase h }, folds := s.folds.set f x
         cores := s.cores.set p { s.cores[p] with
           rowsTaken := (s.tick.number.toNat, k + 1)
           gather := s.cores[p].gather ++ [(s.unstamp stamp - fl.2.lambda - 58, h.2.2, s.now)] } }) ∧
     (s.absent (hCore h.2.2.addr) = true ∨ s.fencedOff f = true ∨
         (∃ p, s.phys (hCore h.2.2.addr) = some p ∧ addrOk s.declared h.2.2.addr len .read false = true ∧
           hSpace h.2.2.addr = 0 ∧ (s.inRegions f (hCore h.2.2.addr) (hOff h.2.2.addr) len = false ∨
             (s.cores[p].rowsTaken.1 = s.tick.number.toNat ∧ s.reserveAt ≤ s.cores[p].rowsTaken.2))) →
       ∃ t y, exec .schedReadRequest s = .next t ∧ y.pkt.type = 5 ∧ y.pkt.addr = ret ∧ y.pkt.stamp = stamp ∧ y.pkt.payload = [] ∧
         y.flow = fl.1 ∧ t = { s with
           hall := { s.hall with held := s.hall.held.erase h, tx := s.hall.tx ++ [y] }
           folds := s.folds.set f (x.count 15 1) })) ∧
  (∀ (s : State) (h : HeldPacket) (f : FoldNo) (n k : Nat) (p : CoreNo) (d : DroverNo) (i : DStreamNo) (u : UnitFl)
     (b : BeatFl) (rest : List BeatFl) (bs : List MByte) (type : BitVec 4) (c : Instr),
     (type = 3 ∧ c = .schedReadResponse ∧
         bs = (h.2.2.payload.zipIdx.map fun b => (b.1, bitOf h.2.2.marks (b.2 / 32))) ∨
       type = 5 ∧ c = .schedNotServed ∧ bs = List.replicate 256 (0, true)) →
     s.dueSched type = some (h, f, n) → s.currentEpoch f h.2.2 = true → (s.phys (hCore h.2.2.addr)).isSome = true →
     s.waitingAt f h.2.2.addr = some (p, d, i, k) → (s.ds p d i).units[k]? = some u → u.beats = b :: rest →
     ∃ t, exec c s = .next t ∧ (∀ q : CoreNo, q ≠ p → t.cores[q] = s.cores[q]) ∧
       t.cores[p] = s.cores[p].setDs d i { s.ds p d i with
         units := (s.ds p d i).units.set k { u with beats := { b with data := bs.take b.len } :: rest } } ∧
       t.hall = { s.hall with held := s.hall.held.erase h } ∧
       t.folds[f].landed = n :: s.folds[f].landed ∧ (∀ g : FoldNo, g ≠ f → t.folds[g] = s.folds[g]) ∧
       (type = 5 → t.folds[f].ctrs = (s.folds[f].count 16 1).ctrs) ∧ (type = 3 → t.folds[f].ctrs = s.folds[f].ctrs) ∧
       t = { s with cores := t.cores, hall := t.hall, folds := t.folds, log := t.log, ctrs := t.ctrs })

/-- R27, R272 to R274, Tables 12.10 and 12.11: an intact exchange report whose cycle has come is kept by the shepherd or deputy,
one a member; an intact decision of the running tick is kept for the next instant, as the shepherd's or the deputy's. A
marked one is dropped, and so is a decision that names no pen of the image. -/
def Obligations.ExchangePacketsAreKept : Prop :=
  (∀ (s : State) (h : HeldPacket) (f : FoldNo) (i : FoldImage), s.dueControl 7 = some (h, f, i) →
    ∀ d, d = readDecision i.memberList.length h.2.2.payload →
    (h.2.2.marks = 0 → d.tick = s.tick.number → i.hasPen d.pen = true → exec .exchangeDecision s = .next { s with
      hall := { s.hall with held := s.hall.held.erase h }
      folds := s.folds.set f { s.folds[f] with
        fromShepherd := if h.2.1 = i.shepherd then some d else s.folds[f].fromShepherd
        fromDeputy := if h.2.1 = i.deputy then some d else s.folds[f].fromDeputy } }) ∧
    (h.2.2.marks ≠ 0 ∨ d.tick ≠ s.tick.number ∨ i.hasPen d.pen = false → exec .exchangeDecision s = .next { s with
      hall := { s.hall with held := s.hall.held.erase h } })) ∧
  (∀ (s : State) (h : HeldPacket) (f : FoldNo) (i : FoldImage), s.dueControl 6 = some (h, f, i) →
    (h.2.2.marks = 0 → ∀ x : Fold, x = { s.folds[f] with
        reports := readReport h.2.1 h.2.2.payload :: s.folds[f].reports.filter fun q =>
          decide (q.from_ ≠ h.2.1) && decide (q.tick = (readReport h.2.1 h.2.2.payload).tick) } →
      (∃ t, exec .exchangeReport s = .next t ∧ t.folds[f].reports = x.reports ∧ t.cores = s.cores ∧
        t.hall.held = s.hall.held.erase h) ∧
      (s.rel < s.reserveAt → exec .exchangeReport s = .next { s with
        hall := { s.hall with held := s.hall.held.erase h }, folds := s.folds.set f x })) ∧
    (h.2.2.marks ≠ 0 → s.rel < s.reserveAt → exec .exchangeReport s = .next { s with
      hall := { s.hall with held := s.hall.held.erase h } }))

/-- R253, R263, R264: a mail message of any kind for another module is passed on with one hop more, on the rein of the
next-hop table; at the eighth hop, or at a full queue of 1 MiB, it is dropped, and counted at the fold that sent it when this
module holds that fold. Nothing of this module acts on it. -/
def Obligations.MailPassesThrough : Prop :=
  ∀ (s : State) (m : MailMsg) (port : FabricPort) (c : Instr),
    c ∈ [Instr.mailWrite m, .mailGatherRequest m, .mailGatherResponse m, .mailNotServed m, .mailStaleRole m, .mailRefused m,
      .mailNoRoute m, .mailUnknownKind m, .mailReservedKind m, .faultNotice m, .statusReadRequest m, .statusReadResponse m,
      .imageBlockRequest m, .imageBlockResponse m, .presenceNotice port m, .presenceCloseNotice port m, .witnessRecord m] →
    m.dstModule ≠ s.hallNo →
    (∀ r, m.hops.toNat < 7 → s.nextHop m.dstModule = some r →
      ((s.hall.queues[r] : List MailMsg).map mailSize).sum + mailSize m ≤ 2 ^ 20 →
      exec c s = .next { s with hall := { s.hall with
        queues := s.hall.queues.set r (s.hall.queues[r] ++ [{ m with hops := m.hops + 1 }]) } }) ∧
    ((7 ≤ m.hops.toNat ∧ m.hops.toNat < 255) ∨
        (m.hops.toNat < 7 ∧ ∃ r, s.nextHop m.dstModule = some r ∧
          2 ^ 20 < ((s.hall.queues[r] : List MailMsg).map mailSize).sum + mailSize m) → ∃ t, exec c s = .next t ∧ t.hall = s.hall ∧ t.cores = s.cores ∧
      t = { s with folds := t.folds } ∧
      ∀ f, s.foldByTag m.srcTag = some f → t.folds = s.folds.set f (s.folds[f].count 17 1))

/-- R252, R266: a mail write that a slice entry of its fold admits, into a dynamic region and within the 16 MiB, is held
for the reserve; a write that no entry admits is answered "refused" and counted, and nothing is held.
R252, R267, R270, R271: a gather request that is admitted, current and within a region joins the requests of the mail
service window, in the order of landing and of source module; one that is not admitted is answered "not served" and counted.
A gather response for a request that is still due is held for the reserve; a later one is counted as late. -/
def Obligations.MailWritesAndGathers : Prop :=
  (∀ (s : State) (m : MailMsg), m.dstModule = s.hallNo → addrOk s.declared m.addr m.payload.length .write true = true →
     (∀ f, s.admitted m m.payload.length .write = some f →
       s.dynamicAt f (hCore m.addr) (hOff m.addr) m.payload.length = true →
       s.hall.heldBytes + m.payload.length ≤ 2 ^ 24 →
       exec (.mailWrite m) s = .next { s with hall := { s.hall with writes := s.hall.writes ++
         [{ tick := s.tick.number.toNat, fold := f, due := s.tick.number.toNat, msg := m }] } }) ∧
     (s.admitted m m.payload.length .write = none → m.kind = 1 →
       ∃ t, exec (.mailWrite m) s = .next t ∧ t.hall.writes = s.hall.writes ∧ t.cores = s.cores ∧
         t = { s with hall := t.hall, folds := t.folds } ∧ t.hall.number = s.hall.number + 1)) ∧
  (∀ (s : State) (m : MailMsg), m.dstModule = s.hallNo →
     (∀ (f : FoldNo) (len : Nat), len = beAt m.payload 8 2 → addrOk s.declared m.addr len .gather true = true →
       s.admitted m len .gather = some f → s.inRegions f (hCore m.addr) (hOff m.addr) len = true →
       s.absent (hCore m.addr) = false → s.mailCurrent f m = true →
       ∃ t, exec (.mailGatherRequest m) s = .next t ∧ t = { s with hall := { s.hall with gathers := t.hall.gathers } } ∧
         (∀ g, g ∈ t.hall.gathers ↔ g = (s.now, f, m) ∨ g ∈ s.hall.gathers) ∧
         t.hall.gathers.length = s.hall.gathers.length + 1) ∧
     (∀ len : Nat, len = beAt m.payload 8 2 → addrOk s.declared m.addr len .gather true = true → s.admitted m len .gather = none →
       m.kind = 2 → ∃ t, exec (.mailGatherRequest m) s = .next t ∧ t.hall.gathers = s.hall.gathers ∧ t.cores = s.cores ∧
         t = { s with hall := t.hall, folds := t.folds } ∧ t.hall.number = s.hall.number + 1) ∧
     (∀ a : MailGather, (s.hall.asked.find? fun a => decide (a.number = m.reference)) = some a → m.epoch = 0 →
       (s.tick.number.toNat < a.due ∨ (s.tick.number.toNat = a.due ∧ s.rel < s.reserveAt) → exec (.mailGatherResponse m) s = .next { s with hall := { s.hall with
         writes := s.hall.writes ++ [{ tick := s.tick.number.toNat, fold := a.fold, due := a.due, msg := m }] } }) ∧
       (a.due < s.tick.number.toNat ∨ (s.tick.number.toNat = a.due ∧ s.reserveAt ≤ s.rel) → exec (.mailGatherResponse m) s = .next { s with
         folds := s.folds.set a.fold (s.folds[a.fold].count 19 1) })))

/-- R264, R270, Table 12.9: an answer with an epoch puts it into the mail epoch cache, newest first, for the module and
core it speaks of; "not served" and "no route" count at the fold that asked. A message of a reserved kind is answered
"unknown kind" under the next message number, and never acted on.
R252, R264, R268, R324, R338, R373, R383: what supervisors say to each other and status registers read by mail: a
fault notice and a witness record are logged; a status read that an export entry admits is answered with the register, most significant byte first,
and its value is kept by the fold that asked; a block of a container bound here is answered with its bytes, and kept by the module that fetches it
until the container is whole. What is not admitted or not bound is answered so, and nothing is read or written.
R266: the mail delivery window of a core serves once a tick, from cycle 1,920 × P + 64 on: a held write of a fold
within its budget is stored by the fleece port, with the marks of its message, and counted at its fold. A second window
of the tick, or one outside those cycles, changes nothing. -/
def Obligations.AnswersMailAndDelivery : Prop :=
  (∀ (s : State) (m : MailMsg), m.dstModule = s.hallNo → s.store.fetch = none →
     (∀ c, c ∈ [Instr.mailStaleRole m, .mailRefused m, .mailUnknownKind m] →
       (m.epoch = 0 → exec c s = .next s) ∧
       (m.epoch ≠ 0 → ∃ t, exec c s = .next t ∧ t = { s with hall := { s.hall with cache := t.hall.cache } } ∧
         t.cachedEpoch m.srcModule (s.answered m) = m.epoch ∧ t.hall.cache.length ≤ 256)) ∧
     (∀ (c : Instr) (k : Fin 23) (f : FoldNo), (c, k) ∈ [(Instr.mailNotServed m, (16 : Fin 23)), (.mailNoRoute m, 17)] →
       m.epoch = 0 → s.foldByTag m.dstTag = some f →
       exec c s = .next { s with folds := s.folds.set f (s.folds[f].count k 1) }) ∧
     (∀ r, m.kind = 0 ∨ 0x11 ≤ m.kind.toNat → s.nextHop m.srcModule = some r →
       ((s.hall.queues[r] : List MailMsg).map mailSize).sum + 32 ≤ 2 ^ 20 → m.dstTag = 0xFFFF →
       ∃ a, exec (.mailReservedKind m) s = .next { s with hall := { s.hall with
           number := s.hall.number + 1, queues := s.hall.queues.set r (s.hall.queues[r] ++ [a]) } } ∧
         a.kind = 8 ∧ a.reference = m.number ∧ a.dstModule = m.srcModule ∧ a.dstTag = m.srcTag ∧ a.addr = m.addr ∧ a.payload = [])) ∧
  (∀ (s : State) (m : MailMsg), m.dstModule = s.hallNo →
     (m.dstTag = 0xFFFF → m.srcTag = 0xFFFF →
       (∃ t, exec (.witnessRecord m) s = .next t ∧ t = { s with log := t.log, ctrs := t.ctrs } ∧
         t.log = (s.log1 0x0E03 none none none (leBytes m.srcModule.toNat 2 ++ leBytes (beAt m.payload 8 8) 8 ++
           sliceD 0 m.payload 16 10)).log) ∧
       (s.foldByTag (BitVec.ofNat 16 (beAt m.payload 10 2)) = none → ∃ t, exec (.faultNotice m) s = .next t ∧
         t = { s with log := t.log, ctrs := t.ctrs } ∧ t.log = (s.log1 0x0F01 none none none (sliceD 0 m.payload 8 20)).log) ∧
       (s.store.fetch = none → exec (.imageBlockResponse m) s = .next s) ∧
       (∀ x ys, s.store.fetch = some x → beAt m.payload 0 8 = x.at_ →
         ys = s.store.fetched ++ [(x.meas, x.at_, m.payload.drop 8)] →
         (Store.fetchedOk { s.store with fetched := ys } x.meas = true → exec (.imageBlockResponse m) s = .next { s with
           store := { s.store with fetched := ys, fetch := none } }) ∧
         (Store.fetchedOk { s.store with fetched := ys } x.meas = false → m.payload.drop 8 ≠ [] →
           x.at_ + (m.payload.drop 8).length < 256 → ∃ t, exec (.imageBlockResponse m) s = .next t ∧
             t.store = { s.store with fetched := ys, fetch := t.store.fetch } ∧ t = { s with store := t.store, hall := t.hall })) ∧
       (∀ (x : SlotKey × Slot) (r : Fin 12) (off len : Nat), s.storeUp = true → off = beAt m.payload 48 8 →
         len = beAt m.payload 56 2 → 1 ≤ len → len ≤ 4000 →
         (s.store.slots.find? fun x => x.2.written && s.trailerOk x.2 &&
           decide (x.2.measure = BitVec.ofNat 384 (beAt m.payload 0 48))) = some x →
         s.nextHop m.srcModule = some r → ((s.hall.queues[r] : List MailMsg).map mailSize).sum + 4040 ≤ 2 ^ 20 →
         ∃ a, exec (.imageBlockRequest m) s = .next { s with hall := { s.hall with
             number := s.hall.number + 1, queues := s.hall.queues.set r (s.hall.queues[r] ++ [a]) } } ∧ a.kind = 0x0D ∧
           a.dstModule = m.srcModule ∧ a.reference = m.number ∧
           a.payload = beBytes off 8 ++ x.2.get off (min len (x.2.len - off))) ∧
       (s.storeUp = false → m.kind = 0x0C → s.nextHop m.srcModule = none → exec (.imageBlockRequest m) s = .next { s with
         hall := { s.hall with number := s.hall.number + 1 } })) ∧
     (∀ f, m.epoch = 0 → s.foldByTag m.dstTag = some f → ∃ t, exec (.statusReadResponse m) s = .next t ∧
       t = { s with folds := s.folds.set f { s.folds[f] with peerRegs := t.folds[f].peerRegs } } ∧
       t.folds[f].peerRegs.head? = some (m.srcModule, hOff m.addr % 0x1000, BitVec.ofNat 32 (beAt m.payload 0 4))) ∧
     (∀ f r, hSpace m.addr = 3 → zeros m.addr 31 12 = true → s.foldByTag m.dstTag = some f → s.exports f m 4 .read = true →
       s.fencedOff f = false ∨ hOff m.addr / 0x1000 = 0x2000 + f.val → s.nextHop m.srcModule = some r →
       ((s.hall.queues[r] : List MailMsg).map mailSize).sum + 36 ≤ 2 ^ 20 →
       ∃ a : MailMsg, exec (.statusReadRequest m) s = .next { (s.readStatus (hOff m.addr)).2 with hall := { s.hall with
           number := s.hall.number + 1, queues := s.hall.queues.set r (s.hall.queues[r] ++ [a]) } } ∧ a.kind = 0x0B ∧
         a.dstModule = m.srcModule ∧ a.reference = m.number ∧ a.payload = beBytes (s.readStatus (hOff m.addr)).1.toNat 4) ∧
     (hSpace m.addr ≠ 3 → m.kind = 0x0A → s.nextHop m.srcModule = none → m.dstTag = 0xFFFF → s.foldByTag m.dstTag = none →
       exec (.statusReadRequest m) s = .next { s with hall := { s.hall with number := s.hall.number + 1 } })) ∧
  (∀ (s : State) (l p : CoreNo), s.phys l = some p →
     (s.rebuild.isSome = true ∨ s.rel < s.reserveAt + 64 ∨ s.period < s.rel + 65 ∨
       s.cores[p].delivered = some s.tick.number.toNat → exec (.mailDeliveryWindow l) s = .next s) ∧
     (∀ w : HeldMail, s.rebuild = none → s.reserveAt + 64 ≤ s.rel → s.rel + 65 ≤ s.period →
       s.cores[p].delivered ≠ some s.tick.number.toNat → s.hall.writes = [w] → w.msg.kind = 1 → hCore w.msg.addr = l →
       s.hall.asked = [] → w.msg.payload.length ≤ s.mailBudget w.fold → (∀ f : FoldNo, s.folds[f].replay.on = false) →
       s.mailCurrent w.fold w.msg = true →
       s.dynamicAt w.fold l (hOff w.msg.addr) w.msg.payload.length = true →
       ∃ t, exec (.mailDeliveryWindow l) s = .next t ∧ t.hall.writes = [] ∧ (∀ q : CoreNo, q ≠ p → t.cores[q] = s.cores[q]) ∧
         t.cores[p] = { s.cores[p] with
           delivered := some s.tick.number.toNat
           pasture := s.cores[p].pasture.store s.now (hOff w.msg.addr) (w.msg.payload.map fun b => (b, w.msg.bad)) } ∧
         t.folds[w.fold].ctrs = (s.folds[w.fold].count 21 1).ctrs))

/-! ## Lost cores, hangs and recovery -/

/-- R209, R212, R215: a fault of a core that has none yet is noted with its cause and cycle, and where a takeover follows
(Table 10.4: the core runs a logical core on its own data, a spare is free, and no other lost core has it) the frames of every
fold that holds its logical core carry the takeover mark from now on; a second fault of a core, and one of a core that is off
for good, changes nothing. Once isolated the core is failed: it issues nothing, holds nothing in its engines and has no power,
and its memory stays. A rebuild chain whose spare is lost ends, and marks that waited for its end end two ticks later (the
model's choice, log entry 32); another core lost leaves the rest of the chain poisoned.
R213, R215, Table 10.4: the rebuild chain writes its next unit no earlier than its cycle: the words rebuilt from
parity, or poisoned zero words when one of them cannot be rebuilt; after the last unit the spare is mapped and the chain
is over. -/
def Obligations.LostCoresAndRebuild : Prop :=
  ((∀ (s : State) (p : CoreNo) (c : FatalCause),
     (s.cores[p].fault.isSome = true ∨ s.cores[p].mode = .fusedOff ∨ s.cores[p].mode = .retired →
       exec (.coreFaultDetected p c) s = .next s) ∧
     (s.cores[p].fault = none → s.cores[p].mode ≠ .fusedOff → s.cores[p].mode ≠ .retired →
       ∃ t, exec (.coreFaultDetected p c) s = .next t ∧ t = { s with
           cores := s.cores.set p { s.cores[p] with fault := some s.now, cause := some c }
           folds := t.folds, hall := t.hall, log := t.log, ctrs := t.ctrs } ∧
         (∀ l f, s.logicalOf p = some l → f ∈ s.holders l → s.willTake p = true →
           t.folds[f] = { s.folds[f] with takeoverUntil := some noEnd }) ∧
         (s.willTake p = false ∨ s.logicalOf p = none → t.folds = s.folds))) ∧
   (∀ (s : State) (p : CoreNo), (s.cores[p].fault = none ∨ s.cores[p].isolated = true → exec (.coreIsolated p) s = .next s) ∧
     (s.cores[p].fault.isSome = true → s.cores[p].isolated = false →
       ∃ t, exec (.coreIsolated p) s = .next t ∧ onlyCore { s with rebuild := t.rebuild, folds := t.folds } t p ∧
         t.cores[p].mode = .failed ∧ t.cores[p].isolated = true ∧ t.cores[p].absent = s.cores[p].inUse ∧
         t.cores[p].matrix.running = false ∧ t.cores[p].cstream.running = false ∧ t.cores[p].dstream.running = false ∧
         t.cores[p].passes = [] ∧ t.cores[p].walks = [] ∧ t.cores[p].clears = [] ∧
         (∀ (d : DroverNo) (i : DStreamNo), (t.ds p d i).status = .idle) ∧
         t.cores[p].supply.on = false ∧ t.cores[p].pasture = s.cores[p].pasture ∧ t.cores[p].acc = s.cores[p].acc ∧
         (∀ f : FoldNo, t.folds[f] =
           if (s.cores[p].mode = .spare ∨ s.cores[p].mode = .rebuilding) ∧ s.folds[f].takeoverUntil = some noEnd then
             { s.folds[f] with takeoverUntil := some (s.tick.number.toNat + 2) }
           else s.folds[f]) ∧
         (s.rebuild = none → t.rebuild = none) ∧
         (∀ r, s.rebuild = some r → (r.spare = p → t.rebuild = none) ∧
           (r.spare ≠ p → t.rebuild = some { r with poisoned := r.poisoned || s.cores[p].inUse }))))) ∧
  (∀ s : State, s.rebuild = none ∨ (∃ r, s.rebuild = some r ∧ nextUnit r.units r.done = none) →
     exec .rebuildUnitWritten s = .next s) ∧
  (∀ (s : State) (r : Rebuild) (off : Nat), s.rebuild = some r → nextUnit r.units r.done = some off →
     (s.now < r.t1 + 8 + r.done + 50 * (s.groupSize - 2) → exec .rebuildUnitWritten s = .next s) ∧
     (r.t1 + 8 + r.done + 50 * (s.groupSize - 2) ≤ s.now →
       (∀ bs, r.poisoned = false → s.unitWords s.cores[r.spare].member off = some bs →
         r.done + 1 ≠ (r.units.map fun u => u.2).sum →
         exec .rebuildUnitWritten s = .next { s with
           rebuild := some { r with done := r.done + 1 }
           cores := s.cores.set r.spare { s.cores[r.spare] with
             pasture := (List.range 8).foldl (fun m k => m.fix (off / 32 + k) ((bs.drop (32 * k)).take 32)) s.cores[r.spare].pasture } }) ∧
       (r.poisoned = true ∨ s.unitWords s.cores[r.spare].member off = none →
         r.done + 1 ≠ (r.units.map fun u => u.2).sum →
         exec .rebuildUnitWritten s = .next { s with
           rebuild := some { r with done := r.done + 1, losses := r.losses + 1 }
           cores := s.cores.set r.spare { s.cores[r.spare] with
             pasture := s.cores[r.spare].pasture.poisonZero (off / 32) (off / 32 + 8) } }) ∧
       (r.done + 1 = (r.units.map fun u => u.2).sum → ∃ t, exec .rebuildUnitWritten s = .next t ∧ t.rebuild = none ∧
         t.cores[r.spare].mode = .mapped ∧ (∀ q : CoreNo, q ≠ r.spare → t.cores[q] = s.cores[q]) ∧
         (∀ f, f ∈ s.holders r.logical → t.folds[f] = { s.folds[f] with takeoverUntil := some (s.tick.number.toNat + 2) }) ∧
         t = { s with cores := t.cores, folds := t.folds, log := t.log, ctrs := t.ctrs, rebuild := none })))

/-- R365, R366: a crook sample, at a tick-relative cycle that is a multiple of 1,024, counts, for every wait of a running fold
that lies on a closed path, the consecutive samples that found it there, and finds a hang when waits found 126 times form a
closed path. Of a fold that does not run, and at any other cycle, it samples nothing.
R331, R366, R367, R370: a declared hang hurdles its running fold at once: its streams on the cores that it holds alone
stop, its held mail is discarded, its frames drain marked, the dump takes the next number, and its regions are to be
walked; its drover streams wait for the cancellation of the next cycle, and no other fold changes. A confirming fold is to be
reverted, and a second hang within 1,024 ticks fences the fold. -/
def Obligations.HangsAreFoundAndHurdle : Prop :=
  (∀ (s : State) (f : FoldNo),
     (s.folds[f].run ≠ .running ∨ s.rel % 1024 ≠ 0 → exec (.crookSample f) s = .next s) ∧
     (s.folds[f].run = .running → s.rel % 1024 = 0 → ∃ t cs, exec (.crookSample f) s = .next t ∧
       cs.map (fun (c : WaitNode × Nat) => c.1) = s.onCycle (s.waits f) ∧
       (∀ n k, n ∈ s.onCycle (s.waits f) → (s.folds[f].recov.lastCycle.find? fun o => decide (o.1 = n)) = some (n, k) →
         (n, k + 1) ∈ cs) ∧
       (∀ n, n ∈ s.onCycle (s.waits f) → (s.folds[f].recov.lastCycle.find? fun o => decide (o.1 = n)) = none → (n, 1) ∈ cs) ∧
       ∀ long, long = s.onCycle ((cs.filter fun c => decide (126 ≤ c.2)).map fun c => c.1) →
         (long = [] → t = { s with folds := s.folds.set f { s.folds[f] with
           recov := { s.folds[f].recov with lastCycle := cs } } }) ∧
         (long ≠ [] → t = { s with folds := s.folds.set f { s.folds[f] with
           recov := { s.folds[f].recov with
             lastCycle := cs, nodes := long
             hang := if s.folds[f].recov.hang.isSome then s.folds[f].recov.hang else some 0x0501 } } }))) ∧
  (∀ (s : State) (f : FoldNo) (i : FoldImage),
     (s.folds[f].recov.hang = none ∨ s.folds[f].run ≠ .running → exec (.hangDeclared f) s = .next s) ∧
     (∀ code, s.folds[f].recov.hang = some code → s.folds[f].image = some i → s.folds[f].run = .running →
       ∃ t, exec (.hangDeclared f) s = .next t ∧ t.folds[f].markAll = true ∧ t.folds[f].recov.hurdle = some s.now ∧
         t.folds[f].recov.cause = code ∧ t.folds[f].recov.walking = s.coresOf f ∧ t.folds[f].recov.hang = none ∧
         t.folds[f].recov.captured = false ∧ t.dumpNo = s.dumpNo + 1 ∧
         t.folds[f].ctrs[9] = (s.folds[f].ctrs[9] : Ctr).add 1 ∧ (∀ g : FoldNo, g ≠ f → t.folds[g] = s.folds[g]) ∧
         t.hall.writes = (s.hall.writes.filter fun w => decide (w.fold ≠ f)) ∧
         t.hall.asked = (s.hall.asked.filter fun a => decide (a.fold ≠ f)) ∧
         (∀ l p, l ∈ s.coresOf f → s.phys l = some p → s.sharesOn f l = false → t.cores[p].matrix.running = false ∧
           t.cores[p].cstream.running = false ∧ t.cores[p].dstream.running = false) ∧
         (∀ p : CoreNo, t.cores[p].pasture = s.cores[p].pasture ∧ t.cores[p].acc = s.cores[p].acc ∧
           t.cores[p].drovers = s.cores[p].drovers) ∧
         ((s.entry f).state = .confirming → t.folds[f].run = .hurdled ∧ (t.entry f).state = .reverting) ∧
         ((s.entry f).state ≠ .confirming → t.store = s.store ∧
           (∀ k, s.folds[f].recov.restarted = some k → s.tick.number.toNat < k + 1024 → t.folds[f].run = .fenced) ∧
           (∀ k, s.folds[f].recov.restarted = some k → k + 1024 ≤ s.tick.number.toNat → t.folds[f].run = .hurdled) ∧
           (s.folds[f].recov.restarted = none → t.folds[f].run = .hurdled)) ∧
         t = { s with
           dumpNo := t.dumpNo, cores := t.cores, folds := t.folds, hall := t.hall, store := t.store, log := t.log
           ctrs := t.ctrs }))

/-- R368, R374, R375: from 4,000 cycles after the hurdle the dump is captured once, and by then at the latest no drover stream of
the fold is left active. The oldest capture is written to the slot of
its number, sealed under the fold key unless debug was on, in place of the dump that stood there; with no SSD in step
only its header is logged.
R156, R368, R370: the walk of a hurdled fold on a core ends no earlier than its cycle, moved back by the cycles in which it paused; it
leaves every dynamic word of the fold there a poisoned zero word, and a static word found uncorrectable rebuilt from parity;
a word that cannot be rebuilt fences the fold with its last walk.
R364: a restarting supervisor runs its firmware again and is standby; a supervisor in any other state is left as it
is. -/
def Obligations.DumpsWalksAndSupervisors : Prop :=
  ((∀ (s : State) (f : FoldNo), s.folds[f].recov.hurdle = none → exec (.dumpCapture f) s = .next s) ∧
   (∀ (s : State) (f : FoldNo) (h : Nat), s.folds[f].recov.hurdle = some h →
     (s.now < h + 4000 ∨ s.folds[f].recov.captured = true → exec (.dumpCapture f) s = .next s) ∧
     (h + 4000 ≤ s.now → s.folds[f].recov.captured = false → ∃ t, exec (.dumpCapture f) s = .next t ∧
       (∀ (p : CoreNo) (d : DroverNo) (k : DStreamNo), (s.ds p d k).fold = f → (t.ds p d k).status = .idle) ∧
       (∀ p : CoreNo, t.cores[p].pasture = s.cores[p].pasture ∧ t.cores[p].acc = s.cores[p].acc) ∧
       t = { s with
         cores := t.cores, log := t.log, ctrs := t.ctrs
         folds := s.folds.set f { s.folds[f] with recov := { s.folds[f].recov with captured := true, dump := [] } }
         captures := s.captures ++ [(f, leAt s.folds[f].recov.dump 8 4, s.folds[f].recov.dump)] })) ∧
   (∀ s : State, s.captures = [] → exec .dumpWritten s = .next s) ∧
   (∀ (s : State) (f : FoldNo) (n : Nat) (bs : List Byte) (rest : List (FoldNo × Nat × List Byte)),
     s.captures = (f, n, bs) :: rest →
     (s.storeUp = true → ∃ t, exec .dumpWritten s = .next t ∧ t = { s with
       captures := rest, log := t.log, ctrs := t.ctrs
       store := { s.store with
         dumps := (n % 8128, n, s.sealDump f bs) :: s.store.dumps.filter fun d => decide (d.1 ≠ n % 8128) } }) ∧
     (s.storeUp = false → ∃ t, exec .dumpWritten s = .next t ∧ t = { s with captures := rest, log := t.log, ctrs := t.ctrs } ∧
       t.log = (s.log1 0x0506 (some f) none none (sliceD 0 bs 0 20)).log))) ∧
  (∀ (s : State) (f : FoldNo) (l p : CoreNo) (i : FoldImage) (h : Nat) (rs : List Region), s.folds[f].image = some i →
     s.folds[f].recov.hurdle = some h → s.folds[f].run = .hurdled → s.folds[f].recov.walking.contains l = true →
     s.phys l = some p → rs = i.regions.filter (fun r => decide (r.core = l)) → s.folds[f].recov.unrepairable = false →
     (s.now < h + 4000 + i.unitsOn l + s.folds[f].recov.paused → exec (.foldWalkEnd f l) s = .next s) ∧
     (h + 4000 + i.unitsOn l + s.folds[f].recov.paused ≤ s.now →
       ∀ x : Recovery, x = { s.folds[f].recov with walking := s.folds[f].recov.walking.filter fun q => decide (q ≠ l) } →
       (s.cores[p].pasture.flips = [] → s.cores[p].pasture.broken = [] → exec (.foldWalkEnd f l) s = .next { s with
         folds := s.folds.set f { s.folds[f] with recov := x }
         cores := s.cores.set p { s.cores[p] with pasture := (rs.filter fun g => g.dynamic).foldl (fun m g =>
           m.poisonZero (g.start / 32) ((g.start + g.len) / 32)) s.cores[p].pasture } }) ∧
       (∀ w bs, s.cores[p].pasture.flips = [] → s.cores[p].pasture.broken = [w] → staticIn rs w = true → s.rebuiltWord s.cores[p].member (32 * w) = some bs →
         ∃ t, exec (.foldWalkEnd f l) s = .next t ∧ t = { s with
           log := t.log, ctrs := t.ctrs
           folds := s.folds.set f { s.folds[f] with recov := x }
           cores := s.cores.set p { s.cores[p] with pasture := (rs.filter fun g => g.dynamic).foldl (fun m g =>
             m.poisonZero (g.start / 32) ((g.start + g.len) / 32)) (s.cores[p].pasture.fix w bs) } }) ∧
       (∀ w, s.cores[p].pasture.flips = [] → s.cores[p].pasture.broken = [w] → staticIn rs w = true → s.rebuiltWord s.cores[p].member (32 * w) = none →
         (s.entry f).state ≠ .reverting → s.folds[f].recov.walking = [l] →
         ∃ t, exec (.foldWalkEnd f l) s = .next t ∧ t.folds[f].run = .fenced ∧ t.folds[f].recov.walking = []))) ∧
  (∀ (s : State) (u : Sup),
     ((s.sup u).state ≠ .restarting → exec (.supervisorRestart u) s = .next s) ∧
     ((s.sup u).state = .restarting → ∃ t, exec (.supervisorRestart u) s = .next t ∧
       t.sup u = { s.sup u with state := .standby, region := s.bootRegion u, meas := s.regionMeas (s.bootRegion u) } ∧
       (u = .a → t = { s with supA := t.supA }) ∧ (u = .b → t = { s with supB := t.supB })))

/-! ## The tally log -/

/-- R376, R377, R380, Tables 16.7 and 18.5: the oldest staged entry is written at the write position of the ring with the
next sequence, its tag and the chain digest over it; where it fills its sector, the next usable one is erased and begun; a loss
entry comes first when entries were lost. With no usable sector the entry goes to the mirror alone. A sector that fails is skipped for good, its fuse
blown, and the failure is due to the witnesses. With nothing to write, or with no usable sector and no SSD in step, nothing changes.
R378: a mirror copy leaves every entry written on the mirror of each present SSD. A witness record goes, every
1,024 ticks, when a log memory failure has made it due, and in every tick while the log goes on in the staging memory alone,
to both witnesses with the ones kept before, and starts the next span; with no witness it is kept, 64 at most. At another
time none is sent. -/
def Obligations.LogMirrorAndWitnesses : Prop :=
  ((∀ (s : State) (ok : Bool), s.log.lost = 0 → s.log.staged = [] → exec (.logEntryWrite ok) s = .next s) ∧
   (∀ (s : State) (e : LogEntry) (rest : List LogEntry), s.log.badSectors.length < 256 →
     (s.log.lost = 0 ∧ s.log.staged = e :: rest) ∨
       (0 < s.log.lost ∧ s.log.staged = rest ∧ e = s.entryOfLog 0x0B04 (leBytes s.log.lost 4)) →
     (∀ x, x = { e with seq := s.log.seq, tag := s.entryTag { e with seq := s.log.seq } } →
       (s.log.pos + 64) % ringBytes % sectorBytes ≠ 0 →
       exec (.logEntryWrite true) s = .next { s with log := { s.log with
         lost := 0, staged := rest, ring := s.log.ring ++ [(s.log.pos, x)], pos := (s.log.pos + 64) % ringBytes
         seq := s.log.seq + 1, digest := sha384 (beBytes s.log.digest.toNat 48 ++ x.bytes) } }) ∧
     (∀ x k, x = { e with seq := s.log.seq, tag := s.entryTag { e with seq := s.log.seq } } →
       (s.log.pos + 64) % ringBytes % sectorBytes = 0 →
       nextSector s.log.badSectors ((s.log.pos + 64) % ringBytes / sectorBytes) = some k →
       exec (.logEntryWrite true) s = .next { s with log := { s.log with
         lost := 0, staged := rest, pos := k * sectorBytes
         ring := (s.log.ring ++ [(s.log.pos, x)]).filter fun e => decide (e.1 / sectorBytes ≠ k)
         seq := s.log.seq + 1, digest := sha384 (beBytes s.log.digest.toNat 48 ++ x.bytes) } }) ∧
     (s.log.fuses < 256 →
       ∃ t k, k = s.log.pos / sectorBytes ∧ exec (.logEntryWrite false) s = .next t ∧
         t = { s with log := t.log, ctrs := t.ctrs } ∧ k ∈ t.log.badSectors ∧ t.log.fuses = s.log.fuses + 1 ∧
         t.log.failed = true ∧ t.log.witnessDue = true ∧ t.log.seq = s.log.seq ∧ t.log.digest = s.log.digest ∧
         (s.log.fuses = 0 → t.log.failTick = s.tick.number.toNat) ∧ (0 < s.log.fuses → t.log.failTick = s.log.failTick) ∧
         (∀ x, x ∈ t.log.ring → x ∈ s.log.ring ∧ x.1 / sectorBytes ≠ k))) ∧
   (∀ (s : State) (ok : Bool), 256 ≤ s.log.badSectors.length →
     (s.storeUp = false → exec (.logEntryWrite ok) s = .next s) ∧
     (∀ e x rest, s.storeUp = true → s.log.lost = 0 → s.log.staged = e :: rest →
       x = { e with seq := s.log.seq, tag := s.entryTag { e with seq := s.log.seq } } →
       exec (.logEntryWrite ok) s = .next { s with log := { s.log with
         staged := rest, mirrorSeq := s.log.seq, seq := s.log.seq + 1
         digest := sha384 (beBytes s.log.digest.toNat 48 ++ x.bytes) } }))) ∧
  ((∀ s : State,
     ((s.store.ssds.any fun d => d.present) = false → exec .logMirrorCopy s = .next s) ∧
     ((s.store.ssds.any fun d => d.present) = true → ∃ t, exec .logMirrorCopy s = .next t ∧
       t = { s with log := { s.log with mirrorSeq := s.log.seq - 1 }, store := { s.store with ssds := t.store.ssds } } ∧
       ∀ n : SsdNo, t.store.ssds[n] = { s.store.ssds[n] with
         mirror := s.store.ssds[n].present || s.store.ssds[n].mirror })) ∧
   (∀ s : State, s.log.witnessDue = false → s.tick.number.toNat % 1024 ≠ 0 →
     s.log.badSectors.length < 256 ∨ s.storeUp = true → exec .witnessSend s = .next s) ∧
   (∀ s : State, s.log.witnessDue = true ∨ s.tick.number.toNat % 1024 = 0 ∨
       (256 ≤ s.log.badSectors.length ∧ s.storeUp = false) → ∃ t, exec .witnessSend s = .next t ∧ t.log = { s.log with witnessFrom := s.log.seq, witnessDue := false } ∧
     t = { s with log := t.log, hall := t.hall } ∧
     (s.witnesses = [] → s.hall.witnessPending.length ≤ 64 →
       t.hall.witnessPending.getLast? = some s.witnessBytes ∧ t.hall.witnessPending.length ≤ 64 ∧
         t.hall = { s.hall with witnessPending := t.hall.witnessPending }) ∧
     (s.witnesses ≠ [] → t.hall.witnessPending = [] ∧ t.hall.number = s.hall.number +
       BitVec.ofNat 32 (s.witnesses.length * (s.hall.witnessPending.length + 1)))))

/-! ## Power -/

/-- R386, R387, R320, R342, R438: input power starts the rails unless a package trip holds the module off, and the outputs then stand
as Table 19.9 gives them in reset; power-good turns every
enabled core on at the boot voltage, and a shipped module is then branded with a seed of its entropy source.
R387, R386, R438: input power out of its band while the rails are up, or coming up, takes every rail down: nothing issues, no fold or
section stands, no request for a tack record is left, no output is driven but FAULT_N, whose switch is then on, and fuses, tack record, image slots and the clock stay. While the
module is down it changes nothing, but that an undervoltage ends a package trip.
R234, R384, R385, Table 17.1: a rail out of its band is a fault of what hangs on it: a core's rail of that core, a die's
SRAM rail of its four cores, the link rails take their ports down, the package rail hurdles every running fold, and the
supply rails lower the power cap to 90 % of what is left. A lost unit lowers the cap likewise. -/
def Obligations.PowerComesAndGoes : Prop :=
  ((∀ s : State,
     (s.power.good = false → s.power.sequencing = false → s.power.packageTrip = false → exec .inputPowerApplied s = .next { s with
       power := { s.power with sequencing := true } }) ∧
     (s.power.good = false → s.power.sequencing = false → s.power.packageTrip = false → s.power.bootStep < 3 →
       ∃ t, exec .inputPowerApplied s = .next t ∧ t.outputs = Outputs.idle) ∧
     (s.power.good = true ∨ s.power.sequencing = true ∨ s.power.packageTrip = true → exec .inputPowerApplied s = .next s)) ∧
   (∀ s : State,
     (s.power.sequencing = false → exec .powerGood s = .next s) ∧
     (s.power.sequencing = true → s.storeUp = false → ∃ t, exec .powerGood s = .next t ∧ t.power.good = true ∧
       t.power.sequencing = false ∧ t.power.goodAt = s.now ∧ t.folds = s.folds ∧ t.tick = s.tick ∧ t.trust.pres = s.trust.pres ∧
       (∀ p : CoreNo, (s.enabled.getLsbD p.val = true → t.cores[p] = { s.cores[p] with
           supply := { s.cores[p].supply with on := true, code := 60, plan := 60, own := 60 } }) ∧
         (s.enabled.getLsbD p.val = false → t.cores[p].mode = .fusedOff ∧ t.cores[p].supply.on = false)) ∧
       (s.trust.life = .shipped → s.trust.entropyFailed = false → t.trust.life = .branded ∧ t.trust.draws = s.trust.draws + 1 ∧
         t.trust.masked = Config.entropy s.trust.draws 384 ^^^ Config.puf ∧
         t.trust.fingerprint = fingerprintOf t.brandKey) ∧
       (s.trust.life = .shipped → s.trust.entropyFailed = true → t.trust = s.trust)))) ∧
  (∀ (s : State) (mv : Nat) (c : Instr), c = .inputUndervoltage mv ∨ c = .inputOvervoltage mv →
     (s.power.good = true ∨ s.power.sequencing = true → ∃ t, exec c s = .next t ∧ t.power.good = false ∧ t.power.sequencing = false ∧
       t.outputs = Outputs.off ∧ t.sec? = none ∧ t.folds = State.reset.folds ∧ t.fab = State.reset.fab ∧ t.st = State.reset.st ∧ t.pl = State.reset.pl ∧
       (∀ p : CoreNo, t.cores[p].supply.on = false ∧ t.cores[p].matrix.running = false ∧ t.cores[p].cstream.running = false ∧
         t.cores[p].dstream.running = false) ∧
       t.store.commits = [] ∧ t.store.record = s.store.record ∧ t.store.slots = s.store.slots ∧ t.trust.life = s.trust.life ∧
       t.trust.fingerprint = s.trust.fingerprint ∧ t.trust.generation = s.trust.generation ∧
       t.trust.debugCount = s.trust.debugCount ∧ t.trust.pres.fuse = s.trust.pres.fuse ∧ t.trust.pres.window = none ∧
       t.trust.root = none ∧ t.log.staged = [] ∧ t.now = s.now ∧ t.pending = s.pending) ∧
     (s.power.good = false → s.power.sequencing = false →
       (c = .inputOvervoltage mv → exec c s = .next s) ∧
       (c = .inputUndervoltage mv → exec c s = .next { s with power := { s.power with packageTrip := false } }))) ∧
  ((∀ (s : State) (p : CoreNo), exec (.railOutOfBand (.vcore p)) s = exec (.coreFaultDetected p .regulator) s) ∧
   (∀ (s : State) (d : Fin 8), ∃ t, exec (.railOutOfBand (.vstk d)) s = .next t ∧ ∀ p : CoreNo,
     (p.val / 4 = d.val → s.cores[p].fault = none → s.cores[p].mode ≠ .fusedOff → s.cores[p].mode ≠ .retired →
       t.cores[p] = { s.cores[p] with fault := some s.now, cause := some .regulator }) ∧
     (p.val / 4 ≠ d.val → t.cores[p] = s.cores[p])) ∧
   (∀ (s : State) (c : Rail) (copper : Bool), (c, copper) ∈ [(Rail.vio, true), (.vopt, false)] →
     ∃ t, exec (.railOutOfBand c) s = .next t ∧ t.cores = s.cores ∧ t.tick = s.tick ∧
       (∀ p : FabricPort, (decide (p.val < 16) = copper → t.fab[p].state = .down ∧ t.fab[p].sig = 0) ∧
         (decide (p.val < 16) ≠ copper → t.fab[p] = s.fab[p])) ∧
       (c = .vio → (∀ p : StreamPort, t.st[p] = { s.st[p] with up := false }) ∧
         (∀ p : PlantPort, t.pl[p] = { s.pl[p] with up := false })) ∧
       (c = .vopt → t.st = s.st ∧ t.pl = s.pl)) ∧
   (∀ s : State, ∃ t, exec (.railOutOfBand .vnet) s = .next t ∧
     ∀ f : FoldNo, (s.folds[f].run = .running → s.folds[f].image.isSome = true → t.folds[f].run ≠ .running ∧
         t.folds[f].recov.cause = 0x0501) ∧
       (s.folds[f].run ≠ .running → t.folds[f] = s.folds[f])) ∧
   (∀ (s : State) (c : Rail), c ∈ [Rail.bus12, .pkg1v8] → ∃ t, exec (.railOutOfBand c) s = .next t ∧
     t = { s with power := { s.power with cap := min s.power.cap (s.power.carries * 9 / 10) }, log := t.log, ctrs := t.ctrs }) ∧
   (∀ (s : State) (u : Sup), ∃ t, exec (.railOutOfBand (.stby u)) s = .next t ∧ (t.sup u).state = .outOfService ∧
     t = { s with supA := t.supA, supB := t.supB, log := t.log, ctrs := t.ctrs }) ∧
   (∀ (s : State) (r : UnitRail), ∃ t, exec (.converterUnitLost r) s = .next t ∧
     t = { s with
       power := { s.power.lose r with cap := min s.power.cap (s.power.lose r).capLeft }, log := t.log, ctrs := t.ctrs }))

/-- R389, R390: a power sample joins the sums of its tick and of its 10 ms; a 10 ms mean above the cap stops every warming
the first time, and the next time sets the thermal condition of every fold.
R391, R392, R394: a margin sample of a powered core is kept with the least of its tick; a margin below 45 ps raises its
voltage by one code and below 40 ps by four, up to 100; no voltage falls, each neighbour stands no more than 40 codes
under the raised core, and the floors are those of the new voltages. A core without power is left alone.
R403, R404: in the ticks of an ageing record each powered core keeps the four ring counts that its monitors report and
an entry of its own is logged; in those of a re-plan each powered core that is mapped, spare or idle takes the smallest
code at or above the required one as its plan and remembers the last 30. In any other tick nothing changes. -/
def Obligations.PowerMarginAndAgeing : Prop :=
  (∀ (s : State) (w mv : Nat), ∃ t, exec (.powerSample w mv) s = .next t ∧ t.power.watts = w ∧ t.power.mv = mv ∧
     t.power.tickWatts = s.power.tickWatts + w ∧ t.power.tickMv = s.power.tickMv + mv ∧ t.power.tickN = s.power.tickN + 1 ∧
     t = { s with cores := t.cores, folds := t.folds, power := t.power, log := t.log, ctrs := t.ctrs } ∧
     (s.now < s.power.meanFrom + 20000000 → t.power.meanSum = s.power.meanSum + w ∧ t.power.meanN = s.power.meanN + 1 ∧
       t.power.overCap = s.power.overCap ∧ t.cores = s.cores ∧ t.folds = s.folds) ∧
     (s.power.meanFrom + 20000000 ≤ s.now →
       t.power.meanFrom = s.now ∧ t.power.meanSum = 0 ∧ t.power.meanN = 0 ∧
       ((s.power.meanSum + w) / (s.power.meanN + 1) ≤ 10 * s.power.cap →
         t.power.overCap = false ∧ t.cores = s.cores ∧ t.folds = s.folds) ∧
       (10 * s.power.cap < (s.power.meanSum + w) / (s.power.meanN + 1) → t.power.overCap = true ∧
         (s.power.overCap = false → (∀ p : CoreNo, t.cores[p].supply = { s.cores[p].supply with warming := false }) ∧
           t.folds = s.folds) ∧
         (s.power.overCap = true → t.cores = s.cores ∧ ∀ f : FoldNo, t.folds[f].sel.forced = true)))) ∧
  (∀ (s : State) (ms : List Nat), ∃ t, exec (.marginSample ms) s = .next t ∧
     ∀ p : CoreNo,
       (s.cores[p].supply.on = true → t.cores[p].supply.margin = ms.getD p.val 0 ∧
         t.cores[p].supply.minMargin = some (match s.cores[p].supply.minMargin with
           | some x => min x (ms.getD p.val 0)
           | none => ms.getD p.val 0) ∧
         min 100 (s.cores[p].supply.code + raiseFor (ms.getD p.val 0)) ≤ t.cores[p].supply.code ∧
         (∀ q : CoreNo, adjacent p q = true → s.cores[q].supply.on = true →
           min 100 (s.cores[q].supply.code + raiseFor (ms.getD q.val 0)) ≤ t.cores[p].supply.code + 40) ∧
         t.cores[p].supply.floor = t.floorOf p) ∧
       (s.cores[p].supply.on = false → t.cores[p].supply.code = s.cores[p].supply.code ∧
         t.cores[p].supply.margin = s.cores[p].supply.margin ∧ t.cores[p].supply.floor = 0) ∧
       t.cores[p].pasture = s.cores[p].pasture ∧ t.cores[p].mode = s.cores[p].mode) ∧
  ((∀ (s : State) (rs : List AgeingReading),
     (s.tick.number.toNat % 2 ^ 20 ≠ 0 → exec (.ageingRecord rs) s = .next s) ∧
     (s.tick.number.toNat % 2 ^ 20 = 0 → ∃ t, exec (.ageingRecord rs) s = .next t ∧
       (∀ (p : CoreNo), (∀ r, s.cores[p].supply.on = true → rs[p.val]? = some r → t.cores[p] = { s.cores[p] with
           supply := { s.cores[p].supply with rings := #v[r.ring0, r.ring1, r.ring2, r.ring3] } }) ∧
         (s.cores[p].supply.on = false ∨ rs.length ≤ p.val → t.cores[p] = s.cores[p])) ∧
       t = { s with cores := t.cores, log := t.log, ctrs := t.ctrs })) ∧
   (∀ (s : State) (qs : List Rat),
     (s.replanTicks = 0 ∨ s.tick.number.toNat % max 1 s.replanTicks ≠ 0 → exec (.replan qs) s = .next s) ∧
     (0 < s.replanTicks → s.tick.number.toNat % max 1 s.replanTicks = 0 → ∃ t, exec (.replan qs) s = .next t ∧
       (∀ p : CoreNo,
         (∀ q, s.cores[p].supply.on = true → s.cores[p].mode = .mapped ∨ s.cores[p].mode = .spare ∨ s.cores[p].mode = .idle →
           qs[p.val]? = some q → t.cores[p].supply.plan = planOf q ∧
             t.cores[p].supply.plans = (planOf q :: s.cores[p].supply.plans).take 30 ∧
             t.cores[p].supply.code = s.cores[p].supply.code ∧
             (s.cores[p].mode ≠ .mapped → t.cores[p].planned = s.cores[p].planned)) ∧
         (s.cores[p].supply.on = false ∨ qs.length ≤ p.val → t.cores[p] = s.cores[p])) ∧
       t = { s with cores := t.cores, log := t.log, ctrs := t.ctrs })))

/-- R397: a phase sample clamps a die while a crossing of it stands at or above 125 ps, until every one is at most 100 ps;
140 ps set the thermal condition of every fold on the two dies, and more than 200 ps hurdle every running fold.
R396, R399, R402: a temperature sample keeps every junction and the highest of its tick, estimates the coolant flow from
power and rise, and raises the coolant alarm above the inlet limit of the settings or below 2 L/min. An optical module or a
converter at 103 °C trips the package, which takes every rail down; so do junction trips of three dies within one second,
and a single one switches its core off, or the four cores of its SRAM stack. -/
def Obligations.PhaseAndTemperature : Prop :=
  (∀ (s : State) (phis : List ((Fin 8 × Fin 8) × Nat)), ∃ t, exec (.phaseSample phis) s = .next t ∧
     (∀ d : Fin 8, ((∃ x, x ∈ phis ∧ (x.1.1 = d ∨ x.1.2 = d) ∧ 125 ≤ x.2) → t.power.clampDie[d] = true) ∧
       ((∀ x, x ∈ phis → x.1.1 = d ∨ x.1.2 = d → x.2 ≤ 100) → t.power.clampDie[d] = false) ∧
       ((∀ x, x ∈ phis → x.1.1 = d ∨ x.1.2 = d → x.2 < 125) → (∃ x, x ∈ phis ∧ (x.1.1 = d ∨ x.1.2 = d) ∧ 100 < x.2) →
         t.power.clampDie[d] = s.power.clampDie[d])) ∧
     (∀ (x : (Fin 8 × Fin 8) × Nat) (p l : CoreNo) (f : FoldNo), x ∈ phis → 140 ≤ x.2 → (dieOf p = x.1.1 ∨ dieOf p = x.1.2) → s.logicalOf p = some l → f ∈ s.holders l →
       t.folds[f].sel.forced = true) ∧
     (∀ (x : (Fin 8 × Fin 8) × Nat) (f : FoldNo), x ∈ phis → 200 < x.2 → s.folds[f].run = .running → s.folds[f].image.isSome = true → t.folds[f].run ≠ .running) ∧
     ((∀ x, x ∈ phis → x.2 < 140) → t.folds = s.folds) ∧ t.power.good = s.power.good) ∧
  ((∀ (s : State) (r : TempReadings), (∀ x, x ∈ r.optical ++ r.converters → x < 412) →
     ∃ t, exec (.temperatureSample r) s = .next t ∧ t.power.inlet = r.inlet ∧ t.power.outlet = r.outlet ∧
       (∀ p : CoreNo, t.cores[p].supply.tj = r.cores.getD p.val 0 ∧
         t.cores[p].supply.tjMax = max s.cores[p].supply.tjMax (r.cores.getD p.val 0) ∧
         t.cores[p].supply.code = s.cores[p].supply.code ∧ t.cores[p].mode = s.cores[p].mode) ∧
       (0 < r.outlet - r.inlet →
         t.power.flow = s.power.watts * 24000000 / (1030 * 3900 * (r.outlet - r.inlet).toNat)) ∧
       (t.power.alarm = true ↔ 4 * (s.settings.coolant : Int) < r.inlet ∨ t.power.flow < 2000) ∧ t.power.good = s.power.good) ∧
   (∀ (s : State) (r : TempReadings) (x : Int), x ∈ r.optical ++ r.converters → 412 ≤ x →
     ∃ t, exec (.temperatureSample r) s = .next t ∧ t.power.good = false ∧ t.power.packageTrip = true) ∧
   (∀ (s : State) (x : TripSensor) (reading : Int), reading < 412 → exec (.junctionTrip x reading) s = .next s) ∧
   (∀ (s : State) (d : Fin 8) (reading : Int) (ds : List (Fin 8)), 412 ≤ reading →
     ds = d :: ((s.power.trips.filter fun t => decide (s.now < t.2 + 2000000000)).map fun t => t.1) →
     (ds.dedup.length < 3 → ∃ t, exec (.junctionTrip (.stack d) reading) s = .next t ∧
       (∀ p : CoreNo, (dieOf p ≠ d → t.cores[p] = s.cores[p]) ∧
         (dieOf p = d → s.cores[p].fault = none → s.cores[p].mode ≠ .fusedOff → s.cores[p].mode ≠ .retired →
           t.cores[p] = { s.cores[p] with
             fault := some s.now, cause := some .regulator, supply := { s.cores[p].supply with on := false } })) ∧
       t.power.trips.head? = some (d, s.now) ∧ t.power.good = s.power.good) ∧
     (3 ≤ ds.dedup.length → ∃ t, exec (.junctionTrip (.stack d) reading) s = .next t ∧ t.power.good = false ∧
       t.power.packageTrip = true)) ∧
   (∀ (s : State) (p : CoreNo) (reading : Int) (ds : List (Fin 8)), 412 ≤ reading →
     ds = dieOf p :: ((s.power.trips.filter fun t => decide (s.now < t.2 + 2000000000)).map fun t => t.1) →
     (ds.dedup.length < 3 → s.cores[p].fault = none → s.cores[p].mode ≠ .fusedOff → s.cores[p].mode ≠ .retired →
       ∃ t, exec (.junctionTrip (.core p) reading) s = .next t ∧ (∀ q : CoreNo, q ≠ p → t.cores[q] = s.cores[q]) ∧
         t.cores[p] = { s.cores[p] with
           fault := some s.now, cause := some .regulator, supply := { s.cores[p].supply with on := false } } ∧
         t.power.trips.head? = some (dieOf p, s.now) ∧ t.power.good = s.power.good) ∧
     (3 ≤ ds.dedup.length → ∃ t, exec (.junctionTrip (.core p) reading) s = .next t ∧ t.power.good = false ∧
       t.power.packageTrip = true)))

/-! ## Fabric links -/

/-- R237, R247, R352, Table 11.7: signal on a lane that has none or was lost sets it to train; training goes on from Down to
Hello while six or more lanes have signal. With a peer that is placed
and shares a revision Hello goes to Key under a fresh session nonce when the pairing holds, and else to Unpaired; no
shared revision is counted. Key goes to Verify with the direction keys of both nonces once the peer's confirmation verifies.
R229, R237, R241: Verify goes to Up when the authenticated hello equals the clear one and 16 latencies are measured, and not
before: the receive delay is the worst latency and 16 cycles, and a port that has joined a plan before rejoins it with the same peer and a delay that
fits, or is counted. A hello that differs retrains the port, is counted, and is logged. A VERIFY_DONE
that names another hello or other latencies than those gathered changes nothing (the model's choice, log entry 9). -/
def Obligations.TrainingReachesUp : Prop :=
  (∀ (s : State) (p : FabricPort) (lanes : BitVec 8),
     (∃ t, exec (.signalDetected p lanes) s = .next t ∧ t = { s with fab := s.fab.set p t.fab[p] } ∧
       t.fab[p].sig = s.fab[p].sig ||| lanes ∧
       (∀ l : LaneNo,
         (lanes.getLsbD l.val = true → s.fab[p].lanes[l] = .noSignal ∨ s.fab[p].lanes[l] = .lost →
           t.fab[p].lanes[l] = .training ∧ t.fab[p].cleanSince[l] = s.now) ∧
         (lanes.getLsbD l.val = false ∨ (s.fab[p].lanes[l] ≠ .noSignal ∧ s.fab[p].lanes[l] ≠ .lost) →
           t.fab[p].lanes[l] = s.fab[p].lanes[l] ∧ t.fab[p].cleanSince[l] = s.fab[p].cleanSince[l])) ∧
       (s.fab[p].state = .down → 6 ≤ lanesIn (s.fab[p].sig ||| lanes) →
         t.fab[p].state = .acquire ∧ t.fab[p].since = s.now ∧ t.fab[p].trainFrames = 0) ∧
       (s.fab[p].state ≠ .down ∨ lanesIn (s.fab[p].sig ||| lanes) < 6 →
         t.fab[p].state = s.fab[p].state ∧ t.fab[p].since = s.fab[p].since)) ∧
     (s.fab[p].state = .acquire → 6 ≤ lanesIn (lanes &&& s.fab[p].sig) → exec (.acquireDone p lanes) s = .next { s with
       fab := s.fab.set p { s.fab[p] with state := .align, since := s.now, stored := true } }) ∧
     (s.fab[p].state = .align → 6 ≤ lanesIn (lanes &&& s.fab[p].sig) → exec (.alignDone p lanes) s = .next { s with
       fab := s.fab.set p { s.fab[p] with state := .hello, since := s.now, request := lanes &&& s.fab[p].sig } }) ∧
     (lanesIn (lanes &&& s.fab[p].sig) < 6 ∨ s.fab[p].state ≠ .acquire → exec (.acquireDone p lanes) s = .next s) ∧
     (lanesIn (lanes &&& s.fab[p].sig) < 6 ∨ s.fab[p].state ≠ .align → exec (.alignDone p lanes) s = .next s) ∧
     (s.fab[p].state ≠ .hello ∨ s.fab[p].peer = none → exec (.helloAgreed p) s = .next s) ∧
     (∀ h, s.fab[p].state = .hello → s.fab[p].peer = some h →
       (revisionsMeet h = false → exec (.helloAgreed p) s = .next { s with
         fab := s.fab.set p { s.fab[p] with ctrs := s.fab[p].ctrs.set 10 ((s.fab[p].ctrs[10] : Ctr).add 1) } }) ∧
       (revisionsMeet h = true → h.unplaced = true → exec (.helloAgreed p) s = .next s) ∧
       (revisionsMeet h = true → h.unplaced = false → s.trust.entropyFailed = false → s.paired p = true →
         exec (.helloAgreed p) s = .next { s with
           trust := { s.trust with draws := s.trust.draws + 1 }
           fab := s.fab.set p { s.fab[p] with
             state := .key, since := s.now, revision := if h.highRev.toNat < 2 then h.highRev else 2
             nonce := Config.entropy s.trust.draws 256, txKey := none, rxKey := none } }) ∧
       (revisionsMeet h = true → h.unplaced = false → s.paired p = false → exec (.helloAgreed p) s = .next { s with
         fab := s.fab.set p { s.fab[p] with
           state := .unpaired, since := s.now, revision := if h.highRev.toNat < 2 then h.highRev else 2 } })) ∧
     (∀ h k, s.fab[p].state = .key → s.directionKeys p h.nonce = some k →
       (h.confirmation = confirmationOf k.2 h → ∃ t, exec (.keyConfirmed p h) s = .next t ∧ t = { s with
         fab := s.fab.set p { s.fab[p] with
           state := .verify, since := s.now, txKey := some k.1, rxKey := some k.2, counter := 0
           txActive := t.fab[p].txActive, rxActive := s.fab[p].request } } ∧
         ∀ q, s.fab[p].peer = some q → t.fab[p].txActive = q.lanes) ∧
       (h.confirmation ≠ confirmationOf k.2 h → exec (.keyConfirmed p h) s = .next s))) ∧
  (∀ (s : State) (p : FabricPort) (c h : Hello) (worst : Nat), s.fab[p].state = .verify → s.fab[p].peer = some c →
     s.fab[p].authHello = some h → worst = s.fab[p].latencies.foldl max 0 →
     (∀ h' ls, h' ≠ h ∨ ls ≠ s.fab[p].latencies → exec (.verifyDone p h' ls) s = .next s) ∧
     (helloFields c = helloFields h → s.fab[p].latencies.length < 16 → exec (.verifyDone p h s.fab[p].latencies) s = .next s) ∧
     (helloFields c = helloFields h → 16 ≤ s.fab[p].latencies.length → ∃ t, exec (.verifyDone p h s.fab[p].latencies) s = .next t ∧
       (∀ q : FabricPort, q ≠ p → t.fab[q] = s.fab[q]) ∧ t = { s with fab := t.fab } ∧ t.fab[p].state = .up ∧
       t.fab[p].since = s.now ∧ t.fab[p].peer = some h ∧ t.fab[p].latency = worst ∧ t.fab[p].rxDelay = worst + 16 ∧
       t.fab[p].anchor = (s.fab[p].anchor.map fun a => (a.1 - worst, a.2)) ∧ t.fab[p].owed = s.fab[p].rxActive ∧
       t.fab[p].txKey = s.fab[p].txKey ∧ t.fab[p].rxKey = s.fab[p].rxKey ∧
       (∀ l : LaneNo, s.fab[p].rxActive.getLsbD l.val = true → s.fab[p].sig.getLsbD l.val = true →
         t.fab[p].lanes[l] = .active) ∧
       (s.fab[p].joined = none → t.fab[p].rejoin = s.fab[p].rejoin ∧ t.fab[p].ctrs = s.fab[p].ctrs) ∧
       (∀ j, s.fab[p].joined = some j → j ≠ (h.fingerprint, h.port) → t.fab[p].rejoin = s.fab[p].rejoin ∧
         t.fab[p].ctrs = s.fab[p].ctrs.set 8 ((s.fab[p].ctrs[8] : Ctr).add 1)) ∧
       (s.fab[p].joined = some (h.fingerprint, h.port) → s.memberOf p = none → t.fab[p].rejoin = true)) ∧
     (helloFields c ≠ helloFields h → ∃ t, exec (.verifyDone p h s.fab[p].latencies) s = .next t ∧
       (t.fab[p].state = .acquire ∨ t.fab[p].state = .down) ∧ t.fab[p].txKey = none ∧ t.fab[p].rxKey = none ∧
       (t.fab[p].ctrs[7] = (s.fab[p].ctrs[7] : Ctr).add 1) ∧ (t.fab[p].ctrs[10] = (s.fab[p].ctrs[10] : Ctr).add 1) ∧
       (∀ q : FabricPort, q ≠ p → t.fab[q] = s.fab[q]) ∧ t = { s with fab := t.fab, log := t.log, ctrs := t.ctrs }))

/-- R236, R238, R239: a training frame brings the peer's hello and pairing offer while the port trains; a state that exceeds
its bound returns to Acquire with its keys and masks gone, but Key tries again with a fresh nonce; Hello stays while the two ends
share no revision; an Unpaired port sends and counts a clear hello, and goes on to Key once it is paired.
R228, R234: an Up port with fewer than six lanes in one direction, or with 16 authentication failures within 2^20 slot
frames, goes down and trains afresh: its keys, masks and plan are gone, the cause is counted, and no other port is
touched. Otherwise it stays Up. In Verify, too, 16 authentication failures retrain the port. -/
def Obligations.TrainingRetriesAndPortsGoDown : Prop :=
  (∀ (s : State) (p : FabricPort) (lane : LaneNo) (h : Hello) (o : PairingOffer),
     (s.fab[p].state ∈ [LinkState.acquire, .align, .hello, .key, .unpaired] → ∃ t, exec (.trainingFrame p lane h o) s = .next t ∧
       t.fab[p] = { s.fab[p] with
         peer := some h, offer := some o, helloAt := s.now + 1, heard := some h.txCycle
         sig := s.fab[p].sig ||| laneBit lane, lanes := t.fab[p].lanes, cleanSince := t.fab[p].cleanSince } ∧
       t.fab[p].lanes[lane] ≠ .noSignal ∧ t.fab[p].lanes[lane] ≠ .lost ∧ (∀ l : LaneNo, l ≠ lane → t.fab[p].lanes[l] = s.fab[p].lanes[l]) ∧
       t = { s with fab := s.fab.set p t.fab[p] }) ∧
     (s.fab[p].state ∉ [LinkState.acquire, .align, .hello, .key, .unpaired] →
       exec (.trainingFrame p lane h o) s = .next s) ∧
     (∀ b, s.trainBound p = some b →
       (s.now < s.fab[p].since + b ∨ s.fab[p].state = .key ∨
           (s.fab[p].state = .hello ∧ ∃ h, s.fab[p].peer = some h ∧ revisionsMeet h = false) →
         exec (.trainingTimeout p) s = .next s) ∧
       (s.fab[p].since + b ≤ s.now → s.fab[p].state ∈ [LinkState.acquire, .align, .verify] ∨
           (s.fab[p].state = .hello ∧ ∀ h, s.fab[p].peer = some h → revisionsMeet h = true) →
         ∃ t, exec (.trainingTimeout p) s = .next t ∧ t = { s with fab := s.fab.set p t.fab[p] } ∧
           (6 ≤ lanesIn s.fab[p].sig → t.fab[p].state = .acquire) ∧
           (lanesIn s.fab[p].sig < 6 → t.fab[p].state = .down) ∧ t.fab[p].stored = s.fab[p].stored ∧ t.fab[p].since = s.now ∧ t.fab[p].txKey = none ∧
           t.fab[p].rxKey = none ∧ t.fab[p].txActive = 0 ∧ t.fab[p].rxActive = 0 ∧ t.fab[p].ctrs = s.fab[p].ctrs)) ∧
     (s.fab[p].state = .key → s.trust.entropyFailed = false →
       (s.fab[p].since + 2 ^ 21 ≤ s.now → exec (.keyRetry p) s = .next { s with
         trust := { s.trust with draws := s.trust.draws + 1 }
         fab := s.fab.set p { s.fab[p] with
           since := s.now, nonce := Config.entropy s.trust.draws 256, txKey := none, rxKey := none } }) ∧
       (s.now < s.fab[p].since + 2 ^ 21 → exec (.keyRetry p) s = .next s)) ∧
     (s.fab[p].state ≠ .key → exec (.keyRetry p) s = .next s) ∧
     (s.fab[p].state ≠ .unpaired → exec (.unpairedHello p) s = .next s) ∧
     (s.fab[p].state = .unpaired →
       (s.paired p = false → ∃ t, exec (.unpairedHello p) s = .next t ∧ t.fab[p] = { s.fab[p] with
         ownHello := some (s.helloOf p 1), txTraining := s.trainingFrames p (s.helloOf p 1)
         ctrs := s.fab[p].ctrs.set 11 ((s.fab[p].ctrs[11] : Ctr).add 1) } ∧
         t = { s with fab := s.fab.set p t.fab[p], log := t.log, ctrs := t.ctrs }) ∧
       (s.paired p = true → s.trust.entropyFailed = false → exec (.unpairedHello p) s = .next { s with
         trust := { s.trust with draws := s.trust.draws + 1 }
         fab := s.fab.set p { s.fab[p] with
           state := .key, since := s.now, nonce := Config.entropy s.trust.draws 256, txKey := none, rxKey := none } }))) ∧
  (∀ (s : State) (p : FabricPort) (c : Instr) (k : Fin 13), s.fab[p].state = .up →
     ((c = .portDown p ∧ k = 5 ∧ (s.fab[p].goDown = true ∨ s.fab[p].short = true)) ∨
       (c = .authFailureRetrain p ∧ k = 6 ∧ 16 ≤ s.fab[p].recentFails.length) →
       ∃ t, exec c s = .next t ∧ (6 ≤ lanesIn s.fab[p].sig → t.fab[p].state = .acquire) ∧
         (lanesIn s.fab[p].sig < 6 → t.fab[p].state = .down) ∧ t.fab[p].txKey = none ∧ t.fab[p].rxKey = none ∧
         t.fab[p].txActive = 0 ∧ t.fab[p].rxActive = 0 ∧ t.fab[p].inPlan = false ∧ t.fab[p].joined = s.fab[p].joined ∧
         t.fab[p].ctrs = s.fab[p].ctrs.set k ((s.fab[p].ctrs[k] : Ctr).add 1) ∧
         (∀ q : FabricPort, q ≠ p → t.fab[q] = s.fab[q]) ∧
         t = { s with fab := t.fab, hall := t.hall, log := t.log, ctrs := t.ctrs }) ∧
     (s.fab[p].goDown = false → s.fab[p].short = false → exec (.portDown p) s = .next s) ∧
     (s.fab[p].recentFails.length < 16 → exec (.authFailureRetrain p) s = .next s)) ∧
  (∀ (s : State) (p : FabricPort),
     (s.fab[p].state ≠ .up → exec (.portDown p) s = .next s) ∧
     (s.fab[p].state ≠ .up → s.fab[p].state ≠ .verify → exec (.authFailureRetrain p) s = .next s) ∧
     (s.fab[p].state = .verify → 16 ≤ s.fab[p].recentFails.length → ∃ t, exec (.authFailureRetrain p) s = .next t ∧
       (6 ≤ lanesIn s.fab[p].sig → t.fab[p].state = .acquire) ∧ t.fab[p].txKey = none ∧ t.fab[p].rxKey = none ∧
       t.fab[p].ctrs = s.fab[p].ctrs.set 6 ((s.fab[p].ctrs[6] : Ctr).add 1) ∧
       t = { s with fab := s.fab.set p t.fab[p], log := t.log, ctrs := t.ctrs }))

/-- R224, R225, R232, R236: at a slot frame boundary an Up port sends one frame on each lane, with its counter and the masks
it uses, and the counter goes on by one; a request of the peer that differs from the active mask is announced with countdown 2, and the
frame with countdown 0 uses it. A port in Verify sends its frames too. A port in training before that sends one training frame with its hello on each lane
that has signal. No other port is touched. -/
def Obligations.BoundariesSendFrames : Prop :=
  ∀ (s : State) (p : FabricPort),
    (s.fab[p].state ∈ [LinkState.acquire, .align, .hello, .key] → ∃ t, exec (.slotFrameBoundary p) s = .next t ∧
      t.fab = s.fab.set p { s.fab[p] with
        ownHello := t.fab[p].ownHello, txTraining := t.fab[p].txTraining, trainFrames := s.fab[p].trainFrames + 1 } ∧
      t.fab[p].ownHello = some (s.helloOf p 1) ∧
      (∀ k, k ∈ t.fab[p].txTraining → s.fab[p].sig.getLsbD k.header.lane.val = true ∧ k.header.port.toNat = p.val ∧
        k.header.counter = BitVec.ofNat 64 s.fab[p].trainFrames ∧ k.header.active = 0 ∧ k.hello = s.helloOf p 1) ∧
      (∀ l : LaneNo, s.fab[p].sig.getLsbD l.val = true → ∃ k, k ∈ t.fab[p].txTraining ∧ k.header.lane = l) ∧
      t = { s with fab := t.fab, hall := t.hall }) ∧
    (s.fab[p].state = .down ∨ s.fab[p].state = .unpaired → ∃ t, exec (.slotFrameBoundary p) s = .next t ∧
      t = { s with hall := t.hall }) ∧
    (∀ k, s.fab[p].state = .verify → s.fab[p].txKey = some k → ∃ t, exec (.slotFrameBoundary p) s = .next t ∧
      t.fab[p].counter = s.fab[p].counter + 1 ∧ t.fab[p].txFrames.length = 8 ∧ t.fab[p].txActive = s.fab[p].txActive ∧
      (∀ x, x ∈ t.fab[p].txFrames → x.header.counter = s.fab[p].counter ∧ x.header.port.toNat = p.val) ∧
      (∀ q : FabricPort, q ≠ p → t.fab[q] = s.fab[q]) ∧ t = { s with fab := t.fab, hall := t.hall }) ∧
    (∀ k, s.fab[p].state = .up → s.fab[p].txKey = some k → ∃ t, exec (.slotFrameBoundary p) s = .next t ∧
      t.fab[p].counter = s.fab[p].counter + 1 ∧ t.fab[p].txFrames.length = 8 ∧ t.fab[p].state = .up ∧
      (∀ x, x ∈ t.fab[p].txFrames → x.header.counter = s.fab[p].counter ∧ x.header.port.toNat = p.val ∧
        x.header.active = t.fab[p].txActive ∧ x.units.length = 16) ∧
      (s.fab[p].countdown = 1 → t.fab[p].txActive = s.fab[p].announced ∧ t.fab[p].countdown = 0 ∧
        t.fab[p].ctrs = s.fab[p].ctrs.set 4 ((s.fab[p].ctrs[4] : Ctr).add 1)) ∧
      (s.fab[p].countdown ≠ 1 → t.fab[p].txActive = s.fab[p].txActive ∧ t.fab[p].ctrs = s.fab[p].ctrs) ∧
      (1 < s.fab[p].countdown → t.fab[p].countdown + 1 = s.fab[p].countdown) ∧
      (s.fab[p].countdown = 0 → s.fab[p].peerRequest ≠ 0 → s.fab[p].peerRequest ≠ s.fab[p].txActive →
        t.fab[p].announced = s.fab[p].peerRequest ∧ t.fab[p].countdown = 2) ∧
      (∀ q : FabricPort, q ≠ p → t.fab[q] = s.fab[q]) ∧ t = { s with fab := t.fab, hall := t.hall }) ∧
    (s.fab[p].state = .up → s.fab[p].countdown = 1 → ∃ t, exec (.activeMaskChange p) s = .next t ∧
      t.fab[p] = { s.fab[p] with
        txActive := s.fab[p].announced, countdown := 0, goDown := t.fab[p].goDown
        ctrs := s.fab[p].ctrs.set 4 ((s.fab[p].ctrs[4] : Ctr).add 1) } ∧ t = { s with fab := s.fab.set p t.fab[p] } ∧
      (lanesIn s.fab[p].announced < 6 → t.fab[p].goDown = true)) ∧
    (s.fab[p].countdown ≠ 1 ∨ s.fab[p].state ≠ .up → exec (.activeMaskChange p) s = .next s)

/-- R228, R229, R231, R232: an Up port opens each unit of a traffic frame under its receiving key; the slice of an active or
usable lane of the mask in force is delivered at the receive delay after the cycle in which the peer placed it, with its bytes
or bad, and bad when it comes after that; an accepted header gives the receive mask and the peer's request; corrected symbols,
uncorrectable codewords and authentication failures are counted.
R237: in Verify the management unit brings the authenticated hello, and each new hello that echoes one of this end's one
latency, up to 16; no slice is delivered.
R231, R232: a lane without signal, or with four uncorrectable codewords within 2^20 cycles, is lost and leaves the request
mask; once it has signal and has trained for 2^24 clean cycles it is usable and joins it again. A lane that keeps neither
condition stays. -/
def Obligations.TrafficAndLanes : Prop :=
  (∀ (s : State) (p : FabricPort) (lane : LaneNo) (r : LineRx) (k : LaneFrame),
     (s.fab[p].rxKey = none ∨ (s.fab[p].state ≠ .up ∧ s.fab[p].state ≠ .verify) →
       exec (.trafficFrame p ⟨lane, r, k⟩) s = .next s) ∧
     (∀ (key : BitVec 256) (good : Prop), s.fab[p].rxKey = some key →
       (good ↔ ∃ u, u ∈ unitsOfFrame k ∧ (openUnit key lane r k.header u.1 u.2).isSome = true) →
       s.fab[p].state = .up ∨ s.fab[p].state = .verify → ∃ t, exec (.trafficFrame p ⟨lane, r, k⟩) s = .next t ∧
       t = { s with fab := s.fab.set p t.fab[p] } ∧ t.fab[p].state = s.fab[p].state ∧
       (t.fab[p].ctrs[0] = (s.fab[p].ctrs[0] : Ctr).add (lineCorrected r)) ∧
       (t.fab[p].ctrs[1] = (s.fab[p].ctrs[1] : Ctr).add
         (lineUncorrectable r + ((unitsOfFrame k).filter fun u => falseCorrection key lane r k.header u).length)) ∧
       (t.fab[p].ctrs[2] = (s.fab[p].ctrs[2] : Ctr).add
         ((unitsOfFrame k).filter fun u => authFailed key lane r k.header u).length) ∧
       (s.fab[p].state = .verify → t.fab[p].rx = (s.fab[p].rx.filter fun y => decide (s.now < y.at_ + 64)) ∧
         ∀ tx, openUnit key lane r k.header 16 k.mgmt = some tx → t.fab[p].authHello = some (readHello tx) ∧
           (s.fab[p].heard ≠ some (readHello tx).txCycle → (readHello tx).echoed ≠ 0 → s.fab[p].latencies.length < 16 →
             t.fab[p].latencies = s.fab[p].latencies ++ [s.latencyOf (readHello tx)])) ∧
       (s.fab[p].state = .up →
         (∀ u x at_, k.units[u]? = some x → good → k.header.active.getLsbD lane.val = true →
           at_ = s.fab[p].placedAt s.now (some k.header) + 64 * u + s.fab[p].rxDelay →
           (s.fab[p].lanes[lane] = .active ∨ s.fab[p].lanes[lane] = .usable →
             ({ at_ := at_, mask := k.header.active, lane := lane, unit := u
                bytes := if s.now ≤ at_ then openUnit key lane r k.header u x else none } : SliceRx) ∈ t.fab[p].rx) ∧
           (s.fab[p].lanes[lane] ≠ .active → s.fab[p].lanes[lane] ≠ .usable →
             ({ at_ := at_, mask := k.header.active, lane := lane, unit := u, bytes := none } : SliceRx) ∈ t.fab[p].rx)) ∧
         (∀ u x at_, k.units[u]? = some x → ¬good → s.fab[p].rxActive.getLsbD lane.val = true →
           at_ = s.fab[p].placedAt s.now none + 64 * u + s.fab[p].rxDelay →
           ({ at_ := at_, mask := s.fab[p].rxActive, lane := lane, unit := u, bytes := none } : SliceRx) ∈ t.fab[p].rx) ∧
         ((good ∧ k.header.active.getLsbD lane.val = false) ∨ (¬good ∧ s.fab[p].rxActive.getLsbD lane.val = false) →
           t.fab[p].rx = s.fab[p].rx.filter fun y => decide (s.now < y.at_ + 64)) ∧
         (good → t.fab[p].rxActive = k.header.active ∧ t.fab[p].peerRequest = k.header.request) ∧
         (¬good → t.fab[p].rxActive = s.fab[p].rxActive ∧ t.fab[p].peerRequest = s.fab[p].peerRequest ∧
           t.fab[p].peer = s.fab[p].peer)))) ∧
  (∀ (s : State) (p : FabricPort) (lane : LaneNo),
     exec (.laneSignalLoss p lane) s = .next { s with
       fab := s.fab.set p { s.fab[p] with
         lanes := s.fab[p].lanes.set lane .noSignal, sig := s.fab[p].sig &&& ~~~(laneBit lane) } } ∧
     (s.fab[p].state = .up → s.fab[p].request.getLsbD lane.val = true →
       s.fab[p].lanes[lane] = .noSignal ∨ s.fab[p].lanes[lane] = .training ∨
         4 ≤ (s.recentUncorr s.fab[p].uncorr[lane]).length →
       ∃ t, exec (.laneLost p lane) s = .next t ∧
         (s.fab[p].lanes[lane] = .active ∨ s.fab[p].lanes[lane] = .usable → t.fab[p].lanes[lane] = .lost) ∧
         (s.fab[p].lanes[lane] = .noSignal ∨ s.fab[p].lanes[lane] = .training →
           t.fab[p].lanes[lane] = s.fab[p].lanes[lane]) ∧
         t.fab[p].request.getLsbD lane.val = false ∧
         (∀ l : LaneNo, l ≠ lane → t.fab[p].lanes[l] = s.fab[p].lanes[l] ∧
           t.fab[p].request.getLsbD l.val = s.fab[p].request.getLsbD l.val) ∧
         (t.fab[p].ctrs[3] = (s.fab[p].ctrs[3] : Ctr).add 1) ∧
         t = { s with fab := s.fab.set p t.fab[p], log := t.log, ctrs := t.ctrs }) ∧
     (s.fab[p].state ≠ .up ∨ s.fab[p].request.getLsbD lane.val = false ∨
         (s.fab[p].lanes[lane] ≠ .noSignal ∧ s.fab[p].lanes[lane] ≠ .training ∧
           (s.recentUncorr s.fab[p].uncorr[lane]).length < 4) →
       exec (.laneLost p lane) s = .next s) ∧
     (s.fab[p].state = .up → s.fab[p].lanes[lane] = .training → s.fab[p].sig.getLsbD lane.val = true →
       s.fab[p].cleanSince[lane] + 2 ^ 24 ≤ s.now → exec (.laneUsable p lane) s = .next { s with
         fab := s.fab.set p { s.fab[p] with
           lanes := s.fab[p].lanes.set lane .usable, request := s.fab[p].request ||| laneBit lane } }) ∧
     (s.fab[p].state ≠ .up ∨ s.fab[p].lanes[lane] ≠ .training ∨ s.fab[p].sig.getLsbD lane.val = false ∨
         s.now < s.fab[p].cleanSince[lane] + 2 ^ 24 → exec (.laneUsable p lane) s = .next s))

/-! ## Streams, plant ports and 1588 time -/

/-- R279, R284, Tables 13.1 and 20.16: a stream port without a record or link takes no frame; a frame that fails an acceptance rule is
counted by its cause alone; one that breaks its format is malformed; one for a fold that does not run, or that is in replay mode,
is in excess, and so is one beyond the packets of its window.
R281, R289, Table 13.2: a process frame gives the fold its 32 bytes of process fields, sampled for pen selection when
it arrives before the reserve; a GigE Vision leader that matches its record opens its block, one that does not is
counted, and a trailer is only accepted. None of them touches a core. -/
def Obligations.FramesAreTakenOrRefused : Prop :=
  (∀ (s : State) (p : StreamPort) (e : EthFrame) (c : Instr),
     c ∈ [Instr.imeskLineFrame p e, .imeskProcessFrame p e, .gevLeader p e, .gevPayload p e, .gevTrailer p e,
       .streamFrameInvalid p e] →
     (s.st[p].up = false ∨ s.st[p].cfg = none → exec c s = .next s) ∧
     (∀ f r, s.st[p].cfg = some (f, r) → s.st[p].up = true →
       (∀ k, r.cause e = some k → exec c s = .next { s with
         st := s.st.set p { s.st[p] with ctrs := s.st[p].ctrs.set k ((s.st[p].ctrs[k] : Ctr).add 1) } }) ∧
       (∀ k : Fin 14, r.cause e = none →
         (c = .streamFrameInvalid p e ∧ k = 11 ∧ (r.imesk = true → imeskOk r true e.payload = false) ∧
             (r.imesk = false → beAt e.payload 0 1 = 1 → imeskOk r false e.payload = false) ∧
             (r.imesk = false → beAt e.payload 0 1 ≠ 1 → gevOk e.payload = false)) ∨
           (c ≠ .streamFrameInvalid p e ∧ k = 9 ∧
             (s.folds[f].run ≠ .running ∨ s.folds[f].replay.on = true ∨ s.st[p].window = none)) →
         ∃ t, exec c s = .next t ∧ t = { s with st := s.st.set p t.st[p], log := t.log, ctrs := t.ctrs } ∧
           t.st[p] = { s.st[p] with
             discarded := s.st[p].discarded + 1
             ctrs := (s.st[p].ctrs.set 0 ((s.st[p].ctrs[0] : Ctr).add 1)).set k ((s.st[p].ctrs[k] : Ctr).add 1) }) ∧
       (c ≠ .streamFrameInvalid p e → r.cause e = none → s.folds[f].run = .running → s.folds[f].replay.on = false →
         s.st[p].window.isSome = true → r.maxPackets ≤ s.st[p].accepted → r.record = false →
         ∃ t, exec c s = .next t ∧ t = { s with st := s.st.set p t.st[p], log := t.log, ctrs := t.ctrs } ∧
           t.st[p] = { s.st[p] with
             accepted := s.st[p].accepted + 1, discarded := s.st[p].discarded + 1
             ctrs := (s.st[p].ctrs.set 0 ((s.st[p].ctrs[0] : Ctr).add 1)).set 9 ((s.st[p].ctrs[9] : Ctr).add 1) }))) ∧
  (∀ (s : State) (p : StreamPort) (f : FoldNo) (r : StreamRec) (e : EthFrame) (k : Nat), frameTaken s p f r e k →
     (beAt e.payload 0 1 = 1 → imeskOk r r.imesk e.payload = true → beAt e.payload 1 1 = 2 →
       ∃ t, exec (.imeskProcessFrame p e) s = .next t ∧ t.cores = s.cores ∧
         (r.record = false → t = { s with st := s.st.set p t.st[p] }) ∧
         t.st[p] = { s.st[p] with
           seq := t.st[p].seq, gaps := t.st[p].gaps, ctrs := s.st[p].ctrs.set 0 ((s.st[p].ctrs[0] : Ctr).add 1)
           accepted := s.st[p].accepted + 1, fields := some ((e.payload.drop 48).take 32)
           windowFields := some ((e.payload.drop 48).take 32)
           sampled := if s.rel < s.reserveAt then some ((e.payload.drop 48).take 32) else s.st[p].sampled }) ∧
     (r.imesk = false → gevOk e.payload = true → beAt e.payload 4 1 % 16 = 1 → r.record = false → beAt e.payload 0 1 ≠ 1 →
       (beAt e.payload 36 4 = r.width → beAt e.payload 40 4 = r.lines → beAt e.payload 32 4 = r.pixel.toNat →
         beAt e.payload 52 4 = 0 → exec (.gevLeader p e) s = .next { s with st := s.st.set p { s.st[p] with
           accepted := s.st[p].accepted + 1, block := some (BitVec.ofNat 64 (beAt e.payload 8 8), beAt e.payload 24 8)
           ctrs := s.st[p].ctrs.set 0 ((s.st[p].ctrs[0] : Ctr).add 1) } }) ∧
       (beAt e.payload 36 4 ≠ r.width ∨ beAt e.payload 40 4 ≠ r.lines ∨ beAt e.payload 32 4 ≠ r.pixel.toNat ∨
           beAt e.payload 52 4 ≠ 0 → ∃ t, exec (.gevLeader p e) s = .next t ∧
         t = { s with st := s.st.set p t.st[p], log := t.log, ctrs := t.ctrs } ∧ t.st[p] = { s.st[p] with
           block := none, accepted := s.st[p].accepted + 1, discarded := s.st[p].discarded + 1
           ctrs := (s.st[p].ctrs.set 0 ((s.st[p].ctrs[0] : Ctr).add 1)).set 13 ((s.st[p].ctrs[13] : Ctr).add 1) })) ∧
     (r.imesk = false → gevOk e.payload = true → beAt e.payload 4 1 % 16 = 2 → r.record = false → beAt e.payload 0 1 ≠ 1 →
       exec (.gevTrailer p e) s = .next { s with st := s.st.set p { s.st[p] with
         accepted := s.st[p].accepted + 1, ctrs := s.st[p].ctrs.set 0 ((s.st[p].ctrs[0] : Ctr).add 1) } }))

/-- R207, R282, R283, R286, R287: a byte range of a line, from an Imesk line frame or from the one line that a GigE Vision payload
packet touches, goes to the buffer of the tick into which its timestamp falls, at the row that its line number has from the
window's first line: its beats reach the buffer core's endpoint 48 cycles later, and no other core changes. A line of an earlier
tick is discarded as late, one of a later tick as early, one outside the rows of the buffer as a row error; a payload packet
without its leader is malformed. Every one of them counts as accepted in its window. A packet that touches several lines
writes nothing at once either, and a beat that has arrived lands its bytes, whose words lose their marks. -/
def Obligations.StreamLinesLand : Prop :=
  (∀ (s : State) (p : StreamPort) (f : FoldNo) (r : StreamRec) (e : EthFrame) (k : Nat) (q : CoreNo) (c : Instr)
    (line stamp off : Nat) (bs : List Byte),
    frameTaken s p f r e k → s.bufferCore r = some q → 0 < s.periodNs →
    (c = .imeskLineFrame p e ∧ r.imesk = true ∧ imeskOk r true e.payload = true ∧ beAt e.payload 1 1 = 1 ∧
        line = beAt e.payload 12 8 ∧ stamp = beAt e.payload 20 8 ∧ off = beAt e.payload 28 4 ∧ bs = e.payload.drop 48) ∨
      (c = .gevPayload p e ∧ r.imesk = false ∧ gevOk e.payload = true ∧ beAt e.payload 4 1 % 16 = 3 ∧ beAt e.payload 0 1 ≠ 1 ∧
        ∃ (id : Word64) (i at_ : Nat), s.st[p].block = some (id, at_) ∧ id = BitVec.ofNat 64 (beAt e.payload 8 8) ∧
          1 ≤ beAt e.payload 16 4 ∧ r.lines? ((beAt e.payload 16 4 - 1) * r.payload) (e.payload.drop 20) = [(i, off, bs)] ∧
          line = id.toNat * r.lines + i ∧ stamp = at_ + i * r.period / 1000) →
    (∀ (b : Int × Nat × Nat) (row : Nat), (stamp + r.offset) / s.periodNs = k →
      b = s.st[p].base.getD (r.baseFor s.periodNs line stamp k) → (line : Int) = b.1 + row → row < r.rowMax s.periodNs →
      ∃ t, exec c s = .next t ∧ (∀ l : CoreNo, l ≠ q → t.cores[l] = s.cores[l]) ∧
        t.cores[q] = { s.cores[q] with
          portBeats := s.cores[q].portBeats ++
            ((r.parts s.periodNs row off bs).flatMap fun y => beatParts (r.buffer s.periodNs k + y.1) y.2).map fun y =>
              { port := p, due := s.now + 48, off := y.1, bytes := y.2 } } ∧
        t.st[p].base = some b ∧ t.st[p].landed = (row, off, bs.length) :: s.st[p].landed ∧
        t.st[p].accepted = s.st[p].accepted + 1 ∧ t.st[p].discarded = s.st[p].discarded ∧
        (t.st[p].ctrs[0] = (s.st[p].ctrs[0] : Ctr).add 1) ∧ (∀ x : StreamPort, x ≠ p → t.st[x] = s.st[x]) ∧
        (r.record = false → t = { s with cores := t.cores, st := t.st, log := t.log, ctrs := t.ctrs })) ∧
    (∀ j : Fin 14, ((stamp + r.offset) / s.periodNs < k ∧ j = 7) ∨ (k < (stamp + r.offset) / s.periodNs ∧ j = 8) ∨
        ((stamp + r.offset) / s.periodNs = k ∧ j = 12 ∧ ∀ b : Int × Nat × Nat,
          b = s.st[p].base.getD (r.baseFor s.periodNs line stamp k) →
            (line : Int) < b.1 ∨ b.1 + (r.rowMax s.periodNs : Int) ≤ (line : Int)) →
      ∃ t, exec c s = .next t ∧ t.cores = s.cores ∧ t.st[p].discarded = s.st[p].discarded + 1 ∧
        t.st[p].landed = s.st[p].landed ∧ t.st[p].accepted = s.st[p].accepted + 1 ∧
        (t.st[p].ctrs[j] = (s.st[p].ctrs[j] : Ctr).add 1) ∧ (∀ x : StreamPort, x ≠ p → t.st[x] = s.st[x]) ∧
        (r.record = false → t = { s with st := s.st.set p t.st[p], log := t.log, ctrs := t.ctrs }))) ∧
  (∀ (s : State) (p : StreamPort) (f : FoldNo) (r : StreamRec) (e : EthFrame) (k : Nat), frameTaken s p f r e k →
    r.imesk = false → gevOk e.payload = true → beAt e.payload 4 1 % 16 = 3 → beAt e.payload 0 1 ≠ 1 →
    (∀ b, s.st[p].block = some b → b.1 = BitVec.ofNat 64 (beAt e.payload 8 8) → 1 ≤ beAt e.payload 16 4 →
      ∃ t, exec (.gevPayload p e) s = .next t ∧ t.st[p].accepted = s.st[p].accepted + 1 ∧ t.st[p].block = s.st[p].block ∧
        ∀ l : CoreNo, t.cores[l] = { s.cores[l] with portBeats := t.cores[l].portBeats }) ∧
    ((∀ b, s.st[p].block = some b → b.1 ≠ BitVec.ofNat 64 (beAt e.payload 8 8) ∨ beAt e.payload 16 4 = 0) →
      ∃ t, exec (.gevPayload p e) s = .next t ∧ t.cores = s.cores ∧ t.st[p].accepted = s.st[p].accepted + 1 ∧
        t.st[p].discarded = s.st[p].discarded + 1 ∧ (t.st[p].ctrs[11] = (s.st[p].ctrs[11] : Ctr).add 1))) ∧
  (∀ (s : State) (q l : CoreNo) (i : StreamPort) (b : PortBeat), b ∈ s.cores[q].portBeats → b.port = i → b.due ≤ s.now →
    (∀ x, x ∈ s.cores[q].portBeats → x ≠ b → x.port ≠ i) → s.cores[q].recvs = [] →
    (s.portBeat q l i).1.cores[q].pasture = s.cores[q].pasture.land s.now b.off b.bytes ∧
      (s.portBeat q l i).2 = 1 ∧ ∀ x : CoreNo, x ≠ q → (s.portBeat q l i).1.cores[x] = s.cores[x])

/-- R279, R293, R434, Table 19.9: a port answers who asks for its own address and no other; a stream port comes up only
once its fold has started, a plant port once the section enables it, and neither without a record; a link lost is down; with no
page the port that is not up runs chip-to-module. A plant frame that is not accepted is counted alone.
R14, R218, R220, R296, R298: telemetry leaves in its ticks from cycle 8,000 on, once on each open port named for it, with the
payload sampled in the last reserve, after the frames before it and only when it ends before the next instant; an export frame
takes the next bytes of a fold's record stream, at most 8,192, with their offset, on the first port that has room after telemetry;
a feed frame for a fold in replay mode gives it its bytes, from which whole records are taken, and any other is counted. -/
def Obligations.PlantPortsAndTelemetry : Prop :=
  ((∀ (s : State) (p : StreamPort) (f : FoldNo) (r : StreamRec) (v6 : Bool) (a : BitVec 128) (c : Instr),
     (c, v6) ∈ [(Instr.arpRequest (.st p) a, false), (.neighbourSolicitation (.st p) a, true)] →
     s.st[p].cfg = some (f, r) →
     (s.st[p].up = true → r.ipv6 = v6 → a = r.local_ → exec c s = .next { s with
       st := s.st.set p { s.st[p] with neighbourReplies := s.st[p].neighbourReplies + 1 } }) ∧
     (s.st[p].up = false ∨ r.ipv6 ≠ v6 ∨ a ≠ r.local_ → exec c s = .next s)) ∧
   (∀ (s : State) (p : StreamPort) (a : BitVec 128) (c : Instr), c ∈ [Instr.arpRequest (.st p) a, .neighbourSolicitation (.st p) a] →
     s.st[p].cfg = none → exec c s = .next s) ∧
   (∀ (s : State) (p : PlantPort) (a : BitVec 128) (m : EthMode) (c : Instr),
     c ∈ [Instr.arpRequest (.pl p) a, .neighbourSolicitation (.pl p) a, .ethernetLinkUp (.pl p) m] →
     s.plantRec p = none → exec c s = .next s) ∧
   (∀ (s : State) (p : PlantPort) (r : PlantRec) (v6 : Bool) (a : BitVec 128) (c : Instr),
     (c, v6) ∈ [(Instr.arpRequest (.pl p) a, false), (.neighbourSolicitation (.pl p) a, true)] → s.plantRec p = some r →
     (s.pl[p].up = true → r.ipv6 = v6 → a = r.local_ → exec c s = .next { s with
       pl := s.pl.set p { s.pl[p] with neighbourReplies := s.pl[p].neighbourReplies + 1 } }) ∧
     (s.pl[p].up = false ∨ r.ipv6 ≠ v6 ∨ a ≠ r.local_ → exec c s = .next s)) ∧
   (∀ (s : State) (p : StreamPort) (m : EthMode),
     (s.st[p].enabled = true → s.st[p].cfg.isSome = true → exec (.ethernetLinkUp (.st p) m) s = .next { s with
       st := s.st.set p { s.st[p] with up := true, mode := m } }) ∧
     (s.st[p].enabled = false ∨ s.st[p].cfg = none → exec (.ethernetLinkUp (.st p) m) s = .next s) ∧
     exec (.ethernetLinkLoss (.st p)) s = .next { s with st := s.st.set p { s.st[p] with up := false } } ∧
     (s.st[p].up = false → exec (.autonegTimeout (.st p)) s = .next { s with st := s.st.set p { s.st[p] with mode := .aui } }) ∧
     (s.st[p].up = true → exec (.autonegTimeout (.st p)) s = .next s)) ∧
   (∀ (s : State) (p : PlantPort) (m : EthMode),
     (∀ r, s.plantRec p = some r → (r.enabled = true → exec (.ethernetLinkUp (.pl p) m) s = .next { s with
         pl := s.pl.set p { s.pl[p] with up := true, mode := m } }) ∧
       (r.enabled = false → exec (.ethernetLinkUp (.pl p) m) s = .next s)) ∧
     exec (.ethernetLinkLoss (.pl p)) s = .next { s with pl := s.pl.set p { s.pl[p] with up := false } } ∧
     (s.pl[p].up = false → exec (.autonegTimeout (.pl p)) s = .next { s with pl := s.pl.set p { s.pl[p] with mode := .aui } }) ∧
     (s.pl[p].up = true → exec (.autonegTimeout (.pl p)) s = .next s)) ∧
   (∀ (s : State) (p : PlantPort) (e : EthFrame) (c : Instr), c = .plantFrameInvalid p e ∨ c = .replayFeedFrame p e →
     (s.pl[p].up = false → exec c s = .next s) ∧
     (∀ k, s.pl[p].up = true → s.plantCause p e = some k → exec c s = .next { s with
       pl := s.pl.set p { s.pl[p] with ctrs := s.pl[p].ctrs.set k ((s.pl[p].ctrs[k] : Ctr).add 1) } }))) ∧
  ((∀ (s : State) (m : ModuleSection), s.sec? = some m →
     (s.rel < 8000 ∨ m.telemetryEvery = 0 ∨ s.telemetry = [] → exec .telemetrySend s = .next s) ∧
     (0 < m.telemetryEvery → s.tick.number.toNat % m.telemetryEvery ≠ 0 → exec .telemetrySend s = .next s) ∧
     (8000 ≤ s.rel → 0 < m.telemetryEvery → s.tick.number.toNat % m.telemetryEvery = 0 → s.telemetry ≠ [] →
       ∃ t, exec .telemetrySend s = .next t ∧ t = { s with pl := t.pl } ∧ ∀ p : PlantPort,
         (m.telemetryPorts.getLsbD p.val = true → s.plantOpen p = true → (∀ k, k ∈ s.pl[p].sent → k.kind ≠ 2) →
           s.rel + s.plantCycles p s.telemetry.length 0 ≤ s.period →
           (∀ k, k ∈ s.pl[p].sent → k.startAt + s.plantCycles p k.payload.length k.marks.length ≤ s.rel) →
           ∃ k : PlantFrame, k.kind = 2 ∧ k.payload = s.telemetry ∧ k.number = s.pl[p].numTelemetry ∧ k.hallModule = s.hallNo ∧
             k.startAt = s.rel ∧
             t.pl[p] = { s.pl[p] with sent := s.pl[p].sent ++ [k], numTelemetry := s.pl[p].numTelemetry + 1 }) ∧
         (m.telemetryPorts.getLsbD p.val = false ∨ s.plantOpen p = false ∨ (∃ k, k ∈ s.pl[p].sent ∧ k.kind = 2) ∨
           s.period < s.rel + s.plantCycles p s.telemetry.length 0 → t.pl[p] = s.pl[p]))) ∧
   (∀ s : State, s.sec? = none → exec .telemetrySend s = .next s) ∧
   (∀ (s : State) (f : FoldNo),
     (s.rel < 8000 ∨ s.folds[f].replay.out = [] ∨ s.folds[f].allot = none → exec (.replayExportFrame f) s = .next s) ∧
     (∀ a bs, s.folds[f].allot = some a → bs = s.folds[f].replay.out.take 8192 → bs ≠ [] →
       (∀ p : PlantPort, (s.plantOpen p && s.plantFits p bs.length && !s.telemetryWaits p) = true →
         (∀ q : PlantPort, q < p → (s.plantOpen q && s.plantFits q bs.length && !s.telemetryWaits q) = false) →
         ∃ t, exec (.replayExportFrame f) s = .next t ∧ ∃ k : PlantFrame, k.kind = 3 ∧ k.tag = a.tag ∧ k.payload = bs ∧
           k.offset = BitVec.ofNat 64 s.folds[f].replay.outAt ∧ k.startAt = s.rel ∧ t = { s with
             pl := s.pl.set p { s.pl[p] with sent := s.pl[p].sent ++ [k], numExport := s.pl[p].numExport + 1 }
             folds := s.folds.set f { s.folds[f] with replay := { s.folds[f].replay with
               out := s.folds[f].replay.out.drop bs.length, outAt := s.folds[f].replay.outAt + bs.length } } }) ∧
       ((∀ p : PlantPort, (s.plantOpen p && s.plantFits p bs.length && !s.telemetryWaits p) = false) →
         exec (.replayExportFrame f) s = .next s))) ∧
   (∀ (s : State) (p : PlantPort) (e : EthFrame), s.pl[p].up = true → s.plantCause p e = none →
     (s.foldByTag (BitVec.ofNat 16 (beAt e.payload 2 2)) = none ∨ beAt e.payload 1 1 ≠ 4 ∨
         (∃ f, s.foldByTag (BitVec.ofNat 16 (beAt e.payload 2 2)) = some f ∧ s.folds[f].replay.on = false) →
       exec (.replayFeedFrame p e) s = .next { s with
         pl := s.pl.set p { s.pl[p] with ctrs := s.pl[p].ctrs.set 2 ((s.pl[p].ctrs[2] : Ctr).add 1) } }) ∧
     (exec (.plantFrameInvalid p e) s = .next s) ∧
     (∀ f q, s.foldByTag (BitVec.ofNat 16 (beAt e.payload 2 2)) = some f → s.folds[f].replay.on = true → beAt e.payload 1 1 = 4 →
       q = s.folds[f].replay.feedBytes (beAt e.payload 24 8) (e.payload.drop 32) →
       ∃ t, exec (.replayFeedFrame p e) s = .next t ∧
         t.folds[f].replay = (q.1.takeRecords s.tick.number.toNat).1 ∧ (∀ g : FoldNo, g ≠ f → t.folds[g] = s.folds[g]) ∧
         t = { s with folds := t.folds, pl := t.pl })))

/-- R19, R292: a bellwether takes the better transmitter of its domain; from the selected one a one-step Sync gives the
time at once, a two-step one with its Follow_Up; half the sum of both ways is the path delay; four seconds without a Sync
lose the time source; a pulse is measured against the nearest second. Other messages, other domains and other transmitters
change nothing. -/
def Obligations.PtpGivesTheTime : Prop :=
  ∀ (s : State) (domain : BitVec 8) (seq : BitVec 16) (source : BitVec 64) (origin rx : Nat) (d : AnnounceData),
    exec (.ptpOtherMessage domain) s = .next s ∧
    (s.ptpHears domain = false ∨ s.ptpFrom source = false →
      (∀ two, exec (.ptpSync domain seq source two origin rx) s = .next s) ∧
      exec (.ptpFollowUp domain seq source origin) s = .next s ∧ exec (.ptpDelayResp domain seq source rx) s = .next s) ∧
    (s.ptpHears domain = false → exec (.ptpAnnounce domain d) s = .next s) ∧
    (s.ptp.pending = none → exec (.ptpFollowUp domain seq source origin) s = .next s) ∧
    (s.ptp.delayReq = none ∨ s.ptp.time = none → exec (.ptpDelayResp domain seq source rx) s = .next s) ∧
    (s.ptpHears domain = true →
      (s.ptp.best = none → exec (.ptpAnnounce domain d) s = .next { s with ptp := { s.ptp with best := some d } }) ∧
      (∀ b, s.ptp.best = some b → b.identity = d.identity →
        exec (.ptpAnnounce domain d) s = .next { s with ptp := { s.ptp with best := some d } }) ∧
      (∀ b, s.ptp.best = some b → b.identity ≠ d.identity →
        (before (announceKey d) (announceKey b) = true → exec (.ptpAnnounce domain d) s = .next { s with
          ptp := { s.ptp with best := some d, pending := none, delayReq := none } }) ∧
        (before (announceKey d) (announceKey b) = false → exec (.ptpAnnounce domain d) s = .next s)) ∧
      (s.ptpFrom source = true →
        exec (.ptpSync domain seq source false origin rx) s = .next { s with
          ptp := { s.ptp with syncAt := some s.now, lost := false, pending := none, time := some (origin, rx) } } ∧
        exec (.ptpSync domain seq source true origin rx) s = .next { s with
          ptp := { s.ptp with syncAt := some s.now, lost := false, pending := some (seq, source, rx) } } ∧
        (s.ptp.pending = some (seq, source, rx) → exec (.ptpFollowUp domain seq source origin) s = .next { s with
          ptp := { s.ptp with pending := none, time := some (origin, rx) } }) ∧
        (∀ sent o x, s.ptp.delayReq = some (seq, sent) → s.ptp.time = some (o, x) →
          exec (.ptpDelayResp domain seq source rx) s = .next { s with ptp := { s.ptp with
            delayReq := none, delay := (2 * ((rx : Int) - o) - ((sent : Int) - x)) / 4 } }))) ∧
    (∀ m, s.sec? = some m → m.bellwether = true → s.power.good = true → s.ptp.best.isSome = true →
      exec .ptpDelayReqSend s = .next { s with
        ptp := { s.ptp with delayReq := some (s.ptp.seq, s.now), seq := s.ptp.seq + 1 } }) ∧
    (s.sec? = none ∨ (∃ m, s.sec? = some m ∧ m.bellwether = false) ∨ s.power.good = false ∨ s.ptp.best = none →
      exec .ptpDelayReqSend s = .next s) ∧
    (s.isBellwether = true → s.ptp.lost = false → s.ptp.syncAt.getD s.power.goodAt + 8000000000 ≤ s.now →
      ∃ t, exec .timeSourceLoss s = .next t ∧
        t = { s with ptp := { s.ptp with lost := true }, log := t.log, ctrs := t.ctrs } ∧
        (t.ctrs[6] = (s.ctrs[6] : Ctr).add 1)) ∧
    (s.isBellwether = false ∨ s.ptp.lost = true ∨ s.now < s.ptp.syncAt.getD s.power.goodAt + 8000000000 →
      exec .timeSourceLoss s = .next s) ∧
    (s.ptp.time = none → exec .ppsInEdge s = .next { s with ptp := { s.ptp with pps := none } }) ∧
    (∀ x, s.ptp.time2 s.now = some x → ∃ (t : State) (r : Int), exec .ppsInEdge s = .next t ∧
      t = { s with ptp := { s.ptp with pps := some r } } ∧ -500000000 ≤ r ∧ r < 500000000 ∧
      (x / 2 - r) % 1000000000 = 0)

/-! ## Presence, trust and the entropy source -/

/-- R345 to R349, Table 15.3: the second channel of the bridle pressed within 50 ms of the first makes a press valid. It
opens a window of 120 s while the loop is open, TACK_LOCK off, its fuse whole, no discrepancy latched and the module
branded; otherwise it is refused and counted. A press by one channel alone opens nothing, and neither does a press while
power is not good.
R346 to R351: a press or a release of one channel that waits 55,000 µs for the other one is a discrepancy, which latches and
closes the window; so do a closure of the seal loop, whose
openings are counted, and TACK_LOCK fitted, which blows its fuse and ends the session; after 120 s a window closes by
itself. Both channels released clear a discrepancy.
R351: a presence notice from a bellwether of the flock opens the window of a module that may open one; a close notice
closes a window that a notice opened, and no other.
R341, R359, Table 20.7: a failure of the entropy source is counted and stops every draw; when it recovers, a session
that waited opens under a number of its own, never zero, and an attestation that waited is answered; a request that has waited for its
second is answered busy, and none before. -/
def Obligations.PresenceAndEntropy : Prop :=
  (∀ (s : State) (ch other : Chan) (t1 stamp : Nat), other ≠ ch →
     (s.power.good = false → ∀ down, exec (.bridleChangeConfirmed ch down stamp) s = .next s) ∧
     (s.power.good = true → s.trust.pres.press = some (other, t1) → s.trust.pres.pressed = false → stamp ≤ t1 + 50000 →
       ∃ t, exec (.bridleChangeConfirmed ch true stamp) s = .next t ∧ t.trust.pres.pressed = true ∧
         t.trust.pres.level ch = true ∧ t.tick = s.tick ∧
         (s.pressBar = none → t.trust.pres.window = some (s.micros + 120000000) ∧ t.trust.pres.byNotice = false ∧
           t.trust.bound = true ∧ t.trust.pres.windows = s.trust.pres.windows + (if s.trust.pres.window = none then 1 else 0)) ∧
         (∀ k, s.pressBar = some k → t.trust.pres.window = s.trust.pres.window ∧
           (t.ctrs[8] = (s.ctrs[8] : Ctr).add 1) ∧ t = { s with trust := t.trust, log := t.log, ctrs := t.ctrs })) ∧
     (s.power.good = true → s.trust.pres.press = none → s.trust.pres.level other = false →
       ∃ t, exec (.bridleChangeConfirmed ch true stamp) s = .next t ∧ t.trust.pres.press = some (ch, stamp) ∧
         t.trust.pres.window = s.trust.pres.window ∧ t = { s with trust := { s.trust with pres := t.trust.pres } })) ∧
  (∀ s : State,
     (∀ (ch : Chan) (t1 : Nat), s.trust.pres.press = some (ch, t1) →
       ((s.trust.pres.pressed = false ∧ s.trust.pres.level ch = true ∧ t1 + 55000 ≤ s.micros) ∨
           (s.trust.pres.pressed = true ∧ ∃ d u, s.trust.pres.released = some (d, u) ∧ u + 55000 ≤ s.micros) →
         ∃ t, exec .discrepancyTimeout s = .next t ∧ t.trust.pres.discrepancy = true ∧ t.trust.pres.window = none ∧
           t.trust.pres.press = none ∧ t.trust.pres.fuse = s.trust.pres.fuse) ∧
       ((s.trust.pres.pressed = false ∧ (s.trust.pres.level ch = false ∨ s.micros < t1 + 55000)) ∨
           (s.trust.pres.pressed = true ∧ ∀ d u, s.trust.pres.released = some (d, u) → s.micros < u + 55000) →
         exec .discrepancyTimeout s = .next s)) ∧
     (s.trust.pres.press = none → exec .discrepancyTimeout s = .next s) ∧
     (∀ stamp, s.power.good = true →
       (∃ t, exec (.sealLoopChange false stamp) s = .next t ∧ t.trust.pres.sealOpen = false ∧ t.trust.pres.window = none ∧
         t.trust.pres.openings = s.trust.pres.openings) ∧
       (∃ t, exec (.sealLoopChange true stamp) s = .next t ∧ t.trust.pres.sealOpen = true ∧
         t.trust.pres.window = s.trust.pres.window ∧ t.trust.pres.openings = s.trust.pres.openings +
           (if s.trust.pres.sealOpen = false ∧ s.trust.life = .branded then 1 else 0) ∧
         t = { s with trust := { s.trust with pres := t.trust.pres }, log := t.log, ctrs := t.ctrs })) ∧
     (s.power.good = true → ∃ t, exec (.tackLockConfirmed true) s = .next t ∧ t.trust.pres.tackLock = true ∧
       t.trust.pres.fuse = true ∧ t.trust.pres.window = none ∧ t.trust.sess.num = none ∧ t.trust.sess.busy = none) ∧
     (s.power.good = true → exec (.tackLockConfirmed false) s = .next { s with
       trust := { s.trust with pres := { s.trust.pres with tackLock := false } } }) ∧
     (s.power.good = false → ∀ x stamp, exec (.sealLoopChange x stamp) s = .next s ∧ exec (.tackLockConfirmed x) s = .next s) ∧
     (∀ w, s.trust.pres.window = some w →
       (w ≤ s.micros → ∃ t, exec .windowExpiry s = .next t ∧ t.trust.pres.window = none ∧
         t = { s with trust := { s.trust with pres := t.trust.pres }, log := t.log, ctrs := t.ctrs }) ∧
       (s.micros < w → exec .windowExpiry s = .next s)) ∧
     (s.trust.pres.window = none → exec .windowExpiry s = .next s) ∧
     (∀ ch stamp, s.power.good = true → s.trust.pres.discrepancy = true → (∀ c, c ≠ ch → s.trust.pres.level c = false) →
       ∃ t, exec (.bridleChangeConfirmed ch false stamp) s = .next t ∧ t.trust.pres.discrepancy = false ∧
         t.trust.pres.window = s.trust.pres.window)) ∧
  (∀ (s : State) (p : FabricPort) (m : MailMsg), m.dstModule = s.hallNo → m.dstTag = 0xFFFF → m.srcTag = 0xFFFF →
     (s.fromBellwether p = false → exec (.presenceNotice p m) s = .next s ∧ exec (.presenceCloseNotice p m) s = .next s) ∧
     (s.fromBellwether p = true →
       (s.pressBar ≠ none → exec (.presenceNotice p m) s = .next s) ∧
       (s.pressBar = none → ∃ t, exec (.presenceNotice p m) s = .next t ∧
         t.trust.pres.window = some (s.micros + 120000000) ∧
         (s.trust.pres.window = none → t.trust.pres.byNotice = true ∧ t.trust.pres.windows = s.trust.pres.windows + 1) ∧
         t = { s with trust := { s.trust with pres := t.trust.pres }, hall := t.hall, log := t.log, ctrs := t.ctrs }) ∧
       (s.trust.pres.byNotice = false → exec (.presenceCloseNotice p m) s = .next s) ∧
       (s.trust.pres.byNotice = true → ∃ t, exec (.presenceCloseNotice p m) s = .next t ∧ t.trust.pres.window = none ∧
         t = { s with trust := { s.trust with pres := t.trust.pres }, hall := t.hall, log := t.log, ctrs := t.ctrs }))) ∧
  (∀ s : State,
     (∃ t, exec .entropyHealthFailure s = .next t ∧
       t = { s with trust := { s.trust with entropyFailed := true }, log := t.log, ctrs := t.ctrs } ∧
       (t.ctrs[10] = (s.ctrs[10] : Ctr).add 1)) ∧
     (s.trust.entropyFailed = false → exec .entropyRecovered s = .next s) ∧
     (s.trust.entropyFailed = true → ∃ t, exec .entropyRecovered s = .next t ∧ t.trust.entropyFailed = false ∧
       t.trust.sess.waiting = none) ∧
     (∀ (r : MaintReq) (at_ : Nat), s.trust.entropyFailed = true → bootSettled s → s.trust.sess.waiting = some (r, at_) →
       r.op = 0x10 → ∃ (t : State) (bs : List Byte), exec .entropyRecovered s = .next t ∧ t.trust.sess.waiting = none ∧
         t.trust.draws = s.trust.draws + 1 ∧ t.trust.sess.sent = s.trust.sess.sent ++ [answerTo r 0 r.session bs] ∧
         bs.take (s.attestBytes r.body).length = s.attestBytes r.body) ∧
     (s.trust.entropyFailed = true → bootSettled s → s.trust.sess.waiting = none → exec .entropyRecovered s = .next { s with
       trust := { s.trust with entropyFailed := false } }) ∧
     (∀ (r : MaintReq) (at_ : Nat), s.trust.entropyFailed = true → bootSettled s → s.trust.sess.waiting = some (r, at_) →
       r.op ≠ 0x10 → s.windowStatus = 0 → ∃ (t : State) (n : BitVec 32), exec .entropyRecovered s = .next t ∧ n ≠ 0 ∧
         t.trust.sess.num = some n ∧ t.trust.sess.waiting = none ∧ t.trust.draws = s.trust.draws + 1 ∧
         t.trust.sess.sent.getLast? = some (answerTo r 0 n [])) ∧
     (s.trust.sess.waiting = none → exec .entropyDrawTimeout s = .next s) ∧
     (∀ (r : MaintReq) (at_ : Nat), s.trust.sess.waiting = some (r, at_) →
       (at_ + 2000000000 ≤ s.now → ∃ t, exec .entropyDrawTimeout s = .next t ∧
         answered { s with trust := { s.trust with sess := { s.trust.sess with waiting := none } } } t r 5 r.session []) ∧
       (s.now < at_ + 2000000000 → exec .entropyDrawTimeout s = .next s)))

/-! ## Tack record, SSDs, loads and shares -/

/-- R318, R319, R344: a commit writes the oldest record requested into the region that does not hold the record in force, which
it replaces, with its authentication code; the other region keeps what it holds, and a full region is erased first. With no request nothing changes.
R337, R344, R435, R436: an SSD that is removed, loses its link or does not answer is lost: absent, its step bit cleared
by a commit. One with this module's fingerprint is in step at once when the record says so, else it is resynchronised and then in
step by a commit; one without it is left alone. -/
def Obligations.CommitsAndSsds : Prop :=
  (∀ s : State, (s.store.commits = [] → exec .tackRecordCommit s = .next s) ∧
     (∀ r rest, s.store.commits = r :: rest → ∃ t, exec .tackRecordCommit s = .next t ∧ t = { s with store := { s.store with
         record := some r, recordCode := s.recordCodeOf r, commits := rest, inY := t.store.inY, usedX := t.store.usedX, usedY := t.store.usedY } } ∧
       (s.store.record = none → t.store.inY = false) ∧ (s.store.record.isSome = true → t.store.inY = !s.store.inY) ∧
       (t.store.inY = true → t.store.usedX = s.store.usedX ∧
         t.store.usedY = if 512 ≤ s.store.usedY then 1 else s.store.usedY + 1) ∧
       (t.store.inY = false → t.store.usedY = s.store.usedY ∧
         t.store.usedX = if 512 ≤ s.store.usedX then 1 else s.store.usedX + 1))) ∧
  (∀ (s : State) (n : SsdNo),
     (∀ c, c ∈ [Instr.ssdRemoved n, .ssdLinkDown n, .ssdCommandTimeout n] →
       (s.store.ssds[n].present = false → exec c s = .next s) ∧
       (s.store.ssds[n].present = true → ∃ t, exec c s = .next t ∧ t.store.ssds[n].present = false ∧
         t.store.ssds[n].resync = false ∧ t.stepFlag n = false ∧ (∀ k : SsdNo, k ≠ n → t.store.ssds[k] = s.store.ssds[k] ∧
           t.stepFlag k = s.stepFlag k) ∧ (s.stepFlag n = false → t.store.commits = s.store.commits) ∧
         t = { s with store := { s.store with ssds := t.store.ssds, commits := t.store.commits }, log := t.log, ctrs := t.ctrs })) ∧
     (∀ i : SsdInfo, bootSettled s → ∃ t, exec (.ssdInserted n i) s = .next t ∧ t.store.ssds[n].present = true ∧
       t.store.ssds[n].width = i.width ∧ t.store.ssds[n].rate = i.rate ∧ t.store.ssds[n].fingerprint = i.fingerprint ∧
       (∀ k : SsdNo, k ≠ n → t.store.ssds[k] = s.store.ssds[k]) ∧
       (i.fingerprint = s.trust.fingerprint → s.trust.life = .branded →
         t.store.ssds[n].resync = !s.stepFlag n ∧ t.inStep n = s.stepFlag n ∧ t.store.commits = s.store.commits) ∧
       (i.fingerprint ≠ s.trust.fingerprint ∨ s.trust.life ≠ .branded → t.store.ssds[n].resync = false ∧ t.inStep n = false)) ∧
     (s.store.ssds[n].present = false ∨ s.store.ssds[n].resync = false → bootSettled s → exec (.ssdResyncComplete n) s = .next s) ∧
     (s.store.ssds[n].present = true → s.store.ssds[n].resync = true → bootSettled s →
       ∃ t, exec (.ssdResyncComplete n) s = .next t ∧ t.inStep n = true ∧ t.store.ssds[n].resync = false ∧
         t = { s with store := t.store }))

/-- R322, R326, R330, R331: a load completes, in ascending order of folds: the static bytes stand on their cores, dynamic regions are poisoned,
parity is formed, and the fold waits; a candidate that is to be preloaded stands ready beside the fold that runs. After its
healthy ticks a confirming candidate is committed as the active image.
R304, R305: at cycle b of a shared core, and not earlier, what issues there stops and the row feeder is emptied; a first share that had
not ended is an overrun of its fold, found as hang 0x0502; its transfers there are cancelled; and the second share starts
at its first words with this cycle as their base. -/
def Obligations.FoldsLoadConfirmAndShare : Prop :=
  (∀ (s : State) (f : FoldNo),
     (∀ g, g < f → s.folds[g].run = .loading → exec (.staticLoadComplete f) s = .next s) ∧
     (s.folds[f].run ≠ .loading →
       ((s.entry f).state ≠ .activating ∨ (s.entry f).preload = false ∨ s.folds[f].preloaded = true) →
       exec (.staticLoadComplete f) s = .next s) ∧
     (∀ (c : Slot) (i : FoldImage), s.folds[f].run = .loading → (∀ g, g < f → s.folds[g].run ≠ .loading) →
       s.container (foldEntry f) s.folds[f].slot = some c → c.image = i →
       ∃ t, exec (.staticLoadComplete f) s = .next t ∧ t.folds[f].run = .waiting ∧ t.folds[f].image = some i ∧
         t.folds[f].loaded = true ∧ t.folds[f].blocksOk = c.sound ∧ (∀ g : FoldNo, g ≠ f → t.folds[g] = s.folds[g]) ∧
         t.cores = (((s.loadStatics i c).poisonDynamic i).formParity).cores ∧ t = { s with cores := t.cores, folds := t.folds }) ∧
     (∀ c : Slot, s.folds[f].run ≠ .loading → (∀ g, g < f → s.folds[g].run ≠ .loading) → (s.entry f).state = .activating →
       (s.entry f).preload = true → s.folds[f].preloaded = false → s.container (foldEntry f) (s.entry f).otherSlot = some c →
       ∃ t, exec (.staticLoadComplete f) s = .next t ∧ t = { s with
         cores := (((s.loadStatics c.image c).poisonDynamic c.image).formParity).cores
         folds := s.folds.set f { s.folds[f] with preloaded := true } }) ∧
     ((s.entry f).state = .confirming → (s.entry f).confirm ≤ s.folds[f].confirm →
       ∃ t, exec (.confirmationComplete f) s = .next t ∧ (t.entry f).state = .idle ∧
         (t.entry f).active = some (s.entry f).otherSlot ∧ (t.entry f).meas = (s.entry f).other ∧
         (t.entry f).other = (s.entry f).meas ∧ (t.entry f).version = (s.entry f).otherVersion ∧
         t.store.commits.length = s.store.commits.length + 1 ∧ (∀ g : FoldNo, g ≠ f → t.entry g = s.entry g) ∧
         t = { s with store := { s.store with commits := t.store.commits } }) ∧
     ((s.entry f).state ≠ .confirming ∨ s.folds[f].confirm < (s.entry f).confirm →
       exec (.confirmationComplete f) s = .next s)) ∧
  (∀ (s : State) (l : CoreNo),
     (s.phys l = none ∨ (∃ f a, f ∈ s.holders l ∧ s.sharesOn f l = true ∧ s.folds[f].allot = some a ∧ s.rel < a.boundary) →
       exec (.shareBoundary l) s = .next s) ∧
     (∀ p : CoreNo, s.phys l = some p →
       (∀ f a, f ∈ s.holders l → s.sharesOn f l = true → s.folds[f].allot = some a → a.boundary ≤ s.rel) →
       ∃ t, exec (.shareBoundary l) s = .next t ∧ (∀ q : CoreNo, q ≠ p → t.cores[q] = s.cores[q]) ∧ t.cores[p].feeder = [] ∧
         t.cores[p].pasture = s.cores[p].pasture ∧ t.cores[p].acc = s.cores[p].acc ∧
         (∀ f, ((s.holders l).find? fun f => s.sharesOn f l && !s.secondOn f l) = some f →
           (∀ (d : DroverNo) (i : DStreamNo), (s.ds p d i).fold = f → (t.ds p d i).status = .idle) ∧
           (s.cores[p].anyRunning = true → s.folds[f].run = .running → t.folds = s.folds.set f { s.folds[f] with
             recov := { s.folds[f].recov with overrun := true, hang := some 0x0502 } }) ∧
           (s.cores[p].anyRunning = false ∨ s.folds[f].run ≠ .running → t.folds = s.folds)) ∧
         (((s.holders l).find? fun f => s.sharesOn f l && !s.secondOn f l) = none → t.folds = s.folds) ∧
         (((s.holders l).find? fun f => s.secondOn f l) = none → t.cores[p].anyRunning = false) ∧
         (∀ g e, ((s.holders l).find? fun f => s.secondOn f l) = some g → s.folds[g].run = .running → s.penCore g l = some e →
           s.absent l = false → t.cores[p].matrix = s.cores[p].matrix.begin e.matrix s.now ∧
             t.cores[p].cstream = s.cores[p].cstream.begin e.currier s.now ∧
             t.cores[p].dstream = s.cores[p].dstream.begin e.drover s.now) ∧
         t = { s with cores := t.cores, folds := t.folds, log := t.log, ctrs := t.ctrs }))

/-! ## The maintenance protocol and the status space -/

/-- R350, R356, R357, Tables 15.5 and 15.7: whatever is asked, a request that is not heard changes nothing but a counter, and
a repeat gets the answer that was given first, or "in progress". A request that needs a window is answered 3 with the fuse blown, 9 with a
discrepancy, 2 without a window, 4 outside the session; an unknown operation is answered 10.
R350, R356, R357: a session opens in a window, one at a time, under a number drawn from the entropy source that is never zero; it ends when it
is closed or has not been heard for 10 s. A request for one waits while the entropy source has failed (R359). The operation in
progress is answered so each second. -/
def Obligations.RequestsAndSessions : Prop :=
  ((∀ (s : State) (r : MaintReq) (c : Instr),
     c ∈ [Instr.openSession r, .closeSession r, .attestation r, .statusRead r, .logRead r, .downloadBegin r, .downloadData r,
       .downloadEnd r, .verify r, .activateImmediate r, .activateAtTick r, .activateDeferred r, .revert r, .holdStop r,
       .holdRelease r, .withdraw r, .reLock r, .replayOn r, .replayOff r, .debugEnable r, .debugDisable r, .debugRead r,
       .dumpExport r, .logClear r, .keyChange r, .adoptSsd r, .maintUnknownOperation r, .tallySelWrite (.maint r),
       .userTagWrite (.maint r), .statusWriteRefused (.maint r)] →
     (s.hears r = false → exec c s = .next { s with pl := s.pl.set r.port { s.pl[r.port] with
       ctrs := s.pl[r.port].ctrs.set 3 ((s.pl[r.port].ctrs[3] : Ctr).add 1) } }) ∧
     (∀ a, s.hears r = true → (s.trust.sess.given r = some a ∨
         (s.trust.sess.given r = none ∧ s.trust.sess.busyWith r = true ∧ a = answerTo r 1 r.session [])) →
       ∃ t, exec c s = .next t ∧ answerGiven s t a ∧
         t = { s with trust := { s.trust with sess := { s.trust.sess with sent := s.trust.sess.sent ++ [a] } }, pl := t.pl })) ∧
   (∀ (s : State) (r : MaintReq) (c : Instr) (n : Nat),
     c ∈ [Instr.downloadBegin r, .activateImmediate r, .activateAtTick r, .activateDeferred r, .revert r, .holdStop r,
       .holdRelease r, .withdraw r, .reLock r, .replayOn r, .replayOff r, .debugEnable r, .debugDisable r, .debugRead r,
       .dumpExport r, .logClear r, .keyChange r, .adoptSsd r] → isNew s r →
     (n = 3 ∧ s.trust.pres.fuse = true ∨
       n = 9 ∧ s.trust.pres.fuse = false ∧ s.trust.pres.discrepancy = true ∨
       n = 2 ∧ s.trust.pres.fuse = false ∧ s.trust.pres.discrepancy = false ∧ s.trust.pres.window = none ∨
       n = 4 ∧ s.windowStatus = 0 ∧ s.trust.sess.num ≠ some r.session) →
     ∃ t, exec c s = .next t ∧ answered s t r n r.session []) ∧
   (∀ (s : State) (r : MaintReq), isNew s r → ∃ t, exec (.maintUnknownOperation r) s = .next t ∧
     answered s t r 10 r.session [])) ∧
  ((∀ (s : State) (r : MaintReq), isNew s r →
     (s.windowStatus = 0 → s.trust.sess.num = none → s.trust.sess.waiting = none → s.trust.entropyFailed = false →
       ∃ (t : State) (n : BitVec 32), n ≠ 0 ∧ exec (.openSession r) s = .next t ∧ answered { s with
         trust := { s.trust with draws := s.trust.draws + 1, sess := { s.trust.sess with num := some n, download := none } } } t r 0 n [] ∧
         t.trust.sess.last = s.now) ∧
     (s.windowStatus = 0 → s.trust.sess.num.isSome = true ∨ s.trust.sess.waiting.isSome = true →
       ∃ t, exec (.openSession r) s = .next t ∧ answered s t r 5 r.session []) ∧
     (s.windowStatus = 0 → s.trust.sess.num = none → s.trust.sess.waiting = none → s.trust.entropyFailed = true →
       exec (.openSession r) s = .next { s with
         trust := { s.trust with sess := { s.trust.sess with waiting := some (r, s.now) } } }) ∧
     (s.windowStatus ≠ 0 → ∃ t, exec (.openSession r) s = .next t ∧ answered s t r s.windowStatus r.session []) ∧
     (s.trust.sess.num = some r.session → s.trust.pres.window = none → ∃ t, exec (.closeSession r) s = .next t ∧
       answered s t r 2 r.session []) ∧
     (s.trust.sess.num = some r.session → s.trust.pres.window.isSome = true → ∃ t, exec (.closeSession r) s = .next t ∧
       answered { s with trust := { s.trust with sess := { s.trust.sess with num := none, download := none } } } t r 0 r.session []) ∧
     (s.trust.sess.num ≠ some r.session → ∃ t, exec (.closeSession r) s = .next t ∧ answered s t r 4 r.session [])) ∧
   (∀ s : State,
     (s.trust.sess.num.isSome = true → s.trust.sess.last + 20000000000 ≤ s.now → exec .sessionTimeout s = .next { s with
       trust := { s.trust with sess := { s.trust.sess with num := none, download := none } } }) ∧
     (s.trust.sess.num = none ∨ s.now < s.trust.sess.last + 20000000000 → exec .sessionTimeout s = .next s) ∧
     (s.trust.sess.busy = none → exec .maintInProgressAnswer s = .next s) ∧
     (∀ r, s.trust.sess.busy = some r → ∃ t, exec .maintInProgressAnswer s = .next t ∧
       answerGiven s t (answerTo r 1 r.session []) ∧ t = { s with
       trust := { s.trust with sess := { s.trust.sess with sent := s.trust.sess.sent ++ [answerTo r 1 r.session []] } }, pl := t.pl })))

/-- R356, R358, R378, R444: attestation is answered with the report of the reserve, signed with the brand key, a status read with
the register's value most significant byte first, and a log read with up to 8,192 bytes of the NOR ring; none of them needs a
window. While ticks run an attestation that comes outside the reserve waits for it, and one waits while the entropy source has
failed; that it is answered at once where no ticks run is the model's choice (log entry 44).
R417, R431, R445, R447, Tables 18.1 and 20.7: inside a window a select register takes its value, reserved bits zero, at
the next snapshot and a user tag at once; a write of any other register is refused, in a session with status 6, and
counted. A read of a low half latches its high
half for the next read of it. Over I3C the controller gives the module its dynamic address and gets its provisional ID. -/
def Obligations.ReadsAndStatusWrites : Prop :=
  (∀ (s : State) (r : MaintReq), isNew s r →
     (r.body.length = 32 → s.trust.life = .branded →
       (s.ticks = false ∨ s.tick.inReserve = true → s.trust.entropyFailed = false →
         ∃ t, exec (.attestation r) s = .next t ∧
           answered { s with trust := { s.trust with draws := s.trust.draws + 1 } } t r 0 r.session (s.attestBytes r.body ++
             beBytes (ecdsaSign s.brandPrivate (nonceOf (Config.entropy s.trust.draws 384)) (s.attestBytes r.body)).toNat 96)) ∧
       (s.ticks = true → s.tick.inReserve = false → ∃ t, exec (.attestation r) s = .next t ∧ t = { s with
         trust := { s.trust with sess := { s.trust.sess with reads := s.trust.sess.reads ++ [r], last := t.trust.sess.last } } }) ∧
       (s.ticks = false ∨ s.tick.inReserve = true → s.trust.entropyFailed = true → s.trust.sess.waiting = none →
         ∃ t, exec (.attestation r) s = .next t ∧ t = { s with trust := { s.trust with sess := { s.trust.sess with
           waiting := some (r, s.now), last := t.trust.sess.last } } })) ∧
     (r.body.length ≠ 32 → ∃ t, exec (.attestation r) s = .next t ∧ answered s t r 7 r.session []) ∧
     (r.body.length = 32 → s.trust.life ≠ .branded → ∃ t, exec (.attestation r) s = .next t ∧ answered s t r 8 r.session []) ∧
     (s.trust.life ≠ .brandLost →
       (∃ t, exec (.statusRead r) s = .next t ∧
         answered (s.readStatus r.arg.toNat).2 t r 0 r.session (beBytes (s.readStatus r.arg.toNat).1.toNat 4)) ∧
       (r.arg.toNat < 2 ^ 26 → ∃ t, exec (.logRead r) s = .next t ∧
         answered s t r 0 r.session (s.log.bytes r.arg.toNat (min 8192 (2 ^ 26 - r.arg.toNat)))) ∧
       (2 ^ 26 ≤ r.arg.toNat → ∃ t, exec (.logRead r) s = .next t ∧ answered s t r 7 r.session [])) ∧
     (s.trust.life = .brandLost → ∀ c, c = .statusRead r ∨ c = .logRead r → ∃ t, exec c s = .next t ∧ answered s t r 6 r.session [])) ∧
  ((∀ (s : State) (w : StatusWrite) (c : Instr) (a v : Word32), c ∈ [Instr.tallySelWrite w, .userTagWrite w, .statusWriteRefused w] →
     w = .i3c a v →
     (∀ p k, s.windowOpen = true → tallySel a.toNat = some (p, k) → s.cores[p].supply.on = true → exec c s = .next { s with
       nack := false
       cores := s.cores.set p { s.cores[p] with
         tally := s.cores[p].tally.set k { s.cores[p].tally[k] with selNext := some (v &&& 0xEFFFE0FF) } } }) ∧
     (∀ k, s.windowOpen = true → tallySel a.toNat = none → userTag a.toNat = some k → exec c s = .next { s with
       nack := false, userTags := s.userTags.set k v }) ∧
     (s.windowOpen = false ∨ (tallySel a.toNat = none ∧ userTag a.toNat = none) ∨
         (∃ p k, tallySel a.toNat = some (p, k) ∧ s.cores[p].supply.on = false) →
       exec c s = .next { s with nack := true, ctrs := s.ctrs.set 9 ((s.ctrs[9] : Ctr).add 1) })) ∧
   (∀ (s : State) (r : MaintReq) (w : StatusWrite) (c : Instr), c ∈ [Instr.tallySelWrite w, .userTagWrite w, .statusWriteRefused w] →
     w = .maint r →
     (∀ k, inSession s r → r.body.length = 4 → tallySel r.arg.toNat = none → userTag r.arg.toNat = some k →
       ∃ t, exec c s = .next t ∧ answered { s with
         userTags := s.userTags.set k (BitVec.ofNat 32 (beAt r.body 0 4)) } t r 0 r.session []) ∧
     (∀ p k, inSession s r → r.body.length = 4 → tallySel r.arg.toNat = some (p, k) → s.cores[p].supply.on = true →
       ∃ t, exec c s = .next t ∧ answered { s with cores := s.cores.set p { s.cores[p] with
         tally := s.cores[p].tally.set k { s.cores[p].tally[k] with
           selNext := some (BitVec.ofNat 32 (beAt r.body 0 4) &&& 0xEFFFE0FF) } } } t r 0 r.session []) ∧
     (inSession s r → r.body.length = 4 → (tallySel r.arg.toNat = none ∧ userTag r.arg.toNat = none) ∨
         (∃ p k, tallySel r.arg.toNat = some (p, k) ∧ s.cores[p].supply.on = false) →
       ∃ t, exec c s = .next t ∧ answered s t r 6 r.session [] ∧ (t.ctrs[9] = (s.ctrs[9] : Ctr).add 1)) ∧
     (inSession s r → r.body.length ≠ 4 → ∃ t, exec c s = .next t ∧ answered s t r 7 r.session []) ∧
     (isNew s r → s.admitStatus r ≠ 0 → ∃ t, exec c s = .next t ∧ answered s t r (s.admitStatus r) r.session [] ∧
       (s.writable r.arg.toNat = false → t.ctrs[9] = (s.ctrs[9] : Ctr).add 1) ∧
       (s.writable r.arg.toNat = true → t.ctrs[9] = (s.ctrs[9] : Ctr)))) ∧
   (∀ (s : State) (a : Word32), a.toNat + 4 < 2 ^ 32 →
     ∃ t, exec (.pairLowRead a) s = .next t ∧ t = { s with latches := t.latches } ∧
       (isLow a.toNat = true → (t.readStatus (a.toNat + 4)).1 = s.peek (a.toNat + 4)) ∧
       (isLow a.toNat = false → isDigest a.toNat = false → ∀ x, x ∈ t.latches → x ∈ s.latches)) ∧
   (∀ (s : State) (a : BitVec 7), ∃ id : BitVec 48, exec (.i3cEntdaa a) s = .next { s with i3c := some (a, id) } ∧
     id.extractLsb' 33 15 = Config.makerCode ∧ id.getLsbD 32 = true ∧
     id.extractLsb' 0 32 = s.trust.fingerprint.extractLsb' 352 32))

/-- R317, R327, R328, R336, R344: a download of a fold image, a module section, a firmware or a boot stage begins in a window with an
SSD in step; its first byte gives up the former content of the slot that is not active, its bytes go into that slot, and its end
marks the slot written and the entry downloaded. A verification then runs, in a window or in the download's own session, and when
every check passes it commits the entry staged with the container's measurement and version, and its trailer, or puts the
container into its boot stage copies or firmware region; otherwise it names the first check that failed. -/
def Obligations.DownloadsAreVerified : Prop :=
  ∀ (s : State) (r : MaintReq) (key : SlotKey), s.downKey r.target = some key →
    (inSession s r → s.storeUp = true → r.arg ≠ 0 → (s.targetState r.target).blocksDownload = false → s.trust.sess.busy = none →
      ∃ t, exec (.downloadBegin r) s = .next t ∧ answered { s with
        trust := { s.trust with sess := { s.trust.sess with download := some (r.target, r.arg.toNat) } }
        store := if s.targetState r.target = .downloading ∨ targetEntry r.target = none then s.store.freeSlot key else s.store }
        t r 0 r.session []) ∧
    (inSession s r → r.arg ≠ 0 →
      s.storeUp = false ∨ (s.targetState r.target).blocksDownload = true ∨ s.trust.sess.busy.isSome = true →
      ∃ t, exec (.downloadBegin r) s = .next t ∧ answered s t r 6 r.session []) ∧
    (inSession s r → r.arg = 0 → ∃ t, exec (.downloadBegin r) s = .next t ∧ answered s t r 7 r.session []) ∧
    (∀ len : Nat, isNew s r → s.trust.sess.num = some r.session → s.trust.sess.download = some (r.target, len) → 0 < len →
      s.storeUp = true →
      (r.arg.toNat % 32 = 0 → r.body ≠ [] → r.arg.toNat + r.body.length ≤ len →
        (∀ c : Slot, s.notBegun r.target key = false → s.store.slot? key = some c → ∃ t, exec (.downloadData r) s = .next t ∧
          answered { s with store := s.store.setSlot key (c.put r.arg.toNat r.body) } t r 0 r.session []) ∧
        (s.notBegun r.target key = true → ∃ t, exec (.downloadData r) s = .next t ∧
          t.store.slot? key = some ((Slot.fresh len).put r.arg.toNat r.body) ∧
          (∀ k, targetEntry r.target = some k → (t.entryAt k).state = .downloading ∧ (t.entryAt k).other = 0 ∧
            (t.entryAt k).active = (s.entryAt k).active) ∧
          t.trust.sess.sent = s.trust.sess.sent ++ [answerTo r 0 r.session []] ∧ t.folds = s.folds ∧ t.cores = s.cores)) ∧
      (r.arg.toNat % 32 ≠ 0 ∨ r.body = [] ∨ len < r.arg.toNat + r.body.length → ∃ t, exec (.downloadData r) s = .next t ∧
        answered s t r 7 r.session []) ∧
      (∀ c : Slot, s.notBegun r.target key = false → s.store.slot? key = some c →
        ∃ t e, exec (.downloadEnd r) s = .next t ∧ answered e t r 0 r.session [] ∧
          (∀ k, targetEntry r.target = some k → e = (({ s with
            store := s.store.setSlot key { c with written := true }
            trust := { s.trust with sess := { s.trust.sess with download := some (r.target, 0) } } } : State).commitEntry k fun e =>
              { e with state := .downloaded })) ∧
          (targetEntry r.target = none → e = { s with
            store := s.store.setSlot key { c with written := true }
            trust := { s.trust with sess := { s.trust.sess with download := some (r.target, 0) } } }))) ∧
    (∀ c : Slot, inSession s r ∨ (isNew s r ∧ s.trust.sess.num = some r.session ∧
        ∃ len, s.trust.sess.download = some (r.target, len)) →
      (∀ k, targetEntry r.target = some k → (s.entryAt k).state = .downloaded) → s.storeUp = true →
      s.store.slot? key = some c → c.written = true →
      s.trust.sess.busy = none → ∃ t, exec (.verify r) s = .next t ∧ t = { s with
        trust := { s.trust with sess := { s.trust.sess with busy := some r, last := s.now } } }) ∧
    (s.trust.sess.busy = none → exec .verificationEnd s = .next s) ∧
    (∀ c : Slot, s.trust.sess.busy = some r → s.storeUp = true → s.store.slot? key = some c →
      (∀ n, s.targetCheck r.target c = n → n ≠ 0 → r.target ≠ 0x100 → ∃ t, exec .verificationEnd s = .next t ∧
        answered { s with trust := { s.trust with sess := { s.trust.sess with busy := none } } } t r 8 r.session
          [BitVec.ofNat 8 n]) ∧
      (s.targetCheck r.target c = 0 → ∃ t, exec .verificationEnd s = .next t ∧ t.trust.sess.busy = none ∧ t.folds = s.folds ∧
        t.trust.sess.sent.getLast? = some (answerTo r 0 r.session []) ∧
        (∀ k, targetEntry r.target = some k → (t.entryAt k).state = .staged ∧ (t.entryAt k).other = c.measure ∧
          (t.entryAt k).otherVersion = c.version ∧ (t.entryAt k).active = (s.entryAt k).active ∧
          t.store.slot? key = some { c with trailer := some (s.codeOf c) }) ∧
        (r.target = 0x100 → s.fwRegion = true → t.trust.romMeas[3] = c.measure ∧ t.supB.state = .restarting ∧ t.supA = s.supA) ∧
        (r.target = 0x100 → s.fwRegion = false → t.trust.romMeas[2] = c.measure ∧ t.supA.state = .restarting ∧ t.supB = s.supB ∧
          t.tack.fw = .idle) ∧
        (r.target = 0x101 → t.trust.romMeas[0] = c.measure ∧ t.trust.romMeas[1] = c.measure)))

/-- R329 to R332, R335, R370: while a module section runs, a staged candidate of one module is activated at its switch tick, the
asked one when that is later, or waits for a later request; one of a multi-module fold is permitted from the asked tick on; a
revert goes back to the bound image of the other slot; a withdraw gives the candidate up with its download and verification.
Hold and its release are committed. A request for a fenced fold lets it make one new attempt. -/
def Obligations.ActivationsAreCommitted : Prop :=
  ∀ (s u : State) (r : MaintReq) (k : Fin 33), inSession s r → targetEntry r.target = some k → s.sec?.isSome = true →
    (∀ f, targetFold r.target = some f → u = s.retryFenced f) → (targetFold r.target = none → u = s) →
    (∀ (c : Instr) (mode tick : Nat), (c, mode, tick) ∈ [(Instr.activateImmediate r, 0, 0), (.activateAtTick r, 1, fld r.arg 0 48)] →
      fld r.arg 56 8 = mode → (s.entryAt k).state = .staged → bitOf r.arg 55 = false ∨ s.preloadClash k = false →
      (s.entryMulti k = false → ∃ t, exec c s = .next t ∧ answered (u.commitEntry k fun e => { e with
        state := .activating, onRequest := false, preload := bitOf r.arg 55
        switch := max tick (u.switchAfter s.tick.number.toNat) }) t r 0 r.session []) ∧
      (s.entryMulti k = true → ∃ t, exec c s = .next t ∧ answered (u.commitEntry k fun e => { e with
        onRequest := false, switch := tick, preload := bitOf r.arg 55 }) t r 0 r.session [])) ∧
    (fld r.arg 56 8 = 2 → (s.entryAt k).state = .staged → bitOf r.arg 55 = false ∨ s.preloadClash k = false →
      ∃ t, exec (.activateDeferred r) s = .next t ∧
        answered (u.commitEntry k fun e => { e with onRequest := true, preload := bitOf r.arg 55 }) t r 0 r.session []) ∧
    (∀ (c : Instr) (mode : Nat), (c, mode) ∈ [(Instr.activateImmediate r, 0), (.activateAtTick r, 1), (.activateDeferred r, 2)] →
      (fld r.arg 56 8 ≠ mode → ∃ t, exec c s = .next t ∧ answered s t r 7 r.session []) ∧
      (fld r.arg 56 8 = mode → (s.entryAt k).state ≠ .staged → ∃ t, exec c s = .next t ∧ answered s t r 6 r.session []) ∧
      (fld r.arg 56 8 = mode → (s.entryAt k).state = .staged → bitOf r.arg 55 = true → s.preloadClash k = true →
        ∃ t, exec c s = .next t ∧ answered s t r 8 r.session [5])) ∧
    ((s.entryAt k).state = .confirming → ∃ t, exec (.revert r) s = .next t ∧
      answered (u.commitEntry k fun e => { e with state := .reverting }) t r 0 r.session []) ∧
    (∀ c, (s.entryAt k).state = .idle → (s.entryAt k).other ≠ 0 → s.container k (s.entryAt k).otherSlot = some c →
      s.entryMulti k = false →
      ∃ t, exec (.revert r) s = .next t ∧ (t.entryAt k).state = .activating ∧
        (t.entryAt k).switch = u.switchAfter s.tick.number.toNat ∧
        (t.entryAt k).confirm = (if k.val < 32 then c.image.confirm else 0) ∧
        (t.entryAt k).other = (s.entryAt k).other ∧ t.folds = u.folds ∧
        t.trust.sess.sent.getLast? = some (answerTo r 0 r.session [])) ∧
    ((s.entryAt k).state ≠ .confirming → (s.entryAt k).state ≠ .idle ∨ (s.entryAt k).other = 0 →
      ∃ t, exec (.revert r) s = .next t ∧ answered u t r 6 r.session []) ∧
    (s.canWithdraw k = true → ∃ t e, exec (.withdraw r) s = .next t ∧ answered (State.commitEntry e k TackEntry.giveUp) t r 0 r.session [] ∧
      e = { s with
        trust := { s.trust with sess := { s.trust.sess with
          download := s.trust.sess.download.filter fun d => decide (d.1 ≠ r.target)
          busy := s.trust.sess.busy.filter fun b => decide (b.target ≠ r.target) } }
        store := s.store.freeSlot (k.val, (s.entryAt k).otherSlot)
        folds := e.folds } ∧
      (∀ f, targetFold r.target = some f → e.folds = s.folds.set f { s.folds[f] with preloaded := false }) ∧
      (targetFold r.target = none → e.folds = s.folds)) ∧
    (s.canWithdraw k = false → ∃ t, exec (.withdraw r) s = .next t ∧ answered s t r 6 r.session []) ∧
    (targetFold r.target ≠ none →
      (bitOf r.arg 0 = true → (∃ t, exec (.holdStop r) s = .next t ∧
          answered (s.commitEntry k fun e => { e with held := true }) t r 0 r.session []) ∧
        ∃ t, exec (.holdRelease r) s = .next t ∧ answered s t r 7 r.session []) ∧
      (bitOf r.arg 0 = false → (∃ t, exec (.holdRelease r) s = .next t ∧
          answered (u.commitEntry k fun e => { e with held := false }) t r 0 r.session []) ∧
        ∃ t, exec (.holdStop r) s = .next t ∧ answered s t r 7 r.session [])) ∧
    (targetFold r.target = none → ∀ c, c = .holdStop r ∨ c = .holdRelease r → ∃ t, exec c s = .next t ∧ answered s t r 7 r.session [])

/-- R23, R220, R337, R353, R355, R379: a re-lock waits for the next instant; replay is turned on and off; debug blows the
next debug fuse of the fold and erases its key, and ending it derives a new one; the log is cleared of what was written; a key change blows the next generation
fuse; an SSD that is not in step is adopted.
R354, R355, R374: debug reads up to 4,096 bytes of a core of a fold under debug in the next reserve, and refuses any other fold;
that it reads at once where no ticks run is the model's choice (log entry 44); a dump is
exported in bodies of at most 8,192 bytes that follow one another, behind a leading byte that says how it was opened (log
entry 38). -/
def Obligations.OtherRequestsAndExports : Prop :=
  ((∀ (s : State) (r : MaintReq), inSession s r →
     (∃ t, exec (.reLock r) s = .next t ∧ answered { s with tick := { s.tick with relock := true } } t r 0 r.session []) ∧
     (∃ t, exec (.logClear r) s = .next t ∧ t.log.ring = [] ∧ t.log.failed = false ∧ t.log.seq = s.log.seq ∧
       t.log.staged.head? = some (s.entryOfLog 0x0E04 (leBytes (s.log.seq - 1) 8)) ∧
       answered { s with log := t.log } t r 0 r.session []) ∧
     (s.trust.generation < 15 → ∃ t, exec (.keyChange r) s = .next t ∧ answered { s with
       trust := { s.trust with generation := s.trust.generation + 1, retrain := true } } t r 0 r.session []) ∧
     (15 ≤ s.trust.generation → ∃ t, exec (.keyChange r) s = .next t ∧ answered s t r 6 r.session []) ∧
     (∀ n : SsdNo, n = (if bitOf r.arg 0 then 1 else 0) →
       (s.store.ssds[n].present = true → s.inStep n = false → ∃ t, exec (.adoptSsd r) s = .next t ∧ answered { s with
         store := { s.store with ssds := s.store.ssds.set n { s.store.ssds[n] with
           fingerprint := s.trust.fingerprint, resync := true, mirror := false } } } t r 0 r.session []) ∧
       (s.store.ssds[n].present = false ∨ s.inStep n = true → ∃ t, exec (.adoptSsd r) s = .next t ∧
         answered s t r 6 r.session []))) ∧
   (∀ (s : State) (r : MaintReq) (f : FoldNo), inSession s r → r.target.toNat = f.val →
     (∀ (c : Instr) (on : Bool), (c, on) ∈ [(Instr.replayOn r, true), (.replayOff r, false)] → bitOf r.arg 0 = on →
       (s.folds[f].allot = none → ∃ t, exec c s = .next t ∧ answered s t r 6 r.session []) ∧
       (s.folds[f].allot.isSome = true → ∃ t, exec c s = .next t ∧ answered { s with
         folds := s.folds.set f { s.folds[f] with replay := { s.folds[f].replay with
           on := on, delta := 0, feed := [], taken := 0, queue := [], begun := false, complete := true } } } t r 0 r.session [])) ∧
     (bitOf r.arg 0 = true → s.folds[f].debug = false → s.trust.debugCount[f] < 16 →
       ∃ t, exec (.debugEnable r) s = .next t ∧ answered { s with
         trust := { s.trust with
           debugCount := s.trust.debugCount.set f (s.trust.debugCount[f] + 1), keyErased := s.trust.keyErased.set f true }
         folds := s.folds.set f { s.folds[f] with debug := true } } t r 0 r.session []) ∧
     (bitOf r.arg 0 = true → s.folds[f].debug = true ∨ 16 ≤ s.trust.debugCount[f] → ∃ t, exec (.debugEnable r) s = .next t ∧
       answered s t r 6 r.session []) ∧
     (bitOf r.arg 0 = false → ∃ t, exec (.debugDisable r) s = .next t ∧ answered { s with
       trust := { s.trust with keyErased := s.trust.keyErased.set f false }
       folds := s.folds.set f { s.folds[f] with debug := false } } t r 0 r.session []))) ∧
  ((∀ (s : State) (r : MaintReq) (f : FoldNo), inSession s r → r.target.toNat = f.val →
     (s.folds[f].debug = false → ∃ t, exec (.debugRead r) s = .next t ∧ answered s t r 6 r.session []) ∧
     (∀ len, s.folds[f].debug = true → r.body.length = 4 → len = beAt r.body 0 4 → 0 < len → len ≤ 4096 →
       hModule r.arg = s.hallNo → zeros r.arg 31 12 = true → (s.coresOf f).contains (hCore r.arg) = true → s.ticks = true →
       ∃ t, exec (.debugRead r) s = .next t ∧ t = { s with
         trust := { s.trust with sess := { s.trust.sess with reads := s.trust.sess.reads ++ [r], last := t.trust.sess.last } } }) ∧
     (∀ len bs, s.folds[f].debug = true → r.body.length = 4 → len = beAt r.body 0 4 → 0 < len → len ≤ 4096 →
       hModule r.arg = s.hallNo → zeros r.arg 31 12 = true → (s.coresOf f).contains (hCore r.arg) = true → s.ticks = false →
       (s.phys (hCore r.arg)).bind (fun p => s.spaceBytes f p (hCore r.arg) (hSpace r.arg) (hOff r.arg) len) = some bs →
       ∃ t, exec (.debugRead r) s = .next t ∧ answered s t r 0 r.session bs)) ∧
   (∀ (s : State) (r : MaintReq), inSession s r →
     ((s.store.dumps.find? fun d => decide (d.2.1 = r.arg.toNat)) = none ∨ s.storeUp = false →
       ∃ t, exec (.dumpExport r) s = .next t ∧ answered s t r 6 r.session []) ∧
     (∀ d bs, (s.store.dumps.find? fun d => decide (d.2.1 = r.arg.toNat)) = some d → s.storeUp = true →
       bs = BitVec.ofNat 8 (s.openDump d.2.2).1 :: (s.openDump d.2.2).2 → ∃ t as, exec (.dumpExport r) s = .next t ∧
         t.trust.sess.sent = s.trust.sess.sent ++ as ∧ (as.flatMap fun (a : Answer) => a.body) = bs ∧
         (∀ a, a ∈ as → a.op = r.op ∧ a.status = 0 ∧ a.number = r.number ∧ a.body.length ≤ 8192) ∧
         t = { s with trust := { s.trust with sess := t.trust.sess }, pl := t.pl })))
end

