-- ==== Sys2Proof/Laws/Basic.lean ====
section
/-! SUPPORT. Laws of vectors and of sparse maps in canonical form: what a write changes, and that every map operation
keeps the form. -/

namespace Sys2Proof.Machine

/-! ## Vectors -/

@[simp] theorem vmod_get_self {α : Type} {n : Nat} (v : Vector α n) (i : Fin n) (f : α → α) :
    (vmod v i f)[i.val] = f v[i.val] := by
  simp [vmod]

theorem vmod_get_other {α : Type} {n : Nat} (v : Vector α n) (i j : Fin n) (f : α → α) (h : j ≠ i) :
    (vmod v i f)[j] = v[j] := by
  have : i.val ≠ j.val := fun e => h (Fin.ext e.symm)
  simp [vmod, this]

theorem set_get_other {α : Type} {n : Nat} (v : Vector α n) (i j : Fin n) (x : α) (h : j ≠ i) :
    (v.set i x)[j] = v[j] := by
  have : i.val ≠ j.val := fun e => h (Fin.ext e.symm)
  simp [this]

/-- A change of one element, read anywhere. -/
theorem vmod_get {α : Type} {n : Nat} (v : Vector α n) (i j : Fin n) (f : α → α) :
    (vmod v i f)[j] = if j = i then f v[j] else v[j] := by
  by_cases h : j = i
  · subst h; simp
  · rw [if_neg h]; exact vmod_get_other v i j f h

/-! ## Folds -/

/-- A fold of operations keeps what each of them keeps. -/
theorem foldl_keep {α β : Type} (P : α → Prop) (f : α → β → α) (h : ∀ a b, P a → P (f a b)) (l : List β) (a : α)
    (ha : P a) : P (l.foldl f a) := by
  induction l generalizing a with
  | nil => exact ha
  | cons b r ih => exact ih _ (h a b ha)

/-! ## Sparse maps -/

section Cells

variable {α : Type} [DecidableEq α] (d : α)

/-- Canonical form as a proposition. -/
theorem cellWf_iff (m : List (Nat × α)) :
    cellWf d m = true ↔ m.Pairwise (fun a b => a.1 < b.1) ∧ ∀ c ∈ m, c.2 ≠ d := by
  induction m with
  | nil => simp [cellWf]
  | cons a r ih =>
    obtain ⟨k, v⟩ := a
    simp only [cellWf, Bool.and_eq_true, decide_eq_true_eq, List.all_eq_true, ih, List.pairwise_cons, List.mem_cons,
      forall_eq_or_imp]
    tauto

omit [DecidableEq α] in
/-- A key at or below every listed key that is not listed reads the default. -/
theorem cellGet_low (k : Nat) (m : List (Nat × α)) (h : ∀ c ∈ m, k < c.1) : cellGet d k m = d := by
  cases m with
  | nil => rfl
  | cons a r =>
    obtain ⟨j, v⟩ := a
    have := h (j, v) (by simp)
    simp only at this
    simp [cellGet, Nat.lt_asymm this, Nat.ne_of_gt this]

/-- Keys of the map after a write. -/
theorem cellSet_keys (k : Nat) (v : α) (m : List (Nat × α)) (b : Nat) (hb : b < k) (h : ∀ c ∈ m, b < c.1) :
    ∀ c ∈ cellSet d k v m, b < c.1 := by
  induction m with
  | nil => simp only [cellSet]; split <;> simp [hb]
  | cons a r ih =>
    obtain ⟨j, w⟩ := a
    have hj := h (j, w) (by simp)
    have hr : ∀ c ∈ r, b < c.1 := fun c hc => h c (by simp [hc])
    have ihr := ih hr
    simp only [cellSet]
    intro c hc
    split at hc
    · rcases List.mem_cons.mp hc with rfl | hc
      · exact hj
      · exact ihr c hc
    · split at hc
      · split at hc
        · exact hr c hc
        · rcases List.mem_cons.mp hc with rfl | hc
          · exact hb
          · exact hr c hc
      · split at hc
        · exact h c hc
        · rcases List.mem_cons.mp hc with rfl | hc
          · exact hb
          · exact h c hc

/-- A write keeps canonical form. -/
theorem cellSet_wf (k : Nat) (v : α) (m : List (Nat × α)) (h : cellWf d m = true) : cellWf d (cellSet d k v m) = true := by
  rw [cellWf_iff] at h ⊢
  obtain ⟨hp, hd⟩ := h
  induction m with
  | nil => simp only [cellSet]; split <;> simp_all
  | cons a r ih =>
    obtain ⟨j, w⟩ := a
    rw [List.pairwise_cons] at hp
    obtain ⟨hj, hr⟩ := hp
    have hdr : ∀ c ∈ r, c.2 ≠ d := fun c hc => hd c (by simp [hc])
    have hw : w ≠ d := hd (j, w) (by simp)
    have ihr := ih hr hdr
    simp only [cellSet]
    split
    · rename_i hlt
      refine ⟨List.pairwise_cons.mpr ⟨fun c hc => cellSet_keys d k v r j hlt hj c hc, ihr.1⟩, ?_⟩
      intro c hc
      rcases List.mem_cons.mp hc with rfl | hc
      · exact hw
      · exact ihr.2 c hc
    · rename_i hlt
      split
      · rename_i heq
        subst heq
        split
        · exact ⟨hr, hdr⟩
        · rename_i hv
          refine ⟨List.pairwise_cons.mpr ⟨hj, hr⟩, ?_⟩
          intro c hc
          rcases List.mem_cons.mp hc with rfl | hc
          · exact hv
          · exact hdr c hc
      · rename_i hne
        have hkj : k < j := by omega
        split
        · exact ⟨List.pairwise_cons.mpr ⟨hj, hr⟩, fun c hc => hd c hc⟩
        · rename_i hv
          refine ⟨List.pairwise_cons.mpr ⟨?_, List.pairwise_cons.mpr ⟨hj, hr⟩⟩, ?_⟩
          · intro c hc
            rcases List.mem_cons.mp hc with rfl | hc
            · exact hkj
            · exact Nat.lt_trans hkj (hj c hc)
          · intro c hc
            rcases List.mem_cons.mp hc with rfl | hc
            · exact hv
            · exact hd c hc

/-- Read after write: the key written gives the value, every other key what it gave before. -/
theorem cellGet_set (k j : Nat) (v : α) (m : List (Nat × α)) (h : cellWf d m = true) :
    cellGet d j (cellSet d k v m) = if j = k then v else cellGet d j m := by
  rw [cellWf_iff] at h
  obtain ⟨hp, hd⟩ := h
  induction m with
  | nil =>
    simp only [cellSet]
    split <;> rename_i hv
    · subst hv; simp [cellGet]
    · simp only [cellGet]
      by_cases h1 : k < j
      · simp [h1, Nat.ne_of_gt h1]
      · by_cases h2 : k = j
        · simp [h2]
        · simp [h1, h2, Ne.symm h2]
  | cons a r ih =>
    obtain ⟨i, w⟩ := a
    rw [List.pairwise_cons] at hp
    obtain ⟨hi, hr⟩ := hp
    have ihr := ih hr (fun c hc => hd c (by simp [hc]))
    simp only [cellSet]
    split
    · rename_i hik
      simp only [cellGet, ihr]
      by_cases h1 : i < j
      · simp [h1]
      · have : j ≠ k := by omega
        simp [h1, this]
    · rename_i hik
      split
      · rename_i heq
        subst heq
        split
        · rename_i hv
          subst hv
          by_cases h1 : j = i
          · subst h1
            simp [cellGet_low v j r hi]
          · simp only [h1, if_false, cellGet]
            by_cases h2 : i < j
            · simp [h2]
            · have hlow : ∀ c ∈ r, j < c.1 := fun c hc => by have := hi c hc; simp only at this; omega
              simp [h2, Ne.symm h1, cellGet_low v j r hlow]
        · simp only [cellGet]
          by_cases h2 : i < j
          · simp [h2, Nat.ne_of_gt h2]
          · by_cases h1 : j = i
            · subst h1; simp
            · simp [h1, h2, Ne.symm h1]
      · rename_i hne
        have hki : k < i := by omega
        split
        · rename_i hv
          subst hv
          by_cases h1 : j = k
          · subst h1
            have hlow : ∀ c ∈ (i, w) :: r, j < c.1 := by
              intro c hc
              rcases List.mem_cons.mp hc with rfl | hc
              · exact hki
              · exact Nat.lt_trans hki (hi c hc)
            simp [cellGet_low v j _ hlow]
          · simp [h1]
        · rw [cellGet]
          by_cases h2 : k < j
          · simp [h2, Nat.ne_of_gt h2]
          · by_cases h1 : j = k
            · subst h1; simp
            · have hlow : ∀ c ∈ (i, w) :: r, j < c.1 := by
                intro c hc
                rcases List.mem_cons.mp hc with rfl | hc
                · show j < i; omega
                · have := hi c hc; simp only at this; omega
              simp [h1, h2, Ne.symm h1, cellGet_low d j _ hlow]

/-- A run of writes keeps canonical form. -/
theorem cellsSet_wf (k : Nat) (vs : List α) (m : List (Nat × α)) (h : cellWf d m = true) :
    cellWf d (cellsSet d k vs m) = true := by
  induction vs generalizing k m with
  | nil => exact h
  | cons v r ih => exact ih (k + 1) _ (cellSet_wf d k v m h)

/-- Read after a run of writes. -/
theorem cellGet_sets (k j : Nat) (vs : List α) (m : List (Nat × α)) (h : cellWf d m = true) :
    cellGet d j (cellsSet d k vs m) = if k ≤ j ∧ j < k + vs.length then vs.getD (j - k) d else cellGet d j m := by
  induction vs generalizing k m with
  | nil =>
    simp [cellsSet]
  | cons v r ih =>
    rw [cellsSet, ih (k + 1) _ (cellSet_wf d k v m h), cellGet_set d k j v m h]
    by_cases h1 : j = k
    · subst h1
      simp
    · by_cases h2 : k + 1 ≤ j ∧ j < k + 1 + r.length
      · have h3 : k ≤ j ∧ j < k + (v :: r).length := by simp; omega
        rw [if_pos h2, if_pos h3]
        have : j - k = (j - (k + 1)) + 1 := by omega
        rw [this]
        simp
      · have h3 : ¬ (k ≤ j ∧ j < k + (v :: r).length) := by simp only [List.length_cons]; omega
        rw [if_neg h2, if_neg h3, if_neg h1]

omit [DecidableEq α] in
/-- A clear is a filter. -/
theorem cellsClear_mem (lo hi : Nat) (m : List (Nat × α)) (c : Nat × α) (h : c ∈ cellsClear lo hi m) : c ∈ m :=
  (List.mem_filter.mp h).1

/-- A filter keeps canonical form. -/
theorem cellFilter_wf (p : Nat × α → Bool) (m : List (Nat × α)) (h : cellWf d m = true) :
    cellWf d (m.filter p) = true := by
  rw [cellWf_iff] at h ⊢
  exact ⟨h.1.filter p, fun c hc => h.2 c (List.mem_filter.mp hc).1⟩

/-- A clear keeps canonical form. -/
theorem cellsClear_wf (lo hi : Nat) (m : List (Nat × α)) (h : cellWf d m = true) :
    cellWf d (cellsClear lo hi m) = true := cellFilter_wf d _ m h

end Cells

end Sys2Proof.Machine
end

