-- ==== Sys2Proof/Laws/Events.lean ====
section
/-! SUPPORT. What core events do, once for all: they change one core's tally counters and fault ticks, the log and the
module counters. -/

namespace Sys2Proof.Machine

/-- Frames compose. -/
theorem onlyCore_trans {s t u : State} {p : CoreNo} (h : onlyCore s t p) (k : onlyCore t u p) : onlyCore s u p := by
  refine ⟨fun q hq => (k.1 q hq).trans (h.1 q hq), ?_⟩
  rw [k.2, h.2]

/-- A core replaced is the only one that differs. -/
theorem onlyCore_set (s : State) (p : CoreNo) (e : Core) : onlyCore s { s with cores := s.cores.set p e } p :=
  ⟨fun q h => set_get_other s.cores p q e h, rfl⟩

theorem onlyCore_refl (s : State) (p : CoreNo) : onlyCore s s p := ⟨fun _ _ => rfl, rfl⟩

@[simp] theorem Core.quiet_occur (c : Core) (code n : Nat) (fold : Option FoldNo) (tag now : Nat) :
    (c.occur code n fold tag now).quiet = c.quiet := rfl

/-- Events change one core's counters and fault ticks, the log and the module counters, and nothing else. -/
theorem State.events_frame (s : State) (p : CoreNo) (es : List (Nat × Nat)) (g : Option FoldNo) :
    onlyCore s (s.events p es g) p ∧ (s.events p es g).cores[p].quiet = s.cores[p].quiet := by
  unfold State.events
  dsimp only
  refine foldl_keep (fun t => onlyCore s t p ∧ t.cores[p].quiet = s.cores[p].quiet) _ ?_ es s
    ⟨onlyCore_refl s p, rfl⟩
  intro t e ht
  obtain ⟨h1, h2⟩ := ht
  split
  · exact ⟨h1, h2⟩
  · split
    · refine ⟨onlyCore_trans h1 ⟨fun q hq => vmod_get_other _ _ _ _ hq, rfl⟩, ?_⟩
      rw [← h2]
      simp only [Fin.getElem_fin, vmod_get_self]
      rfl
    · refine ⟨onlyCore_trans h1 ⟨fun q hq => vmod_get_other _ _ _ _ hq, rfl⟩, ?_⟩
      rw [← h2]
      simp only [Fin.getElem_fin, vmod_get_self]
      rfl

/-- What a command that changes one core and raises events answers. -/
theorem coreRaises_of {c : Instr} {s : State} {p : CoreNo} {e : Core} {es : List (Nat × Nat)}
    (h : exec c s = .next (State.events { s with cores := s.cores.set p e } p es)) : coreRaises c s p e es := by
  refine ⟨_, h, rfl, onlyCore_trans (onlyCore_set s p e) (State.events_frame _ p es none).1, ?_⟩
  rw [(State.events_frame _ p es none).2]
  simp

end Sys2Proof.Machine
end

