-- ==== Sys2Proof/Laws/Frame.lean ====
section
/-! SUPPORT. What commands leave alone, as three tuples of the state, and how the tuples pass through updates, choices and folds. -/

set_option linter.unusedSimpArgs false

namespace Sys2Proof.Machine

/-- What no command changes: the queue, the clock, the fuses of grade and of cores. -/
def State.keep (s : State) : List Instr × Nat × Bool × Word32 := (s.pending, s.now, s.gradeF, s.enabled)

/-- What all but few commands leave alone: that, presence, and the tick's number, instant, lock and holdover. -/
def State.fixed (s : State) : (List Instr × Nat × Bool × Word32) × Presence × (BitVec 48 × Nat × Bool × Bool) :=
  ((s.pending, s.now, s.gradeF, s.enabled), s.trust.pres, (s.tick.number, s.tick.instant, s.tick.lock, s.tick.holdover))

/-- What most operations leave alone: that, and all of the tick. -/
def State.still (s : State) : (List Instr × Nat × Bool × Word32) × Presence × Tick :=
  ((s.pending, s.now, s.gradeF, s.enabled), s.trust.pres, s.tick)

theorem State.keep_of {s t : State} (h : t.fixed = s.fixed) : t.keep = s.keep := congrArg Prod.fst h

theorem State.fixed_of_still {s t : State} (h : t.still = s.still) : t.fixed = s.fixed :=
  congrArg (fun x : (List Instr × Nat × Bool × Word32) × Presence × Tick =>
    (x.1, x.2.1, (x.2.2.number, x.2.2.instant, x.2.2.lock, x.2.2.holdover))) h

theorem State.keep_of_still {s t : State} (h : t.still = s.still) : t.keep = s.keep := congrArg Prod.fst h

theorem State.still_mk (now : Nat) (gradeF : Bool) (enabled : Word32) (sec? : Option ModuleSection)
    (place : Option (BitVec 12)) (tick : Tick) (ptp : Ptp) (cores : Vector Core 32) (folds : Vector Fold 32)
    (st : Vector StPort 16) (pl : Vector PlPort 2) (fab : Vector FabPort 24) (hall : Hall) (trust : Trust)
    (store : Store) (log : TallyLog) (supA supB : Supervisor) (power : Power) (rebuild : Option Rebuild)
    (captures : List (FoldNo × Nat × List Byte)) (dumpNo : Nat) (ctrs snaps : Vector Ctr 12)
    (userTags : Vector Word32 16) (sample : List (Nat × Word32)) (telemetry : List Byte) (latches : List Latch)
    (i3c : Option (BitVec 7 × BitVec 48)) (nack : Bool) (free : Nat) (pending : List Instr) :
    (State.mk now gradeF enabled sec? place tick ptp cores folds st pl fab hall trust store log supA supB power
      rebuild captures dumpNo ctrs snaps userTags sample telemetry latches i3c nack free pending).still =
      ((pending, now, gradeF, enabled), trust.pres, tick) := rfl

theorem State.still_fold (t : State) :
    ((t.pending, t.now, t.gradeF, t.enabled), t.trust.pres, t.tick) = t.still := rfl

theorem State.still_ite {c : Prop} [Decidable c] {a b : State}
    {x : (List Instr × Nat × Bool × Word32) × Presence × Tick} (ha : a.still = x)
    (hb : b.still = x) : (if c then a else b).still = x := by
  split <;> assumption

theorem State.still_iteD {c : Prop} [Decidable c] {a b : Option State} {s : State}
    {x : (List Instr × Nat × Bool × Word32) × Presence × Tick} (ha : (a.getD s).still = x)
    (hb : (b.getD s).still = x) : ((if c then a else b).getD s).still = x := by
  split <;> assumption

theorem State.still_getD (a s : State) : ((some a).getD s).still = a.still := rfl

theorem State.still_getD0 (s : State) : ((none : Option State).getD s).still = s.still := rfl

theorem State.still_foldl {β : Type} (f : State → β → State) (h : ∀ s b, (f s b).still = s.still) (l : List β)
    (s : State) : (l.foldl f s).still = s.still := by
  induction l generalizing s with
  | nil => rfl
  | cons b r ih => exact (ih _).trans (h s b)

theorem State.still_foldl1 {α β : Type} (f : State × α → β → State × α) (h : ∀ s b, (f s b).1.still = s.1.still)
    (l : List β) (s : State × α) : (l.foldl f s).1.still = s.1.still := by
  induction l generalizing s with
  | nil => rfl
  | cons b r ih => exact (ih _).trans (h s b)

theorem State.fixed_mk (now : Nat) (gradeF : Bool) (enabled : Word32) (sec? : Option ModuleSection)
    (place : Option (BitVec 12)) (tick : Tick) (ptp : Ptp) (cores : Vector Core 32) (folds : Vector Fold 32)
    (st : Vector StPort 16) (pl : Vector PlPort 2) (fab : Vector FabPort 24) (hall : Hall) (trust : Trust)
    (store : Store) (log : TallyLog) (supA supB : Supervisor) (power : Power) (rebuild : Option Rebuild)
    (captures : List (FoldNo × Nat × List Byte)) (dumpNo : Nat) (ctrs snaps : Vector Ctr 12)
    (userTags : Vector Word32 16) (sample : List (Nat × Word32)) (telemetry : List Byte) (latches : List Latch)
    (i3c : Option (BitVec 7 × BitVec 48)) (nack : Bool) (free : Nat) (pending : List Instr) :
    (State.mk now gradeF enabled sec? place tick ptp cores folds st pl fab hall trust store log supA supB power
      rebuild captures dumpNo ctrs snaps userTags sample telemetry latches i3c nack free pending).fixed =
      ((pending, now, gradeF, enabled), trust.pres, (tick.number, tick.instant, tick.lock, tick.holdover)) := rfl

theorem State.fixed_fold (t : State) :
    ((t.pending, t.now, t.gradeF, t.enabled), t.trust.pres, (t.tick.number, t.tick.instant, t.tick.lock, t.tick.holdover)) = t.fixed := rfl

theorem State.fixed_ite {c : Prop} [Decidable c] {a b : State}
    {x : (List Instr × Nat × Bool × Word32) × Presence × (BitVec 48 × Nat × Bool × Bool)} (ha : a.fixed = x)
    (hb : b.fixed = x) : (if c then a else b).fixed = x := by
  split <;> assumption

theorem State.fixed_iteD {c : Prop} [Decidable c] {a b : Option State} {s : State}
    {x : (List Instr × Nat × Bool × Word32) × Presence × (BitVec 48 × Nat × Bool × Bool)} (ha : (a.getD s).fixed = x)
    (hb : (b.getD s).fixed = x) : ((if c then a else b).getD s).fixed = x := by
  split <;> assumption

theorem State.fixed_getD (a s : State) : ((some a).getD s).fixed = a.fixed := rfl

theorem State.fixed_getD0 (s : State) : ((none : Option State).getD s).fixed = s.fixed := rfl

theorem State.fixed_foldl {β : Type} (f : State → β → State) (h : ∀ s b, (f s b).fixed = s.fixed) (l : List β)
    (s : State) : (l.foldl f s).fixed = s.fixed := by
  induction l generalizing s with
  | nil => rfl
  | cons b r ih => exact (ih _).trans (h s b)

theorem State.fixed_foldl1 {α β : Type} (f : State × α → β → State × α) (h : ∀ s b, (f s b).1.fixed = s.1.fixed)
    (l : List β) (s : State × α) : (l.foldl f s).1.fixed = s.1.fixed := by
  induction l generalizing s with
  | nil => rfl
  | cons b r ih => exact (ih _).trans (h s b)

theorem State.keep_mk (now : Nat) (gradeF : Bool) (enabled : Word32) (sec? : Option ModuleSection)
    (place : Option (BitVec 12)) (tick : Tick) (ptp : Ptp) (cores : Vector Core 32) (folds : Vector Fold 32)
    (st : Vector StPort 16) (pl : Vector PlPort 2) (fab : Vector FabPort 24) (hall : Hall) (trust : Trust)
    (store : Store) (log : TallyLog) (supA supB : Supervisor) (power : Power) (rebuild : Option Rebuild)
    (captures : List (FoldNo × Nat × List Byte)) (dumpNo : Nat) (ctrs snaps : Vector Ctr 12)
    (userTags : Vector Word32 16) (sample : List (Nat × Word32)) (telemetry : List Byte) (latches : List Latch)
    (i3c : Option (BitVec 7 × BitVec 48)) (nack : Bool) (free : Nat) (pending : List Instr) :
    (State.mk now gradeF enabled sec? place tick ptp cores folds st pl fab hall trust store log supA supB power
      rebuild captures dumpNo ctrs snaps userTags sample telemetry latches i3c nack free pending).keep =
      (pending, now, gradeF, enabled) := rfl

theorem State.keep_fold (t : State) :
    (t.pending, t.now, t.gradeF, t.enabled) = t.keep := rfl

theorem State.keep_ite {c : Prop} [Decidable c] {a b : State}
    {x : List Instr × Nat × Bool × Word32} (ha : a.keep = x)
    (hb : b.keep = x) : (if c then a else b).keep = x := by
  split <;> assumption

theorem State.keep_iteD {c : Prop} [Decidable c] {a b : Option State} {s : State}
    {x : List Instr × Nat × Bool × Word32} (ha : (a.getD s).keep = x)
    (hb : (b.getD s).keep = x) : ((if c then a else b).getD s).keep = x := by
  split <;> assumption

theorem State.keep_getD (a s : State) : ((some a).getD s).keep = a.keep := rfl

theorem State.keep_getD0 (s : State) : ((none : Option State).getD s).keep = s.keep := rfl

theorem State.keep_foldl {β : Type} (f : State → β → State) (h : ∀ s b, (f s b).keep = s.keep) (l : List β)
    (s : State) : (l.foldl f s).keep = s.keep := by
  induction l generalizing s with
  | nil => rfl
  | cons b r ih => exact (ih _).trans (h s b)

theorem State.keep_foldl1 {α β : Type} (f : State × α → β → State × α) (h : ∀ s b, (f s b).1.keep = s.1.keep)
    (l : List β) (s : State × α) : (l.foldl f s).1.keep = s.1.keep := by
  induction l generalizing s with
  | nil => rfl
  | cons b r ih => exact (ih _).trans (h s b)

end Sys2Proof.Machine
end

