-- ==== Sys2Proof/Laws/FrameCore.lean ====
section
/-! SUPPORT. Frames of the operations on cores: events, streams, drovers, the matrix array and the currier. -/

set_option linter.unusedSimpArgs false

namespace Sys2Proof.Machine

theorem State.onCore_still (s : State) (p : CoreNo) (f : Core → Core) :
    (State.onCore s p f).still = s.still := by
  unfold State.onCore
  repeat first
    | (with_reducible first | rfl)
    | simp only [↓State.still_mk, ↓State.still_fold] | dsimp only | split

theorem State.onFold_still (s : State) (f : FoldNo) (g : Fold → Fold) :
    (State.onFold s f g).still = s.still := by
  unfold State.onFold
  repeat first
    | (with_reducible first | rfl)
    | simp only [↓State.still_mk, ↓State.still_fold] | dsimp only | split

theorem State.onSt_still (s : State) (p : StreamPort) (g : StPort → StPort) :
    (State.onSt s p g).still = s.still := by
  unfold State.onSt
  repeat first
    | (with_reducible first | rfl)
    | simp only [↓State.still_mk, ↓State.still_fold] | dsimp only | split

theorem State.count_still (s : State) (i : Fin 12) (n : Nat) :
    (State.count s i n).still = s.still := by
  unfold State.count
  repeat first
    | (with_reducible first | rfl)
    | simp only [↓State.still_mk, ↓State.still_fold] | dsimp only | split

theorem State.log1_still (s : State) (code : BitVec 16) (fold : Option FoldNo) (l p : Option CoreNo) (detail : List Byte) :
    (State.log1 s code fold l p detail).still = s.still := by
  unfold State.log1
  repeat first
    | (with_reducible first | rfl)
    | simp only [↓State.still_mk, ↓State.still_fold] | dsimp only | split

theorem State.events_still (s : State) (p : CoreNo) (es : List (Nat × Nat)) (g : Option FoldNo) :
    (State.events s p es g).still = s.still := by
  unfold State.events
  repeat first
    | (with_reducible first | rfl | refine State.still_ite ?_ ?_
                            | refine (State.still_foldl _ (fun _ _ => ?_) _ _).trans ?_
                            | refine (State.still_foldl1 _ (fun _ _ => ?_) _ _).trans ?_)
    | simp only [↓State.still_mk, ↓State.still_fold] | dsimp only | split

theorem State.onCoreE_still (s : State) (p : CoreNo) (f : Core → Core × List (Nat × Nat)) (g : Option FoldNo) :
    (State.onCoreE s p f g).still = s.still := by
  unfold State.onCoreE
  repeat first
    | (with_reducible first | rfl | refine (State.events_still ..).trans ?_)
    | simp only [↓State.still_mk, ↓State.still_fold] | dsimp only | split

theorem State.sendSched_still (s : State) (f : FoldNo) (flow : Nat × Flow) (type : Nat) (addr : Word64) (payload : List MByte) (sent : Nat) (stamp : Option (BitVec 32)) :
    (State.sendSched s f flow type addr payload sent stamp).still = s.still := by
  unfold State.sendSched
  repeat first
    | (with_reducible first | rfl)
    | simp only [↓State.still_mk, ↓State.still_fold] | dsimp only | split

theorem State.countFold_still (s : State) (f : FoldNo) (i : Fin 23) (n : Nat) :
    (State.countFold s f i n).still = s.still := by
  unfold State.countFold
  repeat first
    | (with_reducible first | rfl | refine (State.onFold_still ..).trans ?_ | refine (State.count_still ..).trans ?_)
    | simp only [↓State.still_mk, ↓State.still_fold] | dsimp only | split

theorem State.summary_still (s : State) (code : BitVec 16) (fold : Option FoldNo) (l : Option CoreNo) (kind : Nat) :
    (State.summary s code fold l kind).still = s.still := by
  unfold State.summary
  repeat first
    | (with_reducible first | rfl)
    | simp only [↓State.still_mk, ↓State.still_fold] | dsimp only | split

theorem State.packetFault_still (s : State) (f : FoldNo) (l : CoreNo) (i : Fin 23) (kind : Nat) :
    (State.packetFault s f l i kind).still = s.still := by
  unfold State.packetFault
  repeat first
    | (with_reducible first | rfl | refine (State.countFold_still ..).trans ?_
                            | refine (State.summary_still ..).trans ?_)
    | simp only [↓State.still_mk, ↓State.still_fold] | dsimp only | split

theorem State.sendMail_still (s : State) (from_ : Option FoldNo) (kind : Nat) (bad : Bool) (dst : BitVec 12) (dstTag : BitVec 16) (epoch : BitVec 16) (reference : BitVec 32) (addr : Word64) (payload : List Byte) :
    (State.sendMail s from_ kind bad dst dstTag epoch reference addr payload).still = s.still := by
  unfold State.sendMail
  repeat first
    | (with_reducible first | rfl | refine (State.countFold_still ..).trans ?_ | refine State.still_ite ?_ ?_)
    | simp only [↓State.still_mk, ↓State.still_fold] | dsimp only | split

theorem State.answerMail_still (s : State) (m : MailMsg) (kind : Nat) (epoch : BitVec 16) (addr : Word64) (payload : List Byte) :
    (State.answerMail s m kind epoch addr payload).still = s.still := by
  unfold State.answerMail
  repeat first
    | (with_reducible first | rfl | refine (State.sendMail_still ..).trans ?_ | refine State.still_ite ?_ ?_)
    | simp only [↓State.still_mk, ↓State.still_fold] | dsimp only | split

theorem State.setDs_still (s : State) (p : CoreNo) (d : DroverNo) (i : DStreamNo) (x : DStream) :
    (State.setDs s p d i x).still = s.still := by
  unfold State.setDs
  repeat first
    | (with_reducible first | rfl | refine (State.onCore_still ..).trans ?_)
    | simp only [↓State.still_mk, ↓State.still_fold] | dsimp only | split

theorem State.readBeat_still (s : State) (f : FoldNo) (l : CoreNo) (off len : Nat) :
    (State.readBeat s f l off len).1.still = s.still := by
  unfold State.readBeat
  repeat first
    | (with_reducible first | rfl | refine (State.events_still ..).trans ?_ | refine (State.onCore_still ..).trans ?_
                            | refine (State.log1_still ..).trans ?_ | refine State.still_ite ?_ ?_
                            | refine (State.still_foldl _ (fun _ _ => ?_) _ _).trans ?_
                            | refine (State.still_foldl1 _ (fun _ _ => ?_) _ _).trans ?_)
    | simp only [↓State.still_mk, ↓State.still_fold] | dsimp only | split

theorem State.startUnit_still (s : State) (p l : CoreNo) (d : DroverNo) (i : DStreamNo) :
    ((State.startUnit s p l d i).getD s).still = s.still := by
  unfold State.startUnit
  repeat first
    | (with_reducible first | rfl | refine (State.onCore_still ..).trans ?_ | refine (State.setDs_still ..).trans ?_
                            | refine (State.events_still ..).trans ?_ | refine (State.sendSched_still ..).trans ?_
                            | refine (State.sendMail_still ..).trans ?_ | refine State.still_ite ?_ ?_
                            | refine State.still_iteD ?_ ?_ | refine (State.still_getD ..).trans ?_
                            | refine (State.still_getD0 ..).trans ?_)
    | simp only [↓State.still_mk, ↓State.still_fold] | dsimp only | split

theorem State.startUnit_someStill {s : State} {p l : CoreNo} {d : DroverNo} {i : DStreamNo} {t : State} (h : State.startUnit s p l d i = some t) :
    t.still = s.still := by
  have k := State.startUnit_still s p l d i
  rw [h] at k
  exact k

theorem State.startUnits_still (s : State) (p l : CoreNo) (d : DroverNo) (i : DStreamNo) (n : Nat) :
    (State.startUnits s p l d i n).still = s.still := by
  induction n generalizing s with
  | zero => rfl
  | succ n ih =>
    unfold State.startUnits
    split
    · exact (ih _).trans (State.startUnit_someStill (by assumption))
    · rfl

theorem State.storeAt_still (s : State) (f : FoldNo) (l : CoreNo) (m off : Nat) (bs : List MByte) (own : List Nat) :
    (State.storeAt s f l m off bs own).1.still = s.still := by
  unfold State.storeAt
  repeat first
    | (with_reducible first | rfl | refine (State.events_still ..).trans ?_ | refine (State.onCore_still ..).trans ?_
                            | refine State.still_ite ?_ ?_ | refine (State.still_foldl _ (fun _ _ => ?_) _ _).trans ?_
                            | refine (State.still_foldl1 _ (fun _ _ => ?_) _ _).trans ?_)
    | simp only [↓State.still_mk, ↓State.still_fold] | dsimp only | split

theorem State.droverPost_still (s : State) (p l : CoreNo) (d : DroverNo) (i : DStreamNo) (u : UnitFl) (bad : Bool) (m : Nat) :
    (State.droverPost s p l d i u bad m).still = s.still := by
  unfold State.droverPost
  repeat first
    | (with_reducible first | rfl | refine (State.sendSched_still ..).trans ?_
                            | refine (State.events_still ..).trans ?_ | refine (State.setDs_still ..).trans ?_
                            | refine (State.onCore_still ..).trans ?_ | refine State.still_ite ?_ ?_)
    | simp only [↓State.still_mk, ↓State.still_fold] | dsimp only | split

theorem State.deliver_still (s : State) (p : CoreNo) (f : FoldNo) (ctx : Word256) (u : UnitFl) (bs : List MByte) (m : Nat) :
    (State.deliver s p f ctx u bs m).still = s.still := by
  unfold State.deliver
  repeat first
    | (with_reducible first | rfl | refine (State.onCoreE_still ..).trans ?_ | refine (State.onCore_still ..).trans ?_
                            | refine (State.readBeat_still ..).trans ?_ | refine (State.events_still ..).trans ?_
                            | refine (State.onFold_still ..).trans ?_ | refine State.still_ite ?_ ?_)
    | simp only [↓State.still_mk, ↓State.still_fold] | dsimp only | split

theorem State.setUnit_still (s : State) (p : CoreNo) (d : DroverNo) (i : DStreamNo) (k : Nat) (u : UnitFl) :
    (State.setUnit s p d i k u).still = s.still := by
  unfold State.setUnit
  repeat first
    | (with_reducible first | rfl | refine (State.setDs_still ..).trans ?_)
    | simp only [↓State.still_mk, ↓State.still_fold] | dsimp only | split

theorem State.convert_still (s : State) (p l : CoreNo) (f : FoldNo) (ctx : Word256) (u : UnitFl) (pos m : Nat) (bs : List MByte) :
    (State.convert s p l f ctx u pos m bs).1.still = s.still := by
  unfold State.convert
  repeat first
    | (with_reducible first | rfl | refine (State.events_still ..).trans ?_)
    | simp only [↓State.still_mk, ↓State.still_fold] | dsimp only | split

theorem State.finishUnit_still (s : State) (p l : CoreNo) (d : DroverNo) (i : DStreamNo) (k m : Nat) :
    (State.finishUnit s p l d i k m).still = s.still := by
  unfold State.finishUnit
  repeat first
    | (with_reducible first | rfl | refine (State.events_still ..).trans ?_ | refine (State.onCore_still ..).trans ?_
                            | refine (State.convert_still ..).trans ?_ | refine (State.deliver_still ..).trans ?_
                            | refine (State.setDs_still ..).trans ?_ | refine (State.droverPost_still ..).trans ?_
                            | refine State.still_ite ?_ ?_ | refine (State.still_foldl _ (fun _ _ => ?_) _ _).trans ?_
                            | refine (State.still_foldl1 _ (fun _ _ => ?_) _ _).trans ?_)
    | simp only [↓State.still_mk, ↓State.still_fold] | dsimp only | split

theorem State.sendRows_still (s : State) (p l : CoreNo) (f : FoldNo) (a : Word64) (m off : Nat) (bs : List MByte) :
    (State.sendRows s p l f a m off bs).still = s.still := by
  unfold State.sendRows
  repeat first
    | (with_reducible first | rfl | refine (State.events_still ..).trans ?_
                            | refine (State.sendSched_still ..).trans ?_
                            | refine (State.still_foldl _ (fun _ _ => ?_) _ _).trans ?_
                            | refine (State.still_foldl1 _ (fun _ _ => ?_) _ _).trans ?_)
    | simp only [↓State.still_mk, ↓State.still_fold] | dsimp only | split

theorem State.storePart_still (s : State) (p l : CoreNo) (f : FoldNo) (ctx : Word256) (u : UnitFl) (m : Nat) (lost : Bool) (part : Nat × List MByte) (own : List Nat) :
    (State.storePart s p l f ctx u m lost part own).1.still = s.still := by
  unfold State.storePart
  repeat first
    | (with_reducible first | rfl | refine (State.convert_still ..).trans ?_
                            | refine (State.storeAt_still ..).trans ?_ | refine (State.sendRows_still ..).trans ?_
                            | refine State.still_ite ?_ ?_)
    | simp only [↓State.still_mk, ↓State.still_fold] | dsimp only | split

theorem State.landBeat_still (s : State) (p l : CoreNo) (d : DroverNo) (i : DStreamNo) (k m : Nat) (lost : Bool) :
    (State.landBeat s p l d i k m lost).still = s.still := by
  unfold State.landBeat
  repeat first
    | (with_reducible first | rfl | refine (State.finishUnit_still ..).trans ?_
                            | refine (State.storePart_still ..).trans ?_ | refine (State.setUnit_still ..).trans ?_
                            | refine State.still_ite ?_ ?_ | refine (State.still_foldl _ (fun _ _ => ?_) _ _).trans ?_
                            | refine (State.still_foldl1 _ (fun _ _ => ?_) _ _).trans ?_)
    | simp only [↓State.still_mk, ↓State.still_fold] | dsimp only | split

theorem State.captureUnit_still (s : State) (p : CoreNo) (f : FoldNo) (u : UnitFl) :
    (State.captureUnit s p f u).1.still = s.still := by
  unfold State.captureUnit
  repeat first
    | (with_reducible first | rfl | refine (State.events_still ..).trans ?_ | refine State.still_ite ?_ ?_)
    | simp only [↓State.still_mk, ↓State.still_fold] | dsimp only | split

theorem State.grantRead_still (s : State) (l p : CoreNo) (free : Nat) (k : Cand) :
    (State.grantRead s l p free k).1.still = s.still := by
  unfold State.grantRead
  repeat first
    | (with_reducible first | rfl | refine (State.captureUnit_still ..).trans ?_
                            | refine (State.readBeat_still ..).trans ?_ | refine (State.setUnit_still ..).trans ?_
                            | refine (State.onCore_still ..).trans ?_ | refine (State.events_still ..).trans ?_
                            | refine State.still_ite ?_ ?_)
    | simp only [↓State.still_mk, ↓State.still_fold] | dsimp only | split

theorem State.grantWrite_still (s : State) (p : CoreNo) (free : Nat) (k : Cand) :
    (State.grantWrite s p free k).1.still = s.still := by
  unfold State.grantWrite
  repeat first
    | (with_reducible first | rfl | refine (State.setUnit_still ..).trans ?_ | refine (State.onCore_still ..).trans ?_
                            | refine (State.landBeat_still ..).trans ?_ | refine (State.events_still ..).trans ?_
                            | refine State.still_ite ?_ ?_)
    | simp only [↓State.still_mk, ↓State.still_fold] | dsimp only | split

theorem State.fetchBeat_still (s : State) (p l : CoreNo) (d : DroverNo) (i : DStreamNo) :
    (State.fetchBeat s p l d i).still = s.still := by
  unfold State.fetchBeat
  repeat first
    | (with_reducible first | rfl | refine (State.readBeat_still ..).trans ?_
                            | refine (State.onCore_still ..).trans ?_ | refine (State.setDs_still ..).trans ?_
                            | refine (State.events_still ..).trans ?_)
    | simp only [↓State.still_mk, ↓State.still_fold] | dsimp only | split

theorem State.fetchDescs_still (s : State) (p l : CoreNo) (d : DroverNo) (i : DStreamNo) (free : Nat) :
    (State.fetchDescs s p l d i free).1.still = s.still := by
  unfold State.fetchDescs
  repeat first
    | (with_reducible first | rfl | refine (State.setDs_still ..).trans ?_
                            | refine (State.fetchBeat_still ..).trans ?_ | refine State.still_ite ?_ ?_
                            | refine (State.still_foldl _ (fun _ _ => ?_) _ _).trans ?_
                            | refine (State.still_foldl1 _ (fun _ _ => ?_) _ _).trans ?_)
    | simp only [↓State.still_mk, ↓State.still_fold] | dsimp only | split

theorem State.fetchIndex_still (s : State) (p l : CoreNo) (d : DroverNo) (i : DStreamNo) (free : Nat) :
    (State.fetchIndex s p l d i free).1.still = s.still := by
  unfold State.fetchIndex
  repeat first
    | (with_reducible first | rfl | refine (State.readBeat_still ..).trans ?_ | refine (State.setDs_still ..).trans ?_
                            | refine (State.events_still ..).trans ?_ | refine State.still_ite ?_ ?_
                            | refine (State.still_foldl _ (fun _ _ => ?_) _ _).trans ?_
                            | refine (State.still_foldl1 _ (fun _ _ => ?_) _ _).trans ?_)
    | simp only [↓State.still_mk, ↓State.still_fold] | dsimp only | split

theorem State.fetchBeats_still (s : State) (p l : CoreNo) (d : DroverNo) (i : DStreamNo) (free : Nat) :
    (State.fetchBeats s p l d i free).1.still = s.still := by
  unfold State.fetchBeats
  repeat first
    | (with_reducible first | rfl | refine (State.fetchDescs_still ..).trans ?_
                            | refine (State.fetchIndex_still ..).trans ?_)
    | simp only [↓State.still_mk, ↓State.still_fold] | dsimp only | split

theorem State.gatherBeat_still (s : State) (l p : CoreNo) (k : SchedPacket) :
    (State.gatherBeat s l p k).still = s.still := by
  unfold State.gatherBeat
  repeat first
    | (with_reducible first | rfl | refine (State.readBeat_still ..).trans ?_
                            | refine (State.events_still ..).trans ?_ | refine (State.countFold_still ..).trans ?_
                            | refine (State.sendSched_still ..).trans ?_ | refine State.still_ite ?_ ?_)
    | simp only [↓State.still_mk, ↓State.still_fold] | dsimp only | split

theorem State.mailNotServed_still (s : State) (l : CoreNo) (g : Nat × FoldNo × MailMsg) :
    (State.mailNotServed s l g).still = s.still := by
  unfold State.mailNotServed
  repeat first
    | (with_reducible first | rfl | refine (State.answerMail_still ..).trans ?_
                            | refine (State.countFold_still ..).trans ?_)
    | simp only [↓State.still_mk, ↓State.still_fold] | dsimp only | split

theorem State.takeRow_still (s : State) (p : CoreNo) :
    (State.takeRow s p).1.still = s.still := by
  unfold State.takeRow
  repeat first
    | (with_reducible first | rfl | refine (State.onCore_still ..).trans ?_ | refine State.still_ite ?_ ?_)
    | simp only [↓State.still_mk, ↓State.still_fold] | dsimp only | split

theorem State.mailGrant_still (s : State) (l p : CoreNo) (due : List (Nat × FoldNo × MailMsg)) :
    (State.mailGrant s l p due).still = s.still := by
  unfold State.mailGrant
  repeat first
    | (with_reducible first | rfl | refine (State.events_still ..).trans ?_ | refine (State.takeRow_still ..).trans ?_
                            | refine (State.mailNotServed_still ..).trans ?_
                            | refine (State.readBeat_still ..).trans ?_ | refine (State.countFold_still ..).trans ?_
                            | refine (State.sendMail_still ..).trans ?_ | refine State.still_ite ?_ ?_)
    | simp only [↓State.still_mk, ↓State.still_fold] | dsimp only | split

theorem State.mailService_still (s : State) (l p : CoreNo) (free : Nat) :
    (State.mailService s l p free).1.still = s.still := by
  unfold State.mailService
  repeat first
    | (with_reducible first | rfl | refine (State.mailNotServed_still ..).trans ?_
                            | refine (State.mailGrant_still ..).trans ?_ | refine State.still_ite ?_ ?_
                            | refine (State.still_foldl _ (fun _ _ => ?_) _ _).trans ?_
                            | refine (State.still_foldl1 _ (fun _ _ => ?_) _ _).trans ?_)
    | simp only [↓State.still_mk, ↓State.still_fold] | dsimp only | split

theorem State.cancelFold_still (s : State) (f : FoldNo) :
    (State.cancelFold s f).still = s.still := by
  unfold State.cancelFold
  repeat first
    | (with_reducible first | rfl | refine (State.onCoreE_still ..).trans ?_
                            | refine (State.still_foldl _ (fun _ _ => ?_) _ _).trans ?_
                            | refine (State.still_foldl1 _ (fun _ _ => ?_) _ _).trans ?_)
    | simp only [↓State.still_mk, ↓State.still_fold] | dsimp only | split

theorem State.formParity_still (s : State) :
    (State.formParity s).still = s.still := by
  unfold State.formParity
  repeat first
    | (with_reducible first | rfl | refine (State.onCore_still ..).trans ?_
                            | refine (State.still_foldl _ (fun _ _ => ?_) _ _).trans ?_
                            | refine (State.still_foldl1 _ (fun _ _ => ?_) _ _).trans ?_)
    | simp only [↓State.still_mk, ↓State.still_fold] | dsimp only | split

theorem State.scrubWord_still (s : State) (p : CoreNo) (w : Nat) :
    (State.scrubWord s p w).still = s.still := by
  unfold State.scrubWord
  repeat first
    | (with_reducible first | rfl | refine (State.events_still ..).trans ?_ | refine (State.onCore_still ..).trans ?_
                            | refine (State.log1_still ..).trans ?_ | refine State.still_ite ?_ ?_)
    | simp only [↓State.still_mk, ↓State.still_fold] | dsimp only | split

theorem State.scrub_still (s : State) (p : CoreNo) (upsets : List (Nat × Nat)) :
    (State.scrub s p upsets).still = s.still := by
  unfold State.scrub
  repeat first
    | (with_reducible first | rfl | refine (State.onCore_still ..).trans ?_
                            | refine (State.scrubWord_still ..).trans ?_ | refine State.still_ite ?_ ?_
                            | refine (State.still_foldl _ (fun _ _ => ?_) _ _).trans ?_
                            | refine (State.still_foldl1 _ (fun _ _ => ?_) _ _).trans ?_)
    | simp only [↓State.still_mk, ↓State.still_fold] | dsimp only | split

theorem State.repairWords_still (s : State) (l : CoreNo) :
    (State.repairWords s l).still = s.still := by
  unfold State.repairWords
  repeat first
    | (with_reducible first | rfl | refine (State.onCore_still ..).trans ?_ | refine (State.log1_still ..).trans ?_
                            | refine State.still_ite ?_ ?_ | refine (State.still_foldl _ (fun _ _ => ?_) _ _).trans ?_
                            | refine (State.still_foldl1 _ (fun _ _ => ?_) _ _).trans ?_)
    | simp only [↓State.still_mk, ↓State.still_fold] | dsimp only | split

theorem State.nop_still (s : State) (l : CoreNo) (i : Issuer) :
    (State.nop s l i).still = s.still := by
  unfold State.nop
  repeat first
    | (with_reducible first | rfl | refine (State.onCore_still ..).trans ?_)
    | simp only [↓State.still_mk, ↓State.still_fold] | dsimp only | split

theorem State.waitt_still (s : State) (l : CoreNo) (i : Issuer) :
    (State.waitt s l i).still = s.still := by
  unfold State.waitt
  repeat first
    | (with_reducible first | rfl | refine (State.onCore_still ..).trans ?_)
    | simp only [↓State.still_mk, ↓State.still_fold] | dsimp only | split

theorem State.mark_still (s : State) (l : CoreNo) (i : Issuer) :
    (State.mark s l i).still = s.still := by
  unfold State.mark
  repeat first
    | (with_reducible first | rfl | refine (State.onCore_still ..).trans ?_)
    | simp only [↓State.still_mk, ↓State.still_fold] | dsimp only | split

theorem State.loop_still (s : State) (l : CoreNo) (i : Issuer) :
    (State.loop s l i).still = s.still := by
  unfold State.loop
  repeat first
    | (with_reducible first | rfl | refine (State.onCore_still ..).trans ?_)
    | simp only [↓State.still_mk, ↓State.still_fold] | dsimp only | split

theorem State.release_still (s : State) (l : CoreNo) (i : Issuer) :
    (State.release s l i).still = s.still := by
  unfold State.release
  repeat first
    | (with_reducible first | rfl | refine (State.onCoreE_still ..).trans ?_ | refine State.still_ite ?_ ?_)
    | simp only [↓State.still_mk, ↓State.still_fold] | dsimp only | split

theorem State.endp_still (s : State) (l : CoreNo) (i : Issuer) :
    (State.endp s l i).still = s.still := by
  unfold State.endp
  repeat first
    | (with_reducible first | rfl | refine (State.onCore_still ..).trans ?_)
    | simp only [↓State.still_mk, ↓State.still_fold] | dsimp only | split

theorem State.take_still (s : State) (l : CoreNo) (i : Issuer) :
    (State.take s l i).still = s.still := by
  unfold State.take
  repeat first
    | (with_reducible first | rfl | refine (State.onCore_still ..).trans ?_)
    | simp only [↓State.still_mk, ↓State.still_fold] | dsimp only | split

theorem State.takeCompletion_still (s : State) (l : CoreNo) (i : Issuer) :
    (State.takeCompletion s l i).still = s.still := by
  unfold State.takeCompletion
  repeat first
    | (with_reducible first | rfl | refine (State.take_still ..).trans ?_ | refine (State.onCore_still ..).trans ?_)
    | simp only [↓State.still_mk, ↓State.still_fold] | dsimp only | split

theorem State.sendHandle_still (s : State) (p target : CoreNo) (g : GateNo) (h : Handle) :
    (State.sendHandle s p target g h).still = s.still := by
  unfold State.sendHandle
  repeat first
    | (with_reducible first | rfl | refine (State.events_still ..).trans ?_ | refine (State.onCore_still ..).trans ?_
                            | refine State.still_ite ?_ ?_)
    | simp only [↓State.still_mk, ↓State.still_fold] | dsimp only | split

theorem State.postFar_still (s : State) (p l : CoreNo) (m : BitVec 12) (target : CoreNo) (g : GateNo) (h : Handle) :
    (State.postFar s p l m target g h).still = s.still := by
  unfold State.postFar
  repeat first
    | (with_reducible first | rfl | refine (State.sendSched_still ..).trans ?_
                            | refine (State.events_still ..).trans ?_ | refine State.still_ite ?_ ?_)
    | simp only [↓State.still_mk, ↓State.still_fold] | dsimp only | split

theorem State.post_still (s : State) (l : CoreNo) (i : Issuer) :
    (State.post s l i).still = s.still := by
  unfold State.post
  repeat first
    | (with_reducible first | rfl | refine (State.postFar_still ..).trans ?_ | refine (State.onCore_still ..).trans ?_
                            | refine (State.sendHandle_still ..).trans ?_ | refine State.still_ite ?_ ?_)
    | simp only [↓State.still_mk, ↓State.still_fold] | dsimp only | split

theorem State.postHoldRelease_still (s : State) (l : CoreNo) (h : Holder) :
    (State.postHoldRelease s l h).still = s.still := by
  unfold State.postHoldRelease
  repeat first
    | (with_reducible first | rfl | refine (State.post_still ..).trans ?_ | refine (State.onCore_still ..).trans ?_
                            | refine (State.setDs_still ..).trans ?_ | refine State.still_ite ?_ ?_)
    | simp only [↓State.still_mk, ↓State.still_fold] | dsimp only | split

theorem State.handleArrival_still (s : State) (l : CoreNo) :
    (State.handleArrival s l).still = s.still := by
  unfold State.handleArrival
  repeat first
    | (with_reducible first | rfl | refine (State.onCoreE_still ..).trans ?_ | refine State.still_ite ?_ ?_)
    | simp only [↓State.still_mk, ↓State.still_fold] | dsimp only | split

theorem State.laneIssue_still (s : State) (l : CoreNo) (i : Issuer) (op : Nat) :
    (State.laneIssue s l i op).still = s.still := by
  unfold State.laneIssue
  repeat first
    | (with_reducible first | rfl | refine (State.onCoreE_still ..).trans ?_ | refine State.still_ite ?_ ?_)
    | simp only [↓State.still_mk, ↓State.still_fold] | dsimp only | split

theorem State.statIssue_still (s : State) (l : CoreNo) (i : Issuer) (op : Nat) :
    (State.statIssue s l i op).still = s.still := by
  unfold State.statIssue
  repeat first
    | (with_reducible first | rfl | refine (State.onCoreE_still ..).trans ?_ | refine State.still_ite ?_ ?_)
    | simp only [↓State.still_mk, ↓State.still_fold] | dsimp only | split

theorem State.currierResultLand_still (s : State) (l : CoreNo) :
    (State.currierResultLand s l).still = s.still := by
  unfold State.currierResultLand
  repeat first
    | (with_reducible first | rfl | refine (State.onCoreE_still ..).trans ?_
                            | refine (State.still_foldl _ (fun _ _ => ?_) _ _).trans ?_
                            | refine (State.still_foldl1 _ (fun _ _ => ?_) _ _).trans ?_)
    | simp only [↓State.still_mk, ↓State.still_fold] | dsimp only | split

theorem State.strayIssue_still (s : State) (l : CoreNo) (weight : Bool) :
    (State.strayIssue s l weight).still = s.still := by
  unfold State.strayIssue
  repeat first
    | (with_reducible first | rfl | refine (State.onCoreE_still ..).trans ?_ | refine State.still_ite ?_ ?_)
    | simp only [↓State.still_mk, ↓State.still_fold] | dsimp only | split

theorem State.bselOp_still (s : State) (l : CoreNo) :
    (State.bselOp s l).still = s.still := by
  unfold State.bselOp
  repeat first
    | (with_reducible first | rfl | refine (State.onCoreE_still ..).trans ?_ | refine State.still_ite ?_ ?_)
    | simp only [↓State.still_mk, ↓State.still_fold] | dsimp only | split

theorem State.thrdOp_still (s : State) (l : CoreNo) :
    (State.thrdOp s l).still = s.still := by
  unfold State.thrdOp
  repeat first
    | (with_reducible first | rfl | refine (State.onCoreE_still ..).trans ?_)
    | simp only [↓State.still_mk, ↓State.still_fold] | dsimp only | split

theorem State.sectionClose_still (s : State) (l : CoreNo) :
    (State.sectionClose s l).still = s.still := by
  unfold State.sectionClose
  repeat first
    | (with_reducible first | rfl | refine (State.onCoreE_still ..).trans ?_ | refine State.still_ite ?_ ?_)
    | simp only [↓State.still_mk, ↓State.still_fold] | dsimp only | split

theorem State.tldOp_still (s : State) (l : CoreNo) (j : ThreadNo) :
    (State.tldOp s l j).still = s.still := by
  unfold State.tldOp
  repeat first
    | (with_reducible first | rfl | refine (State.readBeat_still ..).trans ?_
                            | refine (State.onCore_still ..).trans ?_ | refine State.still_ite ?_ ?_)
    | simp only [↓State.still_mk, ↓State.still_fold] | dsimp only | split

theorem State.threadLoadLand_still (s : State) (l : CoreNo) :
    (State.threadLoadLand s l).still = s.still := by
  unfold State.threadLoadLand
  repeat first
    | (with_reducible first | rfl | refine (State.onCore_still ..).trans ?_ | refine (State.take_still ..).trans ?_
                            | refine (State.still_foldl _ (fun _ _ => ?_) _ _).trans ?_
                            | refine (State.still_foldl1 _ (fun _ _ => ?_) _ _).trans ?_)
    | simp only [↓State.still_mk, ↓State.still_fold] | dsimp only | split

theorem State.thendOp_still (s : State) (l : CoreNo) (j : ThreadNo) :
    (State.thendOp s l j).still = s.still := by
  unfold State.thendOp
  repeat first
    | (with_reducible first | rfl | refine (State.onCore_still ..).trans ?_)
    | simp only [↓State.still_mk, ↓State.still_fold] | dsimp only | split

theorem State.passOp_still (s : State) (l : CoreNo) (half : Bool) :
    (State.passOp s l half).still = s.still := by
  unfold State.passOp
  repeat first
    | (with_reducible first | rfl | refine (State.onCoreE_still ..).trans ?_ | refine State.still_ite ?_ ?_)
    | simp only [↓State.still_mk, ↓State.still_fold] | dsimp only | split

theorem State.wpassOp_still (s : State) (l : CoreNo) :
    (State.wpassOp s l).still = s.still := by
  unfold State.wpassOp
  repeat first
    | (with_reducible first | rfl | refine (State.onCoreE_still ..).trans ?_)
    | simp only [↓State.still_mk, ↓State.still_fold] | dsimp only | split

theorem State.passSlotUpdate_still (s : State) (l : CoreNo) :
    (State.passSlotUpdate s l).still = s.still := by
  unfold State.passSlotUpdate
  repeat first
    | (with_reducible first | rfl | refine (State.onCoreE_still ..).trans ?_ | refine State.still_ite ?_ ?_)
    | simp only [↓State.still_mk, ↓State.still_fold] | dsimp only | split

theorem State.hazardHold_still (s : State) (l : CoreNo) :
    (State.hazardHold s l).still = s.still := by
  unfold State.hazardHold
  repeat first
    | (with_reducible first | rfl | refine (State.onCoreE_still ..).trans ?_ | refine State.still_ite ?_ ?_)
    | simp only [↓State.still_mk, ↓State.still_fold] | dsimp only | split

theorem State.clearOp_still (s : State) (l : CoreNo) :
    (State.clearOp s l).still = s.still := by
  unfold State.clearOp
  repeat first
    | (with_reducible first | rfl | refine (State.onCore_still ..).trans ?_ | refine State.still_ite ?_ ?_)
    | simp only [↓State.still_mk, ↓State.still_fold] | dsimp only | split

theorem State.spillOp_still (s : State) (l : CoreNo) (first : Bool) :
    (State.spillOp s l first).still = s.still := by
  unfold State.spillOp
  repeat first
    | (with_reducible first | rfl | refine (State.onCoreE_still ..).trans ?_ | refine State.still_ite ?_ ?_)
    | simp only [↓State.still_mk, ↓State.still_fold] | dsimp only | split

theorem State.readOp_still (s : State) (l : CoreNo) :
    (State.readOp s l).still = s.still := by
  unfold State.readOp
  repeat first
    | (with_reducible first | rfl | refine (State.onCoreE_still ..).trans ?_)
    | simp only [↓State.still_mk, ↓State.still_fold] | dsimp only | split

theorem State.spillWalkRow_still (s : State) (l : CoreNo) :
    (State.spillWalkRow s l).still = s.still := by
  unfold State.spillWalkRow
  repeat first
    | (with_reducible first | rfl | refine (State.onCore_still ..).trans ?_ | refine State.still_ite ?_ ?_)
    | simp only [↓State.still_mk, ↓State.still_fold] | dsimp only | split

theorem State.supplyRow_still (s : State) (p l : CoreNo) (d : DroverNo) (i : DStreamNo) (fmt : Fmt) (es : List Elem) :
    (State.supplyRow s p l d i fmt es).still = s.still := by
  unfold State.supplyRow
  repeat first
    | (with_reducible first | rfl | refine (State.events_still ..).trans ?_ | refine (State.take_still ..).trans ?_
                            | refine (State.onCore_still ..).trans ?_ | refine (State.setDs_still ..).trans ?_
                            | refine State.still_ite ?_ ?_)
    | simp only [↓State.still_mk, ↓State.still_fold] | dsimp only | split

theorem State.readoutRowLeave_still (s : State) (l : CoreNo) :
    (State.readoutRowLeave s l).still = s.still := by
  unfold State.readoutRowLeave
  repeat first
    | (with_reducible first | rfl | refine (State.events_still ..).trans ?_ | refine (State.onCoreE_still ..).trans ?_
                            | refine (State.onCore_still ..).trans ?_ | refine (State.supplyRow_still ..).trans ?_
                            | refine State.still_ite ?_ ?_)
    | simp only [↓State.still_mk, ↓State.still_fold] | dsimp only | split

theorem State.wloadOp_still (s : State) (l : CoreNo) :
    (State.wloadOp s l).still = s.still := by
  unfold State.wloadOp
  repeat first
    | (with_reducible first | rfl | refine (State.onCoreE_still ..).trans ?_ | refine (State.setDs_still ..).trans ?_)
    | simp only [↓State.still_mk, ↓State.still_fold] | dsimp only | split

theorem State.startOp_still (s : State) (l : CoreNo) (armOnly : Bool) :
    (State.startOp s l armOnly).still = s.still := by
  unfold State.startOp
  repeat first
    | (with_reducible first | rfl | refine (State.onCoreE_still ..).trans ?_ | refine (State.setDs_still ..).trans ?_
                            | refine State.still_ite ?_ ?_)
    | simp only [↓State.still_mk, ↓State.still_fold] | dsimp only | split

theorem State.rearmOp_still (s : State) (l : CoreNo) :
    (State.rearmOp s l).still = s.still := by
  unfold State.rearmOp
  repeat first
    | (with_reducible first | rfl | refine (State.onCoreE_still ..).trans ?_ | refine (State.setDs_still ..).trans ?_
                            | refine State.still_ite ?_ ?_)
    | simp only [↓State.still_mk, ↓State.still_fold] | dsimp only | split

theorem State.stopOp_still (s : State) (l : CoreNo) :
    (State.stopOp s l).still = s.still := by
  unfold State.stopOp
  repeat first
    | (with_reducible first | rfl | refine (State.onCore_still ..).trans ?_ | refine (State.setDs_still ..).trans ?_
                            | refine State.still_ite ?_ ?_)
    | simp only [↓State.still_mk, ↓State.still_fold] | dsimp only | split

theorem State.fetchAll_still (s : State) (p l : CoreNo) (free : Nat) :
    (State.fetchAll s p l free).1.still = s.still := by
  unfold State.fetchAll
  repeat first
    | (with_reducible first | rfl | refine (State.fetchBeats_still ..).trans ?_ | refine State.still_ite ?_ ?_
                            | refine (State.still_foldl _ (fun _ _ => ?_) _ _).trans ?_
                            | refine (State.still_foldl1 _ (fun _ _ => ?_) _ _).trans ?_)
    | simp only [↓State.still_mk, ↓State.still_fold] | dsimp only | split

theorem State.grantReads_still (s : State) (l p : CoreNo) (free : Nat) :
    (State.grantReads s l p free).still = s.still := by
  unfold State.grantReads
  repeat first
    | (with_reducible first | rfl | refine (State.grantRead_still ..).trans ?_
                            | refine (State.onCore_still ..).trans ?_ | refine (State.gatherBeat_still ..).trans ?_
                            | refine State.still_ite ?_ ?_ | refine (State.still_foldl _ (fun _ _ => ?_) _ _).trans ?_
                            | refine (State.still_foldl1 _ (fun _ _ => ?_) _ _).trans ?_)
    | simp only [↓State.still_mk, ↓State.still_fold] | dsimp only | split

theorem State.portBeat_still (s : State) (p l : CoreNo) (i : StreamPort) :
    (State.portBeat s p l i).1.still = s.still := by
  unfold State.portBeat
  repeat first
    | (with_reducible first | rfl | refine (State.onCore_still ..).trans ?_ | refine (State.events_still ..).trans ?_
                            | refine (State.onSt_still ..).trans ?_ | refine State.still_ite ?_ ?_)
    | simp only [↓State.still_mk, ↓State.still_fold] | dsimp only | split

theorem State.portBeats_still (s : State) (p l : CoreNo) (free : Nat) :
    (State.portBeats s p l free).1.still = s.still := by
  unfold State.portBeats
  repeat first
    | (with_reducible first | rfl | refine (State.portBeat_still ..).trans ?_
                            | refine (State.onCore_still ..).trans ?_ | refine (State.events_still ..).trans ?_
                            | refine State.still_ite ?_ ?_ | refine (State.still_foldl _ (fun _ _ => ?_) _ _).trans ?_
                            | refine (State.still_foldl1 _ (fun _ _ => ?_) _ _).trans ?_)
    | simp only [↓State.still_mk, ↓State.still_fold] | dsimp only | split

theorem State.grantWrites_still (s : State) (l p : CoreNo) :
    (State.grantWrites s l p).still = s.still := by
  unfold State.grantWrites
  repeat first
    | (with_reducible first | rfl | refine (State.portBeats_still ..).trans ?_
                            | refine (State.grantWrite_still ..).trans ?_
                            | refine (State.still_foldl _ (fun _ _ => ?_) _ _).trans ?_
                            | refine (State.still_foldl1 _ (fun _ _ => ?_) _ _).trans ?_)
    | simp only [↓State.still_mk, ↓State.still_fold] | dsimp only | split

theorem State.grant_still (s : State) (l : CoreNo) (upsets : List (Nat × Nat)) :
    (State.grant s l upsets).still = s.still := by
  unfold State.grant
  repeat first
    | (with_reducible first | rfl | refine (State.onCore_still ..).trans ?_
                            | refine (State.grantWrites_still ..).trans ?_
                            | refine (State.mailService_still ..).trans ?_ | refine (State.fetchAll_still ..).trans ?_
                            | refine (State.startUnits_still ..).trans ?_
                            | refine (State.grantReads_still ..).trans ?_ | refine (State.setDs_still ..).trans ?_
                            | refine State.still_ite ?_ ?_ | refine (State.still_foldl _ (fun _ _ => ?_) _ _).trans ?_
                            | refine (State.still_foldl1 _ (fun _ _ => ?_) _ _).trans ?_)
    | simp only [↓State.still_mk, ↓State.still_fold] | dsimp only | split

theorem State.descriptors_still (s : State) (l : CoreNo) (d : DroverNo) :
    (State.descriptors s l d).still = s.still := by
  unfold State.descriptors
  repeat first
    | (with_reducible first | rfl | refine (State.setDs_still ..).trans ?_ | refine (State.events_still ..).trans ?_
                            | refine (State.still_foldl _ (fun _ _ => ?_) _ _).trans ?_
                            | refine (State.still_foldl1 _ (fun _ _ => ?_) _ _).trans ?_)
    | simp only [↓State.still_mk, ↓State.still_fold] | dsimp only | split

theorem State.landDue_still (s : State) (p : CoreNo) (n : Nat) (k : Due) :
    (State.landDue s p n k).1.still = s.still := by
  unfold State.landDue
  repeat first
    | (with_reducible first | rfl | refine (State.setDs_still ..).trans ?_ | refine (State.landBeat_still ..).trans ?_
                            | refine (State.events_still ..).trans ?_ | refine State.still_ite ?_ ?_)
    | simp only [↓State.still_mk, ↓State.still_fold] | dsimp only | split

theorem State.landing_still (s : State) (l : CoreNo) :
    (State.landing s l).still = s.still := by
  unfold State.landing
  repeat first
    | (with_reducible first | rfl | refine (State.landDue_still ..).trans ?_
                            | refine (State.still_foldl _ (fun _ _ => ?_) _ _).trans ?_
                            | refine (State.still_foldl1 _ (fun _ _ => ?_) _ _).trans ?_)
    | simp only [↓State.still_mk, ↓State.still_fold] | dsimp only | split

end Sys2Proof.Machine
end

