-- ==== Sys2Proof/Laws/FrameHall.lean ====
section
/-! SUPPORT. Frames of replay records, hall memory, the exchange and the status space. -/

set_option linter.unusedSimpArgs false

namespace Sys2Proof.Machine

theorem State.countPl_still (s : State) (p : PlantPort) (k : Fin 6) (n : Nat) :
    (State.countPl s p k n).still = s.still := by
  unfold State.countPl
  repeat first
    | (with_reducible first | rfl)
    | simp only [↓State.still_mk, ↓State.still_fold] | dsimp only | split

theorem State.record_still (s : State) (f : FoldNo) (kind port tick arrival : Nat) (payload : List Byte) :
    (State.record s f kind port tick arrival payload).still = s.still := by
  unfold State.record
  repeat first
    | (with_reducible first | rfl | refine (State.onFold_still ..).trans ?_ | refine (State.countPl_still ..).trans ?_
                            | refine State.still_ite ?_ ?_)
    | simp only [↓State.still_mk, ↓State.still_fold] | dsimp only | split

theorem State.schedArrive_still (s : State) (p : FabricPort) (k : SchedPacket) :
    (State.schedArrive s p k).still = s.still := by
  unfold State.schedArrive
  repeat first
    | (with_reducible first | rfl | refine (State.packetFault_still ..).trans ?_ | refine State.still_ite ?_ ?_)
    | simp only [↓State.still_mk, ↓State.still_fold] | dsimp only | split

theorem State.dropHeld_still (s : State) (h : HeldPacket) :
    (State.dropHeld s h).still = s.still := by
  unfold State.dropHeld
  repeat first
    | (with_reducible first | rfl)
    | simp only [↓State.still_mk, ↓State.still_fold] | dsimp only | split

theorem State.meetEntry_still (s : State) (f : FoldNo) (n : Nat) :
    (State.meetEntry s f n).still = s.still := by
  unfold State.meetEntry
  repeat first
    | (with_reducible first | rfl | refine (State.onFold_still ..).trans ?_)
    | simp only [↓State.still_mk, ↓State.still_fold] | dsimp only | split

theorem State.staleSched_still (s : State) (f : FoldNo) (h : HeldPacket) :
    (State.staleSched s f h).still = s.still := by
  unfold State.staleSched
  repeat first
    | (with_reducible first | rfl | refine (State.packetFault_still ..).trans ?_
                            | refine (State.sendMail_still ..).trans ?_ | refine State.still_ite ?_ ?_)
    | simp only [↓State.still_mk, ↓State.still_fold] | dsimp only | split

theorem State.landSched_still (s : State) (type : BitVec 4) (act : State → HeldPacket → FoldNo → State) (h : ∀ s k f, (act s k f).still = s.still) :
    (State.landSched s type act).still = s.still := by
  unfold State.landSched
  repeat first
    | (with_reducible first | rfl | refine (h ..).trans ?_ | refine (State.dropHeld_still ..).trans ?_
                            | refine (State.meetEntry_still ..).trans ?_
                            | refine (State.staleSched_still ..).trans ?_ | refine State.still_ite ?_ ?_)
    | simp only [↓State.still_mk, ↓State.still_fold] | dsimp only | split

theorem State.packetBeat_still (s : State) (p : CoreNo) (f : FoldNo) (l : CoreNo) (off : Nat) (bs : List MByte) :
    (State.packetBeat s p f l off bs).still = s.still := by
  unfold State.packetBeat
  repeat first
    | (with_reducible first | rfl | refine (State.events_still ..).trans ?_ | refine (State.onCore_still ..).trans ?_
                            | refine (State.storeAt_still ..).trans ?_ | refine State.still_ite ?_ ?_)
    | simp only [↓State.still_mk, ↓State.still_fold] | dsimp only | split

theorem State.writeAt_still (s : State) (f : FoldNo) (addr : Word64) (bs : List MByte) :
    (State.writeAt s f addr bs).still = s.still := by
  unfold State.writeAt
  repeat first
    | (with_reducible first | rfl | refine (State.events_still ..).trans ?_ | refine (State.onCoreE_still ..).trans ?_
                            | refine (State.packetBeat_still ..).trans ?_ | refine (State.take_still ..).trans ?_
                            | refine State.still_ite ?_ ?_ | refine (State.still_foldl _ (fun _ _ => ?_) _ _).trans ?_
                            | refine (State.still_foldl1 _ (fun _ _ => ?_) _ _).trans ?_)
    | simp only [↓State.still_mk, ↓State.still_fold] | dsimp only | split

theorem State.schedWriteOp_still (s : State) :
    (State.schedWriteOp s).still = s.still := by
  unfold State.schedWriteOp
  repeat first
    | (with_reducible first | rfl | refine (State.landSched_still _ _ _ (fun _ _ _ => ?_)).trans ?_
                            | refine (State.writeAt_still ..).trans ?_)
    | simp only [↓State.still_mk, ↓State.still_fold] | dsimp only | split

theorem State.requestAt_still (s : State) (h : HeldPacket) (f : FoldNo) :
    (State.requestAt s h f).still = s.still := by
  unfold State.requestAt
  repeat first
    | (with_reducible first | rfl | refine (State.sendSched_still ..).trans ?_
                            | refine (State.countFold_still ..).trans ?_ | refine (State.events_still ..).trans ?_
                            | refine (State.takeRow_still ..).trans ?_ | refine (State.onCore_still ..).trans ?_
                            | refine State.still_ite ?_ ?_)
    | simp only [↓State.still_mk, ↓State.still_fold] | dsimp only | split

theorem State.schedRequestOp_still (s : State) :
    (State.schedRequestOp s).still = s.still := by
  unfold State.schedRequestOp
  repeat first
    | (with_reducible first | rfl | refine (State.landSched_still _ _ _ (fun _ _ _ => ?_)).trans ?_
                            | refine (State.requestAt_still ..).trans ?_)
    | simp only [↓State.still_mk, ↓State.still_fold] | dsimp only | split

theorem State.respondAt_still (s : State) (f : FoldNo) (addr : Word64) (bs : List MByte) :
    (State.respondAt s f addr bs).still = s.still := by
  unfold State.respondAt
  repeat first
    | (with_reducible first | rfl | refine (State.setDs_still ..).trans ?_ | refine (State.take_still ..).trans ?_)
    | simp only [↓State.still_mk, ↓State.still_fold] | dsimp only | split

theorem State.schedResponseOp_still (s : State) :
    (State.schedResponseOp s).still = s.still := by
  unfold State.schedResponseOp
  repeat first
    | (with_reducible first | rfl | refine (State.landSched_still _ _ _ (fun _ _ _ => ?_)).trans ?_
                            | refine (State.respondAt_still ..).trans ?_)
    | simp only [↓State.still_mk, ↓State.still_fold] | dsimp only | split

theorem State.schedNotServedOp_still (s : State) :
    (State.schedNotServedOp s).still = s.still := by
  unfold State.schedNotServedOp
  repeat first
    | (with_reducible first | rfl | refine (State.landSched_still _ _ _ (fun _ _ _ => ?_)).trans ?_
                            | refine (State.respondAt_still ..).trans ?_
                            | refine (State.packetFault_still ..).trans ?_)
    | simp only [↓State.still_mk, ↓State.still_fold] | dsimp only | split

theorem State.postAt_still (s : State) (f : FoldNo) (addr : Word64) (h : Handle) (stamp : Nat) :
    (State.postAt s f addr h stamp).still = s.still := by
  unfold State.postAt
  repeat first
    | (with_reducible first | rfl | refine (State.post_still ..).trans ?_ | refine (State.events_still ..).trans ?_
                            | refine (State.onCore_still ..).trans ?_ | refine State.still_ite ?_ ?_)
    | simp only [↓State.still_mk, ↓State.still_fold] | dsimp only | split

theorem State.schedPostOp_still (s : State) :
    (State.schedPostOp s).still = s.still := by
  unfold State.schedPostOp
  repeat first
    | (with_reducible first | rfl | refine (State.landSched_still _ _ _ (fun _ _ _ => ?_)).trans ?_
                            | refine (State.postAt_still ..).trans ?_)
    | simp only [↓State.still_mk, ↓State.still_fold] | dsimp only | split

theorem State.substitute_still (s : State) (f : FoldNo) (e : Landing) :
    (State.substitute s f e).still = s.still := by
  unfold State.substitute
  repeat first
    | (with_reducible first | rfl | refine (State.writeAt_still ..).trans ?_
                            | refine (State.respondAt_still ..).trans ?_ | refine (State.postAt_still ..).trans ?_
                            | refine State.still_ite ?_ ?_)
    | simp only [↓State.still_mk, ↓State.still_fold] | dsimp only | split

theorem State.substituteOp_still (s : State) (l : CoreNo) :
    (State.substituteOp s l).still = s.still := by
  unfold State.substituteOp
  repeat first
    | (with_reducible first | rfl | refine (State.meetEntry_still ..).trans ?_
                            | refine (State.countFold_still ..).trans ?_ | refine (State.substitute_still ..).trans ?_)
    | simp only [↓State.still_mk, ↓State.still_fold] | dsimp only | split

theorem State.unexpectedOp_still (s : State) :
    (State.unexpectedOp s).still = s.still := by
  unfold State.unexpectedOp
  repeat first
    | (with_reducible first | rfl | refine (State.dropHeld_still ..).trans ?_
                            | refine (State.packetFault_still ..).trans ?_)
    | simp only [↓State.still_mk, ↓State.still_fold] | dsimp only | split

theorem State.countTag_still (s : State) (tag : BitVec 16) (i : Fin 23) :
    (State.countTag s tag i).still = s.still := by
  unfold State.countTag
  repeat first
    | (with_reducible first | rfl | refine (State.countFold_still ..).trans ?_)
    | simp only [↓State.still_mk, ↓State.still_fold] | dsimp only | split

theorem State.forward_still (s : State) (m : MailMsg) :
    (State.forward s m).still = s.still := by
  unfold State.forward
  repeat first
    | (with_reducible first | rfl | refine (State.countTag_still ..).trans ?_
                            | refine (State.answerMail_still ..).trans ?_ | refine State.still_ite ?_ ?_)
    | simp only [↓State.still_mk, ↓State.still_fold] | dsimp only | split

theorem State.onMail_still (s : State) (m : MailMsg) (act : State → State) (h : ∀ s, (act s).still = s.still) :
    (State.onMail s m act).still = s.still := by
  unfold State.onMail
  repeat first
    | (with_reducible first | rfl | refine (h ..).trans ?_ | refine (State.forward_still ..).trans ?_
                            | refine State.still_ite ?_ ?_)
    | simp only [↓State.still_mk, ↓State.still_fold] | dsimp only | split

theorem State.onMail_keep (s : State) (m : MailMsg) (act : State → State) (h : ∀ s, (act s).keep = s.keep) :
    (State.onMail s m act).keep = s.keep := by
  unfold State.onMail
  repeat first
    | (with_reducible first | rfl | refine (h ..).trans ?_
                            | refine (State.keep_of_still (State.forward_still ..)).trans ?_
                            | refine State.keep_ite ?_ ?_)
    | simp only [↓State.keep_mk, ↓State.keep_fold] | dsimp only | split

theorem State.mailWriteOp_still (s : State) (m : MailMsg) :
    (State.mailWriteOp s m).still = s.still := by
  unfold State.mailWriteOp
  repeat first
    | (with_reducible first | rfl | refine (State.onMail_still _ _ _ (fun _ => ?_)).trans ?_
                            | refine (State.answerMail_still ..).trans ?_ | refine (State.countTag_still ..).trans ?_
                            | refine (State.events_still ..).trans ?_ | refine State.still_ite ?_ ?_)
    | simp only [↓State.still_mk, ↓State.still_fold] | dsimp only | split

theorem State.staleMail_still (s : State) (f : FoldNo) (m : MailMsg) :
    (State.staleMail s f m).still = s.still := by
  unfold State.staleMail
  repeat first
    | (with_reducible first | rfl | refine (State.countFold_still ..).trans ?_
                            | refine (State.answerMail_still ..).trans ?_ | refine State.still_ite ?_ ?_)
    | simp only [↓State.still_mk, ↓State.still_fold] | dsimp only | split

theorem State.mailGatherOp_still (s : State) (m : MailMsg) :
    (State.mailGatherOp s m).still = s.still := by
  unfold State.mailGatherOp
  repeat first
    | (with_reducible first | rfl | refine (State.onMail_still _ _ _ (fun _ => ?_)).trans ?_
                            | refine (State.answerMail_still ..).trans ?_ | refine (State.countTag_still ..).trans ?_
                            | refine (State.events_still ..).trans ?_ | refine (State.staleMail_still ..).trans ?_
                            | refine State.still_ite ?_ ?_)
    | simp only [↓State.still_mk, ↓State.still_fold] | dsimp only | split

theorem State.learn_still (s : State) (m : MailMsg) :
    (State.learn s m).still = s.still := by
  unfold State.learn
  repeat first
    | (with_reducible first | rfl | refine State.still_ite ?_ ?_)
    | simp only [↓State.still_mk, ↓State.still_fold] | dsimp only | split

theorem State.gatherResponseOp_still (s : State) (m : MailMsg) :
    (State.gatherResponseOp s m).still = s.still := by
  unfold State.gatherResponseOp
  repeat first
    | (with_reducible first | rfl | refine (State.onMail_still _ _ _ (fun _ => ?_)).trans ?_
                            | refine (State.learn_still ..).trans ?_ | refine (State.countFold_still ..).trans ?_
                            | refine (State.countTag_still ..).trans ?_ | refine State.still_ite ?_ ?_)
    | simp only [↓State.still_mk, ↓State.still_fold] | dsimp only | split

theorem State.answerOp_still (s : State) (m : MailMsg) (ctr : Option (Fin 23)) :
    (State.answerOp s m ctr).still = s.still := by
  unfold State.answerOp
  repeat first
    | (with_reducible first | rfl | refine (State.onMail_still _ _ _ (fun _ => ?_)).trans ?_
                            | refine (State.learn_still ..).trans ?_ | refine (State.countTag_still ..).trans ?_)
    | simp only [↓State.still_mk, ↓State.still_fold] | dsimp only | split

theorem State.reservedKind_still (s : State) (m : MailMsg) :
    (State.reservedKind s m).still = s.still := by
  unfold State.reservedKind
  repeat first
    | (with_reducible first | rfl | refine (State.onMail_still _ _ _ (fun _ => ?_)).trans ?_
                            | refine (State.answerMail_still ..).trans ?_ | refine State.still_ite ?_ ?_)
    | simp only [↓State.still_mk, ↓State.still_fold] | dsimp only | split

theorem State.onSupervisor_still (s : State) (m : MailMsg) (act : State → State) (h : ∀ s, (act s).still = s.still) :
    (State.onSupervisor s m act).still = s.still := by
  unfold State.onSupervisor
  repeat first
    | (with_reducible first | rfl | refine (h ..).trans ?_
                            | refine (State.onMail_still _ _ _ (fun _ => ?_)).trans ?_
                            | refine (State.countTag_still ..).trans ?_
                            | refine (State.answerMail_still ..).trans ?_ | refine State.still_ite ?_ ?_)
    | simp only [↓State.still_mk, ↓State.still_fold] | dsimp only | split

theorem State.onSupervisor_keep (s : State) (m : MailMsg) (act : State → State) (h : ∀ s, (act s).keep = s.keep) :
    (State.onSupervisor s m act).keep = s.keep := by
  unfold State.onSupervisor
  repeat first
    | (with_reducible first | rfl | refine (h ..).trans ?_ | refine (State.onMail_keep _ _ _ (fun _ => ?_)).trans ?_
                            | refine (State.keep_of_still (State.countTag_still ..)).trans ?_
                            | refine (State.keep_of_still (State.answerMail_still ..)).trans ?_
                            | refine State.keep_ite ?_ ?_)
    | simp only [↓State.keep_mk, ↓State.keep_fold] | dsimp only | split

theorem State.fleeceWrite_still (s : State) (f : FoldNo) (l : CoreNo) (off : Nat) (bs : List MByte) :
    (State.fleeceWrite s f l off bs).still = s.still := by
  unfold State.fleeceWrite
  repeat first
    | (with_reducible first | rfl | refine (State.onCore_still ..).trans ?_ | refine State.still_ite ?_ ?_)
    | simp only [↓State.still_mk, ↓State.still_fold] | dsimp only | split

theorem State.deliverWrite_still (s : State) (w : HeldMail) :
    (State.deliverWrite s w).still = s.still := by
  unfold State.deliverWrite
  repeat first
    | (with_reducible first | rfl | refine (State.staleMail_still ..).trans ?_
                            | refine (State.fleeceWrite_still ..).trans ?_
                            | refine (State.countFold_still ..).trans ?_ | refine (State.record_still ..).trans ?_
                            | refine State.still_ite ?_ ?_)
    | simp only [↓State.still_mk, ↓State.still_fold] | dsimp only | split

theorem State.deliverRow_still (s : State) (a : MailGather) :
    (State.deliverRow s a).still = s.still := by
  unfold State.deliverRow
  repeat first
    | (with_reducible first | rfl | refine (State.fleeceWrite_still ..).trans ?_
                            | refine (State.record_still ..).trans ?_)
    | simp only [↓State.still_mk, ↓State.still_fold] | dsimp only | split

theorem State.replayMail_still (s : State) (f : FoldNo) (l : CoreNo) :
    (State.replayMail s f l).still = s.still := by
  unfold State.replayMail
  repeat first
    | (with_reducible first | rfl | refine (State.fleeceWrite_still ..).trans ?_ | refine State.still_ite ?_ ?_
                            | refine (State.still_foldl _ (fun _ _ => ?_) _ _).trans ?_
                            | refine (State.still_foldl1 _ (fun _ _ => ?_) _ _).trans ?_)
    | simp only [↓State.still_mk, ↓State.still_fold] | dsimp only | split

theorem State.writeOrDrop_still (s : State) (w : HeldMail) :
    (State.writeOrDrop s w).still = s.still := by
  unfold State.writeOrDrop
  repeat first
    | (with_reducible first | rfl | refine (State.countFold_still ..).trans ?_
                            | refine (State.deliverWrite_still ..).trans ?_ | refine State.still_ite ?_ ?_)
    | simp only [↓State.still_mk, ↓State.still_fold] | dsimp only | split

theorem State.rowOrDrop_still (s : State) (a : MailGather) :
    (State.rowOrDrop s a).still = s.still := by
  unfold State.rowOrDrop
  repeat first
    | (with_reducible first | rfl | refine (State.deliverRow_still ..).trans ?_ | refine State.still_ite ?_ ?_)
    | simp only [↓State.still_mk, ↓State.still_fold] | dsimp only | split

theorem State.deliveryWindow_still (s : State) (l : CoreNo) :
    (State.deliveryWindow s l).still = s.still := by
  unfold State.deliveryWindow
  repeat first
    | (with_reducible first | rfl | refine (State.onCore_still ..).trans ?_
                            | refine (State.writeOrDrop_still ..).trans ?_
                            | refine (State.rowOrDrop_still ..).trans ?_ | refine (State.replayMail_still ..).trans ?_
                            | refine State.still_ite ?_ ?_ | refine (State.still_foldl _ (fun _ _ => ?_) _ _).trans ?_
                            | refine (State.still_foldl1 _ (fun _ _ => ?_) _ _).trans ?_)
    | simp only [↓State.still_mk, ↓State.still_fold] | dsimp only | split

theorem State.sendControl_still (s : State) (f : FoldNo) (type : Nat) (m : BitVec 12) (bytes : List Byte) (stamp : Nat) :
    (State.sendControl s f type m bytes stamp).still = s.still := by
  unfold State.sendControl
  repeat first
    | (with_reducible first | rfl | refine (State.sendSched_still ..).trans ?_)
    | simp only [↓State.still_mk, ↓State.still_fold] | dsimp only | split

theorem State.sendReport_still (s : State) (f : FoldNo) :
    (State.sendReport s f).still = s.still := by
  unfold State.sendReport
  repeat first
    | (with_reducible first | rfl | refine (State.onFold_still ..).trans ?_
                            | refine (State.sendControl_still ..).trans ?_ | refine State.still_ite ?_ ?_
                            | refine (State.still_foldl _ (fun _ _ => ?_) _ _).trans ?_
                            | refine (State.still_foldl1 _ (fun _ _ => ?_) _ _).trans ?_)
    | simp only [↓State.still_mk, ↓State.still_fold] | dsimp only | split

theorem State.makeDecision_still (s : State) (f : FoldNo) (i : FoldImage) :
    (State.makeDecision s f i).still = s.still := by
  unfold State.makeDecision
  repeat first
    | (with_reducible first | rfl | refine (State.onFold_still ..).trans ?_
                            | refine (State.sendControl_still ..).trans ?_ | refine State.still_ite ?_ ?_
                            | refine (State.still_foldl _ (fun _ _ => ?_) _ _).trans ?_
                            | refine (State.still_foldl1 _ (fun _ _ => ?_) _ _).trans ?_)
    | simp only [↓State.still_mk, ↓State.still_fold] | dsimp only | split

theorem State.decideDue_still (s : State) :
    (State.decideDue s).still = s.still := by
  unfold State.decideDue
  repeat first
    | (with_reducible first | rfl | refine (State.makeDecision_still ..).trans ?_ | refine State.still_ite ?_ ?_
                            | refine (State.still_foldl _ (fun _ _ => ?_) _ _).trans ?_
                            | refine (State.still_foldl1 _ (fun _ _ => ?_) _ _).trans ?_)
    | simp only [↓State.still_mk, ↓State.still_fold] | dsimp only | split

theorem State.exchangeReportOp_still (s : State) :
    (State.exchangeReportOp s).still = s.still := by
  unfold State.exchangeReportOp
  repeat first
    | (with_reducible first | rfl | refine (State.dropHeld_still ..).trans ?_
                            | refine (State.onFold_still ..).trans ?_ | refine (State.decideDue_still ..).trans ?_
                            | refine State.still_ite ?_ ?_)
    | simp only [↓State.still_mk, ↓State.still_fold] | dsimp only | split

theorem State.exchangeDecisionOp_still (s : State) :
    (State.exchangeDecisionOp s).still = s.still := by
  unfold State.exchangeDecisionOp
  repeat first
    | (with_reducible first | rfl | refine (State.dropHeld_still ..).trans ?_
                            | refine (State.onFold_still ..).trans ?_ | refine State.still_ite ?_ ?_)
    | simp only [↓State.still_mk, ↓State.still_fold] | dsimp only | split

theorem State.takeSample_still (s : State) :
    (State.takeSample s).still = s.still := by
  unfold State.takeSample
  repeat first
    | (with_reducible first | rfl)
    | simp only [↓State.still_mk, ↓State.still_fold] | dsimp only | split

theorem State.snapshot_still (s : State) :
    (State.snapshot s).still = s.still := by
  unfold State.snapshot
  repeat first
    | (with_reducible first | rfl)
    | simp only [↓State.still_mk, ↓State.still_fold] | dsimp only | split

theorem State.latchPair_still (s : State) (addr : Nat) :
    (State.latchPair s addr).still = s.still := by
  unfold State.latchPair
  repeat first
    | (with_reducible first | rfl | refine State.still_ite ?_ ?_)
    | simp only [↓State.still_mk, ↓State.still_fold] | dsimp only | split

theorem State.endDigest_still (s : State) (addr : Nat) : (State.endDigest s addr).still = s.still := rfl

theorem State.readStatus_still (s : State) (addr : Nat) :
    (State.readStatus s addr).2.still = s.still := by
  unfold State.readStatus
  dsimp only
  split
  · rfl
  · exact (State.latchPair_still ..).trans (State.endDigest_still ..)

theorem State.putStatus_still (s : State) (addr : Nat) (v : Word32) :
    ((State.putStatus s addr v).getD s).still = s.still := by
  unfold State.putStatus
  repeat first
    | (with_reducible first | rfl | refine (State.onCore_still ..).trans ?_ | refine State.still_ite ?_ ?_
                            | refine State.still_iteD ?_ ?_ | refine (State.still_getD ..).trans ?_
                            | refine (State.still_getD0 ..).trans ?_)
    | simp only [↓State.still_mk, ↓State.still_fold] | dsimp only | split

theorem State.putStatus_someStill {s : State} {addr : Nat} {v : Word32} {t : State} (h : State.putStatus s addr v = some t) :
    t.still = s.still := by
  have k := State.putStatus_still s addr v
  rw [h] at k
  exact k

theorem State.countRefusedWrite_still (s : State) :
    (State.countRefusedWrite s).still = s.still := by
  unfold State.countRefusedWrite
  repeat first
    | (with_reducible first | rfl | refine (State.count_still ..).trans ?_)
    | simp only [↓State.still_mk, ↓State.still_fold] | dsimp only | split

theorem State.i3cWrite_still (s : State) (addr : Word32) (v : Word32) :
    (State.i3cWrite s addr v).still = s.still := by
  unfold State.i3cWrite
  by_cases hw : s.windowOpen
  · rw [if_pos hw]
    split
    · rename_i t h
      exact (State.putStatus_someStill h : t.still = s.still)
    · exact State.countRefusedWrite_still s
  · rw [if_neg hw]
    exact State.countRefusedWrite_still s

theorem State.pairLowOp_still (s : State) (addr : Word32) :
    (State.pairLowOp s addr).still = s.still :=
  (State.latchPair_still ..).trans (State.endDigest_still ..)

end Sys2Proof.Machine
end

