-- ==== Sys2Proof/Laws/FrameFold.lean ====
section
/-! SUPPORT. Frames of loads, core losses, the tack store, pens, folds, the crook and the log. -/

set_option linter.unusedSimpArgs false

namespace Sys2Proof.Machine

theorem State.onFoldCores_still (s : State) (f : FoldNo) (g : CoreNo → Core → Core) :
    (State.onFoldCores s f g).still = s.still := by
  unfold State.onFoldCores
  repeat first
    | (with_reducible first | rfl | refine (State.onCore_still ..).trans ?_
                            | refine (State.still_foldl _ (fun _ _ => ?_) _ _).trans ?_
                            | refine (State.still_foldl1 _ (fun _ _ => ?_) _ _).trans ?_)
    | simp only [↓State.still_mk, ↓State.still_fold] | dsimp only | split

theorem State.loadTablesOn_still (s : State) (f : FoldNo) (l : CoreNo) :
    (State.loadTablesOn s f l).still = s.still := by
  unfold State.loadTablesOn
  repeat first
    | (with_reducible first | rfl | refine (State.onCore_still ..).trans ?_ | refine State.still_ite ?_ ?_)
    | simp only [↓State.still_mk, ↓State.still_fold] | dsimp only | split

theorem State.loadGatesOn_still (s : State) (f : FoldNo) (l : CoreNo) :
    (State.loadGatesOn s f l).still = s.still := by
  unfold State.loadGatesOn
  repeat first
    | (with_reducible first | rfl | refine (State.onCore_still ..).trans ?_)
    | simp only [↓State.still_mk, ↓State.still_fold] | dsimp only | split

theorem State.loadRingsOn_still (s : State) (f : FoldNo) (l : CoreNo) :
    (State.loadRingsOn s f l).still = s.still := by
  unfold State.loadRingsOn
  repeat first
    | (with_reducible first | rfl | refine (State.onCore_still ..).trans ?_ | refine State.still_ite ?_ ?_)
    | simp only [↓State.still_mk, ↓State.still_fold] | dsimp only | split

theorem State.clearCores_still (s : State) (f : FoldNo) :
    (State.clearCores s f).still = s.still := by
  unfold State.clearCores
  repeat first
    | (with_reducible first | rfl | refine (State.onFoldCores_still ..).trans ?_)
    | simp only [↓State.still_mk, ↓State.still_fold] | dsimp only | split

theorem State.startOn_still (s : State) (f : FoldNo) (l : CoreNo) (base : Nat) :
    (State.startOn s f l base).still = s.still := by
  unfold State.startOn
  repeat first
    | (with_reducible first | rfl | refine (State.onCore_still ..).trans ?_ | refine State.still_ite ?_ ?_)
    | simp only [↓State.still_mk, ↓State.still_fold] | dsimp only | split

theorem State.startStreams_still (s : State) (f : FoldNo) :
    (State.startStreams s f).still = s.still := by
  unfold State.startStreams
  repeat first
    | (with_reducible first | rfl | refine (State.startOn_still ..).trans ?_ | refine State.still_ite ?_ ?_
                            | refine (State.still_foldl _ (fun _ _ => ?_) _ _).trans ?_
                            | refine (State.still_foldl1 _ (fun _ _ => ?_) _ _).trans ?_)
    | simp only [↓State.still_mk, ↓State.still_fold] | dsimp only | split

theorem State.stopFoldStreams_still (s : State) (f : FoldNo) :
    (State.stopFoldStreams s f).still = s.still := by
  unfold State.stopFoldStreams
  repeat first
    | (with_reducible first | rfl | refine (State.onCore_still ..).trans ?_ | refine State.still_ite ?_ ?_
                            | refine (State.still_foldl _ (fun _ _ => ?_) _ _).trans ?_
                            | refine (State.still_foldl1 _ (fun _ _ => ?_) _ _).trans ?_)
    | simp only [↓State.still_mk, ↓State.still_fold] | dsimp only | split

theorem State.cancelOn_still (s : State) (f : FoldNo) (p : CoreNo) :
    (State.cancelOn s f p).still = s.still := by
  unfold State.cancelOn
  repeat first
    | (with_reducible first | rfl | refine (State.onCoreE_still ..).trans ?_)
    | simp only [↓State.still_mk, ↓State.still_fold] | dsimp only | split

theorem State.shareBoundaryOp_still (s : State) (l : CoreNo) :
    (State.shareBoundaryOp s l).still = s.still := by
  unfold State.shareBoundaryOp
  repeat first
    | (with_reducible first | rfl | refine (State.onFold_still ..).trans ?_ | refine (State.onCore_still ..).trans ?_
                            | refine (State.cancelOn_still ..).trans ?_ | refine (State.startOn_still ..).trans ?_
                            | refine State.still_ite ?_ ?_)
    | simp only [↓State.still_mk, ↓State.still_fold] | dsimp only | split

theorem State.notice_still (s : State) (f : FoldNo) (code : BitVec 16) (l : Option CoreNo) (action : Nat) (detail : List Byte) :
    (State.notice s f code l action detail).still = s.still := by
  unfold State.notice
  repeat first
    | (with_reducible first | rfl | refine (State.sendMail_still ..).trans ?_ | refine State.still_ite ?_ ?_
                            | refine (State.still_foldl _ (fun _ _ => ?_) _ _).trans ?_
                            | refine (State.still_foldl1 _ (fun _ _ => ?_) _ _).trans ?_)
    | simp only [↓State.still_mk, ↓State.still_fold] | dsimp only | split

theorem State.coreFault_still (s : State) (p : CoreNo) (c : FatalCause) :
    (State.coreFault s p c).still = s.still := by
  unfold State.coreFault
  repeat first
    | (with_reducible first | rfl | refine (State.onCore_still ..).trans ?_ | refine (State.log1_still ..).trans ?_
                            | refine (State.onFold_still ..).trans ?_ | refine (State.notice_still ..).trans ?_
                            | refine State.still_ite ?_ ?_ | refine (State.still_foldl _ (fun _ _ => ?_) _ _).trans ?_
                            | refine (State.still_foldl1 _ (fun _ _ => ?_) _ _).trans ?_)
    | simp only [↓State.still_mk, ↓State.still_fold] | dsimp only | split

theorem State.endMarks_still (s : State) :
    (State.endMarks s).still = s.still := by
  unfold State.endMarks
  repeat first
    | (with_reducible first | rfl | refine State.still_ite ?_ ?_)
    | simp only [↓State.still_mk, ↓State.still_fold] | dsimp only | split

theorem State.isolate_still (s : State) (p : CoreNo) :
    (State.isolate s p).still = s.still := by
  unfold State.isolate
  repeat first
    | (with_reducible first | rfl | refine (State.endMarks_still ..).trans ?_
                            | refine (State.onCoreE_still ..).trans ?_ | refine (State.log1_still ..).trans ?_
                            | refine State.still_ite ?_ ?_)
    | simp only [↓State.still_mk, ↓State.still_fold] | dsimp only | split

theorem State.advanceEpoch_still (s : State) (l : CoreNo) :
    (State.advanceEpoch s l).still = s.still := by
  unfold State.advanceEpoch
  repeat first
    | (with_reducible first | rfl | refine (State.onFold_still ..).trans ?_
                            | refine (State.still_foldl _ (fun _ _ => ?_) _ _).trans ?_
                            | refine (State.still_foldl1 _ (fun _ _ => ?_) _ _).trans ?_)
    | simp only [↓State.still_mk, ↓State.still_fold] | dsimp only | split

theorem State.mapOnto_still (s : State) (from_ to_ : CoreNo) (mode : CoreMode) (absent : Bool) :
    (State.mapOnto s from_ to_ mode absent).still = s.still := by
  unfold State.mapOnto
  repeat first
    | (with_reducible first | rfl | refine (State.onCore_still ..).trans ?_
                            | refine (State.advanceEpoch_still ..).trans ?_ | refine (State.onFold_still ..).trans ?_
                            | refine (State.still_foldl _ (fun _ _ => ?_) _ _).trans ?_
                            | refine (State.still_foldl1 _ (fun _ _ => ?_) _ _).trans ?_)
    | simp only [↓State.still_mk, ↓State.still_fold] | dsimp only | split

theorem State.rebuilt_still (s : State) (r : Rebuild) :
    (State.rebuilt s r).still = s.still := by
  unfold State.rebuilt
  repeat first
    | (with_reducible first | rfl | refine (State.onCore_still ..).trans ?_ | refine (State.onFold_still ..).trans ?_
                            | refine (State.log1_still ..).trans ?_
                            | refine (State.still_foldl _ (fun _ _ => ?_) _ _).trans ?_
                            | refine (State.still_foldl1 _ (fun _ _ => ?_) _ _).trans ?_)
    | simp only [↓State.still_mk, ↓State.still_fold] | dsimp only | split

theorem State.takeover_still (s : State) :
    (State.takeover s).still = s.still := by
  unfold State.takeover
  repeat first
    | (with_reducible first | rfl | refine (State.mapOnto_still ..).trans ?_ | refine (State.take_still ..).trans ?_
                            | refine (State.notice_still ..).trans ?_ | refine (State.rebuilt_still ..).trans ?_
                            | refine State.still_ite ?_ ?_ | refine (State.still_foldl _ (fun _ _ => ?_) _ _).trans ?_
                            | refine (State.still_foldl1 _ (fun _ _ => ?_) _ _).trans ?_)
    | simp only [↓State.still_mk, ↓State.still_fold] | dsimp only | split

theorem State.rebuildUnit_still (s : State) :
    (State.rebuildUnit s).still = s.still := by
  unfold State.rebuildUnit
  repeat first
    | (with_reducible first | rfl | refine (State.onCore_still ..).trans ?_ | refine (State.take_still ..).trans ?_
                            | refine (State.rebuilt_still ..).trans ?_ | refine State.still_ite ?_ ?_
                            | refine (State.still_foldl _ (fun _ _ => ?_) _ _).trans ?_
                            | refine (State.still_foldl1 _ (fun _ _ => ?_) _ _).trans ?_)
    | simp only [↓State.still_mk, ↓State.still_fold] | dsimp only | split

theorem State.spareRuns_still (s : State) :
    (State.spareRuns s).still = s.still := by
  unfold State.spareRuns
  repeat first
    | (with_reducible first | rfl | refine (State.startUnits_still ..).trans ?_
                            | refine (State.onCore_still ..).trans ?_ | refine (State.loadTablesOn_still ..).trans ?_
                            | refine (State.loadRingsOn_still ..).trans ?_
                            | refine (State.loadGatesOn_still ..).trans ?_ | refine State.still_ite ?_ ?_
                            | refine (State.still_foldl _ (fun _ _ => ?_) _ _).trans ?_
                            | refine (State.still_foldl1 _ (fun _ _ => ?_) _ _).trans ?_)
    | simp only [↓State.still_mk, ↓State.still_fold] | dsimp only | split

theorem State.copyStarts_still (s : State) :
    (State.copyStarts s).still = s.still := by
  unfold State.copyStarts
  repeat first
    | (with_reducible first | rfl | refine (State.onCore_still ..).trans ?_ | refine State.still_ite ?_ ?_
                            | refine (State.still_foldl _ (fun _ _ => ?_) _ _).trans ?_
                            | refine (State.still_foldl1 _ (fun _ _ => ?_) _ _).trans ?_)
    | simp only [↓State.still_mk, ↓State.still_fold] | dsimp only | split

theorem State.copyStatic_still (s : State) (from_ to_ : CoreNo) (l : CoreNo) :
    (State.copyStatic s from_ to_ l).still = s.still := by
  unfold State.copyStatic
  repeat first
    | (with_reducible first | rfl | refine (State.onCore_still ..).trans ?_
                            | refine (State.still_foldl _ (fun _ _ => ?_) _ _).trans ?_
                            | refine (State.still_foldl1 _ (fun _ _ => ?_) _ _).trans ?_)
    | simp only [↓State.still_mk, ↓State.still_fold] | dsimp only | split

theorem State.handovers_still (s : State) :
    (State.handovers s).still = s.still := by
  unfold State.handovers
  repeat first
    | (with_reducible first | rfl | refine (State.copyStatic_still ..).trans ?_
                            | refine (State.mapOnto_still ..).trans ?_ | refine (State.onCore_still ..).trans ?_
                            | refine (State.onFold_still ..).trans ?_ | refine (State.loadTablesOn_still ..).trans ?_
                            | refine (State.loadRingsOn_still ..).trans ?_
                            | refine (State.loadGatesOn_still ..).trans ?_ | refine (State.notice_still ..).trans ?_
                            | refine (State.log1_still ..).trans ?_ | refine State.still_ite ?_ ?_
                            | refine (State.still_foldl _ (fun _ _ => ?_) _ _).trans ?_
                            | refine (State.still_foldl1 _ (fun _ _ => ?_) _ _).trans ?_)
    | simp only [↓State.still_mk, ↓State.still_fold] | dsimp only | split

theorem State.draw_still (s : State) (w : Nat) :
    (State.draw s w).2.still = s.still := by
  unfold State.draw
  repeat first
    | (with_reducible first | rfl)
    | simp only [↓State.still_mk, ↓State.still_fold] | dsimp only | split

theorem State.commit_still (s : State) (g : TackRec → TackRec) :
    (State.commit s g).still = s.still := by
  unfold State.commit
  repeat first
    | (with_reducible first | rfl)
    | simp only [↓State.still_mk, ↓State.still_fold] | dsimp only | split

theorem State.commitEntry_still (s : State) (k : Fin 33) (g : TackEntry → TackEntry) :
    (State.commitEntry s k g).still = s.still := by
  unfold State.commitEntry
  repeat first
    | (with_reducible first | rfl | refine (State.commit_still ..).trans ?_)
    | simp only [↓State.still_mk, ↓State.still_fold] | dsimp only | split

theorem State.commitOp_still (s : State) :
    (State.commitOp s).still = s.still := by
  unfold State.commitOp
  repeat first
    | (with_reducible first | rfl | refine (State.record_still ..).trans ?_ | refine State.still_ite ?_ ?_)
    | simp only [↓State.still_mk, ↓State.still_fold] | dsimp only | split

theorem State.askBlock_still (s : State) (x : Fetch) :
    (State.askBlock s x).still = s.still := by
  unfold State.askBlock
  repeat first
    | (with_reducible first | rfl | refine (State.sendMail_still ..).trans ?_)
    | simp only [↓State.still_mk, ↓State.still_fold] | dsimp only | split

theorem State.beginFetch_still (s : State) (k : Fin 33) (b : Bool) :
    (State.beginFetch s k b).still = s.still := by
  unfold State.beginFetch
  repeat first
    | (with_reducible first | rfl | refine (State.askBlock_still ..).trans ?_ | refine State.still_ite ?_ ?_)
    | simp only [↓State.still_mk, ↓State.still_fold] | dsimp only | split

theorem State.blockRequest_still (s : State) (m : MailMsg) :
    (State.blockRequest s m).still = s.still := by
  unfold State.blockRequest
  repeat first
    | (with_reducible first | rfl | refine (State.onSupervisor_still _ _ _ (fun _ => ?_)).trans ?_
                            | refine (State.sendMail_still ..).trans ?_ | refine (State.answerMail_still ..).trans ?_)
    | simp only [↓State.still_mk, ↓State.still_fold] | dsimp only | split

theorem State.blockResponse_still (s : State) (m : MailMsg) :
    (State.blockResponse s m).still = s.still := by
  unfold State.blockResponse
  repeat first
    | (with_reducible first | rfl | refine (State.onSupervisor_still _ _ _ (fun _ => ?_)).trans ?_
                            | refine (State.askBlock_still ..).trans ?_ | refine State.still_ite ?_ ?_)
    | simp only [↓State.still_mk, ↓State.still_fold] | dsimp only | split

theorem State.nextPeer_still (s : State) (m : MailMsg) :
    (State.nextPeer s m).still = s.still := by
  unfold State.nextPeer
  repeat first
    | (with_reducible first | rfl | refine (State.askBlock_still ..).trans ?_ | refine State.still_ite ?_ ?_)
    | simp only [↓State.still_mk, ↓State.still_fold] | dsimp only | split

theorem State.writeTrailers_still (s : State) :
    (State.writeTrailers s).still = s.still := by
  unfold State.writeTrailers
  repeat first
    | (with_reducible first | rfl | refine State.still_ite ?_ ?_)
    | simp only [↓State.still_mk, ↓State.still_fold] | dsimp only | split

theorem State.storeFetched_still (s : State) :
    (State.storeFetched s).still = s.still := by
  unfold State.storeFetched
  repeat first
    | (with_reducible first | rfl | refine State.still_ite ?_ ?_
                            | refine (State.still_foldl _ (fun _ _ => ?_) _ _).trans ?_
                            | refine (State.still_foldl1 _ (fun _ _ => ?_) _ _).trans ?_)
    | simp only [↓State.still_mk, ↓State.still_fold] | dsimp only | split

theorem State.ssdLost_still (s : State) (n : SsdNo) :
    (State.ssdLost s n).still = s.still := by
  unfold State.ssdLost
  repeat first
    | (with_reducible first | rfl | refine (State.commit_still ..).trans ?_ | refine (State.log1_still ..).trans ?_
                            | refine State.still_ite ?_ ?_)
    | simp only [↓State.still_mk, ↓State.still_fold] | dsimp only | split

theorem State.ssdInsert_still (s : State) (n : SsdNo) (i : SsdInfo) :
    (State.ssdInsert s n i).still = s.still := by
  unfold State.ssdInsert
  repeat first
    | (with_reducible first | rfl | refine (State.commit_still ..).trans ?_ | refine (State.log1_still ..).trans ?_
                            | refine State.still_ite ?_ ?_)
    | simp only [↓State.still_mk, ↓State.still_fold] | dsimp only | split

theorem State.adopt_still (s : State) (n : SsdNo) :
    (State.adopt s n).still = s.still := by
  unfold State.adopt
  repeat first
    | (with_reducible first | rfl)
    | simp only [↓State.still_mk, ↓State.still_fold] | dsimp only | split

theorem State.resyncDone_still (s : State) (n : SsdNo) :
    (State.resyncDone s n).still = s.still := by
  unfold State.resyncDone
  repeat first
    | (with_reducible first | rfl | refine (State.storeFetched_still ..).trans ?_
                            | refine (State.commit_still ..).trans ?_ | refine (State.writeTrailers_still ..).trans ?_
                            | refine State.still_ite ?_ ?_)
    | simp only [↓State.still_mk, ↓State.still_fold] | dsimp only | split

theorem State.sampleDegradation_still (s : State) (f : FoldNo) :
    (State.sampleDegradation s f).still = s.still := by
  unfold State.sampleDegradation
  repeat first
    | (with_reducible first | rfl | refine (State.onFold_still ..).trans ?_)
    | simp only [↓State.still_mk, ↓State.still_fold] | dsimp only | split

theorem State.sampleThermal_still (s : State) (f : FoldNo) :
    (State.sampleThermal s f).still = s.still := by
  unfold State.sampleThermal
  repeat first
    | (with_reducible first | rfl | refine (State.onFold_still ..).trans ?_ | refine (State.log1_still ..).trans ?_
                            | refine State.still_ite ?_ ?_ | refine (State.still_foldl _ (fun _ _ => ?_) _ _).trans ?_
                            | refine (State.still_foldl1 _ (fun _ _ => ?_) _ _).trans ?_)
    | simp only [↓State.still_mk, ↓State.still_fold] | dsimp only | split

theorem State.selectPen_still (s : State) (f : FoldNo) :
    (State.selectPen s f).still = s.still := by
  unfold State.selectPen
  repeat first
    | (with_reducible first | rfl | refine (State.onFold_still ..).trans ?_ | refine State.still_ite ?_ ?_)
    | simp only [↓State.still_mk, ↓State.still_fold] | dsimp only | split

theorem State.loadStatics_still (s : State) (i : FoldImage) (c : Slot) :
    (State.loadStatics s i c).still = s.still := by
  unfold State.loadStatics
  repeat first
    | (with_reducible first | rfl | refine (State.onCore_still ..).trans ?_
                            | refine (State.still_foldl _ (fun _ _ => ?_) _ _).trans ?_
                            | refine (State.still_foldl1 _ (fun _ _ => ?_) _ _).trans ?_)
    | simp only [↓State.still_mk, ↓State.still_fold] | dsimp only | split

theorem State.poisonDynamic_still (s : State) (i : FoldImage) :
    (State.poisonDynamic s i).still = s.still := by
  unfold State.poisonDynamic
  repeat first
    | (with_reducible first | rfl | refine (State.onCore_still ..).trans ?_ | refine State.still_ite ?_ ?_
                            | refine (State.still_foldl _ (fun _ _ => ?_) _ _).trans ?_
                            | refine (State.still_foldl1 _ (fun _ _ => ?_) _ _).trans ?_)
    | simp only [↓State.still_mk, ↓State.still_fold] | dsimp only | split

theorem State.beginLoad_still (s : State) (f : FoldNo) (b : Bool) :
    (State.beginLoad s f b).still = s.still := by
  unfold State.beginLoad
  repeat first
    | (with_reducible first | rfl | refine (State.onFold_still ..).trans ?_
                            | refine (State.formParity_still ..).trans ?_
                            | refine (State.beginFetch_still ..).trans ?_)
    | simp only [↓State.still_mk, ↓State.still_fold] | dsimp only | split

theorem State.reachWaiting_still (s : State) (f : FoldNo) (i : FoldImage) :
    (State.reachWaiting s f i).still = s.still := by
  unfold State.reachWaiting
  repeat first
    | (with_reducible first | rfl | refine (State.onFold_still ..).trans ?_ | refine (State.release_still ..).trans ?_
                            | refine State.still_ite ?_ ?_)
    | simp only [↓State.still_mk, ↓State.still_fold] | dsimp only | split

theorem State.loadComplete_still (s : State) (f : FoldNo) :
    (State.loadComplete s f).still = s.still := by
  unfold State.loadComplete
  repeat first
    | (with_reducible first | rfl | refine (State.loadStatics_still ..).trans ?_
                            | refine (State.poisonDynamic_still ..).trans ?_
                            | refine (State.formParity_still ..).trans ?_ | refine (State.onFold_still ..).trans ?_
                            | refine (State.reachWaiting_still ..).trans ?_ | refine State.still_ite ?_ ?_)
    | simp only [↓State.still_mk, ↓State.still_fold] | dsimp only | split

theorem State.refuseStart_still (s : State) (f : FoldNo) (cause : Nat) :
    (State.refuseStart s f cause).still = s.still := by
  unfold State.refuseStart
  repeat first
    | (with_reducible first | rfl | refine (State.onFold_still ..).trans ?_ | refine (State.log1_still ..).trans ?_
                            | refine State.still_ite ?_ ?_)
    | simp only [↓State.still_mk, ↓State.still_fold] | dsimp only | split

theorem State.joinPorts_still (s : State) (i : FoldImage) :
    (State.joinPorts s i).still = s.still := by
  unfold State.joinPorts
  repeat first
    | (with_reducible first | rfl | refine State.still_ite ?_ ?_)
    | simp only [↓State.still_mk, ↓State.still_fold] | dsimp only | split

theorem State.openPorts_still (s : State) (f : FoldNo) (i : FoldImage) (fresh : Bool) :
    (State.openPorts s f i fresh).still = s.still := by
  unfold State.openPorts
  repeat first
    | (with_reducible first | rfl | refine State.still_ite ?_ ?_)
    | simp only [↓State.still_mk, ↓State.still_fold] | dsimp only | split

theorem State.loadFold_still (s : State) (f : FoldNo) :
    (State.loadFold s f).still = s.still := by
  unfold State.loadFold
  repeat first
    | (with_reducible first | rfl | refine (State.loadTablesOn_still ..).trans ?_
                            | refine (State.loadRingsOn_still ..).trans ?_
                            | refine (State.loadGatesOn_still ..).trans ?_
                            | refine (State.still_foldl _ (fun _ _ => ?_) _ _).trans ?_
                            | refine (State.still_foldl1 _ (fun _ _ => ?_) _ _).trans ?_)
    | simp only [↓State.still_mk, ↓State.still_fold] | dsimp only | split

theorem State.runFold_still (s : State) (f : FoldNo) (i : FoldImage) (fresh : Bool) :
    (State.runFold s f i fresh).still = s.still := by
  unfold State.runFold
  repeat first
    | (with_reducible first | rfl | refine (State.onFold_still ..).trans ?_ | refine (State.count_still ..).trans ?_
                            | refine (State.clearCores_still ..).trans ?_ | refine (State.loadFold_still ..).trans ?_
                            | refine (State.openPorts_still ..).trans ?_ | refine (State.joinPorts_still ..).trans ?_
                            | refine State.still_ite ?_ ?_)
    | simp only [↓State.still_mk, ↓State.still_fold] | dsimp only | split

theorem State.tryStart_still (s : State) (f : FoldNo) :
    (State.tryStart s f).still = s.still := by
  unfold State.tryStart
  repeat first
    | (with_reducible first | rfl | refine (State.refuseStart_still ..).trans ?_
                            | refine (State.runFold_still ..).trans ?_ | refine (State.commitEntry_still ..).trans ?_
                            | refine (State.log1_still ..).trans ?_ | refine (State.notice_still ..).trans ?_
                            | refine State.still_ite ?_ ?_)
    | simp only [↓State.still_mk, ↓State.still_fold] | dsimp only | split

theorem State.pollMembers_still (s : State) (f : FoldNo) :
    (State.pollMembers s f).still = s.still := by
  unfold State.pollMembers
  repeat first
    | (with_reducible first | rfl | refine (State.sendMail_still ..).trans ?_ | refine State.still_ite ?_ ?_
                            | refine (State.still_foldl _ (fun _ _ => ?_) _ _).trans ?_
                            | refine (State.still_foldl1 _ (fun _ _ => ?_) _ _).trans ?_)
    | simp only [↓State.still_mk, ↓State.still_fold] | dsimp only | split

theorem State.waitingInstant_still (s : State) (f : FoldNo) :
    (State.waitingInstant s f).still = s.still := by
  unfold State.waitingInstant
  repeat first
    | (with_reducible first | rfl | refine (State.tryStart_still ..).trans ?_ | refine (State.log1_still ..).trans ?_
                            | refine (State.onFold_still ..).trans ?_ | refine State.still_ite ?_ ?_)
    | simp only [↓State.still_mk, ↓State.still_fold] | dsimp only | split

theorem State.dropMail_still (s : State) (f : FoldNo) :
    (State.dropMail s f).still = s.still := by
  unfold State.dropMail
  repeat first
    | (with_reducible first | rfl | refine (State.countFold_still ..).trans ?_)
    | simp only [↓State.still_mk, ↓State.still_fold] | dsimp only | split

theorem State.stopFold_still (s : State) (f : FoldNo) :
    (State.stopFold s f).still = s.still := by
  unfold State.stopFold
  repeat first
    | (with_reducible first | rfl | refine (State.stopFoldStreams_still ..).trans ?_
                            | refine (State.cancelFold_still ..).trans ?_ | refine (State.dropMail_still ..).trans ?_
                            | refine (State.onFold_still ..).trans ?_)
    | simp only [↓State.still_mk, ↓State.still_fold] | dsimp only | split

theorem State.yieldMember_still (s : State) (f : FoldNo) :
    (State.yieldMember s f).still = s.still := by
  unfold State.yieldMember
  repeat first
    | (with_reducible first | rfl | refine (State.release_still ..).trans ?_
                            | refine (State.stopFold_still ..).trans ?_
                            | refine (State.poisonDynamic_still ..).trans ?_ | refine (State.onFold_still ..).trans ?_
                            | refine State.still_ite ?_ ?_)
    | simp only [↓State.still_mk, ↓State.still_fold] | dsimp only | split

theorem State.resume_still (s : State) (f : FoldNo) :
    (State.resume s f).still = s.still := by
  unfold State.resume
  repeat first
    | (with_reducible first | rfl | refine (State.poisonDynamic_still ..).trans ?_
                            | refine (State.reachWaiting_still ..).trans ?_
                            | refine (State.beginLoad_still ..).trans ?_ | refine State.still_ite ?_ ?_)
    | simp only [↓State.still_mk, ↓State.still_fold] | dsimp only | split

theorem State.switchFold_still (s : State) (f : FoldNo) :
    (State.switchFold s f).still = s.still := by
  unfold State.switchFold
  repeat first
    | (with_reducible first | rfl | refine (State.stopFold_still ..).trans ?_
                            | refine (State.onFold_still ..).trans ?_ | refine (State.commitEntry_still ..).trans ?_
                            | refine (State.formParity_still ..).trans ?_
                            | refine (State.reachWaiting_still ..).trans ?_
                            | refine (State.beginLoad_still ..).trans ?_ | refine State.still_ite ?_ ?_)
    | simp only [↓State.still_mk, ↓State.still_fold] | dsimp only | split

theorem State.beginRevert_still (s : State) (f : FoldNo) :
    (State.beginRevert s f).still = s.still := by
  unfold State.beginRevert
  repeat first
    | (with_reducible first | rfl | refine (State.commitEntry_still ..).trans ?_)
    | simp only [↓State.still_mk, ↓State.still_fold] | dsimp only | split

theorem State.revertLoad_still (s : State) (f : FoldNo) :
    (State.revertLoad s f).still = s.still := by
  unfold State.revertLoad
  repeat first
    | (with_reducible first | rfl | refine (State.onFold_still ..).trans ?_
                            | refine (State.beginLoad_still ..).trans ?_
                            | refine (State.commitEntry_still ..).trans ?_)
    | simp only [↓State.still_mk, ↓State.still_fold] | dsimp only | split

theorem State.confirmFold_still (s : State) (f : FoldNo) :
    (State.confirmFold s f).still = s.still := by
  unfold State.confirmFold
  repeat first
    | (with_reducible first | rfl | refine (State.commitEntry_still ..).trans ?_ | refine State.still_ite ?_ ?_)
    | simp only [↓State.still_mk, ↓State.still_fold] | dsimp only | split

theorem State.crookSample_still (s : State) (f : FoldNo) :
    (State.crookSample s f).still = s.still := by
  unfold State.crookSample
  repeat first
    | (with_reducible first | rfl | refine (State.onFold_still ..).trans ?_ | refine State.still_ite ?_ ?_)
    | simp only [↓State.still_mk, ↓State.still_fold] | dsimp only | split

theorem State.still_captures (s t : State) (h : t.still = s.still) (l : List (FoldNo × Nat × List Byte)) :
    ({ t with captures := l } : State).still = s.still := h

theorem State.captureDump_still (s : State) (f : FoldNo) :
    (State.captureDump s f).still = s.still := by
  unfold State.captureDump
  dsimp only
  split
  · split
    · exact State.still_captures _ _ ((State.onFold_still ..).trans (State.cancelFold_still ..)) _
    · rfl
  · rfl

theorem State.writeDump_still (s : State) :
    (State.writeDump s).still = s.still := by
  unfold State.writeDump
  repeat first
    | (with_reducible first | rfl | refine (State.log1_still ..).trans ?_ | refine State.still_ite ?_ ?_)
    | simp only [↓State.still_mk, ↓State.still_fold] | dsimp only | split

theorem State.fence_still (s : State) (f : FoldNo) :
    (State.fence s f).still = s.still := by
  unfold State.fence
  repeat first
    | (with_reducible first | rfl | refine (State.onFold_still ..).trans ?_ | refine (State.log1_still ..).trans ?_
                            | refine (State.notice_still ..).trans ?_)
    | simp only [↓State.still_mk, ↓State.still_fold] | dsimp only | split

theorem State.hurdle_still (s : State) (f : FoldNo) (code : BitVec 16) (nodes : List WaitNode) :
    (State.hurdle s f code nodes).still = s.still := by
  unfold State.hurdle
  repeat first
    | (with_reducible first | rfl | refine (State.stopFoldStreams_still ..).trans ?_
                            | refine (State.dropMail_still ..).trans ?_ | refine (State.onFold_still ..).trans ?_
                            | refine (State.countFold_still ..).trans ?_ | refine (State.log1_still ..).trans ?_
                            | refine (State.notice_still ..).trans ?_ | refine (State.beginRevert_still ..).trans ?_
                            | refine (State.fence_still ..).trans ?_ | refine State.still_ite ?_ ?_)
    | simp only [↓State.still_mk, ↓State.still_fold] | dsimp only | split

theorem State.declareHang_still (s : State) (f : FoldNo) :
    (State.declareHang s f).still = s.still := by
  unfold State.declareHang
  repeat first
    | (with_reducible first | rfl | refine (State.hurdle_still ..).trans ?_)
    | simp only [↓State.still_mk, ↓State.still_fold] | dsimp only | split

theorem State.walkEnd_still (s : State) (f : FoldNo) (l : CoreNo) :
    (State.walkEnd s f l).still = s.still := by
  unfold State.walkEnd
  repeat first
    | (with_reducible first | rfl | refine (State.hurdle_still ..).trans ?_ | refine (State.onFold_still ..).trans ?_
                            | refine (State.scrubWord_still ..).trans ?_ | refine (State.onCore_still ..).trans ?_
                            | refine (State.log1_still ..).trans ?_ | refine (State.fence_still ..).trans ?_
                            | refine State.still_ite ?_ ?_ | refine (State.still_foldl _ (fun _ _ => ?_) _ _).trans ?_
                            | refine (State.still_foldl1 _ (fun _ _ => ?_) _ _).trans ?_)
    | simp only [↓State.still_mk, ↓State.still_fold] | dsimp only | split

theorem State.retryFenced_still (s : State) (f : FoldNo) :
    (State.retryFenced s f).still = s.still := by
  unfold State.retryFenced
  repeat first
    | (with_reducible first | rfl | refine (State.onFold_still ..).trans ?_ | refine State.still_ite ?_ ?_)
    | simp only [↓State.still_mk, ↓State.still_fold] | dsimp only | split

theorem State.hurdledInstant_still (s : State) (f : FoldNo) :
    (State.hurdledInstant s f).still = s.still := by
  unfold State.hurdledInstant
  repeat first
    | (with_reducible first | rfl | refine (State.revertLoad_still ..).trans ?_
                            | refine (State.reachWaiting_still ..).trans ?_
                            | refine (State.tryStart_still ..).trans ?_ | refine State.still_ite ?_ ?_)
    | simp only [↓State.still_mk, ↓State.still_fold] | dsimp only | split

theorem State.onSup_still (s : State) (u : Sup) (g : Supervisor → Supervisor) :
    (State.onSup s u g).still = s.still := by
  unfold State.onSup
  repeat first
    | (with_reducible first | rfl)
    | simp only [↓State.still_mk, ↓State.still_fold] | dsimp only | split

theorem State.supFail_still (s : State) (u : Sup) :
    (State.supFail s u).still = s.still := by
  unfold State.supFail
  repeat first
    | (with_reducible first | rfl | refine (State.onSup_still ..).trans ?_ | refine (State.log1_still ..).trans ?_
                            | refine State.still_ite ?_ ?_)
    | simp only [↓State.still_mk, ↓State.still_fold] | dsimp only | split

theorem State.supRestart_still (s : State) (u : Sup) :
    (State.supRestart s u).still = s.still := by
  unfold State.supRestart
  repeat first
    | (with_reducible first | rfl | refine (State.onSup_still ..).trans ?_ | refine State.still_ite ?_ ?_)
    | simp only [↓State.still_mk, ↓State.still_fold] | dsimp only | split

theorem State.supInstant_still (s : State) :
    (State.supInstant s).still = s.still := by
  unfold State.supInstant
  repeat first
    | (with_reducible first | rfl | refine (State.log1_still ..).trans ?_ | refine (State.commit_still ..).trans ?_
                            | refine State.still_ite ?_ ?_)
    | simp only [↓State.still_mk, ↓State.still_fold] | dsimp only | split

theorem State.sectorFails_still (s : State) :
    (State.sectorFails s).still = s.still := by
  unfold State.sectorFails
  repeat first
    | (with_reducible first | rfl | refine (State.log1_still ..).trans ?_ | refine State.still_ite ?_ ?_)
    | simp only [↓State.still_mk, ↓State.still_fold] | dsimp only | split

theorem State.writeEntry_still (s : State) (ok : Bool) :
    (State.writeEntry s ok).still = s.still := by
  unfold State.writeEntry
  repeat first
    | (with_reducible first | rfl | refine (State.sectorFails_still ..).trans ?_ | refine State.still_ite ?_ ?_)
    | simp only [↓State.still_mk, ↓State.still_fold] | dsimp only | split

theorem State.mirrorCopy_still (s : State) :
    (State.mirrorCopy s).still = s.still := by
  unfold State.mirrorCopy
  repeat first
    | (with_reducible first | rfl | refine State.still_ite ?_ ?_)
    | simp only [↓State.still_mk, ↓State.still_fold] | dsimp only | split

theorem State.witnessSend_still (s : State) :
    (State.witnessSend s).still = s.still := by
  unfold State.witnessSend
  repeat first
    | (with_reducible first | rfl | refine (State.sendMail_still ..).trans ?_ | refine State.still_ite ?_ ?_
                            | refine (State.still_foldl _ (fun _ _ => ?_) _ _).trans ?_
                            | refine (State.still_foldl1 _ (fun _ _ => ?_) _ _).trans ?_)
    | simp only [↓State.still_mk, ↓State.still_fold] | dsimp only | split

theorem State.witnessed_still (s : State) (m : MailMsg) :
    (State.witnessed s m).still = s.still := by
  unfold State.witnessed
  repeat first
    | (with_reducible first | rfl | refine (State.onSupervisor_still _ _ _ (fun _ => ?_)).trans ?_
                            | refine (State.log1_still ..).trans ?_)
    | simp only [↓State.still_mk, ↓State.still_fold] | dsimp only | split

theorem State.clearLog_still (s : State) :
    (State.clearLog s).still = s.still := by
  unfold State.clearLog
  repeat first
    | (with_reducible first | rfl)
    | simp only [↓State.still_mk, ↓State.still_fold] | dsimp only | split

theorem State.noticed_still (s : State) (m : MailMsg) :
    (State.noticed s m).still = s.still := by
  unfold State.noticed
  repeat first
    | (with_reducible first | rfl | refine (State.onSupervisor_still _ _ _ (fun _ => ?_)).trans ?_
                            | refine (State.log1_still ..).trans ?_ | refine (State.sendMail_still ..).trans ?_
                            | refine State.still_ite ?_ ?_ | refine (State.still_foldl _ (fun _ _ => ?_) _ _).trans ?_
                            | refine (State.still_foldl1 _ (fun _ _ => ?_) _ _).trans ?_)
    | simp only [↓State.still_mk, ↓State.still_fold] | dsimp only | split

theorem State.statusRequest_still (s : State) (m : MailMsg) :
    (State.statusRequest s m).still = s.still := by
  unfold State.statusRequest
  repeat first
    | (with_reducible first | rfl | refine (State.onMail_still _ _ _ (fun _ => ?_)).trans ?_
                            | refine (State.readStatus_still ..).trans ?_ | refine (State.sendMail_still ..).trans ?_
                            | refine (State.answerMail_still ..).trans ?_ | refine (State.countTag_still ..).trans ?_
                            | refine State.still_ite ?_ ?_)
    | simp only [↓State.still_mk, ↓State.still_fold] | dsimp only | split

theorem State.statusResponse_still (s : State) (m : MailMsg) :
    (State.statusResponse s m).still = s.still := by
  unfold State.statusResponse
  repeat first
    | (with_reducible first | rfl | refine (State.onMail_still _ _ _ (fun _ => ?_)).trans ?_
                            | refine (State.learn_still ..).trans ?_ | refine (State.onFold_still ..).trans ?_)
    | simp only [↓State.still_mk, ↓State.still_fold] | dsimp only | split

end Sys2Proof.Machine
end

