-- ==== Sys2Proof/Laws/FramePort.lean ====
section
/-! SUPPORT. Frames of the links, the streams and the plant ports. -/

set_option linter.unusedSimpArgs false

namespace Sys2Proof.Machine

theorem State.onFab_still (s : State) (p : FabricPort) (g : FabPort → FabPort) :
    (State.onFab s p g).still = s.still := by
  unfold State.onFab
  repeat first
    | (with_reducible first | rfl)
    | simp only [↓State.still_mk, ↓State.still_fold] | dsimp only | split

theorem State.countFab_still (s : State) (p : FabricPort) (k : Fin 13) (n : Nat) :
    (State.countFab s p k n).still = s.still := by
  unfold State.countFab
  repeat first
    | (with_reducible first | rfl | refine (State.onFab_still ..).trans ?_)
    | simp only [↓State.still_mk, ↓State.still_fold] | dsimp only | split

theorem State.signalOp_still (s : State) (p : FabricPort) (lanes : BitVec 8) :
    (State.signalOp s p lanes).still = s.still := by
  unfold State.signalOp
  repeat first
    | (with_reducible first | rfl | refine (State.onFab_still ..).trans ?_ | refine State.still_ite ?_ ?_)
    | simp only [↓State.still_mk, ↓State.still_fold] | dsimp only | split

theorem State.acquireOp_still (s : State) (p : FabricPort) (lanes : BitVec 8) :
    (State.acquireOp s p lanes).still = s.still := by
  unfold State.acquireOp
  repeat first
    | (with_reducible first | rfl | refine (State.onFab_still ..).trans ?_ | refine State.still_ite ?_ ?_)
    | simp only [↓State.still_mk, ↓State.still_fold] | dsimp only | split

theorem State.alignOp_still (s : State) (p : FabricPort) (lanes : BitVec 8) :
    (State.alignOp s p lanes).still = s.still := by
  unfold State.alignOp
  repeat first
    | (with_reducible first | rfl | refine (State.onFab_still ..).trans ?_ | refine State.still_ite ?_ ?_)
    | simp only [↓State.still_mk, ↓State.still_fold] | dsimp only | split

theorem State.enterKey_still (s : State) (p : FabricPort) :
    (State.enterKey s p).still = s.still := by
  unfold State.enterKey
  repeat first
    | (with_reducible first | rfl | refine (State.draw_still ..).trans ?_ | refine (State.onFab_still ..).trans ?_
                            | refine State.still_ite ?_ ?_)
    | simp only [↓State.still_mk, ↓State.still_fold] | dsimp only | split

theorem State.helloOp_still (s : State) (p : FabricPort) :
    (State.helloOp s p).still = s.still := by
  unfold State.helloOp
  repeat first
    | (with_reducible first | rfl | refine (State.countFab_still ..).trans ?_ | refine (State.onFab_still ..).trans ?_
                            | refine (State.enterKey_still ..).trans ?_ | refine State.still_ite ?_ ?_)
    | simp only [↓State.still_mk, ↓State.still_fold] | dsimp only | split

theorem State.keyOp_still (s : State) (p : FabricPort) (h : Hello) :
    (State.keyOp s p h).still = s.still := by
  unfold State.keyOp
  repeat first
    | (with_reducible first | rfl | refine (State.onFab_still ..).trans ?_ | refine State.still_ite ?_ ?_)
    | simp only [↓State.still_mk, ↓State.still_fold] | dsimp only | split

theorem State.verifyOp_still (s : State) (p : FabricPort) :
    (State.verifyOp s p).still = s.still := by
  unfold State.verifyOp
  repeat first
    | (with_reducible first | rfl | refine (State.onFab_still ..).trans ?_ | refine (State.countFab_still ..).trans ?_
                            | refine (State.log1_still ..).trans ?_ | refine State.still_ite ?_ ?_
                            | refine (State.still_foldl _ (fun _ _ => ?_) _ _).trans ?_
                            | refine (State.still_foldl1 _ (fun _ _ => ?_) _ _).trans ?_)
    | simp only [↓State.still_mk, ↓State.still_fold] | dsimp only | split

theorem State.timeoutOp_still (s : State) (p : FabricPort) :
    (State.timeoutOp s p).still = s.still := by
  unfold State.timeoutOp
  repeat first
    | (with_reducible first | rfl | refine (State.onFab_still ..).trans ?_ | refine State.still_ite ?_ ?_)
    | simp only [↓State.still_mk, ↓State.still_fold] | dsimp only | split

theorem State.keyRetryOp_still (s : State) (p : FabricPort) :
    (State.keyRetryOp s p).still = s.still := by
  unfold State.keyRetryOp
  repeat first
    | (with_reducible first | rfl | refine (State.enterKey_still ..).trans ?_ | refine State.still_ite ?_ ?_)
    | simp only [↓State.still_mk, ↓State.still_fold] | dsimp only | split

theorem State.unpairedOp_still (s : State) (p : FabricPort) :
    (State.unpairedOp s p).still = s.still := by
  unfold State.unpairedOp
  repeat first
    | (with_reducible first | rfl | refine (State.enterKey_still ..).trans ?_ | refine (State.onFab_still ..).trans ?_
                            | refine (State.countFab_still ..).trans ?_ | refine (State.log1_still ..).trans ?_
                            | refine State.still_ite ?_ ?_)
    | simp only [↓State.still_mk, ↓State.still_fold] | dsimp only | split

theorem State.trainingOp_still (s : State) (p : FabricPort) (lane : LaneNo) (h : Hello) (o : PairingOffer) :
    (State.trainingOp s p lane h o).still = s.still := by
  unfold State.trainingOp
  repeat first
    | (with_reducible first | rfl | refine (State.onFab_still ..).trans ?_ | refine State.still_ite ?_ ?_)
    | simp only [↓State.still_mk, ↓State.still_fold] | dsimp only | split

theorem State.portNotice_still (s : State) (p : FabricPort) (code : BitVec 16) (action : Nat) (detail : List Byte) :
    (State.portNotice s p code action detail).still = s.still := by
  unfold State.portNotice
  repeat first
    | (with_reducible first | rfl | refine (State.notice_still ..).trans ?_ | refine State.still_ite ?_ ?_
                            | refine (State.still_foldl _ (fun _ _ => ?_) _ _).trans ?_
                            | refine (State.still_foldl1 _ (fun _ _ => ?_) _ _).trans ?_)
    | simp only [↓State.still_mk, ↓State.still_fold] | dsimp only | split

theorem State.takeDown_still (s : State) (p : FabricPort) (k : Fin 13) (code : BitVec 16) :
    (State.takeDown s p k code).still = s.still := by
  unfold State.takeDown
  repeat first
    | (with_reducible first | rfl | refine (State.onFab_still ..).trans ?_ | refine (State.countFab_still ..).trans ?_
                            | refine (State.log1_still ..).trans ?_ | refine (State.portNotice_still ..).trans ?_)
    | simp only [↓State.still_mk, ↓State.still_fold] | dsimp only | split

theorem State.portDownOp_still (s : State) (p : FabricPort) :
    (State.portDownOp s p).still = s.still := by
  unfold State.portDownOp
  repeat first
    | (with_reducible first | rfl | refine (State.takeDown_still ..).trans ?_ | refine State.still_ite ?_ ?_)
    | simp only [↓State.still_mk, ↓State.still_fold] | dsimp only | split

theorem State.authRetrainOp_still (s : State) (p : FabricPort) :
    (State.authRetrainOp s p).still = s.still := by
  unfold State.authRetrainOp
  repeat first
    | (with_reducible first | rfl | refine (State.takeDown_still ..).trans ?_ | refine (State.onFab_still ..).trans ?_
                            | refine (State.countFab_still ..).trans ?_ | refine (State.log1_still ..).trans ?_
                            | refine State.still_ite ?_ ?_)
    | simp only [↓State.still_mk, ↓State.still_fold] | dsimp only | split

theorem State.signalLossOp_still (s : State) (p : FabricPort) (lane : LaneNo) :
    (State.signalLossOp s p lane).still = s.still := by
  unfold State.signalLossOp
  repeat first
    | (with_reducible first | rfl | refine (State.onFab_still ..).trans ?_)
    | simp only [↓State.still_mk, ↓State.still_fold] | dsimp only | split

theorem State.laneLostOp_still (s : State) (p : FabricPort) (lane : LaneNo) :
    (State.laneLostOp s p lane).still = s.still := by
  unfold State.laneLostOp
  repeat first
    | (with_reducible first | rfl | refine (State.onFab_still ..).trans ?_ | refine (State.countFab_still ..).trans ?_
                            | refine (State.log1_still ..).trans ?_ | refine State.still_ite ?_ ?_)
    | simp only [↓State.still_mk, ↓State.still_fold] | dsimp only | split

theorem State.laneUsableOp_still (s : State) (p : FabricPort) (lane : LaneNo) :
    (State.laneUsableOp s p lane).still = s.still := by
  unfold State.laneUsableOp
  repeat first
    | (with_reducible first | rfl | refine (State.onFab_still ..).trans ?_ | refine State.still_ite ?_ ?_)
    | simp only [↓State.still_mk, ↓State.still_fold] | dsimp only | split

theorem State.maskOp_still (s : State) (p : FabricPort) :
    (State.maskOp s p).still = s.still := by
  unfold State.maskOp
  repeat first
    | (with_reducible first | rfl | refine (State.onFab_still ..).trans ?_ | refine (State.countFab_still ..).trans ?_
                            | refine State.still_ite ?_ ?_)
    | simp only [↓State.still_mk, ↓State.still_fold] | dsimp only | split

theorem State.boundaryMasks_still (s : State) (p : FabricPort) :
    (State.boundaryMasks s p).still = s.still := by
  unfold State.boundaryMasks
  repeat first
    | (with_reducible first | rfl | refine (State.maskOp_still ..).trans ?_ | refine (State.onFab_still ..).trans ?_
                            | refine State.still_ite ?_ ?_)
    | simp only [↓State.still_mk, ↓State.still_fold] | dsimp only | split

theorem State.buildRein_still (s : State) (r : Rein) :
    (State.buildRein s r).still = s.still := by
  unfold State.buildRein
  repeat first
    | (with_reducible first | rfl | refine (State.still_foldl _ (fun _ _ => ?_) _ _).trans ?_
                            | refine (State.still_foldl1 _ (fun _ _ => ?_) _ _).trans ?_)
    | simp only [↓State.still_mk, ↓State.still_fold] | dsimp only | split

theorem State.takePart_still (s : State) (p : FabricPort) :
    (State.takePart s p).2.still = s.still := by
  unfold State.takePart
  repeat first
    | (with_reducible first | rfl | refine (State.buildRein_still ..).trans ?_ | refine State.still_ite ?_ ?_)
    | simp only [↓State.still_mk, ↓State.still_fold] | dsimp only | split

theorem State.sendTraffic_still (s : State) (p : FabricPort) (slots : List (List Byte)) :
    (State.sendTraffic s p slots).still = s.still := by
  unfold State.sendTraffic
  repeat first
    | (with_reducible first | rfl | refine (State.onFab_still ..).trans ?_)
    | simp only [↓State.still_mk, ↓State.still_fold] | dsimp only | split

theorem State.boundaryOp_still (s : State) (p : FabricPort) :
    (State.boundaryOp s p).still = s.still := by
  unfold State.boundaryOp
  repeat first
    | (with_reducible first | rfl | refine (State.takePart_still ..).trans ?_
                            | refine (State.sendTraffic_still ..).trans ?_
                            | refine (State.boundaryMasks_still ..).trans ?_ | refine (State.onFab_still ..).trans ?_)
    | simp only [↓State.still_mk, ↓State.still_fold] | dsimp only | split

theorem State.verifyDoneOp_still (s : State) (p : FabricPort) (h : Hello) (latencies : List Nat) :
    (State.verifyDoneOp s p h latencies).still = s.still := by
  unfold State.verifyDoneOp
  split
  · exact State.verifyOp_still s p
  · rfl

theorem State.trafficOp_still (s : State) (p : FabricPort) (lane : LaneNo) (r : LineRx) (k : LaneFrame) :
    (State.trafficOp s p lane r k).still = s.still := by
  unfold State.trafficOp
  repeat first
    | (with_reducible first | rfl | refine (State.onFab_still ..).trans ?_ | refine (State.countFab_still ..).trans ?_
                            | refine State.still_ite ?_ ?_)
    | simp only [↓State.still_mk, ↓State.still_fold] | dsimp only | split

theorem State.rejoinInstant_still (s : State) :
    (State.rejoinInstant s).still = s.still := by
  unfold State.rejoinInstant
  repeat first
    | (with_reducible first | rfl | refine (State.onFab_still ..).trans ?_
                            | refine (State.portNotice_still ..).trans ?_ | refine State.still_ite ?_ ?_
                            | refine (State.still_foldl _ (fun _ _ => ?_) _ _).trans ?_
                            | refine (State.still_foldl1 _ (fun _ _ => ?_) _ _).trans ?_)
    | simp only [↓State.still_mk, ↓State.still_fold] | dsimp only | split

theorem State.substituteInstant_still (s : State) :
    (State.substituteInstant s).still = s.still := by
  unfold State.substituteInstant
  repeat first
    | (with_reducible first | rfl | refine (State.onFab_still ..).trans ?_ | refine (State.log1_still ..).trans ?_)
    | simp only [↓State.still_mk, ↓State.still_fold] | dsimp only | split

theorem State.retrainInstant_still (s : State) :
    (State.retrainInstant s).still = s.still := by
  unfold State.retrainInstant
  repeat first
    | (with_reducible first | rfl | refine (State.takeDown_still ..).trans ?_ | refine (State.onFab_still ..).trans ?_
                            | refine (State.countFab_still ..).trans ?_ | refine State.still_ite ?_ ?_
                            | refine (State.still_foldl _ (fun _ _ => ?_) _ _).trans ?_
                            | refine (State.still_foldl1 _ (fun _ _ => ?_) _ _).trans ?_)
    | simp only [↓State.still_mk, ↓State.still_fold] | dsimp only | split

theorem State.countSt_still (s : State) (p : StreamPort) (k : Fin 14) (n : Nat) :
    (State.countSt s p k n).still = s.still := by
  unfold State.countSt
  repeat first
    | (with_reducible first | rfl | refine (State.onSt_still ..).trans ?_)
    | simp only [↓State.still_mk, ↓State.still_fold] | dsimp only | split

theorem State.inputFault_still (s : State) (p : StreamPort) (kind : Nat) :
    (State.inputFault s p kind).still = s.still := by
  unfold State.inputFault
  repeat first
    | (with_reducible first | rfl | refine (State.summary_still ..).trans ?_)
    | simp only [↓State.still_mk, ↓State.still_fold] | dsimp only | split

theorem State.discardSt_still (s : State) (p : StreamPort) (k : Fin 14) :
    (State.discardSt s p k).still = s.still := by
  unfold State.discardSt
  repeat first
    | (with_reducible first | rfl | refine (State.countSt_still ..).trans ?_ | refine (State.onSt_still ..).trans ?_
                            | refine (State.inputFault_still ..).trans ?_)
    | simp only [↓State.still_mk, ↓State.still_fold] | dsimp only | split

theorem State.landLine_still (s : State) (p : StreamPort) (r : StreamRec) (shift line stamp off : Nat) (bs : List Byte) :
    (State.landLine s p r shift line stamp off bs).still = s.still := by
  unfold State.landLine
  repeat first
    | (with_reducible first | rfl | refine (State.discardSt_still ..).trans ?_
                            | refine (State.onCore_still ..).trans ?_ | refine (State.portBeats_still ..).trans ?_
                            | refine (State.onSt_still ..).trans ?_ | refine (State.countSt_still ..).trans ?_
                            | refine (State.inputFault_still ..).trans ?_ | refine State.still_ite ?_ ?_)
    | simp only [↓State.still_mk, ↓State.still_fold] | dsimp only | split

theorem State.acceptSt_still (s : State) (p : StreamPort) (f : FoldNo) (r : StreamRec) (o : Origin) (payload : List Byte) :
    (State.acceptSt s p f r o payload).still = s.still := by
  unfold State.acceptSt
  repeat first
    | (with_reducible first | rfl | refine (State.onSt_still ..).trans ?_ | refine (State.record_still ..).trans ?_
                            | refine State.still_ite ?_ ?_)
    | simp only [↓State.still_mk, ↓State.still_fold] | dsimp only | split

theorem State.imeskFrame_still (s : State) (p : StreamPort) (r : StreamRec) (shift : Nat) (b : List Byte) :
    (State.imeskFrame s p r shift b).still = s.still := by
  unfold State.imeskFrame
  repeat first
    | (with_reducible first | rfl | refine (State.onSt_still ..).trans ?_ | refine (State.take_still ..).trans ?_
                            | refine (State.landLine_still ..).trans ?_ | refine State.still_ite ?_ ?_)
    | simp only [↓State.still_mk, ↓State.still_fold] | dsimp only | split

theorem State.gevFrame_still (s : State) (p : StreamPort) (r : StreamRec) (shift : Nat) (b : List Byte) :
    (State.gevFrame s p r shift b).still = s.still := by
  unfold State.gevFrame
  repeat first
    | (with_reducible first | rfl | refine (State.onSt_still ..).trans ?_ | refine (State.discardSt_still ..).trans ?_
                            | refine (State.landLine_still ..).trans ?_ | refine State.still_ite ?_ ?_
                            | refine (State.still_foldl _ (fun _ _ => ?_) _ _).trans ?_
                            | refine (State.still_foldl1 _ (fun _ _ => ?_) _ _).trans ?_)
    | simp only [↓State.still_mk, ↓State.still_fold] | dsimp only | split

theorem State.streamPayload_still (s : State) (p : StreamPort) (f : FoldNo) (r : StreamRec) (o : Origin) (b : List Byte) :
    (State.streamPayload s p f r o b).still = s.still := by
  unfold State.streamPayload
  repeat first
    | (with_reducible first | rfl | refine (State.discardSt_still ..).trans ?_
                            | refine (State.acceptSt_still ..).trans ?_ | refine (State.imeskFrame_still ..).trans ?_
                            | refine (State.gevFrame_still ..).trans ?_ | refine State.still_ite ?_ ?_)
    | simp only [↓State.still_mk, ↓State.still_fold] | dsimp only | split

theorem State.streamFrame_still (s : State) (p : StreamPort) (e : EthFrame) :
    (State.streamFrame s p e).still = s.still := by
  unfold State.streamFrame
  repeat first
    | (with_reducible first | rfl | refine (State.countSt_still ..).trans ?_
                            | refine (State.streamPayload_still ..).trans ?_ | refine State.still_ite ?_ ?_)
    | simp only [↓State.still_mk, ↓State.still_fold] | dsimp only | split

theorem State.invalidFrame_still (s : State) (p : StreamPort) (e : EthFrame) :
    (State.invalidFrame s p e).still = s.still := by
  unfold State.invalidFrame
  repeat first
    | (with_reducible first | rfl | refine (State.countSt_still ..).trans ?_
                            | refine (State.discardSt_still ..).trans ?_ | refine State.still_ite ?_ ?_)
    | simp only [↓State.still_mk, ↓State.still_fold] | dsimp only | split

theorem State.closeWindow_still (s : State) (p : StreamPort) :
    (State.closeWindow s p).still = s.still := by
  unfold State.closeWindow
  repeat first
    | (with_reducible first | rfl | refine (State.inputFault_still ..).trans ?_
                            | refine (State.onCore_still ..).trans ?_ | refine State.still_ite ?_ ?_
                            | refine (State.still_foldl _ (fun _ _ => ?_) _ _).trans ?_
                            | refine (State.still_foldl1 _ (fun _ _ => ?_) _ _).trans ?_)
    | simp only [↓State.still_mk, ↓State.still_fold] | dsimp only | split

theorem State.openWindow_still (s : State) (p : StreamPort) :
    (State.openWindow s p).still = s.still := by
  unfold State.openWindow
  repeat first
    | (with_reducible first | rfl | refine (State.onSt_still ..).trans ?_ | refine State.still_ite ?_ ?_)
    | simp only [↓State.still_mk, ↓State.still_fold] | dsimp only | split

theorem State.windowsInstant_still (s : State) :
    (State.windowsInstant s).still = s.still := by
  unfold State.windowsInstant
  repeat first
    | (with_reducible first | rfl | refine (State.closeWindow_still ..).trans ?_
                            | refine (State.openWindow_still ..).trans ?_
                            | refine (State.still_foldl _ (fun _ _ => ?_) _ _).trans ?_
                            | refine (State.still_foldl1 _ (fun _ _ => ?_) _ _).trans ?_)
    | simp only [↓State.still_mk, ↓State.still_fold] | dsimp only | split

theorem State.presentReplay_still (s : State) (f : FoldNo) :
    (State.presentReplay s f).still = s.still := by
  unfold State.presentReplay
  repeat first
    | (with_reducible first | rfl | refine (State.streamPayload_still ..).trans ?_ | refine State.still_ite ?_ ?_
                            | refine (State.still_foldl _ (fun _ _ => ?_) _ _).trans ?_
                            | refine (State.still_foldl1 _ (fun _ _ => ?_) _ _).trans ?_)
    | simp only [↓State.still_mk, ↓State.still_fold] | dsimp only | split

theorem State.onPl_still (s : State) (p : PlantPort) (g : PlPort → PlPort) :
    (State.onPl s p g).still = s.still := by
  unfold State.onPl
  repeat first
    | (with_reducible first | rfl)
    | simp only [↓State.still_mk, ↓State.still_fold] | dsimp only | split

theorem State.sendDrain_still (s : State) (p : PlantPort) (fs : List (FoldNo × PlantFrame × Nat)) :
    (State.sendDrain s p fs).still = s.still := by
  unfold State.sendDrain
  repeat first
    | (with_reducible first | rfl | refine (State.onPl_still ..).trans ?_ | refine (State.countPl_still ..).trans ?_
                            | refine State.still_ite ?_ ?_)
    | simp only [↓State.still_mk, ↓State.still_fold] | dsimp only | split

theorem State.drainInstant_fixed (s : State) (even : Bool) :
    (State.drainInstant s even).fixed = s.fixed := by
  unfold State.drainInstant
  repeat first
    | (with_reducible first | rfl | refine (State.fixed_of_still (State.sendDrain_still ..)).trans ?_
                            | refine (State.fixed_of_still (State.onFold_still ..)).trans ?_
                            | refine (State.fixed_of_still (State.record_still ..)).trans ?_
                            | refine State.fixed_ite ?_ ?_ | refine (State.fixed_foldl _ (fun _ _ => ?_) _ _).trans ?_
                            | refine (State.fixed_foldl1 _ (fun _ _ => ?_) _ _).trans ?_)
    | simp only [↓State.fixed_mk, ↓State.fixed_fold] | dsimp only | split

theorem State.sendPlant_still (s : State) (p : PlantPort) (k : PlantFrame) :
    (State.sendPlant s p k).still = s.still := by
  unfold State.sendPlant
  repeat first
    | (with_reducible first | rfl | refine (State.onPl_still ..).trans ?_)
    | simp only [↓State.still_mk, ↓State.still_fold] | dsimp only | split

theorem State.telemetryOp_still (s : State) :
    (State.telemetryOp s).still = s.still := by
  unfold State.telemetryOp
  repeat first
    | (with_reducible first | rfl | refine (State.sendPlant_still ..).trans ?_ | refine (State.onPl_still ..).trans ?_
                            | refine State.still_ite ?_ ?_ | refine (State.still_foldl _ (fun _ _ => ?_) _ _).trans ?_
                            | refine (State.still_foldl1 _ (fun _ _ => ?_) _ _).trans ?_)
    | simp only [↓State.still_mk, ↓State.still_fold] | dsimp only | split

theorem State.exportOp_still (s : State) (f : FoldNo) :
    (State.exportOp s f).still = s.still := by
  unfold State.exportOp
  repeat first
    | (with_reducible first | rfl | refine (State.take_still ..).trans ?_ | refine (State.sendPlant_still ..).trans ?_
                            | refine (State.onPl_still ..).trans ?_ | refine (State.onFold_still ..).trans ?_
                            | refine State.still_ite ?_ ?_)
    | simp only [↓State.still_mk, ↓State.still_fold] | dsimp only | split

theorem State.plantInvalid_still (s : State) (p : PlantPort) (e : EthFrame) :
    (State.plantInvalid s p e).still = s.still := by
  unfold State.plantInvalid
  repeat first
    | (with_reducible first | rfl | refine (State.countPl_still ..).trans ?_ | refine State.still_ite ?_ ?_)
    | simp only [↓State.still_mk, ↓State.still_fold] | dsimp only | split

theorem State.feedOp_still (s : State) (p : PlantPort) (e : EthFrame) :
    (State.feedOp s p e).still = s.still := by
  unfold State.feedOp
  repeat first
    | (with_reducible first | rfl | refine (State.countPl_still ..).trans ?_ | refine (State.onFold_still ..).trans ?_
                            | refine (State.countFold_still ..).trans ?_ | refine State.still_ite ?_ ?_)
    | simp only [↓State.still_mk, ↓State.still_fold] | dsimp only | split

theorem State.replayInstant_still (s : State) (f : FoldNo) :
    (State.replayInstant s f).still = s.still := by
  unfold State.replayInstant
  repeat first
    | (with_reducible first | rfl | refine (State.onFold_still ..).trans ?_ | refine State.still_ite ?_ ?_)
    | simp only [↓State.still_mk, ↓State.still_fold] | dsimp only | split

theorem State.neighbourOp_still (s : State) (p : EthPort) (v6 : Bool) (target : BitVec 128) :
    (State.neighbourOp s p v6 target).still = s.still := by
  unfold State.neighbourOp
  repeat first
    | (with_reducible first | rfl | refine (State.onSt_still ..).trans ?_ | refine (State.onPl_still ..).trans ?_
                            | refine State.still_ite ?_ ?_)
    | simp only [↓State.still_mk, ↓State.still_fold] | dsimp only | split

theorem State.linkUpOp_still (s : State) (p : EthPort) (m : EthMode) :
    (State.linkUpOp s p m).still = s.still := by
  unfold State.linkUpOp
  repeat first
    | (with_reducible first | rfl | refine (State.onSt_still ..).trans ?_ | refine (State.onPl_still ..).trans ?_
                            | refine State.still_ite ?_ ?_)
    | simp only [↓State.still_mk, ↓State.still_fold] | dsimp only | split

theorem State.linkLossOp_still (s : State) (p : EthPort) :
    (State.linkLossOp s p).still = s.still := by
  unfold State.linkLossOp
  repeat first
    | (with_reducible first | rfl | refine (State.onSt_still ..).trans ?_ | refine (State.onPl_still ..).trans ?_)
    | simp only [↓State.still_mk, ↓State.still_fold] | dsimp only | split

theorem State.autonegOp_still (s : State) (p : EthPort) :
    (State.autonegOp s p).still = s.still := by
  unfold State.autonegOp
  repeat first
    | (with_reducible first | rfl | refine (State.onSt_still ..).trans ?_ | refine (State.onPl_still ..).trans ?_
                            | refine State.still_ite ?_ ?_)
    | simp only [↓State.still_mk, ↓State.still_fold] | dsimp only | split

end Sys2Proof.Machine
end

