-- ==== Sys2Proof/Laws/FrameModule.lean ====
section
/-! SUPPORT. Frames of power, boot, maintenance, presence, the module hardware, the tick and the clock. -/

set_option linter.unusedSimpArgs false

namespace Sys2Proof.Machine

theorem State.unpowered_keep (s : State) :
    (State.unpowered s).keep = s.keep := by
  unfold State.unpowered
  repeat first
    | (with_reducible first | rfl)
    | simp only [↓State.keep_mk, ↓State.keep_fold] | dsimp only | split

theorem State.shutdown_keep (s : State) (code : BitVec 16) (detail : List Byte) :
    (State.shutdown s code detail).keep = s.keep := by
  unfold State.shutdown
  repeat first
    | (with_reducible first | rfl | refine (State.keep_of_still (State.log1_still ..)).trans ?_
                            | refine (State.keep_of_still (State.writeEntry_still ..)).trans ?_
                            | refine (State.unpowered_keep ..).trans ?_
                            | refine (State.keep_foldl _ (fun _ _ => ?_) _ _).trans ?_
                            | refine (State.keep_foldl1 _ (fun _ _ => ?_) _ _).trans ?_)
    | simp only [↓State.keep_mk, ↓State.keep_fold] | dsimp only | split

theorem State.inputApplied_still (s : State) :
    (State.inputApplied s).still = s.still := by
  unfold State.inputApplied
  repeat first
    | (with_reducible first | rfl | refine State.still_ite ?_ ?_)
    | simp only [↓State.still_mk, ↓State.still_fold] | dsimp only | split

theorem State.undervoltage_keep (s : State) (mv : Nat) :
    (State.undervoltage s mv).keep = s.keep := by
  unfold State.undervoltage
  repeat first
    | (with_reducible first | rfl | refine (State.shutdown_keep ..).trans ?_ | refine State.keep_ite ?_ ?_)
    | simp only [↓State.keep_mk, ↓State.keep_fold] | dsimp only | split

theorem State.overvoltage_keep (s : State) (mv : Nat) :
    (State.overvoltage s mv).keep = s.keep := by
  unfold State.overvoltage
  repeat first
    | (with_reducible first | rfl | refine (State.shutdown_keep ..).trans ?_ | refine State.keep_ite ?_ ?_)
    | simp only [↓State.keep_mk, ↓State.keep_fold] | dsimp only | split

theorem State.tripPackage_keep (s : State) (cause : Nat) :
    (State.tripPackage s cause).keep = s.keep := by
  unfold State.tripPackage
  repeat first
    | (with_reducible first | rfl | refine (State.shutdown_keep ..).trans ?_)
    | simp only [↓State.keep_mk, ↓State.keep_fold] | dsimp only | split

theorem State.unitLost_still (s : State) (r : UnitRail) :
    (State.unitLost s r).still = s.still := by
  unfold State.unitLost
  repeat first
    | (with_reducible first | rfl | refine (State.log1_still ..).trans ?_)
    | simp only [↓State.still_mk, ↓State.still_fold] | dsimp only | split

theorem State.packageFault_still (s : State) :
    (State.packageFault s).still = s.still := by
  unfold State.packageFault
  repeat first
    | (with_reducible first | rfl | refine (State.hurdle_still ..).trans ?_
                            | refine (State.still_foldl _ (fun _ _ => ?_) _ _).trans ?_
                            | refine (State.still_foldl1 _ (fun _ _ => ?_) _ _).trans ?_)
    | simp only [↓State.still_mk, ↓State.still_fold] | dsimp only | split

theorem State.railPorts_still (s : State) (copper : Bool) :
    (State.railPorts s copper).still = s.still := by
  unfold State.railPorts
  repeat first
    | (with_reducible first | rfl | refine (State.takeDown_still ..).trans ?_ | refine (State.onFab_still ..).trans ?_
                            | refine State.still_ite ?_ ?_ | refine (State.still_foldl _ (fun _ _ => ?_) _ _).trans ?_
                            | refine (State.still_foldl1 _ (fun _ _ => ?_) _ _).trans ?_)
    | simp only [↓State.still_mk, ↓State.still_fold] | dsimp only | split

theorem State.railOut_still (s : State) (r : Rail) :
    (State.railOut s r).still = s.still := by
  unfold State.railOut
  repeat first
    | (with_reducible first | rfl | refine (State.onSup_still ..).trans ?_ | refine (State.log1_still ..).trans ?_
                            | refine (State.coreFault_still ..).trans ?_
                            | refine (State.packageFault_still ..).trans ?_
                            | refine (State.railPorts_still ..).trans ?_
                            | refine (State.still_foldl _ (fun _ _ => ?_) _ _).trans ?_
                            | refine (State.still_foldl1 _ (fun _ _ => ?_) _ _).trans ?_)
    | simp only [↓State.still_mk, ↓State.still_fold] | dsimp only | split

theorem State.onSupply_still (s : State) (p : CoreNo) (g : Supply → Supply) :
    (State.onSupply s p g).still = s.still := by
  unfold State.onSupply
  repeat first
    | (with_reducible first | rfl | refine (State.onCore_still ..).trans ?_)
    | simp only [↓State.still_mk, ↓State.still_fold] | dsimp only | split

theorem State.forceFold_still (s : State) (f : FoldNo) :
    (State.forceFold s f).still = s.still := by
  unfold State.forceFold
  repeat first
    | (with_reducible first | rfl | refine (State.onFold_still ..).trans ?_)
    | simp only [↓State.still_mk, ↓State.still_fold] | dsimp only | split

theorem State.forceCore_still (s : State) (p : CoreNo) :
    (State.forceCore s p).still = s.still := by
  unfold State.forceCore
  repeat first
    | (with_reducible first | rfl | refine (State.forceFold_still ..).trans ?_
                            | refine (State.still_foldl _ (fun _ _ => ?_) _ _).trans ?_
                            | refine (State.still_foldl1 _ (fun _ _ => ?_) _ _).trans ?_)
    | simp only [↓State.still_mk, ↓State.still_fold] | dsimp only | split

theorem State.stopWarming_still (s : State) :
    (State.stopWarming s).still = s.still := by
  unfold State.stopWarming
  repeat first
    | (with_reducible first | rfl | refine (State.onSupply_still ..).trans ?_ | refine (State.log1_still ..).trans ?_
                            | refine State.still_ite ?_ ?_ | refine (State.still_foldl _ (fun _ _ => ?_) _ _).trans ?_
                            | refine (State.still_foldl1 _ (fun _ _ => ?_) _ _).trans ?_)
    | simp only [↓State.still_mk, ↓State.still_fold] | dsimp only | split

theorem State.overPower_still (s : State) (mean : Nat) :
    (State.overPower s mean).still = s.still := by
  unfold State.overPower
  repeat first
    | (with_reducible first | rfl | refine (State.log1_still ..).trans ?_ | refine (State.forceFold_still ..).trans ?_
                            | refine (State.stopWarming_still ..).trans ?_ | refine State.still_ite ?_ ?_
                            | refine (State.still_foldl _ (fun _ _ => ?_) _ _).trans ?_
                            | refine (State.still_foldl1 _ (fun _ _ => ?_) _ _).trans ?_)
    | simp only [↓State.still_mk, ↓State.still_fold] | dsimp only | split

theorem State.powerOp_still (s : State) (deciwatts mv : Nat) :
    (State.powerOp s deciwatts mv).still = s.still := by
  unfold State.powerOp
  repeat first
    | (with_reducible first | rfl | refine (State.overPower_still ..).trans ?_ | refine State.still_ite ?_ ?_)
    | simp only [↓State.still_mk, ↓State.still_fold] | dsimp only | split

theorem State.lift_still (s : State) :
    (State.lift s).still = s.still := by
  unfold State.lift
  repeat first
    | (with_reducible first | rfl | refine State.still_ite ?_ ?_)
    | simp only [↓State.still_mk, ↓State.still_fold] | dsimp only | split

theorem State.setFloors_still (s : State) :
    (State.setFloors s).still = s.still := by
  unfold State.setFloors
  repeat first
    | (with_reducible first | rfl | refine State.still_ite ?_ ?_)
    | simp only [↓State.still_mk, ↓State.still_fold] | dsimp only | split

theorem State.settle_still (s : State) :
    (State.settle s).still = s.still := by
  unfold State.settle
  repeat first
    | (with_reducible first | rfl | refine (State.lift_still ..).trans ?_ | refine (State.setFloors_still ..).trans ?_
                            | refine (State.log1_still ..).trans ?_ | refine State.still_ite ?_ ?_
                            | refine (State.still_foldl _ (fun _ _ => ?_) _ _).trans ?_
                            | refine (State.still_foldl1 _ (fun _ _ => ?_) _ _).trans ?_)
    | simp only [↓State.still_mk, ↓State.still_fold] | dsimp only | split

theorem State.giveNotice_still (s : State) (p : CoreNo) (h : Nat) :
    (State.giveNotice s p h).still = s.still := by
  unfold State.giveNotice
  repeat first
    | (with_reducible first | rfl | refine (State.onCore_still ..).trans ?_ | refine (State.log1_still ..).trans ?_)
    | simp only [↓State.still_mk, ↓State.still_fold] | dsimp only | split

theorem State.marginLost_still (s : State) (p : CoreNo) :
    (State.marginLost s p).still = s.still := by
  unfold State.marginLost
  repeat first
    | (with_reducible first | rfl | refine (State.forceCore_still ..).trans ?_
                            | refine (State.giveNotice_still ..).trans ?_ | refine State.still_ite ?_ ?_)
    | simp only [↓State.still_mk, ↓State.still_fold] | dsimp only | split

theorem State.marginOp_still (s : State) (ms : List Nat) :
    (State.marginOp s ms).still = s.still := by
  unfold State.marginOp
  repeat first
    | (with_reducible first | rfl | refine (State.log1_still ..).trans ?_
                            | refine (State.marginLost_still ..).trans ?_ | refine (State.settle_still ..).trans ?_
                            | refine State.still_ite ?_ ?_ | refine (State.still_foldl _ (fun _ _ => ?_) _ _).trans ?_
                            | refine (State.still_foldl1 _ (fun _ _ => ?_) _ _).trans ?_)
    | simp only [↓State.still_mk, ↓State.still_fold] | dsimp only | split

theorem State.lowerCores_still (s : State) :
    (State.lowerCores s).still = s.still := by
  unfold State.lowerCores
  repeat first
    | (with_reducible first | rfl | refine (State.setFloors_still ..).trans ?_ | refine State.still_ite ?_ ?_)
    | simp only [↓State.still_mk, ↓State.still_fold] | dsimp only | split

theorem State.selfChecks_still (s : State) :
    (State.selfChecks s).still = s.still := by
  unfold State.selfChecks
  repeat first
    | (with_reducible first | rfl | refine (State.log1_still ..).trans ?_ | refine (State.coreFault_still ..).trans ?_
                            | refine State.still_ite ?_ ?_ | refine (State.still_foldl _ (fun _ _ => ?_) _ _).trans ?_
                            | refine (State.still_foldl1 _ (fun _ _ => ?_) _ _).trans ?_)
    | simp only [↓State.still_mk, ↓State.still_fold] | dsimp only | split

theorem State.raiseDie_still (s : State) (d : Fin 8) :
    (State.raiseDie s d).still = s.still := by
  unfold State.raiseDie
  repeat first
    | (with_reducible first | rfl | refine (State.onSupply_still ..).trans ?_ | refine State.still_ite ?_ ?_
                            | refine (State.still_foldl _ (fun _ _ => ?_) _ _).trans ?_
                            | refine (State.still_foldl1 _ (fun _ _ => ?_) _ _).trans ?_)
    | simp only [↓State.still_mk, ↓State.still_fold] | dsimp only | split

theorem State.crossing_still (s : State) (x : (Fin 8 × Fin 8) × Nat) :
    (State.crossing s x).still = s.still := by
  unfold State.crossing
  repeat first
    | (with_reducible first | rfl | refine (State.raiseDie_still ..).trans ?_
                            | refine (State.forceCore_still ..).trans ?_
                            | refine (State.packageFault_still ..).trans ?_ | refine State.still_ite ?_ ?_
                            | refine (State.still_foldl _ (fun _ _ => ?_) _ _).trans ?_
                            | refine (State.still_foldl1 _ (fun _ _ => ?_) _ _).trans ?_)
    | simp only [↓State.still_mk, ↓State.still_fold] | dsimp only | split

theorem State.phaseOp_still (s : State) (phis : List ((Fin 8 × Fin 8) × Nat)) :
    (State.phaseOp s phis).still = s.still := by
  unfold State.phaseOp
  repeat first
    | (with_reducible first | rfl | refine (State.log1_still ..).trans ?_ | refine (State.crossing_still ..).trans ?_
                            | refine (State.settle_still ..).trans ?_ | refine State.still_ite ?_ ?_
                            | refine (State.still_foldl _ (fun _ _ => ?_) _ _).trans ?_
                            | refine (State.still_foldl1 _ (fun _ _ => ?_) _ _).trans ?_)
    | simp only [↓State.still_mk, ↓State.still_fold] | dsimp only | split

theorem State.resetTickSamples_still (s : State) :
    (State.resetTickSamples s).still = s.still := by
  unfold State.resetTickSamples
  repeat first
    | (with_reducible first | rfl)
    | simp only [↓State.still_mk, ↓State.still_fold] | dsimp only | split

theorem State.spread_still (s : State) (before : Vector Int 32) (hot cool : CoreNo) :
    (State.spread s before hot cool).still = s.still := by
  unfold State.spread
  repeat first
    | (with_reducible first | rfl | refine (State.onSupply_still ..).trans ?_ | refine (State.log1_still ..).trans ?_
                            | refine (State.forceCore_still ..).trans ?_ | refine State.still_ite ?_ ?_)
    | simp only [↓State.still_mk, ↓State.still_fold] | dsimp only | split

theorem State.manageWarming_still (s : State) (before : Vector Int 32) :
    (State.manageWarming s before).still = s.still := by
  unfold State.manageWarming
  repeat first
    | (with_reducible first | rfl | refine (State.spread_still ..).trans ?_
                            | refine (State.onSupply_still ..).trans ?_ | refine (State.log1_still ..).trans ?_
                            | refine State.still_ite ?_ ?_ | refine (State.still_foldl _ (fun _ _ => ?_) _ _).trans ?_
                            | refine (State.still_foldl1 _ (fun _ _ => ?_) _ _).trans ?_)
    | simp only [↓State.still_mk, ↓State.still_fold] | dsimp only | split

theorem State.estimateFlow_still (s : State) :
    (State.estimateFlow s).still = s.still := by
  unfold State.estimateFlow
  repeat first
    | (with_reducible first | rfl | refine State.still_ite ?_ ?_)
    | simp only [↓State.still_mk, ↓State.still_fold] | dsimp only | split

theorem State.coolantAlarm_still (s : State) :
    (State.coolantAlarm s).still = s.still := by
  unfold State.coolantAlarm
  repeat first
    | (with_reducible first | rfl | refine (State.log1_still ..).trans ?_ | refine State.still_ite ?_ ?_)
    | simp only [↓State.still_mk, ↓State.still_fold] | dsimp only | split

theorem State.temperatureOp_keep (s : State) (r : TempReadings) :
    (State.temperatureOp s r).keep = s.keep := by
  unfold State.temperatureOp
  repeat first
    | (with_reducible first | rfl | refine (State.keep_of_still (State.manageWarming_still ..)).trans ?_
                            | refine (State.keep_of_still (State.estimateFlow_still ..)).trans ?_
                            | refine (State.keep_of_still (State.coolantAlarm_still ..)).trans ?_
                            | refine (State.tripPackage_keep ..).trans ?_ | refine State.keep_ite ?_ ?_
                            | refine (State.keep_foldl _ (fun _ _ => ?_) _ _).trans ?_
                            | refine (State.keep_foldl1 _ (fun _ _ => ?_) _ _).trans ?_)
    | simp only [↓State.keep_mk, ↓State.keep_fold] | dsimp only | split

theorem State.tripOp_keep (s : State) (x : TripSensor) (reading : Int) :
    (State.tripOp s x reading).keep = s.keep := by
  unfold State.tripOp
  repeat first
    | (with_reducible first | rfl | refine (State.keep_of_still (State.log1_still ..)).trans ?_
                            | refine (State.keep_of_still (State.coreFault_still ..)).trans ?_
                            | refine (State.keep_of_still (State.onSupply_still ..)).trans ?_
                            | refine (State.tripPackage_keep ..).trans ?_ | refine State.keep_ite ?_ ?_
                            | refine (State.keep_foldl _ (fun _ _ => ?_) _ _).trans ?_
                            | refine (State.keep_foldl1 _ (fun _ _ => ?_) _ _).trans ?_)
    | simp only [↓State.keep_mk, ↓State.keep_fold] | dsimp only | split

theorem State.logEach_still (s : State) (code : BitVec 16) (p : CoreNo) (detail : List Byte) :
    (State.logEach s code p detail).still = s.still := by
  unfold State.logEach
  repeat first
    | (with_reducible first | rfl | refine State.still_ite ?_ ?_)
    | simp only [↓State.still_mk, ↓State.still_fold] | dsimp only | split

theorem State.ageingOp_still (s : State) (rs : List AgeingReading) :
    (State.ageingOp s rs).still = s.still := by
  unfold State.ageingOp
  repeat first
    | (with_reducible first | rfl | refine (State.onSupply_still ..).trans ?_
                            | refine (State.logEach_still ..).trans ?_ | refine State.still_ite ?_ ?_
                            | refine (State.still_foldl _ (fun _ _ => ?_) _ _).trans ?_
                            | refine (State.still_foldl1 _ (fun _ _ => ?_) _ _).trans ?_)
    | simp only [↓State.still_mk, ↓State.still_fold] | dsimp only | split

theorem State.replanCore_still (s : State) (p : CoreNo) (q : Rat) :
    (State.replanCore s p q).still = s.still := by
  unfold State.replanCore
  repeat first
    | (with_reducible first | rfl | refine (State.onSupply_still ..).trans ?_ | refine (State.take_still ..).trans ?_
                            | refine (State.log1_still ..).trans ?_ | refine (State.giveNotice_still ..).trans ?_
                            | refine State.still_ite ?_ ?_)
    | simp only [↓State.still_mk, ↓State.still_fold] | dsimp only | split

theorem State.replanOp_still (s : State) (required : List Rat) :
    (State.replanOp s required).still = s.still := by
  unfold State.replanOp
  repeat first
    | (with_reducible first | rfl | refine (State.replanCore_still ..).trans ?_ | refine State.still_ite ?_ ?_
                            | refine (State.still_foldl _ (fun _ _ => ?_) _ _).trans ?_
                            | refine (State.still_foldl1 _ (fun _ _ => ?_) _ _).trans ?_)
    | simp only [↓State.still_mk, ↓State.still_fold] | dsimp only | split

theorem State.withLife_still (s : State) (l : Life) (root : Option (BitVec 384)) :
    (State.withLife s l root).still = s.still := by
  unfold State.withLife
  repeat first
    | (with_reducible first | rfl)
    | simp only [↓State.still_mk, ↓State.still_fold] | dsimp only | split

theorem State.still_identity (s t : State) (h : t.still = s.still) (m p : BitVec 384) :
    ({ t with trust := { t.trust with masked := m, fingerprint := p } } : State).still = s.still := h

theorem State.brand_still (s : State) :
    (State.brand s).still = s.still := by
  unfold State.brand
  exact State.still_identity _ _ ((State.withLife_still ..).trans (State.draw_still ..)) _ _

theorem State.recall_still (s : State) :
    (State.recall s).still = s.still := by
  unfold State.recall
  repeat first
    | (with_reducible first | rfl | refine (State.withLife_still ..).trans ?_ | refine (State.log1_still ..).trans ?_
                            | refine State.still_ite ?_ ?_)
    | simp only [↓State.still_mk, ↓State.still_fold] | dsimp only | split

theorem State.identify_still (s : State) :
    (State.identify s).still = s.still := by
  unfold State.identify
  repeat first
    | (with_reducible first | rfl | refine (State.brand_still ..).trans ?_ | refine (State.recall_still ..).trans ?_
                            | refine State.still_ite ?_ ?_)
    | simp only [↓State.still_mk, ↓State.still_fold] | dsimp only | split

theorem State.bindFirst_still (s : State) :
    (State.bindFirst s).still = s.still := by
  unfold State.bindFirst
  repeat first
    | (with_reducible first | rfl | refine State.still_ite ?_ ?_)
    | simp only [↓State.still_mk, ↓State.still_fold] | dsimp only | split

theorem State.bootStores_still (s : State) :
    (State.bootStores s).still = s.still := by
  unfold State.bootStores
  repeat first
    | (with_reducible first | rfl | refine (State.commit_still ..).trans ?_ | refine State.still_ite ?_ ?_)
    | simp only [↓State.still_mk, ↓State.still_fold] | dsimp only | split

theorem State.readRecord_still (s : State) :
    (State.readRecord s).still = s.still := by
  unfold State.readRecord
  repeat first
    | (with_reducible first | rfl 
                            | refine State.still_ite ?_ ?_)
    | simp only [↓State.still_mk, ↓State.still_fold] | dsimp only | split

theorem State.startFirmware_still (s : State) :
    (State.startFirmware s).still = s.still := by
  unfold State.startFirmware
  repeat first
    | (with_reducible first | rfl | refine (State.bootStores_still ..).trans ?_ | refine (State.readRecord_still ..).trans ?_
                            | refine State.still_ite ?_ ?_)
    | simp only [↓State.still_mk, ↓State.still_fold] | dsimp only | split

theorem State.bootEntries_still (s : State) :
    (State.bootEntries s).still = s.still := by
  unfold State.bootEntries
  repeat first
    | (with_reducible first | rfl | refine (State.commit_still ..).trans ?_ | refine (State.log1_still ..).trans ?_
                            | refine State.still_ite ?_ ?_ | refine (State.still_foldl _ (fun _ _ => ?_) _ _).trans ?_
                            | refine (State.still_foldl1 _ (fun _ _ => ?_) _ _).trans ?_)
    | simp only [↓State.still_mk, ↓State.still_fold] | dsimp only | split

theorem State.buildMap_still (s : State) (m : ModuleSection) :
    (State.buildMap s m).still = s.still := by
  unfold State.buildMap
  repeat first
    | (with_reducible first | rfl | refine (State.commit_still ..).trans ?_ | refine (State.settle_still ..).trans ?_
                            | refine State.still_ite ?_ ?_)
    | simp only [↓State.still_mk, ↓State.still_fold] | dsimp only | split

theorem State.baseline_still (s : State) :
    (State.baseline s).still = s.still := by
  unfold State.baseline
  repeat first
    | (with_reducible first | rfl | refine (State.onSupply_still ..).trans ?_
                            | refine (State.logEach_still ..).trans ?_ | refine State.still_ite ?_ ?_
                            | refine (State.still_foldl _ (fun _ _ => ?_) _ _).trans ?_
                            | refine (State.still_foldl1 _ (fun _ _ => ?_) _ _).trans ?_)
    | simp only [↓State.still_mk, ↓State.still_fold] | dsimp only | split

theorem State.useSection_still (s : State) (m : ModuleSection) :
    (State.useSection s m).still = s.still := by
  unfold State.useSection
  repeat first
    | (with_reducible first | rfl)
    | simp only [↓State.still_mk, ↓State.still_fold] | dsimp only | split

theorem State.readyFolds_still (s : State) :
    (State.readyFolds s).still = s.still := by
  unfold State.readyFolds
  repeat first
    | (with_reducible first | rfl | refine (State.resume_still ..).trans ?_ | refine State.still_ite ?_ ?_
                            | refine (State.still_foldl _ (fun _ _ => ?_) _ _).trans ?_
                            | refine (State.still_foldl1 _ (fun _ _ => ?_) _ _).trans ?_)
    | simp only [↓State.still_mk, ↓State.still_fold] | dsimp only | split

theorem State.bootStore_still (s : State) :
    (State.bootStore s).still = s.still := by
  unfold State.bootStore
  repeat first
    | (with_reducible first | rfl | refine (State.bootEntries_still ..).trans ?_
                            | refine (State.useSection_still ..).trans ?_ | refine (State.buildMap_still ..).trans ?_
                            | refine (State.baseline_still ..).trans ?_ | refine (State.readyFolds_still ..).trans ?_
                            | refine State.still_ite ?_ ?_)
    | simp only [↓State.still_mk, ↓State.still_fold] | dsimp only | split

theorem State.continueBoot_still (s : State) :
    (State.continueBoot s).still = s.still := by
  unfold State.continueBoot
  repeat first
    | (with_reducible first | rfl | refine (State.identify_still ..).trans ?_
                            | refine (State.startFirmware_still ..).trans ?_
                            | refine (State.bootStore_still ..).trans ?_ | refine State.still_ite ?_ ?_)
    | simp only [↓State.still_mk, ↓State.still_fold] | dsimp only | split

theorem State.coresOn_still (s : State) :
    (State.coresOn s).still = s.still := by
  unfold State.coresOn
  repeat first
    | (with_reducible first | rfl | refine State.still_ite ?_ ?_)
    | simp only [↓State.still_mk, ↓State.still_fold] | dsimp only | split

theorem State.powerGoodOp_still (s : State) :
    (State.powerGoodOp s).still = s.still := by
  unfold State.powerGoodOp
  repeat first
    | (with_reducible first | rfl | refine (State.coresOn_still ..).trans ?_
                            | refine (State.continueBoot_still ..).trans ?_ | refine State.still_ite ?_ ?_)
    | simp only [↓State.still_mk, ↓State.still_fold] | dsimp only | split

theorem State.onSess_still (s : State) (g : Session → Session) :
    (State.onSess s g).still = s.still := by
  unfold State.onSess
  repeat first
    | (with_reducible first | rfl)
    | simp only [↓State.still_mk, ↓State.still_fold] | dsimp only | split

theorem State.emitAnswer_still (s : State) (a : Answer) :
    (State.emitAnswer s a).still = s.still := by
  unfold State.emitAnswer
  repeat first
    | (with_reducible first | rfl 
                            | refine (State.onPl_still ..).trans ?_
                            | refine (State.sendPlant_still ..).trans ?_)
    | simp only [↓State.still_mk, ↓State.still_fold] | dsimp only | split

theorem State.sendAnswer_still (s : State) (a : Answer) :
    (State.sendAnswer s a).still = s.still := by
  unfold State.sendAnswer
  repeat first
    | (with_reducible first | rfl 
                            | refine (State.emitAnswer_still ..).trans ?_
                            | refine (State.onPl_still ..).trans ?_
                            | refine (State.onSess_still ..).trans ?_
                            | refine State.still_ite ?_ ?_)
    | simp only [↓State.still_mk, ↓State.still_fold] | dsimp only | split

theorem State.answerCycle_still (s : State) (p : PlantPort) :
    (State.answerCycle s p).still = s.still := by
  unfold State.answerCycle
  repeat first
    | (with_reducible first | rfl 
                            | refine (State.emitAnswer_still ..).trans ?_
                            | refine (State.onPl_still ..).trans ?_
                            | refine State.still_ite ?_ ?_)
    | simp only [↓State.still_mk, ↓State.still_fold] | dsimp only | split

theorem State.finishWith_still (s : State) (r : MaintReq) (status : Nat) (session : BitVec 32) (body : List Byte) :
    (State.finishWith s r status session body).still = s.still := by
  unfold State.finishWith
  repeat first
    | (with_reducible first | rfl | refine (State.onSess_still ..).trans ?_ | refine (State.take_still ..).trans ?_
                            | refine (State.sendAnswer_still ..).trans ?_)
    | simp only [↓State.still_mk, ↓State.still_fold] | dsimp only | split

theorem State.finish_still (s : State) (r : MaintReq) (status : Nat) (body : List Byte) :
    (State.finish s r status body).still = s.still := by
  unfold State.finish
  repeat first
    | (with_reducible first | rfl | refine (State.finishWith_still ..).trans ?_)
    | simp only [↓State.still_mk, ↓State.still_fold] | dsimp only | split

theorem State.logMaint_still (s : State) (r : MaintReq) :
    (State.logMaint s r).still = s.still := by
  unfold State.logMaint
  repeat first
    | (with_reducible first | rfl | refine (State.log1_still ..).trans ?_)
    | simp only [↓State.still_mk, ↓State.still_fold] | dsimp only | split

theorem State.done_still (s : State) (r : MaintReq) :
    (State.done s r).still = s.still := by
  unfold State.done
  repeat first
    | (with_reducible first | rfl | refine (State.logMaint_still ..).trans ?_
                            | refine (State.finish_still ..).trans ?_)
    | simp only [↓State.still_mk, ↓State.still_fold] | dsimp only | split

theorem State.touch_still (s : State) (r : MaintReq) :
    (State.touch s r).still = s.still := by
  unfold State.touch
  repeat first
    | (with_reducible first | rfl | refine (State.onSess_still ..).trans ?_ | refine State.still_ite ?_ ?_)
    | simp only [↓State.still_mk, ↓State.still_fold] | dsimp only | split

theorem State.request_still (s : State) (r : MaintReq) (act : State → State) (h : ∀ s, (act s).still = s.still) :
    (State.request s r act).still = s.still := by
  unfold State.request
  repeat first
    | (with_reducible first | rfl | refine (h ..).trans ?_ | refine (State.countPl_still ..).trans ?_
                            | refine (State.sendAnswer_still ..).trans ?_ | refine (State.touch_still ..).trans ?_
                            | refine State.still_ite ?_ ?_)
    | simp only [↓State.still_mk, ↓State.still_fold] | dsimp only | split

theorem State.request_fixed (s : State) (r : MaintReq) (act : State → State) (h : ∀ s, (act s).fixed = s.fixed) :
    (State.request s r act).fixed = s.fixed := by
  unfold State.request
  repeat first
    | (with_reducible first | rfl | refine (h ..).trans ?_
                            | refine (State.fixed_of_still (State.countPl_still ..)).trans ?_
                            | refine (State.fixed_of_still (State.sendAnswer_still ..)).trans ?_
                            | refine (State.fixed_of_still (State.touch_still ..)).trans ?_
                            | refine State.fixed_ite ?_ ?_)
    | simp only [↓State.fixed_mk, ↓State.fixed_fold] | dsimp only | split

theorem State.inWindow_still (s : State) (r : MaintReq) (act : State → State) (h : ∀ s, (act s).still = s.still) :
    (State.inWindow s r act).still = s.still := by
  unfold State.inWindow
  repeat first
    | (with_reducible first | rfl | refine (h ..).trans ?_
                            | refine (State.request_still _ _ _ (fun _ => ?_)).trans ?_
                            | refine (State.finish_still ..).trans ?_)
    | simp only [↓State.still_mk, ↓State.still_fold] | dsimp only | split

theorem State.inWindow_fixed (s : State) (r : MaintReq) (act : State → State) (h : ∀ s, (act s).fixed = s.fixed) :
    (State.inWindow s r act).fixed = s.fixed := by
  unfold State.inWindow
  repeat first
    | (with_reducible first | rfl | refine (h ..).trans ?_
                            | refine (State.request_fixed _ _ _ (fun _ => ?_)).trans ?_
                            | refine (State.fixed_of_still (State.finish_still ..)).trans ?_)
    | simp only [↓State.fixed_mk, ↓State.fixed_fold] | dsimp only | split

theorem State.beginSession_still (s : State) (r : MaintReq) :
    (State.beginSession s r).still = s.still := by
  unfold State.beginSession
  repeat first
    | (with_reducible first | rfl | refine (State.draw_still ..).trans ?_ | refine (State.onSess_still ..).trans ?_
                            | refine (State.logMaint_still ..).trans ?_ | refine (State.finishWith_still ..).trans ?_)
    | simp only [↓State.still_mk, ↓State.still_fold] | dsimp only | split

theorem State.openOp_still (s : State) (r : MaintReq) :
    (State.openOp s r).still = s.still := by
  unfold State.openOp
  repeat first
    | (with_reducible first | rfl | refine (State.request_still _ _ _ (fun _ => ?_)).trans ?_
                            | refine (State.finish_still ..).trans ?_ | refine (State.onSess_still ..).trans ?_
                            | refine (State.beginSession_still ..).trans ?_ | refine State.still_ite ?_ ?_)
    | simp only [↓State.still_mk, ↓State.still_fold] | dsimp only | split

theorem State.endSession_still (s : State) :
    (State.endSession s).still = s.still := by
  unfold State.endSession
  repeat first
    | (with_reducible first | rfl | refine (State.onSess_still ..).trans ?_)
    | simp only [↓State.still_mk, ↓State.still_fold] | dsimp only | split

theorem State.closeOp_still (s : State) (r : MaintReq) :
    (State.closeOp s r).still = s.still := by
  unfold State.closeOp
  repeat first
    | (with_reducible first | rfl | refine (State.request_still _ _ _ (fun _ => ?_)).trans ?_
                            | refine (State.finish_still ..).trans ?_ | refine (State.endSession_still ..).trans ?_
                            | refine (State.done_still ..).trans ?_ | refine State.still_ite ?_ ?_)
    | simp only [↓State.still_mk, ↓State.still_fold] | dsimp only | split

theorem State.sessionTimeoutOp_still (s : State) :
    (State.sessionTimeoutOp s).still = s.still := by
  unfold State.sessionTimeoutOp
  repeat first
    | (with_reducible first | rfl | refine (State.endSession_still ..).trans ?_ | refine State.still_ite ?_ ?_)
    | simp only [↓State.still_mk, ↓State.still_fold] | dsimp only | split

theorem State.inProgressOp_still (s : State) :
    (State.inProgressOp s).still = s.still := by
  unfold State.inProgressOp
  repeat first
    | (with_reducible first | rfl | refine (State.sendAnswer_still ..).trans ?_)
    | simp only [↓State.still_mk, ↓State.still_fold] | dsimp only | split

theorem State.unknownOp_still (s : State) (r : MaintReq) :
    (State.unknownOp s r).still = s.still := by
  unfold State.unknownOp
  repeat first
    | (with_reducible first | rfl | refine (State.request_still _ _ _ (fun _ => ?_)).trans ?_
                            | refine (State.finish_still ..).trans ?_)
    | simp only [↓State.still_mk, ↓State.still_fold] | dsimp only | split

theorem State.attest_still (s : State) (r : MaintReq) :
    (State.attest s r).still = s.still := by
  unfold State.attest
  repeat first
    | (with_reducible first | rfl | refine (State.draw_still ..).trans ?_ | refine (State.finish_still ..).trans ?_)
    | simp only [↓State.still_mk, ↓State.still_fold] | dsimp only | split

theorem State.keepRead_still (s : State) (r : MaintReq) :
    (State.keepRead s r).still = s.still := by
  unfold State.keepRead
  repeat first
    | (with_reducible first | rfl 
                            | refine (State.onSess_still ..).trans ?_)
    | simp only [↓State.still_mk, ↓State.still_fold] | dsimp only | split

theorem State.attestNow_still (s : State) (r : MaintReq) :
    (State.attestNow s r).still = s.still := by
  unfold State.attestNow
  repeat first
    | (with_reducible first | rfl 
                            | refine (State.finish_still ..).trans ?_
                            | refine (State.onSess_still ..).trans ?_
                            | refine (State.attest_still ..).trans ?_
                            | refine State.still_ite ?_ ?_)
    | simp only [↓State.still_mk, ↓State.still_fold] | dsimp only | split

theorem State.attestationOp_still (s : State) (r : MaintReq) :
    (State.attestationOp s r).still = s.still := by
  unfold State.attestationOp
  repeat first
    | (with_reducible first | rfl | refine (State.request_still _ _ _ (fun _ => ?_)).trans ?_
                            | refine (State.finish_still ..).trans ?_ | refine (State.keepRead_still ..).trans ?_
                            | refine (State.attestNow_still ..).trans ?_ | refine State.still_ite ?_ ?_)
    | simp only [↓State.still_mk, ↓State.still_fold] | dsimp only | split

theorem State.resumeWaiting_still (s : State) :
    (State.resumeWaiting s).still = s.still := by
  unfold State.resumeWaiting
  repeat first
    | (with_reducible first | rfl | refine (State.onSess_still ..).trans ?_ | refine (State.attest_still ..).trans ?_
                            | refine (State.finish_still ..).trans ?_ | refine (State.beginSession_still ..).trans ?_
                            | refine State.still_ite ?_ ?_)
    | simp only [↓State.still_mk, ↓State.still_fold] | dsimp only | split

theorem State.entropyFail_still (s : State) :
    (State.entropyFail s).still = s.still := by
  unfold State.entropyFail
  repeat first
    | (with_reducible first | rfl | refine (State.count_still ..).trans ?_ | refine (State.log1_still ..).trans ?_)
    | simp only [↓State.still_mk, ↓State.still_fold] | dsimp only | split

theorem State.entropyBack_still (s : State) :
    (State.entropyBack s).still = s.still := by
  unfold State.entropyBack
  repeat first
    | (with_reducible first | rfl | refine (State.continueBoot_still ..).trans ?_
                            | refine (State.resumeWaiting_still ..).trans ?_ | refine State.still_ite ?_ ?_)
    | simp only [↓State.still_mk, ↓State.still_fold] | dsimp only | split

theorem State.drawTimeout_still (s : State) :
    (State.drawTimeout s).still = s.still := by
  unfold State.drawTimeout
  repeat first
    | (with_reducible first | rfl | refine (State.onSess_still ..).trans ?_ | refine (State.finish_still ..).trans ?_)
    | simp only [↓State.still_mk, ↓State.still_fold] | dsimp only | split

theorem State.statusReadOp_still (s : State) (r : MaintReq) :
    (State.statusReadOp s r).still = s.still := by
  unfold State.statusReadOp
  repeat first
    | (with_reducible first | rfl | refine (State.request_still _ _ _ (fun _ => ?_)).trans ?_
                            | refine (State.finish_still ..).trans ?_ | refine (State.readStatus_still ..).trans ?_
                            | refine State.still_ite ?_ ?_)
    | simp only [↓State.still_mk, ↓State.still_fold] | dsimp only | split

theorem State.logReadOp_still (s : State) (r : MaintReq) :
    (State.logReadOp s r).still = s.still := by
  unfold State.logReadOp
  repeat first
    | (with_reducible first | rfl | refine (State.request_still _ _ _ (fun _ => ?_)).trans ?_
                            | refine (State.finish_still ..).trans ?_ | refine State.still_ite ?_ ?_)
    | simp only [↓State.still_mk, ↓State.still_fold] | dsimp only | split

theorem State.downloadBeginOp_still (s : State) (r : MaintReq) :
    (State.downloadBeginOp s r).still = s.still := by
  unfold State.downloadBeginOp
  repeat first
    | (with_reducible first | rfl | refine (State.inWindow_still _ _ _ (fun _ => ?_)).trans ?_
                            | refine (State.finish_still ..).trans ?_ | refine (State.onSess_still ..).trans ?_
                            | refine (State.done_still ..).trans ?_ | refine State.still_ite ?_ ?_)
    | simp only [↓State.still_mk, ↓State.still_fold] | dsimp only | split

theorem State.spoilNor_still (s : State) (k : Fin 4) :
    (State.spoilNor s k).still = s.still := by
  unfold State.spoilNor
  repeat first
    | (with_reducible first | rfl)
    | simp only [↓State.still_mk, ↓State.still_fold] | dsimp only | split

theorem State.beginTransfer_still (s : State) (t : BitVec 16) (key : SlotKey) (len : Nat) :
    (State.beginTransfer s t key len).still = s.still := by
  unfold State.beginTransfer
  repeat first
    | (with_reducible first | rfl | refine (State.commitEntry_still ..).trans ?_
                            | refine (State.commit_still ..).trans ?_ | refine (State.spoilNor_still ..).trans ?_
                            | refine State.still_ite ?_ ?_)
    | simp only [↓State.still_mk, ↓State.still_fold] | dsimp only | split

theorem State.downloadDataOp_still (s : State) (r : MaintReq) :
    (State.downloadDataOp s r).still = s.still := by
  unfold State.downloadDataOp
  repeat first
    | (with_reducible first | rfl | refine (State.request_still _ _ _ (fun _ => ?_)).trans ?_
                            | refine (State.finish_still ..).trans ?_ | refine (State.beginTransfer_still ..).trans ?_
                            | refine (State.done_still ..).trans ?_ | refine State.still_ite ?_ ?_)
    | simp only [↓State.still_mk, ↓State.still_fold] | dsimp only | split

theorem State.downloadEndOp_still (s : State) (r : MaintReq) :
    (State.downloadEndOp s r).still = s.still := by
  unfold State.downloadEndOp
  repeat first
    | (with_reducible first | rfl | refine (State.request_still _ _ _ (fun _ => ?_)).trans ?_
                            | refine (State.finish_still ..).trans ?_ | refine (State.onSess_still ..).trans ?_
                            | refine (State.commitEntry_still ..).trans ?_ | refine (State.done_still ..).trans ?_
                            | refine State.still_ite ?_ ?_)
    | simp only [↓State.still_mk, ↓State.still_fold] | dsimp only | split

theorem State.verifyReqOp_still (s : State) (r : MaintReq) :
    (State.verifyReqOp s r).still = s.still := by
  unfold State.verifyReqOp
  repeat first
    | (with_reducible first | rfl | refine (State.request_still _ _ _ (fun _ => ?_)).trans ?_
                            | refine (State.finish_still ..).trans ?_ | refine (State.onSess_still ..).trans ?_
                            | refine State.still_ite ?_ ?_)
    | simp only [↓State.still_mk, ↓State.still_fold] | dsimp only | split

theorem State.writeNor_still (s : State) (k : Fin 4) (c : Slot) :
    (State.writeNor s k c).still = s.still := by
  unfold State.writeNor
  repeat first
    | (with_reducible first | rfl)
    | simp only [↓State.still_mk, ↓State.still_fold] | dsimp only | split

theorem State.acceptFirmware_still (s : State) (c : Slot) :
    (State.acceptFirmware s c).still = s.still := by
  unfold State.acceptFirmware
  repeat first
    | (with_reducible first | rfl | refine (State.writeNor_still ..).trans ?_
                            | refine (State.commit_still ..).trans ?_ | refine State.still_ite ?_ ?_)
    | simp only [↓State.still_mk, ↓State.still_fold] | dsimp only | split

theorem State.acceptCandidate_still (s : State) (k : Fin 33) (key : SlotKey) (c : Slot) :
    (State.acceptCandidate s k key c).still = s.still := by
  unfold State.acceptCandidate
  repeat first
    | (with_reducible first | rfl | refine (State.commitEntry_still ..).trans ?_ | refine State.still_ite ?_ ?_)
    | simp only [↓State.still_mk, ↓State.still_fold] | dsimp only | split

theorem State.acceptTarget_still (s : State) (t : BitVec 16) (key : SlotKey) (c : Slot) :
    (State.acceptTarget s t key c).still = s.still := by
  unfold State.acceptTarget
  repeat first
    | (with_reducible first | rfl | refine (State.acceptCandidate_still ..).trans ?_
                            | refine (State.acceptFirmware_still ..).trans ?_
                            | refine (State.writeNor_still ..).trans ?_ | refine State.still_ite ?_ ?_)
    | simp only [↓State.still_mk, ↓State.still_fold] | dsimp only | split

theorem State.verificationEndOp_still (s : State) :
    (State.verificationEndOp s).still = s.still := by
  unfold State.verificationEndOp
  repeat first
    | (with_reducible first | rfl | refine (State.onSess_still ..).trans ?_ | refine (State.finish_still ..).trans ?_
                            | refine (State.acceptTarget_still ..).trans ?_ | refine (State.done_still ..).trans ?_
                            | refine (State.commit_still ..).trans ?_ | refine (State.log1_still ..).trans ?_
                            | refine State.still_ite ?_ ?_)
    | simp only [↓State.still_mk, ↓State.still_fold] | dsimp only | split

theorem State.activate_still (s : State) (k : Fin 33) (tick : Nat) (preload : Bool) :
    (State.activate s k tick preload).still = s.still := by
  unfold State.activate
  repeat first
    | (with_reducible first | rfl | refine (State.commitEntry_still ..).trans ?_
                            | refine (State.continueBoot_still ..).trans ?_ | refine State.still_ite ?_ ?_)
    | simp only [↓State.still_mk, ↓State.still_fold] | dsimp only | split

theorem State.activateOp_still (s : State) (r : MaintReq) (mode : Nat) :
    (State.activateOp s r mode).still = s.still := by
  unfold State.activateOp
  repeat first
    | (with_reducible first | rfl | refine (State.inWindow_still _ _ _ (fun _ => ?_)).trans ?_
                            | refine (State.finish_still ..).trans ?_ | refine (State.retryFenced_still ..).trans ?_
                            | refine (State.commitEntry_still ..).trans ?_ | refine (State.done_still ..).trans ?_
                            | refine (State.activate_still ..).trans ?_ | refine State.still_ite ?_ ?_)
    | simp only [↓State.still_mk, ↓State.still_fold] | dsimp only | split

theorem State.revertReqOp_still (s : State) (r : MaintReq) :
    (State.revertReqOp s r).still = s.still := by
  unfold State.revertReqOp
  repeat first
    | (with_reducible first | rfl | refine (State.inWindow_still _ _ _ (fun _ => ?_)).trans ?_
                            | refine (State.finish_still ..).trans ?_ | refine (State.retryFenced_still ..).trans ?_
                            | refine (State.commitEntry_still ..).trans ?_ | refine (State.activate_still ..).trans ?_
                            | refine (State.done_still ..).trans ?_ | refine State.still_ite ?_ ?_)
    | simp only [↓State.still_mk, ↓State.still_fold] | dsimp only | split

theorem State.holdStopOp_still (s : State) (r : MaintReq) :
    (State.holdStopOp s r).still = s.still := by
  unfold State.holdStopOp
  repeat first
    | (with_reducible first | rfl | refine (State.inWindow_still _ _ _ (fun _ => ?_)).trans ?_
                            | refine (State.commitEntry_still ..).trans ?_ | refine (State.done_still ..).trans ?_
                            | refine (State.finish_still ..).trans ?_ | refine State.still_ite ?_ ?_)
    | simp only [↓State.still_mk, ↓State.still_fold] | dsimp only | split

theorem State.holdReleaseOp_still (s : State) (r : MaintReq) :
    (State.holdReleaseOp s r).still = s.still := by
  unfold State.holdReleaseOp
  repeat first
    | (with_reducible first | rfl | refine (State.inWindow_still _ _ _ (fun _ => ?_)).trans ?_
                            | refine (State.finish_still ..).trans ?_ | refine (State.commitEntry_still ..).trans ?_
                            | refine (State.retryFenced_still ..).trans ?_ | refine (State.done_still ..).trans ?_
                            | refine State.still_ite ?_ ?_)
    | simp only [↓State.still_mk, ↓State.still_fold] | dsimp only | split

theorem State.withdrawOp_still (s : State) (r : MaintReq) :
    (State.withdrawOp s r).still = s.still := by
  unfold State.withdrawOp
  repeat first
    | (with_reducible first | rfl | refine (State.inWindow_still _ _ _ (fun _ => ?_)).trans ?_
                            | refine (State.finish_still ..).trans ?_ | refine (State.onSess_still ..).trans ?_
                            | refine (State.onFold_still ..).trans ?_ | refine (State.commitEntry_still ..).trans ?_
                            | refine (State.done_still ..).trans ?_ | refine State.still_ite ?_ ?_)
    | simp only [↓State.still_mk, ↓State.still_fold] | dsimp only | split

theorem State.relockReqOp_fixed (s : State) (r : MaintReq) :
    (State.relockReqOp s r).fixed = s.fixed := by
  unfold State.relockReqOp
  repeat first
    | (with_reducible first | rfl | refine (State.inWindow_fixed _ _ _ (fun _ => ?_)).trans ?_
                            | refine (State.fixed_of_still (State.done_still ..)).trans ?_)
    | simp only [↓State.fixed_mk, ↓State.fixed_fold] | dsimp only | split

theorem State.replayOnOp_still (s : State) (r : MaintReq) :
    (State.replayOnOp s r).still = s.still := by
  unfold State.replayOnOp
  repeat first
    | (with_reducible first | rfl | refine (State.inWindow_still _ _ _ (fun _ => ?_)).trans ?_
                            | refine (State.finish_still ..).trans ?_ | refine (State.onFold_still ..).trans ?_
                            | refine (State.done_still ..).trans ?_ | refine State.still_ite ?_ ?_)
    | simp only [↓State.still_mk, ↓State.still_fold] | dsimp only | split

theorem State.replayOffOp_still (s : State) (r : MaintReq) :
    (State.replayOffOp s r).still = s.still := by
  unfold State.replayOffOp
  repeat first
    | (with_reducible first | rfl | refine (State.inWindow_still _ _ _ (fun _ => ?_)).trans ?_
                            | refine (State.finish_still ..).trans ?_ | refine (State.onFold_still ..).trans ?_
                            | refine (State.done_still ..).trans ?_ | refine State.still_ite ?_ ?_)
    | simp only [↓State.still_mk, ↓State.still_fold] | dsimp only | split

theorem State.debugOnOp_still (s : State) (r : MaintReq) :
    (State.debugOnOp s r).still = s.still := by
  unfold State.debugOnOp
  repeat first
    | (with_reducible first | rfl | refine (State.inWindow_still _ _ _ (fun _ => ?_)).trans ?_
                            | refine (State.finish_still ..).trans ?_ | refine (State.onFold_still ..).trans ?_
                            | refine (State.done_still ..).trans ?_ | refine State.still_ite ?_ ?_)
    | simp only [↓State.still_mk, ↓State.still_fold] | dsimp only | split

theorem State.debugOffOp_still (s : State) (r : MaintReq) :
    (State.debugOffOp s r).still = s.still := by
  unfold State.debugOffOp
  repeat first
    | (with_reducible first | rfl | refine (State.inWindow_still _ _ _ (fun _ => ?_)).trans ?_
                            | refine (State.finish_still ..).trans ?_ | refine (State.onFold_still ..).trans ?_
                            | refine (State.done_still ..).trans ?_ | refine State.still_ite ?_ ?_)
    | simp only [↓State.still_mk, ↓State.still_fold] | dsimp only | split

theorem State.serveDebug_still (s : State) (r : MaintReq) (f : FoldNo) :
    (State.serveDebug s r f).still = s.still := by
  unfold State.serveDebug
  repeat first
    | (with_reducible first | rfl 
                            | refine (State.finish_still ..).trans ?_
                            | refine State.still_ite ?_ ?_)
    | simp only [↓State.still_mk, ↓State.still_fold] | dsimp only | split

theorem State.debugReadOp_still (s : State) (r : MaintReq) :
    (State.debugReadOp s r).still = s.still := by
  unfold State.debugReadOp
  repeat first
    | (with_reducible first | rfl 
                            | refine (State.inWindow_still _ _ _ (fun _ => ?_)).trans ?_
                            | refine (State.finish_still ..).trans ?_
                            | refine (State.keepRead_still ..).trans ?_
                            | refine (State.serveDebug_still ..).trans ?_
                            | refine State.still_ite ?_ ?_)
    | simp only [↓State.still_mk, ↓State.still_fold] | dsimp only | split

theorem State.serveRead_still (a : State × List Nat) (r : MaintReq) : (State.serveRead a r).1.still = a.1.still := by
  unfold State.serveRead
  repeat first
    | (with_reducible first | rfl | refine (State.attestNow_still ..).trans ?_)
    | split | exact State.serveDebug_still .. | exact State.keepRead_still .. | dsimp only

theorem State.serveReads_still (s : State) : s.serveReads.still = s.still :=
  (State.still_foldl1 _ State.serveRead_still _ _).trans (State.onSess_still ..)

theorem State.dumpExportOp_still (s : State) (r : MaintReq) :
    (State.dumpExportOp s r).still = s.still := by
  unfold State.dumpExportOp
  repeat first
    | (with_reducible first | rfl | refine (State.inWindow_still _ _ _ (fun _ => ?_)).trans ?_
                            | refine (State.finish_still ..).trans ?_ | refine State.still_ite ?_ ?_
                            | refine (State.still_foldl _ (fun _ _ => ?_) _ _).trans ?_
                            | refine (State.still_foldl1 _ (fun _ _ => ?_) _ _).trans ?_)
    | simp only [↓State.still_mk, ↓State.still_fold] | dsimp only | split

theorem State.logClearOp_still (s : State) (r : MaintReq) :
    (State.logClearOp s r).still = s.still := by
  unfold State.logClearOp
  repeat first
    | (with_reducible first | rfl | refine (State.inWindow_still _ _ _ (fun _ => ?_)).trans ?_
                            | refine (State.clearLog_still ..).trans ?_ | refine (State.done_still ..).trans ?_)
    | simp only [↓State.still_mk, ↓State.still_fold] | dsimp only | split

theorem State.keyChangeOp_still (s : State) (r : MaintReq) :
    (State.keyChangeOp s r).still = s.still := by
  unfold State.keyChangeOp
  repeat first
    | (with_reducible first | rfl | refine (State.inWindow_still _ _ _ (fun _ => ?_)).trans ?_
                            | refine (State.finish_still ..).trans ?_ | refine (State.done_still ..).trans ?_
                            | refine State.still_ite ?_ ?_)
    | simp only [↓State.still_mk, ↓State.still_fold] | dsimp only | split

theorem State.adoptOp_still (s : State) (r : MaintReq) :
    (State.adoptOp s r).still = s.still := by
  unfold State.adoptOp
  repeat first
    | (with_reducible first | rfl | refine (State.inWindow_still _ _ _ (fun _ => ?_)).trans ?_
                            | refine (State.adopt_still ..).trans ?_ | refine (State.done_still ..).trans ?_
                            | refine (State.finish_still ..).trans ?_ | refine State.still_ite ?_ ?_)
    | simp only [↓State.still_mk, ↓State.still_fold] | dsimp only | split

theorem State.statusWriteOp_still (s : State) (w : StatusWrite) :
    (State.statusWriteOp s w).still = s.still := by
  unfold State.statusWriteOp
  repeat first
    | (with_reducible first | rfl | refine (State.i3cWrite_still ..).trans ?_
                            | refine (State.request_still _ _ _ (fun _ => ?_)).trans ?_
                            | refine (State.countRefusedWrite_still ..).trans ?_
                            | refine (State.finish_still ..).trans ?_
                            | refine (State.putStatus_someStill (by assumption)).trans ?_
                            | refine (State.done_still ..).trans ?_ | refine State.still_ite ?_ ?_)
    | simp only [↓State.still_mk, ↓State.still_fold] | dsimp only | split

theorem State.onPres_keep (s : State) (g : Presence → Presence) :
    (State.onPres s g).keep = s.keep := by
  unfold State.onPres
  repeat first
    | (with_reducible first | rfl)
    | simp only [↓State.keep_mk, ↓State.keep_fold] | dsimp only | split

theorem State.logPresence_still (s : State) (cause : Nat) (detail : List Byte) :
    (State.logPresence s cause detail).still = s.still := by
  unfold State.logPresence
  repeat first
    | (with_reducible first | rfl | refine (State.log1_still ..).trans ?_)
    | simp only [↓State.still_mk, ↓State.still_fold] | dsimp only | split

theorem State.notifyFlock_still (s : State) (kind : Nat) (payload : List Byte) :
    (State.notifyFlock s kind payload).still = s.still := by
  unfold State.notifyFlock
  repeat first
    | (with_reducible first | rfl | refine (State.sendMail_still ..).trans ?_
                            | refine (State.still_foldl _ (fun _ _ => ?_) _ _).trans ?_
                            | refine (State.still_foldl1 _ (fun _ _ => ?_) _ _).trans ?_)
    | simp only [↓State.still_mk, ↓State.still_fold] | dsimp only | split

theorem State.openPresence_keep (s : State) (notice : Bool) :
    (State.openPresence s notice).keep = s.keep := by
  unfold State.openPresence
  repeat first
    | (with_reducible first | rfl | refine (State.onPres_keep ..).trans ?_
                            | refine (State.keep_of_still (State.logPresence_still ..)).trans ?_
                            | refine (State.keep_of_still (State.notifyFlock_still ..)).trans ?_
                            | refine State.keep_ite ?_ ?_)
    | simp only [↓State.keep_mk, ↓State.keep_fold] | dsimp only | split

theorem State.closePresence_keep (s : State) (cause : Nat) (early : Bool) :
    (State.closePresence s cause early).keep = s.keep := by
  unfold State.closePresence
  repeat first
    | (with_reducible first | rfl | refine (State.onPres_keep ..).trans ?_
                            | refine (State.keep_of_still (State.logPresence_still ..)).trans ?_
                            | refine (State.keep_of_still (State.notifyFlock_still ..)).trans ?_
                            | refine State.keep_ite ?_ ?_)
    | simp only [↓State.keep_mk, ↓State.keep_fold] | dsimp only | split

theorem State.expirePresence_keep (s : State) :
    (State.expirePresence s).keep = s.keep := by
  unfold State.expirePresence
  repeat first
    | (with_reducible first | rfl | refine (State.closePresence_keep ..).trans ?_ | refine State.keep_ite ?_ ?_)
    | simp only [↓State.keep_mk, ↓State.keep_fold] | dsimp only | split

theorem State.validPress_keep (s : State) :
    (State.validPress s).keep = s.keep := by
  unfold State.validPress
  repeat first
    | (with_reducible first | rfl | refine (State.keep_of_still (State.count_still ..)).trans ?_
                            | refine (State.keep_of_still (State.logPresence_still ..)).trans ?_
                            | refine (State.openPresence_keep ..).trans ?_
                            | refine (State.keep_of_still (State.bindFirst_still ..)).trans ?_
                            | refine (State.keep_of_still (State.continueBoot_still ..)).trans ?_)
    | simp only [↓State.keep_mk, ↓State.keep_fold] | dsimp only | split

theorem State.bridleOp_keep (s : State) (ch : Chan) (down : Bool) (stamp : Nat) :
    (State.bridleOp s ch down stamp).keep = s.keep := by
  unfold State.bridleOp
  repeat first
    | (with_reducible first | rfl | refine (State.onPres_keep ..).trans ?_
                            | refine (State.validPress_keep ..).trans ?_
                            | refine (State.keep_of_still (State.count_still ..)).trans ?_
                            | refine State.keep_ite ?_ ?_)
    | simp only [↓State.keep_mk, ↓State.keep_fold] | dsimp only | split

theorem State.discrepancyOp_keep (s : State) :
    (State.discrepancyOp s).keep = s.keep := by
  unfold State.discrepancyOp
  repeat first
    | (with_reducible first | rfl | refine (State.onPres_keep ..).trans ?_
                            | refine (State.keep_of_still (State.logPresence_still ..)).trans ?_
                            | refine (State.closePresence_keep ..).trans ?_ | refine State.keep_ite ?_ ?_)
    | simp only [↓State.keep_mk, ↓State.keep_fold] | dsimp only | split

theorem State.sealOp_keep (s : State) (isOpen : Bool) (stamp : Nat) :
    (State.sealOp s isOpen stamp).keep = s.keep := by
  unfold State.sealOp
  repeat first
    | (with_reducible first | rfl | refine (State.onPres_keep ..).trans ?_
                            | refine (State.keep_of_still (State.logPresence_still ..)).trans ?_
                            | refine (State.closePresence_keep ..).trans ?_ | refine State.keep_ite ?_ ?_)
    | simp only [↓State.keep_mk, ↓State.keep_fold] | dsimp only | split

theorem State.lockSession_still (s : State) :
    (State.lockSession s).still = s.still := by
  unfold State.lockSession
  repeat first
    | (with_reducible first | rfl | refine (State.onSess_still ..).trans ?_ | refine (State.finish_still ..).trans ?_
                            | refine (State.endSession_still ..).trans ?_)
    | simp only [↓State.still_mk, ↓State.still_fold] | dsimp only | split

theorem State.tackLockOp_keep (s : State) (fitted : Bool) :
    (State.tackLockOp s fitted).keep = s.keep := by
  unfold State.tackLockOp
  repeat first
    | (with_reducible first | rfl | refine (State.onPres_keep ..).trans ?_
                            | refine (State.closePresence_keep ..).trans ?_
                            | refine (State.keep_of_still (State.lockSession_still ..)).trans ?_
                            | refine State.keep_ite ?_ ?_)
    | simp only [↓State.keep_mk, ↓State.keep_fold] | dsimp only | split

theorem State.noticeOp_keep (s : State) (p : FabricPort) (m : MailMsg) :
    (State.noticeOp s p m).keep = s.keep := by
  unfold State.noticeOp
  repeat first
    | (with_reducible first | rfl | refine (State.onSupervisor_keep _ _ _ (fun _ => ?_)).trans ?_
                            | refine (State.openPresence_keep ..).trans ?_ | refine State.keep_ite ?_ ?_)
    | simp only [↓State.keep_mk, ↓State.keep_fold] | dsimp only | split

theorem State.closeNoticeOp_keep (s : State) (p : FabricPort) (m : MailMsg) :
    (State.closeNoticeOp s p m).keep = s.keep := by
  unfold State.closeNoticeOp
  repeat first
    | (with_reducible first | rfl | refine (State.onSupervisor_keep _ _ _ (fun _ => ?_)).trans ?_
                            | refine (State.closePresence_keep ..).trans ?_ | refine State.keep_ite ?_ ?_)
    | simp only [↓State.keep_mk, ↓State.keep_fold] | dsimp only | split

theorem State.logRefclk_still (s : State) :
    (State.logRefclk s).still = s.still := by
  unfold State.logRefclk
  repeat first
    | (with_reducible first | rfl | refine (State.log1_still ..).trans ?_)
    | simp only [↓State.still_mk, ↓State.still_fold] | dsimp only | split

theorem State.refLostOp_still (s : State) :
    (State.refLostOp s).still = s.still := by
  unfold State.refLostOp
  repeat first
    | (with_reducible first | rfl | refine (State.logRefclk_still ..).trans ?_ | refine State.still_ite ?_ ?_)
    | simp only [↓State.still_mk, ↓State.still_fold] | dsimp only | split

theorem State.refExpiredOp_keep (s : State) :
    (State.refExpiredOp s).keep = s.keep := by
  unfold State.refExpiredOp
  repeat first
    | (with_reducible first | rfl | refine State.keep_ite ?_ ?_)
    | simp only [↓State.keep_mk, ↓State.keep_fold] | dsimp only | split

theorem State.refRelockOp_fixed (s : State) :
    (State.refRelockOp s).fixed = s.fixed := by
  unfold State.refRelockOp
  repeat first
    | (with_reducible first | rfl | refine (State.fixed_of_still (State.logRefclk_still ..)).trans ?_
                            | refine State.fixed_ite ?_ ?_)
    | simp only [↓State.fixed_mk, ↓State.fixed_fold] | dsimp only | split

theorem State.syncOp_still (s : State) (domain : BitVec 8) (seq : BitVec 16) (source : BitVec 64) (twoStep : Bool) (origin rx : Nat) :
    (State.syncOp s domain seq source twoStep origin rx).still = s.still := by
  unfold State.syncOp
  repeat first
    | (with_reducible first | rfl | refine State.still_ite ?_ ?_)
    | simp only [↓State.still_mk, ↓State.still_fold] | dsimp only | split

theorem State.followOp_still (s : State) (domain : BitVec 8) (seq : BitVec 16) (source : BitVec 64) (origin : Nat) :
    (State.followOp s domain seq source origin).still = s.still := by
  unfold State.followOp
  repeat first
    | (with_reducible first | rfl | refine State.still_ite ?_ ?_)
    | simp only [↓State.still_mk, ↓State.still_fold] | dsimp only | split

theorem State.delayReqOp_still (s : State) :
    (State.delayReqOp s).still = s.still := by
  unfold State.delayReqOp
  repeat first
    | (with_reducible first | rfl | refine State.still_ite ?_ ?_)
    | simp only [↓State.still_mk, ↓State.still_fold] | dsimp only | split

theorem State.delayRespOp_still (s : State) (domain : BitVec 8) (seq : BitVec 16) (source : BitVec 64) (rxNs : Nat) :
    (State.delayRespOp s domain seq source rxNs).still = s.still := by
  unfold State.delayRespOp
  repeat first
    | (with_reducible first | rfl | refine State.still_ite ?_ ?_)
    | simp only [↓State.still_mk, ↓State.still_fold] | dsimp only | split

theorem State.announceOp_still (s : State) (domain : BitVec 8) (d : AnnounceData) :
    (State.announceOp s domain d).still = s.still := by
  unfold State.announceOp
  repeat first
    | (with_reducible first | rfl | refine State.still_ite ?_ ?_)
    | simp only [↓State.still_mk, ↓State.still_fold] | dsimp only | split

theorem State.sourceLossOp_still (s : State) :
    (State.sourceLossOp s).still = s.still := by
  unfold State.sourceLossOp
  repeat first
    | (with_reducible first | rfl | refine (State.count_still ..).trans ?_ | refine (State.log1_still ..).trans ?_
                            | refine State.still_ite ?_ ?_)
    | simp only [↓State.still_mk, ↓State.still_fold] | dsimp only | split

theorem State.ppsOp_still (s : State) :
    (State.ppsOp s).still = s.still := by
  unfold State.ppsOp
  repeat first
    | (with_reducible first | rfl | refine State.still_ite ?_ ?_)
    | simp only [↓State.still_mk, ↓State.still_fold] | dsimp only | split

theorem State.tickOutOp_fixed (s : State) :
    (State.tickOutOp s).fixed = s.fixed := by
  unfold State.tickOutOp
  repeat first
    | (with_reducible first | rfl | refine State.fixed_ite ?_ ?_)
    | simp only [↓State.fixed_mk, ↓State.fixed_fold] | dsimp only | split

theorem State.heartbeatOp_fixed (s : State) :
    (State.heartbeatOp s).fixed = s.fixed := by
  unfold State.heartbeatOp
  repeat first
    | (with_reducible first | rfl | refine State.fixed_ite ?_ ?_)
    | simp only [↓State.fixed_mk, ↓State.fixed_fold] | dsimp only | split

theorem State.entdaaOp_still (s : State) (addr : BitVec 7) :
    (State.entdaaOp s addr).still = s.still := by
  unfold State.entdaaOp
  repeat first
    | (with_reducible first | rfl)
    | simp only [↓State.still_mk, ↓State.still_fold] | dsimp only | split

theorem State.wordOp_fixed (s : State) (ch : Chan) (word : Word64) (codeOk : Bool) (edge : Nat) :
    (State.wordOp s ch word codeOk edge).fixed = s.fixed := by
  unfold State.wordOp
  repeat first
    | (with_reducible first | rfl | refine State.fixed_ite ?_ ?_)
    | simp only [↓State.fixed_mk, ↓State.fixed_fold] | dsimp only | split

theorem State.tickFault_still (s : State) (row : Nat) :
    (State.tickFault s row).still = s.still := by
  unfold State.tickFault
  repeat first
    | (with_reducible first | rfl | refine (State.count_still ..).trans ?_ | refine (State.log1_still ..).trans ?_
                            | refine State.still_ite ?_ ?_)
    | simp only [↓State.still_mk, ↓State.still_fold] | dsimp only | split

theorem State.placeInstant_keep (s : State) :
    ((State.placeInstant s).getD s).keep = s.keep := by
  unfold State.placeInstant
  repeat first
    | (with_reducible first | rfl | refine (State.keep_of_still (State.take_still ..)).trans ?_
                            | refine (State.keep_of_still (State.tickFault_still ..)).trans ?_
                            | refine State.keep_ite ?_ ?_ | refine State.keep_iteD ?_ ?_
                            | refine (State.keep_getD ..).trans ?_ | refine (State.keep_getD0 ..).trans ?_)
    | simp only [↓State.keep_mk, ↓State.keep_fold] | dsimp only | split

theorem State.placeInstant_someKeep {s : State} {t : State} (h : State.placeInstant s = some t) :
    t.keep = s.keep := by
  have k := State.placeInstant_keep s
  rw [h] at k
  exact k

theorem State.holdoverLeftOp_keep (s : State) :
    (State.holdoverLeftOp s).keep = s.keep := by
  unfold State.holdoverLeftOp
  repeat first
    | (with_reducible first | rfl | refine (State.keep_of_still (State.log1_still ..)).trans ?_
                            | refine State.keep_ite ?_ ?_)
    | simp only [↓State.keep_mk, ↓State.keep_fold] | dsimp only | split

theorem State.tickLockOp_keep (s : State) :
    (State.tickLockOp s).keep = s.keep := by
  unfold State.tickLockOp
  repeat first
    | (with_reducible first | rfl | refine (State.keep_of_still (State.commit_still ..)).trans ?_
                            | refine State.keep_ite ?_ ?_)
    | simp only [↓State.keep_mk, ↓State.keep_fold] | dsimp only | split

theorem State.endFoldTick_still (s : State) (f : FoldNo) :
    (State.endFoldTick s f).still = s.still := by
  unfold State.endFoldTick
  repeat first
    | (with_reducible first | rfl | refine (State.onFold_still ..).trans ?_ | refine State.still_ite ?_ ?_)
    | simp only [↓State.still_mk, ↓State.still_fold] | dsimp only | split

theorem State.correct_fixed (s : State) :
    (State.correct s).fixed = s.fixed := by
  unfold State.correct
  repeat first
    | (with_reducible first | rfl | refine State.fixed_ite ?_ ?_)
    | simp only [↓State.fixed_mk, ↓State.fixed_fold] | dsimp only | split

theorem State.advanceMoved_still (t : State) (was : List (Option CoreNo)) :
    (State.advanceMoved t was).still = t.still := by
  unfold State.advanceMoved
  repeat first
    | (with_reducible first | rfl | refine (State.advanceEpoch_still ..).trans ?_ | refine State.still_ite ?_ ?_
                            | refine (State.still_foldl _ (fun _ _ => ?_) _ _).trans ?_
                            | refine (State.still_foldl1 _ (fun _ _ => ?_) _ _).trans ?_)
    | simp only [↓State.still_mk, ↓State.still_fold] | dsimp only | split

theorem State.switchSection_fixed (s : State) (m : ModuleSection) :
    (State.switchSection s m).fixed = s.fixed := by
  unfold State.switchSection
  repeat first
    | (with_reducible first | rfl | refine (State.fixed_of_still (State.stopFold_still ..)).trans ?_
                            | refine (State.fixed_of_still (State.onFold_still ..)).trans ?_
                            | refine (State.fixed_of_still (State.useSection_still ..)).trans ?_
                            | refine (State.fixed_of_still (State.buildMap_still ..)).trans ?_
                            | refine (State.fixed_of_still (State.advanceMoved_still ..)).trans ?_
                            | refine State.fixed_ite ?_ ?_ | refine (State.fixed_foldl _ (fun _ _ => ?_) _ _).trans ?_
                            | refine (State.fixed_foldl1 _ (fun _ _ => ?_) _ _).trans ?_)
    | simp only [↓State.fixed_mk, ↓State.fixed_fold] | dsimp only | split

theorem State.sectionInstant_fixed (s : State) :
    (State.sectionInstant s).fixed = s.fixed := by
  unfold State.sectionInstant
  repeat first
    | (with_reducible first | rfl | refine (State.fixed_of_still (State.commitEntry_still ..)).trans ?_
                            | refine (State.switchSection_fixed ..).trans ?_ | refine State.fixed_ite ?_ ?_)
    | simp only [↓State.fixed_mk, ↓State.fixed_fold] | dsimp only | split

theorem State.changePen_still (s : State) (f : FoldNo) (pen : Nat) :
    (State.changePen s f pen).still = s.still := by
  unfold State.changePen
  repeat first
    | (with_reducible first | rfl | refine (State.cancelFold_still ..).trans ?_
                            | refine (State.onFold_still ..).trans ?_ | refine (State.loadTablesOn_still ..).trans ?_
                            | refine (State.loadGatesOn_still ..).trans ?_ | refine (State.onCore_still ..).trans ?_
                            | refine State.still_ite ?_ ?_ | refine (State.still_foldl _ (fun _ _ => ?_) _ _).trans ?_
                            | refine (State.still_foldl1 _ (fun _ _ => ?_) _ _).trans ?_)
    | simp only [↓State.still_mk, ↓State.still_fold] | dsimp only | split

theorem State.actDecision_still (s : State) (f : FoldNo) (i : FoldImage) (was : BitVec 48) :
    (State.actDecision s f i was).still = s.still := by
  unfold State.actDecision
  repeat first
    | (with_reducible first | rfl | refine (State.onFold_still ..).trans ?_
                            | refine (State.changePen_still ..).trans ?_
                            | refine (State.commitEntry_still ..).trans ?_ | refine (State.hurdle_still ..).trans ?_
                            | refine State.still_ite ?_ ?_)
    | simp only [↓State.still_mk, ↓State.still_fold] | dsimp only | split

theorem State.penInstant_still (s : State) (f : FoldNo) (was : BitVec 48) :
    (State.penInstant s f was).still = s.still := by
  unfold State.penInstant
  repeat first
    | (with_reducible first | rfl | refine (State.actDecision_still ..).trans ?_
                            | refine (State.changePen_still ..).trans ?_ | refine (State.onFold_still ..).trans ?_
                            | refine State.still_ite ?_ ?_)
    | simp only [↓State.still_mk, ↓State.still_fold] | dsimp only | split

theorem State.relockFold_still (s : State) (f : FoldNo) :
    (State.relockFold s f).still = s.still := by
  unfold State.relockFold
  repeat first
    | (with_reducible first | rfl | refine (State.stopFold_still ..).trans ?_
                            | refine (State.poisonDynamic_still ..).trans ?_
                            | refine (State.reachWaiting_still ..).trans ?_
                            | refine (State.waitingInstant_still ..).trans ?_)
    | simp only [↓State.still_mk, ↓State.still_fold] | dsimp only | split

theorem State.runningInstant_still (s : State) (f : FoldNo) (relock : Bool) :
    (State.runningInstant s f relock).still = s.still := by
  unfold State.runningInstant
  repeat first
    | (with_reducible first | rfl | refine (State.stopFold_still ..).trans ?_
                            | refine (State.switchFold_still ..).trans ?_
                            | refine (State.waitingInstant_still ..).trans ?_
                            | refine (State.revertLoad_still ..).trans ?_
                            | refine (State.relockFold_still ..).trans ?_
                            | refine (State.yieldMember_still ..).trans ?_ | refine State.still_ite ?_ ?_)
    | simp only [↓State.still_mk, ↓State.still_fold] | dsimp only | split

theorem State.otherInstant_still (s : State) (f : FoldNo) :
    (State.otherInstant s f).still = s.still := by
  unfold State.otherInstant
  repeat first
    | (with_reducible first | rfl | refine (State.stopFold_still ..).trans ?_
                            | refine (State.switchFold_still ..).trans ?_
                            | refine (State.waitingInstant_still ..).trans ?_ | refine (State.fence_still ..).trans ?_
                            | refine (State.revertLoad_still ..).trans ?_
                            | refine (State.hurdledInstant_still ..).trans ?_
                            | refine (State.beginLoad_still ..).trans ?_ | refine (State.tryStart_still ..).trans ?_
                            | refine (State.resume_still ..).trans ?_ | refine State.still_ite ?_ ?_)
    | simp only [↓State.still_mk, ↓State.still_fold] | dsimp only | split

theorem State.foldInstant_still (s : State) (f : FoldNo) (was : BitVec 48) (relock : Bool) :
    (State.foldInstant s f was relock).still = s.still := by
  unfold State.foldInstant
  repeat first
    | (with_reducible first | rfl | refine (State.penInstant_still ..).trans ?_
                            | refine (State.runningInstant_still ..).trans ?_
                            | refine (State.otherInstant_still ..).trans ?_ | refine State.still_ite ?_ ?_)
    | simp only [↓State.still_mk, ↓State.still_fold] | dsimp only | split

theorem State.rearmInstant_still (s : State) :
    (State.rearmInstant s).still = s.still := by
  unfold State.rearmInstant
  repeat first
    | (with_reducible first | rfl | refine (State.onCoreE_still ..).trans ?_ | refine (State.setDs_still ..).trans ?_
                            | refine State.still_ite ?_ ?_ | refine (State.still_foldl _ (fun _ _ => ?_) _ _).trans ?_
                            | refine (State.still_foldl1 _ (fun _ _ => ?_) _ _).trans ?_)
    | simp only [↓State.still_mk, ↓State.still_fold] | dsimp only | split

theorem State.beginFoldTick_still (s : State) (f : FoldNo) :
    (State.beginFoldTick s f).still = s.still := by
  unfold State.beginFoldTick
  repeat first
    | (with_reducible first | rfl | refine (State.onFold_still ..).trans ?_
                            | refine (State.countFold_still ..).trans ?_
                            | refine (State.onFoldCores_still ..).trans ?_
                            | refine (State.startStreams_still ..).trans ?_ | refine (State.record_still ..).trans ?_
                            | refine State.still_ite ?_ ?_ | refine (State.still_foldl _ (fun _ _ => ?_) _ _).trans ?_
                            | refine (State.still_foldl1 _ (fun _ _ => ?_) _ _).trans ?_)
    | simp only [↓State.still_mk, ↓State.still_fold] | dsimp only | split

theorem State.overrunCheck_still (s : State) (f : FoldNo) :
    (State.overrunCheck s f).still = s.still := by
  unfold State.overrunCheck
  repeat first
    | (with_reducible first | rfl | refine (State.onCore_still ..).trans ?_ | refine (State.onFold_still ..).trans ?_
                            | refine State.still_ite ?_ ?_ | refine (State.still_foldl _ (fun _ _ => ?_) _ _).trans ?_
                            | refine (State.still_foldl1 _ (fun _ _ => ?_) _ _).trans ?_)
    | simp only [↓State.still_mk, ↓State.still_fold] | dsimp only | split

theorem State.sampleFoldInputs_still (s : State) (f : FoldNo) :
    (State.sampleFoldInputs s f).still = s.still := by
  unfold State.sampleFoldInputs
  repeat first
    | (with_reducible first | rfl | refine (State.sampleDegradation_still ..).trans ?_
                            | refine (State.sampleThermal_still ..).trans ?_
                            | refine (State.selectPen_still ..).trans ?_ | refine (State.record_still ..).trans ?_
                            | refine State.still_ite ?_ ?_)
    | simp only [↓State.still_mk, ↓State.still_fold] | dsimp only | split

theorem State.reportReserve_still (s : State) (f : FoldNo) :
    (State.reportReserve s f).still = s.still := by
  unfold State.reportReserve
  repeat first
    | (with_reducible first | rfl | refine (State.sendReport_still ..).trans ?_ | refine State.still_ite ?_ ?_)
    | simp only [↓State.still_mk, ↓State.still_fold] | dsimp only | split

theorem State.closeTensors_still (s : State) (p : CoreNo) :
    (State.closeTensors s p).still = s.still := by
  unfold State.closeTensors
  repeat first
    | (with_reducible first | rfl | refine (State.still_foldl _ (fun _ _ => ?_) _ _).trans ?_
                            | refine (State.still_foldl1 _ (fun _ _ => ?_) _ _).trans ?_)
    | simp only [↓State.still_mk, ↓State.still_fold] | dsimp only | split

theorem State.recurrence_still (s : State) (p : CoreNo) :
    (State.recurrence s p).still = s.still := by
  unfold State.recurrence
  repeat first
    | (with_reducible first | rfl | refine (State.coreFault_still ..).trans ?_ | refine State.still_ite ?_ ?_)
    | simp only [↓State.still_mk, ↓State.still_fold] | dsimp only | split

theorem State.supReserve_fixed (s : State) (u : Sup) (ok : Bool) :
    (State.supReserve s u ok).fixed = s.fixed := by
  unfold State.supReserve
  repeat first
    | (with_reducible first | rfl | refine (State.fixed_of_still (State.onSup_still ..)).trans ?_
                            | refine (State.fixed_of_still (State.supFail_still ..)).trans ?_
                            | refine State.fixed_ite ?_ ?_)
    | simp only [↓State.fixed_mk, ↓State.fixed_fold] | dsimp only | split

theorem State.reserveOp_fixed (s : State) (confirmA confirmB : Bool) :
    (State.reserveOp s confirmA confirmB).fixed = s.fixed := by
  unfold State.reserveOp
  repeat first
    | (with_reducible first | rfl | refine (State.fixed_of_still (State.overrunCheck_still ..)).trans ?_
                            | refine (State.fixed_of_still (State.sampleFoldInputs_still ..)).trans ?_
                            | refine (State.fixed_of_still (State.snapshot_still ..)).trans ?_
                            | refine (State.fixed_of_still (State.takeSample_still ..)).trans ?_
                            | refine (State.fixed_of_still (State.serveReads_still ..)).trans ?_
                            | refine (State.fixed_of_still (State.reportReserve_still ..)).trans ?_
                            | refine (State.fixed_of_still (State.closeTensors_still ..)).trans ?_
                            | refine (State.fixed_of_still (State.recurrence_still ..)).trans ?_
                            | refine (State.fixed_of_still (State.selfChecks_still ..)).trans ?_
                            | refine (State.fixed_of_still (State.lowerCores_still ..)).trans ?_
                            | refine (State.supReserve_fixed ..).trans ?_ | refine State.fixed_ite ?_ ?_
                            | refine (State.fixed_foldl _ (fun _ _ => ?_) _ _).trans ?_
                            | refine (State.fixed_foldl1 _ (fun _ _ => ?_) _ _).trans ?_)
    | simp only [↓State.fixed_mk, ↓State.fixed_fold] | dsimp only | split

theorem State.coreParts_still (s : State) (p : CoreNo) :
    (State.coreParts s p).still = s.still := by
  unfold State.coreParts
  repeat first
    | (with_reducible first | rfl | refine (State.onCore_still ..).trans ?_ | refine (State.onCoreE_still ..).trans ?_)
    | simp only [↓State.still_mk, ↓State.still_fold] | dsimp only | split

theorem State.coreCycle_still (s : State) (p : CoreNo) :
    (State.coreCycle s p).still = s.still := by
  unfold State.coreCycle
  repeat first
    | (with_reducible first | rfl | refine (State.onCoreE_still ..).trans ?_ | refine (State.events_still ..).trans ?_
                            | refine (State.still_foldl _ (fun _ _ => ?_) _ _).trans ?_
                            | refine (State.still_foldl1 _ (fun _ _ => ?_) _ _).trans ?_)
    | simp only [↓State.still_mk, ↓State.still_fold] | dsimp only | split

theorem State.coreConditions_still (s : State) (p : CoreNo) :
    (State.coreConditions s p).still = s.still := by
  unfold State.coreConditions
  repeat first
    | (with_reducible first | rfl | refine (State.onCore_still ..).trans ?_)
    | simp only [↓State.still_mk, ↓State.still_fold] | dsimp only | split

theorem State.copyCycles_still (s : State) :
    (State.copyCycles s).still = s.still := by
  unfold State.copyCycles
  repeat first
    | (with_reducible first | rfl | refine State.still_ite ?_ ?_)
    | simp only [↓State.still_mk, ↓State.still_fold] | dsimp only | split

theorem State.pauseWalks_still (s : State) : s.pauseWalks.still = s.still := by
  unfold State.pauseWalks
  split <;> rfl

theorem State.lateRecurrence_still (s : State) : s.lateRecurrence.still = s.still := by
  unfold State.lateRecurrence
  split
  · exact State.still_foldl _ (fun _ _ => State.recurrence_still ..) _ _
  · rfl

@[simp] theorem State.pauseWalks_now (s : State) : s.pauseWalks.now = s.now := by
  unfold State.pauseWalks
  split <;> rfl

/-- A core clock cycle moves the clock on by one. -/
theorem clockCycle_still (s : State) : (clockCycle s).still = ({ s with now := s.now + 1 } : State).still := by
  unfold clockCycle
  dsimp only
  refine (State.still_foldl _ (fun _ _ => (State.coreCycle_still ..)) _ _).trans ?_
  have h := (State.still_foldl (fun (s : State) p => s.coreConditions p) (fun _ _ => (State.coreConditions_still ..))
    (List.finRange 32) _).trans (State.still_foldl (fun (s : State) p => s.coreParts p) (fun _ _ => (State.coreParts_still ..))
    (List.finRange 32) s)
  simp only [State.still, Prod.mk.injEq] at h ⊢
  obtain ⟨⟨h1, h2, h3, h4⟩, h5, h6⟩ := h
  simp only [h1, h2, h3, h4, h5, h6, and_self]

theorem State.deliverSlots_still (s : State) : s.deliverSlots.still = s.still := rfl

theorem State.sampleEarly_still (s : State) : s.sampleEarly.still = s.still := by
  unfold State.sampleEarly
  split
  · exact (State.takeSample_still s)
  · rfl

/-- One cycle of the module moves the clock on by one and leaves queue, fuses, presence and the tick. -/
theorem moduleCycle_still (s : State) : (moduleCycle s).still = ({ s with now := s.now + 1 } : State).still := by
  unfold moduleCycle
  refine (State.still_foldl _ (fun _ _ => State.presentReplay_still ..) _ _).trans ?_
  refine (State.still_foldl _ (fun _ _ => State.answerCycle_still ..) _ _).trans ?_
  refine (State.deliverSlots_still _).trans ?_
  refine ((State.copyCycles_still _)).trans ?_
  refine (State.sampleEarly_still _).trans ?_
  refine ((State.decideDue_still _)).trans ?_
  refine (State.lateRecurrence_still _).trans ?_
  refine (clockCycle_still _).trans ?_
  have h := State.pauseWalks_still s
  simp only [State.still, Prod.mk.injEq] at h ⊢
  obtain ⟨⟨h1, h2, h3, h4⟩, h5, h6⟩ := h
  simp only [h1, h2, h3, h4, h5, h6, State.pauseWalks_now, and_self]

end Sys2Proof.Machine
end

