-- ==== Sys2Proof/Laws/FrameTick.lean ====
section
/-! SUPPORT. What TICK_INSTANT as a whole leaves alone. -/

namespace Sys2Proof.Machine

/-- What the instant does once it is placed leaves queue, clock, presence and the tick's place. -/
theorem State.instantActions_fixed (s : State) (was : BitVec 48) (healthy relock : Bool) :
    (s.instantActions was healthy relock).fixed = s.fixed := by
  unfold State.instantActions
  extract_lets t0 s1 s2 s3 s4 s5 s6 s7 s8 s9 s10 s11 s12 s13 s14 s15 s16 s17 s18 s19
  have h1 : s1.fixed = s.fixed := rfl
  have h2 : s2.fixed = s1.fixed := State.fixed_ite (State.fixed_of_still (State.count_still ..)) rfl
  have h3 : s3.fixed = s2.fixed := State.fixed_of_still (State.onSess_still ..)
  have h4 : s4.fixed = s3.fixed := State.fixed_of_still ((State.handovers_still _).trans (State.takeover_still _))
  have h5 : s5.fixed = s4.fixed := State.drainInstant_fixed ..
  have h6 : s6.fixed = s5.fixed := State.fixed_of_still ((State.substituteInstant_still _).trans
    ((State.rejoinInstant_still _).trans (State.retrainInstant_still _)))
  have h7 : s7.fixed = s6.fixed := State.sectionInstant_fixed _
  have h8 : s8.fixed = s7.fixed := State.fixed_of_still (State.copyStarts_still _)
  have h9 : s9.fixed = s8.fixed := State.fixed_foldl _ (fun _ _ => State.fixed_of_still (State.foldInstant_still ..)) _ _
  have h10 : s10.fixed = s9.fixed := State.fixed_mk ..
  have h11 : s11.fixed = s10.fixed := State.fixed_of_still (State.spareRuns_still _)
  have h12 : s12.fixed = s11.fixed := State.fixed_of_still (State.rearmInstant_still _)
  have h13 : s13.fixed = s12.fixed :=
    State.fixed_foldl _ (fun _ _ => State.fixed_of_still (State.replayInstant_still ..)) _ _
  have h14 : s14.fixed = s13.fixed := State.fixed_of_still (State.windowsInstant_still _)
  have h15 : s15.fixed = s14.fixed :=
    State.fixed_foldl _ (fun _ _ => State.fixed_of_still (State.beginFoldTick_still ..)) _ _
  have h16 : s16.fixed = s15.fixed := State.fixed_of_still (State.supInstant_still _)
  have h17 : s17.fixed = s16.fixed :=
    State.fixed_foldl _ (fun _ _ => State.fixed_of_still (State.pollMembers_still ..)) _ _
  have h18 : s18.fixed = s17.fixed := State.fixed_of_still (State.resetTickSamples_still _)
  have h19 : s19.fixed = s18.fixed := State.correct_fixed _
  have h : s19.fixed = s.fixed := by
    rw [h19, h18, h17, h16, h15, h14, h13, h12, h11, h10, h9, h8, h7, h6, h5, h4, h3, h2, h1]
  exact State.fixed_ite ((State.fixed_mk ..).trans h) h

theorem State.ended_fixed (s : State) : ((List.finRange 32).foldl State.endFoldTick s).fixed = s.fixed :=
  State.fixed_foldl _ (fun _ _ => State.fixed_of_still (State.endFoldTick_still ..)) _ _

/-- An instant that begins a tick has the number, instant, lock and holdover that its placing gave it. -/
theorem State.instantOp_some {s n : State}
    (h : ((List.finRange 32).foldl State.endFoldTick s).placeInstant = some n) :
    s.instantOp.fixed = n.fixed := by
  unfold State.instantOp
  simp only [h]
  exact State.instantActions_fixed ..

theorem State.instantOp_keep (s : State) : s.instantOp.keep = s.keep := by
  cases h : ((List.finRange 32).foldl State.endFoldTick s).placeInstant with
  | none => unfold State.instantOp; simp only [h]; rfl
  | some n =>
    exact (State.keep_of (State.instantOp_some h)).trans
      ((State.placeInstant_someKeep h).trans (State.keep_of (State.ended_fixed s)))

end Sys2Proof.Machine
end

