-- ==== Sys2Proof/Laws/Memory.lean ====
section
/-! SUPPORT. Laws of pasture memory: every operation keeps the canonical form, and what a store changes. -/

namespace Sys2Proof.Machine

/-- The memory after reset is in canonical form. -/
theorem Pasture.wf_reset : Pasture.reset.wf = true := rfl

/-- A store into one word keeps canonical form. -/
theorem Pasture.storeWord_wf (m : Pasture) (now off : Nat) (bs : List MByte) (w : Nat) (h : m.wf = true) :
    (m.storeWord now off bs w).wf = true := by
  unfold Pasture.storeWord
  dsimp only
  split
  · exact h
  · exact cellsSet_wf 0 _ _ _ h

/-- A store keeps canonical form. -/
theorem Pasture.store_wf (m : Pasture) (now off : Nat) (bs : List MByte) (h : m.wf = true) :
    (m.store now off bs).wf = true :=
  foldl_keep (fun m : Pasture => m.wf = true) _ (fun a _ ha => Pasture.storeWord_wf a now off bs _ ha) _ _ h

/-- A store without marks keeps canonical form. -/
theorem Pasture.put_wf (m : Pasture) (now off : Nat) (bs : List Byte) (h : m.wf = true) :
    (m.put now off bs).wf = true := Pasture.store_wf m now off _ h

/-- Zeroing keeps canonical form. -/
theorem Pasture.poisonZero_wf (m : Pasture) (lo hi : Nat) (h : m.wf = true) : (m.poisonZero lo hi).wf = true :=
  cellsClear_wf 0 _ _ _ h

/-- Bit errors leave the listed bytes alone. -/
theorem Pasture.upset_wf (m : Pasture) (us : List (Nat × Nat)) (h : m.wf = true) : (m.upset us).wf = true := h

/-- Finding broken words leaves the listed bytes alone. -/
theorem Pasture.find_wf (m : Pasture) (ws : List Nat) (h : m.wf = true) : (m.find ws).wf = true := h

/-- A write through the fleece port keeps canonical form. -/
theorem Pasture.fix_wf (m : Pasture) (w : Nat) (bs : List Byte) (h : m.wf = true) : (m.fix w bs).wf = true :=
  cellsSet_wf 0 _ _ _ h

/-- A store into one word leaves every byte outside the part of the run that falls into the word. -/
theorem Pasture.storeWord_get (m : Pasture) (now off : Nat) (bs : List MByte) (w a : Nat) (h : m.wf = true) :
    cellGet 0 a (m.storeWord now off bs w).cells =
      if (wordPart off bs w).1 ≤ a ∧ a < (wordPart off bs w).1 + (wordPart off bs w).2.length
      then ((wordPart off bs w).2.map fun b => b.1).getD (a - (wordPart off bs w).1) 0
      else cellGet 0 a m.cells := by
  unfold Pasture.storeWord
  dsimp only
  split
  · rename_i he
    have : (wordPart off bs w).2.length = 0 := by
      rw [List.isEmpty_iff] at he; rw [he]; rfl
    rw [this, if_neg (by omega)]
  · rw [cellGet_sets 0 _ _ _ _ h]
    simp only [List.length_map]

/-- The part of a run that falls into a word lies within the run and within the word. -/
theorem wordPart_range (off : Nat) (bs : List MByte) (w a : Nat)
    (h : (wordPart off bs w).1 ≤ a ∧ a < (wordPart off bs w).1 + (wordPart off bs w).2.length) :
    off ≤ a ∧ a < off + bs.length ∧ 32 * w ≤ a ∧ a < 32 * w + 32 := by
  unfold wordPart at h
  dsimp only at h
  simp only [List.length_take, List.length_drop] at h
  omega

/-- A store leaves every byte outside its run. -/
theorem Pasture.store_other (m : Pasture) (now off : Nat) (bs : List MByte) (a : Nat) (h : m.wf = true)
    (ha : a < off ∨ off + bs.length ≤ a) : cellGet 0 a (m.store now off bs).cells = cellGet 0 a m.cells := by
  have key := foldl_keep (fun x : Pasture => x.wf = true ∧ cellGet 0 a x.cells = cellGet 0 a m.cells)
    (fun m i => m.storeWord now off bs (off / 32 + i)) (by
      intro x i hx
      refine ⟨Pasture.storeWord_wf x now off bs _ hx.1, ?_⟩
      rw [Pasture.storeWord_get x now off bs _ a hx.1, if_neg ?_]
      · exact hx.2
      · intro hc
        have := wordPart_range off bs _ a hc
        omega)
    (List.range (if bs.isEmpty then 0 else (off + bs.length - 1) / 32 + 1 - off / 32)) m ⟨h, rfl⟩
  exact key.2

end Sys2Proof.Machine
end

