-- ==== Sys2Proof/Laws/State.lean ====
section
/-! SUPPORT. What each named update of the state does to each field, true by unfolding. -/

namespace Sys2Proof.Machine

/-! ## onCore -/

@[simp] theorem State.onCore_now (s : State) (p : CoreNo) (f : Core → Core) : (s.onCore p f).now = s.now := rfl
@[simp] theorem State.onCore_gradeF (s : State) (p : CoreNo) (f : Core → Core) : (s.onCore p f).gradeF = s.gradeF := rfl
@[simp] theorem State.onCore_enabled (s : State) (p : CoreNo) (f : Core → Core) : (s.onCore p f).enabled = s.enabled := rfl
@[simp] theorem State.onCore_section (s : State) (p : CoreNo) (f : Core → Core) : (s.onCore p f).sec? = s.sec? := rfl
@[simp] theorem State.onCore_place (s : State) (p : CoreNo) (f : Core → Core) : (s.onCore p f).place = s.place := rfl
@[simp] theorem State.onCore_tick (s : State) (p : CoreNo) (f : Core → Core) : (s.onCore p f).tick = s.tick := rfl
@[simp] theorem State.onCore_ptp (s : State) (p : CoreNo) (f : Core → Core) : (s.onCore p f).ptp = s.ptp := rfl
@[simp] theorem State.onCore_cores (s : State) (p : CoreNo) (f : Core → Core) : (s.onCore p f).cores = vmod s.cores p f := rfl
@[simp] theorem State.onCore_folds (s : State) (p : CoreNo) (f : Core → Core) : (s.onCore p f).folds = s.folds := rfl
@[simp] theorem State.onCore_st (s : State) (p : CoreNo) (f : Core → Core) : (s.onCore p f).st = s.st := rfl
@[simp] theorem State.onCore_pl (s : State) (p : CoreNo) (f : Core → Core) : (s.onCore p f).pl = s.pl := rfl
@[simp] theorem State.onCore_fab (s : State) (p : CoreNo) (f : Core → Core) : (s.onCore p f).fab = s.fab := rfl
@[simp] theorem State.onCore_hall (s : State) (p : CoreNo) (f : Core → Core) : (s.onCore p f).hall = s.hall := rfl
@[simp] theorem State.onCore_trust (s : State) (p : CoreNo) (f : Core → Core) : (s.onCore p f).trust = s.trust := rfl
@[simp] theorem State.onCore_store (s : State) (p : CoreNo) (f : Core → Core) : (s.onCore p f).store = s.store := rfl
@[simp] theorem State.onCore_log (s : State) (p : CoreNo) (f : Core → Core) : (s.onCore p f).log = s.log := rfl
@[simp] theorem State.onCore_supA (s : State) (p : CoreNo) (f : Core → Core) : (s.onCore p f).supA = s.supA := rfl
@[simp] theorem State.onCore_supB (s : State) (p : CoreNo) (f : Core → Core) : (s.onCore p f).supB = s.supB := rfl
@[simp] theorem State.onCore_power (s : State) (p : CoreNo) (f : Core → Core) : (s.onCore p f).power = s.power := rfl
@[simp] theorem State.onCore_rebuild (s : State) (p : CoreNo) (f : Core → Core) : (s.onCore p f).rebuild = s.rebuild := rfl
@[simp] theorem State.onCore_captures (s : State) (p : CoreNo) (f : Core → Core) : (s.onCore p f).captures = s.captures := rfl
@[simp] theorem State.onCore_dumpNo (s : State) (p : CoreNo) (f : Core → Core) : (s.onCore p f).dumpNo = s.dumpNo := rfl
@[simp] theorem State.onCore_ctrs (s : State) (p : CoreNo) (f : Core → Core) : (s.onCore p f).ctrs = s.ctrs := rfl
@[simp] theorem State.onCore_snaps (s : State) (p : CoreNo) (f : Core → Core) : (s.onCore p f).snaps = s.snaps := rfl
@[simp] theorem State.onCore_userTags (s : State) (p : CoreNo) (f : Core → Core) : (s.onCore p f).userTags = s.userTags := rfl
@[simp] theorem State.onCore_sample (s : State) (p : CoreNo) (f : Core → Core) : (s.onCore p f).sample = s.sample := rfl
@[simp] theorem State.onCore_telemetry (s : State) (p : CoreNo) (f : Core → Core) : (s.onCore p f).telemetry = s.telemetry := rfl
@[simp] theorem State.onCore_latches (s : State) (p : CoreNo) (f : Core → Core) : (s.onCore p f).latches = s.latches := rfl
@[simp] theorem State.onCore_i3c (s : State) (p : CoreNo) (f : Core → Core) : (s.onCore p f).i3c = s.i3c := rfl
@[simp] theorem State.onCore_nack (s : State) (p : CoreNo) (f : Core → Core) : (s.onCore p f).nack = s.nack := rfl
@[simp] theorem State.onCore_free (s : State) (p : CoreNo) (f : Core → Core) : (s.onCore p f).free = s.free := rfl
@[simp] theorem State.onCore_pending (s : State) (p : CoreNo) (f : Core → Core) : (s.onCore p f).pending = s.pending := rfl

/-! ## onFold -/

@[simp] theorem State.onFold_now (s : State) (f : FoldNo) (g : Fold → Fold) : (s.onFold f g).now = s.now := rfl
@[simp] theorem State.onFold_gradeF (s : State) (f : FoldNo) (g : Fold → Fold) : (s.onFold f g).gradeF = s.gradeF := rfl
@[simp] theorem State.onFold_enabled (s : State) (f : FoldNo) (g : Fold → Fold) : (s.onFold f g).enabled = s.enabled := rfl
@[simp] theorem State.onFold_section (s : State) (f : FoldNo) (g : Fold → Fold) : (s.onFold f g).sec? = s.sec? := rfl
@[simp] theorem State.onFold_place (s : State) (f : FoldNo) (g : Fold → Fold) : (s.onFold f g).place = s.place := rfl
@[simp] theorem State.onFold_tick (s : State) (f : FoldNo) (g : Fold → Fold) : (s.onFold f g).tick = s.tick := rfl
@[simp] theorem State.onFold_ptp (s : State) (f : FoldNo) (g : Fold → Fold) : (s.onFold f g).ptp = s.ptp := rfl
@[simp] theorem State.onFold_cores (s : State) (f : FoldNo) (g : Fold → Fold) : (s.onFold f g).cores = s.cores := rfl
@[simp] theorem State.onFold_folds (s : State) (f : FoldNo) (g : Fold → Fold) : (s.onFold f g).folds = vmod s.folds f g := rfl
@[simp] theorem State.onFold_st (s : State) (f : FoldNo) (g : Fold → Fold) : (s.onFold f g).st = s.st := rfl
@[simp] theorem State.onFold_pl (s : State) (f : FoldNo) (g : Fold → Fold) : (s.onFold f g).pl = s.pl := rfl
@[simp] theorem State.onFold_fab (s : State) (f : FoldNo) (g : Fold → Fold) : (s.onFold f g).fab = s.fab := rfl
@[simp] theorem State.onFold_hall (s : State) (f : FoldNo) (g : Fold → Fold) : (s.onFold f g).hall = s.hall := rfl
@[simp] theorem State.onFold_trust (s : State) (f : FoldNo) (g : Fold → Fold) : (s.onFold f g).trust = s.trust := rfl
@[simp] theorem State.onFold_store (s : State) (f : FoldNo) (g : Fold → Fold) : (s.onFold f g).store = s.store := rfl
@[simp] theorem State.onFold_log (s : State) (f : FoldNo) (g : Fold → Fold) : (s.onFold f g).log = s.log := rfl
@[simp] theorem State.onFold_supA (s : State) (f : FoldNo) (g : Fold → Fold) : (s.onFold f g).supA = s.supA := rfl
@[simp] theorem State.onFold_supB (s : State) (f : FoldNo) (g : Fold → Fold) : (s.onFold f g).supB = s.supB := rfl
@[simp] theorem State.onFold_power (s : State) (f : FoldNo) (g : Fold → Fold) : (s.onFold f g).power = s.power := rfl
@[simp] theorem State.onFold_rebuild (s : State) (f : FoldNo) (g : Fold → Fold) : (s.onFold f g).rebuild = s.rebuild := rfl
@[simp] theorem State.onFold_captures (s : State) (f : FoldNo) (g : Fold → Fold) : (s.onFold f g).captures = s.captures := rfl
@[simp] theorem State.onFold_dumpNo (s : State) (f : FoldNo) (g : Fold → Fold) : (s.onFold f g).dumpNo = s.dumpNo := rfl
@[simp] theorem State.onFold_ctrs (s : State) (f : FoldNo) (g : Fold → Fold) : (s.onFold f g).ctrs = s.ctrs := rfl
@[simp] theorem State.onFold_snaps (s : State) (f : FoldNo) (g : Fold → Fold) : (s.onFold f g).snaps = s.snaps := rfl
@[simp] theorem State.onFold_userTags (s : State) (f : FoldNo) (g : Fold → Fold) : (s.onFold f g).userTags = s.userTags := rfl
@[simp] theorem State.onFold_sample (s : State) (f : FoldNo) (g : Fold → Fold) : (s.onFold f g).sample = s.sample := rfl
@[simp] theorem State.onFold_telemetry (s : State) (f : FoldNo) (g : Fold → Fold) : (s.onFold f g).telemetry = s.telemetry := rfl
@[simp] theorem State.onFold_latches (s : State) (f : FoldNo) (g : Fold → Fold) : (s.onFold f g).latches = s.latches := rfl
@[simp] theorem State.onFold_i3c (s : State) (f : FoldNo) (g : Fold → Fold) : (s.onFold f g).i3c = s.i3c := rfl
@[simp] theorem State.onFold_nack (s : State) (f : FoldNo) (g : Fold → Fold) : (s.onFold f g).nack = s.nack := rfl
@[simp] theorem State.onFold_free (s : State) (f : FoldNo) (g : Fold → Fold) : (s.onFold f g).free = s.free := rfl
@[simp] theorem State.onFold_pending (s : State) (f : FoldNo) (g : Fold → Fold) : (s.onFold f g).pending = s.pending := rfl

/-! ## onFab -/

@[simp] theorem State.onFab_now (s : State) (p : FabricPort) (g : FabPort → FabPort) : (s.onFab p g).now = s.now := rfl
@[simp] theorem State.onFab_gradeF (s : State) (p : FabricPort) (g : FabPort → FabPort) : (s.onFab p g).gradeF = s.gradeF := rfl
@[simp] theorem State.onFab_enabled (s : State) (p : FabricPort) (g : FabPort → FabPort) : (s.onFab p g).enabled = s.enabled := rfl
@[simp] theorem State.onFab_section (s : State) (p : FabricPort) (g : FabPort → FabPort) : (s.onFab p g).sec? = s.sec? := rfl
@[simp] theorem State.onFab_place (s : State) (p : FabricPort) (g : FabPort → FabPort) : (s.onFab p g).place = s.place := rfl
@[simp] theorem State.onFab_tick (s : State) (p : FabricPort) (g : FabPort → FabPort) : (s.onFab p g).tick = s.tick := rfl
@[simp] theorem State.onFab_ptp (s : State) (p : FabricPort) (g : FabPort → FabPort) : (s.onFab p g).ptp = s.ptp := rfl
@[simp] theorem State.onFab_cores (s : State) (p : FabricPort) (g : FabPort → FabPort) : (s.onFab p g).cores = s.cores := rfl
@[simp] theorem State.onFab_folds (s : State) (p : FabricPort) (g : FabPort → FabPort) : (s.onFab p g).folds = s.folds := rfl
@[simp] theorem State.onFab_st (s : State) (p : FabricPort) (g : FabPort → FabPort) : (s.onFab p g).st = s.st := rfl
@[simp] theorem State.onFab_pl (s : State) (p : FabricPort) (g : FabPort → FabPort) : (s.onFab p g).pl = s.pl := rfl
@[simp] theorem State.onFab_fab (s : State) (p : FabricPort) (g : FabPort → FabPort) : (s.onFab p g).fab = vmod s.fab p g := rfl
@[simp] theorem State.onFab_hall (s : State) (p : FabricPort) (g : FabPort → FabPort) : (s.onFab p g).hall = s.hall := rfl
@[simp] theorem State.onFab_trust (s : State) (p : FabricPort) (g : FabPort → FabPort) : (s.onFab p g).trust = s.trust := rfl
@[simp] theorem State.onFab_store (s : State) (p : FabricPort) (g : FabPort → FabPort) : (s.onFab p g).store = s.store := rfl
@[simp] theorem State.onFab_log (s : State) (p : FabricPort) (g : FabPort → FabPort) : (s.onFab p g).log = s.log := rfl
@[simp] theorem State.onFab_supA (s : State) (p : FabricPort) (g : FabPort → FabPort) : (s.onFab p g).supA = s.supA := rfl
@[simp] theorem State.onFab_supB (s : State) (p : FabricPort) (g : FabPort → FabPort) : (s.onFab p g).supB = s.supB := rfl
@[simp] theorem State.onFab_power (s : State) (p : FabricPort) (g : FabPort → FabPort) : (s.onFab p g).power = s.power := rfl
@[simp] theorem State.onFab_rebuild (s : State) (p : FabricPort) (g : FabPort → FabPort) : (s.onFab p g).rebuild = s.rebuild := rfl
@[simp] theorem State.onFab_captures (s : State) (p : FabricPort) (g : FabPort → FabPort) : (s.onFab p g).captures = s.captures := rfl
@[simp] theorem State.onFab_dumpNo (s : State) (p : FabricPort) (g : FabPort → FabPort) : (s.onFab p g).dumpNo = s.dumpNo := rfl
@[simp] theorem State.onFab_ctrs (s : State) (p : FabricPort) (g : FabPort → FabPort) : (s.onFab p g).ctrs = s.ctrs := rfl
@[simp] theorem State.onFab_snaps (s : State) (p : FabricPort) (g : FabPort → FabPort) : (s.onFab p g).snaps = s.snaps := rfl
@[simp] theorem State.onFab_userTags (s : State) (p : FabricPort) (g : FabPort → FabPort) : (s.onFab p g).userTags = s.userTags := rfl
@[simp] theorem State.onFab_sample (s : State) (p : FabricPort) (g : FabPort → FabPort) : (s.onFab p g).sample = s.sample := rfl
@[simp] theorem State.onFab_telemetry (s : State) (p : FabricPort) (g : FabPort → FabPort) : (s.onFab p g).telemetry = s.telemetry := rfl
@[simp] theorem State.onFab_latches (s : State) (p : FabricPort) (g : FabPort → FabPort) : (s.onFab p g).latches = s.latches := rfl
@[simp] theorem State.onFab_i3c (s : State) (p : FabricPort) (g : FabPort → FabPort) : (s.onFab p g).i3c = s.i3c := rfl
@[simp] theorem State.onFab_nack (s : State) (p : FabricPort) (g : FabPort → FabPort) : (s.onFab p g).nack = s.nack := rfl
@[simp] theorem State.onFab_free (s : State) (p : FabricPort) (g : FabPort → FabPort) : (s.onFab p g).free = s.free := rfl
@[simp] theorem State.onFab_pending (s : State) (p : FabricPort) (g : FabPort → FabPort) : (s.onFab p g).pending = s.pending := rfl

/-! ## onSt -/

@[simp] theorem State.onSt_now (s : State) (p : StreamPort) (g : StPort → StPort) : (s.onSt p g).now = s.now := rfl
@[simp] theorem State.onSt_gradeF (s : State) (p : StreamPort) (g : StPort → StPort) : (s.onSt p g).gradeF = s.gradeF := rfl
@[simp] theorem State.onSt_enabled (s : State) (p : StreamPort) (g : StPort → StPort) : (s.onSt p g).enabled = s.enabled := rfl
@[simp] theorem State.onSt_section (s : State) (p : StreamPort) (g : StPort → StPort) : (s.onSt p g).sec? = s.sec? := rfl
@[simp] theorem State.onSt_place (s : State) (p : StreamPort) (g : StPort → StPort) : (s.onSt p g).place = s.place := rfl
@[simp] theorem State.onSt_tick (s : State) (p : StreamPort) (g : StPort → StPort) : (s.onSt p g).tick = s.tick := rfl
@[simp] theorem State.onSt_ptp (s : State) (p : StreamPort) (g : StPort → StPort) : (s.onSt p g).ptp = s.ptp := rfl
@[simp] theorem State.onSt_cores (s : State) (p : StreamPort) (g : StPort → StPort) : (s.onSt p g).cores = s.cores := rfl
@[simp] theorem State.onSt_folds (s : State) (p : StreamPort) (g : StPort → StPort) : (s.onSt p g).folds = s.folds := rfl
@[simp] theorem State.onSt_st (s : State) (p : StreamPort) (g : StPort → StPort) : (s.onSt p g).st = vmod s.st p g := rfl
@[simp] theorem State.onSt_pl (s : State) (p : StreamPort) (g : StPort → StPort) : (s.onSt p g).pl = s.pl := rfl
@[simp] theorem State.onSt_fab (s : State) (p : StreamPort) (g : StPort → StPort) : (s.onSt p g).fab = s.fab := rfl
@[simp] theorem State.onSt_hall (s : State) (p : StreamPort) (g : StPort → StPort) : (s.onSt p g).hall = s.hall := rfl
@[simp] theorem State.onSt_trust (s : State) (p : StreamPort) (g : StPort → StPort) : (s.onSt p g).trust = s.trust := rfl
@[simp] theorem State.onSt_store (s : State) (p : StreamPort) (g : StPort → StPort) : (s.onSt p g).store = s.store := rfl
@[simp] theorem State.onSt_log (s : State) (p : StreamPort) (g : StPort → StPort) : (s.onSt p g).log = s.log := rfl
@[simp] theorem State.onSt_supA (s : State) (p : StreamPort) (g : StPort → StPort) : (s.onSt p g).supA = s.supA := rfl
@[simp] theorem State.onSt_supB (s : State) (p : StreamPort) (g : StPort → StPort) : (s.onSt p g).supB = s.supB := rfl
@[simp] theorem State.onSt_power (s : State) (p : StreamPort) (g : StPort → StPort) : (s.onSt p g).power = s.power := rfl
@[simp] theorem State.onSt_rebuild (s : State) (p : StreamPort) (g : StPort → StPort) : (s.onSt p g).rebuild = s.rebuild := rfl
@[simp] theorem State.onSt_captures (s : State) (p : StreamPort) (g : StPort → StPort) : (s.onSt p g).captures = s.captures := rfl
@[simp] theorem State.onSt_dumpNo (s : State) (p : StreamPort) (g : StPort → StPort) : (s.onSt p g).dumpNo = s.dumpNo := rfl
@[simp] theorem State.onSt_ctrs (s : State) (p : StreamPort) (g : StPort → StPort) : (s.onSt p g).ctrs = s.ctrs := rfl
@[simp] theorem State.onSt_snaps (s : State) (p : StreamPort) (g : StPort → StPort) : (s.onSt p g).snaps = s.snaps := rfl
@[simp] theorem State.onSt_userTags (s : State) (p : StreamPort) (g : StPort → StPort) : (s.onSt p g).userTags = s.userTags := rfl
@[simp] theorem State.onSt_sample (s : State) (p : StreamPort) (g : StPort → StPort) : (s.onSt p g).sample = s.sample := rfl
@[simp] theorem State.onSt_telemetry (s : State) (p : StreamPort) (g : StPort → StPort) : (s.onSt p g).telemetry = s.telemetry := rfl
@[simp] theorem State.onSt_latches (s : State) (p : StreamPort) (g : StPort → StPort) : (s.onSt p g).latches = s.latches := rfl
@[simp] theorem State.onSt_i3c (s : State) (p : StreamPort) (g : StPort → StPort) : (s.onSt p g).i3c = s.i3c := rfl
@[simp] theorem State.onSt_nack (s : State) (p : StreamPort) (g : StPort → StPort) : (s.onSt p g).nack = s.nack := rfl
@[simp] theorem State.onSt_free (s : State) (p : StreamPort) (g : StPort → StPort) : (s.onSt p g).free = s.free := rfl
@[simp] theorem State.onSt_pending (s : State) (p : StreamPort) (g : StPort → StPort) : (s.onSt p g).pending = s.pending := rfl

/-! ## onPl -/

@[simp] theorem State.onPl_now (s : State) (p : PlantPort) (g : PlPort → PlPort) : (s.onPl p g).now = s.now := rfl
@[simp] theorem State.onPl_gradeF (s : State) (p : PlantPort) (g : PlPort → PlPort) : (s.onPl p g).gradeF = s.gradeF := rfl
@[simp] theorem State.onPl_enabled (s : State) (p : PlantPort) (g : PlPort → PlPort) : (s.onPl p g).enabled = s.enabled := rfl
@[simp] theorem State.onPl_section (s : State) (p : PlantPort) (g : PlPort → PlPort) : (s.onPl p g).sec? = s.sec? := rfl
@[simp] theorem State.onPl_place (s : State) (p : PlantPort) (g : PlPort → PlPort) : (s.onPl p g).place = s.place := rfl
@[simp] theorem State.onPl_tick (s : State) (p : PlantPort) (g : PlPort → PlPort) : (s.onPl p g).tick = s.tick := rfl
@[simp] theorem State.onPl_ptp (s : State) (p : PlantPort) (g : PlPort → PlPort) : (s.onPl p g).ptp = s.ptp := rfl
@[simp] theorem State.onPl_cores (s : State) (p : PlantPort) (g : PlPort → PlPort) : (s.onPl p g).cores = s.cores := rfl
@[simp] theorem State.onPl_folds (s : State) (p : PlantPort) (g : PlPort → PlPort) : (s.onPl p g).folds = s.folds := rfl
@[simp] theorem State.onPl_st (s : State) (p : PlantPort) (g : PlPort → PlPort) : (s.onPl p g).st = s.st := rfl
@[simp] theorem State.onPl_pl (s : State) (p : PlantPort) (g : PlPort → PlPort) : (s.onPl p g).pl = vmod s.pl p g := rfl
@[simp] theorem State.onPl_fab (s : State) (p : PlantPort) (g : PlPort → PlPort) : (s.onPl p g).fab = s.fab := rfl
@[simp] theorem State.onPl_hall (s : State) (p : PlantPort) (g : PlPort → PlPort) : (s.onPl p g).hall = s.hall := rfl
@[simp] theorem State.onPl_trust (s : State) (p : PlantPort) (g : PlPort → PlPort) : (s.onPl p g).trust = s.trust := rfl
@[simp] theorem State.onPl_store (s : State) (p : PlantPort) (g : PlPort → PlPort) : (s.onPl p g).store = s.store := rfl
@[simp] theorem State.onPl_log (s : State) (p : PlantPort) (g : PlPort → PlPort) : (s.onPl p g).log = s.log := rfl
@[simp] theorem State.onPl_supA (s : State) (p : PlantPort) (g : PlPort → PlPort) : (s.onPl p g).supA = s.supA := rfl
@[simp] theorem State.onPl_supB (s : State) (p : PlantPort) (g : PlPort → PlPort) : (s.onPl p g).supB = s.supB := rfl
@[simp] theorem State.onPl_power (s : State) (p : PlantPort) (g : PlPort → PlPort) : (s.onPl p g).power = s.power := rfl
@[simp] theorem State.onPl_rebuild (s : State) (p : PlantPort) (g : PlPort → PlPort) : (s.onPl p g).rebuild = s.rebuild := rfl
@[simp] theorem State.onPl_captures (s : State) (p : PlantPort) (g : PlPort → PlPort) : (s.onPl p g).captures = s.captures := rfl
@[simp] theorem State.onPl_dumpNo (s : State) (p : PlantPort) (g : PlPort → PlPort) : (s.onPl p g).dumpNo = s.dumpNo := rfl
@[simp] theorem State.onPl_ctrs (s : State) (p : PlantPort) (g : PlPort → PlPort) : (s.onPl p g).ctrs = s.ctrs := rfl
@[simp] theorem State.onPl_snaps (s : State) (p : PlantPort) (g : PlPort → PlPort) : (s.onPl p g).snaps = s.snaps := rfl
@[simp] theorem State.onPl_userTags (s : State) (p : PlantPort) (g : PlPort → PlPort) : (s.onPl p g).userTags = s.userTags := rfl
@[simp] theorem State.onPl_sample (s : State) (p : PlantPort) (g : PlPort → PlPort) : (s.onPl p g).sample = s.sample := rfl
@[simp] theorem State.onPl_telemetry (s : State) (p : PlantPort) (g : PlPort → PlPort) : (s.onPl p g).telemetry = s.telemetry := rfl
@[simp] theorem State.onPl_latches (s : State) (p : PlantPort) (g : PlPort → PlPort) : (s.onPl p g).latches = s.latches := rfl
@[simp] theorem State.onPl_i3c (s : State) (p : PlantPort) (g : PlPort → PlPort) : (s.onPl p g).i3c = s.i3c := rfl
@[simp] theorem State.onPl_nack (s : State) (p : PlantPort) (g : PlPort → PlPort) : (s.onPl p g).nack = s.nack := rfl
@[simp] theorem State.onPl_free (s : State) (p : PlantPort) (g : PlPort → PlPort) : (s.onPl p g).free = s.free := rfl
@[simp] theorem State.onPl_pending (s : State) (p : PlantPort) (g : PlPort → PlPort) : (s.onPl p g).pending = s.pending := rfl

/-! ## onSess -/

@[simp] theorem State.onSess_now (s : State) (g : Session → Session) : (s.onSess g).now = s.now := rfl
@[simp] theorem State.onSess_gradeF (s : State) (g : Session → Session) : (s.onSess g).gradeF = s.gradeF := rfl
@[simp] theorem State.onSess_enabled (s : State) (g : Session → Session) : (s.onSess g).enabled = s.enabled := rfl
@[simp] theorem State.onSess_section (s : State) (g : Session → Session) : (s.onSess g).sec? = s.sec? := rfl
@[simp] theorem State.onSess_place (s : State) (g : Session → Session) : (s.onSess g).place = s.place := rfl
@[simp] theorem State.onSess_tick (s : State) (g : Session → Session) : (s.onSess g).tick = s.tick := rfl
@[simp] theorem State.onSess_ptp (s : State) (g : Session → Session) : (s.onSess g).ptp = s.ptp := rfl
@[simp] theorem State.onSess_cores (s : State) (g : Session → Session) : (s.onSess g).cores = s.cores := rfl
@[simp] theorem State.onSess_folds (s : State) (g : Session → Session) : (s.onSess g).folds = s.folds := rfl
@[simp] theorem State.onSess_st (s : State) (g : Session → Session) : (s.onSess g).st = s.st := rfl
@[simp] theorem State.onSess_pl (s : State) (g : Session → Session) : (s.onSess g).pl = s.pl := rfl
@[simp] theorem State.onSess_fab (s : State) (g : Session → Session) : (s.onSess g).fab = s.fab := rfl
@[simp] theorem State.onSess_hall (s : State) (g : Session → Session) : (s.onSess g).hall = s.hall := rfl
@[simp] theorem State.onSess_trust (s : State) (g : Session → Session) : (s.onSess g).trust = { s.trust with sess := g s.trust.sess } := rfl
@[simp] theorem State.onSess_store (s : State) (g : Session → Session) : (s.onSess g).store = s.store := rfl
@[simp] theorem State.onSess_log (s : State) (g : Session → Session) : (s.onSess g).log = s.log := rfl
@[simp] theorem State.onSess_supA (s : State) (g : Session → Session) : (s.onSess g).supA = s.supA := rfl
@[simp] theorem State.onSess_supB (s : State) (g : Session → Session) : (s.onSess g).supB = s.supB := rfl
@[simp] theorem State.onSess_power (s : State) (g : Session → Session) : (s.onSess g).power = s.power := rfl
@[simp] theorem State.onSess_rebuild (s : State) (g : Session → Session) : (s.onSess g).rebuild = s.rebuild := rfl
@[simp] theorem State.onSess_captures (s : State) (g : Session → Session) : (s.onSess g).captures = s.captures := rfl
@[simp] theorem State.onSess_dumpNo (s : State) (g : Session → Session) : (s.onSess g).dumpNo = s.dumpNo := rfl
@[simp] theorem State.onSess_ctrs (s : State) (g : Session → Session) : (s.onSess g).ctrs = s.ctrs := rfl
@[simp] theorem State.onSess_snaps (s : State) (g : Session → Session) : (s.onSess g).snaps = s.snaps := rfl
@[simp] theorem State.onSess_userTags (s : State) (g : Session → Session) : (s.onSess g).userTags = s.userTags := rfl
@[simp] theorem State.onSess_sample (s : State) (g : Session → Session) : (s.onSess g).sample = s.sample := rfl
@[simp] theorem State.onSess_telemetry (s : State) (g : Session → Session) : (s.onSess g).telemetry = s.telemetry := rfl
@[simp] theorem State.onSess_latches (s : State) (g : Session → Session) : (s.onSess g).latches = s.latches := rfl
@[simp] theorem State.onSess_i3c (s : State) (g : Session → Session) : (s.onSess g).i3c = s.i3c := rfl
@[simp] theorem State.onSess_nack (s : State) (g : Session → Session) : (s.onSess g).nack = s.nack := rfl
@[simp] theorem State.onSess_free (s : State) (g : Session → Session) : (s.onSess g).free = s.free := rfl
@[simp] theorem State.onSess_pending (s : State) (g : Session → Session) : (s.onSess g).pending = s.pending := rfl

/-! ## onPres -/

@[simp] theorem State.onPres_now (s : State) (g : Presence → Presence) : (s.onPres g).now = s.now := rfl
@[simp] theorem State.onPres_gradeF (s : State) (g : Presence → Presence) : (s.onPres g).gradeF = s.gradeF := rfl
@[simp] theorem State.onPres_enabled (s : State) (g : Presence → Presence) : (s.onPres g).enabled = s.enabled := rfl
@[simp] theorem State.onPres_section (s : State) (g : Presence → Presence) : (s.onPres g).sec? = s.sec? := rfl
@[simp] theorem State.onPres_place (s : State) (g : Presence → Presence) : (s.onPres g).place = s.place := rfl
@[simp] theorem State.onPres_tick (s : State) (g : Presence → Presence) : (s.onPres g).tick = s.tick := rfl
@[simp] theorem State.onPres_ptp (s : State) (g : Presence → Presence) : (s.onPres g).ptp = s.ptp := rfl
@[simp] theorem State.onPres_cores (s : State) (g : Presence → Presence) : (s.onPres g).cores = s.cores := rfl
@[simp] theorem State.onPres_folds (s : State) (g : Presence → Presence) : (s.onPres g).folds = s.folds := rfl
@[simp] theorem State.onPres_st (s : State) (g : Presence → Presence) : (s.onPres g).st = s.st := rfl
@[simp] theorem State.onPres_pl (s : State) (g : Presence → Presence) : (s.onPres g).pl = s.pl := rfl
@[simp] theorem State.onPres_fab (s : State) (g : Presence → Presence) : (s.onPres g).fab = s.fab := rfl
@[simp] theorem State.onPres_hall (s : State) (g : Presence → Presence) : (s.onPres g).hall = s.hall := rfl
@[simp] theorem State.onPres_trust (s : State) (g : Presence → Presence) : (s.onPres g).trust = { s.trust with pres := g s.trust.pres } := rfl
@[simp] theorem State.onPres_store (s : State) (g : Presence → Presence) : (s.onPres g).store = s.store := rfl
@[simp] theorem State.onPres_log (s : State) (g : Presence → Presence) : (s.onPres g).log = s.log := rfl
@[simp] theorem State.onPres_supA (s : State) (g : Presence → Presence) : (s.onPres g).supA = s.supA := rfl
@[simp] theorem State.onPres_supB (s : State) (g : Presence → Presence) : (s.onPres g).supB = s.supB := rfl
@[simp] theorem State.onPres_power (s : State) (g : Presence → Presence) : (s.onPres g).power = s.power := rfl
@[simp] theorem State.onPres_rebuild (s : State) (g : Presence → Presence) : (s.onPres g).rebuild = s.rebuild := rfl
@[simp] theorem State.onPres_captures (s : State) (g : Presence → Presence) : (s.onPres g).captures = s.captures := rfl
@[simp] theorem State.onPres_dumpNo (s : State) (g : Presence → Presence) : (s.onPres g).dumpNo = s.dumpNo := rfl
@[simp] theorem State.onPres_ctrs (s : State) (g : Presence → Presence) : (s.onPres g).ctrs = s.ctrs := rfl
@[simp] theorem State.onPres_snaps (s : State) (g : Presence → Presence) : (s.onPres g).snaps = s.snaps := rfl
@[simp] theorem State.onPres_userTags (s : State) (g : Presence → Presence) : (s.onPres g).userTags = s.userTags := rfl
@[simp] theorem State.onPres_sample (s : State) (g : Presence → Presence) : (s.onPres g).sample = s.sample := rfl
@[simp] theorem State.onPres_telemetry (s : State) (g : Presence → Presence) : (s.onPres g).telemetry = s.telemetry := rfl
@[simp] theorem State.onPres_latches (s : State) (g : Presence → Presence) : (s.onPres g).latches = s.latches := rfl
@[simp] theorem State.onPres_i3c (s : State) (g : Presence → Presence) : (s.onPres g).i3c = s.i3c := rfl
@[simp] theorem State.onPres_nack (s : State) (g : Presence → Presence) : (s.onPres g).nack = s.nack := rfl
@[simp] theorem State.onPres_free (s : State) (g : Presence → Presence) : (s.onPres g).free = s.free := rfl
@[simp] theorem State.onPres_pending (s : State) (g : Presence → Presence) : (s.onPres g).pending = s.pending := rfl

/-! ## count -/

@[simp] theorem State.count_now (s : State) (i : Fin 12) (n : Nat) : (s.count i n).now = s.now := rfl
@[simp] theorem State.count_gradeF (s : State) (i : Fin 12) (n : Nat) : (s.count i n).gradeF = s.gradeF := rfl
@[simp] theorem State.count_enabled (s : State) (i : Fin 12) (n : Nat) : (s.count i n).enabled = s.enabled := rfl
@[simp] theorem State.count_section (s : State) (i : Fin 12) (n : Nat) : (s.count i n).sec? = s.sec? := rfl
@[simp] theorem State.count_place (s : State) (i : Fin 12) (n : Nat) : (s.count i n).place = s.place := rfl
@[simp] theorem State.count_tick (s : State) (i : Fin 12) (n : Nat) : (s.count i n).tick = s.tick := rfl
@[simp] theorem State.count_ptp (s : State) (i : Fin 12) (n : Nat) : (s.count i n).ptp = s.ptp := rfl
@[simp] theorem State.count_cores (s : State) (i : Fin 12) (n : Nat) : (s.count i n).cores = s.cores := rfl
@[simp] theorem State.count_folds (s : State) (i : Fin 12) (n : Nat) : (s.count i n).folds = s.folds := rfl
@[simp] theorem State.count_st (s : State) (i : Fin 12) (n : Nat) : (s.count i n).st = s.st := rfl
@[simp] theorem State.count_pl (s : State) (i : Fin 12) (n : Nat) : (s.count i n).pl = s.pl := rfl
@[simp] theorem State.count_fab (s : State) (i : Fin 12) (n : Nat) : (s.count i n).fab = s.fab := rfl
@[simp] theorem State.count_hall (s : State) (i : Fin 12) (n : Nat) : (s.count i n).hall = s.hall := rfl
@[simp] theorem State.count_trust (s : State) (i : Fin 12) (n : Nat) : (s.count i n).trust = s.trust := rfl
@[simp] theorem State.count_store (s : State) (i : Fin 12) (n : Nat) : (s.count i n).store = s.store := rfl
@[simp] theorem State.count_log (s : State) (i : Fin 12) (n : Nat) : (s.count i n).log = s.log := rfl
@[simp] theorem State.count_supA (s : State) (i : Fin 12) (n : Nat) : (s.count i n).supA = s.supA := rfl
@[simp] theorem State.count_supB (s : State) (i : Fin 12) (n : Nat) : (s.count i n).supB = s.supB := rfl
@[simp] theorem State.count_power (s : State) (i : Fin 12) (n : Nat) : (s.count i n).power = s.power := rfl
@[simp] theorem State.count_rebuild (s : State) (i : Fin 12) (n : Nat) : (s.count i n).rebuild = s.rebuild := rfl
@[simp] theorem State.count_captures (s : State) (i : Fin 12) (n : Nat) : (s.count i n).captures = s.captures := rfl
@[simp] theorem State.count_dumpNo (s : State) (i : Fin 12) (n : Nat) : (s.count i n).dumpNo = s.dumpNo := rfl
@[simp] theorem State.count_ctrs (s : State) (i : Fin 12) (n : Nat) : (s.count i n).ctrs = vmod s.ctrs i fun c => c.add n := rfl
@[simp] theorem State.count_snaps (s : State) (i : Fin 12) (n : Nat) : (s.count i n).snaps = s.snaps := rfl
@[simp] theorem State.count_userTags (s : State) (i : Fin 12) (n : Nat) : (s.count i n).userTags = s.userTags := rfl
@[simp] theorem State.count_sample (s : State) (i : Fin 12) (n : Nat) : (s.count i n).sample = s.sample := rfl
@[simp] theorem State.count_telemetry (s : State) (i : Fin 12) (n : Nat) : (s.count i n).telemetry = s.telemetry := rfl
@[simp] theorem State.count_latches (s : State) (i : Fin 12) (n : Nat) : (s.count i n).latches = s.latches := rfl
@[simp] theorem State.count_i3c (s : State) (i : Fin 12) (n : Nat) : (s.count i n).i3c = s.i3c := rfl
@[simp] theorem State.count_nack (s : State) (i : Fin 12) (n : Nat) : (s.count i n).nack = s.nack := rfl
@[simp] theorem State.count_free (s : State) (i : Fin 12) (n : Nat) : (s.count i n).free = s.free := rfl
@[simp] theorem State.count_pending (s : State) (i : Fin 12) (n : Nat) : (s.count i n).pending = s.pending := rfl

/-! ## commit -/

@[simp] theorem State.commit_now (s : State) (g : TackRec → TackRec) : (s.commit g).now = s.now := rfl
@[simp] theorem State.commit_gradeF (s : State) (g : TackRec → TackRec) : (s.commit g).gradeF = s.gradeF := rfl
@[simp] theorem State.commit_enabled (s : State) (g : TackRec → TackRec) : (s.commit g).enabled = s.enabled := rfl
@[simp] theorem State.commit_section (s : State) (g : TackRec → TackRec) : (s.commit g).sec? = s.sec? := rfl
@[simp] theorem State.commit_place (s : State) (g : TackRec → TackRec) : (s.commit g).place = s.place := rfl
@[simp] theorem State.commit_tick (s : State) (g : TackRec → TackRec) : (s.commit g).tick = s.tick := rfl
@[simp] theorem State.commit_ptp (s : State) (g : TackRec → TackRec) : (s.commit g).ptp = s.ptp := rfl
@[simp] theorem State.commit_cores (s : State) (g : TackRec → TackRec) : (s.commit g).cores = s.cores := rfl
@[simp] theorem State.commit_folds (s : State) (g : TackRec → TackRec) : (s.commit g).folds = s.folds := rfl
@[simp] theorem State.commit_st (s : State) (g : TackRec → TackRec) : (s.commit g).st = s.st := rfl
@[simp] theorem State.commit_pl (s : State) (g : TackRec → TackRec) : (s.commit g).pl = s.pl := rfl
@[simp] theorem State.commit_fab (s : State) (g : TackRec → TackRec) : (s.commit g).fab = s.fab := rfl
@[simp] theorem State.commit_hall (s : State) (g : TackRec → TackRec) : (s.commit g).hall = s.hall := rfl
@[simp] theorem State.commit_trust (s : State) (g : TackRec → TackRec) : (s.commit g).trust = s.trust := rfl
@[simp] theorem State.commit_store (s : State) (g : TackRec → TackRec) : (s.commit g).store = { s.store with commits := s.store.commits ++ [{ g s.tack with seq := s.tack.seq + 1 }] } := rfl
@[simp] theorem State.commit_log (s : State) (g : TackRec → TackRec) : (s.commit g).log = s.log := rfl
@[simp] theorem State.commit_supA (s : State) (g : TackRec → TackRec) : (s.commit g).supA = s.supA := rfl
@[simp] theorem State.commit_supB (s : State) (g : TackRec → TackRec) : (s.commit g).supB = s.supB := rfl
@[simp] theorem State.commit_power (s : State) (g : TackRec → TackRec) : (s.commit g).power = s.power := rfl
@[simp] theorem State.commit_rebuild (s : State) (g : TackRec → TackRec) : (s.commit g).rebuild = s.rebuild := rfl
@[simp] theorem State.commit_captures (s : State) (g : TackRec → TackRec) : (s.commit g).captures = s.captures := rfl
@[simp] theorem State.commit_dumpNo (s : State) (g : TackRec → TackRec) : (s.commit g).dumpNo = s.dumpNo := rfl
@[simp] theorem State.commit_ctrs (s : State) (g : TackRec → TackRec) : (s.commit g).ctrs = s.ctrs := rfl
@[simp] theorem State.commit_snaps (s : State) (g : TackRec → TackRec) : (s.commit g).snaps = s.snaps := rfl
@[simp] theorem State.commit_userTags (s : State) (g : TackRec → TackRec) : (s.commit g).userTags = s.userTags := rfl
@[simp] theorem State.commit_sample (s : State) (g : TackRec → TackRec) : (s.commit g).sample = s.sample := rfl
@[simp] theorem State.commit_telemetry (s : State) (g : TackRec → TackRec) : (s.commit g).telemetry = s.telemetry := rfl
@[simp] theorem State.commit_latches (s : State) (g : TackRec → TackRec) : (s.commit g).latches = s.latches := rfl
@[simp] theorem State.commit_i3c (s : State) (g : TackRec → TackRec) : (s.commit g).i3c = s.i3c := rfl
@[simp] theorem State.commit_nack (s : State) (g : TackRec → TackRec) : (s.commit g).nack = s.nack := rfl
@[simp] theorem State.commit_free (s : State) (g : TackRec → TackRec) : (s.commit g).free = s.free := rfl
@[simp] theorem State.commit_pending (s : State) (g : TackRec → TackRec) : (s.commit g).pending = s.pending := rfl

/-! ## log1 -/

@[simp] theorem State.log1_now (s : State) (code : BitVec 16) (fold : Option FoldNo) (l p : Option CoreNo) (d : List Byte) : (s.log1 code fold l p d).now = s.now := rfl
@[simp] theorem State.log1_gradeF (s : State) (code : BitVec 16) (fold : Option FoldNo) (l p : Option CoreNo) (d : List Byte) : (s.log1 code fold l p d).gradeF = s.gradeF := rfl
@[simp] theorem State.log1_enabled (s : State) (code : BitVec 16) (fold : Option FoldNo) (l p : Option CoreNo) (d : List Byte) : (s.log1 code fold l p d).enabled = s.enabled := rfl
@[simp] theorem State.log1_section (s : State) (code : BitVec 16) (fold : Option FoldNo) (l p : Option CoreNo) (d : List Byte) : (s.log1 code fold l p d).sec? = s.sec? := rfl
@[simp] theorem State.log1_place (s : State) (code : BitVec 16) (fold : Option FoldNo) (l p : Option CoreNo) (d : List Byte) : (s.log1 code fold l p d).place = s.place := rfl
@[simp] theorem State.log1_tick (s : State) (code : BitVec 16) (fold : Option FoldNo) (l p : Option CoreNo) (d : List Byte) : (s.log1 code fold l p d).tick = s.tick := rfl
@[simp] theorem State.log1_ptp (s : State) (code : BitVec 16) (fold : Option FoldNo) (l p : Option CoreNo) (d : List Byte) : (s.log1 code fold l p d).ptp = s.ptp := rfl
@[simp] theorem State.log1_cores (s : State) (code : BitVec 16) (fold : Option FoldNo) (l p : Option CoreNo) (d : List Byte) : (s.log1 code fold l p d).cores = s.cores := rfl
@[simp] theorem State.log1_folds (s : State) (code : BitVec 16) (fold : Option FoldNo) (l p : Option CoreNo) (d : List Byte) : (s.log1 code fold l p d).folds = s.folds := rfl
@[simp] theorem State.log1_st (s : State) (code : BitVec 16) (fold : Option FoldNo) (l p : Option CoreNo) (d : List Byte) : (s.log1 code fold l p d).st = s.st := rfl
@[simp] theorem State.log1_pl (s : State) (code : BitVec 16) (fold : Option FoldNo) (l p : Option CoreNo) (d : List Byte) : (s.log1 code fold l p d).pl = s.pl := rfl
@[simp] theorem State.log1_fab (s : State) (code : BitVec 16) (fold : Option FoldNo) (l p : Option CoreNo) (d : List Byte) : (s.log1 code fold l p d).fab = s.fab := rfl
@[simp] theorem State.log1_hall (s : State) (code : BitVec 16) (fold : Option FoldNo) (l p : Option CoreNo) (d : List Byte) : (s.log1 code fold l p d).hall = s.hall := rfl
@[simp] theorem State.log1_trust (s : State) (code : BitVec 16) (fold : Option FoldNo) (l p : Option CoreNo) (d : List Byte) : (s.log1 code fold l p d).trust = s.trust := rfl
@[simp] theorem State.log1_store (s : State) (code : BitVec 16) (fold : Option FoldNo) (l p : Option CoreNo) (d : List Byte) : (s.log1 code fold l p d).store = s.store := rfl
@[simp] theorem State.log1_supA (s : State) (code : BitVec 16) (fold : Option FoldNo) (l p : Option CoreNo) (d : List Byte) : (s.log1 code fold l p d).supA = s.supA := rfl
@[simp] theorem State.log1_supB (s : State) (code : BitVec 16) (fold : Option FoldNo) (l p : Option CoreNo) (d : List Byte) : (s.log1 code fold l p d).supB = s.supB := rfl
@[simp] theorem State.log1_power (s : State) (code : BitVec 16) (fold : Option FoldNo) (l p : Option CoreNo) (d : List Byte) : (s.log1 code fold l p d).power = s.power := rfl
@[simp] theorem State.log1_rebuild (s : State) (code : BitVec 16) (fold : Option FoldNo) (l p : Option CoreNo) (d : List Byte) : (s.log1 code fold l p d).rebuild = s.rebuild := rfl
@[simp] theorem State.log1_captures (s : State) (code : BitVec 16) (fold : Option FoldNo) (l p : Option CoreNo) (d : List Byte) : (s.log1 code fold l p d).captures = s.captures := rfl
@[simp] theorem State.log1_dumpNo (s : State) (code : BitVec 16) (fold : Option FoldNo) (l p : Option CoreNo) (d : List Byte) : (s.log1 code fold l p d).dumpNo = s.dumpNo := rfl
@[simp] theorem State.log1_snaps (s : State) (code : BitVec 16) (fold : Option FoldNo) (l p : Option CoreNo) (d : List Byte) : (s.log1 code fold l p d).snaps = s.snaps := rfl
@[simp] theorem State.log1_userTags (s : State) (code : BitVec 16) (fold : Option FoldNo) (l p : Option CoreNo) (d : List Byte) : (s.log1 code fold l p d).userTags = s.userTags := rfl
@[simp] theorem State.log1_sample (s : State) (code : BitVec 16) (fold : Option FoldNo) (l p : Option CoreNo) (d : List Byte) : (s.log1 code fold l p d).sample = s.sample := rfl
@[simp] theorem State.log1_telemetry (s : State) (code : BitVec 16) (fold : Option FoldNo) (l p : Option CoreNo) (d : List Byte) : (s.log1 code fold l p d).telemetry = s.telemetry := rfl
@[simp] theorem State.log1_latches (s : State) (code : BitVec 16) (fold : Option FoldNo) (l p : Option CoreNo) (d : List Byte) : (s.log1 code fold l p d).latches = s.latches := rfl
@[simp] theorem State.log1_i3c (s : State) (code : BitVec 16) (fold : Option FoldNo) (l p : Option CoreNo) (d : List Byte) : (s.log1 code fold l p d).i3c = s.i3c := rfl
@[simp] theorem State.log1_nack (s : State) (code : BitVec 16) (fold : Option FoldNo) (l p : Option CoreNo) (d : List Byte) : (s.log1 code fold l p d).nack = s.nack := rfl
@[simp] theorem State.log1_free (s : State) (code : BitVec 16) (fold : Option FoldNo) (l p : Option CoreNo) (d : List Byte) : (s.log1 code fold l p d).free = s.free := rfl
@[simp] theorem State.log1_pending (s : State) (code : BitVec 16) (fold : Option FoldNo) (l p : Option CoreNo) (d : List Byte) : (s.log1 code fold l p d).pending = s.pending := rfl

/-! ## sendSched -/

@[simp] theorem State.sendSched_now (s : State) (f : FoldNo) (w : Nat × Flow) (k : Nat) (a : Word64) (d : List MByte) (n : Nat) (x : Option (BitVec 32)) : (s.sendSched f w k a d n x).now = s.now := rfl
@[simp] theorem State.sendSched_gradeF (s : State) (f : FoldNo) (w : Nat × Flow) (k : Nat) (a : Word64) (d : List MByte) (n : Nat) (x : Option (BitVec 32)) : (s.sendSched f w k a d n x).gradeF = s.gradeF := rfl
@[simp] theorem State.sendSched_enabled (s : State) (f : FoldNo) (w : Nat × Flow) (k : Nat) (a : Word64) (d : List MByte) (n : Nat) (x : Option (BitVec 32)) : (s.sendSched f w k a d n x).enabled = s.enabled := rfl
@[simp] theorem State.sendSched_section (s : State) (f : FoldNo) (w : Nat × Flow) (k : Nat) (a : Word64) (d : List MByte) (n : Nat) (x : Option (BitVec 32)) : (s.sendSched f w k a d n x).sec? = s.sec? := rfl
@[simp] theorem State.sendSched_place (s : State) (f : FoldNo) (w : Nat × Flow) (k : Nat) (a : Word64) (d : List MByte) (n : Nat) (x : Option (BitVec 32)) : (s.sendSched f w k a d n x).place = s.place := rfl
@[simp] theorem State.sendSched_tick (s : State) (f : FoldNo) (w : Nat × Flow) (k : Nat) (a : Word64) (d : List MByte) (n : Nat) (x : Option (BitVec 32)) : (s.sendSched f w k a d n x).tick = s.tick := rfl
@[simp] theorem State.sendSched_ptp (s : State) (f : FoldNo) (w : Nat × Flow) (k : Nat) (a : Word64) (d : List MByte) (n : Nat) (x : Option (BitVec 32)) : (s.sendSched f w k a d n x).ptp = s.ptp := rfl
@[simp] theorem State.sendSched_cores (s : State) (f : FoldNo) (w : Nat × Flow) (k : Nat) (a : Word64) (d : List MByte) (n : Nat) (x : Option (BitVec 32)) : (s.sendSched f w k a d n x).cores = s.cores := rfl
@[simp] theorem State.sendSched_folds (s : State) (f : FoldNo) (w : Nat × Flow) (k : Nat) (a : Word64) (d : List MByte) (n : Nat) (x : Option (BitVec 32)) : (s.sendSched f w k a d n x).folds = s.folds := rfl
@[simp] theorem State.sendSched_st (s : State) (f : FoldNo) (w : Nat × Flow) (k : Nat) (a : Word64) (d : List MByte) (n : Nat) (x : Option (BitVec 32)) : (s.sendSched f w k a d n x).st = s.st := rfl
@[simp] theorem State.sendSched_pl (s : State) (f : FoldNo) (w : Nat × Flow) (k : Nat) (a : Word64) (d : List MByte) (n : Nat) (x : Option (BitVec 32)) : (s.sendSched f w k a d n x).pl = s.pl := rfl
@[simp] theorem State.sendSched_fab (s : State) (f : FoldNo) (w : Nat × Flow) (k : Nat) (a : Word64) (d : List MByte) (n : Nat) (x : Option (BitVec 32)) : (s.sendSched f w k a d n x).fab = s.fab := rfl
@[simp] theorem State.sendSched_trust (s : State) (f : FoldNo) (w : Nat × Flow) (k : Nat) (a : Word64) (d : List MByte) (n : Nat) (x : Option (BitVec 32)) : (s.sendSched f w k a d n x).trust = s.trust := rfl
@[simp] theorem State.sendSched_store (s : State) (f : FoldNo) (w : Nat × Flow) (k : Nat) (a : Word64) (d : List MByte) (n : Nat) (x : Option (BitVec 32)) : (s.sendSched f w k a d n x).store = s.store := rfl
@[simp] theorem State.sendSched_log (s : State) (f : FoldNo) (w : Nat × Flow) (k : Nat) (a : Word64) (d : List MByte) (n : Nat) (x : Option (BitVec 32)) : (s.sendSched f w k a d n x).log = s.log := rfl
@[simp] theorem State.sendSched_supA (s : State) (f : FoldNo) (w : Nat × Flow) (k : Nat) (a : Word64) (d : List MByte) (n : Nat) (x : Option (BitVec 32)) : (s.sendSched f w k a d n x).supA = s.supA := rfl
@[simp] theorem State.sendSched_supB (s : State) (f : FoldNo) (w : Nat × Flow) (k : Nat) (a : Word64) (d : List MByte) (n : Nat) (x : Option (BitVec 32)) : (s.sendSched f w k a d n x).supB = s.supB := rfl
@[simp] theorem State.sendSched_power (s : State) (f : FoldNo) (w : Nat × Flow) (k : Nat) (a : Word64) (d : List MByte) (n : Nat) (x : Option (BitVec 32)) : (s.sendSched f w k a d n x).power = s.power := rfl
@[simp] theorem State.sendSched_rebuild (s : State) (f : FoldNo) (w : Nat × Flow) (k : Nat) (a : Word64) (d : List MByte) (n : Nat) (x : Option (BitVec 32)) : (s.sendSched f w k a d n x).rebuild = s.rebuild := rfl
@[simp] theorem State.sendSched_captures (s : State) (f : FoldNo) (w : Nat × Flow) (k : Nat) (a : Word64) (d : List MByte) (n : Nat) (x : Option (BitVec 32)) : (s.sendSched f w k a d n x).captures = s.captures := rfl
@[simp] theorem State.sendSched_dumpNo (s : State) (f : FoldNo) (w : Nat × Flow) (k : Nat) (a : Word64) (d : List MByte) (n : Nat) (x : Option (BitVec 32)) : (s.sendSched f w k a d n x).dumpNo = s.dumpNo := rfl
@[simp] theorem State.sendSched_ctrs (s : State) (f : FoldNo) (w : Nat × Flow) (k : Nat) (a : Word64) (d : List MByte) (n : Nat) (x : Option (BitVec 32)) : (s.sendSched f w k a d n x).ctrs = s.ctrs := rfl
@[simp] theorem State.sendSched_snaps (s : State) (f : FoldNo) (w : Nat × Flow) (k : Nat) (a : Word64) (d : List MByte) (n : Nat) (x : Option (BitVec 32)) : (s.sendSched f w k a d n x).snaps = s.snaps := rfl
@[simp] theorem State.sendSched_userTags (s : State) (f : FoldNo) (w : Nat × Flow) (k : Nat) (a : Word64) (d : List MByte) (n : Nat) (x : Option (BitVec 32)) : (s.sendSched f w k a d n x).userTags = s.userTags := rfl
@[simp] theorem State.sendSched_sample (s : State) (f : FoldNo) (w : Nat × Flow) (k : Nat) (a : Word64) (d : List MByte) (n : Nat) (x : Option (BitVec 32)) : (s.sendSched f w k a d n x).sample = s.sample := rfl
@[simp] theorem State.sendSched_telemetry (s : State) (f : FoldNo) (w : Nat × Flow) (k : Nat) (a : Word64) (d : List MByte) (n : Nat) (x : Option (BitVec 32)) : (s.sendSched f w k a d n x).telemetry = s.telemetry := rfl
@[simp] theorem State.sendSched_latches (s : State) (f : FoldNo) (w : Nat × Flow) (k : Nat) (a : Word64) (d : List MByte) (n : Nat) (x : Option (BitVec 32)) : (s.sendSched f w k a d n x).latches = s.latches := rfl
@[simp] theorem State.sendSched_i3c (s : State) (f : FoldNo) (w : Nat × Flow) (k : Nat) (a : Word64) (d : List MByte) (n : Nat) (x : Option (BitVec 32)) : (s.sendSched f w k a d n x).i3c = s.i3c := rfl
@[simp] theorem State.sendSched_nack (s : State) (f : FoldNo) (w : Nat × Flow) (k : Nat) (a : Word64) (d : List MByte) (n : Nat) (x : Option (BitVec 32)) : (s.sendSched f w k a d n x).nack = s.nack := rfl
@[simp] theorem State.sendSched_free (s : State) (f : FoldNo) (w : Nat × Flow) (k : Nat) (a : Word64) (d : List MByte) (n : Nat) (x : Option (BitVec 32)) : (s.sendSched f w k a d n x).free = s.free := rfl
@[simp] theorem State.sendSched_pending (s : State) (f : FoldNo) (w : Nat × Flow) (k : Nat) (a : Word64) (d : List MByte) (n : Nat) (x : Option (BitVec 32)) : (s.sendSched f w k a d n x).pending = s.pending := rfl

end Sys2Proof.Machine
end

