-- ==== Sys2Proof/WellFormed.lean ====
section
/-! DEFINITION. Which commands can reach the block at all: the operands that come from outside keep to the lengths, ranges
and codes that the spec gives them. A command that does not is no command of the table's row. -/

namespace Sys2Proof

/-! ## Operands -/

/-- A number lies between two others. -/
def lenIn (n lo hi : Nat) : Bool := decide (lo ≤ n) && decide (n ≤ hi)

/-- An Ethernet frame is at most 9,216 B, so its UDP payload is at most 9,188 B; an IPv4 source stands in the top 32 bits
(R293, Table 13.1). -/
def EthFrame.wf (e : EthFrame) : Bool :=
  decide (e.payload.length ≤ 9188) && (e.ipv6 || decide (e.src.toNat % 2 ^ 96 = 0))

/-- A scheduled packet carries as many bytes as its header says, at most 256, and marks no word that it does not carry
(Table 12.6). -/
def SchedPacket.wf (k : SchedPacket) : Bool :=
  decide (k.units.toNat ≤ 8) && decide (k.payload.length = 32 * k.units.toNat) && decide (k.marks.toNat < 2 ^ k.units.toNat)

/-- A mail message carries at most 4,064 B (Table 12.8). -/
def MailMsg.wf (m : MailMsg) : Bool := decide (m.payload.length ≤ 4064)

/-- A mail message of a kind (Table 12.9). -/
def MailMsg.wfOf (m : MailMsg) (kind : Nat) : Bool := m.wf && decide (m.kind.toNat = kind)

/-- A pairing offer has its 256 signed bytes (Table 15.4). -/
def PairingOffer.wf (o : PairingOffer) : Bool := decide (o.signed.length = 256) && decide (o.generation.toNat ≤ 15)

/-- A traffic lane frame has 16 slot units of 800 B, a management unit of 240 B, in revision 1 of 128 B, and 164 or 165 B
of fill (Table 11.2, R247). -/
def LaneFrame.wf (k : LaneFrame) : Bool :=
  decide (k.units.length = 16) && k.units.all (fun u => decide (u.cipher.length = 800)) &&
    decide (k.mgmt.cipher.length = 240 ∨ k.mgmt.cipher.length = 128) && decide (k.fill = 164 ∨ k.fill = 165)

/-- A frame lies in as many codewords as its bytes reach (R224). -/
def LineRx.wf (r : LineRx) (k : LaneFrame) : Bool :=
  decide (r.phase < 640) && decide (r.errors.length = (r.phase + 13328 + k.fill + 639) / 640)

/-- A maintenance request carries at most 8,192 B of body (Table 15.5). -/
def MaintReq.wf (r : MaintReq) : Bool := decide (r.body.length ≤ 8192)

/-- A maintenance request of an operation (Table 15.6). -/
def MaintReq.wfOf (r : MaintReq) (op : Nat) : Bool := r.wf && decide (r.op.toNat = op)

/-- Operations of Table 15.6. -/
def maintOps : List Nat :=
  [0x01, 0x02, 0x10, 0x11, 0x12, 0x20, 0x21, 0x22, 0x23, 0x24, 0x25, 0x26, 0x27, 0x30, 0x31, 0x32, 0x33, 0x34, 0x35, 0x36, 0x37, 0x38]

/-- Bit 0 of a request's argument. -/
def MaintReq.arg0 (r : MaintReq) : Bool := r.arg.getLsbD 0

/-- A status write over the plant port is operation 0x30. -/
def StatusWrite.wf : StatusWrite → Bool
  | .maint r => r.wfOf 0x30
  | .i3c _ _ => true

/-- Address of a status write. -/
def StatusWrite.addr : StatusWrite → Nat
  | .maint r => r.arg.toNat
  | .i3c a _ => a.toNat

/-- A tally select register of some core (Table 20.9): offsets 0x100 to 0x11C of a core block. -/
def isSelAddr (a : Nat) : Bool :=
  decide (0x01000000 ≤ a ∧ a < 0x01200000) && lenIn (a % 0x10000) 0x100 0x11C && decide (a % 4 = 0)

/-- A user tag register MOD_USER_TAG0 to 15 (Table 20.3): addresses 0x200 to 0x23C. -/
def isTagAddr (a : Nat) : Bool := lenIn a 0x200 0x23C && decide (a % 4 = 0)

/-- A temperature sample has a reading for each core and each SRAM stack (R398). -/
def TempReadings.wf (r : TempReadings) : Bool := decide (r.cores.length = 32) && decide (r.sramStacks.length = 8)

/-- A crossing joins two adjacent base dies of the grid of two rows of four, named from the lower (R394, R397). -/
def crossingOk (x : (Fin 8 × Fin 8) × Nat) : Bool :=
  (decide (x.1.1.val + 1 = x.1.2.val) && decide (x.1.1.val % 4 ≠ 3)) || decide (x.1.1.val + 4 = x.1.2.val)

/-- Bit errors of pasture memory: words that exist, each with some of its 272 bits flipped (R146, R149). -/
def upsetsOk (us : List (Nat × Nat)) : Bool := us.all fun u => decide (u.1 < 58720256) && decide (1 ≤ u.2 ∧ u.2 < 2 ^ 272)

/-! ## Commands -/

/-- Operands of a command are what its row admits. -/
def Instr.wf : Instr → Bool
  | .beatGrant _ us => upsetsOk us
  | .fleeceScrub _ ws ms => decide (ws.length = ms.length) && upsetsOk (ws.zip ms)
  | .schedPacketArrival _ k => k.wf
  | .mailWrite m => m.wfOf 0x01
  | .mailGatherRequest m => m.wfOf 0x02 && decide (m.payload.length = 16)
  | .mailGatherResponse m => m.wfOf 0x03
  | .mailNotServed m => m.wfOf 0x04
  | .mailStaleRole m => m.wfOf 0x05
  | .mailRefused m => m.wfOf 0x06
  | .mailNoRoute m => m.wfOf 0x07
  | .mailUnknownKind m => m.wfOf 0x08
  | .faultNotice m => m.wfOf 0x09 && decide (m.payload.length = 32)
  | .statusReadRequest m => m.wfOf 0x0A
  | .statusReadResponse m => m.wfOf 0x0B && decide (m.payload.length = 4)
  | .imageBlockRequest m => m.wfOf 0x0C && decide (m.payload.length = 58)
  | .imageBlockResponse m => m.wfOf 0x0D && decide (8 ≤ m.payload.length)
  | .presenceNotice _ m => m.wfOf 0x0E && decide (m.payload.length = 8)
  | .presenceCloseNotice _ m => m.wfOf 0x0F && m.payload.isEmpty
  | .witnessRecord m => m.wfOf 0x10
  | .mailReservedKind m => m.wf && (decide (m.kind = 0) || decide (0x11 ≤ m.kind.toNat))
  | .streamFrameInvalid _ e => e.wf
  | .imeskLineFrame _ e => e.wf
  | .imeskProcessFrame _ e => e.wf
  | .gevLeader _ e => e.wf
  | .gevPayload _ e => e.wf
  | .gevTrailer _ e => e.wf
  | .plantFrameInvalid _ e => e.wf
  | .replayFeedFrame _ e => e.wf
  | .trafficFrame _ k => k.frame.wf && k.line.wf k.frame
  | .trainingFrame _ _ _ o => o.wf
  | .inputUndervoltage mv => decide (mv < 38000)
  | .inputOvervoltage mv => decide (62000 < mv)
  | .marginSample ms => decide (ms.length = 32) && ms.all fun m => decide (m ≤ 1023)
  | .phaseSample phis => decide (phis.length = 10) && phis.all crossingOk
  | .temperatureSample r => r.wf
  | .junctionTrip _ t => decide (412 ≤ t)
  | .ageingRecord rs => decide (rs.length = 32)
  | .replan qs => decide (qs.length = 32)
  | .openSession r => r.wfOf 0x01
  | .closeSession r => r.wfOf 0x02
  | .attestation r => r.wfOf 0x10
  | .statusRead r => r.wfOf 0x11
  | .logRead r => r.wfOf 0x12
  | .downloadBegin r => r.wfOf 0x20
  | .downloadData r => r.wfOf 0x21
  | .downloadEnd r => r.wfOf 0x22
  | .verify r => r.wfOf 0x23
  | .activateImmediate r => r.wfOf 0x24
  | .activateAtTick r => r.wfOf 0x24
  | .activateDeferred r => r.wfOf 0x24
  | .revert r => r.wfOf 0x25
  | .holdStop r => r.wfOf 0x26 && r.arg0
  | .holdRelease r => r.wfOf 0x26 && !r.arg0
  | .withdraw r => r.wfOf 0x27
  | .reLock r => r.wfOf 0x31
  | .replayOn r => r.wfOf 0x32 && r.arg0
  | .replayOff r => r.wfOf 0x32 && !r.arg0
  | .debugEnable r => r.wfOf 0x33 && r.arg0
  | .debugDisable r => r.wfOf 0x33 && !r.arg0
  | .debugRead r => r.wfOf 0x34
  | .dumpExport r => r.wfOf 0x35
  | .logClear r => r.wfOf 0x36
  | .keyChange r => r.wfOf 0x37
  | .adoptSsd r => r.wfOf 0x38
  | .tallySelWrite w => w.wf && isSelAddr w.addr
  | .userTagWrite w => w.wf && isTagAddr w.addr
  | .statusWriteRefused w => w.wf
  | .maintUnknownOperation r => r.wf && !maintOps.contains r.op.toNat
  | .tickWordReceived _ _ _ _ | .tickInstant | .holdoverLeft | .tickLockReached | .tickOutSend | .reserveStart _ _
  | .shareBoundary _ | .heartbeatToggle | .telemetrySend | .replayExportFrame _ | .nop _ _ | .waitt _ _ | .take _ _
  | .takeCompletion _ _ | .post _ _ | .postHoldRelease _ _ | .loop _ _ | .release _ _ | .endp _ _ | .mark _ _ | .pass _
  | .passHalfDepth _ | .wpass _ | .passSlotUpdate _ | .hazardHold _ | .clear _ | .spillFirst _ | .spill _ | .spillWalkRow _
  | .read _ | .readoutRowLeave _ | .wload _ | .add _ _ | .sub _ _ | .mul _ _ | .fma _ _ | .sprod _ _ | .affine _ _ | .cmp _ _
  | .max _ _ | .min _ _ | .lsel _ _ | .cvt _ _ | .teval _ _ | .mprog _ _ | .rmax _ _ | .rmin _ _ | .rsum _ _ | .rsumsq _ _
  | .rsumsd _ _ | .rrecip _ _ | .rmean _ _ | .rrsqrt _ _ | .qread _ _ | .strayActivation _ | .strayWeight _ | .bsel _ | .thrd _
  | .fallbackSectionClose _ | .tld _ _ | .threadLoadLand _ | .thend _ _ | .currierResultLand _ | .start _ | .startArmOnly _
  | .rearm _ | .stop _ | .descriptorReady _ _ | .beatLanding _ | .handleArrival _ | .droverCancel _
  | .staticWordRepair _ | .schedWrite | .schedReadRequest | .schedReadResponse | .schedPost | .schedNotServed | .exchangeReport
  | .exchangeDecision | .landingSubstitute _ | .schedUnexpected | .mailDeliveryWindow _ | .arpRequest _ _
  | .neighbourSolicitation _ _ | .ethernetLinkUp _ _ | .ethernetLinkLoss _ | .autonegTimeout _ | .ptpSync _ _ _ _ _ _
  | .ptpFollowUp _ _ _ _ | .ptpDelayResp _ _ _ _ | .ptpAnnounce _ _ | .ptpOtherMessage _ | .ptpDelayReqSend | .timeSourceLoss
  | .ppsInEdge | .slotFrameBoundary _ | .activeMaskChange _ | .laneSignalLoss _ _ | .laneLost _ _ | .laneUsable _ _ | .portDown _
  | .authFailureRetrain _ | .signalDetected _ _ | .acquireDone _ _ | .alignDone _ _ | .helloAgreed _ | .keyConfirmed _ _ | .verifyDone _ _ _
  | .trainingTimeout _ | .keyRetry _ | .unpairedHello _ | .coreFaultDetected _ _ | .coreIsolated _ | .rebuildUnitWritten
  | .crookSample _ | .hangDeclared _ | .dumpCapture _ | .dumpWritten | .foldWalkEnd _ _ | .supervisorRestart _ | .logEntryWrite _
  | .logMirrorCopy | .witnessSend | .inputPowerApplied | .powerGood | .railOutOfBand _ | .converterUnitLost _ | .powerSample _ _
  | .refclkLost | .refclkHoldoverExpired | .refclkRelock | .bridleChangeConfirmed _ _ _ | .discrepancyTimeout
  | .sealLoopChange _ _ | .tackLockConfirmed _ | .windowExpiry | .entropyHealthFailure | .entropyRecovered | .ssdInserted _ _
  | .ssdRemoved _ | .ssdLinkDown _ | .ssdCommandTimeout _ | .tackRecordCommit | .staticLoadComplete _ | .confirmationComplete _
  | .sessionTimeout | .maintInProgressAnswer | .pairLowRead _ | .i3cEntdaa _ | .ssdResyncComplete _ | .verificationEnd
  | .entropyDrawTimeout => true

end Sys2Proof
end

