-- ==== Sys2Proof/Tests/Slice0.lean ====
section
/-! SUPPORT. Tests: the commands that WellFormed refuses, single commands on small states, and for the statements of
Certificates/Slice0 states and operands that meet their hypotheses. -/

namespace Sys2Proof.Tests

open Sys2Proof.Machine

-- Each test runs by itself, so that the package compiles as one text within the memory it is given.
set_option Elab.async false

/-! ## Small states -/

/-- A plant port record: IPv4, enabled, peer 1. -/
def plant : PlantRec :=
  { ipv6 := false, enabled := true, mac := 0, local_ := 0, udp := 0, resultDst := 0, resultUdp := 0, telemetryUdp := 0,
    exportUdp := 0, telemetryDst := 0, exportDst := 0, feedSrc := 1, peers := [1] }

/-- Fold 0 on L0. -/
def allot0 : Allot :=
  { fold := 0, tag := 5, cores := 1, shared := none, second := false, boundary := 0, streams := 0, gate0 := 0, gateN := 8,
    slot0 := 0, slotN := 64, ring0 := 0, ringN := 8, table0 := 0, tableN := 0, steps := 0, drovers := 15 }

/-- A module section of one module with period 100 µs and one rein, on which module 1 lies. -/
def sect : ModuleSection :=
  { version := 1, measurement := 0, period := 100, bellwether := false, n := 2, spare := false, startCounts := [0, 0],
    placement := [], nextHop := [none, some 0], reins := [{ rein := 0, ports := [0], peer := 1 }], plan := [],
    allots := [allot0], ptpPort := some 0, ptpDomain := 0, telemetryEvery := 1, telemetryPorts := 1, telemetryList := [],
    plant0 := plant, plant1 := plant, drain0 := [], drain1 := [],
    power := { cap := 1750, entry := 380, exit := 360, exitCount := 1, lead := 1, horizon := 1, warming := false, coolant := 40 } }

/-- A pen that starts its streams at 0 on L0. -/
def pen0 : PenRec :=
  { pen := 0, thermal := true, degraded := true, worst := 0,
    cores := [{ core := 0, matrix := 0, currier := 0, drover := 0, tables := 0, worst := 0 }] }

/-- A fold section of one module: a static region from 0 and a dynamic one from 4,096 on L0. -/
def image0 : FoldImage :=
  { version := 1, release := 0, measurement := 0, tag := 5, degraded := 0, thermal := 0, members := 1, confirm := 1,
    mailBudget := 64, shepherd := 0, deputy := 0, selector := 0, pens := [pen0],
    regions := [{ core := 0, start := 0, len := 4096, dynamic := false, fold := 0 },
      { core := 0, start := 4096, len := 4096, dynamic := true, fold := 0 }],
    gates := [], rings := [], rows := [], streams := [], frames := [], slices := [], flows := [], landings := [],
    topology := [], statics := [], tensors := [] }

/-- Fold 0 runs its image. -/
def fold0 : Fold := { Fold.reset with run := .running, allot := some allot0, image := some image0 }

/-- Bytes of an instruction word as cells. -/
def cellsOf (w : Nat) : List Host.Cell :=
  (List.range 16).filterMap fun k => if w / 256 ^ k % 256 = 0 then none else some (k, BitVec.ofNat 8 (w / 256 ^ k))

/-- P0 holds L0 with a word at offset 0. -/
def core0 (w : Nat) : Core :=
  { Core.reset with mode := .mapped, supply := { Supply.reset with on := true }, pasture := { Pasture.reset with cells := cellsOf w } }

/-- Presence with the loop open and a window. -/
def pres0 : Presence := { Presence.reset with sealOpen := true, window := some 120000000 }

/-- A branded module in tick lock, 10 cycles into tick 7, with its fold on P0, a window open and session 1. -/
def live : State :=
  { State.reset with
    now := 1000010, sec? := some sect, cores := State.reset.cores.set 0 (core0 0)
    folds := State.reset.folds.set 0 fold0
    tick := { Tick.reset with predicting := true, lock := true, number := 7, instant := 1000000 }
    trust := { Trust.reset with life := .branded, root := some 0, pres := pres0, sess := { Session.reset with num := some 1 } }
    pl := State.reset.pl.set 0 { PlPort.reset with up := true }
    power := { Power.reset with good := true, bootStep := 10 } }

/-- `live` with another word for L0's streams. -/
def at0 (c : Core) : State := { live with cores := live.cores.set 0 c }

/-- A stream of L0 at a word. -/
def issuer (i : Issuer) (w : Nat) : State := at0 ((core0 w).setStream i { Stream.reset with running := true })

/-! ## Witnesses: the queue, the clock and the tick -/

theorem wit_IdleStepIsOneCycle : live.pending = [] := rfl

theorem wit_GradeOk : gradeOk State.reset ∧ gradeOk (State.resetE 3 17) ∧ (3 : CoreNo) ≠ 17 :=
  ⟨.inl ⟨rfl, rfl⟩, .inr ⟨rfl, by decide +kernel⟩, by decide⟩

theorem wit_WindowsStaySafe : windowSafe live ∧
    ∃ t, step { live with pending := [.i3cEntdaa 8] } = .next t ∧ t.trust.pres.window = some 120000000 :=
  ⟨fun _ => by decide +kernel, _, rfl, rfl⟩

/-- The module with its tack lock fuse blown. -/
def locked : State := { live with
  trust := { live.trust with pres := { pres0 with fuse := true, window := none } }, pending := [.i3cEntdaa 8] }

theorem wit_LockedForGood : lockedForGood locked ∧ ∃ t, step locked = .next t ∧ t.trust.pres.fuse = true :=
  ⟨⟨rfl, rfl⟩, _, rfl, rfl⟩

theorem wit_LockOrHoldoverKept : lockOrHoldover live ∧ ∃ t, step { live with pending := [.i3cEntdaa 8] } = .next t ∧ t.tick.lock = true :=
  ⟨by intro h; revert h; decide +kernel, _, rfl, rfl⟩

/-- A word of tick 8 received at a cycle. -/
def word8 (edge : Nat) : TickWord := { word := 0x80000, edge := edge }

/-- `live` with words on its channels. -/
def heard (a b : Option TickWord) : State := { live with tick := { live.tick with chA := a, chB := b } }

theorem wit_TickInstantInLock : live.sec? = some sect ∧ live.power.good = true ∧ live.tick.predicting = true ∧
    live.tick.lock = true ∧ live.tick.holdover = false ∧ live.tick.relock = false ∧ live.power.refLost = none ∧
    live.power.refExpired = false := by decide +kernel

theorem wit_TickInstantInLock_agree : (heard (some (word8 1200016)) (some (word8 1199984))).tick.chA = some (word8 1200016) ∧
    wordsAgree (word8 1200016) (word8 1199984) ∧ wordMatches live sect (word8 1200016) ∧ wordMatches live sect (word8 1199984) := by
  unfold wordsAgree wordMatches; decide +kernel

/-- Words that agree of which one alone matches, and words that disagree and both match. -/
theorem wit_TickInstantInLock_open : wordsAgree (word8 1200016) (word8 1200017) ∧ ¬wordMatches live sect (word8 1200017) ∧
    ¬wordsAgree (word8 1200000) { word := 0x80001, edge := 1200000 } ∧ wordMatches live sect { word := 0x80001, edge := 1200000 } := by
  unfold wordsAgree wordMatches; decide +kernel

/-- A word of tick 9: it matches nothing, and disagrees with every word of tick 8. -/
theorem wit_TickInstantInLock_breaks : ¬wordMatches live sect { word := 0x90000, edge := 1200000 } ∧
    ¬wordsAgree { word := 0x90000, edge := 1200000 } (word8 1200000) ∧ ¬wordsAgree (word8 1199983) (word8 1200016) ∧
    ¬wordMatches live sect (word8 1199983) ∧ (heard none (some (word8 1200000))).tick.chA = none ∧
    (heard none none).tick.chB = none := by unfold wordsAgree wordMatches; decide +kernel

/-- Before tick lock. -/
def early (predicting : Bool) (agree : Nat) : State := { live with
  tick := { live.tick with predicting := predicting, lock := false, agree := agree } }

theorem wit_TickLockIsReached : (early false 0).sec? = some sect ∧ (early false 0).power.good = true ∧
    (early false 0).tick.predicting = false ∧ (early false 0).tick.chA = none ∧ (early true 15).tick.predicting = true ∧
    (early true 15).tick.lock = false ∧ (early true 15).tick.holdover = false ∧ (early true 15).tick.relock = false ∧
    (early true 15).power.refExpired = false ∧ (early true 15).power.refLost = none ∧ (early true 15).tick.agree < 16 ∧
    16 ≤ (early true 16).tick.agree := by decide +kernel

theorem wit_TickLockIsReached_good : goodTick (heard (some (word8 1200016)) (some (word8 1199984))) sect ∧
    ¬goodTick (heard (some (word8 1200016)) none) sect := by
  constructor
  · exact ⟨_, _, rfl, rfl, by unfold wordsAgree wordMatches; decide +kernel⟩
  · rintro ⟨x, y, -, h, -⟩; cases h

/-- In holdover after 16 ticks that agree. -/
def heldOver : State := { live with tick := { live.tick with lock := false, holdover := true, agree := 16 } }
/-- REFCLK lost, and its limit passed or not. -/
def noRef (expired : Bool) : State := { live with power := { live.power with refLost := some 1000000, refExpired := expired } }

theorem wit_LockFollowsTicksAndRefclk : 16 ≤ heldOver.tick.agree ∧ heldOver.power.refLost = none ∧
    heldOver.tick.holdover = true ∧ (noRef false).power.refLost.isSome = true ∧ (noRef false).power.refExpired = false ∧
    (noRef true).power.refExpired = true := by decide +kernel

/-- A bellwether that has placed its next instant. -/
def bellwether : State := { live with
  sec? := some { sect with bellwether := true }
  tick := { live.tick with placed := some 1200000, healthy := true } }

theorem wit_TickCommandsTakeEffect : bellwether.sec? = some { sect with bellwether := true } ∧ bellwether.power.good = true ∧
    3 ≤ bellwether.power.bootStep ∧ bellwether.tick.placed = some 1200000 ∧ bellwether.tick.correction = 0 ∧
    (1400000 : Int) = 1200000 + 2000 * sect.period + bellwether.tick.correction ∧
    bellwether.now + bellwether.tick.loop.getD 0 < 1400000 ∧
    1400000 ≤ ({ bellwether with now := 1400000 } : State).now + bellwether.tick.loop.getD 0 ∧ sect.bellwether = false ∧
    bellwether.tick.predicting = true ∧ bellwether.tick.inReserve = false ∧ bellwether.now < bellwether.tick.instant + 1920 * 100 ∧
    bellwether.tick.instant + 1920 * 100 ≤ ({ bellwether with now := 1192000 } : State).now ∧ 0 < sect.period ∧
    bellwether.power.bootStep = 10 ∧ bellwether.trust.life = .branded ∧ bellwether.tick.healthy = true ∧
    bellwether.now < bellwether.tick.instant + 64 ∧ bellwether.tick.instant + 64 ≤ ({ bellwether with now := 1000064 } : State).now ∧
    live.tick.healthy = false := by decide +kernel

/-- A bellwether that has placed nothing, with 1588 time or without. -/
def placing (time : Option (Nat × Nat)) : State := { bellwether with
  tick := { bellwether.tick with placed := none }, ptp := { bellwether.ptp with time := time } }

/-- 1588 time 200,010 half nanoseconds at this cycle: the next multiple of the period is two periods on. -/
theorem wit_TickCommandsTakeEffect_first : (placing none).tick.placed = none ∧ (placing none).ptp.time2 (placing none).now = none ∧
    (placing (some (100000, 1000000))).ptp.time2 1000010 = some 200010 ∧ (2000 * 100 * (2 - 1) : Int) < 200010 ∧
    (200010 : Int) ≤ 2000 * 100 * 2 ∧ (1200000 : Int) = 1000010 + 2000 * 100 * 2 - 200010 ∧
    1000010 + (placing none).tick.loop.getD 0 < 1200000 ∧ 1200000 ≤ 1200000 + (placing none).tick.loop.getD 0 := by decide +kernel

/-! ## Witnesses: issue -/

theorem wit_IssueKeepsItsTime : (issuer .matrix 0xC0).issuing 0 .matrix 0xC0 = some (0, 0xC0) ∧
    live.issuing 0 .matrix 0xC0 = none ∧ live.matrixIssue 0 0x01 = none := by decide +kernel

/-- A stream in a loop of 2 words that it goes round twice. -/
def looping (next index : Nat) : Stream := { Stream.reset with
  next := next, loops := [{ level := 0, index := index, trip := 2, body := 16, len := 2 }] }

theorem wit_IssueKeepsItsTime_loops : (looping 16 0).branch = none ∧ (looping 16 0).next + 16 ≠ 16 + 16 * 2 ∧
    (looping 32 0).next + 16 = 16 + 16 * 2 ∧ 0 + 1 < 2 ∧ 2 ≤ 1 + 1 ∧ Stream.reset.loops = [] ∧
    ({ Stream.reset with branch := some { stopAt := 16, resume := 48, ready := 9 } } : Stream).next + 16 = 16 := by decide +kernel

/-- A thread of L0 in its cycle of 8. -/
theorem wit_IssueKeepsItsTime_thread : live.rel % 8 = (2 : Fin 8).val ∧ live.rel < live.reserveAt := by decide +kernel

theorem wit_CommonInstructions : (issuer .currier 0xC1).issuing 0 .currier 0xC1 = some (0, 0xC1) ∧
    (issuer .matrix 0xC4).issuing 0 .matrix 0xC4 = some (0, 0xC4) ∧ (issuer .drover 0xC6).issuing 0 .drover 0xC6 = some (0, 0xC6) ∧
    (issuer .drover 0xC7).issuing 0 .drover 0xC7 = some (0, 0xC7) := by decide +kernel

/-- RELEASE of a ring's slots, with an enabled ring 0 of 3 slots or not. -/
def releasing (n : Nat) (enabled : Bool) : State :=
  at0 { (core0 (0xC5 + n * 2 ^ 118)).setStream .drover { Stream.reset with running := true } with
    rings := Core.reset.rings.set 0 { reg := BitVec.ofNat 64 ((b2n enabled) * 2 ^ 63), started := 0 } }

theorem wit_Release : (releasing 2 false).issuing 0 .drover 0xC5 = some (0, BitVec.ofNat 128 (0xC5 + 2 * 2 ^ 118)) ∧
    (releasing 2 false).cores[(0 : CoreNo)].rings[(0 : RingNo)].enabled = false ∧
    (releasing 2 true).cores[(0 : CoreNo)].rings[(0 : RingNo)].enabled = true ∧
    (releasing 2 true).cores[(0 : CoreNo)].rings[(0 : RingNo)].fill < 2 ∧
    (releasing 2 true).turn 0 .drover (some (.ring 0)) = true := by decide +kernel

/-- The matrix and the drover stream of L0 at the same word. -/
def both (w : Nat) : State :=
  at0 (((core0 w).setStream .drover { Stream.reset with running := true }).setStream .matrix { Stream.reset with running := true })

theorem wit_Turn : (both (0xC5 + 2 ^ 118)).issuing 0 .drover 0xC5 = some (0, BitVec.ofNat 128 (0xC5 + 2 ^ 118)) ∧
    (both (0xC5 + 2 ^ 118)).turn 0 .drover (some (.ring 0)) = false ∧ (both 0xC2).issuing 0 .drover 0xC2 = some (0, 0xC2) ∧
    (both 0xC2).turn 0 .drover (some (.handles 0)) = false ∧ (both 0xC3).turn 0 .drover (some (.places 0)) = false ∧
    (both 0xC2).turn 0 .matrix (some (.handles 0)) = true ∧ (both 0xC3).turn 0 .matrix (some (.places 0)) = true := by decide +kernel

/-- Handle 7. -/
def handle7 : Handle := { bad := false, tag := 0, buffer := 7 }

/-- A stream of L0 at a word, with gate 0 of P0 as given. -/
def gated (w : Nat) (q : List (Handle × Nat)) (wait : Wait) : State :=
  at0 { (core0 w).setStream .matrix { Stream.reset with running := true, wait := wait } with
    gates := Core.reset.gates.set 0 { queue := q, freed := [] } }

theorem wit_Take : (gated 0xC2 [(handle7, 1000010)] .none).issuing 0 .matrix 0xC2 = some (0, 0xC2) ∧
    live.gateRec 0 0 = none ∧ (gated 0xC2 [(handle7, 1000010)] .none).cores[(0 : CoreNo)].gates[(0 : GateNo)].queue = [(handle7, 1000010)] ∧
    (gated 0xC2 [] .none).issuing 0 .matrix 0xC2 = some (0, 0xC2) ∧
    (gated 0 [] (.take 0 1 1000000)).phys 0 = some 0 ∧
    ((gated 0 [] (.take 0 1 1000000)).cores[(0 : CoreNo)].stream .matrix).wait = .take 0 1 1000000 := by decide +kernel

/-- A gate whose producer L1 is absent. -/
def orphan : State := { issuer .matrix 0xC2 with
  folds := live.folds.set 0 { fold0 with image := some { image0 with
    gates := [{ core := 0, gate := 0, producer := 1, size := 1, standIn := 16, lists := [] }] } } }

theorem wit_Take_absent : orphan.issuing 0 .matrix 0xC2 = some (0, 0xC2) ∧
    orphan.gateRec 0 0 = some { core := 0, gate := 0, producer := 1, size := 1, standIn := 16, lists := [] } ∧
    orphan.absent 1 = true ∧ orphan.turn 0 .matrix (some (.handles 0)) = true := by decide +kernel

theorem wit_Take_there : producerThere live 0 0 := by
  have h : live.gateRec 0 0 = none := by decide +kernel
  intro x hx; rw [h] at hx; cases hx

theorem wit_Post : (gated 0xC3 [] .none).issuing 0 .matrix 0xC3 = some (0, 0xC3) ∧ bitOf (0xC3 : Word128) 104 = false ∧
    fld (0xC3 : Word128) 105 5 = (0 : CoreNo).val ∧ (gated 0xC3 [] .none).cores[(0 : CoreNo)].fault = none ∧
    (gated 0xC3 [] .none).cores[(0 : CoreNo)].gates[(0 : GateNo)].full 1000010 = false ∧
    (gated 0xC3 (List.replicate 16 (handle7, 0)) .none).cores[(0 : CoreNo)].gates[(0 : GateNo)].full 1000010 = true := by decide +kernel

/-- L1 on P1, beside L0. -/
def pair (w : Nat) : State := { issuer .matrix w with
  cores := (issuer .matrix w).cores.set 1 { Core.reset with mode := .mapped, logical := 1 } }

theorem wit_PostToAnotherCore : (pair (0xC3 + 2 ^ 105)).issuing 0 .matrix 0xC3 = some (0, BitVec.ofNat 128 (0xC3 + 2 ^ 105)) ∧
    (1 : CoreNo) = Fin.ofNat 32 (fld (BitVec.ofNat 128 (0xC3 + 2 ^ 105)) 105 5) ∧ (pair (0xC3 + 2 ^ 105)).absent 1 = false ∧
    (pair (0xC3 + 2 ^ 105)).phys 1 = some 1 ∧ (issuer .matrix (0xC3 + 2 ^ 105)).absent 1 = true := by decide +kernel

/-- A slice of module 1 and a flow there. -/
def remote (w : Nat) (slices : List Slice) : State := { issuer .matrix w with
  folds := live.folds.set 0 { fold0 with image := some { image0 with
    slices := slices, flows := [{ control := false, rein := 0, sender := 0, target := 1, queue := 0, delay := 0 }] } } }
/-- Everything of every module, as the fold's own. -/
def ownAll : Slice :=
  { first := 0, last := 2 ^ 64 - 1, kind := .own, canRead := true, canWrite := true, canGather := true, canPost := true, peer := 0, deferral := 0 }

theorem wit_PostToAnotherModule : (remote (0xC3 + 2 ^ 104 + 2 ^ 110) [ownAll]).issuing 0 .matrix 0xC3 =
      some (0, BitVec.ofNat 128 (0xC3 + 2 ^ 104 + 2 ^ 110)) ∧
    bitOf (BitVec.ofNat 128 (0xC3 + 2 ^ 104 + 2 ^ 110)) 104 = true ∧ live.foldOf 0 = some 0 ∧
    addrOk live.declared (hallAddr 2 1 0 0) 4 .post false = true ∧
    ((remote (0xC3 + 2 ^ 104 + 2 ^ 110) [ownAll]).sliceOf 0 (hallAddr 2 1 0 0) .post).isSome = true ∧
    ((remote (0xC3 + 2 ^ 104 + 2 ^ 110) []).sliceOf 0 (hallAddr 2 1 0 0) .post).isSome = false ∧
    ((remote 0 [ownAll]).flowOf 0 false 0 1).isSome = true := by decide +kernel

/-- A handle that has arrived. -/
def arrived (dead : Bool) : HandleFl := { gate := 0, handle := handle7, sent := 1000000, arrive := 1000010, dead := dead }

/-- A descriptor of a transfer slot that holds its post. -/
def held0 : Desc := { at_ := 32, word := 0, src0 := 0, dst0 := 0, src := 0, dst := 0, slot := some 3, held := some (0, handle7) }

theorem wit_HeldPosts : ((gated 0 [] (.post 0 handle7 1000000)).cores[(0 : CoreNo)].stream .matrix).wait = .post 0 handle7 1000000 ∧
    (gated 0 [] (.post 0 handle7 1000000)).turn 0 .matrix (some (.places 0)) = true ∧
    (gated 0 [] (.post 0 handle7 1000000)).cores[(0 : CoreNo)].gates[(0 : GateNo)].full 1000010 = false ∧
    ((core0 0).setDs 1 2 { DStream.reset with descs := [held0] }).heldSlot 1 3 = some (2, 32, 0, handle7) ∧
    ((at0 { core0 0 with arrivals := [arrived true] }).cores[(0 : CoreNo)].arrivals.find? fun a => decide (a.arrive ≤ 1000010)) =
      some (arrived true) ∧ (arrived false).dead = false := by decide +kernel

/-! ## Witnesses: array and accumulator -/

theorem wit_TaperedRangeIsKept : 0 < absQ (-1 / 2 ^ 13) ∧ absQ (-1 / 2 ^ 13) < twoPow (-12) ∧ twoPow (-12) ≤ absQ 1 ∧
    absQ 1 ≤ twoPow 10 ∧ absQ (-1024) = twoPow 10 ∧ twoPow 10 < absQ 2047 ∧ absQ 2047 < 2 * twoPow 10 ∧
    2 * twoPow 10 ≤ absQ 2048 := by decide +kernel

/-- A UQ8 pass of one product: (7 − 2) × (5 − 1). -/
def pass0 (issue : Nat) (half : Bool) : PassFl :=
  { issue := issue, wide := false, pair := 1, half := half, pieceA := false, pieceW := false, op := issue
    row := { elems := [{ code := 7, bad := false }], za := 2, fmt := .uq8, stray := false, record := 0 }
    set := false
    weights := { WeightSet.reset with
      fmt := some .uq8, cells := [(0, { code := 5, bad := false })], background := false, trailer := [1] }
    kcount := 1, ncount := 1, dest := 0, slot := 0 }

theorem wit_PassesIssue : (issuer .matrix 0x01).matrixIssue 0 0x01 = some (0, 0x01) ∧
    (issuer .matrix (0x01 + 2 ^ 76)).matrixIssue 0 0x01 = some (0, BitVec.ofNat 128 (0x01 + 2 ^ 76)) ∧
    bitOf (BitVec.ofNat 128 (0x01 + 2 ^ 76)) 76 = true ∧ (issuer .matrix 0x02).matrixIssue 0 0x02 = some (0, 0x02) ∧
    (issuer .matrix 0x02).cores[(0 : CoreNo)].feeder[fld (0x02 : Word128) 113 7]? = none ∧
    ([(pass0 0 false).row] : List FeederEntry)[0]? = some (pass0 0 false).row ∧ Fmt.uq8 ∈ pairAct false 1 ∧
    Fmt.uq8 ∉ pairAct false 0 := by decide +kernel

theorem wit_PassLeaves : (at0 { core0 0 with passes := [pass0 999999 false] }).cores[(0 : CoreNo)].passes = [pass0 999999 false] ∧
    (pass0 999999 false).issue + 11 ≤ live.now ∧ live.now < (pass0 1000000 true).issue + 11 := by decide +kernel

theorem wit_Uq8PassAddsExactSums : Accum.reset.wf ∧ (pass0 0 false).wide = false ∧ (pass0 0 false).pair = 1 ∧
    (pass0 0 false).half = false ∧ Accum.reset.cls 0 = 0 ∧ rowCleared (Accum.reset.row 0 0) = false ∧
    rowGuard (Accum.reset.row 0 0) = false ∧ (pass0 0 false).row.fmt = .uq8 ∧ (pass0 0 false).row.stray = false ∧
    (pass0 0 false).weights.fmt = some .uq8 ∧ leAt (pass0 0 false).weights.trailer 128 4 = 0 ∧
    (Accum.reset.addPass (pass0 0 false) 0 false false).1.entry 0 0 0 = 20 :=
  ⟨⟨rfl, rfl, rfl, rfl⟩, by decide +kernel⟩

theorem wit_WalksAndLoads : (issuer .matrix 0x03).matrixIssue 0 0x03 = some (0, 0x03) ∧
    (issuer .matrix (0x03 + 2 ^ 115 + 2 ^ 121)).matrixIssue 0 0x03 = some (0, BitVec.ofNat 128 (0x03 + 2 ^ 115 + 2 ^ 121)) ∧
    (issuer .matrix 0x04).matrixIssue 0 0x04 = some (0, 0x04) ∧
    (issuer .matrix (0x04 + 2 ^ 120)).matrixIssue 0 0x04 = some (0, BitVec.ofNat 128 (0x04 + 2 ^ 120)) ∧
    (issuer .matrix 0x05).matrixIssue 0 0x05 = some (0, 0x05) ∧
    (issuer .matrix 0x06).issuing 0 .matrix 0x06 = some (0, 0x06) := by decide +kernel

theorem wit_HazardHold : (issuer .matrix 0x01).issuing 0 .matrix 0x01 = some (0, 0x01) ∧ (issuer .matrix 0x01).phys 0 = some 0 ∧
    opcodeOf ((issuer .matrix 0x01).cores[(0 : CoreNo)].matrix.modified
      ((issuer .matrix 0x01).cores[(0 : CoreNo)].nextWord .matrix)) = 0x01 ∧
    (issuer .matrix 0x01).cores[(0 : CoreNo)].hazard 0x01 1000010 = false ∧
    (at0 { (core0 0x03).setStream .matrix { Stream.reset with running := true } with passes := [pass0 1000009 false] }).issuing 0 .matrix 0x03 =
      some (0, 0x03) ∧
    ({ core0 0x03 with passes := [pass0 1000009 false] } : Core).hazard 0x03 1000010 = true := by decide +kernel

/-- A row that a walk has read. -/
def rowCap0 : RowCap := { row := 0, vals := [(3, 0)], sides := [0], quire := [], qsides := [] }
/-- A walk with one row read. -/
def walk0 (isRead : Bool) (kind : BitVec 2) : Walk :=
  { isRead := isRead, issue := 0, slot := 0, pair := false, flag := false, quire := if isRead then none else some 4096,
    mismatch := false, cls := 1, next := 1, caught := [rowCap0], fmt := .tp16, kind := kind, reg := 0, drover := 0, stream := 0,
    integerPath := false, record := 0 }

theorem wit_RowsAreClearedSpilledAndReadOut :
    ((at0 { core0 0 with walks := [walk0 false 0] }).cores[(0 : CoreNo)].walks.zipIdx.find? fun x => !x.1.isRead && !x.1.caught.isEmpty) =
      some (walk0 false 0, 0) ∧ (walk0 false 0).quire = some 4096 ∧
    ((at0 { core0 0 with walks := [walk0 true 1] }).cores[(0 : CoreNo)].walks.zipIdx.find? fun x => x.1.isRead && !x.1.caught.isEmpty) =
      some (walk0 true 1, 0) ∧ (walk0 true 1).caught = [rowCap0] ∧ (walk0 true 1).readAt 0 + 3 ≤ 1000010 ∧
    ({ walk0 true 1 with issue := 1000000 } : Walk).readAt 0 = 1000000 + (walk0 true 1).readAt 0 ∧
    live.now < 1000009 + 2 ∧ (walk0 true 1).fmt ≠ .uq8 ∧ (walk0 true 1).cls.toNat = 1 ∧
    ((at0 { core0 0 with walks := [walk0 true 2] }).ds 0 0 0).status ≠ .running ∧
    rowCleared ((Accum.reset.clear 3 1 0).row 3 0) = true ∧ rowCleared (Accum.reset.row 3 0) = false ∧ Accum.reset.cls 3 ≠ 3 ∧
    sideTag 1 = 1 ∧ sideTag 2 = 2 ∧ sideTag 3 = 3 ∧ sideTag 0 = 0 := by decide +kernel

theorem wit_AccumulatorStaysCanonical : Accum.reset.wf := ⟨rfl, rfl, rfl, rfl⟩

/-! ## Witnesses: the currier -/

theorem wit_LaneOperations : (issuer .currier 0x40).issuing 0 .currier 0x40 = some (0, 0x40) ∧
    (issuer .currier 0x4C).issuing 0 .currier 0x4C = some (0, 0x4C) ∧
    (issuer .currier (0x4B + 2 ^ 43)).issuing 0 .currier 0x4B = some (0, BitVec.ofNat 128 (0x4B + 2 ^ 43)) ∧
    (core0 0).involves64 0x40 0x40 = false ∧
    ({ core0 0 with currier := { (core0 0).currier with fmts := Vector.replicate 32 .b64 } } : Core).involves64 0x40 0x40 = true ∧
    ((core0 0).operand 0 0 0).x = .fin 0 ∧ ((core0 0).operand 0 0 0).x.isZero = true ∧ Ext.nan.isZero = false ∧
    ({ core0 0 with currier := { (core0 0).currier with fmts := Vector.replicate 32 (curFmt 0) } } : Core).currier.fmts[(0 : Fin 32)] =
      curFmt 0 := by decide +kernel

theorem wit_RowAndStray : (issuer .currier 0x4F).issuing 0 .currier 0x4F = some (0, 0x4F) ∧
    (issuer .currier 0x4D).issuing 0 .currier 0x4D = some (0, 0x4D) ∧ curG (0x4D : Word128) = 1 ∧
    (issuer .currier (0x4D + 2 ^ 54)).issuing 0 .currier 0x4D = some (0, BitVec.ofNat 128 (0x4D + 2 ^ 54)) ∧
    (issuer .currier 0x52).issuing 0 .currier 0x52 = some (0, 0x52) ∧ (issuer .currier 0x53).issuing 0 .currier 0x53 = some (0, 0x53) ∧
    (issuer .currier 0x54).issuing 0 .currier 0x54 = some (0, 0x54) ∧ (issuer .currier 0x55).issuing 0 .currier 0x55 = some (0, 0x55) ∧
    (issuer .currier 0x56).issuing 0 .currier 0x56 = some (0, 0x56) ∧ (issuer .currier 0x56).cores[(0 : CoreNo)].acc.cls 0 = 0 ∧
    1 ≤ (core0 0x56).pasture.num (curImm 0x56) 1 := by decide +kernel

theorem wit_RowAndStray_total : ((issuer .currier 0x53).cores[(0 : CoreNo)].currier.total 1).1 = .fin 0 ∧
    Fmt.b32.value (curImm (0x54 : Word128)) = .fin 0 ∧
    (issuer .currier (0x56 + 2 ^ 29)).cores[(0 : CoreNo)].pasture.num 4096 1 = 0 := by decide +kernel

/-- A result for register 0 that is due. -/
def result0 : ResultFl := { land := 1000010, reg := 0, fmt := .tp16, record := 0, row := 0, sums := false, vals := [{ x := .fin 1, neg0 := false, copy := none, bad := false, invalid := false }] }

theorem wit_ResultsAndAddends : result0.land ≤ live.now ∧ result0.fmt ≠ .uq8 ∧ result0.vals.length ≤ 128 ∧ live.phys 0 = some 0 ∧
    ({ (core0 0).currier with results := [result0] } : Currier).results = [result0] ∧ (core0 0).currier.addends = [] ∧
    ({ result0 with sums := true } : ResultFl).sums = true ∧
    ({ land := 1000010, vals := result0.vals } : QuireFl).land ≤ live.now ∧ (core0 0).currier.results = [] ∧
    (1 : Rat) * twoPow 320 = ((2 ^ 320 : Int) : Rat) ∧
    absQ 1 < twoPow 256 ∧ absQ (twoPow (-321)) < twoPow 256 ∧ twoPow (-321) * twoPow 320 = 1 / 2 ∧
    twoPow 256 ≤ absQ (twoPow 256) ∧ LaneQuire.zero.tag = 0 := by decide +kernel

/-- P0 in a fallback section. -/
def threaded (w : Nat) (now : Nat) : State := { at0 { (core0 w).setStream (.thread 2) { Stream.reset with running := true } with
    currier := { ((core0 w).setStream (.thread 2) { Stream.reset with running := true }).currier with
      sec? := some { issue := 1000000, len := 8 } } } with now := now }

theorem wit_BranchesAndThreads : (issuer .currier 0x57).issuing 0 .currier 0x57 = some (0, 0x57) ∧
    (issuer .currier (0x57 + 2 ^ 67)).issuing 0 .currier 0x57 = some (0, BitVec.ofNat 128 (0x57 + 2 ^ 67)) ∧
    (issuer .currier 0x57).cores[(0 : CoreNo)].cstream.loops = [] ∧ (issuer .currier 0x57).cores[(0 : CoreNo)].cstream.branch = none ∧
    (issuer .currier 0x58).issuing 0 .currier 0x58 = some (0, 0x58) ∧
    (threaded 0x5A 1000010).issuing 0 (.thread 2) 0x5A = some (0, 0x5A) ∧
    (threaded 0x59 1000010).issuing 0 (.thread 2) 0x59 = some (0, 0x59) ∧ (threaded 0x59 1000010).foldOf 0 = some 0 ∧
    live.foldOf 1 = none ∧ (threaded 0 1000015).cores[(0 : CoreNo)].currier.sec? = some { issue := 1000000, len := 8 } ∧
    (threaded 0 1000015).now < 1000000 + 8 + 8 ∧ 1000000 + 8 + 8 ≤ (threaded 0 1000016).now := by decide +kernel

/-- A thread load that is due. -/
def load0 : LoadFl := { land := 1000010, reg := 3, fmt := .tp16, elems := [{ code := 9, bad := false }] }

theorem wit_ThreadLoad : ({ (core0 0).currier with loads := [load0] } : Currier).loads = [load0] ∧ load0.elems.length ≤ 128 ∧ load0.land ≤ live.now ∧
    live.now < ({ load0 with land := 1000011 } : LoadFl).land := by decide +kernel

/-! ## Witnesses: pasture and drovers -/

theorem wit_DroverInstructions : (issuer .drover 0x80).issuing 0 .drover 0x80 = some (0, 0x80) ∧
    (issuer .drover (0x80 + 2 ^ 89)).issuing 0 .drover 0x80 = some (0, BitVec.ofNat 128 (0x80 + 2 ^ 89)) ∧
    ((issuer .drover 0x80).ds 0 0 0).status = .idle ∧ (issuer .drover 0x81).issuing 0 .drover 0x81 = some (0, 0x81) ∧
    (issuer .drover 0x82).issuing 0 .drover 0x82 = some (0, 0x82) ∧ ((issuer .drover 0x82).ds 0 0 0).rearm = none ∧
    (issuer .drover 0x82).turn 0 .drover (some (.dstream 0 0)) = true ∧ ((issuer .drover 0x82).ds 0 0 0).ctx = none := by decide +kernel

/-- A WLOAD of the matrix stream comes before a STOP of the same drover stream: R190. -/
theorem wit_DroverTurn : (at0 (((core0 0x82).setStream .drover { Stream.reset with running := true }).setStream .matrix
      { Stream.reset with running := true, next := 16 })).turn 0 .drover (some (.dstream 0 0)) = true ∧
    (both 0x06).turn 0 .drover (some (.dstream 0 0)) = false := by decide +kernel

/-- A re-arm with both bases. -/
def rearm0 (tick : Bool) : Rearm := { src := some 8, dst := some 16, origin := 0, relative := false, bad := false, tick := tick }

theorem wit_Rearm : ({ DStream.reset with status := .armed, ended := true } : DStream).rearm = none ∧
    ({ DStream.reset with status := .running, rearm := some (rearm0 false) } : DStream).rearm.isSome = true ∧
    ({ DStream.reset with status := .running, ended := false } : DStream).allStarted = false ∧
    ({ DStream.reset with status := .running, ended := true } : DStream).allStarted = true ∧
    ({ DStream.reset with status := .running, ended := true } : DStream).ungranted = 0 ∧
    ({ DStream.reset with lead := some (32, 64) } : DStream).lead = some (32, 64) ∧ (rearm0 true).tick = true ∧
    (rearm0 false).src = some 8 ∧ (rearm0 false).dst = some 16 := by decide +kernel

theorem wit_Descriptors : (([(0, 5, 0, false)] : List (Nat × Nat × Word256 × Bool)).find? fun e => decide (e.1 = DStream.reset.next)) =
      some (0, 5, 0, false) ∧ ({ DStream.reset with status := .running } : DStream).ended = false ∧
    dKind (0 : Word256) = 0 ∧ live.phys 0 = some 0 := by decide +kernel

theorem wit_BeatGrant_second : (at0 { core0 0 with lastGrant := some 1000010 }).cores[(0 : CoreNo)].lastGrant = some live.now := by decide +kernel

theorem wit_StoreKeepsForm : Pasture.reset.wf = true := by decide +kernel

/-- A pasture whose word 0 is found uncorrectable, in the reserve. -/
def broken0 : State := { at0 { core0 0 with pasture := { Pasture.reset with broken := [0] } } with
  tick := { live.tick with inReserve := true } }

theorem wit_ScrubAndRepair : live.rebuild = none ∧ live.mailWaits 0 = false ∧ live.cores[(0 : CoreNo)].scrubbed ≠ some live.now ∧
    live.cores[(0 : CoreNo)].pasture.flips = [] ∧ 0 / 8 = live.cores[(0 : CoreNo)].scrubRow ∧
    ivMem 0 live.cores[(0 : CoreNo)].pasture.poison = false ∧ flipCount 1 = 1 ∧ flipCount 3 = 2 ∧ flipCount 7 = 3 ∧
    32 * 0 < dataEnd ∧ live.staticAt live.cores[(0 : CoreNo)].logical (32 * 0) = true ∧ live.staticAt 0 4096 = false ∧
    Pasture.reset.wf = true ∧ cellWf 0 Pasture.reset.flips = true ∧
    live.tick.inReserve = false ∧ broken0.tick.inReserve = true ∧ broken0.cores[(0 : CoreNo)].pasture.broken = [0] ∧
    broken0.rebuiltWord broken0.cores[(0 : CoreNo)].member 0 = none := by decide +kernel

/-! ## Witnesses: beats and parity -/

/-- A descriptor of one unit of 32 raw bytes within the core's own pasture. -/
def descWord : Word256 := BitVec.ofNat 256 (2 ^ 252 + 2 ^ 248 + 2 ^ 244 + 32 * 2 ^ 131 + 2 ^ 112)

/-- A unit of that descriptor, from and to offset 4,096 of L0, with its one beat. -/
def unit0 (land : Option Nat) (data : List MByte) : UnitFl :=
  { unit := 0, desc := descWord, at_ := 0, srcBase := 0, run := 1, last := false, buf := 0, from_ := none, to_ := none, need := 1000010
    src := 0, dst := 0, place := 4096, beats := [{ off := 4096, len := 32, land := land, data := data, lost := false }]
    data := [], stored := 0, first := none, granted := false, finished := false, wrote := [], bad := false, idle := false, elems := none }

/-- A running stream with that unit. -/
def moving (u : UnitFl) : DStream := { DStream.reset with status := .running, ended := true, ctx := some (4 * 2 ^ 252), units := [u] }

/-- P0 with that stream as stream 0 of drover 0. -/
def mover (u : UnitFl) : State := at0 ((core0 0).setDs 0 0 (moving u))

theorem wit_BeatGrant : (mover (unit0 none [])).cores[(0 : CoreNo)].lastGrant ≠ some 1000010 ∧
    (mover (unit0 none [])).activeStreams = [(0, 0, 0, 0)] ∧ (mover (unit0 none [])).absent 0 = false ∧
    (mover (unit0 none [])).cores[(0 : CoreNo)].walks = [] ∧ (mover (unit0 none [])).cores[(0 : CoreNo)].writeBeats = [] ∧
    (mover (unit0 none [])).cores[(0 : CoreNo)].gather = [] ∧ (mover (unit0 none [])).cores[(0 : CoreNo)].portBeats = [] ∧
    (List.finRange 16).all (fun q => (mover (unit0 none [])).st[q].cfg.isNone) = true ∧
    (mover (unit0 none [])).cores[(0 : CoreNo)].fault = none ∧ (moving (unit0 none [])).want = false ∧ (moving (unit0 none [])).descs = [] ∧
    (moving (unit0 none [])).rearm = none ∧ (unit0 none []).gone = false ∧
    dSrcClass descWord = 1 ∧ dDstClass descWord = 1 ∧ 4096 ≠ noOff ∧ (mover (unit0 none [])).inRegions 0 0 4096 32 = true ∧
    (mover (unit0 none [])).cores[(0 : CoreNo)].underrun 4096 = false ∧ (mover (unit0 none [])).cores[(0 : CoreNo)].pasture.flips = [] ∧
    (mover (unit0 none [])).cores[(0 : CoreNo)].pasture.broken = [] ∧ (mover (unit0 none [])).hall.gathers = [] := by decide +kernel

/-- The beat with its 32 bytes, landing now. -/
def due0 : UnitFl := unit0 (some 1000010) (List.replicate 32 (9, false))

/-- P0 with that stream, its chain not yet at its end. -/
def lander (u : UnitFl) : State := at0 ((core0 0).setDs 0 0 { moving u with ended := false })

theorem wit_BeatLanding : (lander due0).activeStreams = [(0, 0, 0, 0)] ∧ xRingOn (4 * 2 ^ 252) = false ∧ due0.need = 1000010 ∧
    due0.last = false ∧ dKind descWord = 1 ∧ dCount1 descWord = 1 ∧ dInner descWord = 32 ∧ dSrcFmt descWord = .raw ∧
    dDstFmt descWord = .raw ∧ due0.place % 4096 + 32 ≤ 4096 ∧ (lander due0).cores[(0 : CoreNo)].walks = [] ∧
    (lander due0).inRegions 0 0 4096 32 = true ∧ ((lander due0).ds 0 0 0).ended = false ∧ (lander due0).phys 0 = some 0 ∧
    (lander due0).regionOf 0 0 4096 = some { core := 0, start := 4096, len := 4096, dynamic := true, fold := 0 } ∧
    live.dueBeats 0 = [] := by decide +kernel

theorem wit_CancelStopsStreamsOfFold : ((mover due0).ds 0 0 0).fold = 0 ∧ ((mover due0).ds 0 0 0).status ≠ .idle ∧
    ((mover due0).ds 0 0 1).status = .idle ∧ live.folds[(0 : FoldNo)].recov.hurdle = none ∧ live.tick.inReserve = false ∧
    live.logicalOf 0 = some 0 ∧ allot0.holds 0 = true ∧
    ({ fold0.recov with hurdle := some 1000009 } : Recovery).hurdle = some (live.now - 1) ∧
    ({ fold0 with sel := { fold0.sel with next := 1 } } : Fold).sel.pen ≠ 1 ∧ 192000 + 1 ≤ ({ live with now := 1192001 } : State).rel ∧
    live.reserveAt = 192000 := by decide +kernel

/-- A fleece group of three: L0 on P0, L1 on P1, the spare on P2. -/
def group : State := { live with
  sec? := some { sect with spare := true }
  cores := ((live.cores.set 0 { core0 0 with parity := some 0 }).set 1
    { Core.reset with mode := .mapped, logical := 1, member := 1, parity := some 1 }).set 2
      { Core.reset with mode := .spare, member := 2, parity := some 2 } }

theorem wit_ParityRebuildsAnyWord : 0 < group.groupSize ∧ 32 / chunkBytes + 2 ≤ group.groupSize ∧
    parityOf group.groupSize 0 (32 / chunkBytes) = 1 ∧ group.parityCore 1 = some 1 ∧
    group.cores[(1 : CoreNo)].pasture.unreadable ((dataEnd + 32 % chunkBytes) / 32) = false ∧
    group.cores[(1 : CoreNo)].pasture.bytes (dataEnd + 32 % chunkBytes) 32 = group.parityWord 1 (32 % chunkBytes) ∧
    group.unreadable 2 (chunkFor group.groupSize 1 2 * chunkBytes + 32 % chunkBytes) = false ∧ group.groupSize = 3 := by decide +kernel

theorem wit_StaticWordRepair : (group.rebuiltWord 0 32).isSome = true ∧ live.rebuiltWord 0 0 = none := by decide +kernel

/-! ## Witnesses: hall memory -/

/-- Landing entries of L0: a write of one unit at 4,096, a read request, a response, a post, each 20,000 cycles in. -/
def landing (type : BitVec 4) (units : BitVec 4) (stamp : Nat) : Landing :=
  { core := 0, type := type, units := units, tag := 9, flow := 0, stamp := stamp, addr := if type = 4 then hallAddr 2 0 0 0 else hallAddr 0 0 0 4096 }

/-- A packet that meets such an entry. -/
def packet (type : BitVec 4) (units : BitVec 4) (stamp : Nat) (payload : List Byte) : SchedPacket :=
  { type := type, units := units, marks := 0, tag := 9, epoch := 0, flow := 0, stamp := BitVec.ofNat 32 (7 * 2 ^ 28 + stamp)
    addr := if type = 4 then hallAddr 2 0 0 0 else hallAddr 0 0 0 4096, payload := payload }

/-- `live` with fold tag 9, a landing list, held packets and a flow to module 1. -/
def landed (es : List Landing) (held : List HeldPacket) : State := { live with
  folds := live.folds.set 0 { fold0 with
    allot := some { allot0 with tag := 9 }
    image := some { image0 with
      landings := es, flows := [{ control := false, rein := 0, sender := 0, target := 1, queue := 0, delay := 0 }]
      gates := [{ core := 0, gate := 0, producer := 1, size := 1, standIn := 16, lists := [] }] } }
  hall := { live.hall with held := held } }

theorem wit_Packets : 0 < live.period ∧ live.period < 2 ^ 28 ∧ live.tick.instant ≤ 2599999 ∧
    2599999 < live.tick.instant + 8 * live.period ∧ live.now + 48 ≤ live.unstamp (packet 1 1 58 []).stamp ∧
    live.unstamp (packet 1 1 57 []).stamp < live.now + 48 ∧ (landed [] []).foldByTag 9 = some 0 ∧ live.foldByTag 9 = none ∧
    (landed [landing 1 1 10] []).missing 0 = some (0, 0, landing 1 1 10) ∧ live.missing 0 = none ∧
    (landed [landing 1 1 10] []).phys (hCore (landing 1 1 10).addr) = some 0 ∧
    (landed [landing 1 1 10] []).absent (hCore (landing 1 1 10).addr) = false ∧
    (landed [landing 4 0 10] []).missing 0 = some (0, 0, landing 4 0 10) ∧ addrOk 2 (landing 4 0 10).addr 4 .post false = true ∧
    (landed [landing 4 0 10] []).cores[(0 : CoreNo)].gates[(0 : GateNo)].full live.now = false ∧
    (0 : GateNo) = Fin.ofNat 64 (hOff (landing 4 0 10).addr / 4) := by
  decide +kernel

/-- A packet within one dynamic region finds its core ready. -/
theorem storeOk_of {s : State} {f : FoldNo} {p : CoreNo} {a : Word64} {n : Nat} {g : Region}
    (h : addrOk s.declared a n .write false = true ∧ hSpace a = 0 ∧ s.cores[p].walks = [] ∧ s.cores[p].writeBeats = [] ∧ s.cores[p].recvs = [])
    (hg : g.dynamic = true) (hr : ∀ k : Fin n, s.regionOf f (hCore a) (hOff a + k) = some g) : storeOk s f p a n :=
  ⟨h.1, h.2.1, fun x h1 h2 => ⟨g, by have := hr ⟨x - hOff a, by omega⟩; simpa [Nat.add_sub_cancel' h1] using this, hg⟩, h.2.2⟩

theorem wit_Packets_store : storeOk (landed [landing 1 1 10] []) 0 0 (landing 1 1 10).addr 32 :=
  storeOk_of (g := { core := 0, start := 4096, len := 4096, dynamic := true, fold := 0 }) (by decide +kernel) rfl (by decide +kernel)

/-- A held packet whose stamp has come. -/
def held (type : BitVec 4) (units : BitVec 4) (payload : List Byte) : HeldPacket := (1000010, 1, packet type units 10 payload)

theorem wit_Unexpected : (landed [] [held 1 1 []]).foldByTag (packet 1 1 10 []).tag = some 0 ∧ ((landed [] [held 1 1 []]).hall.held.find? fun h => decide (h.1 ≤ 1000010) && (landed [] [held 1 1 []]).unexpected h.2.2) =
    some (held 1 1 []) := by decide +kernel

/-- The write with an epoch of its own. -/
def staleWrite : HeldPacket := (1000010, 1, { packet 1 1 10 (List.replicate 32 3) with epoch := 4 })

theorem wit_Stale : (landed [landing 1 1 10] [staleWrite]).dueSched 1 = some (staleWrite, 0, 0) ∧
    (landed [landing 1 1 10] [staleWrite]).currentEpoch 0 staleWrite.2.2 = false ∧ live.nextHop 1 = some 0 ∧
    ((live.hall.queues[(0 : Fin 12)] : List MailMsg).map mailSize).sum + 32 ≤ 2 ^ 20 ∧ (live.phys 0).isSome = true ∧
    live.phys 1 = none := by decide +kernel

/-- A gate whose sixteen places are taken. -/
def fullGate : Gate := { (core0 0).gates[(0 : GateNo)] with queue := List.replicate 16 ({ bad := false, tag := 0, buffer := 0 }, 0) }

theorem wit_ScheduledWrites : (landed [landing 1 1 10] [held 1 1 (List.replicate 32 3)]).dueSched 1 =
      some (held 1 1 (List.replicate 32 3), 0, 0) ∧
    (landed [] []).currentEpoch 0 (held 1 1 []).2.2 = true ∧ (List.replicate 32 (3 : Byte)) ≠ [] ∧
    (landed [landing 4 0 10] [held 4 0 [0, 0, 0, 7]]).dueSched 4 = some (held 4 0 [0, 0, 0, 7], 0, 0) ∧
    (landed [landing 4 0 10] [held 4 0 [0, 0, 0, 7]]).currentEpoch 0 (held 4 0 [0, 0, 0, 7]).2.2 = true ∧
    addrOk 2 (hallAddr 2 0 0 0) 4 .post false = true ∧ fullGate.full live.now = true := by decide +kernel

theorem wit_ScheduledWrites_store : storeOk (landed [landing 1 1 10] [held 1 1 (List.replicate 32 3)]) 0 0 (hallAddr 0 0 0 4096) 32 :=
  storeOk_of (g := { core := 0, start := 4096, len := 4096, dynamic := true, fold := 0 }) (by decide +kernel) rfl (by decide +kernel)

/-- A read request for 32 bytes, to be answered to module 1. -/
def readRequest : HeldPacket := held 2 1 (beBytes (hallAddr 0 1 0 4096).toNat 8 ++ beBytes (7 * 2 ^ 28 + 50000) 4 ++ [0, 32] ++ List.replicate 18 0)

/-- A unit that waits for the response at its place. -/
def waiting0 : UnitFl := { unit0 none [] with from_ := some (hallAddr 0 1 0 4096) }

theorem wit_ScheduledReads : (landed [landing 2 1 10] [readRequest]).dueSched 2 = some (readRequest, 0, 0) ∧
    (landed [landing 2 1 10] [readRequest]).currentEpoch 0 readRequest.2.2 = true ∧
    beAt readRequest.2.2.payload 12 2 = 32 ∧
    ((landed [] []).flowOf 0 false 0 (hModule (BitVec.ofNat 64 (beAt readRequest.2.2.payload 0 8)))).isSome = true ∧
    (landed [] []).fencedOff 0 = false ∧ addrOk 2 (hallAddr 0 0 0 4096) 32 .read false = true ∧ hSpace (hallAddr 0 0 0 4096) = 0 ∧
    (landed [] []).inRegions 0 0 4096 32 = true ∧ (landed [] []).inRegions 0 0 8192 32 = false ∧
    addrOk 2 (hallAddr 0 0 0 8192) 32 .read false = true ∧ (core0 0).rowsTaken.1 ≠ live.tick.number.toNat ∧ 0 < live.reserveAt ∧
    live.reserveAt ≤ ({ core0 0 with rowsTaken := (7, 192000) } : Core).rowsTaken.2 ∧
    ({ core0 0 with rowsTaken := (7, 192000) } : Core).rowsTaken.1 = live.tick.number.toNat ∧ live.absent 1 = true ∧
    ({ live with folds := live.folds.set 0 { fold0 with run := .fenced } } : State).fencedOff 0 = true := by decide +kernel

theorem wit_ScheduledReads_answers : ({ landed [landing 3 1 10] [held 3 1 (List.replicate 32 3)] with cores := (mover waiting0).cores } : State).waitingAt 0 (hallAddr 0 0 0 4096) =
      some (0, 0, 0, 0) ∧
    ((mover waiting0).ds 0 0 0).units[0]? = some waiting0 ∧ waiting0.beats.length = 1 ∧
    (landed [landing 3 1 10] [held 3 1 (List.replicate 32 3)]).dueSched 3 = some (held 3 1 (List.replicate 32 3), 0, 0) ∧
    (landed [landing 3 1 10] [held 5 0 []]).dueSched 5 = some (held 5 0 [], 0, 0) := by decide +kernel

/-- An exchange packet of a fold of two modules. -/
def control (type : BitVec 4) (payload : List Byte) : State := { landed [] [held type 2 payload] with
  folds := (landed [] []).folds.set 0 { fold0 with
    allot := some { allot0 with tag := 9 }, image := some { image0 with members := 2 } } }

theorem wit_ExchangePackets : ((control 7 [0, 0, 0, 0, 0, 0, 0, 7]).dueControl 7).isSome = true ∧
    ((control 6 []).dueControl 6).isSome = true ∧ (readDecision 0 [0, 0, 0, 0, 0, 0, 0, 7]).tick = (control 7 []).tick.number ∧
    image0.hasPen (readDecision 0 [0, 0, 0, 0, 0, 0, 0, 7]).pen = true ∧ image0.hasPen (readDecision 0 [0, 0, 0, 0, 0, 0, 0, 7, 9]).pen = false ∧
    (readDecision 0 []).tick ≠ (control 7 []).tick.number ∧ live.rel < live.reserveAt := by decide +kernel

/-- A mail message of a kind from module 1 for a module. -/
def mail (kind : BitVec 8) (dst : BitVec 12) (addr : Word64) (payload : List Byte) : MailMsg :=
  { kind := kind, hops := 0, bad := false, srcModule := 1, srcTag := 3, dstModule := dst, dstTag := 5, epoch := 0, number := 1
    reference := 2, addr := addr, payload := payload }

/-- `live` whose fold admits the mail of tag 3. -/
def open3 : State := { live with
  folds := live.folds.set 0 { fold0 with image := some { image0 with
    slices := [{ ownAll with kind := .exported, peer := 3 }] } } }

theorem wit_MailPassesThrough : (mail 1 1 0 []).dstModule ≠ live.hallNo ∧ (mail 1 1 0 []).hops.toNat < 7 ∧ live.nextHop 1 = some 0 ∧
    ((live.hall.queues[(0 : Fin 12)] : List MailMsg).map mailSize).sum + mailSize (mail 1 1 0 []) ≤ 2 ^ 20 ∧
    2 ^ 20 < ((List.replicate 257 (mail 1 1 0 (List.replicate 4064 0))).map mailSize).sum + mailSize (mail 1 1 0 []) ∧
    7 ≤ ({ mail 1 1 0 [] with hops := 7 } : MailMsg).hops.toNat ∧ live.foldByTag 5 = some 0 := by decide +kernel

theorem wit_MailWrites : (mail 1 0 (hallAddr 0 0 0 4096) [9]).dstModule = open3.hallNo ∧
    addrOk open3.declared (hallAddr 0 0 0 4096) 1 .write true = true ∧
    open3.admitted (mail 1 0 (hallAddr 0 0 0 4096) [9]) 1 .write = some 0 ∧ open3.dynamicAt 0 0 4096 1 = true ∧
    open3.hall.heldBytes + 1 ≤ 2 ^ 24 ∧ live.admitted (mail 1 0 (hallAddr 0 0 0 4096) [9]) 1 .write = none := by decide +kernel

/-- A gather request for 32 bytes. -/
def gatherRequest : MailMsg := mail 2 0 (hallAddr 0 0 0 4096) (List.replicate 8 0 ++ [0, 32] ++ List.replicate 6 0)

theorem wit_MailGathers : beAt gatherRequest.payload 8 2 = 32 ∧ addrOk open3.declared gatherRequest.addr 32 .gather true = true ∧
    open3.admitted gatherRequest 32 .gather = some 0 ∧ open3.inRegions 0 0 4096 32 = true ∧ open3.absent 0 = false ∧
    open3.mailCurrent 0 gatherRequest = true ∧ live.admitted gatherRequest 32 .gather = none ∧
    live.tick.number.toNat < 8 ∧ ([({ number := 2, fold := 0, target := 0, addr := 0, len := 1, due := 8 } : MailGather)].find?
      fun a => decide (a.number = (mail 3 0 0 []).reference)).isSome = true := by decide +kernel

/-- A held mail write of L0, in the window that serves it. -/
def inWindow : State := { live with
  now := 1192064
  hall := { live.hall with
    writes := [{ tick := 7, fold := 0, due := 7, msg := mail 1 0 (hallAddr 0 0 0 4096) [9] }] } }

theorem wit_AnswersMailAndDelivery : live.store.fetch = none ∧ live.foldByTag 5 = some 0 ∧
    (live.foldByTag (BitVec.ofNat 16 (beAt (mail 9 0 0 []).payload 10 2)) = none) ∧
    ({ mail 4 0 0 [] with epoch := 3 } : MailMsg).epoch ≠ 0 ∧ ({ mail 9 0 0 [] with srcTag := 0xFFFF, dstTag := 0xFFFF } : MailMsg).srcTag = 0xFFFF ∧
    hSpace (hallAddr 3 0 0 0) = 3 ∧ zeros (hallAddr 3 0 0 0) 31 12 = true ∧
    open3.exports 0 (mail 0x0A 0 (hallAddr 3 0 0 0) []) 4 .read = true ∧ open3.fencedOff 0 = false ∧ open3.foldByTag 5 = some 0 ∧
    hOff (hallAddr 3 0 0 0x2000000) / 0x1000 = 0x2000 + (0 : FoldNo).val ∧ live.foldByTag 0xFFFF = none ∧ hSpace (hallAddr 0 0 0 0) ≠ 3 ∧
    inWindow.rebuild = none ∧
    inWindow.reserveAt + 64 ≤ inWindow.rel ∧ inWindow.rel + 65 ≤ inWindow.period ∧
    inWindow.cores[(0 : CoreNo)].delivered ≠ some 7 ∧ 1 ≤ inWindow.mailBudget 0 ∧ inWindow.dynamicAt 0 0 4096 1 = true ∧
    inWindow.mailCurrent 0 (mail 1 0 (hallAddr 0 0 0 4096) [9]) = true ∧ inWindow.phys 0 = some 0 ∧ inWindow.hall.asked = [] ∧
    (inWindow.folds.all fun f => !f.replay.on) = true ∧ live.rel < live.reserveAt + 64 ∧
    live.storeUp = false ∧ live.nextHop 2 = none ∧ 0x11 ≤ (mail 0x11 0 0 []).kind.toNat ∧
    ({ mail 0x11 0 0 [] with dstTag := 0xFFFF } : MailMsg).dstTag = 0xFFFF ∧
    ((live.hall.queues[(0 : Fin 12)] : List MailMsg).map mailSize).sum + 4040 ≤ 2 ^ 20 := by decide +kernel

/-- A fetch of a container of which some bytes are there. -/
def fetching : State := { live with
  store := { live.store with fetch := some { key := (0, false), meas := 0, at_ := 0, peer := 1 } } }

theorem wit_ImageBlocks : (fetching.store.fetch).isSome = true ∧ beAt (beBytes 0 8 ++ [1, 2]) 0 8 = 0 ∧
    ([1, 2] : List Byte) ≠ [] ∧ 0 + 2 < 256 ∧
    Store.fetchedOk { fetching.store with fetched := [(0, 0, [1, 2])] } 0 = false := by decide +kernel

/-- Blocks that make a whole container of length 0: SHA-384 of 208 zeros in its header. -/
theorem wit_ImageBlocks_whole : Store.fetchedOk { fetching.store with fetched :=
      [(0x3face631cd47a7b360d1cd296a4f693f34e47f6e4f3fa2516922f8c803cbe989e1e866b59974e68480ee01efaee5af42, 0, List.replicate 208 0 ++
        beBytes 0x3face631cd47a7b360d1cd296a4f693f34e47f6e4f3fa2516922f8c803cbe989e1e866b59974e68480ee01efaee5af42 48)] }
    0x3face631cd47a7b360d1cd296a4f693f34e47f6e4f3fa2516922f8c803cbe989e1e866b59974e68480ee01efaee5af42 = true := by decide +kernel

/-! ## Witnesses: lost cores, hangs and the log -/

/-- A fault noted on P0. -/
def faulty : State := at0 { core0 0 with fault := some 1000000, cause := some .regulator }

/-- A rebuild of L0 on P2 with two units to write. -/
def rebuilding (poisoned : Bool) (done : Nat) (now : Nat) : State := { group with
  now := now
  rebuild := some { t1 := 1000000, logical := 0, spare := 2, units := [(0, 2)], done := done, startUnits := 1, losses := 0, poisoned := poisoned } }

theorem wit_LostCoresAndRebuild : live.cores[(0 : CoreNo)].fault = none ∧ live.cores[(0 : CoreNo)].mode ≠ .fusedOff ∧
    live.cores[(0 : CoreNo)].mode ≠ .retired ∧ ({ core0 0 with mode := .retired } : Core).mode = .retired ∧
    live.logicalOf 0 = some 0 ∧ (0 : FoldNo) ∈ live.holders 0 ∧ group.willTake 0 = true ∧ group.logicalOf 0 = some 0 ∧
    (0 : FoldNo) ∈ group.holders 0 ∧ live.willTake 0 = false ∧ live.logicalOf 1 = none ∧
    faulty.cores[(0 : CoreNo)].fault.isSome = true ∧ faulty.cores[(0 : CoreNo)].isolated = false ∧
    ({ core0 0 with isolated := true } : Core).isolated = true ∧ group.cores[(2 : CoreNo)].mode = .spare ∧
    ({ fold0 with takeoverUntil := some noEnd } : Fold).takeoverUntil = some noEnd ∧
    nextUnit [(0, 2)] 0 = some 0 ∧ nextUnit [(0, 2)] 2 = none ∧
    (rebuilding false 0 1000000).now < 1000000 + 8 + 0 + 50 * (group.groupSize - 2) ∧
    1000000 + 8 + 0 + 50 * (group.groupSize - 2) ≤ (rebuilding false 0 1000058).now ∧
    0 + 1 ≠ ([(0, 2)].map fun (u : Nat × Nat) => u.2).sum ∧ 1 + 1 = ([(0, 2)].map fun (u : Nat × Nat) => u.2).sum := by decide +kernel

theorem wit_RebuildUnits : (rebuilding false 0 1000058).unitWords (rebuilding false 0 1000058).cores[(2 : CoreNo)].member 0 =
      some (List.replicate 256 0) ∧ (rebuilding true 0 1000058).rebuild.isSome = true ∧ live.unitWords 0 0 = none := by decide +kernel

/-- The hang of a running fold. -/
def hung (e : TackEntry) : State := { live with
  folds := live.folds.set 0 { fold0 with recov := { fold0.recov with hang := some 0x0501 } }
  store := { live.store with record := some { seq := 1, fw := .idle, single := true, step0 := false, step1 := false, retired := 0, entries := Vector.replicate 33 e } } }

/-- `live` at a sample of the crook, with L0's matrix stream held at a gate of its own, found there `n` samples before. -/
def tangled (n : Nat) : State := { live with
  now := 1001024
  cores := live.cores.set 0 ((core0 0).setStream .matrix { Stream.reset with
    running := true, wait := .post 0 { bad := false, tag := 0, buffer := 0 } 1000000 })
  folds := live.folds.set 0 { fold0 with
    recov := { fold0.recov with lastCycle := [({ core := 0, kind := 0, slot := 0, gate := 0 }, n)] } } }

theorem wit_Hangs : live.folds[(0 : FoldNo)].run = .running ∧ live.folds[(1 : FoldNo)].run ≠ .running ∧ live.rel % 1024 ≠ 0 ∧
    (tangled 5).folds[(0 : FoldNo)].run = .running ∧ (tangled 5).rel % 1024 = 0 ∧
    (tangled 5).onCycle ((tangled 5).waits 0) = [{ core := 0, kind := 0, slot := 0, gate := 0 }] ∧
    ((tangled 5).folds[(0 : FoldNo)].recov.lastCycle.find? fun o => decide (o.1 = { core := 0, kind := 0, slot := 0, gate := 0 })) =
      some ({ core := 0, kind := 0, slot := 0, gate := 0 }, 5) ∧
    (live.folds[(0 : FoldNo)].recov.lastCycle.find? fun o => decide (o.1 = { core := 0, kind := 0, slot := 0, gate := 0 })) = none ∧
    (∃ t, Machine.exec (.crookSample 0) (tangled 124) = .next t ∧ t.folds[(0 : FoldNo)].recov.hang = none) ∧
    (∃ t, Machine.exec (.crookSample 0) (tangled 125) = .next t ∧ t.folds[(0 : FoldNo)].recov.hang = some 0x0501) :=
  ⟨by decide +kernel, by decide +kernel, by decide +kernel, by decide +kernel, by decide +kernel, by decide +kernel, by decide +kernel,
    by decide +kernel, ⟨_, rfl, by decide +kernel⟩, ⟨_, rfl, by decide +kernel⟩⟩

theorem wit_Hangs_declared : (hung TackEntry.zero).folds[(0 : FoldNo)].recov.hang = some 0x0501 ∧ (hung TackEntry.zero).folds[(0 : FoldNo)].image = some image0 ∧
    live.folds[(0 : FoldNo)].recov.hang = none ∧ (hung TackEntry.zero).folds[(0 : FoldNo)].run = .running ∧
    ((hung { TackEntry.zero with state := .confirming }).entry 0).state = .confirming ∧
    ((hung TackEntry.zero).entry 0).state ≠ .confirming ∧ (hung TackEntry.zero).folds[(0 : FoldNo)].recov.restarted = none ∧
    ({ fold0.recov with restarted := some 6 } : Recovery).restarted = some 6 ∧ live.tick.number.toNat < 6 + 1024 ∧
    6 + 1024 ≤ ({ live with tick := { live.tick with number := 1030 } } : State).tick.number.toNat ∧
    (0 : CoreNo) ∈ live.coresOf 0 ∧ live.phys 0 = some 0 ∧ live.sharesOn 0 0 = false := by decide +kernel

/-- A hurdled fold whose walk on L0 is due. -/
def hurdled (now : Nat) (broken : List Nat) : State := { live with
  now := now
  cores := live.cores.set 0 { core0 0 with pasture := { Pasture.reset with broken := broken } }
  folds := live.folds.set 0 { fold0 with
    run := .hurdled, recov := { fold0.recov with hurdle := some 1000000, walking := [0], dump := List.replicate 12 0 } }
  captures := [(0, 1, [1, 2])] }

theorem wit_DumpsWalksAndSupervisors : (hurdled 1004000 []).folds[(0 : FoldNo)].recov.hurdle = some 1000000 ∧
    1000000 + 4000 ≤ (hurdled 1004000 []).now ∧ (hurdled 1004000 []).folds[(0 : FoldNo)].recov.captured = false ∧
    live.folds[(0 : FoldNo)].recov.hurdle = none ∧ ((hurdled 1004000 []).ds 0 0 0).fold = 0 ∧
    (hurdled 1003999 []).now < 1000000 + 4000 ∧ (hurdled 1004000 []).captures = [(0, 1, [1, 2])] ∧ live.captures = [] ∧
    (hurdled 1004000 []).storeUp = false ∧ (hurdled 1100000 [0]).folds[(0 : FoldNo)].recov.walking.contains 0 = true ∧
    (hurdled 1100000 [0]).folds[(0 : FoldNo)].run = .hurdled ∧ (hurdled 1100000 [0]).folds[(0 : FoldNo)].image = some image0 ∧
    (hurdled 1100000 [0]).folds[(0 : FoldNo)].recov.unrepairable = false ∧ (hurdled 1100000 [0]).folds[(0 : FoldNo)].recov.paused = 0 ∧
    1000000 + 4000 + image0.unitsOn 0 ≤ (hurdled 1100000 [0]).now ∧ (hurdled 1100000 [0]).phys 0 = some 0 ∧
    (hurdled 1100000 [0]).cores[(0 : CoreNo)].pasture.flips = [] ∧ (hurdled 1100000 [0]).cores[(0 : CoreNo)].pasture.broken = [0] ∧
    (hurdled 1100000 []).cores[(0 : CoreNo)].pasture.broken = [] ∧
    staticIn (image0.regions.filter fun r => decide (r.core = (0 : CoreNo))) 0 = true ∧
    (hurdled 1100000 [0]).rebuiltWord 0 0 = none ∧ ((hurdled 1100000 [0]).entry 0).state ≠ .reverting ∧
    (hurdled 1100000 [0]).folds[(0 : FoldNo)].recov.walking = [0] ∧ (live.sup .a).state = .restarting ∧
    (({ live with supA := { live.supA with state := .active } } : State).sup .a).state ≠ .restarting := by decide +kernel

/-- A walk that rebuilds the word it found. -/
theorem wit_WalkRepairs : ({ group with
    cores := group.cores.set 0 { group.cores[(0 : CoreNo)] with pasture := { Pasture.reset with broken := [0] } } } : State).rebuiltWord 0 0 =
      some (List.replicate 32 0) := by decide +kernel

/-- An entry staged for the log. -/
def entry0 : LogEntry := live.entryOfLog 0x0E04 []
/-- A log with one entry staged, and one full of bad sectors. -/
def logged (staged : List LogEntry) (lost pos bad : Nat) : State := { live with
  log := { live.log with staged := staged, lost := lost, pos := pos, badSectors := List.range bad } }

/-- `live` with an SSD present, and its log at an end. -/
def mirrored (bad : Nat) : State := { logged [entry0] 0 0 bad with
  store := { live.store with ssds := live.store.ssds.set 0 { live.store.ssds[(0 : SsdNo)] with present := true } } }

theorem wit_Log : (logged [] 0 0 0).log.lost = 0 ∧ (logged [entry0] 0 0 255).log.badSectors.length < 256 ∧
    (logged [entry0] 0 0 0).log.staged = [entry0] ∧ 0 < (logged [] 1 0 0).log.lost ∧
    ((logged [entry0] 0 0 0).log.pos + 64) % ringBytes % sectorBytes ≠ 0 ∧
    ((logged [entry0] 0 (sectorBytes - 64) 0).log.pos + 64) % ringBytes % sectorBytes = 0 ∧
    nextSector (logged [entry0] 0 (sectorBytes - 64) 0).log.badSectors ((sectorBytes - 64 + 64) % ringBytes / sectorBytes) = some 1 ∧
    (logged [entry0] 0 0 0).log.fuses < 256 ∧
    256 ≤ (logged [] 0 0 256).log.badSectors.length ∧ (logged [] 0 0 256).storeUp = false ∧ (live.store.ssds.any fun d => d.present) = false ∧
    ((mirrored 256).store.ssds.any fun d => d.present) = true ∧
    live.log.witnessDue = false ∧ live.tick.number.toNat % 1024 ≠ 0 ∧ State.reset.tick.number.toNat % 1024 = 0 ∧
    live.witnesses = [] ∧ live.hall.witnessPending.length ≤ 64 := by decide +kernel

/-- The log at its end with an SSD in step. -/
def inStep0 : State := { mirrored 256 with
  store := { (mirrored 256).store with record := (hung TackEntry.zero).store.record.map fun r => { r with step0 := true } } }

theorem wit_Log_mirror : 256 ≤ inStep0.log.badSectors.length ∧ inStep0.log.lost = 0 ∧ inStep0.log.staged = [entry0] ∧
    inStep0.storeUp = true := by decide +kernel

/-! ## Witnesses: power -/

/-- The module with its rails coming up. -/
def risingUp : State := { State.reset with power := { State.reset.power with sequencing := true } }

theorem wit_PowerComesAndGoes : State.reset.power.good = false ∧ State.reset.power.sequencing = false ∧
    State.reset.power.packageTrip = false ∧ State.reset.power.bootStep < 3 ∧ risingUp.power.sequencing = true ∧ risingUp.storeUp = false ∧
    risingUp.trust.life = .shipped ∧ risingUp.trust.entropyFailed = false ∧ live.power.good = true ∧
    State.reset.enabled.getLsbD 31 = true ∧ (State.resetE 3 17).enabled.getLsbD 17 = false ∧
    ({ risingUp.trust with entropyFailed := true } : Trust).entropyFailed = true ∧
    (0 : CoreNo).val / 4 = (0 : Fin 8).val ∧ (5 : CoreNo).val / 4 ≠ (0 : Fin 8).val ∧ live.cores[(0 : CoreNo)].fault = none ∧
    live.cores[(0 : CoreNo)].mode ≠ .retired ∧ live.cores[(0 : CoreNo)].mode ≠ .fusedOff ∧
    live.folds[(0 : FoldNo)].run = .running ∧ live.folds[(1 : FoldNo)].run ≠ .running ∧
    live.folds[(0 : FoldNo)].image.isSome = true := by decide +kernel

theorem wit_PowerMarginAndAgeing : live.now < live.power.meanFrom + 20000000 ∧
    ({ live with now := 20000000 } : State).power.meanFrom + 20000000 ≤ 20000000 ∧
    10 * live.power.cap < (live.power.meanSum + 17501) / (live.power.meanN + 1) ∧
    (live.power.meanSum + 17500) / (live.power.meanN + 1) ≤ 10 * live.power.cap ∧ live.power.overCap = false ∧
    ({ live.power with overCap := true } : Power).overCap = true ∧ live.cores[(0 : CoreNo)].supply.on = true ∧
    live.cores[(1 : CoreNo)].supply.on = false ∧ adjacent 0 1 = true ∧ live.tick.number.toNat % 2 ^ 20 ≠ 0 ∧
    State.reset.tick.number.toNat % 2 ^ 20 = 0 ∧ ([] : List AgeingReading).length ≤ (0 : CoreNo).val ∧ live.cores[(0 : CoreNo)].mode = .mapped ∧
    ([(61 / 2 : Rat)])[(0 : CoreNo).val]? = some (61 / 2) ∧ State.reset.replanTicks = 0 ∧
    0 < live.replanTicks ∧ live.tick.number.toNat % max 1 live.replanTicks ≠ 0 ∧
    ({ live with tick := { live.tick with number := 864000000 } } : State).tick.number.toNat % max 1 live.replanTicks = 0 := by decide +kernel

/-- Temperatures of 95 °C everywhere, but the converters. -/
def warm (converter : Int) : TempReadings :=
  { cores := List.replicate 32 380, sramStacks := List.replicate 8 380, optical := [380], converters := [converter], inlet := 120, outlet := 140 }

theorem wit_PhaseAndTemperature : (((0, 1), 201) : (Fin 8 × Fin 8) × Nat) ∈ [(((0, 1), 201) : (Fin 8 × Fin 8) × Nat)] ∧
    (∀ x ∈ [(((0, 1), 110) : (Fin 8 × Fin 8) × Nat)], x.2 < 125) ∧ (∀ x ∈ [(((0, 1), 110) : (Fin 8 × Fin 8) × Nat)], x.2 < 140) ∧ 100 < 110 ∧
    (∀ x ∈ [(((0, 1), 100) : (Fin 8 × Fin 8) × Nat)], x.2 ≤ 100) ∧ live.logicalOf 0 = some 0 ∧ (0 : FoldNo) ∈ live.holders 0 ∧
    dieOf 0 = 0 ∧ dieOf 4 ≠ 0 ∧ (∀ x ∈ (warm 411).optical ++ (warm 411).converters, x < 412) ∧ (412 : Int) ∈ (warm 412).optical ++ (warm 412).converters ∧
    0 < (warm 411).outlet - (warm 411).inlet ∧ ((dieOf 0 :: ((live.power.trips.filter fun t => decide (live.now < t.2 + 2000000000)).map fun t => t.1)).dedup.length < 3) ∧
    3 ≤ ((dieOf 0 :: (([((1 : Fin 8), 1000000), (2, 1000000)].filter fun t => decide (live.now < t.2 + 2000000000)).map fun t => t.1)).dedup.length) := by
  decide +kernel

/-! ## Witnesses: links -/

/-- The hello of module 1. -/
def hello1 : Hello :=
  { lowRev := 1, highRev := 2, bellwether := true, spareCopper := false, unplaced := false, hallModule := 1, port := 0, lanes := 0xFF
    fingerprint := 7, tick := 0, txCycle := 0, echoed := 0, turnaround := 0, nonce := 3, confirmation := 0 }

/-- An offer of pairing. -/
def offer1 : PairingOffer := { generation := 0, brandKey := 0, pairKey := 0, expected := 0, signature := 0, signed := List.replicate 256 0 }

/-- `live` with fabric port 0 as given. -/
def linked (x : FabPort) : State := { live with fab := live.fab.set 0 x }
/-- Fabric port 0 in a state, with every lane and the peer's hello. -/
def portAt (st : LinkState) : FabPort := { FabPort.reset with
  state := st, lanes := Vector.replicate 8 .usable, peer := some hello1, offer := some offer1, txActive := 0xFF, rxActive := 0xFF, request := 0xFF
  txKey := some 1, rxKey := some 2, sig := 0xFF }

theorem wit_TrainingReachesUp : (linked FabPort.reset).fab[(0 : FabricPort)].state = .down ∧ 6 ≤ lanesIn (FabPort.reset.sig ||| 0x3F) ∧
    lanesIn (FabPort.reset.sig ||| 0x1F) < 6 ∧ (0x3F : BitVec 8).getLsbD 0 = true ∧ (0x3F : BitVec 8).getLsbD 7 = false ∧
    FabPort.reset.lanes[(0 : LaneNo)] = .noSignal ∧ (portAt .acquire).state = .acquire ∧ (portAt .align).state = .align ∧
    6 ≤ lanesIn (0x3F &&& (portAt .acquire).sig) ∧ lanesIn (0x1F &&& (portAt .align).sig) < 6 ∧
    (linked (portAt .hello)).fab[(0 : FabricPort)].peer = some hello1 ∧ FabPort.reset.peer = none ∧
    revisionsMeet hello1 = true ∧ revisionsMeet { hello1 with lowRev := 3 } = false ∧ hello1.unplaced = false ∧
    ({ hello1 with unplaced := true } : Hello).unplaced = true ∧ live.trust.entropyFailed = false :=
  ⟨rfl, by decide +kernel, by decide +kernel, rfl, rfl, rfl, rfl, rfl, by decide +kernel, by decide +kernel, rfl, rfl, by decide +kernel,
    by decide +kernel, rfl, rfl, by decide +kernel⟩

theorem wit_TrainingReachesUp_pairs : (linked (portAt .hello)).paired 0 = false := by decide +kernel

/-- Key of a hello's confirmation: with its tag the hello confirms it. -/
theorem wit_TrainingReachesUp_key : (linked (portAt .key)).fab[(0 : FabricPort)].state = .key ∧
    ((linked (portAt .key)).directionKeys 0 hello1.nonce).isSome = true ∧
    ∀ k, ({ hello1 with confirmation := confirmationOf k hello1 } : Hello).confirmation =
      confirmationOf k { hello1 with confirmation := confirmationOf k hello1 } :=
  ⟨rfl, rfl, fun _ => rfl⟩

/-- Fabric port 0 in Verify, with the authenticated hello and latencies of 5 to 20 cycles, as many as given. -/
def verifying (a : Hello) (n : Nat) : FabPort := { portAt .verify with authHello := some a, latencies := (List.range n).map fun k => k + 5 }

theorem wit_TrainingReachesUp_verify : (verifying hello1 16).state = .verify ∧ (verifying hello1 16).peer = some hello1 ∧
    (verifying { hello1 with tick := 9 } 16).authHello = some { hello1 with tick := 9 } ∧ 16 ≤ (verifying hello1 16).latencies.length ∧
    (verifying hello1 15).latencies.length < 16 ∧ (verifying hello1 16).latencies.foldl max 0 = 20 ∧
    helloFields hello1 = helloFields { hello1 with tick := 9 } ∧ helloFields hello1 ≠ helloFields { hello1 with port := 9 } ∧
    (verifying hello1 16).joined = none ∧ ({ verifying hello1 16 with joined := some (7, 0) } : FabPort).joined = some (hello1.fingerprint, hello1.port) ∧
    (8, (0 : BitVec 8)) ≠ (hello1.fingerprint, hello1.port) ∧ ({ linked (verifying hello1 16) with sec? := none } : State).memberOf 0 = none :=
  ⟨rfl, rfl, rfl, by decide, by decide, by decide, by decide, by decide, rfl, rfl, by decide, by decide +kernel⟩

/-- A pairing offer of a brand whose private key is 1, signed over 256 zeros with the nonce 1 (hand calculation from R352: the
public key is the generator of P-384). -/
def offerOk : PairingOffer :=
  { generation := 0
    brandKey := 0xaa87ca22be8b05378eb1c71ef320ad746e1d3b628ba79b9859f741e082542a385502f25dbf55296c3a545e3872760ab73617de4a96262c6f5d9e98bf9292dc29f8f41dbd289a147ce9da3113b5f0b8c00a60b1ce1d7e819d7a431d7c90ea0e5f
    pairKey := 0, expected := live.trust.fingerprint
    signature := 0xaa87ca22be8b05378eb1c71ef320ad746e1d3b628ba79b9859f741e082542a385502f25dbf55296c3a545e3872760ab742c14a59f09e4d65647b6cc317fc36b5fc508026e5a1cd3be9782308b67148f918811ea1cfe1204ec76588690357cd33
    signed := List.replicate 256 0 }

/-- SHA-384 of that brand public key. -/
def brandOk : BitVec 384 :=
  0xa19d4db171b582eb8052b0cfe555e17894aa22d1c8a9770950697dd8f796d2fa4bf0a56ad80006b7ea08e1191f814b65

/-- Fabric port 0 in Hello with that peer, and in Unpaired. -/
def pairs (st : LinkState) : State := { linked { portAt st with
    peer := some { hello1 with fingerprint := brandOk }, offer := some offerOk } with
  sec? := some { sect with placement := [(1, brandOk)] } }

theorem wit_Paired : (pairs .hello).paired 0 = true ∧ (pairs .unpaired).paired 0 = true := by decide +kernel

theorem wit_Witnesses : (linked (portAt .up)).witnesses = [1] := by decide +kernel

theorem wit_TrainingRetries : (linked (portAt .acquire)).trainBound 0 = some 60000000 ∧
    (linked (portAt .acquire)).now < (portAt .acquire).since + 60000000 ∧ 0 + 60000000 ≤ ({ linked (portAt .acquire) with now := 60000000 } : State).now ∧
    6 ≤ lanesIn (portAt .acquire).sig ∧ lanesIn FabPort.reset.sig < 6 ∧ (portAt .hello).peer = some hello1 ∧ revisionsMeet hello1 = true ∧
    revisionsMeet { hello1 with lowRev := 3 } = false ∧ (portAt .up).state ∉ [LinkState.acquire, .align, .hello, .key, .unpaired] ∧
    (portAt .key).since + 2 ^ 21 ≤ 2097152 ∧ live.trust.entropyFailed = false ∧ live.now < (portAt .key).since + 2 ^ 21 ∧
    (portAt .up).short = false ∧ ({ portAt .up with txActive := 0x1F } : FabPort).short = true ∧ (portAt .up).goDown = false ∧
    (portAt .up).recentFails.length < 16 ∧
    16 ≤ ({ portAt .up with authFails := List.range 16 } : FabPort).recentFails.length := by decide +kernel

theorem wit_TrainingRetries_unpaired : (linked (portAt .unpaired)).paired 0 = false := by decide +kernel

theorem wit_BoundariesSendFrames : (portAt .up).txKey = some 1 ∧ (portAt .up).state = .up ∧ (portAt .verify).txKey = some 1 ∧
    (portAt .verify).state = .verify ∧ ({ portAt .up with countdown := 1 } : FabPort).countdown = 1 ∧
    1 < ({ portAt .up with countdown := 2 } : FabPort).countdown ∧ (portAt .hello).sig.getLsbD 0 = true ∧
    (portAt .up).countdown = 0 ∧ ({ portAt .up with peerRequest := 0x7F } : FabPort).peerRequest ≠ 0 ∧
    ({ portAt .up with peerRequest := 0x7F } : FabPort).peerRequest ≠ (portAt .up).txActive ∧
    lanesIn ({ portAt .up with announced := 0x1F } : FabPort).announced < 6 := by decide +kernel

/-- A frame on lane 0 whose management unit is sealed under the receiving key 2, and its codewords. -/
def sealed0 (active : BitVec 8) : LaneFrame :=
  let h : LaneHeader := { revision := 2, lane := 0, port := 0, active := active, counter := 4, request := 0x7F, announced := active, countdown := 0 }
  { header := h, units := [{ cipher := [], tag := 0 }], mgmt := sealUnit 2 h 16 [], fill := 164 }
/-- Twenty-two clean codewords. -/
def cleanLine : LineRx := { phase := 0, errors := List.replicate 22 0 }

theorem wit_TrafficAndLanes_good : ∃ u, u ∈ unitsOfFrame (sealed0 0xFF) ∧ (openUnit 2 0 cleanLine (sealed0 0xFF).header u.1 u.2).isSome = true :=
  ⟨(16, (sealed0 0xFF).mgmt), by decide +kernel, by decide +kernel⟩

/-- A frame of which no unit verifies: its codewords are beyond correction. -/
theorem wit_TrafficAndLanes_lost : ¬∃ u, u ∈ unitsOfFrame (sealed0 0xFF) ∧
    (openUnit 2 0 { phase := 0, errors := List.replicate 22 16 } (sealed0 0xFF).header u.1 u.2).isSome = true := by
  decide +kernel

theorem wit_TrafficAndLanes : (portAt .up).rxKey = some 2 ∧ FabPort.reset.rxKey = none ∧ (portAt .up).request.getLsbD 0 = true ∧
    (sealed0 0xFF).units[0]? = some { cipher := [], tag := 0 } ∧ (sealed0 0xFF).header.active.getLsbD 0 = true ∧
    (sealed0 0xFE).header.active.getLsbD 0 = false ∧ (portAt .up).rxActive.getLsbD 0 = true ∧ (portAt .up).lanes[(0 : LaneNo)] = .usable ∧
    ({ portAt .up with lanes := Vector.replicate 8 .noSignal } : FabPort).lanes[(0 : LaneNo)] = .noSignal ∧
    (live.recentUncorr (portAt .up).uncorr[(0 : LaneNo)]).length < 4 ∧ 4 ≤ (live.recentUncorr [1000000, 1000001, 1000002, 1000003]).length ∧
    ({ portAt .up with lanes := Vector.replicate 8 .training } : FabPort).lanes[(0 : LaneNo)] = .training ∧
    (portAt .up).sig.getLsbD 0 = true ∧ (portAt .up).cleanSince[(0 : LaneNo)] + 2 ^ 24 ≤ 16777216 ∧
    live.now < (portAt .up).cleanSince[(0 : LaneNo)] + 2 ^ 24 := by decide +kernel

theorem wit_TrafficAndLanes_verify : (portAt .verify).state = .verify ∧ (portAt .verify).heard ≠ some hello1.txCycle ∧
    ({ hello1 with echoed := 1 } : Hello).echoed ≠ 0 ∧ (portAt .verify).latencies.length < 16 := by decide +kernel

/-! ## Witnesses: streams, plant ports and 1588 time -/

/-- A stream port record: four lines of 32 pixels a window, into L0 from 4,096. -/
def stream0 (imesk : Bool) : StreamRec :=
  { imesk := imesk, port := 0, band := false, record := false, ipv6 := false, m := 2, pixel := 0x01080001, width := 32, bandWidth := 32
    lines := 4, payload := 32, linePort := 7, processPort := 8, black := 0, g := 0, core := 0, maxPackets := 8, period := 25000000, offset := 0
    base := 4096, src := 0, local_ := 0, mac := 0 }

/-- A frame that passes the acceptance rules. -/
def frame (payload : List Byte) : EthFrame :=
  { fcsOk := true, vlan := false, dstMac := 0, ipv6 := false, isIp := true, options := false, fragment := false, src := 0, isUdp := true
    udpSrc := 0, udpDst := 7, checksum := .good, payload := payload }

/-- `live` with stream port 0 in the window of tick 7. -/
def streaming (imesk : Bool) (block : Option (Word64 × Nat)) : State := { live with
  st := live.st.set 0 { StPort.reset with up := true, enabled := true, cfg := some (0, stream0 imesk), window := some 7, block := block } }

/-- An Imesk line frame of 32 bytes, of line 0 in tick 7. -/
def lineFrame : List Byte :=
  [1, 1, 0, 0] ++ beBytes 0x01080001 4 ++ List.replicate 4 0 ++ beBytes 0 8 ++ beBytes 700000 8 ++ beBytes 0 4 ++ beBytes 32 2 ++
    beBytes 32 2 ++ List.replicate 12 0 ++ List.replicate 32 9

/-- An Imesk process frame. -/
def processFrame : List Byte := [1, 2] ++ List.replicate 32 0 ++ beBytes 32 2 ++ List.replicate 12 0 ++ List.replicate 32 9

/-- A GigE Vision payload packet of packet 1 with one line. -/
def gevFrame : List Byte := [0, 0, 0, 0, 0x83, 0, 0, 0] ++ beBytes 0 8 ++ beBytes 1 4 ++ List.replicate 32 9

theorem wit_FramesAreTakenOrRefused : (stream0 true).cause (frame []) = none ∧ (stream0 true).cause { frame [] with vlan := true } = some 2 ∧
    live.st[(0 : StreamPort)].cfg = none ∧ live.st[(0 : StreamPort)].up = false ∧ imeskOk (stream0 true) true [] = false ∧
    imeskOk (stream0 false) false [1] = false ∧ beAt [1] 0 1 = 1 ∧ gevOk [] = false ∧ beAt [] 0 1 ≠ 1 ∧
    live.folds[(1 : FoldNo)].run ≠ .running ∧ ({ fold0.replay with on := true } : Replay).on = true ∧
    ({ (streaming true none).st[(0 : StreamPort)] with window := none } : StPort).window = none ∧
    (stream0 true).maxPackets ≤ ({ (streaming true none).st[(0 : StreamPort)] with accepted := 8 } : StPort).accepted ∧
    (stream0 true).record = false ∧ (streaming true none).rel < (streaming true none).reserveAt ∧
    imeskOk (stream0 true) true processFrame = true ∧ beAt processFrame 1 1 = 2 ∧ beAt processFrame 0 1 = 1 := by decide +kernel

/-- A GigE Vision leader of a block of 32 × 4 pixels of format 0x01080001, and a trailer. -/
def gevLeader0 : List Byte :=
  [0, 0, 0, 0, 0x81, 0, 0, 0] ++ beBytes 0 8 ++ beBytes 0 4 ++ [0, 0, 0, 1] ++ beBytes 700000 8 ++ beBytes 0x01080001 4 ++ beBytes 32 4 ++
    beBytes 4 4 ++ List.replicate 12 0
def gevTrailer0 : List Byte := [0, 0, 0, 0, 0x82] ++ List.replicate 15 0

theorem wit_FramesAreTakenOrRefused_gev : frameTaken (streaming false none) 0 0 (stream0 false) (frame gevLeader0) 7 ∧
    gevOk gevLeader0 = true ∧ beAt gevLeader0 4 1 % 16 = 1 ∧ beAt gevLeader0 36 4 = (stream0 false).width ∧
    beAt gevLeader0 40 4 = (stream0 false).lines ∧ beAt gevLeader0 32 4 = (stream0 false).pixel.toNat ∧ beAt gevLeader0 52 4 = 0 ∧
    beAt gevLeader0 36 4 ≠ 31 ∧ gevOk gevTrailer0 = true ∧ beAt gevTrailer0 4 1 % 16 = 2 ∧ beAt gevTrailer0 0 1 ≠ 1 :=
  ⟨by refine ⟨?_, ?_, ?_, ?_, ?_, ?_, ?_⟩ <;> decide +kernel, by decide +kernel⟩

theorem wit_StreamLinesLand : frameTaken (streaming true none) 0 0 (stream0 true) (frame lineFrame) 7 ∧
    (streaming true none).bufferCore (stream0 true) = some 0 ∧ 0 < (streaming true none).periodNs ∧
    imeskOk (stream0 true) true lineFrame = true ∧ beAt lineFrame 1 1 = 1 ∧
    (beAt lineFrame 20 8 + (stream0 true).offset) / (streaming true none).periodNs = 7 ∧
    (699999 + (stream0 true).offset) / (streaming true none).periodNs < 7 ∧ 7 < (800000 + (stream0 true).offset) / (streaming true none).periodNs ∧
    (0 : Int) = ((stream0 true).baseFor 100000 0 700000 7).1 + 0 ∧ 0 < (stream0 true).rowMax 100000 ∧
    (((0, 0, 0) : Int × Nat × Nat).1 + ((stream0 true).rowMax (streaming true none).periodNs : Int) ≤ ((9 : Nat) : Int)) :=
  ⟨by refine ⟨?_, ?_, ?_, ?_, ?_, ?_, ?_⟩ <;> decide +kernel, by decide +kernel⟩

/-- A beat of port 0 that has reached L0's endpoint. -/
def portBeat0 : PortBeat := { port := 0, due := 1000010, off := 4096, bytes := List.replicate 32 9 }

theorem wit_StreamLinesLand_beats : portBeat0 ∈ (at0 { core0 0 with portBeats := [portBeat0] }).cores[(0 : CoreNo)].portBeats ∧
    portBeat0.due ≤ live.now ∧ (at0 { core0 0 with portBeats := [portBeat0] }).cores[(0 : CoreNo)].recvs = [] ∧
    ∀ x ∈ (at0 { core0 0 with portBeats := [portBeat0] }).cores[(0 : CoreNo)].portBeats, x ≠ portBeat0 → x.port ≠ 0 := by decide +kernel

theorem wit_StreamLinesLand_gev : gevOk gevFrame = true ∧ beAt gevFrame 4 1 % 16 = 3 ∧ 1 ≤ beAt gevFrame 16 4 ∧ beAt gevFrame 0 1 ≠ 1 ∧
    (stream0 false).lines? ((beAt gevFrame 16 4 - 1) * (stream0 false).payload) (gevFrame.drop 20) = [(0, 0, List.replicate 32 9)] ∧
    (streaming false (some (0, 700000))).st[(0 : StreamPort)].block = some (BitVec.ofNat 64 (beAt gevFrame 8 8), 700000) ∧
    (streaming false none).st[(0 : StreamPort)].block = none ∧ (1 : Word64) ≠ BitVec.ofNat 64 (beAt gevFrame 8 8) := by decide +kernel

theorem wit_StreamLinesLand_taken : frameTaken (streaming false (some (0, 700000))) 0 0 (stream0 false) (frame gevFrame) 7 := by
  refine ⟨?_, ?_, ?_, ?_, ?_, ?_, ?_⟩ <;> decide +kernel

/-- A replay feed frame. -/
def feedFrame : EthFrame := { frame ([1, 4, 0, 5] ++ List.replicate 28 0) with udpDst := 0, src := 1 }

/-- `live` at a cycle of its tick, with telemetry sampled and bytes of fold 0 to export. -/
def sending (rel : Nat) : State := { live with
  now := 1000000 + rel, telemetry := [1, 2, 3]
  folds := live.folds.set 0 { fold0 with replay := { fold0.replay with out := [4, 5] } } }

theorem wit_PlantPortsAndTelemetry : (streaming true none).st[(0 : StreamPort)].up = true ∧ (0 : BitVec 128) = (stream0 true).local_ ∧
    (1 : BitVec 128) ≠ (stream0 true).local_ ∧ live.st[(0 : StreamPort)].up = false ∧ live.st[(0 : StreamPort)].cfg = none ∧
    (streaming true none).st[(0 : StreamPort)].enabled = true ∧ live.st[(0 : StreamPort)].enabled = false ∧ State.reset.plantRec 0 = none ∧
    live.plantRec 0 = some plant ∧ live.pl[(0 : PlantPort)].up = true ∧ live.pl[(1 : PlantPort)].up = false ∧ plant.enabled = true ∧
    live.plantCause 0 { frame [] with vlan := true } = some 2 ∧ live.plantCause 0 feedFrame = none ∧
    live.foldByTag (BitVec.ofNat 16 (beAt feedFrame.payload 2 2)) = some 0 ∧ beAt feedFrame.payload 1 1 = 4 ∧
    live.folds[(0 : FoldNo)].replay.on = false ∧ ({ fold0.replay with on := true } : Replay).on = true := by decide +kernel

theorem wit_PlantPortsAndTelemetry_frames : (sending 7999).rel < 8000 ∧ 8000 ≤ (sending 8000).rel ∧ (sending 8000).telemetry ≠ [] ∧
    live.telemetry = [] ∧ 0 < sect.telemetryEvery ∧ (sending 8000).tick.number.toNat % sect.telemetryEvery = 0 ∧
    (sending 8000).tick.number.toNat % 2 ≠ 0 ∧
    sect.telemetryPorts.getLsbD 0 = true ∧ sect.telemetryPorts.getLsbD 1 = false ∧ (sending 8000).plantOpen 0 = true ∧
    (sending 8000).pl[(0 : PlantPort)].sent = [] ∧ (sending 8000).rel + (sending 8000).plantCycles 0 3 0 ≤ (sending 8000).period ∧
    (sending 199999).period < (sending 199999).rel + (sending 199999).plantCycles 0 3 0 ∧
    (sending 8000).folds[(0 : FoldNo)].replay.out.take 8192 = [4, 5] ∧ (sending 8000).folds[(0 : FoldNo)].allot = some allot0 ∧
    ({ sending 8000 with telemetry := [] } : State).plantFits 0 2 = true ∧ ({ sending 8000 with telemetry := [] } : State).telemetryWaits 0 = false ∧
    (sending 8000).telemetryWaits 0 = true ∧ (sending 8000).plantOpen 1 = false ∧ live.sec?.isSome = true ∧ State.reset.sec? = none := by
  decide +kernel

/-- Announce data. -/
def announce (priority : BitVec 8) (id : BitVec 64) : AnnounceData :=
  { priority1 := priority, clockClass := 0, accuracy := 0, variance := 0, priority2 := 0, identity := id }
/-- A bellwether with a selected transmitter. -/
def timed : State := { bellwether with
  ptp := { bellwether.ptp with
    best := some (announce 4 9), pending := some (5, 9, 100), delayReq := some (5, 900), time := some (1000, 800) } }

theorem wit_PtpGivesTheTime : live.ptpHears 0 = false ∧ timed.ptpHears 0 = true ∧ bellwether.ptp.best = none ∧
    before (announceKey (announce 3 1)) (announceKey (announce 4 9)) = true ∧
    before (announceKey (announce 5 1)) (announceKey (announce 4 9)) = false ∧ timed.ptpFrom 9 = true ∧ timed.ptpFrom 8 = false ∧
    timed.ptp.best = some (announce 4 9) ∧ (announce 4 9).identity = (announce 7 9).identity ∧ (announce 4 9).identity ≠ (announce 3 1).identity ∧
    bellwether.ptp.pending = none ∧ bellwether.ptp.delayReq = none ∧ live.sec? = some sect ∧ sect.bellwether = false ∧ timed.power.good = true ∧
    timed.ptp.pending = some (5, 9, 100) ∧ timed.ptp.delayReq = some (5, 900) ∧ timed.ptp.time = some (1000, 800) ∧
    timed.isBellwether = true ∧ live.isBellwether = false ∧ timed.ptp.lost = false ∧
    timed.ptp.syncAt.getD timed.power.goodAt + 8000000000 ≤ ({ timed with now := 8000000000 } : State).now ∧
    timed.now < timed.ptp.syncAt.getD timed.power.goodAt + 8000000000 ∧ bellwether.ptp.time = none ∧
    (timed.ptp.time2 timed.now).isSome = true := by decide +kernel

/-! ## Witnesses: presence, the tack record and folds -/

/-- A press by A at 100 µs. -/
def pressed (pres : Presence) : State := { live with trust := { live.trust with pres := { pres with press := some (.a, 100), bridleA := true } } }

theorem wit_PresenceAndEntropy : (Chan.a : Chan) ≠ .b ∧ State.reset.power.good = false ∧ (pressed pres0).trust.pres.press = some (.a, 100) ∧
    (pressed pres0).power.good = true ∧ (pressed pres0).trust.pres.pressed = false ∧ 50100 ≤ 100 + 50000 ∧ (pressed pres0).pressBar = none ∧
    (pressed Presence.reset).pressBar = some 1 ∧ live.trust.pres.press = none ∧ live.trust.pres.level .b = false ∧
    (pressed pres0).trust.pres.level .a = true ∧ 100 + 55000 ≤ ({ pressed pres0 with now := 110200000 } : State).micros ∧
    (pressed pres0).micros < 100 + 55000 ∧ ({ pres0 with pressed := true, released := some (.b, 200) } : Presence).released = some (.b, 200) ∧
    200 + 55000 ≤ ({ live with now := 110400000 } : State).micros ∧ live.micros < 200 + 55000 ∧
    ({ pres0 with discrepancy := true } : Presence).discrepancy = true ∧ (∀ c : Chan, pres0.level c = false) ∧
    live.trust.pres.window = some 120000000 ∧ live.micros < 120000000 ∧ 120000000 ≤ ({ live with now := 240000000000 } : State).micros ∧
    locked.trust.pres.window = none ∧
    (linked (portAt .up)).fromBellwether 0 = true ∧ live.fromBellwether 0 = false ∧ (linked (portAt .up)).pressBar = none ∧
    ({ pres0 with byNotice := true } : Presence).byNotice = true ∧ pres0.byNotice = false ∧
    (mail 0x0E 0 0 []).dstModule = live.hallNo := by
  refine ⟨?_, ?_, ?_, ?_, ?_, ?_, ?_, ?_, ?_, ?_, ?_, ?_, ?_, ?_, ?_, ?_, ?_, fun c => by cases c <;> rfl, ?_⟩ <;> decide +kernel

/-- `live` with its entropy source failed and a request waiting for it. -/
def starved (r : Option MaintReq) : State := { live with trust := { live.trust with
  entropyFailed := true, sess := { live.trust.sess with waiting := r.map fun r => (r, 1000000) } } }

theorem wit_PresenceAndEntropy_waits (r : MaintReq) : (starved (some r)).trust.entropyFailed = true ∧ bootSettled (starved none) ∧
    bootSettled (starved (some r)) ∧ (starved (some r)).trust.sess.waiting = some (r, 1000000) ∧ (starved none).trust.sess.waiting = none ∧
    (starved (some r)).windowStatus = 0 ∧ live.trust.entropyFailed = false ∧ (starved (some r)).now < 1000000 + 2000000000 ∧
    1000000 + 2000000000 ≤ ({ starved (some r) with now := 2001000000 } : State).now :=
  ⟨rfl, .inr ⟨by decide +kernel, rfl, rfl, rfl⟩, .inr ⟨by show 3 ≤ live.power.bootStep; decide +kernel, rfl, rfl, rfl⟩, rfl, rfl,
    by show live.windowStatus = 0; decide +kernel, by decide +kernel, by show live.now < 1000000 + 2000000000; decide +kernel, by
      show 1000000 + 2000000000 ≤ 2001000000; decide⟩

theorem wit_BootSettled : bootSettled live ∧ bootSettled State.reset :=
  ⟨.inr ⟨by decide +kernel, rfl, rfl, rfl⟩, .inl rfl⟩

/-- A tack record with an entry for every fold. -/
def record0 (e : TackEntry) : TackRec :=
  { seq := 1, fw := .idle, single := true, step0 := true, step1 := false, retired := 0, entries := Vector.replicate 33 e }
/-- An SSD that is there. -/
def ssd0 (resync : Bool) : Ssd := { Ssd.reset with present := true, resync := resync }
/-- `live` with a tack record, an SSD in step and slots. -/
def stored (e : TackEntry) (slots : List (SlotKey × Slot)) : State := { live with
  store := { live.store with
    record := some (record0 e), ssds := live.store.ssds.set 0 (ssd0 false), slots := slots } }

theorem wit_CommitsAndSsds : live.store.commits = [] ∧
    ({ live.store with commits := [record0 TackEntry.zero] } : Store).commits = [record0 TackEntry.zero] ∧ live.store.record = none ∧
    (stored TackEntry.zero []).store.record.isSome = true ∧ live.store.inY = false ∧ 512 ≤ ({ live.store with usedX := 512 } : Store).usedX ∧
    live.store.ssds[(0 : SsdNo)].present = false ∧ (stored TackEntry.zero []).store.ssds[(0 : SsdNo)].present = true ∧
    (stored TackEntry.zero []).stepFlag 0 = true ∧ (stored TackEntry.zero []).stepFlag 1 = false ∧ live.trust.life = .branded ∧
    State.reset.trust.life ≠ .branded ∧ (ssd0 false).resync = false ∧ (ssd0 true).present = true ∧
    (0 : BitVec 384) = live.trust.fingerprint ∧ (1 : BitVec 384) ≠ live.trust.fingerprint ∧ (ssd0 true).resync = true := by decide +kernel

/-- Measurement of the container below: SHA-384 of its first 208 bytes and its directory. -/
def measure0 : BitVec 384 :=
  0x456711f1cfd96520e84f743d626e19ab3fc9cb7b46a447ded97d2a26705a98343126f82c021979047fa9d280b1ac578d

/-- A container of fold 0 with a fold header for a number of members and one dynamic region, its measurement in its header. -/
def slotOf (members : Byte) : Slot :=
  { ((((((Slot.fresh 400).put 0 [1, 0, 2]).put 24 [2, 0, 0, 0, 0, 1]).put 208 (beBytes measure0.toNat 48)).put 256
      [1, 0, 255, 0, 64, 1, 0, 0, 0, 0, 0, 0, 32]).put 288 [3, 0, 0, 0, 96, 1, 0, 0, 0, 0, 0, 0, 16]).put 325 [members, 0, 0, 1] with
    bytes := (((((((Slot.fresh 400).put 0 [1, 0, 2]).put 24 [2, 0, 0, 0, 0, 1]).put 208 (beBytes measure0.toNat 48)).put 256
      [1, 0, 255, 0, 64, 1, 0, 0, 0, 0, 0, 0, 32]).put 288 [3, 0, 0, 0, 96, 1, 0, 0, 0, 0, 0, 0, 16]).put 325 [members, 0, 0, 1]).put 357
        [16, 0, 0, 1] |>.bytes
    written := true }

/-- The same with the trailer that this module writes. -/
def boundSlot (members : Byte) : Slot := { slotOf members with trailer := some (live.codeOf (slotOf members)) }

theorem boundSlot_measure : (boundSlot 1).measure = measure0 ∧ (boundSlot 2).measure = measure0 ∧ (boundSlot 1).measured = measure0 ∧
    (boundSlot 2).measured = measure0 := by decide +kernel

/-- `stored` with that container in both slots of fold 0, whose entry is in a state. -/
def binding (members : Byte) (st : UpdState) (preload : Bool) : State :=
  stored { TackEntry.zero with state := st, active := some true, meas := measure0, other := measure0, preload := preload }
    [((0, false), boundSlot members), ((0, true), boundSlot members)]

theorem container_of {s : State} {k : Fin 33} {b : Bool} {c : Slot} (h1 : s.storeUp = true) (h2 : s.store.slot? (k.val, b) = some c)
    (h3 : c.written = true) (h4 : s.trailerOk c = true) (h5 : c.measure = (s.entryAt k).measOf b)
    (h6 : c.measured = (s.entryAt k).measOf b) : s.container k b = some c := by
  have h : (Option.filter (fun c => c.written && s.trailerOk c && decide (c.measure = (s.entryAt k).measOf b) &&
      decide (c.measured = (s.entryAt k).measOf b)) (some c)) = some c := by
    rw [Option.filter_some, h3, h4, decide_eq_true h5, decide_eq_true h6]; rfl
  simp only [State.container, h1, h2, if_true, h]

/-- A trailer is no part of what its code is computed over. -/
theorem codeOf_trailer (s : State) (c : Slot) (x : Option (BitVec 384)) : s.codeOf { c with trailer := x } = s.codeOf c := rfl

theorem codeOf_live (s : State) (c : Slot) (h : s.trust = live.trust) : s.codeOf c = live.codeOf c := by
  simp only [State.codeOf, State.acceptCode, State.acceptKey, State.key, h]

theorem boundSlot_trailer (s : State) (n : Byte) (h : s.trust = live.trust) : s.trailerOk (boundSlot n) = true := by
  have e : s.codeOf (boundSlot n) = live.codeOf (slotOf n) := (codeOf_live s _ h).trans (codeOf_trailer live (slotOf n) _)
  have f : (boundSlot n).trailer = some (live.codeOf (slotOf n)) := by simp only [boundSlot]
  simp only [State.trailerOk, e, f, decide_true]

theorem wit_Container (st : UpdState) (pre b : Bool) : (binding 1 st pre).container 0 b = some (boundSlot 1) ∧
    (binding 2 st pre).container 0 b = some (boundSlot 2) := by
  constructor <;> refine container_of ?_ ?_ rfl (boundSlot_trailer _ _ rfl) ?_ ?_
  · rfl
  · cases b <;> rfl
  · rw [boundSlot_measure.1]; cases b <;> rfl
  · rw [boundSlot_measure.2.2.1]; cases b <;> rfl
  · rfl
  · cases b <;> rfl
  · rw [boundSlot_measure.2.1]; cases b <;> rfl
  · rw [boundSlot_measure.2.2.2]; cases b <;> rfl

/-- Folds 0 and 1 load. -/
def loading : State := { live with
  folds := (live.folds.set 0 { fold0 with run := .loading }).set 1 { fold0 with run := .loading } }

/-- L0 shared by folds 0, in the first share, and 1, in the second. -/
def shared : State := { live with
  folds := (live.folds.set 0 { fold0 with allot := some { allot0 with shared := some 0, boundary := 50000 } }).set 1
    { fold0 with allot := some { allot0 with fold := 1, tag := 6, shared := some 0, second := true, boundary := 50000 } } }

theorem wit_FoldsLoadConfirmAndShare : (0 : FoldNo) < 1 ∧ loading.folds[(0 : FoldNo)].run = .loading ∧ loading.folds[(1 : FoldNo)].run = .loading ∧
    live.folds[(0 : FoldNo)].run ≠ .loading ∧ (live.entry 0).state ≠ .activating ∧ foldEntry 0 = 0 ∧ ¬((1 : FoldNo) < 0) ∧
    ((stored { TackEntry.zero with state := .confirming } []).entry 0).state = .confirming ∧
    ((stored { TackEntry.zero with state := .confirming } []).entry 0).confirm ≤ (stored TackEntry.zero []).folds[(0 : FoldNo)].confirm ∧
    (stored TackEntry.zero []).folds[(0 : FoldNo)].confirm < ({ TackEntry.zero with confirm := 1 } : TackEntry).confirm := by decide +kernel

theorem wit_FoldsLoad_preload : ((binding 1 .activating true).entry 0).state = .activating ∧ ((binding 1 .activating true).entry 0).preload = true ∧
    (binding 1 .activating true).folds[(0 : FoldNo)].preloaded = false ∧ (binding 1 .activating true).folds[(0 : FoldNo)].run ≠ .loading ∧
    ((binding 1 .activating true).entry 0).otherSlot = false := by decide +kernel

theorem wit_Shares : ((shared.holders 0).find? fun f => shared.sharesOn f 0 && !shared.secondOn f 0) = some 0 ∧
    ((shared.holders 0).find? fun f => shared.secondOn f 0) = some 1 ∧ (shared.penCore 1 0).isSome = true ∧ shared.absent 0 = false ∧
    shared.folds[(1 : FoldNo)].run = .running ∧ (0 : FoldNo) ∈ shared.holders 0 ∧ shared.sharesOn 0 0 = true ∧
    shared.folds[(0 : FoldNo)].allot = some { allot0 with shared := some 0, boundary := 50000 } ∧ shared.rel < 50000 ∧
    50000 ≤ ({ shared with now := 1050000 } : State).rel ∧ shared.cores[(0 : CoreNo)].anyRunning = false ∧
    ({ core0 0 with matrix := { Stream.reset with running := true } } : Core).anyRunning = true ∧ live.phys 1 = none ∧
    ((live.holders 0).find? fun f => live.sharesOn f 0 && !live.secondOn f 0) = none ∧
    ((live.holders 0).find? fun f => live.secondOn f 0) = none ∧ shared.phys 0 = some 0 := by decide +kernel

/-! ## Witnesses: the maintenance protocol -/

/-- A request of session 1 for a target with an argument. -/
def request (op : BitVec 8) (arg : Word64) (body : List Byte) : MaintReq :=
  { port := 0, src := 1, udp := 1, op := op, session := 1, number := 1, target := 0, arg := arg, body := body }

/-- The answer given to it. -/
def given0 : Answer := { op := 0x24, status := 0, session := 1, number := 1, target := 0, arg := 0, body := [], port := 0, dst := 1, udp := 1 }

theorem wit_isNew : isNew live (request 0x24 0 []) ∧ inSession live (request 0x24 0 []) :=
  ⟨⟨rfl, rfl, rfl⟩, ⟨rfl, rfl, rfl⟩, rfl, rfl⟩

theorem wit_RequestsAndSessions : live.hears { request 1 0 [] with src := 2 } = false ∧
    ({ live.trust.sess with answers := [given0] } : Session).given (request 0x24 0 []) = some given0 ∧
    live.trust.sess.given (request 0x24 0 []) = none ∧ ({ live.trust.sess with busy := some (request 0x24 0 []) } : Session).busyWith (request 0x24 0 []) = true ∧
    locked.trust.pres.fuse = true ∧ locked.windowStatus ≠ 0 ∧ pres0.fuse = false ∧ Presence.reset.window = none ∧
    ({ pres0 with discrepancy := true } : Presence).discrepancy = true ∧ live.trust.sess.num ≠ some 2 ∧ live.windowStatus = 0 ∧
    ({ live.trust.sess with num := none } : Session).num = none ∧ live.trust.sess.waiting = none ∧ live.trust.entropyFailed = false ∧
    live.trust.sess.num.isSome = true ∧ live.trust.pres.window.isSome = true ∧
    live.trust.sess.last + 20000000000 ≤ ({ live with now := 20000000000 } : State).now ∧ live.now < live.trust.sess.last + 20000000000 ∧
    live.trust.sess.busy = none := by decide +kernel

theorem wit_ReadsAndStatusWrites : (request 0x10 0 (List.replicate 32 0)).body.length = 32 ∧ (request 0x10 0 []).body.length ≠ 32 ∧
    live.trust.life = .branded ∧ State.reset.trust.life ≠ .brandLost ∧ ({ live.trust with life := .brandLost } : Trust).life = .brandLost ∧
    live.ticks = true ∧ State.reset.ticks = false ∧ live.tick.inReserve = false ∧ broken0.tick.inReserve = true ∧ live.trust.entropyFailed = false ∧
    (starved none).trust.entropyFailed = true ∧ (starved none).trust.sess.waiting = none ∧
    (0x3FFFFFF : Word64).toNat < 2 ^ 26 ∧ 2 ^ 26 ≤ (0x4000000 : Word64).toNat ∧ live.windowOpen = true ∧ State.reset.windowOpen = false ∧
    tallySel 0x01000100 = some (0, 0) ∧ live.cores[(0 : CoreNo)].supply.on = true ∧ userTag 0x200 = some 0 ∧ userTag 0x23C = some 15 ∧
    tallySel 0x240 = none ∧ userTag 0x240 = none ∧ tallySel 0x200 = none ∧ live.cores[(1 : CoreNo)].supply.on = false ∧
    tallySel 0x01010100 = some (1, 0) ∧ (request 0x31 0x200 [0, 0, 0, 7]).body.length = 4 ∧ live.admitStatus (request 0x31 0 []) = 0 ∧
    locked.admitStatus (request 0x31 0 []) ≠ 0 ∧ locked.writable 0x200 = true ∧ locked.writable 0x240 = false ∧
    isLow 0x18 = true ∧ isLow 0x1C = false ∧ isDigest 0x1C = false ∧ (0x18 : Word32).toNat + 4 < 2 ^ 32 := by decide +kernel

/-- A slot that is written or not. -/
def slot0 (written : Bool) : Slot := { bytes := [], len := 64, written := written, trailer := none }
/-- `stored` with slot A of fold 0 and an open session that downloads it. -/
def downloading (st : UpdState) (written : Bool) : State := { stored { TackEntry.zero with state := st, active := some true } [((0, false), slot0 written)] with
  trust := { live.trust with sess := { live.trust.sess with download := some (0, 64) } } }

theorem wit_DownloadsAreVerified : targetEntry 0 = some 0 ∧ (downloading .downloading false).storeUp = true ∧ live.storeUp = false ∧
    (downloading .downloading false).downKey 0 = some (0, false) ∧ live.downKey 0x100 = some (33, true) ∧ live.downKey 0x101 = some (34, false) ∧
    targetEntry 0x100 = none ∧ (request 0x20 64 []).arg ≠ 0 ∧ (request 0x20 0 []).arg = 0 ∧
    (downloading .downloading false).targetState 0 = .downloading ∧ UpdState.downloading.blocksDownload = false ∧
    ((downloading .downloading false).entryAt 0).otherSlot = false ∧ ((downloading .downloading false).entryAt 0).state = .downloading ∧
    (downloading .downloading false).notBegun 0 (0, false) = false ∧ (downloading .idle false).notBegun 0 (0, false) = true ∧
    (downloading .downloading false).store.slot? (0, false) = some (slot0 false) ∧ (32 : Word64).toNat % 32 = 0 ∧ 32 + 32 ≤ 64 ∧ 0 < 64 ∧
    (33 : Word64).toNat % 32 ≠ 0 ∧ 64 < (64 : Word64).toNat + 1 ∧
    (downloading .downloading false).trust.sess.download = some (0, 64) ∧ UpdState.staged.blocksDownload = true ∧
    (downloading .downloading false).trust.sess.num = some (request 0x21 0 []).session ∧ (downloading .downloading false).trust.sess.busy = none := by
  decide +kernel

/-- A container that fails its first check. -/
theorem wit_DownloadsAreVerified_fails : (downloading .downloaded true).store.slot? (0, false) = some (slot0 true) ∧ (slot0 true).written = true ∧
    ((downloading .downloaded true).entryAt 0).state = .downloaded ∧ (downloading .downloaded true).targetCheck 0 (slot0 true) = 1 ∧
    (0 : BitVec 16) ≠ 0x100 := by decide +kernel

theorem wit_ActivationsAreCommitted : live.sec?.isSome = true ∧ targetEntry 0 = some 0 ∧ targetFold 0 = some 0 ∧ targetEntry 0xFF = some 32 ∧
    targetFold 0xFF = none ∧
    (stored { TackEntry.zero with state := .staged } []).entryMulti 0 = false ∧ fld (request 0x24 (2 ^ 56) []).arg 56 8 = 1 ∧
    fld (request 0x24 0 []).arg 56 8 = 0 ∧ fld (request 0x24 (2 ^ 57) []).arg 56 8 = 2 ∧
    bitOf (request 0x24 (2 ^ 56) []).arg 55 = false ∧ bitOf (request 0x24 (2 ^ 55) []).arg 55 = true ∧
    ((stored { TackEntry.zero with state := .staged } []).entryAt 0).state = .staged ∧ ((stored TackEntry.zero []).entryAt 0).state = .idle ∧
    ((stored TackEntry.zero []).entryAt 0).other = 0 ∧ ((stored { TackEntry.zero with state := .confirming } []).entryAt 0).state = .confirming ∧
    (stored { TackEntry.zero with state := .staged } []).canWithdraw 0 = true ∧ (stored TackEntry.zero []).canWithdraw 0 = false ∧
    bitOf (1 : Word64) 0 = true ∧ bitOf (0 : Word64) 0 = false := by decide +kernel

theorem wit_ActivationsAreCommitted_multi : (binding 2 .staged false).entryMulti 0 = true ∧ (binding 1 .idle false).entryMulti 0 = false ∧
    (binding 1 .staged true).preloadClash 0 = true ∧ ((binding 1 .idle false).entryAt 0).other ≠ 0 ∧
    ((binding 1 .idle false).entryAt 0).state = .idle := by
  refine ⟨?_, ?_, ?_, by decide +kernel, rfl⟩
  · have h := (wit_Container .staged false false).2
    have e : ((binding 2 .staged false).entryAt 0).otherSlot = false := rfl
    simp only [State.entryMulti, State.candidateMulti, e, h]; decide +kernel
  · have h := (wit_Container .idle false false).1
    have e : ((binding 1 .idle false).entryAt 0).otherSlot = false := rfl
    simp only [State.entryMulti, State.candidateMulti, e, h]; decide +kernel
  · have h := fun b => (wit_Container .staged true b).1
    have e : ((binding 1 .staged true).entryAt 0).otherSlot = false := rfl
    have a : ((binding 1 .staged true).entryAt 0).active = some true := rfl
    simp only [State.preloadClash, e, a, h, Option.bind_some]; decide +kernel

theorem wit_OtherRequestsAndExports : live.trust.generation < 15 ∧ 15 ≤ ({ live.trust with generation := 15 } : Trust).generation ∧
    live.inStep 0 = false ∧ (stored TackEntry.zero []).inStep 0 = true ∧ (ssd0 true).present = true ∧ live.store.ssds[(0 : SsdNo)].present = false ∧
    live.folds[(0 : FoldNo)].allot.isSome = true ∧ live.folds[(1 : FoldNo)].allot = none ∧ (request 0x31 0 []).target.toNat = (0 : FoldNo).val ∧
    live.folds[(0 : FoldNo)].debug = false ∧ live.trust.debugCount[(0 : FoldNo)] < 16 ∧ ({ fold0 with debug := true } : Fold).debug = true ∧
    (request 0x34 0 (beBytes 4 4)).body.length = 4 ∧ beAt (beBytes 4 4) 0 4 = 4 ∧ zeros (hallAddr 0 0 0 4096) 31 12 = true ∧
    (live.coresOf 0).contains (hCore (hallAddr 0 0 0 4096)) = true ∧ hModule (hallAddr 0 0 0 4096) = live.hallNo ∧ live.ticks = true ∧
    ({ live with tick := { live.tick with predicting := false } } : State).ticks = false ∧
    ((live.phys 0).bind fun p => live.spaceBytes 0 p 0 (hSpace (hallAddr 0 0 0 4096)) (hOff (hallAddr 0 0 0 4096)) 4).isSome = true ∧
    (live.store.dumps.find? fun d => decide (d.2.1 = 0)) = none ∧
    (([(0, 0, [1, 2])] : List (Nat × Nat × List Byte)).find? fun d => decide (d.2.1 = (request 0x34 0 []).arg.toNat)) = some (0, 0, [1, 2]) := by
  decide +kernel

/-! ## Commands that are none (WellFormed) -/

def badMail (kind len : Nat) : MailMsg :=
  { kind := BitVec.ofNat 8 kind, hops := 0, bad := false, srcModule := 0, srcTag := 0, dstModule := 0, dstTag := 0, epoch := 0,
    number := 0, reference := 0, addr := 0, payload := List.replicate len 0 }

def badFrame (src : BitVec 128) (len : Nat) : EthFrame :=
  { fcsOk := true, vlan := false, dstMac := 0, ipv6 := false, isIp := true, options := false, fragment := false, src := src,
    isUdp := true, udpSrc := 0, udpDst := 0, checksum := .good, payload := List.replicate len 0 }

def badReq (op arg : Nat) : MaintReq :=
  { port := 0, src := 0, udp := 0, op := BitVec.ofNat 8 op, session := 0, number := 0, target := 0, arg := BitVec.ofNat 64 arg,
    body := [] }

def badPacket : SchedPacket :=
  { type := 0, units := 2, marks := 0, tag := 0, epoch := 0, flow := 0, stamp := 0, addr := 0, payload := List.replicate 32 0 }

def goodUnit (len : Nat) : LaneUnit := { cipher := List.replicate len 0, tag := 0 }

def badLane (units len mgmt fill : Nat) : LaneFrame :=
  { header := { revision := 1, lane := 0, port := 0, active := 0xFF, counter := 0, request := 0, announced := 0, countdown := 0 }
    units := List.replicate units (goodUnit len), mgmt := goodUnit mgmt, fill := fill }

/-- Twenty-two codewords. -/
def line22 (phase : Nat) : LineRx := { phase := phase, errors := List.replicate 22 0 }

def badHello : Hello :=
  { lowRev := 1, highRev := 1, bellwether := false, spareCopper := false, unplaced := false, hallModule := 0, port := 0, lanes := 0,
    fingerprint := 0, tick := 0, txCycle := 0, echoed := 0, turnaround := 0, nonce := 0, confirmation := 0 }

def badOffer : PairingOffer := { generation := 16, brandKey := 0, pairKey := 0, expected := 0, signature := 0, signed := [] }

theorem test_wf_core : (Instr.fleeceScrub 0 [0] [0]).wf = false ∧ (Instr.schedPacketArrival 0 badPacket).wf = false ∧
    (Instr.schedPacketArrival 0 { badPacket with units := 1, marks := 2 }).wf = false := by decide

theorem test_wf_mail : (Instr.mailWrite (badMail 2 0)).wf = false ∧ (Instr.mailGatherRequest (badMail 2 15)).wf = false ∧
    (Instr.mailGatherResponse (badMail 2 0)).wf = false ∧ (Instr.mailNotServed (badMail 3 0)).wf = false ∧
    (Instr.mailStaleRole (badMail 4 0)).wf = false ∧ (Instr.mailRefused (badMail 5 0)).wf = false ∧
    (Instr.mailNoRoute (badMail 6 0)).wf = false ∧ (Instr.mailUnknownKind (badMail 7 0)).wf = false := by decide

theorem test_wf_mail_control : (Instr.faultNotice (badMail 9 31)).wf = false ∧ (Instr.statusReadRequest (badMail 9 0)).wf = false ∧
    (Instr.statusReadResponse (badMail 0x0B 3)).wf = false ∧ (Instr.imageBlockRequest (badMail 0x0C 57)).wf = false ∧
    (Instr.imageBlockResponse (badMail 0x0D 7)).wf = false ∧ (Instr.presenceNotice 0 (badMail 0x0E 7)).wf = false ∧
    (Instr.presenceCloseNotice 0 (badMail 0x0F 1)).wf = false ∧ (Instr.witnessRecord (badMail 0x0F 0)).wf = false ∧
    (Instr.mailReservedKind (badMail 0x10 0)).wf = false ∧ (Instr.mailReservedKind (badMail 0x11 0)).wf = true := by decide

theorem test_wf_frames : (Instr.imeskLineFrame 0 (badFrame 1 0)).wf = false ∧ (Instr.imeskProcessFrame 0 (badFrame 1 0)).wf = false ∧
    (Instr.gevLeader 0 (badFrame 1 0)).wf = false ∧ (Instr.gevPayload 0 (badFrame 1 0)).wf = false ∧
    (Instr.gevTrailer 0 (badFrame 1 0)).wf = false ∧ (Instr.streamFrameInvalid 0 (badFrame 1 0)).wf = false ∧
    (Instr.plantFrameInvalid 0 (badFrame 1 0)).wf = false ∧ (Instr.replayFeedFrame 0 (badFrame 1 0)).wf = false := by decide

theorem test_wf_long : (Instr.imeskLineFrame 0 (badFrame 0 9189)).wf = false ∧ (Instr.imeskLineFrame 0 (badFrame 0 9188)).wf = true ∧
    (Instr.mailWrite (badMail 1 4065)).wf = false ∧ (Instr.mailWrite (badMail 1 4064)).wf = true := by decide +kernel

theorem test_wf_links : (Instr.trafficFrame 0 ⟨0, (line22 0), (badLane 16 800 240 164)⟩).wf = true ∧
    (Instr.trafficFrame 0 ⟨0, (line22 0), (badLane 15 800 240 164)⟩).wf = false ∧ (Instr.trafficFrame 0 ⟨0, (line22 0), (badLane 16 799 240 164)⟩).wf = false ∧
    (Instr.trafficFrame 0 ⟨0, (line22 0), (badLane 16 800 241 164)⟩).wf = false ∧ (Instr.trafficFrame 0 ⟨0, (line22 0), (badLane 16 800 240 166)⟩).wf = false ∧
    (Instr.trafficFrame 0 ⟨0, (line22 640), (badLane 16 800 240 164)⟩).wf = false ∧ (Instr.trafficFrame 0 ⟨0, (line22 639), (badLane 16 800 240 164)⟩).wf = false ∧
    (Instr.trainingFrame 0 0 badHello badOffer).wf = false := by decide +kernel

theorem test_wf_power : (Instr.inputUndervoltage 38000).wf = false ∧ (Instr.inputOvervoltage 62000).wf = false ∧
    (Instr.marginSample (List.replicate 32 1024)).wf = false ∧ (Instr.phaseSample (List.replicate 10 ((0, 2), 0))).wf = false ∧
    (Instr.phaseSample (List.replicate 10 ((3, 4), 0))).wf = false ∧ (Instr.phaseSample (List.replicate 10 ((3, 7), 0))).wf = true ∧
    (Instr.temperatureSample { cores := [], sramStacks := [], optical := [], converters := [], inlet := 0, outlet := 0 }).wf = false ∧
    (Instr.junctionTrip (.core 0) 411).wf = false ∧ (Instr.ageingRecord []).wf = false ∧ (Instr.replan []).wf = false := by decide

theorem test_wf_requests : (Instr.openSession (badReq 2 0)).wf = false ∧ (Instr.closeSession (badReq 1 0)).wf = false ∧
    (Instr.attestation (badReq 0x11 0)).wf = false ∧ (Instr.statusRead (badReq 0x10 0)).wf = false ∧
    (Instr.logRead (badReq 0x11 0)).wf = false ∧ (Instr.downloadBegin (badReq 0x21 0)).wf = false ∧
    (Instr.downloadData (badReq 0x20 0)).wf = false ∧ (Instr.downloadEnd (badReq 0x23 0)).wf = false ∧
    (Instr.verify (badReq 0x22 0)).wf = false ∧ (Instr.activateImmediate (badReq 0x25 0)).wf = false ∧
    (Instr.activateAtTick (badReq 0x25 0)).wf = false ∧ (Instr.activateDeferred (badReq 0x25 0)).wf = false ∧
    (Instr.revert (badReq 0x24 0)).wf = false ∧ (Instr.withdraw (badReq 0x26 0)).wf = false := by decide

theorem test_wf_switches : (Instr.holdStop (badReq 0x26 0)).wf = false ∧ (Instr.holdRelease (badReq 0x26 1)).wf = false ∧
    (Instr.replayOn (badReq 0x32 0)).wf = false ∧ (Instr.replayOff (badReq 0x32 1)).wf = false ∧
    (Instr.debugEnable (badReq 0x33 0)).wf = false ∧ (Instr.debugDisable (badReq 0x33 1)).wf = false ∧
    (Instr.reLock (badReq 0x30 0)).wf = false ∧ (Instr.debugRead (badReq 0x35 0)).wf = false ∧
    (Instr.dumpExport (badReq 0x34 0)).wf = false ∧ (Instr.logClear (badReq 0x37 0)).wf = false ∧
    (Instr.keyChange (badReq 0x36 0)).wf = false ∧ (Instr.adoptSsd (badReq 0x37 0)).wf = false ∧
    (Instr.maintUnknownOperation (badReq 0x38 0)).wf = false ∧ (Instr.maintUnknownOperation (badReq 0x39 0)).wf = true := by decide

theorem test_wf_status : (Instr.tallySelWrite (.i3c 0x01000120 0)).wf = false ∧ (Instr.tallySelWrite (.i3c 0x0100011C 0)).wf = true ∧
    (Instr.userTagWrite (.i3c 0x240 0)).wf = false ∧ (Instr.userTagWrite (.i3c 0x23C 0)).wf = true ∧
    (Instr.statusWriteRefused (.maint (badReq 0x31 0))).wf = false := by decide

/-! ## Tapered formats: the worked examples of spec/02_tapered_formats.md -/

/-- Worked example "decoding two codes". -/
theorem test_decode : Fmt.tp16.value 0x7DF4 = .fin 1000 ∧ Fmt.tp8.value 0xBE = .fin (-1125 / 1000) := by decide +kernel

/-- Table 2.4. -/
theorem test_tp8_roundings :
    [0x3F840000, 0x3F8C0000, 0xBF8C0000, 0x44400000, 0x44FFE000, 0x45000000, 0x3A000000, 0x39000000].map (convert .b32 .tp8) =
      [(0x40, []), (0x42, []), (0xBE, []), (0x7E, []), (0x7E, [.clip]), (0x7F, [.overflow]), (0x02, []), (0x01, [.lift])] := by
  decide +kernel

/-- Table 2.5. -/
theorem test_tp16_roundings :
    [0x3F800400, 0x3F800C00, 0xBF800C00, 0x4CFFFFFF, 0x4D000000, 0x32000000, 0x31000000].map (convert .b32 .tp16) =
      [(0x4000, []), (0x4002, []), (0xBFFE, []), (0x7FFE, [.clip]), (0x7FFF, [.overflow]), (0x0002, []), (0x0001, [.lift])] := by
  decide +kernel

/-- Table 2.6. -/
theorem test_tp32_roundings :
    convert .b32 .tp32 0x71800001 = (0x7FFD0000, []) ∧
    [0x3FF0000002000000, 0x3FF0000006000000, 0xBFF0000006000000, 0x4E7FFFFFFFFFFFFF, 0x4E80000000000000,
      0x30E0000000000000].map (convert .b64 .tp32) =
      [(0x40000000, []), (0x40000002, []), (0xBFFFFFFE, []), (0x7FFFFFFE, [.clip]), (0x7FFFFFFF, [.overflow]),
        (0x00000001, [.lift])] := by decide +kernel

/-- An operation on two TP8 codes with its events. -/
def tp8Op (f : Ext → Ext → Ext × List Ev) (a b : Nat) : Coded :=
  let r := f (Fmt.tp8.value a) (Fmt.tp8.value b)
  ((Fmt.tp8.encode r.1).1, r.2 ++ (Fmt.tp8.encode r.1).2)

/-- Table 2.8. -/
theorem test_tp8_edges :
    tp8Op Ext.mul 0x7E 0x5F = (0x7F, [.overflow]) ∧ tp8Op Ext.mul 0x7E 0x44 = (0x7E, [.clip]) ∧
    tp8Op Ext.mul 0x01 0x01 = (0x01, [.lift]) ∧ tp8Op Ext.add 0x40 0x01 = (0x40, []) ∧
    tp8Op Ext.add 0x7F 0x81 = (0x80, [.invalid]) ∧ tp8Op Ext.mul 0x00 0x7F = (0x80, [.invalid]) ∧
    tp8Op Ext.div 0xBE 0x00 = (0x81, []) := by decide +kernel

/-- Text under Table 2.9. -/
theorem test_tp16_to_tp8 :
    [0x7E01, 0x7E7F, 0x7E80, 0x7FFE, 0x0001, 0x00FF, 0x0180].map (convert .tp16 .tp8) =
      [(0x7E, [.clip]), (0x7E, [.clip]), (0x7F, [.overflow]), (0x7F, [.overflow]), (0x01, [.lift]), (0x01, [.lift]),
        (0x02, [])] := by decide +kernel

/-! ## UQ8: the worked examples of spec/03_quantised_uq8.md -/

/-- Worked example "finding a scale and quantising", Table 3.7. -/
theorem test_quantise :
    findEntry (-3 / 4) 3 (1 / 64) 255 = (0x3F, 50) ∧
    ([1, 3, -3 / 4, 775 / 20480, 32 / 10].map fun (x : Rat) =>
      let o := quantise (.fin x) 0x3F 50 (1 / 64) false 0 true true
      (o.code, o.clips)) = [(0x74, 0), (0xF8, 0), (0x00, 0), (0x34, 0), (0xFF, 1)] ∧
    findEntry (-3 / 4) 3 (1 / 64) 254 = (0x3F, 50) ∧
    (quantise (.fin (32 / 10)) 0x3F 50 (1 / 64) true 4 true true).code = 0xFE := by decide +kernel

/-- Worked example "one giant element". -/
theorem test_giant :
    findEntry (-1) 900 (1 / 64) 255 = (0x7C, 0) ∧ findEntry (-1) 1 (1 / 64) 254 = (0x31, 120) ∧
    (quantise (.fin 900) 0x31 120 (1 / 64) true 16 true true).stray = some 0x7DC2 ∧
    strayQuotient 900 (17 / 2048) = (108424, 0) := by decide +kernel

/-- Worked example "requantising one column". -/
theorem test_requantise :
    requantRecord (17 / 15872) = (1177652323, 40) ∧ requantise 111104 1177652323 40 50 255 = (0xA9, 0) := by decide +kernel

/-! ## W128: the worked example of spec/04_wide_precision.md -/

/-- Table 4.8. -/
theorem test_cancellation :
    w128Add 0 (-32768) (2 ^ 200) = (2 ^ 110, 90) ∧ w128Add (2 ^ 110) 90 1 = (2 ^ 110, 90) ∧
    w128Add (2 ^ 110) 90 (-(2 ^ 200)) = (0, 90) ∧ w128Word 0 90 = 0x5A := by decide +kernel

/-! ## Published examples of the algorithms that spec/11, 14 and 15 name (FIPS 180-4, FIPS 197 C.3, GCM test case 13) -/

theorem test_sha384 : sha384 [0x61, 0x62, 0x63] =
    0xcb00753f45a35e8bb5a03d699ac65007272c32ab0eded1631a8b605a43ff5bed8086072ba1e7cc2358baeca134c825a7 := by decide +kernel

theorem test_aes256 : aesBlock (aesKeys 0x000102030405060708090a0b0c0d0e0f101112131415161718191a1b1c1d1e1f)
    (beBytes 0x00112233445566778899aabbccddeeff 16) = beBytes 0x8ea2b7ca516745bfeafc49904b496089 16 := by decide +kernel

theorem test_gcm : gcmSeal 0 0 [] [] = ([], 0x530f8afbc74536b9a963b4f1c4cb738b) := by decide +kernel

/-! ## Parity, streams, presence and status: worked examples of spec/08, 13, 15 and 20 -/

/-- Worked example "locating the parity of a word". -/
theorem test_parity_place :
    0x23456780 / chunkBytes = 10 ∧ parityOf 32 5 10 = 16 ∧ dataEnd + 0x23456780 % chunkBytes = 0x6CC56780 ∧
    chunkFor 32 16 0 = 15 ∧ chunkFor 32 16 31 = 16 := by decide

/-- The camera on ST3 of worked example "line 341.3 of an HS-2 tick". -/
def camera : StreamRec :=
  { imesk := true, port := 3, band := false, record := false, ipv6 := false, m := 2, pixel := 0x010C0047, width := 4096,
    bandWidth := 4096, lines := 1, payload := 0, linePort := 0, processPort := 0, black := 0, g := 0, core := 0, maxPackets := 0,
    period := 2929688, offset := 20000, base := 0, src := 0, local_ := 0, mac := 0 }

/-- Row limit, buffer size, and B_k with R_k of ticks k and k + 1. -/
theorem test_line_341 :
    camera.rowMax 1000000 = 342 ∧ camera.bufferBytes 1000000 = 2105344 ∧
    camera.baseFor 1000000 5000000 (1740000000000 * 1000000 - 18500) 1740000000000 = (5000000, 341, 1500000) ∧
    camera.baseFor 1000000 5000341 (1740000000000 * 1000000 + 980523) 1740000000001 = (5000341, 342, 523000) := by decide +kernel

/-- The module of `live` with its seal loop open, nothing pressed and no window. -/
def bench : State := { live with trust := { live.trust with pres := { Presence.reset with sealOpen := true } } }

/-- Table 15.9, press 1: stamps 49,800 µs apart open a window; press 2: 50,200 µs do not. -/
theorem test_presses :
    (((bench.bridleOp .a true 0).bridleOp .b true 49800).trust.pres.window.isSome = true) ∧
    (((bench.bridleOp .a true 0).bridleOp .b true 50200).trust.pres.window = none) := by decide +kernel

/-- The bench 55,000 µs after a press of A alone. -/
def latched : State := ({ bench.bridleOp .a true 0 with now := 110000000 } : State).discrepancyOp

/-- Table 15.9, press 2: 55,000 µs after A's press the fault latches, and it clears once both channels are released. -/
theorem test_discrepancy :
    ({ bench.bridleOp .a true 0 with now := 109999999 } : State).discrepancyOp.trust.pres.discrepancy = false ∧
    (latched.trust.pres.discrepancy = true) ∧ (latched.bridleOp .b true 55100).trust.pres.discrepancy = true ∧
    ((latched.bridleOp .b true 55100).bridleOp .a false 3000000).trust.pres.discrepancy = true ∧
    (((latched.bridleOp .b true 55100).bridleOp .a false 3000000).bridleOp .b false 3020000).trust.pres.discrepancy = false := by
  decide +kernel

/-- Worked example "reading a handover notice over I3C". -/
theorem test_core_map_entry :
    ({ Core.reset with mode := .mapped, logical := 17, member := 17, planned := true } : Core).mapEntry = 0x718C0000 := by
  decide +kernel

/-- Worked example "activating a new vision image on HS-2": the switch tick. -/
theorem test_switch_tick :
    ({ live with sec? := some { sect with period := 1000 } } : State).switchAfter 1740000000000 = 1740000004000 := by decide +kernel

end Sys2Proof.Tests
end

/-! The way to tick lock (R22, R24): what TICK_INSTANT and TICK_LOCK_REACHED do to the prediction, the count of ticks and the
lock. -/

namespace Sys2Proof.Machine

/-! ## What the actions of an instant keep of the tick (R11) -/

/-- The tick without the fields that the actions of an instant set. -/
def Tick.course (t : Tick) : Tick :=
  { t with chA := none, chB := none, relock := false, inReserve := false, correction := 0, placed := none
           healthy := false, confirmed := false, drained := false }

/-- Ticks of one course have the same number, instant and standing on the way to tick lock. -/
theorem Tick.eq_of_course {t u : Tick} (h : t.course = u.course) :
    t.number = u.number ∧ t.instant = u.instant ∧ t.predicting = u.predicting ∧ t.agree = u.agree ∧
      t.lock = u.lock ∧ t.holdover = u.holdover := by
  have field {α : Type} (f : Tick → α) : f t.course = f u.course := congrArg f h
  exact ⟨field Tick.number, field Tick.instant, field Tick.predicting, field Tick.agree, field Tick.lock,
    field Tick.holdover⟩

theorem State.tick_of_still {s t : State} (h : t.still = s.still) : t.tick = s.tick :=
  congrArg (fun x => x.2.2) h

theorem State.course_of_still {s t : State} (h : t.still = s.still) : t.tick.course = s.tick.course :=
  congrArg Tick.course (State.tick_of_still h)

theorem State.course_foldl {β : Type} (f : State → β → State) (h : ∀ s b, (f s b).still = s.still) (l : List β)
    (s : State) : (l.foldl f s).tick.course = s.tick.course :=
  State.course_of_still (State.still_foldl f h l s)

theorem State.drainInstant_course (s : State) (even : Bool) : (s.drainInstant even).tick.course = s.tick.course := by
  unfold State.drainInstant
  extract_lets d0 d1 was s1 t1 s2
  have sent : s1.tick.course = s.tick.course :=
    State.course_of_still ((State.sendDrain_still ..).trans (State.sendDrain_still ..))
  refine (State.course_foldl _ (fun u f => ?_) _ s2).trans sent
  dsimp only
  split
  · exact State.onFold_still ..
  · exact (State.record_still ..).trans (State.onFold_still ..)

theorem State.switchSection_course (s : State) (m : ModuleSection) :
    (s.switchSection m).tick.course = s.tick.course := by
  unfold State.switchSection
  split
  · rfl
  · extract_lets hit s1 s2 t2 s3 s4
    have stopped : s1.tick.course = s.tick.course := by
      refine State.course_foldl _ (fun u f => ?_) _ _
      split
      · rfl
      · exact (State.onFold_still ..).trans (State.stopFold_still ..)
    have used : s2.tick.course = s1.tick.course := State.course_of_still (State.useSection_still ..)
    have placed : s3.tick.course = s2.tick.course := by
      unfold s3
      split <;> rfl
    have kept : s3.tick.course = s.tick.course := placed.trans (used.trans stopped)
    split
    · exact (State.course_of_still ((State.advanceMoved_still ..).trans (State.buildMap_still ..))).trans kept
    · exact kept

theorem State.sectionInstant_course (s : State) : s.sectionInstant.tick.course = s.tick.course := by
  have committed (g : TackEntry → TackEntry) : (s.commitEntry moduleEntry g).tick.course = s.tick.course :=
    State.course_of_still (State.commitEntry_still ..)
  unfold State.sectionInstant
  extract_lets e section_ s1
  split
  · exact committed _
  · split
    · split
      · exact (State.switchSection_course ..).trans (committed _)
      · rfl
    · split
      · split
        · exact (State.switchSection_course ..).trans (committed _)
        · exact committed _
      · rfl

theorem State.correct_course (s : State) : s.correct.tick.course = s.tick.course := by
  unfold State.correct
  split
  · dsimp only
    split <;> rfl
  · rfl

/-- What the instant does once it is placed leaves the course of the tick as its placing gave it. -/
theorem State.instantActions_course (s : State) (was : BitVec 48) (healthy relock : Bool) :
    (s.instantActions was healthy relock).tick.course = s.tick.course := by
  unfold State.instantActions
  extract_lets t0 s1 s2 s3 s4 s5 s6 s7 s8 s9 s10 s11 s12 s13 s14 s15 s16 s17 s18 s19
  have h1 : s1.tick.course = s.tick.course := rfl
  have h2 : s2.tick.course = s1.tick.course := by
    unfold s2
    split
    · exact State.course_of_still (State.count_still ..)
    · rfl
  have h4 : s4.tick.course = s2.tick.course := State.course_of_still <|
    (State.handovers_still _).trans <| (State.takeover_still _).trans (State.onSess_still ..)
  have h5 : s5.tick.course = s4.tick.course := State.drainInstant_course ..
  have h6 : s6.tick.course = s5.tick.course := State.course_of_still <|
    (State.substituteInstant_still _).trans <| (State.rejoinInstant_still _).trans (State.retrainInstant_still _)
  have h7 : s7.tick.course = s6.tick.course := State.sectionInstant_course _
  have h9 : s9.tick.course = s7.tick.course :=
    (State.course_foldl _ (fun _ _ => State.foldInstant_still ..) _ _).trans <|
      State.course_of_still (State.copyStarts_still _)
  have h10 : s10.tick.course = s9.tick.course := by simp only [s10]
  have h14 : s14.tick.course = s10.tick.course := State.course_of_still <|
    (State.windowsInstant_still _).trans <| (State.still_foldl _ State.replayInstant_still _ _).trans <|
      (State.rearmInstant_still _).trans (State.spareRuns_still _)
  have h18 : s18.tick.course = s14.tick.course := State.course_of_still <|
    (State.resetTickSamples_still _).trans <| (State.still_foldl _ State.pollMembers_still _ _).trans <|
      (State.supInstant_still _).trans (State.still_foldl _ State.beginFoldTick_still _ _)
  have h19 : s19.tick.course = s18.tick.course := State.correct_course _
  have h : s19.tick.course = s.tick.course := by rw [h19, h18, h14, h10, h9, h7, h6, h5, h4, h2, h1]
  split
  · simpa only using h
  · exact h

/-! ## TICK_INSTANT as a placing and its actions -/

/-- The ticks of the folds end: the section, the power state and the tick of the module stand as they stood. -/
theorem State.ended_frame (s : State) :
    ((List.finRange 32).foldl State.endFoldTick s).sec? = s.sec? ∧
      ((List.finRange 32).foldl State.endFoldTick s).power = s.power ∧
      ((List.finRange 32).foldl State.endFoldTick s).tick = s.tick := by
  refine foldl_keep (fun t => t.sec? = s.sec? ∧ t.power = s.power ∧ t.tick = s.tick) _ (fun t f kept => ?_) _ s
    ⟨rfl, rfl, rfl⟩
  unfold State.endFoldTick
  dsimp only
  split
  · simpa using kept
  · exact kept

/-- The instant is placed on a state `e` with this section, power state and tick. An instant that begins a tick has the
course that its placing gave it; without a tick to begin only the words are gone. -/
theorem State.instantOp_placed (s : State) :
    ∃ e : State, e.sec? = s.sec? ∧ e.power = s.power ∧ e.tick = s.tick ∧
      (∀ n, e.placeInstant = some n → s.instantOp.tick.course = n.tick.course) ∧
      (e.placeInstant = none → s.instantOp = { s with tick := { s.tick with chA := none, chB := none } }) := by
  obtain ⟨hsec, hpower, htick⟩ := State.ended_frame s
  refine ⟨_, hsec, hpower, htick, fun n placed => ?_, fun unplaced => ?_⟩
  · unfold State.instantOp
    simp only [placed]
    exact State.instantActions_course ..
  · unfold State.instantOp
    simp only [unplaced]

/-! ## Words that agree and match (R22) -/

theorem edgesNear_iff (a b n : Nat) : edgesNear a b n = true ↔ a ≤ b + n ∧ b ≤ a + n := by
  simp [edgesNear]

theorem TickWord.agrees_iff (x y : TickWord) : x.agrees y = true ↔ wordsAgree x y := by
  simp [TickWord.agrees, wordsAgree, edgesNear_iff]

theorem State.period_of_section {s : State} {m : ModuleSection} (h : s.sec? = some m) : s.period = 2000 * m.period := by
  simp [State.period, h]

theorem TickWord.fits_iff {s : State} {m : ModuleSection} (h : s.sec? = some m) (x : TickWord) :
    x.fits (s.tick.number + 1) (s.tick.instant + s.period) = true ↔ wordMatches s m x := by
  simp [TickWord.fits, wordMatches, edgesNear_iff, State.period_of_section h]

theorem Tick.agreed_of_wordsAgree {t : Tick} {x y : TickWord} (hx : t.chA = some x) (hy : t.chB = some y)
    (h : wordsAgree x y) : t.agreed = some x := by
  simp [Tick.agreed, hx, hy, (TickWord.agrees_iff x y).2 h]

theorem Tick.agreed_eq_none {t : Tick}
    (h : ∀ x y, t.chA = some x → t.chB = some y → ¬wordsAgree x y) : t.agreed = none := by
  unfold Tick.agreed
  split
  · next x y hx hy => exact if_neg fun agree => h x y hx hy ((TickWord.agrees_iff x y).1 agree)
  · rfl

/-- The first row of Table 1.4 is that of words which agree and both match, and it takes channel A's. -/
theorem judge_of_agree_of_fits {number : BitVec 48} {at_ : Nat} {x y : TickWord} (agree : x.agrees y = true)
    (hx : x.fits number at_ = true) (hy : y.fits number at_ = true) :
    judge number at_ (some x) (some y) = (1, some x) := by
  simp [judge, agree, hx, hy]

theorem agree_and_fit_of_judge {number : BitVec 48} {at_ : Nat} {a b : Option TickWord}
    (h : (judge number at_ a b).1 = 1) :
    ∃ x y, a = some x ∧ b = some y ∧ x.agrees y = true ∧ x.fits number at_ = true ∧ y.fits number at_ = true := by
  unfold judge at h
  split at h
  · simp at h
  · split at h <;> simp at h
  · split at h <;> simp at h
  · next x y =>
    split at h
    · next agree =>
      split at h
      · next fit =>
        obtain ⟨hx, hy⟩ := Bool.and_eq_true_iff.1 fit
        exact ⟨x, y, rfl, rfl, agree, hx, hy⟩
      · simp at h
    · split at h <;> simp at h

/-- The judgement of the coming instant: the words held against the predicted number and cycle. -/
def State.judged (s : State) : Nat × Option TickWord :=
  judge (s.tick.number + 1) (s.tick.instant + s.period) s.tick.chA s.tick.chB

theorem State.judged_of_goodTick {s : State} {m : ModuleSection} (hs : s.sec? = some m) (h : goodTick s m) :
    ∃ x, s.tick.chA = some x ∧ wordMatches s m x ∧ s.judged = (1, some x) := by
  obtain ⟨x, y, hx, hy, agree, matchX, matchY⟩ := h
  refine ⟨x, hx, matchX, ?_⟩
  rw [State.judged, hx, hy]
  exact judge_of_agree_of_fits ((TickWord.agrees_iff x y).2 agree) ((TickWord.fits_iff hs x).2 matchX)
    ((TickWord.fits_iff hs y).2 matchY)

theorem State.goodTick_of_judged {s : State} {m : ModuleSection} (hs : s.sec? = some m) (h : s.judged.1 = 1) :
    goodTick s m := by
  obtain ⟨x, y, hx, hy, agree, fitX, fitY⟩ := agree_and_fit_of_judge h
  exact ⟨x, y, hx, hy, (TickWord.agrees_iff x y).1 agree, (TickWord.fits_iff hs x).1 fitX,
    (TickWord.fits_iff hs y).1 fitY⟩

/-! ## Placing an instant before tick lock (R24) -/

@[simp] theorem State.tickFault_power (s : State) (row : Nat) : (s.tickFault row).power = s.power := by
  unfold State.tickFault
  dsimp only
  split
  · rfl
  · simp

/-- Without a prediction the words on which both channels agree are the starting prediction. -/
theorem State.placeInstant_first {s : State} (hs : s.sec?.isSome = true) (good : s.power.good = true)
    (first : s.tick.predicting = false) :
    s.placeInstant = s.tick.agreed.map fun w => { s with tick := { s.tick.take w with agree := 0, case := 1 } } := by
  unfold State.placeInstant
  cases h : s.tick.agreed <;> simp [Option.isSome_iff_ne_none.1 hs, good, first, h]

/-- What TICK_INSTANT places on a prediction before tick lock. -/
def Tick.seek (t : Tick) (at_ : Nat) (j : Nat × Option TickWord) : Tick :=
  match j.2, t.agreed with
  | some w, _ => { t.take w with agree := if j.1 = 1 then t.agree + 1 else 0, case := j.1 }
  | none, some w => { t.take w with agree := 0, case := j.1 }
  | none, none => { t.hold at_ with agree := 0, case := j.1, predicting := false }

theorem State.placeInstant_seeking {s : State} (hs : s.sec?.isSome = true) (good : s.power.good = true)
    (predicting : s.tick.predicting = true) (lock : s.tick.lock = false) (holdover : s.tick.holdover = false)
    (relock : s.tick.relock = false) (expired : s.power.refExpired = false) :
    ∃ n, s.placeInstant = some n ∧ n.tick = s.tick.seek (s.tick.instant + s.period) s.judged := by
  unfold State.placeInstant
  extract_lets t at_ fresh j u agree held
  have section_ : ¬(s.sec?.isNone = true ∨ (!s.power.good) = true) := by
    simp [Option.isSome_iff_ne_none.1 hs, good]
  have notFirst : ¬(!t.predicting) = true := by simp [t, predicting]
  have noRelock : ¬(t.relock && t.agreed.isSome) = true := by simp [t, relock]
  have notExpired : ¬u.power.refExpired = true := by simp [u, expired]
  have seeking : ¬(t.lock || t.holdover) = true := by simp [t, lock, holdover]
  rw [if_neg section_, if_neg notFirst, if_neg noRelock, if_neg notExpired, if_neg seeking, show s.judged = j from rfl]
  unfold Tick.seek
  cases j.2 with
  | some w => exact ⟨_, rfl, rfl⟩
  | none =>
    simp only [t]
    cases s.tick.agreed with
    | some w => exact ⟨_, rfl, rfl⟩
    | none => exact ⟨_, rfl, rfl⟩

/-- A tick placed before tick lock leaves lock and holdover as they stand. -/
theorem Tick.seek_lock (t : Tick) (at_ : Nat) (j : Nat × Option TickWord) :
    (t.seek at_ j).lock = t.lock ∧ (t.seek at_ j).holdover = t.holdover := by
  unfold Tick.seek
  split <;> exact ⟨rfl, rfl⟩

/-- Before tick lock only the first row of Table 1.4 counts a tick. -/
theorem Tick.seek_agree_of_ne_one (t : Tick) (at_ : Nat) {j : Nat × Option TickWord} (h : j.1 ≠ 1) :
    (t.seek at_ j).agree = 0 := by
  unfold Tick.seek
  split
  · exact if_neg h
  · rfl
  · rfl

/-! ## TICK_LOCK_REACHED -/

theorem State.tickLockOp_of_not_reached {s : State} (h : s.tick.agree < 16) : s.tickLockOp = s := by
  unfold State.tickLockOp
  refine if_neg fun ⟨_, _, _, reached, _⟩ => ?_
  exact absurd reached (Nat.not_le.2 h)

theorem State.tickLockOp_of_reached {s : State} (present : s.power.refLost = none) (expired : s.power.refExpired = false)
    (predicting : s.tick.predicting = true) (lock : s.tick.lock = false) (holdover : s.tick.holdover = false)
    (reached : 16 ≤ s.tick.agree) :
    s.tickLockOp.tick.lock = true ∧ s.tickLockOp = { s with
      tick := { s.tick with lock := true, loop := s.tickLockOp.tick.loop }, store := s.tickLockOp.store } := by
  unfold State.tickLockOp
  extract_lets t loop u past
  rw [if_pos ⟨predicting, by simp [t, lock], by simp [t, holdover], reached, by simp [expired], by simp [present]⟩]
  split
  · exact ⟨rfl, rfl⟩
  · exact ⟨rfl, rfl⟩

/-! ## The way to tick lock -/

/-- TICK_INSTANT before the starting prediction takes the words on which both channels agree; without them only the words
held are gone. -/
theorem State.instantOp_first {s : State} (hs : s.sec?.isSome = true) (good : s.power.good = true)
    (first : s.tick.predicting = false) :
    (∀ w, s.tick.agreed = some w →
      s.instantOp.tick.course = ({ s.tick.take w with agree := 0, case := 1 } : Tick).course) ∧
    (s.tick.agreed = none → s.instantOp = { s with tick := { s.tick with chA := none, chB := none } }) := by
  obtain ⟨e, hsec, hpower, htick, begun, unplaced⟩ := s.instantOp_placed
  rw [← hsec] at hs
  rw [← hpower] at good
  have placed := State.placeInstant_first hs good (htick ▸ first)
  rw [htick] at placed
  refine ⟨fun w agreed => ?_, fun agreed => ?_⟩
  · rw [agreed] at placed
    exact begun _ placed
  · rw [agreed] at placed
    exact unplaced placed

/-- TICK_INSTANT on a prediction before tick lock. -/
theorem State.instantOp_seeking {s : State} (hs : s.sec?.isSome = true) (good : s.power.good = true)
    (predicting : s.tick.predicting = true) (lock : s.tick.lock = false) (holdover : s.tick.holdover = false)
    (relock : s.tick.relock = false) (expired : s.power.refExpired = false) :
    s.instantOp.tick.course = (s.tick.seek (s.tick.instant + s.period) s.judged).course := by
  obtain ⟨e, hsec, hpower, htick, begun, -⟩ := s.instantOp_placed
  have hperiod : e.period = s.period := by simp only [State.period, hsec]
  have hjudged : e.judged = s.judged := by simp only [State.judged, hperiod, htick]
  rw [← hsec] at hs
  rw [← hpower] at good expired
  rw [← hperiod, ← hjudged]
  rw [← htick] at predicting lock holdover relock ⊢
  obtain ⟨n, placed, hn⟩ := State.placeInstant_seeking hs good predicting lock holdover relock expired
  rw [begun n placed, hn]

theorem exec_tickInstant (s : State) : exec .tickInstant s = .next s.instantOp := rfl

theorem exec_tickLockReached (s : State) : exec .tickLockReached s = .next s.tickLockOp := rfl

/-- Settles O9: the actions of an instant leave the course of its tick, so each clause is what the placing of the instant
gives, and the first row of Table 1.4 is that of the ticks that agree and match. -/
theorem tickLockIsReached : Obligations.TickLockIsReached := by
  unfold Obligations.TickLockIsReached
  simp only [exec_tickInstant, exec_tickLockReached]
  refine ⟨fun s m hs good first => ?_,
    fun s m hs good predicting lock holdover relock expired => ?_,
    fun s present expired predicting lock holdover => ⟨fun few => ?_, fun reached => ?_⟩⟩
  · obtain ⟨heard, nothingHeard⟩ := State.instantOp_first (Option.isSome_of_eq_some hs) good first
    refine ⟨fun x y hx hy agree => ?_, fun unheard => ?_⟩
    · obtain ⟨number, instant, predicts, count, locks, holds⟩ :=
        Tick.eq_of_course (heard x (Tick.agreed_of_wordsAgree hx hy agree))
      exact ⟨_, rfl, predicts, number, instant, count, locks, holds⟩
    · exact congrArg Host.Outcome.next (nothingHeard (Tick.agreed_eq_none unheard))
  · obtain ⟨number, instant, predicts, count, locks, holds⟩ := Tick.eq_of_course <|
      State.instantOp_seeking (Option.isSome_of_eq_some hs) good predicting lock holdover relock expired
    obtain ⟨seekLock, seekHoldover⟩ := s.tick.seek_lock (s.tick.instant + s.period) s.judged
    refine ⟨_, rfl, locks.trans (seekLock.trans lock), holds.trans (seekHoldover.trans holdover),
      fun isGood => ?_, fun notGood => ?_⟩
    · obtain ⟨x, hx, ⟨next, -⟩, judged⟩ := State.judged_of_goodTick hs isGood
      rw [judged] at number instant predicts count
      refine ⟨count, number.trans next, predicts, fun w hw => ?_⟩
      cases hx.symm.trans hw
      exact instant
    · exact count.trans (Tick.seek_agree_of_ne_one _ _ fun one => notGood (State.goodTick_of_judged hs one))
  · exact congrArg Host.Outcome.next (State.tickLockOp_of_not_reached few)
  · obtain ⟨locked, kept⟩ := State.tickLockOp_of_reached present expired predicting lock holdover reached
    exact ⟨_, rfl, locked, kept⟩

end Sys2Proof.Machine

/-! Tapered formats keep their range (R41 to R43): where an exact magnitude stands among the codes of a format before it
is rounded, and what the code of a value inside and outside that range is. -/

namespace Sys2Proof.Machine

/-! ## Exact values -/

theorem twoPow_eq_zpow (e : Int) : twoPow e = 2 ^ e := by
  unfold twoPow
  split
  · next h =>
    lift e to Nat using h
    simp [Rat.mkRat_eq_div]
  · next h =>
    obtain ⟨m, rfl⟩ : ∃ m : Nat, e = -m := ⟨(-e).toNat, by omega⟩
    simp [Rat.mkRat_eq_div]

theorem absQ_eq_abs (q : Rat) : absQ q = |q| := by
  unfold absQ
  split
  · next h => exact (abs_of_neg h).symm
  · next h => exact (abs_of_nonneg (not_lt.1 h)).symm

theorem natCast_log2_bounds {m : Nat} (h : m ≠ 0) :
    (2 : Rat) ^ (Nat.log2 m : Int) ≤ m ∧ (m : Rat) < 2 ^ ((Nat.log2 m : Int) + 1) := by
  have low := Nat.log2_self_le h
  have high := Nat.lt_log2_self (n := m)
  constructor
  · exact_mod_cast low
  · exact_mod_cast high

/-- The quotient of two numbers lies in the binade of their logarithms' difference or in the one under it. -/
theorem natCast_div_log2_bounds {a b : Nat} (ha : a ≠ 0) (hb : b ≠ 0) :
    (2 : Rat) ^ ((Nat.log2 a : Int) - Nat.log2 b - 1) ≤ a / b ∧
      (a : Rat) / b < 2 ^ ((Nat.log2 a : Int) - Nat.log2 b + 1) := by
  obtain ⟨aLow, aHigh⟩ := natCast_log2_bounds ha
  obtain ⟨bLow, bHigh⟩ := natCast_log2_bounds hb
  have hb' : (0 : Rat) < b := by positivity
  constructor
  · rw [sub_sub, zpow_sub₀ two_ne_zero]
    gcongr
  · rw [sub_add_eq_add_sub, zpow_sub₀ two_ne_zero]
    exact div_lt_div₀ aHigh bLow (by positivity) (by positivity)

/-- floorLog2 is the exponent of the binade of a positive number. -/
theorem floorLog2_bounds {x : Rat} (h : 0 < x) :
    (2 : Rat) ^ floorLog2 x ≤ x ∧ x < 2 ^ (floorLog2 x + 1) := by
  have hx : (x.num.natAbs : Rat) / x.den = x := by
    rw [Nat.cast_natAbs, abs_of_pos (Rat.num_pos.2 h), Rat.num_div_den]
  obtain ⟨below, above⟩ := natCast_div_log2_bounds (Int.natAbs_ne_zero.2 (Rat.num_pos.2 h).ne') x.den_nz
  rw [hx] at below above
  unfold floorLog2
  extract_lets s
  rw [twoPow_eq_zpow]
  split
  · next h => exact ⟨h, above⟩
  · next h => exact ⟨below, by simpa using h⟩

theorem floorLog2_two_zpow (e : Int) : floorLog2 (2 ^ e) = e := by
  obtain ⟨low, high⟩ := floorLog2_bounds (zpow_pos two_pos e)
  have := (zpow_le_zpow_iff_right₀ one_lt_two).1 low
  have := (zpow_lt_zpow_iff_right₀ one_lt_two).1 high
  omega

theorem roundEven_eq_floor_or (q : Rat) : roundEven q = q.floor ∨ (roundEven q = q.floor + 1 ∧ (q.floor : Rat) < q) := by
  unfold roundEven
  extract_lets f d
  split
  · exact .inl rfl
  · next h =>
    have : (f : Rat) < q := by simp only [d] at h; linarith
    grind

theorem le_roundEven {m : Int} {q : Rat} (h : m ≤ q) : m ≤ roundEven q := by
  have : m ≤ q.floor := Rat.le_floor_iff.2 h
  rcases roundEven_eq_floor_or q with e | ⟨e, -⟩ <;> omega

theorem roundEven_le {m : Int} {q : Rat} (h : q ≤ m) : roundEven q ≤ m := by
  have floor_le : (q.floor : Rat) ≤ q := Rat.floor_le q
  rcases roundEven_eq_floor_or q with e | ⟨e, between⟩
  · rw [e]
    exact_mod_cast floor_le.trans h
  · rw [e]
    exact_mod_cast between.trans_le h

/-! ## Places among the codes (R41) -/

theorem le_mul_and_mul_le_two_mul {a u : Rat} (hu : 0 ≤ u) (one_le : 1 ≤ a) (le_two : a ≤ 2) :
    u ≤ a * u ∧ a * u ≤ 2 * u :=
  ⟨le_mul_of_one_le_left hu one_le, mul_le_mul_of_nonneg_right le_two hu⟩

/-- The part of the way from its regime's first code to the next regime's that exponent and fraction of a value take. -/
def tpTail (x : Rat) (es : Nat) : Rat :=
  ((floorLog2 x % 2 ^ es : Int) + (x / 2 ^ floorLog2 x - 1)) / 2 ^ es

/-- The regime k of a magnitude (R39). -/
def tpRegime (x : Rat) (es : Nat) : Int := floorLog2 x / 2 ^ es

/-- The place of a magnitude among the codes, of which its code is the nearest: a regime of ones lies under the code
2^(n−1), a regime of zeros above the code 0, and each is half as long as the one nearer 1. -/
def tpPlace (x : Rat) (n es : Nat) : Rat :=
  if 0 ≤ tpRegime x es then 2 ^ (n - 1) - (2 - tpTail x es) * 2 ^ ((n : Int) - 3 - tpRegime x es)
  else (1 + tpTail x es) * 2 ^ ((n : Int) - 2 + tpRegime x es)

theorem tpTail_bounds {x : Rat} (h : 0 < x) (es : Nat) : 0 ≤ tpTail x es ∧ tpTail x es < 1 := by
  obtain ⟨low, high⟩ := floorLog2_bounds h
  have pos : (0 : Rat) < 2 ^ floorLog2 x := by positivity
  have one_le : 1 ≤ x / 2 ^ floorLog2 x := (one_le_div pos).2 low
  have lt_two : x / 2 ^ floorLog2 x < 2 := by
    rw [div_lt_iff₀ pos, mul_comm, ← zpow_add_one₀ two_ne_zero]
    exact high
  have modulus : (0 : Int) < 2 ^ es := by positivity
  have rest_nonneg : (0 : Rat) ≤ (floorLog2 x % 2 ^ es : Int) := by
    exact_mod_cast Int.emod_nonneg _ modulus.ne'
  have rest_lt : ((floorLog2 x % 2 ^ es : Int) : Rat) + 1 ≤ 2 ^ es := by
    exact_mod_cast Int.emod_lt_of_pos _ modulus
  unfold tpTail
  constructor
  · have : 0 ≤ x / 2 ^ floorLog2 x - 1 := by linarith
    positivity
  · rw [div_lt_one (by positivity)]
    linarith

/-- The bits of a regime with its terminator as a number (R41). -/
def tpRegimeBits (k : Int) : Nat := if 0 ≤ k then (2 ^ (k.toNat + 1) - 1) * 2 else 1

/-- The length of a regime with its terminator (R39). -/
def tpRegimeLength (k : Int) : Nat := if 0 ≤ k then k.toNat + 2 else (-k).toNat + 1

theorem tpRegimeBits_of_nonneg {k : Int} (h : 0 ≤ k) : (tpRegimeBits k : Rat) = 2 ^ (k + 2) - 2 := by
  lift k to Nat using h
  rw [tpRegimeBits, if_pos (Int.natCast_nonneg k), Int.toNat_natCast, zpow_add₀ two_ne_zero, zpow_natCast]
  push_cast [Nat.one_le_two_pow]
  ring

/-- The place as R41 has it: the bit string of the regime and of what follows it, cut after n − 1 bits. -/
theorem tpPlace_eq_bitString (x : Rat) {n : Nat} (hn : 1 ≤ n) (es : Nat) :
    (tpRegimeBits (tpRegime x es) + tpTail x es) * 2 ^ ((n : Int) - 1 - tpRegimeLength (tpRegime x es)) =
      tpPlace x n es := by
  unfold tpPlace
  generalize tpRegime x es = k
  split
  · next ones =>
    have length_eq : (n : Int) - 1 - tpRegimeLength k = n - 3 - k := by
      rw [tpRegimeLength, if_pos ones]
      omega
    have top : (2 : Rat) ^ (n - 1) = 2 ^ (k + 2) * 2 ^ ((n : Int) - 3 - k) := by
      rw [← zpow_add₀ two_ne_zero, ← zpow_natCast]
      congr 1
      omega
    rw [length_eq, tpRegimeBits_of_nonneg ones, top]
    ring
  · next zeros =>
    have length_eq : (n : Int) - 1 - tpRegimeLength k = n - 2 + k := by
      rw [tpRegimeLength, if_neg zeros]
      omega
    rw [length_eq, tpRegimeBits, if_neg zeros, Nat.cast_one]

/-- Within the range of the format encode rounds the place of the magnitude. -/
theorem tpEncodePos_eq_round {x : Rat} {n es : Nat} (hn : 1 ≤ n) (h : 0 < x) (low : tpMin n es ≤ x)
    (high : x ≤ tpMax n es) : tpEncodePos x n es = ((roundEven (tpPlace x n es)).toNat, []) := by
  have below : ¬tpMax n es < x := not_lt.2 high
  have far : ¬2 * tpMax n es ≤ x := by linarith
  unfold tpEncodePos
  rw [if_neg far, if_neg below, if_neg (not_lt.2 low)]
  extract_lets s k e f regime len head
  have exponent : (e : Rat) = (s % 2 ^ es : Int) := by
    exact_mod_cast Int.toNat_of_nonneg (Int.emod_nonneg s (b := 2 ^ es) (by positivity))
  have tail : (e : Rat) + f = tpTail x es * 2 ^ es := by
    rw [exponent]
    simp [tpTail, f, s, twoPow_eq_zpow]
  have bits : ((head : Nat) : Rat) + f = (tpRegimeBits k + tpTail x es) * 2 ^ es := by
    rw [add_mul, ← tail, ← add_assoc]
    simp [head, regime, tpRegimeBits]
  have length : (es : Int) + (n - 1 - len) = n - 1 - tpRegimeLength k := by
    simp only [len, tpRegimeLength]
    omega
  rw [bits, twoPow_eq_zpow, mul_assoc, ← zpow_natCast 2 es, ← zpow_add₀ two_ne_zero, length,
    show k = tpRegime x es from rfl, tpPlace_eq_bitString x hn es]

/-! ## The sign of a value (R41) -/

@[simp] theorem tpEncode_zero (n es : Nat) : tpEncode (.fin 0) n es = (0, []) := by
  simp [tpEncode]

theorem tpEncode_of_pos {q : Rat} (h : 0 < q) (n es : Nat) : tpEncode (.fin q) n es = tpEncodePos q n es := by
  simp [tpEncode, h.ne', h.not_gt]

theorem tpEncode_of_neg {q : Rat} (h : q < 0) (n es : Nat) :
    tpEncode (.fin q) n es = ((2 ^ n - (tpEncodePos (-q) n es).1) % 2 ^ n, (tpEncodePos (-q) n es).2) := by
  simp [tpEncode, h.ne, h]

/-! ## A format's range (Table 2.1) -/

/-- A row of Table 2.1: M = 2^big and the smallest positive value 2^small, the ends of the regimes n − 3 and 2 − n. -/
structure TaperedRow (n es : Nat) (big small : Int) : Prop where
  bits : 3 ≤ n
  big_eq : big = (n - 3) * 2 ^ es
  small_eq : small = (2 - n) * 2 ^ es
  max_eq : tpMax n es = 2 ^ big
  min_eq : tpMin n es = 2 ^ small

theorem taperedRow_tp8 : TaperedRow 8 1 10 (-12) where
  bits := by decide
  big_eq := by decide
  small_eq := by decide
  max_eq := by decide +kernel
  min_eq := by decide +kernel

theorem taperedRow_tp16 : TaperedRow 16 1 26 (-28) where
  bits := by decide
  big_eq := by decide
  small_eq := by decide
  max_eq := by decide +kernel
  min_eq := by decide +kernel

theorem taperedRow_tp32 : TaperedRow 32 3 232 (-240) where
  bits := by decide
  big_eq := by decide
  small_eq := by decide
  max_eq := by decide +kernel
  min_eq := by decide +kernel

section
variable {n es : Nat} {big small : Int} (row : TaperedRow n es big small)
include row

theorem TaperedRow.min_le_max : (2 : Rat) ^ small ≤ 2 ^ big := by
  have hn := row.bits
  have : small ≤ big := by
    rw [row.small_eq, row.big_eq]
    exact mul_le_mul_of_nonneg_right (by omega) (by positivity)
  exact zpow_le_zpow_right₀ one_le_two this

/-- The magnitudes of the range below M have the regimes 2 − n to n − 4. -/
theorem TaperedRow.regime_bounds {x : Rat} (h : 0 < x) (low : 2 ^ small ≤ x) (high : x < 2 ^ big) :
    (2 : Int) - n ≤ tpRegime x es ∧ tpRegime x es < n - 3 := by
  obtain ⟨le_x, x_lt⟩ := floorLog2_bounds h
  have modulus : (0 : Int) < 2 ^ es := by positivity
  have small_lt : small < floorLog2 x + 1 := (zpow_lt_zpow_iff_right₀ one_lt_two).1 (low.trans_lt x_lt)
  have lt_big : floorLog2 x < big := (zpow_lt_zpow_iff_right₀ one_lt_two).1 (le_x.trans_lt high)
  rw [row.small_eq] at small_lt
  rw [row.big_eq] at lt_big
  exact ⟨Int.le_ediv_of_mul_le modulus (by omega), Int.ediv_lt_of_lt_mul modulus lt_big⟩

/-- The place of M is its code, the last one before +∞. -/
theorem TaperedRow.place_max : tpPlace (2 ^ big) n es = 2 ^ (n - 1) - 2 := by
  have hn := row.bits
  have modulus : (2 : Int) ^ es ≠ 0 := by positivity
  have regime : tpRegime (2 ^ big) es = n - 3 := by
    rw [tpRegime, floorLog2_two_zpow, row.big_eq, Int.mul_ediv_cancel _ modulus]
  have tail : tpTail (2 ^ big) es = 0 := by
    have whole : big % 2 ^ es = 0 := by rw [row.big_eq, Int.mul_emod_left]
    rw [tpTail, floorLog2_two_zpow, whole, div_self (by positivity)]
    simp
  rw [tpPlace, regime, tail, if_pos (by omega)]
  simp

/-- Every magnitude of the range has its place between the code 1 and the code of M. -/
theorem TaperedRow.place_bounds {x : Rat} (h : 0 < x) (low : 2 ^ small ≤ x) (high : x ≤ 2 ^ big) :
    1 ≤ tpPlace x n es ∧ tpPlace x n es ≤ 2 ^ (n - 1) - 2 := by
  have hn := row.bits
  have middle : (2 : Rat) ^ (n - 1) = 2 * 2 ^ (n - 2) := by
    rw [← pow_succ']
    congr 1
    omega
  have middle_ge : (2 : Rat) ≤ 2 ^ (n - 2) := le_self_pow₀ one_le_two (by omega)
  rcases high.eq_or_lt with rfl | high
  · rw [row.place_max]
    constructor <;> linarith
  · obtain ⟨regime_ge, regime_lt⟩ := row.regime_bounds h low high
    obtain ⟨tail_nonneg, tail_lt⟩ := tpTail_bounds h es
    unfold tpPlace
    split
    · next ones =>
      have unit_ge : (2 : Rat) ≤ 2 ^ ((n : Int) - 3 - tpRegime x es) := by
        simpa using zpow_le_zpow_right₀ (one_le_two (α := Rat)) (show (1 : Int) ≤ n - 3 - tpRegime x es by omega)
      have unit_le : (2 : Rat) * 2 ^ ((n : Int) - 3 - tpRegime x es) ≤ 2 ^ (n - 2) := by
        rw [← zpow_one_add₀ two_ne_zero, ← zpow_natCast]
        exact zpow_le_zpow_right₀ one_le_two (by omega)
      obtain ⟨one_unit, two_units⟩ :=
        le_mul_and_mul_le_two_mul (a := 2 - tpTail x es) (zero_le_two.trans unit_ge) (by linarith) (by linarith)
      constructor <;> linarith
    · next zeros =>
      have unit_ge : (1 : Rat) ≤ 2 ^ ((n : Int) - 2 + tpRegime x es) := one_le_zpow₀ one_le_two (by omega)
      have unit_le : (2 : Rat) * 2 ^ ((n : Int) - 2 + tpRegime x es) ≤ 2 ^ (n - 2) := by
        rw [← zpow_one_add₀ two_ne_zero, ← zpow_natCast]
        exact zpow_le_zpow_right₀ one_le_two (by omega)
      obtain ⟨one_unit, two_units⟩ :=
        le_mul_and_mul_le_two_mul (a := 1 + tpTail x es) (zero_le_one.trans unit_ge) (by linarith) (by linarith)
      constructor <;> linarith

theorem TaperedRow.encode_in_range {x : Rat} (h : 0 < x) (low : 2 ^ small ≤ x) (high : x ≤ 2 ^ big) :
    tpEncodePos x n es = ((roundEven (tpPlace x n es)).toNat, []) :=
  tpEncodePos_eq_round (by have := row.bits; omega) h (row.min_eq ▸ low) (row.max_eq ▸ high)

theorem TaperedRow.encode_max : tpEncodePos (2 ^ big) n es = (2 ^ (n - 1) - 2, []) := by
  have hn := row.bits
  have two_le : 2 ≤ 2 ^ (n - 1) := le_self_pow₀ one_le_two (by omega)
  have whole : (2 : Rat) ^ (n - 1) - 2 = ((2 ^ (n - 1) - 2 : Nat) : Int) := by
    push_cast [two_le]
    rfl
  rw [row.encode_in_range (by positivity) row.min_le_max le_rfl, row.place_max, whole,
    le_antisymm (roundEven_le le_rfl) (le_roundEven le_rfl), Int.toNat_natCast]

/-- Rounding within the range reaches neither zero nor infinity. -/
theorem TaperedRow.encode_in_range_bounds {x : Rat} (h : 0 < x) (low : 2 ^ small ≤ x) (high : x ≤ 2 ^ big) :
    1 ≤ (tpEncodePos x n es).1 ∧ (tpEncodePos x n es).1 ≤ 2 ^ (n - 1) - 2 := by
  obtain ⟨one_le, le_max⟩ := row.place_bounds h low high
  rw [row.encode_in_range h low high]
  have lower : (1 : Int) ≤ roundEven (tpPlace x n es) := le_roundEven (by exact_mod_cast one_le)
  have upper : roundEven (tpPlace x n es) ≤ ((2 ^ (n - 1) : Nat) : Int) - 2 := roundEven_le (by exact_mod_cast le_max)
  dsimp only
  omega

theorem TaperedRow.encode_lift {x : Rat} (h : x < 2 ^ small) : tpEncodePos x n es = (1, [.lift]) := by
  have below := h.trans_le row.min_le_max
  have pos : (0 : Rat) < 2 ^ big := by positivity
  rw [← row.max_eq] at below pos
  rw [← row.min_eq] at h
  rw [tpEncodePos, if_neg (by linarith), if_neg below.not_gt, if_pos h]

theorem TaperedRow.encode_clip {x : Rat} (above : 2 ^ big < x) (h : x < 2 * 2 ^ big) :
    tpEncodePos x n es = (2 ^ (n - 1) - 2, [.clip]) := by
  rw [← row.max_eq] at above h
  rw [tpEncodePos, if_neg (not_le.2 h), if_pos above]

theorem TaperedRow.encode_overflow {x : Rat} (h : 2 * 2 ^ big ≤ x) :
    tpEncodePos x n es = (2 ^ (n - 1) - 1, [.overflow]) := by
  rw [← row.max_eq] at h
  rw [tpEncodePos, if_pos h]

/-- Every magnitude above zero has a code between 1 and that of +∞. -/
theorem TaperedRow.encodePos_bounds {x : Rat} (h : 0 < x) :
    1 ≤ (tpEncodePos x n es).1 ∧ (tpEncodePos x n es).1 ≤ 2 ^ (n - 1) - 1 := by
  have hn := row.bits
  have four_le : 2 ^ 2 ≤ 2 ^ (n - 1) := Nat.pow_le_pow_right two_pos (by omega)
  rcases lt_or_ge x (2 ^ small) with low | low
  · rw [row.encode_lift low]
    dsimp only
    omega
  rcases le_or_gt x (2 ^ big) with high | high
  · have := row.encode_in_range_bounds h low high
    omega
  rcases lt_or_ge x (2 * 2 ^ big) with far | far
  · rw [row.encode_clip high far]
    dsimp only
    omega
  · rw [row.encode_overflow far]
    dsimp only
    omega

/-- The code of a nonzero value is that of its magnitude, taken from 2^n for a negative one (R41). -/
theorem TaperedRow.encode_fin {q : Rat} (h : q ≠ 0) :
    tpEncode (.fin q) n es =
      (if q < 0 then 2 ^ n - (tpEncodePos |q| n es).1 else (tpEncodePos |q| n es).1, (tpEncodePos |q| n es).2) := by
  obtain ⟨one_le, -⟩ := row.encodePos_bounds (abs_pos.2 h)
  rcases h.lt_or_gt with neg | pos
  · rw [abs_of_neg neg] at one_le ⊢
    have := Nat.two_pow_pos n
    rw [tpEncode_of_neg neg, if_pos neg, Nat.mod_eq_of_lt (by omega)]
  · rw [tpEncode_of_pos pos, if_neg pos.not_gt, abs_of_pos pos]

end

/-- Encoding in a format of Table 2.1 is encode with the parameters of its row. -/
theorem Fmt.encode_tapered {f : Fmt} {n : Nat} {big small : Int}
    (h : (f, n, big, small) ∈ [(Fmt.tp8, 8, 10, -12), (.tp16, 16, 26, -28), (.tp32, 32, 232, -240)]) :
    ∃ es, TaperedRow n es big small ∧ ∀ x z, f.encode x z = tpEncode x n es := by
  simp only [List.mem_cons, Prod.mk.injEq, List.not_mem_nil, or_false] at h
  obtain ⟨rfl, rfl, rfl, rfl⟩ | ⟨rfl, rfl, rfl, rfl⟩ | ⟨rfl, rfl, rfl, rfl⟩ := h
  · exact ⟨1, taperedRow_tp8, fun _ _ => rfl⟩
  · exact ⟨1, taperedRow_tp16, fun _ _ => rfl⟩
  · exact ⟨3, taperedRow_tp32, fun _ _ => rfl⟩

/-- Settles O15: every magnitude of the range has its place between the code 1 and the code of M, so rounding it to a
code leaves neither end, and the tests of encode before it give the clauses outside the range. -/
theorem taperedRangeIsKept : Obligations.TaperedRangeIsKept := by
  unfold Obligations.TaperedRangeIsKept
  intro f n big small hf q z
  obtain ⟨es, row, encode_eq⟩ := Fmt.encode_tapered hf
  have hn := row.bits
  have double : 2 ^ n = 2 * 2 ^ (n - 1) := by rw [← pow_succ', Nat.sub_add_cancel (by omega)]
  have four_le : 2 ^ 2 ≤ 2 ^ (n - 1) := Nat.pow_le_pow_right two_pos (by omega)
  have big_pos : (0 : Rat) < 2 ^ big := by positivity
  have small_pos : (0 : Rat) < 2 ^ small := by positivity
  have nonzero {a : Rat} (ha : 0 < a) (h : a ≤ |q|) : q ≠ 0 := abs_pos.1 (ha.trans_le h)
  simp only [encode_eq, absQ_eq_abs, twoPow_eq_zpow]
  refine ⟨fun zero => ?_, fun h => ?_, fun pos low => ?_, fun low high => ?_, fun max => ?_, fun above near => ?_,
    fun far => ?_⟩
  · rw [zero, tpEncode_zero]
  · have := row.encodePos_bounds (abs_pos.2 h)
    rw [row.encode_fin h]
    dsimp only
    split <;> omega
  · rw [row.encode_fin (abs_pos.1 pos), row.encode_lift low]
  · have h := nonzero small_pos low
    rw [row.encode_fin h, row.encode_in_range (abs_pos.2 h) low high]
  · rw [row.encode_fin (nonzero big_pos max.ge), max, row.encode_max]
    dsimp only
    split <;> omega
  · rw [row.encode_fin (nonzero big_pos above.le), row.encode_clip above near]
    dsimp only
    congr 2
    omega
  · rw [row.encode_fin (nonzero (by positivity) far), row.encode_overflow far]
    dsimp only
    congr 2
    omega

end Sys2Proof.Machine


/-! What every command leaves alone: the inversion of exec once for all commands, and with it the claims about the queue, the
clock, the grade, presence windows and tick lock. -/

namespace Sys2Proof.Machine

/-! ## What a command answers -/

/-- The commands that can change presence, or the lock and holdover of the tick: the tick commands of R11, R23 and R24, those
that end in a loss of power (R387, R402), and those of chapter 15. -/
def movesPresenceOrLock : Instr → Bool
  | .tickInstant | .holdoverLeft | .tickLockReached | .refclkHoldoverExpired | .inputUndervoltage .. | .inputOvervoltage ..
  | .temperatureSample .. | .junctionTrip .. | .bridleChangeConfirmed .. | .discrepancyTimeout | .sealLoopChange ..
  | .tackLockConfirmed .. | .windowExpiry | .presenceNotice .. | .presenceCloseNotice .. => true
  | _ => false

/-- A command answers a next state, leaves what no command changes, and presence, number, instant, lock and holdover unless it is
one of those that move them. -/
inductive Answers (c : Instr) (s : State) : Prop
  | next (t : State) (runs : exec c s = .next t) (keeps : t.keep = s.keep) (fixes : movesPresenceOrLock c = false → t.fixed = s.fixed)

theorem answers_of_fixed {c : Instr} {s t : State} (h : t.fixed = s.fixed) (e : exec c s = .next t := by rfl) :
    Answers c s := ⟨t, e, State.keep_of h, fun _ => h⟩

theorem answers_of_still {c : Instr} {s t : State} (h : t.still = s.still) (e : exec c s = .next t := by rfl) :
    Answers c s := answers_of_fixed (State.fixed_of_still h) e

theorem State.cancelOp_still (s : State) (f : FoldNo) : (s.cancelOp f).still = s.still := by
  unfold State.cancelOp
  split
  · exact State.cancelFold_still ..
  · rfl

/-- Every command of the table, by the frame of its operation. -/
theorem answers : ∀ (c : Instr) (s : State), Answers c s := fun c s => match c with
  | .tickWordReceived .. => answers_of_fixed (State.wordOp_fixed ..)
  | .tickInstant => ⟨_, rfl, State.instantOp_keep .., nofun⟩
  | .holdoverLeft => ⟨_, rfl, State.holdoverLeftOp_keep .., nofun⟩
  | .tickLockReached => ⟨_, rfl, State.tickLockOp_keep .., nofun⟩
  | .tickOutSend => answers_of_fixed (State.tickOutOp_fixed ..)
  | .reserveStart .. => answers_of_fixed (State.reserveOp_fixed ..)
  | .shareBoundary .. => answers_of_still (State.shareBoundaryOp_still ..)
  | .heartbeatToggle => answers_of_fixed (State.heartbeatOp_fixed ..)
  | .telemetrySend => answers_of_still (State.telemetryOp_still ..)
  | .replayExportFrame .. => answers_of_still (State.exportOp_still ..)
  | .nop .. => answers_of_still (State.nop_still ..)
  | .waitt .. => answers_of_still (State.waitt_still ..)
  | .take .. => answers_of_still (State.take_still ..)
  | .takeCompletion .. => answers_of_still (State.takeCompletion_still ..)
  | .post .. => answers_of_still (State.post_still ..)
  | .postHoldRelease .. => answers_of_still (State.postHoldRelease_still ..)
  | .loop .. => answers_of_still (State.loop_still ..)
  | .release .. => answers_of_still (State.release_still ..)
  | .endp .. => answers_of_still (State.endp_still ..)
  | .mark .. => answers_of_still (State.mark_still ..)
  | .pass .. => answers_of_still (State.passOp_still ..)
  | .passHalfDepth .. => answers_of_still (State.passOp_still ..)
  | .wpass .. => answers_of_still (State.wpassOp_still ..)
  | .passSlotUpdate .. => answers_of_still (State.passSlotUpdate_still ..)
  | .hazardHold .. => answers_of_still (State.hazardHold_still ..)
  | .clear .. => answers_of_still (State.clearOp_still ..)
  | .spillFirst .. => answers_of_still (State.spillOp_still ..)
  | .spill .. => answers_of_still (State.spillOp_still ..)
  | .spillWalkRow .. => answers_of_still (State.spillWalkRow_still ..)
  | .read .. => answers_of_still (State.readOp_still ..)
  | .readoutRowLeave .. => answers_of_still (State.readoutRowLeave_still ..)
  | .wload .. => answers_of_still (State.wloadOp_still ..)
  | .add .. => answers_of_still (State.laneIssue_still ..)
  | .sub .. => answers_of_still (State.laneIssue_still ..)
  | .mul .. => answers_of_still (State.laneIssue_still ..)
  | .fma .. => answers_of_still (State.laneIssue_still ..)
  | .sprod .. => answers_of_still (State.laneIssue_still ..)
  | .affine .. => answers_of_still (State.laneIssue_still ..)
  | .cmp .. => answers_of_still (State.laneIssue_still ..)
  | .max .. => answers_of_still (State.laneIssue_still ..)
  | .min .. => answers_of_still (State.laneIssue_still ..)
  | .lsel .. => answers_of_still (State.laneIssue_still ..)
  | .cvt .. => answers_of_still (State.laneIssue_still ..)
  | .teval .. => answers_of_still (State.laneIssue_still ..)
  | .mprog .. => answers_of_still (State.laneIssue_still ..)
  | .rmax .. => answers_of_still (State.laneIssue_still ..)
  | .rmin .. => answers_of_still (State.laneIssue_still ..)
  | .rsum .. => answers_of_still (State.laneIssue_still ..)
  | .rsumsq .. => answers_of_still (State.laneIssue_still ..)
  | .rsumsd .. => answers_of_still (State.laneIssue_still ..)
  | .rrecip .. => answers_of_still (State.statIssue_still ..)
  | .rmean .. => answers_of_still (State.statIssue_still ..)
  | .rrsqrt .. => answers_of_still (State.statIssue_still ..)
  | .qread .. => answers_of_still (State.statIssue_still ..)
  | .strayActivation .. => answers_of_still (State.strayIssue_still ..)
  | .strayWeight .. => answers_of_still (State.strayIssue_still ..)
  | .bsel .. => answers_of_still (State.bselOp_still ..)
  | .thrd .. => answers_of_still (State.thrdOp_still ..)
  | .fallbackSectionClose .. => answers_of_still (State.sectionClose_still ..)
  | .tld .. => answers_of_still (State.tldOp_still ..)
  | .threadLoadLand .. => answers_of_still (State.threadLoadLand_still ..)
  | .thend .. => answers_of_still (State.thendOp_still ..)
  | .currierResultLand .. => answers_of_still (State.currierResultLand_still ..)
  | .start .. => answers_of_still (State.startOp_still ..)
  | .startArmOnly .. => answers_of_still (State.startOp_still ..)
  | .rearm .. => answers_of_still (State.rearmOp_still ..)
  | .stop .. => answers_of_still (State.stopOp_still ..)
  | .beatGrant .. => answers_of_still (State.grant_still ..)
  | .descriptorReady .. => answers_of_still (State.descriptors_still ..)
  | .beatLanding .. => answers_of_still (State.landing_still ..)
  | .handleArrival .. => answers_of_still (State.handleArrival_still ..)
  | .droverCancel .. => answers_of_still (State.cancelOp_still ..)
  | .fleeceScrub .. => answers_of_still (State.scrub_still ..)
  | .staticWordRepair .. => answers_of_still (State.repairWords_still ..)
  | .schedPacketArrival .. => answers_of_still (State.schedArrive_still ..)
  | .schedWrite => answers_of_still (State.schedWriteOp_still ..)
  | .schedReadRequest => answers_of_still (State.schedRequestOp_still ..)
  | .schedReadResponse => answers_of_still (State.schedResponseOp_still ..)
  | .schedPost => answers_of_still (State.schedPostOp_still ..)
  | .schedNotServed => answers_of_still (State.schedNotServedOp_still ..)
  | .exchangeReport => answers_of_still (State.exchangeReportOp_still ..)
  | .exchangeDecision => answers_of_still (State.exchangeDecisionOp_still ..)
  | .landingSubstitute .. => answers_of_still (State.substituteOp_still ..)
  | .schedUnexpected => answers_of_still (State.unexpectedOp_still ..)
  | .mailWrite .. => answers_of_still (State.mailWriteOp_still ..)
  | .mailGatherRequest .. => answers_of_still (State.mailGatherOp_still ..)
  | .mailGatherResponse .. => answers_of_still (State.gatherResponseOp_still ..)
  | .mailNotServed .. => answers_of_still ((State.nextPeer_still ..).trans (State.answerOp_still ..))
  | .mailStaleRole .. => answers_of_still (State.answerOp_still ..)
  | .mailRefused .. => answers_of_still (State.answerOp_still ..)
  | .mailNoRoute .. => answers_of_still (State.answerOp_still ..)
  | .mailUnknownKind .. => answers_of_still ((State.nextPeer_still ..).trans (State.answerOp_still ..))
  | .mailReservedKind .. => answers_of_still (State.reservedKind_still ..)
  | .faultNotice .. => answers_of_still (State.noticed_still ..)
  | .statusReadRequest .. => answers_of_still (State.statusRequest_still ..)
  | .statusReadResponse .. => answers_of_still (State.statusResponse_still ..)
  | .imageBlockRequest .. => answers_of_still (State.blockRequest_still ..)
  | .imageBlockResponse .. => answers_of_still (State.blockResponse_still ..)
  | .presenceNotice .. => ⟨_, rfl, State.noticeOp_keep .., nofun⟩
  | .presenceCloseNotice .. => ⟨_, rfl, State.closeNoticeOp_keep .., nofun⟩
  | .witnessRecord .. => answers_of_still (State.witnessed_still ..)
  | .mailDeliveryWindow .. => answers_of_still (State.deliveryWindow_still ..)
  | .streamFrameInvalid .. => answers_of_still (State.invalidFrame_still ..)
  | .imeskLineFrame .. => answers_of_still (State.streamFrame_still ..)
  | .imeskProcessFrame .. => answers_of_still (State.streamFrame_still ..)
  | .gevLeader .. => answers_of_still (State.streamFrame_still ..)
  | .gevPayload .. => answers_of_still (State.streamFrame_still ..)
  | .gevTrailer .. => answers_of_still (State.streamFrame_still ..)
  | .arpRequest .. => answers_of_still (State.neighbourOp_still ..)
  | .neighbourSolicitation .. => answers_of_still (State.neighbourOp_still ..)
  | .ethernetLinkUp .. => answers_of_still (State.linkUpOp_still ..)
  | .ethernetLinkLoss .. => answers_of_still (State.linkLossOp_still ..)
  | .autonegTimeout .. => answers_of_still (State.autonegOp_still ..)
  | .plantFrameInvalid .. => answers_of_still (State.plantInvalid_still ..)
  | .replayFeedFrame .. => answers_of_still (State.feedOp_still ..)
  | .ptpSync .. => answers_of_still (State.syncOp_still ..)
  | .ptpFollowUp .. => answers_of_still (State.followOp_still ..)
  | .ptpDelayResp .. => answers_of_still (State.delayRespOp_still ..)
  | .ptpAnnounce .. => answers_of_still (State.announceOp_still ..)
  | .ptpOtherMessage .. => answers_of_still rfl
  | .ptpDelayReqSend => answers_of_still (State.delayReqOp_still ..)
  | .timeSourceLoss => answers_of_still (State.sourceLossOp_still ..)
  | .ppsInEdge => answers_of_still (State.ppsOp_still ..)
  | .slotFrameBoundary .. => answers_of_still (State.boundaryOp_still ..)
  | .trafficFrame .. => answers_of_still (State.trafficOp_still ..)
  | .activeMaskChange .. => answers_of_still (State.maskOp_still ..)
  | .trainingFrame .. => answers_of_still (State.trainingOp_still ..)
  | .laneSignalLoss .. => answers_of_still (State.signalLossOp_still ..)
  | .laneLost .. => answers_of_still (State.laneLostOp_still ..)
  | .laneUsable .. => answers_of_still (State.laneUsableOp_still ..)
  | .portDown .. => answers_of_still (State.portDownOp_still ..)
  | .authFailureRetrain .. => answers_of_still (State.authRetrainOp_still ..)
  | .signalDetected .. => answers_of_still (State.signalOp_still ..)
  | .acquireDone .. => answers_of_still (State.acquireOp_still ..)
  | .alignDone .. => answers_of_still (State.alignOp_still ..)
  | .helloAgreed .. => answers_of_still (State.helloOp_still ..)
  | .keyConfirmed .. => answers_of_still (State.keyOp_still ..)
  | .verifyDone .. => answers_of_still (State.verifyDoneOp_still ..)
  | .trainingTimeout .. => answers_of_still (State.timeoutOp_still ..)
  | .keyRetry .. => answers_of_still (State.keyRetryOp_still ..)
  | .unpairedHello .. => answers_of_still (State.unpairedOp_still ..)
  | .coreFaultDetected .. => answers_of_still (State.coreFault_still ..)
  | .coreIsolated .. => answers_of_still (State.isolate_still ..)
  | .rebuildUnitWritten => answers_of_still (State.rebuildUnit_still ..)
  | .crookSample .. => answers_of_still (State.crookSample_still ..)
  | .hangDeclared .. => answers_of_still (State.declareHang_still ..)
  | .dumpCapture .. => answers_of_still (State.captureDump_still ..)
  | .dumpWritten => answers_of_still (State.writeDump_still ..)
  | .foldWalkEnd .. => answers_of_still (State.walkEnd_still ..)
  | .supervisorRestart .. => answers_of_still (State.supRestart_still ..)
  | .logEntryWrite .. => answers_of_still (State.writeEntry_still ..)
  | .logMirrorCopy => answers_of_still (State.mirrorCopy_still ..)
  | .witnessSend => answers_of_still (State.witnessSend_still ..)
  | .inputPowerApplied => answers_of_still (State.inputApplied_still ..)
  | .powerGood => answers_of_still (State.powerGoodOp_still ..)
  | .inputUndervoltage .. => ⟨_, rfl, State.undervoltage_keep .., nofun⟩
  | .inputOvervoltage .. => ⟨_, rfl, State.overvoltage_keep .., nofun⟩
  | .railOutOfBand .. => answers_of_still (State.railOut_still ..)
  | .converterUnitLost .. => answers_of_still (State.unitLost_still ..)
  | .powerSample .. => answers_of_still (State.powerOp_still ..)
  | .marginSample .. => answers_of_still (State.marginOp_still ..)
  | .phaseSample .. => answers_of_still (State.phaseOp_still ..)
  | .temperatureSample .. => ⟨_, rfl, State.temperatureOp_keep .., nofun⟩
  | .junctionTrip .. => ⟨_, rfl, State.tripOp_keep .., nofun⟩
  | .ageingRecord .. => answers_of_still (State.ageingOp_still ..)
  | .replan .. => answers_of_still (State.replanOp_still ..)
  | .refclkLost => answers_of_still (State.refLostOp_still ..)
  | .refclkHoldoverExpired => ⟨_, rfl, State.refExpiredOp_keep .., nofun⟩
  | .refclkRelock => answers_of_fixed (State.refRelockOp_fixed ..)
  | .bridleChangeConfirmed .. => ⟨_, rfl, State.bridleOp_keep .., nofun⟩
  | .discrepancyTimeout => ⟨_, rfl, State.discrepancyOp_keep .., nofun⟩
  | .sealLoopChange .. => ⟨_, rfl, State.sealOp_keep .., nofun⟩
  | .tackLockConfirmed .. => ⟨_, rfl, State.tackLockOp_keep .., nofun⟩
  | .windowExpiry => ⟨_, rfl, State.expirePresence_keep .., nofun⟩
  | .entropyHealthFailure => answers_of_still (State.entropyFail_still ..)
  | .entropyRecovered => answers_of_still (State.entropyBack_still ..)
  | .ssdInserted .. => answers_of_still ((State.continueBoot_still ..).trans (State.ssdInsert_still ..))
  | .ssdRemoved .. => answers_of_still (State.ssdLost_still ..)
  | .ssdLinkDown .. => answers_of_still (State.ssdLost_still ..)
  | .ssdCommandTimeout .. => answers_of_still (State.ssdLost_still ..)
  | .tackRecordCommit => answers_of_still (State.commitOp_still ..)
  | .staticLoadComplete .. => answers_of_still (State.loadComplete_still ..)
  | .confirmationComplete .. => answers_of_still (State.confirmFold_still ..)
  | .openSession .. => answers_of_still (State.openOp_still ..)
  | .closeSession .. => answers_of_still (State.closeOp_still ..)
  | .sessionTimeout => answers_of_still (State.sessionTimeoutOp_still ..)
  | .maintInProgressAnswer => answers_of_still (State.inProgressOp_still ..)
  | .attestation .. => answers_of_still (State.attestationOp_still ..)
  | .statusRead .. => answers_of_still (State.statusReadOp_still ..)
  | .logRead .. => answers_of_still (State.logReadOp_still ..)
  | .downloadBegin .. => answers_of_still (State.downloadBeginOp_still ..)
  | .downloadData .. => answers_of_still (State.downloadDataOp_still ..)
  | .downloadEnd .. => answers_of_still (State.downloadEndOp_still ..)
  | .verify .. => answers_of_still (State.verifyReqOp_still ..)
  | .activateImmediate .. => answers_of_still (State.activateOp_still ..)
  | .activateAtTick .. => answers_of_still (State.activateOp_still ..)
  | .activateDeferred .. => answers_of_still (State.activateOp_still ..)
  | .revert .. => answers_of_still (State.revertReqOp_still ..)
  | .holdStop .. => answers_of_still (State.holdStopOp_still ..)
  | .holdRelease .. => answers_of_still (State.holdReleaseOp_still ..)
  | .withdraw .. => answers_of_still (State.withdrawOp_still ..)
  | .reLock .. => answers_of_fixed (State.relockReqOp_fixed ..)
  | .replayOn .. => answers_of_still (State.replayOnOp_still ..)
  | .replayOff .. => answers_of_still (State.replayOffOp_still ..)
  | .debugEnable .. => answers_of_still (State.debugOnOp_still ..)
  | .debugDisable .. => answers_of_still (State.debugOffOp_still ..)
  | .debugRead .. => answers_of_still (State.debugReadOp_still ..)
  | .dumpExport .. => answers_of_still (State.dumpExportOp_still ..)
  | .logClear .. => answers_of_still (State.logClearOp_still ..)
  | .keyChange .. => answers_of_still (State.keyChangeOp_still ..)
  | .adoptSsd .. => answers_of_still (State.adoptOp_still ..)
  | .tallySelWrite .. => answers_of_still (State.statusWriteOp_still ..)
  | .userTagWrite .. => answers_of_still (State.statusWriteOp_still ..)
  | .statusWriteRefused .. => answers_of_still (State.statusWriteOp_still ..)
  | .pairLowRead .. => answers_of_still (State.pairLowOp_still ..)
  | .i3cEntdaa .. => answers_of_still (State.entdaaOp_still ..)
  | .ssdResyncComplete .. => answers_of_still ((State.continueBoot_still ..).trans (State.resyncDone_still ..))
  | .verificationEnd => answers_of_still (State.verificationEndOp_still ..)
  | .maintUnknownOperation .. => answers_of_still (State.unknownOp_still ..)
  | .entropyDrawTimeout => answers_of_still (State.drawTimeout_still ..)

theorem Answers.exists_next {c : Instr} {s t : State} (a : Answers c s) (h : exec c s = .next t) :
    t.keep = s.keep ∧ (movesPresenceOrLock c = false → t.fixed = s.fixed) := by
  obtain ⟨u, hu, kept, held⟩ := a
  cases hu.symm.trans h
  exact ⟨kept, held⟩

theorem State.keep_iff {s t : State} :
    t.keep = s.keep ↔ t.pending = s.pending ∧ t.now = s.now ∧ t.gradeF = s.gradeF ∧ t.enabled = s.enabled := by
  simp [State.keep]

theorem State.gradeOk_of_eq {s t : State} (grade : t.gradeF = s.gradeF) (enabled : t.enabled = s.enabled) (h : gradeOk s) :
    gradeOk t := by
  rw [gradeOk, grade, enabled]
  exact h

/-- Settles O3, by the inversion of exec. -/
theorem everyCommandAnswers : Obligations.EveryCommandAnswers := by
  intro c s
  obtain ⟨t, ht, kept, -⟩ := answers c s
  obtain ⟨pending, now, grade, enabled⟩ := State.keep_iff.1 kept
  exact ⟨t, ht, pending, now, grade, enabled, State.gradeOk_of_eq grade enabled⟩

/-- Settles O1: step is defined so. -/
theorem stepRunsTheFrontCommand : Obligations.StepRunsTheFrontCommand := fun _ _ _ => rfl

theorem step_of_empty {s : State} (h : s.pending = []) : step s = .next (moduleCycle s) := by
  simp only [step, h]

/-- Settles O2, by the frame of the clock cycle. -/
theorem idleStepIsOneCycle : Obligations.IdleStepIsOneCycle := by
  intro s empty
  have frame := moduleCycle_still s
  simp only [State.still, Prod.mk.injEq] at frame
  obtain ⟨⟨pending, now, grade, enabled⟩, presence, tick⟩ := frame
  exact ⟨_, step_of_empty empty, now, pending.trans empty, presence, tick, enabled, grade⟩

/-! ## Reset (R2) -/

theorem enabledBut_getLsbD (a b : CoreNo) {i : Nat} (h : i < 32) :
    (enabledBut a b).getLsbD i = decide (i ≠ a.val ∧ i ≠ b.val) := by
  have full : (0xFFFFFFFF : Word32) = BitVec.allOnes 32 := rfl
  have bit (n : Nat) : (BitVec.ofNat 32 (2 ^ n)).getLsbD i = decide (n = i) := by
    simp only [BitVec.getLsbD_ofNat, h, Nat.testBit_two_pow, decide_true, Bool.true_and]
  rw [enabledBut, full, BitVec.getLsbD_and, BitVec.getLsbD_and, BitVec.getLsbD_not, BitVec.getLsbD_not, bit, bit,
    BitVec.getLsbD_allOnes]
  simp [h, eq_comm]

theorem enabledBut_count {a b : CoreNo} (h : a ≠ b) :
    ((List.range 32).filter fun i => (enabledBut a b).getLsbD i).length = 30 := by
  have enabled : (List.range 32).filter (fun i => (enabledBut a b).getLsbD i) =
      (List.range 32).filter fun i => decide (i ≠ a.val ∧ i ≠ b.val) :=
    List.filter_congr fun i hi => enabledBut_getLsbD a b (List.mem_range.1 hi)
  have others : ((List.range 32).filter fun i => decide (i ≠ a.val ∧ i ≠ b.val)).toFinset =
      ((Finset.range 32).erase a.val).erase b.val := by
    ext i
    simp
    tauto
  rw [enabled, ← List.toFinset_card_of_nodup (List.nodup_range.filter _), others, Finset.card_erase_of_mem, Finset.card_erase_of_mem]
  · rfl
  · exact Finset.mem_range.2 a.isLt
  · exact Finset.mem_erase.2 ⟨fun e => h (Fin.ext e.symm), Finset.mem_range.2 b.isLt⟩

theorem State.reset_core (p : CoreNo) : State.reset.cores[p] = Core.reset := by
  simp [State.reset]

theorem State.resetE_mode (a b p : CoreNo) : (State.resetE a b).cores[p].mode = .fusedOff ↔ (p = a ∨ p = b) := by
  by_cases h : p = a ∨ p = b <;> simp [State.resetE, h, Core.reset]

/-- Settles O4: the fields of reset, and the count of the cores that an E-grade module has left. -/
theorem resetIsSafe : Obligations.ResetIsSafe := by
  refine ⟨fun open_ => ?_, fun both => ?_, rfl, rfl, rfl, rfl, rfl, fun p => ?_, fun f => ?_, ⟨rfl, .inl ⟨rfl, rfl⟩⟩,
    fun a b h => ⟨rfl, .inr ⟨rfl, enabledBut_count h⟩, State.resetE_mode a b⟩⟩
  · exact absurd open_ (by decide)
  · exact absurd both.1 (by decide)
  · rw [State.reset_core]
    exact ⟨rfl, rfl, rfl, rfl, rfl, rfl⟩
  · simp [State.reset, Fold.reset]

/-! ## Presence (R348 to R351) -/

/-- Nothing bars a window: the loop is open, TACK_LOCK off, its fuse whole, no discrepancy latched. -/
def Presence.unbarred (x : Presence) : Prop :=
  x.sealOpen = true ∧ x.tackLock = false ∧ x.fuse = false ∧ x.discrepancy = false

/-- What a step can do to presence: a blown fuse stays blown, and where a window stands open afterwards, nothing bars it, or it
stood open before and no bar came in between. -/
structure Presence.leadsTo (x y : Presence) : Prop where
  fuse : x.fuse = true → y.fuse = true
  window : y.window = none ∨ y.unbarred ∨ (y.window = x.window ∧ (x.unbarred → y.unbarred))

theorem Presence.leadsTo_refl (x : Presence) : x.leadsTo x := ⟨id, .inr (.inr ⟨rfl, id⟩)⟩

theorem Presence.leadsTo_of_eq {x y : Presence} (h : y = x) : x.leadsTo y := h ▸ x.leadsTo_refl

theorem Presence.leadsTo.trans {x y z : Presence} (h : x.leadsTo y) (k : y.leadsTo z) : x.leadsTo z := by
  obtain ⟨fuse, first⟩ := h
  obtain ⟨fuse', second⟩ := k
  refine ⟨fuse' ∘ fuse, ?_⟩
  obtain closed | free | ⟨same', kept'⟩ := second
  · exact .inl closed
  · exact .inr (.inl free)
  · obtain closed | free | ⟨same, kept⟩ := first
    · exact .inl (same'.trans closed)
    · exact .inr (.inl (kept' free))
    · exact .inr (.inr ⟨same'.trans same, kept' ∘ kept⟩)

theorem windowSafe_iff (s : State) : windowSafe s ↔ (s.trust.pres.window.isSome = true → s.trust.pres.unbarred) := Iff.rfl

theorem windowSafe_of_leadsTo {s t : State} (h : s.trust.pres.leadsTo t.trust.pres) (safe : windowSafe s) : windowSafe t := by
  rw [windowSafe_iff] at safe ⊢
  intro isOpen
  obtain ⟨-, closed | free | ⟨same, kept⟩⟩ := h
  · simp [closed] at isOpen
  · exact free
  · exact kept (safe (same ▸ isOpen))

theorem lockedForGood_of_leadsTo {s t : State} (h : s.trust.pres.leadsTo t.trust.pres) (locked : lockedForGood s) :
    lockedForGood t := by
  obtain ⟨blown, closed⟩ := locked
  obtain ⟨fuse, closed' | ⟨-, -, whole, -⟩ | ⟨same, -⟩⟩ := h
  · exact ⟨fuse blown, closed'⟩
  · exact absurd (fuse blown) (by simp [whole])
  · exact ⟨fuse blown, same.trans closed⟩

theorem State.pres_of_still {s t : State} (h : t.still = s.still) : t.trust.pres = s.trust.pres :=
  congrArg (fun x => x.2.1) h

theorem State.pres_of_fixed {s t : State} (h : t.fixed = s.fixed) : t.trust.pres = s.trust.pres :=
  congrArg (fun x => x.2.1) h

@[simp] theorem State.onPres_pres (s : State) (g : Presence → Presence) :
    (s.onPres g).trust.pres = g s.trust.pres := rfl

@[simp] theorem State.logPresence_pres (s : State) (cause : Nat) (detail : List Byte) :
    (s.logPresence cause detail).trust.pres = s.trust.pres := State.pres_of_still (State.logPresence_still ..)

@[simp] theorem State.logPresence_tick (s : State) (cause : Nat) (detail : List Byte) :
    (s.logPresence cause detail).tick = s.tick := State.tick_of_still (State.logPresence_still ..)

/-- A presence change that opens no window and brings no bar. -/
theorem State.onPres_leadsTo {s : State} {g : Presence → Presence} (fuse : (g s.trust.pres).fuse = s.trust.pres.fuse)
    (window : (g s.trust.pres).window = s.trust.pres.window)
    (free : s.trust.pres.unbarred → (g s.trust.pres).unbarred) : s.trust.pres.leadsTo (s.onPres g).trust.pres :=
  ⟨fun h => fuse.trans h, .inr (.inr ⟨window, free⟩)⟩

/-- An open window closed: presence is the same but for it. -/
theorem State.closePresence_pres (s : State) (cause : Nat) (early : Bool) :
    (s.closePresence cause early).trust.pres.window = none ∧
      (s.closePresence cause early).trust.pres.fuse = s.trust.pres.fuse := by
  unfold State.closePresence
  split
  · next h => exact ⟨h, rfl⟩
  · dsimp only
    split
    · rw [State.pres_of_still (State.notifyFlock_still ..), State.logPresence_pres]
      exact ⟨rfl, rfl⟩
    · rw [State.logPresence_pres]
      exact ⟨rfl, rfl⟩

theorem State.closePresence_leadsTo {s u : State} (cause : Nat) (early : Bool)
    (fuse : s.trust.pres.fuse = true → u.trust.pres.fuse = true) :
    s.trust.pres.leadsTo (u.closePresence cause early).trust.pres := by
  obtain ⟨window, same⟩ := u.closePresence_pres cause early
  exact ⟨fun h => same.trans (fuse h), .inl window⟩

theorem State.closePresence_tick (s : State) (cause : Nat) (early : Bool) : (s.closePresence cause early).tick = s.tick := by
  unfold State.closePresence
  split
  · rfl
  · dsimp only
    split
    · rw [State.tick_of_still (State.notifyFlock_still ..), State.logPresence_tick, State.onPres_tick]
    · rw [State.logPresence_tick, State.onPres_tick]

/-- Where nothing bars a window it may open (R348). -/
theorem State.openPresence_leadsTo {s : State} (notice : Bool) (free : s.trust.pres.unbarred) :
    s.trust.pres.leadsTo (s.openPresence notice).trust.pres := by
  unfold State.openPresence
  extract_lets old s1 s2
  have opened : s.trust.pres.leadsTo s2.trust.pres := by
    rw [State.logPresence_pres]
    exact ⟨id, .inr (.inl free)⟩
  split
  · rw [State.pres_of_still (State.notifyFlock_still ..)]
    exact opened
  · exact opened

theorem State.openPresence_tick (s : State) (notice : Bool) : (s.openPresence notice).tick = s.tick := by
  unfold State.openPresence
  extract_lets old s1 s2
  have opened : s2.tick = s.tick := State.logPresence_tick ..
  split
  · rw [State.tick_of_still (State.notifyFlock_still ..), opened]
  · exact opened

/-- R348: without a bar on a press nothing bars a window. -/
theorem State.unbarred_of_pressBar {s : State} (h : s.pressBar = none) :
    s.trust.pres.unbarred ∧ s.trust.life = .branded := by
  unfold State.pressBar at h
  grind [Presence.unbarred]

theorem State.validPress_leadsTo (s : State) : s.trust.pres.leadsTo s.validPress.trust.pres := by
  unfold State.validPress
  split
  · rw [State.logPresence_pres, State.pres_of_still (State.count_still ..)]
    exact Presence.leadsTo_refl _
  · next h =>
    rw [State.pres_of_still ((State.continueBoot_still _).trans (State.bindFirst_still _))]
    exact State.openPresence_leadsTo _ (State.unbarred_of_pressBar h).1

theorem State.validPress_tick (s : State) : s.validPress.tick = s.tick := by
  unfold State.validPress
  split
  · rw [State.logPresence_tick, State.tick_of_still (State.count_still ..)]
  · rw [State.tick_of_still ((State.continueBoot_still _).trans (State.bindFirst_still _)), State.openPresence_tick]

/-! ### The bridle touches the press in progress alone -/

/-- What bars a window, and the window, stand as they stood. -/
structure Presence.sameBars (x y : Presence) : Prop where
  window : y.window = x.window
  loop : y.sealOpen = x.sealOpen
  lock : y.tackLock = x.tackLock
  fuse : y.fuse = x.fuse
  discrepancy : y.discrepancy = x.discrepancy

theorem Presence.leadsTo_of_sameBars {x y : Presence} (h : x.sameBars y) : x.leadsTo y := by
  obtain ⟨window, loop, lock, fuse, discrepancy⟩ := h
  refine ⟨fun blown => fuse.trans blown, .inr (.inr ⟨window, fun free => ?_⟩)⟩
  rwa [Presence.unbarred, loop, lock, fuse, discrepancy]

theorem Presence.change_sameBars (x : Presence) (ch : Chan) (down : Bool) (stamp : Nat) :
    x.sameBars (x.change ch down stamp) := by
  cases ch <;> exact ⟨rfl, rfl, rfl, rfl, rfl⟩

theorem Presence.down_sameBars (x : Presence) (ch : Chan) (stamp : Nat) : x.sameBars (x.down ch stamp).1 := by
  unfold Presence.down
  dsimp only
  repeat' split
  all_goals exact ⟨rfl, rfl, rfl, rfl, rfl⟩

theorem Presence.up_sameBars (x : Presence) (ch : Chan) (stamp : Nat) : x.sameBars (x.up ch stamp).1 := by
  unfold Presence.up
  repeat' split
  all_goals exact ⟨rfl, rfl, rfl, rfl, rfl⟩

/-- Both channels released clear a discrepancy, which bars nothing new. -/
theorem Presence.cleared_leadsTo (x : Presence) :
    x.leadsTo (if x.discrepancy && !x.bridleA && !x.bridleB then { x.noPress with discrepancy := false } else x) := by
  split
  · exact ⟨id, .inr (.inr ⟨rfl, fun ⟨loop, lock, fuse, _⟩ => ⟨loop, lock, fuse, rfl⟩⟩)⟩
  · exact x.leadsTo_refl

theorem State.bridleOp_leadsTo (s : State) (ch : Chan) (down : Bool) (stamp : Nat) :
    s.trust.pres.leadsTo (s.bridleOp ch down stamp).trust.pres := by
  unfold State.bridleOp
  split
  · exact Presence.leadsTo_refl _
  · extract_lets s1 r1 s2 r2 s3 s4
    have changed : s.trust.pres.leadsTo s1.trust.pres :=
      Presence.leadsTo_of_sameBars (s.trust.pres.change_sameBars ch down stamp)
    split
    · have pressed : s1.trust.pres.leadsTo s2.trust.pres :=
        Presence.leadsTo_of_sameBars (s1.trust.pres.down_sameBars ch stamp)
      split
      · exact (changed.trans pressed).trans s2.validPress_leadsTo
      · exact changed.trans pressed
    · have released : s1.trust.pres.leadsTo s3.trust.pres :=
        Presence.leadsTo_of_sameBars (s1.trust.pres.up_sameBars ch stamp)
      have counted : s4.trust.pres = s3.trust.pres := by
        unfold s4
        split
        · exact State.pres_of_still (State.count_still ..)
        · rfl
      exact ((changed.trans released).trans (Presence.leadsTo_of_eq counted)).trans (Presence.cleared_leadsTo _)

theorem State.bridleOp_tick (s : State) (ch : Chan) (down : Bool) (stamp : Nat) : (s.bridleOp ch down stamp).tick = s.tick := by
  unfold State.bridleOp
  split
  · rfl
  · extract_lets s1 r1 s2 r2 s3 s4
    have changed : s2.tick = s.tick ∧ s3.tick = s.tick := ⟨rfl, rfl⟩
    split
    · split
      · exact (State.validPress_tick _).trans changed.1
      · exact changed.1
    · have counted : s4.tick = s3.tick := by
        unfold s4
        split
        · exact State.tick_of_still (State.count_still ..)
        · rfl
      exact counted.trans changed.2

theorem State.discrepancyOp_leadsTo (s : State) : s.trust.pres.leadsTo s.discrepancyOp.trust.pres := by
  unfold State.discrepancyOp
  split
  · exact State.closePresence_leadsTo _ _ fun h => by rw [State.logPresence_pres]; exact h
  · exact Presence.leadsTo_refl _

theorem State.discrepancyOp_tick (s : State) : s.discrepancyOp.tick = s.tick := by
  unfold State.discrepancyOp
  split
  · rw [State.closePresence_tick, State.logPresence_tick, State.onPres_tick]
  · rfl

theorem State.sealOp_leadsTo (s : State) (isOpen : Bool) (stamp : Nat) :
    s.trust.pres.leadsTo (s.sealOp isOpen stamp).trust.pres := by
  unfold State.sealOp
  split
  · exact Presence.leadsTo_refl _
  · dsimp only
    split
    · next isOpen =>
      rw [State.logPresence_pres, State.onPres_pres]
      exact ⟨id, .inr (.inr ⟨rfl, fun ⟨_, lock, fuse, discrepancy⟩ => ⟨isOpen, lock, fuse, discrepancy⟩⟩)⟩
    · exact State.closePresence_leadsTo _ _ fun h => by rw [State.logPresence_pres]; exact h

theorem State.sealOp_tick (s : State) (isOpen : Bool) (stamp : Nat) : (s.sealOp isOpen stamp).tick = s.tick := by
  unfold State.sealOp
  split
  · rfl
  · dsimp only
    split
    · rw [State.logPresence_tick, State.onPres_tick]
    · rw [State.closePresence_tick, State.logPresence_tick, State.onPres_tick]

theorem State.tackLockOp_leadsTo (s : State) (fitted : Bool) : s.trust.pres.leadsTo (s.tackLockOp fitted).trust.pres := by
  unfold State.tackLockOp
  split
  · exact Presence.leadsTo_refl _
  · split
    · rw [State.pres_of_still (State.lockSession_still _)]
      exact State.closePresence_leadsTo _ _ fun _ => rfl
    · exact ⟨id, .inr (.inr ⟨rfl, fun ⟨loop, _, fuse, discrepancy⟩ => ⟨loop, rfl, fuse, discrepancy⟩⟩)⟩

theorem State.tackLockOp_tick (s : State) (fitted : Bool) : (s.tackLockOp fitted).tick = s.tick := by
  unfold State.tackLockOp
  split
  · rfl
  · split
    · rw [State.tick_of_still (State.lockSession_still _), State.closePresence_tick, State.onPres_tick]
    · rfl

theorem State.expirePresence_leadsTo (s : State) : s.trust.pres.leadsTo s.expirePresence.trust.pres := by
  unfold State.expirePresence
  split
  · exact Presence.leadsTo_refl _
  · split
    · exact State.closePresence_leadsTo _ _ id
    · exact Presence.leadsTo_refl _

theorem State.expirePresence_tick (s : State) : s.expirePresence.tick = s.tick := by
  unfold State.expirePresence
  split
  · rfl
  · split
    · exact State.closePresence_tick ..
    · rfl

/-- Mail for a supervisor either is acted on, or leaves presence and tick as they stand. -/
theorem State.onSupervisor_cases (s : State) (m : MailMsg) (act : State → State) :
    s.onSupervisor m act = act s ∨ (s.onSupervisor m act).still = s.still := by
  unfold State.onSupervisor State.onMail
  split
  · split
    · exact .inl rfl
    · exact .inr ((State.countTag_still ..).trans (State.answerMail_still ..))
  · exact .inr (State.forward_still ..)

theorem State.noticeOp_leadsTo (s : State) (p : FabricPort) (m : MailMsg) :
    s.trust.pres.leadsTo (s.noticeOp p m).trust.pres := by
  unfold State.noticeOp
  obtain acted | still := s.onSupervisor_cases m fun s =>
    if s.fromBellwether p && s.pressBar.isNone then s.openPresence true else s
  · rw [acted]
    split
    · next h =>
      have bar : s.pressBar = none := by simpa using (Bool.and_eq_true_iff.1 h).2
      exact State.openPresence_leadsTo _ (State.unbarred_of_pressBar bar).1
    · exact Presence.leadsTo_refl _
  · exact Presence.leadsTo_of_eq (State.pres_of_still still)

theorem State.noticeOp_tick (s : State) (p : FabricPort) (m : MailMsg) : (s.noticeOp p m).tick = s.tick := by
  unfold State.noticeOp
  obtain acted | still := s.onSupervisor_cases m fun s =>
    if s.fromBellwether p && s.pressBar.isNone then s.openPresence true else s
  · rw [acted]
    split
    · exact State.openPresence_tick ..
    · rfl
  · exact State.tick_of_still still

theorem State.closeNoticeOp_leadsTo (s : State) (p : FabricPort) (m : MailMsg) :
    s.trust.pres.leadsTo (s.closeNoticeOp p m).trust.pres := by
  unfold State.closeNoticeOp
  obtain acted | still := s.onSupervisor_cases m fun s =>
    if s.fromBellwether p && s.trust.pres.byNotice then s.closePresence 0x14 true else s
  · rw [acted]
    split
    · exact State.closePresence_leadsTo _ _ id
    · exact Presence.leadsTo_refl _
  · exact Presence.leadsTo_of_eq (State.pres_of_still still)

theorem State.closeNoticeOp_tick (s : State) (p : FabricPort) (m : MailMsg) : (s.closeNoticeOp p m).tick = s.tick := by
  unfold State.closeNoticeOp
  obtain acted | still := s.onSupervisor_cases m fun s =>
    if s.fromBellwether p && s.trust.pres.byNotice then s.closePresence 0x14 true else s
  · rw [acted]
    split
    · exact State.closePresence_tick ..
    · rfl
  · exact State.tick_of_still still

/-! ## Loss of power (R387, R402) -/

/-- A module left without power: no window, the fuse as it was, and in neither tick lock nor holdover. -/
structure State.downFrom (s t : State) : Prop where
  window : t.trust.pres.window = none
  fuse : t.trust.pres.fuse = s.trust.pres.fuse
  tick : t.tick = Tick.reset

/-- A state that a command leaves after it or just before a shutdown: presence and tick stand as they stood, or the module is
without power. -/
def State.stillOrDown (s t : State) : Prop := t.still = s.still ∨ s.downFrom t

theorem State.stillOrDown.leadsTo {s t : State} (h : s.stillOrDown t) : s.trust.pres.leadsTo t.trust.pres := by
  obtain still | ⟨window, fuse, -⟩ := h
  · exact Presence.leadsTo_of_eq (State.pres_of_still still)
  · exact ⟨fun blown => fuse.trans blown, .inl window⟩

theorem State.unpowered_down (s : State) : s.downFrom s.unpowered :=
  ⟨rfl, rfl, rfl⟩

theorem State.shutdown_down (s : State) (code : BitVec 16) (detail : List Byte) : s.downFrom (s.shutdown code detail) := by
  unfold State.shutdown
  extract_lets s1
  obtain ⟨window, fuse, tick⟩ :=
    State.unpowered_down ((List.range brownoutEntries).foldl (fun (s : State) _ => s.writeEntry true) s1)
  have written : ((List.range brownoutEntries).foldl (fun (s : State) _ => s.writeEntry true) s1).still = s.still :=
    (State.still_foldl _ (fun _ _ => State.writeEntry_still ..) _ _).trans (State.log1_still ..)
  exact ⟨window, fuse.trans (congrArg Presence.fuse (State.pres_of_still written)), tick⟩

theorem State.undervoltage_stillOrDown (s : State) (mv : Nat) : s.stillOrDown (s.undervoltage mv) := by
  unfold State.undervoltage
  split
  · exact .inr (State.shutdown_down ..)
  · exact .inl rfl

theorem State.overvoltage_stillOrDown (s : State) (mv : Nat) : s.stillOrDown (s.overvoltage mv) := by
  unfold State.overvoltage
  split
  · exact .inr (State.shutdown_down ..)
  · exact .inl rfl

theorem State.tripPackage_stillOrDown {s u : State} (still : u.still = s.still) (cause : Nat) :
    s.stillOrDown (u.tripPackage cause) := by
  unfold State.tripPackage
  extract_lets t
  obtain ⟨window, fuse, tick⟩ := u.shutdown_down 0x0D0F (leBytes cause 1)
  exact .inr ⟨window, fuse.trans (congrArg Presence.fuse (State.pres_of_still still)), tick⟩

theorem State.temperatureOp_stillOrDown (s : State) (r : TempReadings) : s.stillOrDown (s.temperatureOp r) := by
  unfold State.temperatureOp
  extract_lets before s1 power s2 s3
  have read : s2.still = s.still := by simp only [State.still, s2, s1]
  have still : s3.still = s.still := by
    rw [← read]
    exact (State.coolantAlarm_still _).trans <| (State.estimateFlow_still _).trans (State.manageWarming_still ..)
  split
  · exact State.tripPackage_stillOrDown still 1
  · exact .inl still

theorem State.tripOp_stillOrDown (s : State) (x : TripSensor) (reading : Int) : s.stillOrDown (s.tripOp x reading) := by
  unfold State.tripOp
  split
  · exact .inl rfl
  · extract_lets die cores sensor s1 s2 trips power s3
    have logged : s1.still = s.still := State.log1_still ..
    have failed : s2.still = s1.still :=
      State.still_foldl _ (fun _ _ => (State.onSupply_still ..).trans (State.coreFault_still ..)) _ _
    have still : s3.still = s.still := failed.trans logged
    split
    · exact State.tripPackage_stillOrDown still 0
    · exact .inl still

/-! ## Presence in every step -/

/-- An instant placed leaves presence, and what it does to lock and holdover excludes both at once. -/
theorem State.placeInstant_cases {s n : State} (h : s.placeInstant = some n) :
    n.trust.pres = s.trust.pres ∧ (lockOrHoldover s → lockOrHoldover n) := by
  unfold State.placeInstant at h
  extract_lets t at_ fresh j u agree held at h
  have freshly : fresh s = some n → n.trust.pres = s.trust.pres ∧ (lockOrHoldover s → lockOrHoldover n) := by
    intro placed
    simp only [fresh] at placed
    split at placed
    · cases placed
      exact ⟨rfl, id⟩
    · cases placed
  have judged : u.trust.pres = s.trust.pres := State.pres_of_still (State.tickFault_still ..)
  have free {m : State} (h : m.tick.holdover = false ∨ m.tick.lock = false) : lockOrHoldover s → lockOrHoldover m := by
    rintro - ⟨lock, holdover⟩
    obtain h | h := h
    · simp [holdover] at h
    · simp [lock] at h
  split at h
  · cases h
  split at h
  · exact freshly h
  split at h
  · exact freshly h
  split at h
  · cases h
    exact ⟨judged, free (.inl rfl)⟩
  split at h
  · split at h
    · cases h
      exact ⟨judged, free (.inr rfl)⟩
    · split at h
      · cases h
        exact ⟨judged, id⟩
      · cases h
        exact ⟨judged, free (.inr rfl)⟩
  · split at h
    · cases h
      exact ⟨judged, id⟩
    · split at h
      · cases h
        exact ⟨judged, id⟩
      · cases h
        exact ⟨judged, id⟩

theorem State.instantOp_pres (s : State) : s.instantOp.trust.pres = s.trust.pres := by
  have ended := State.pres_of_fixed (State.ended_fixed s)
  cases placed : ((List.finRange 32).foldl State.endFoldTick s).placeInstant with
  | none =>
    unfold State.instantOp
    simp only [placed]
  | some n =>
    rw [State.pres_of_fixed (State.instantOp_some placed), (State.placeInstant_cases placed).1, ended]

theorem State.refExpiredOp_pres (s : State) : s.refExpiredOp.trust.pres = s.trust.pres := by
  unfold State.refExpiredOp
  split <;> rfl

theorem State.holdoverLeftOp_pres (s : State) : s.holdoverLeftOp.trust.pres = s.trust.pres := by
  unfold State.holdoverLeftOp
  split
  · rw [State.pres_of_still (State.log1_still ..)]
  · rfl

theorem State.tickLockOp_pres (s : State) : s.tickLockOp.trust.pres = s.trust.pres := by
  unfold State.tickLockOp
  extract_lets t loop u past
  split
  · have locked : u.trust.pres = s.trust.pres := rfl
    split
    · exact locked
    · exact (State.pres_of_still (State.commit_still ..)).trans locked
  · rfl

theorem eq_of_exec {c : Instr} {s t u : State} (h : exec c s = .next t) (e : exec c s = .next u := by rfl) : u = t :=
  Host.Outcome.next.inj (e.symm.trans h)

theorem exec_leadsTo {c : Instr} {s t : State} (h : exec c s = .next t) : s.trust.pres.leadsTo t.trust.pres := by
  obtain ⟨-, held⟩ := (answers c s).exists_next h
  cases moved : movesPresenceOrLock c with
  | false => exact Presence.leadsTo_of_eq (State.pres_of_fixed (held moved))
  | true =>
    unfold movesPresenceOrLock at moved
    split at moved
    · exact eq_of_exec h ▸ Presence.leadsTo_of_eq s.instantOp_pres
    · exact eq_of_exec h ▸ Presence.leadsTo_of_eq s.holdoverLeftOp_pres
    · exact eq_of_exec h ▸ Presence.leadsTo_of_eq s.tickLockOp_pres
    · exact eq_of_exec h ▸ Presence.leadsTo_of_eq s.refExpiredOp_pres
    · exact eq_of_exec h ▸ (s.undervoltage_stillOrDown _).leadsTo
    · exact eq_of_exec h ▸ (s.overvoltage_stillOrDown _).leadsTo
    · exact eq_of_exec h ▸ (s.temperatureOp_stillOrDown _).leadsTo
    · exact eq_of_exec h ▸ (s.tripOp_stillOrDown ..).leadsTo
    · exact eq_of_exec h ▸ s.bridleOp_leadsTo ..
    · exact eq_of_exec h ▸ s.discrepancyOp_leadsTo
    · exact eq_of_exec h ▸ s.sealOp_leadsTo ..
    · exact eq_of_exec h ▸ s.tackLockOp_leadsTo _
    · exact eq_of_exec h ▸ s.expirePresence_leadsTo
    · exact eq_of_exec h ▸ s.noticeOp_leadsTo ..
    · exact eq_of_exec h ▸ s.closeNoticeOp_leadsTo ..
    · simp at moved

/-- A step is the front command on the rest of the queue, or a cycle that leaves presence and tick. -/
theorem step_cases {s t : State} (h : step s = .next t) :
    (t.trust.pres = s.trust.pres ∧ t.tick = s.tick) ∨
      ∃ c rest, s.pending = c :: rest ∧ exec c { s with pending := rest } = .next t := by
  unfold step at h
  split at h
  · have frame := moduleCycle_still s
    rw [← Host.Outcome.next.inj h]
    exact .inl ⟨(State.pres_of_still frame).trans rfl, (State.tick_of_still frame).trans rfl⟩
  · next c rest front => exact .inr ⟨c, rest, front, h⟩

theorem step_leadsTo {s t : State} (h : step s = .next t) : s.trust.pres.leadsTo t.trust.pres := by
  obtain ⟨same, -⟩ | ⟨c, rest, -, run⟩ := step_cases h
  · exact Presence.leadsTo_of_eq same
  · have led := exec_leadsTo run
    exact led

/-- Settles O5, by what a step can do to presence. -/
theorem windowsStaySafe : Obligations.WindowsStaySafe :=
  fun _ _ safe h => windowSafe_of_leadsTo (step_leadsTo h) safe

/-- Settles O6, by what a step can do to presence. -/
theorem lockedForGood_step : Obligations.LockedForGood :=
  fun _ _ locked h => lockedForGood_of_leadsTo (step_leadsTo h) locked

/-! ## Tick lock and holdover in every step (R23, R24) -/

theorem lockOrHoldover_of_tick {s t : State} (h : t.tick = s.tick) (kept : lockOrHoldover s) : lockOrHoldover t := by
  rw [lockOrHoldover, h]
  exact kept

theorem lockOrHoldover_of_fixed {s t : State} (h : t.fixed = s.fixed) (kept : lockOrHoldover s) : lockOrHoldover t := by
  have place : (t.tick.number, t.tick.instant, t.tick.lock, t.tick.holdover) =
    (s.tick.number, s.tick.instant, s.tick.lock, s.tick.holdover) := congrArg (fun x => x.2.2) h
  simp only [Prod.mk.injEq] at place
  obtain ⟨-, -, lock, holdover⟩ := place
  rw [lockOrHoldover, lock, holdover]
  exact kept

theorem State.stillOrDown.lockOrHoldover {s t : State} (h : s.stillOrDown t) (kept : lockOrHoldover s) :
    lockOrHoldover t := by
  obtain still | ⟨-, -, tick⟩ := h
  · exact lockOrHoldover_of_tick (State.tick_of_still still) kept
  · rw [Machine.lockOrHoldover, tick]
    decide

theorem State.instantOp_lockOrHoldover {s : State} (kept : lockOrHoldover s) : lockOrHoldover s.instantOp := by
  have ended : lockOrHoldover ((List.finRange 32).foldl State.endFoldTick s) :=
    lockOrHoldover_of_fixed (State.ended_fixed s) kept
  cases placed : ((List.finRange 32).foldl State.endFoldTick s).placeInstant with
  | none =>
    unfold State.instantOp
    simp only [placed]
    exact kept
  | some n => exact lockOrHoldover_of_fixed (State.instantOp_some placed) ((State.placeInstant_cases placed).2 ended)

theorem State.holdoverLeftOp_lockOrHoldover {s : State} (kept : lockOrHoldover s) : lockOrHoldover s.holdoverLeftOp := by
  unfold State.holdoverLeftOp
  split
  · refine lockOrHoldover_of_tick (State.tick_of_still (State.log1_still ..)) ?_
    simp [lockOrHoldover]
  · exact kept

theorem State.tickLockOp_lockOrHoldover {s : State} (kept : lockOrHoldover s) : lockOrHoldover s.tickLockOp := by
  unfold State.tickLockOp
  extract_lets t loop u past
  split
  · next reached =>
    obtain ⟨-, -, holdover, -⟩ := reached
    have locked : lockOrHoldover u := by
      rintro ⟨-, holds⟩
      simp [t, show s.tick.holdover = true from holds] at holdover
    split
    · exact locked
    · exact lockOrHoldover_of_tick (State.tick_of_still (State.commit_still ..)) locked
  · exact kept

theorem State.refExpiredOp_lockOrHoldover {s : State} (kept : lockOrHoldover s) : lockOrHoldover s.refExpiredOp := by
  unfold State.refExpiredOp
  split
  · exact kept
  · simp [lockOrHoldover]

theorem exec_lockOrHoldover {c : Instr} {s t : State} (h : exec c s = .next t) (kept : lockOrHoldover s) :
    lockOrHoldover t := by
  obtain ⟨-, held⟩ := (answers c s).exists_next h
  cases moved : movesPresenceOrLock c with
  | false => exact lockOrHoldover_of_fixed (held moved) kept
  | true =>
    unfold movesPresenceOrLock at moved
    split at moved
    · exact eq_of_exec h ▸ State.instantOp_lockOrHoldover kept
    · exact eq_of_exec h ▸ State.holdoverLeftOp_lockOrHoldover kept
    · exact eq_of_exec h ▸ State.tickLockOp_lockOrHoldover kept
    · exact eq_of_exec h ▸ State.refExpiredOp_lockOrHoldover kept
    · exact eq_of_exec h ▸ (s.undervoltage_stillOrDown _).lockOrHoldover kept
    · exact eq_of_exec h ▸ (s.overvoltage_stillOrDown _).lockOrHoldover kept
    · exact eq_of_exec h ▸ (s.temperatureOp_stillOrDown _).lockOrHoldover kept
    · exact eq_of_exec h ▸ (s.tripOp_stillOrDown ..).lockOrHoldover kept
    · exact eq_of_exec h ▸ lockOrHoldover_of_tick (s.bridleOp_tick ..) kept
    · exact eq_of_exec h ▸ lockOrHoldover_of_tick s.discrepancyOp_tick kept
    · exact eq_of_exec h ▸ lockOrHoldover_of_tick (s.sealOp_tick ..) kept
    · exact eq_of_exec h ▸ lockOrHoldover_of_tick (s.tackLockOp_tick _) kept
    · exact eq_of_exec h ▸ lockOrHoldover_of_tick s.expirePresence_tick kept
    · exact eq_of_exec h ▸ lockOrHoldover_of_tick (s.noticeOp_tick ..) kept
    · exact eq_of_exec h ▸ lockOrHoldover_of_tick (s.closeNoticeOp_tick ..) kept
    · simp at moved

/-- Settles O7, by what a step can do to the lock of the tick. -/
theorem lockOrHoldoverKept : Obligations.LockOrHoldoverKept := by
  intro s t kept h
  obtain ⟨-, tick⟩ | ⟨c, rest, -, run⟩ := step_cases h
  · exact lockOrHoldover_of_tick tick kept
  · exact exec_lockOrHoldover run (lockOrHoldover_of_tick rfl kept)

end Sys2Proof.Machine


/-! Fleece parity (R154, R156): words as a group under exclusive or, and the word that a parity block gives back. -/

namespace Sys2Proof.Machine

/-! ## Words of pasture memory have 32 bytes -/

@[simp] theorem leBytes_length (v n : Nat) : (leBytes v n).length = n := by
  induction n generalizing v with
  | zero => rfl
  | succ n ih => simp [leBytes, ih]

@[simp] theorem cellsGet_length {α : Type} (d : α) (m : List (Nat × α)) (k n : Nat) : (cellsGet d m k n).length = n := by
  simp [cellsGet]

theorem eccRead_length (w : Nat) {bs : List Byte} (h : bs.length = 32) (mask : Nat) : (eccRead w bs mask).bytes.length = 32 := by
  unfold eccRead
  dsimp only
  repeat' split
  all_goals simp [h]

theorem Pasture.bytes_length (m : Pasture) (off len : Nat) : (m.bytes off len).length = len := by
  unfold Pasture.bytes
  split
  · simp
  · have whole : ∀ w ∈ touchedWords off len, (eccRead w (m.word w) (cellGet 0 w m.flips)).bytes.length = 32 :=
      fun w _ => eccRead_length w (cellsGet_length ..) _
    rw [List.length_take, List.length_drop, List.length_flatMap, List.map_congr_left whole, List.map_const', List.sum_replicate]
    unfold touchedWords
    split
    · simp_all
    · rw [List.length_range', smul_eq_mul]
      omega

theorem State.staticWord_length (s : State) (q off : Nat) : (s.staticWord q off).length = 32 := by
  unfold State.staticWord
  split
  · simp
  · split
    · exact Pasture.bytes_length ..
    · simp

/-! ## Exclusive or -/

@[simp] theorem xorBytes_length (a b : List Byte) : (xorBytes a b).length = min a.length b.length := by simp [xorBytes]

theorem xorBytes_getElem {a b : List Byte} {i : Nat} (h : i < (xorBytes a b).length) :
    (xorBytes a b)[i] = a[i]'(by simp at h; omega) ^^^ b[i]'(by simp at h; omega) := by
  simp [xorBytes]

theorem xorBytes_rightCommutative : RightCommutative xorBytes where
  right_comm a b c := by
    refine List.ext_getElem (by simp; omega) fun i _ _ => ?_
    simp only [xorBytes_getElem, BitVec.xor_assoc]
    exact congrArg _ (BitVec.xor_comm ..)

theorem xorBytes_cancel {a b : List Byte} (h : a.length = b.length) : xorBytes (xorBytes a b) b = a := by
  refine List.ext_getElem (by simp [h]) fun i _ _ => ?_
  simp only [xorBytes_getElem]
  rw [BitVec.xor_assoc, BitVec.xor_self, BitVec.xor_zero]

theorem xorBytes_zeros {a : List Byte} (h : a.length = 32) : xorBytes (List.replicate 32 0) a = a := by
  refine List.ext_getElem (by simp [h]) fun i _ _ => ?_
  simp only [xorBytes_getElem, List.getElem_replicate]
  exact BitVec.zero_xor

/-- The exclusive or of a word with the words of a list. -/
def xorAll (x : List Byte) (ws : List (List Byte)) : List Byte := ws.foldl xorBytes x

theorem xorAll_xorBytes (x a : List Byte) (ws : List (List Byte)) :
    xorAll (xorBytes x a) ws = xorBytes (xorAll x ws) a := by
  induction ws generalizing x with
  | nil => rfl
  | cons b ws ih => exact (congrArg (xorAll · ws) (xorBytes_rightCommutative.right_comm x a b)).trans (ih _)

theorem xorAll_length {x : List Byte} {ws : List (List Byte)} (h : ∀ a ∈ ws, a.length = x.length) :
    (xorAll x ws).length = x.length := by
  induction ws generalizing x with
  | nil => rfl
  | cons b ws ih =>
    have hb : (xorBytes x b).length = x.length := by simp [h b (by simp)]
    exact (ih fun a ha => (h a (by simp [ha])).trans hb.symm).trans hb

/-- Words of one length joined twice are gone. -/
theorem xorAll_twice {x : List Byte} {ws : List (List Byte)} (h : ∀ a ∈ ws, a.length = x.length) :
    xorAll (xorAll x ws) ws = x := by
  induction ws generalizing x with
  | nil => rfl
  | cons b ws ih =>
    have hws : ∀ a ∈ ws, a.length = x.length := fun a ha => h a (by simp [ha])
    have hb : (xorAll x ws).length = b.length := (xorAll_length hws).trans (h b (by simp)).symm
    calc xorAll (xorAll x (b :: ws)) (b :: ws)
        = xorAll (xorBytes (xorBytes (xorAll x ws) b) b) ws := by
          rw [← xorAll_xorBytes x b ws]
          rfl
      _ = x := by rw [xorBytes_cancel hb, ih hws]

/-! ## The members of a group -/

/-- Every member of a group but one. -/
def othersThan (g p : Nat) : List Nat := (List.range g).filter fun r => decide (r ≠ p)

/-- A member and those that are neither it nor the parity's own are all but the parity's own. -/
theorem othersThan_perm {g p q : Nat} (hq : q < g) (h : q ≠ p) :
    (othersThan g p).Perm (q :: (othersThan g p).filter fun r => decide (r ≠ q)) := by
  have nodup : (othersThan g p).Nodup := List.nodup_range.filter _
  have mem : q ∈ othersThan g p := by simp [othersThan, hq, h]
  have erased : (othersThan g p).erase q = (othersThan g p).filter fun r => decide (r ≠ q) := by
    rw [nodup.erase_eq_filter]
    simp [Bool.beq_eq_decide_eq, bne]
  exact erased ▸ List.perm_cons_erase mem

theorem State.parityWord_eq (s : State) (p w : Nat) :
    s.parityWord p w = xorAll (List.replicate 32 0) ((othersThan s.groupSize p).map (s.contribution p · w)) := by
  simp [State.parityWord, xorAll, othersThan, List.foldl_map, List.foldl_filter]

/-- A chunk of a member has its parity with another member, which counts it as that chunk (R154). -/
theorem chunkFor_parityOf {g q j : Nat} (hq : q < g) (hj : j + 2 ≤ g) :
    q ≠ parityOf g q j ∧ chunkFor g (parityOf g q j) q = j := by
  have some_ : g ≠ 0 := by omega
  rw [chunkFor, parityOf, if_neg some_, if_neg some_]
  by_cases h : q + j + 1 < g
  · rw [Nat.mod_eq_of_lt h]
    refine ⟨by omega, ?_⟩
    rw [show q + j + 1 + 2 * g - q - 1 = j + g * 2 by omega, Nat.add_mul_mod_self_left]
    exact Nat.mod_eq_of_lt (by omega)
  · have wrapped : (q + j + 1) % g = q + j + 1 - g := by
      rw [Nat.mod_eq_sub_mod (by omega), Nat.mod_eq_of_lt (by omega)]
    rw [wrapped]
    refine ⟨by omega, ?_⟩
    rw [show q + j + 1 - g + 2 * g - q - 1 = j + g by omega, Nat.add_mod_right]
    exact Nat.mod_eq_of_lt (by omega)

/-- A word rebuilt is the parity word joined with the contributions of the members left. -/
theorem State.rebuiltWord_eq_some {s : State} {q off : Nat} {h : CoreNo} (covered : off / chunkBytes + 2 ≤ s.groupSize)
    (holder : s.parityCore (parityOf s.groupSize q (off / chunkBytes)) = some h)
    (readable : s.cores[h].pasture.unreadable ((dataEnd + off % chunkBytes) / 32) = false)
    (others : ∀ r, r < s.groupSize → r ≠ parityOf s.groupSize q (off / chunkBytes) → r ≠ q →
      s.unreadable r (chunkFor s.groupSize (parityOf s.groupSize q (off / chunkBytes)) r * chunkBytes + off % chunkBytes) = false) :
    s.rebuiltWord q off = some (xorAll (s.cores[h].pasture.bytes (dataEnd + off % chunkBytes) 32)
      (((othersThan s.groupSize (parityOf s.groupSize q (off / chunkBytes))).filter fun r => decide (r ≠ q)).map
        (s.contribution (parityOf s.groupSize q (off / chunkBytes)) · (off % chunkBytes)))) := by
  unfold State.rebuiltWord
  extract_lets g j w p at0
  rw [show s.parityCore p = some h from holder]
  dsimp only
  have ready : ¬(s.cores[h].pasture.unreadable (at0 / 32) = true ∨ g < j + 2) := by
    rintro (lost | small)
    · exact Bool.false_ne_true (readable.symm.trans lost)
    · exact absurd covered (Nat.not_le.2 small)
  have whole : ((List.range g).any fun r => decide (r ≠ p) && decide (r ≠ q) &&
      s.unreadable r (chunkFor g p r * chunkBytes + w)) = false := by
    simp only [List.any_eq_false, List.mem_range, Bool.and_eq_true, decide_eq_true_eq]
    rintro r hr ⟨⟨hp, hq⟩, bad⟩
    exact Bool.false_ne_true ((others r hr hp hq).symm.trans bad)
  rw [if_neg ready, whole]
  simp only [Bool.false_eq_true, if_false, xorAll, othersThan, List.foldl_map, List.foldl_filter]
  congr 2
  funext x r
  by_cases hp : r = p
  · simp [hp, p, g, j]
  · by_cases hq : r = q <;> simp [hp, hq, p, g, j, w]

/-- Settles O29: the parity word is the missing word joined with the other contributions, which joined again are gone. -/
theorem parityRebuildsAnyWord : Obligations.ParityRebuildsAnyWord := by
  rintro s q off p h inGroup covered rfl holder readable inPlace others
  obtain ⟨apart, chunk⟩ := chunkFor_parityOf inGroup covered
  rw [State.rebuiltWord_eq_some covered holder readable others, inPlace, State.parityWord_eq]
  generalize parityOf s.groupSize q (off / chunkBytes) = p at *
  have own : s.contribution p q (off % chunkBytes) = s.staticWord q off := by
    rw [State.contribution, chunk, Nat.div_add_mod']
  have joined : xorAll (List.replicate 32 0) ((othersThan s.groupSize p).map (s.contribution p · (off % chunkBytes))) =
      xorAll (s.staticWord q off) (((othersThan s.groupSize p).filter fun r => decide (r ≠ q)).map
        (s.contribution p · (off % chunkBytes))) := by
    have := xorBytes_rightCommutative
    refine (((othersThan_perm inGroup apart).map _).foldl_eq _).trans ?_
    rw [List.map_cons, List.foldl_cons, own, xorBytes_zeros (s.staticWord_length q off)]
    rfl
  have lengths : ∀ a ∈ ((othersThan s.groupSize p).filter fun r => decide (r ≠ q)).map
      (s.contribution p · (off % chunkBytes)), a.length = (s.staticWord q off).length := by
    intro a ha
    obtain ⟨r, -, rfl⟩ := List.mem_map.1 ha
    exact (s.staticWord_length ..).trans (s.staticWord_length q off).symm
  rw [joined, xorAll_twice lengths]

end Sys2Proof.Machine


/-! The tick commands (R11, R16, R19 to R26, R299, R430): TICK_INSTANT in tick lock and holdover, the loss of REFCLK, and the
small commands of the tick. -/

namespace Sys2Proof.Machine

/-! ## What the actions of an instant leave of the tick -/

/-- The tick without the three fields that the actions of an instant set after they have let go of the words. -/
def Tick.begun (t : Tick) : Tick := { t with placed := none, correction := 0, drained := false }

theorem State.begun_of_still {s t : State} (h : t.still = s.still) : t.tick.begun = s.tick.begun :=
  congrArg Tick.begun (State.tick_of_still h)

theorem State.begun_foldl {β : Type} (f : State → β → State) (h : ∀ s b, (f s b).still = s.still) (l : List β) (s : State) :
    (l.foldl f s).tick.begun = s.tick.begun := State.begun_of_still (State.still_foldl f h l s)

theorem State.drainInstant_begun (s : State) (even : Bool) : (s.drainInstant even).tick.begun = s.tick.begun := by
  unfold State.drainInstant
  extract_lets d0 d1 was s1 t1 s2
  have sent : s1.tick.begun = s.tick.begun :=
    State.begun_of_still ((State.sendDrain_still ..).trans (State.sendDrain_still ..))
  refine (State.begun_foldl _ (fun u f => ?_) _ s2).trans sent
  dsimp only
  split
  · exact State.onFold_still ..
  · exact (State.record_still ..).trans (State.onFold_still ..)

theorem State.switchSection_begun (s : State) (m : ModuleSection) : (s.switchSection m).tick.begun = s.tick.begun := by
  unfold State.switchSection
  split
  · rfl
  · extract_lets hit s1 s2 t2 s3 s4
    have stopped : s1.tick.begun = s.tick.begun := by
      refine State.begun_foldl _ (fun u f => ?_) _ _
      split
      · rfl
      · exact (State.onFold_still ..).trans (State.stopFold_still ..)
    have used : s2.tick.begun = s1.tick.begun := State.begun_of_still (State.useSection_still ..)
    have placed : s3.tick.begun = s2.tick.begun := by
      unfold s3
      split <;> rfl
    have kept : s3.tick.begun = s.tick.begun := placed.trans (used.trans stopped)
    split
    · exact (State.begun_of_still ((State.advanceMoved_still ..).trans (State.buildMap_still ..))).trans kept
    · exact kept

theorem State.sectionInstant_begun (s : State) : s.sectionInstant.tick.begun = s.tick.begun := by
  have committed (g : TackEntry → TackEntry) : (s.commitEntry moduleEntry g).tick.begun = s.tick.begun :=
    State.begun_of_still (State.commitEntry_still ..)
  unfold State.sectionInstant
  extract_lets e section_ s1
  split
  · exact committed _
  split
  · split
    · exact (State.switchSection_begun ..).trans (committed _)
    · rfl
  split
  · split
    · exact (State.switchSection_begun ..).trans (committed _)
    · exact committed _
  · rfl

theorem State.correct_begun (s : State) : s.correct.tick.begun = s.tick.begun := by
  unfold State.correct
  split
  · dsimp only
    split <;> rfl
  · rfl

/-- The tick as the actions of an instant find it: the words are gone, and the reserve has not begun. -/
def Tick.opened (t : Tick) (healthy relock : Bool) : Tick :=
  { t with chA := none, chB := none, healthy := healthy, confirmed := false, inReserve := false, relock := t.relock && !relock }

/-- A tick that stands as another one was placed, without words and outside the reserve. -/
structure Tick.standsAt (t u : Tick) : Prop where
  number : t.number = u.number
  instant : t.instant = u.instant
  lock : t.lock = u.lock
  holdover : t.holdover = u.holdover
  chA : t.chA = none
  chB : t.chB = none
  outside : t.inReserve = false

theorem Tick.standsAt_of_begun {t u : Tick} {healthy relock : Bool} (h : t.begun = (u.opened healthy relock).begun) :
    t.standsAt u := by
  have field {α : Type} (f : Tick → α) : f t.begun = f (u.opened healthy relock).begun := congrArg f h
  exact ⟨field Tick.number, field Tick.instant, field Tick.lock, field Tick.holdover, field Tick.chA, field Tick.chB,
    field Tick.inReserve⟩

theorem State.instantActions_begun (s : State) (was : BitVec 48) (healthy relock : Bool) :
    (s.instantActions was healthy relock).tick.begun = (s.tick.opened healthy relock).begun := by
  unfold State.instantActions
  extract_lets t0 s1 s2 s3 s4 s5 s6 s7 s8 s9 s10 s11 s12 s13 s14 s15 s16 s17 s18 s19
  have h1 : s1.tick.begun = (s.tick.opened healthy relock).begun := rfl
  have h2 : s2.tick.begun = s1.tick.begun := by
    unfold s2
    split
    · exact State.begun_of_still (State.count_still ..)
    · rfl
  have h4 : s4.tick.begun = s2.tick.begun := State.begun_of_still <|
    (State.handovers_still _).trans <| (State.takeover_still _).trans (State.onSess_still ..)
  have h5 : s5.tick.begun = s4.tick.begun := State.drainInstant_begun ..
  have h6 : s6.tick.begun = s5.tick.begun := State.begun_of_still <|
    (State.substituteInstant_still _).trans <| (State.rejoinInstant_still _).trans (State.retrainInstant_still _)
  have h7 : s7.tick.begun = s6.tick.begun := State.sectionInstant_begun _
  have h9 : s9.tick.begun = s7.tick.begun :=
    (State.begun_foldl _ (fun _ _ => State.foldInstant_still ..) _ _).trans (State.begun_of_still (State.copyStarts_still _))
  have h10 : s10.tick.begun = s9.tick.begun := by simp only [s10]
  have h14 : s14.tick.begun = s10.tick.begun := State.begun_of_still <|
    (State.windowsInstant_still _).trans <| (State.still_foldl _ State.replayInstant_still _ _).trans <|
      (State.rearmInstant_still _).trans (State.spareRuns_still _)
  have h18 : s18.tick.begun = s14.tick.begun := State.begun_of_still <|
    (State.resetTickSamples_still _).trans <| (State.still_foldl _ State.pollMembers_still _ _).trans <|
      (State.supInstant_still _).trans (State.still_foldl _ State.beginFoldTick_still _ _)
  have h19 : s19.tick.begun = s18.tick.begun := State.correct_begun _
  have h : s19.tick.begun = (s.tick.opened healthy relock).begun := by rw [h19, h18, h14, h10, h9, h7, h6, h5, h4, h2, h1]
  split
  · simpa only using h
  · exact h

/-- The ticks of the folds that end leave what an instant is placed by. -/
theorem State.judged_congr {e s : State} (hsec : e.sec? = s.sec?) (htick : e.tick = s.tick) :
    e.period = s.period ∧ e.judged = s.judged := by
  have hperiod : e.period = s.period := by simp only [State.period, hsec]
  exact ⟨hperiod, by simp only [State.judged, hperiod, htick]⟩

/-- TICK_INSTANT that places a tick on any state with this section, power state and tick: the tick begins so, without words and
outside the reserve. -/
theorem State.instantOp_begins {s : State} {p : Tick → Prop}
    (placing : ∀ e : State, e.sec? = s.sec? → e.power = s.power → e.tick = s.tick → ∃ n, e.placeInstant = some n ∧ p n.tick) :
    ∃ u, p u ∧ s.instantOp.tick.standsAt u := by
  obtain ⟨hsec, hpower, htick⟩ := State.ended_frame s
  obtain ⟨n, placed, hn⟩ := placing _ hsec hpower htick
  have run : s.instantOp = n.instantActions s.tick.number
      ((s.tick.lock || s.tick.holdover) && s.tick.confirmed && s.tick.drained) (s.tick.relock && s.tick.agreed.isSome) := by
    unfold State.instantOp
    simp only [placed]
  have begun := n.instantActions_begun s.tick.number
    ((s.tick.lock || s.tick.holdover) && s.tick.confirmed && s.tick.drained) (s.tick.relock && s.tick.agreed.isSome)
  rw [← run] at begun
  exact ⟨n.tick, hn, Tick.standsAt_of_begun begun⟩

/-! ## Placing an instant in tick lock, in holdover and past the limit of holdover (R23, Table 1.4) -/

/-- What TICK_INSTANT places in tick lock: the word that Table 1.4 names, else the predicted cycle in holdover. -/
def Tick.follow (t : Tick) (at_ : Nat) (j : Nat × Option TickWord) : Tick :=
  match j.2 with
  | some w => { t.take w with agree := if j.1 = 1 then t.agree + 1 else 0, case := j.1 }
  | none => { t.hold at_ with agree := if j.1 = 1 then t.agree + 1 else 0, case := j.1, lock := false, holdover := true }

section
variable {s : State} (hs : s.sec?.isSome = true) (good : s.power.good = true) (predicting : s.tick.predicting = true)
  (relock : s.tick.relock = false)
include hs good predicting relock

theorem State.placeInstant_locked (lock : s.tick.lock = true) (holdover : s.tick.holdover = false)
    (present : s.power.refLost = none) (expired : s.power.refExpired = false) :
    ∃ n, s.placeInstant = some n ∧ n.tick = s.tick.follow (s.tick.instant + s.period) s.judged := by
  unfold State.placeInstant
  extract_lets t at_ fresh j u agree held
  have section_ : ¬(s.sec?.isNone = true ∨ (!s.power.good) = true) := by
    simp [Option.isSome_iff_ne_none.1 hs, good]
  have following : (t.lock || t.holdover) = true := by simp [t, lock]
  have free : ¬(u.power.refLost.isSome || t.holdover) = true := by simp [u, t, present, holdover]
  rw [if_neg section_, if_neg (by simp [t, predicting]), if_neg (by simp [t, relock]), if_neg (by simp [u, expired]),
    if_pos following, if_neg free, show s.judged = j from rfl]
  unfold Tick.follow
  cases j.2 with
  | some w => exact ⟨_, rfl, rfl⟩
  | none => exact ⟨_, rfl, rfl⟩

/-- Without REFCLK every tick is a holdover tick (Table 19.7). -/
theorem State.placeInstant_unclocked (lost : s.power.refLost.isSome = true) (expired : s.power.refExpired = false)
    (following : s.tick.lock = true ∨ s.tick.holdover = true) :
    ∃ n, s.placeInstant = some n ∧ ∃ agree, n.tick = { s.tick.hold (s.tick.instant + s.period) with
      agree := agree, case := s.judged.1, lock := false, holdover := true } := by
  unfold State.placeInstant
  extract_lets t at_ fresh j u agree held
  have section_ : ¬(s.sec?.isNone = true ∨ (!s.power.good) = true) := by
    simp [Option.isSome_iff_ne_none.1 hs, good]
  have unclocked : (u.power.refLost.isSome || t.holdover) = true := by simp [u, lost]
  rw [if_neg section_, if_neg (by simp [t, predicting]), if_neg (by simp [t, relock]), if_neg (by simp [u, expired]),
    if_pos (by simpa [t] using following), if_pos unclocked]
  exact ⟨_, rfl, agree, rfl⟩

/-- Past the limit of holdover the module is in neither lock (R23). -/
theorem State.placeInstant_expired (expired : s.power.refExpired = true) :
    ∃ n, s.placeInstant = some n ∧
      n.tick = { s.tick.hold (s.tick.instant + s.period) with
        agree := 0, case := s.judged.1, lock := false, holdover := false } := by
  unfold State.placeInstant
  extract_lets t at_ fresh j u agree held
  have section_ : ¬(s.sec?.isNone = true ∨ (!s.power.good) = true) := by
    simp [Option.isSome_iff_ne_none.1 hs, good]
  rw [if_neg section_, if_neg (by simp [t, predicting]), if_neg (by simp [t, relock]), if_pos (by simp [u, expired])]
  exact ⟨_, rfl, rfl⟩

end

/-- The word that the judgement takes matches the prediction. -/
theorem fits_of_judge {number : BitVec 48} {at_ : Nat} {a b : Option TickWord} {w : TickWord}
    (h : (judge number at_ a b).2 = some w) : w.fits number at_ = true := by
  unfold judge at h
  grind

/-- The judgement of the words of both channels. -/
theorem judge_both {number : BitVec 48} {at_ : Nat} {x y : TickWord} :
    (x.agrees y = true → x.fits number at_ = true → y.fits number at_ = true →
      (judge number at_ (some x) (some y)).2 = some x) ∧
    (x.agrees y = true → ¬(x.fits number at_ = true ∧ y.fits number at_ = true) →
      (judge number at_ (some x) (some y)).2 = none) ∧
    (¬x.agrees y = true → x.fits number at_ = true → ¬y.fits number at_ = true →
      (judge number at_ (some x) (some y)).2 = some x) ∧
    (¬x.agrees y = true → ¬x.fits number at_ = true → y.fits number at_ = true →
      (judge number at_ (some x) (some y)).2 = some y) ∧
    (¬x.agrees y = true → (x.fits number at_ = true ↔ y.fits number at_ = true) →
      (judge number at_ (some x) (some y)).2 = none) := by
  simp only [judge]
  cases x.agrees y <;> cases x.fits number at_ <;> cases y.fits number at_ <;> simp

section
variable {s : State} {m : ModuleSection} (hs : s.sec? = some m) (lock : s.tick.lock = true) (holdover : s.tick.holdover = false)
include hs lock holdover

/-- A tick placed on a judgement in tick lock has the next number, and begins at the word taken, in lock, or as predicted, in
holdover. -/
theorem Tick.follow_cases (j : Nat × Option TickWord) (fits : ∀ w, j.2 = some w → wordMatches s m w) :
    (s.tick.follow (s.tick.instant + s.period) j).number = s.tick.number + 1 ∧
    (∀ w, j.2 = some w → (s.tick.follow (s.tick.instant + s.period) j).instant = w.edge ∧
      (s.tick.follow (s.tick.instant + s.period) j).lock = true ∧
      (s.tick.follow (s.tick.instant + s.period) j).holdover = false) ∧
    (j.2 = none → (s.tick.follow (s.tick.instant + s.period) j).instant = s.tick.instant + 2000 * m.period ∧
      (s.tick.follow (s.tick.instant + s.period) j).lock = false ∧
      (s.tick.follow (s.tick.instant + s.period) j).holdover = true) := by
  unfold Tick.follow
  cases h : j.2 with
  | some w =>
    obtain ⟨next, -⟩ := fits w h
    refine ⟨next, fun v hv => ?_, nofun⟩
    cases hv
    exact ⟨rfl, lock, holdover⟩
  | none => exact ⟨rfl, nofun, fun _ => ⟨by rw [← State.period_of_section hs]; rfl, rfl, rfl⟩⟩

end

/-- Settles O8: Table 1.4 is the judgement of the words, and the placing of the instant follows it. -/
theorem tickInstantInLock : Obligations.TickInstantInLock := by
  intro s m hs good predicting lock holdover relock present expired
  have some_ := Option.isSome_of_eq_some hs
  obtain ⟨_, rfl, number, instant, locks, holds, chA, chB, reserve⟩ := State.instantOp_begins
    (s := s) (p := (· = s.tick.follow (s.tick.instant + s.period) s.judged)) fun e hsec hpower htick => by
      obtain ⟨hperiod, hjudged⟩ := State.judged_congr hsec htick
      rw [← hperiod, ← hjudged, ← htick]
      exact State.placeInstant_locked (hsec ▸ some_) (hpower ▸ good) (htick ▸ predicting) (htick ▸ relock) (htick ▸ lock)
        (htick ▸ holdover) (hpower ▸ present) (hpower ▸ expired)
  have fits : ∀ w, s.judged.2 = some w → wordMatches s m w := fun w h => (TickWord.fits_iff hs w).1 (fits_of_judge h)
  obtain ⟨next, taken, held⟩ := Tick.follow_cases hs lock holdover s.judged fits
  have takes (x : TickWord) (h : s.judged.2 = some x) : takesWord s.instantOp x := by
    obtain ⟨a, b, c⟩ := taken x h
    exact ⟨instant.trans a, locks.trans b, holds.trans c⟩
  have holdsAt (h : s.judged.2 = none) : holdsOver s s.instantOp m := by
    obtain ⟨a, b, c⟩ := held h
    exact ⟨instant.trans a, locks.trans b, holds.trans c⟩
  have matches_ (x : TickWord) := (TickWord.fits_iff hs x).symm
  refine ⟨_, exec_tickInstant s, number.trans next, chA, chB, reserve, s.instantOp_pres, fun x y hx hy => ?_, fun x one => ?_,
    fun hx hy => holdsAt (by rw [State.judged, hx, hy]; rfl)⟩
  · obtain ⟨agreeing, broken, first, second, neither⟩ :=
      judge_both (number := s.tick.number + 1) (at_ := s.tick.instant + s.period) (x := x) (y := y)
    rw [← hx, ← hy] at agreeing broken first second neither
    rw [matches_ x, matches_ y, ← TickWord.agrees_iff]
    exact ⟨fun agree fx fy => takes x ((agreeing agree fx fy).trans hx), fun agree misfit => holdsAt (broken agree misfit),
      fun differ fx fy => takes x ((first differ fx fy).trans hx), fun differ fx fy => takes y ((second differ fx fy).trans hy),
      fun differ same => holdsAt (neither differ same)⟩
  · rw [matches_ x]
    obtain ⟨hx, hy⟩ | ⟨hx, hy⟩ := one
    all_goals
      refine ⟨fun fit => takes x ?_, fun misfit => holdsAt ?_⟩ <;> rw [State.judged, hx, hy, judge]
      · rw [if_pos fit]
      · rw [if_neg misfit]

/-! ## HOLDOVER_LEFT, TICK_LOCK_REACHED and REFCLK (R23, R24, R430) -/

theorem exec_holdoverLeft (s : State) : exec .holdoverLeft s = .next s.holdoverLeftOp := rfl
theorem exec_refclkLost (s : State) : exec .refclkLost s = .next s.refLostOp := rfl
theorem exec_refclkHoldoverExpired (s : State) : exec .refclkHoldoverExpired s = .next s.refExpiredOp := rfl
theorem exec_refclkRelock (s : State) : exec .refclkRelock s = .next s.refRelockOp := rfl

/-- An entry of the log changes the log and the module counters alone. -/
theorem State.log1_eq (s : State) (code : BitVec 16) (fold : Option FoldNo) (l p : Option CoreNo) (d : List Byte) :
    s.log1 code fold l p d = { s with log := (s.log1 code fold l p d).log, ctrs := (s.log1 code fold l p d).ctrs } := rfl

theorem State.logRefclk_eq (s : State) : s.logRefclk = { s with log := s.logRefclk.log, ctrs := s.logRefclk.ctrs } := rfl

theorem State.holdoverLeftOp_of_ready {s : State} (reached : 16 ≤ s.tick.agree) (present : s.power.refLost = none)
    (holdover : s.tick.holdover = true) :
    s.holdoverLeftOp = { s with
      tick := { s.tick with holdover := false, lock := true }, log := s.holdoverLeftOp.log, ctrs := s.holdoverLeftOp.ctrs } := by
  unfold State.holdoverLeftOp
  rw [if_pos ⟨holdover, reached, by simp [present]⟩]
  rfl

theorem State.holdoverLeftOp_of_not {s : State}
    (h : s.tick.agree < 16 ∨ s.power.refLost.isSome = true ∨ s.tick.holdover = false) : s.holdoverLeftOp = s := by
  unfold State.holdoverLeftOp
  refine if_neg fun ⟨holdover, reached, present⟩ => ?_
  obtain few | lost | none_ := h
  · exact absurd reached (Nat.not_le.2 few)
  · simp [Option.isNone_iff_eq_none.1 present] at lost
  · simp [none_] at holdover

theorem State.tickLockOp_of_not {s : State} (h : s.tick.agree < 16 ∨ s.power.refLost.isSome = true) : s.tickLockOp = s := by
  obtain few | lost := h
  · exact State.tickLockOp_of_not_reached few
  · unfold State.tickLockOp
    refine if_neg fun ⟨_, _, _, _, _, present⟩ => ?_
    simp [Option.isNone_iff_eq_none.1 present] at lost

/-- Settles O10: the conditions of each command as its definition tests them, and the placing of an instant without REFCLK. -/
theorem lockFollowsTicksAndRefclk : Obligations.LockFollowsTicksAndRefclk := by
  refine ⟨fun s => ⟨fun reached present holdover => ?_, fun h => ?_, fun reached present predicting lock holdover expired => ?_,
      fun h => ?_⟩,
    fun s m hs good predicting relock => ⟨fun lost expired following => ?_, fun expired => ?_⟩,
    fun s => ⟨fun lost => ?_, fun present => ?_, fun present => ?_, fun lost => ?_, fun lost => ?_⟩⟩
  · exact ⟨_, exec_holdoverLeft s, State.holdoverLeftOp_of_ready reached present holdover⟩
  · exact congrArg Host.Outcome.next (State.holdoverLeftOp_of_not h)
  · obtain ⟨locked, kept⟩ := State.tickLockOp_of_reached present expired predicting lock holdover reached
    refine ⟨_, exec_tickLockReached s, locked, ?_⟩
    rw [kept]
    exact ⟨holdover, rfl, rfl, rfl⟩
  · exact congrArg Host.Outcome.next (State.tickLockOp_of_not h)
  · have some_ := Option.isSome_of_eq_some hs
    obtain ⟨_, ⟨agree, rfl⟩, number, instant, locks, holds, -⟩ := State.instantOp_begins (s := s)
      (p := fun u => ∃ agree, u = { s.tick.hold (s.tick.instant + s.period) with
        agree := agree, case := s.judged.1, lock := false, holdover := true }) fun e hsec hpower htick => by
        obtain ⟨hperiod, hjudged⟩ := State.judged_congr hsec htick
        rw [← hperiod, ← hjudged, ← htick]
        exact State.placeInstant_unclocked (hsec ▸ some_) (hpower ▸ good) (htick ▸ predicting) (htick ▸ relock) (hpower ▸ lost)
          (hpower ▸ expired) (htick ▸ following)
    exact ⟨_, exec_tickInstant s, number, instant.trans (by rw [← State.period_of_section hs]; rfl), locks, holds⟩
  · have some_ := Option.isSome_of_eq_some hs
    obtain ⟨_, rfl, number, instant, locks, holds, -⟩ := State.instantOp_begins (s := s)
      (p := (· = { s.tick.hold (s.tick.instant + s.period) with
        agree := 0, case := s.judged.1, lock := false, holdover := false })) fun e hsec hpower htick => by
        obtain ⟨hperiod, hjudged⟩ := State.judged_congr hsec htick
        rw [← hperiod, ← hjudged, ← htick]
        exact State.placeInstant_expired (hsec ▸ some_) (hpower ▸ good) (htick ▸ predicting) (htick ▸ relock) (hpower ▸ expired)
    exact ⟨_, exec_tickInstant s, number, instant.trans (by rw [← State.period_of_section hs]; rfl), locks, holds⟩
  · exact congrArg Host.Outcome.next (if_pos lost)
  · refine ⟨_, exec_refclkLost s, ?_⟩
    rw [State.refLostOp, present]
    rfl
  · rw [exec_refclkHoldoverExpired, exec_refclkRelock, State.refExpiredOp, State.refRelockOp, present]
    exact ⟨rfl, rfl⟩
  · rw [exec_refclkHoldoverExpired, State.refExpiredOp, if_neg (by simpa [Option.isSome_iff_ne_none] using lost)]
  · refine ⟨_, exec_refclkRelock s, ?_⟩
    rw [State.refRelockOp, if_neg (by simpa [Option.isSome_iff_ne_none] using lost)]
    refine ⟨rfl, fun past => ?_, fun within => ?_⟩
    · simp only [past]
      rfl
    · simp only [within]
      rfl

/-! ## TICK_OUT, the reserve and the heartbeat (R19, R20, R26, R299) -/

theorem exec_tickOutSend (s : State) : exec .tickOutSend s = .next s.tickOutOp := rfl
theorem exec_heartbeatToggle (s : State) : exec .heartbeatToggle s = .next s.heartbeatOp := rfl
theorem exec_reserveStart (a b : Bool) (s : State) : exec (.reserveStart a b) s = .next (s.reserveOp a b) := rfl

/-- The word of a bellwether that can send one: of the instant that it places next, once that is near. -/
theorem State.tickOutOp_of_next {s : State} {m : ModuleSection} (hs : s.sec? = some m) (good : s.power.good = true)
    (booted : 3 ≤ s.power.bootStep) (bellwether : m.bellwether = true) {c : Nat} {n : BitVec 48}
    (next : s.placeNext m = some (c, n)) :
    s.tickOutOp = if c ≤ s.now + s.tick.loop.getD 0 then { s with tick := { s.tick with
      placed := some c, placedNumber := n, correction := 0, outAt := some s.now
      outWord := n ++ Config.bellwetherCode n.toNat } } else s := by
  unfold State.tickOutOp
  simp only [hs]
  rw [if_neg (by simp [bellwether, good]; omega)]
  simp only [next]

/-- A bellwether that places no instant sends no word. -/
theorem State.tickOutOp_of_unplaced {s : State} {m : ModuleSection} (hs : s.sec? = some m) (next : s.placeNext m = none) :
    s.tickOutOp = s := by
  unfold State.tickOutOp
  simp only [hs, next, ite_self]

theorem State.tickOutOp_of_follower {s : State} {m : ModuleSection} (hs : s.sec? = some m) (follower : m.bellwether = false) :
    s.tickOutOp = s := by
  unfold State.tickOutOp
  simp [hs, follower]

theorem State.placeNext_of_placed {s : State} {m : ModuleSection} {c d : Nat} (placed : s.tick.placed = some c)
    (next : (d : Int) = c + 2000 * m.period + s.tick.correction) :
    s.placeNext m = some (d, s.tick.placedNumber + 1) := by
  unfold State.placeNext
  simp only [placed]
  congr 2
  push_cast
  omega

/-- The next multiple of a period that is at least a time (R20). -/
theorem neg_ediv_neg_of_between {p t n : Int} (above : p * (n - 1) < t) (upTo : t ≤ p * n) : p ≠ 0 ∧ -(-t / p) = n := by
  have pos : 0 < p := by nlinarith
  refine ⟨pos.ne', ?_⟩
  have quotient : -t / p = -n := by
    rw [Int.ediv_eq_iff_of_pos pos]
    constructor <;> nlinarith
  omega

theorem State.placeNext_of_time {s : State} {m : ModuleSection} {t n : Int} {d : Nat} (unplaced : s.tick.placed = none)
    (time : s.ptp.time2 s.now = some t) (above : 2000 * m.period * (n - 1) < t) (upTo : t ≤ 2000 * m.period * n)
    (next : (d : Int) = s.now + 2000 * m.period * n - t) : s.placeNext m = some (d, BitVec.ofInt 48 n) := by
  obtain ⟨some_, multiple⟩ := neg_ediv_neg_of_between above upTo
  unfold State.placeNext
  simp only [unplaced, time, Option.map_some, if_neg some_, multiple]
  congr 2
  rw [mul_comm n]
  omega

theorem State.supReserve_inReserve (s : State) (u : Sup) (ok : Bool) :
    (s.supReserve u ok).tick.inReserve = s.tick.inReserve := by
  unfold State.supReserve
  extract_lets x
  split
  · split
    · rfl
    · rw [State.tick_of_still (State.supFail_still ..), State.tick_of_still (State.onSup_still ..)]
  · rfl

theorem State.reserveOp_of_not {s : State} {a b : Bool}
    (h : s.sec?.isNone = true ∨ (!s.tick.predicting) = true ∨ s.tick.inReserve = true ∨ (!s.power.good) = true ∨
      s.rel < s.reserveAt) : s.reserveOp a b = s := by
  unfold State.reserveOp
  exact if_pos h

theorem State.reserveOp_inReserve {s : State} {a b : Bool}
    (h : ¬(s.sec?.isNone = true ∨ (!s.tick.predicting) = true ∨ s.tick.inReserve = true ∨ (!s.power.good) = true ∨
      s.rel < s.reserveAt)) : (s.reserveOp a b).tick.inReserve = true := by
  unfold State.reserveOp
  rw [if_neg h]
  extract_lets t1 s1 s2 s3 s4 s5 s6 s7 s8 s9 s10 s11 s12
  have begun : s1.tick.inReserve = true := rfl
  have h2 : s2.tick = s1.tick := State.tick_of_still (State.still_foldl _ State.overrunCheck_still _ _)
  have h3 : s3.tick = s2.tick := by simp only [s3]
  have h4 : s4.tick = s3.tick := State.tick_of_still (State.still_foldl _ State.sampleFoldInputs_still _ _)
  have h5 : s5.tick = s4.tick := State.tick_of_still ((State.takeSample_still _).trans (State.snapshot_still _))
  have h6 : s6.tick = s5.tick := by simp only [s6]
  have h7 : s7.tick = s6.tick := State.tick_of_still (State.serveReads_still _)
  have h10 : s10.tick = s7.tick := State.tick_of_still <|
    (State.still_foldl _ State.recurrence_still _ _).trans <| (State.still_foldl _ State.closeTensors_still _ _).trans
      (State.still_foldl _ State.reportReserve_still _ _)
  have h12 : s12.tick = s10.tick :=
    State.tick_of_still ((State.lowerCores_still _).trans (State.selfChecks_still _))
  have kept : s12.tick = s1.tick := by rw [h12, h10, h7, h6, h5, h4, h3, h2]
  rw [State.supReserve_inReserve, State.supReserve_inReserve, kept]

theorem State.tick_of_fixed {s t : State} (h : t.fixed = s.fixed) :
    t.tick.number = s.tick.number ∧ t.tick.instant = s.tick.instant := by
  have place := congrArg (fun x => x.2.2) h
  simp only [State.fixed, Prod.mk.injEq] at place
  exact ⟨place.1, place.2.1⟩

/-- Settles O11: each command as its definition tests its conditions. -/
theorem tickCommandsTakeEffect : Obligations.TickCommandsTakeEffect := by
  refine ⟨fun s w edge => ⟨rfl, rfl, rfl, rfl⟩, fun s m c d hs good booted placed next => ⟨fun bellwether near => ?_, fun h => ?_⟩,
    fun s m hs bellwether good booted unplaced => ⟨fun noTime => ?_, fun t n d time above upTo next => ⟨fun near => ?_, fun far => ?_⟩⟩,
    fun s m a b hs predicting outside good => ⟨fun due => ?_, fun early pos => ?_⟩,
    fun s good booted branded => ⟨fun healthy due => ?_, fun h => ?_⟩⟩
  · rw [exec_tickOutSend, State.tickOutOp_of_next hs good booted bellwether (State.placeNext_of_placed placed next), if_pos near]
  · rw [exec_tickOutSend]
    cases bellwether : m.bellwether with
    | false => rw [State.tickOutOp_of_follower hs bellwether]
    | true =>
      have far := h.resolve_left (by simp [bellwether])
      rw [State.tickOutOp_of_next hs good booted bellwether (State.placeNext_of_placed placed next), if_neg (Nat.not_le.2 far)]
  · rw [exec_tickOutSend, State.tickOutOp_of_unplaced hs (by simp [State.placeNext, unplaced, noTime])]
  · rw [exec_tickOutSend, State.tickOutOp_of_next hs good booted bellwether (State.placeNext_of_time unplaced time above upTo next),
      if_pos near]
  · rw [exec_tickOutSend, State.tickOutOp_of_next hs good booted bellwether (State.placeNext_of_time unplaced time above upTo next),
      if_neg (Nat.not_le.2 far)]
  · have begins : ¬(s.sec?.isNone = true ∨ (!s.tick.predicting) = true ∨ s.tick.inReserve = true ∨
        (!s.power.good) = true ∨ s.rel < s.reserveAt) := by
      simp [hs, predicting, outside, good, State.rel, State.reserveAt]
      omega
    have frame := State.reserveOp_fixed s a b
    obtain ⟨number, instant⟩ := State.tick_of_fixed frame
    have inside := State.reserveOp_inReserve (a := a) (b := b) begins
    exact ⟨_, exec_reserveStart a b s, inside, number, instant, State.pres_of_fixed frame,
      congrArg Host.Outcome.next (State.reserveOp_of_not (.inr (.inr (.inl inside))))⟩
  · refine congrArg Host.Outcome.next (State.reserveOp_of_not (.inr (.inr (.inr (.inr ?_)))))
    simp only [State.rel, State.reserveAt, hs]
    omega
  · have reached : heartbeatFrom ≤ s.rel := by
      simp only [State.rel, heartbeatFrom]
      omega
    rw [exec_heartbeatToggle, State.heartbeatOp, if_pos ⟨good, booted, branded, healthy, reached⟩]
  · rw [exec_heartbeatToggle, State.heartbeatOp, if_neg]
    rintro ⟨-, -, -, healthy, due⟩
    simp only [State.rel, heartbeatFrom] at due
    obtain h | h := h
    · simp [h] at healthy
    · omega

end Sys2Proof.Machine


/-! IEEE 1588 time (R19, R292): what each message and event of the receiver changes. -/

namespace Sys2Proof.Machine

/-- A command answers what its operation gives. -/
theorem exec_next {c : Instr} {s t u : State} (h : t = u) (e : exec c s = .next t := by rfl) : exec c s = .next u := h ▸ e

section
variable {s : State} {domain : BitVec 8} {seq : BitVec 16} {source : BitVec 64} {origin rx : Nat} {d : AnnounceData}

/-! ## Messages that are not for this receiver -/

theorem State.syncOp_of_unheard (h : s.ptpHears domain = false ∨ s.ptpFrom source = false) (two : Bool) :
    s.syncOp domain seq source two origin rx = s := by
  unfold State.syncOp
  exact if_neg (by simpa [imp_iff_not_or] using h)

theorem State.followOp_of_unheard (h : s.ptpHears domain = false ∨ s.ptpFrom source = false) :
    s.followOp domain seq source origin = s := by
  unfold State.followOp
  split
  · exact if_neg fun ⟨hears, selected, _⟩ => by simp [hears, selected] at h
  · rfl

theorem State.delayRespOp_of_unheard (h : s.ptpHears domain = false ∨ s.ptpFrom source = false) :
    s.delayRespOp domain seq source rx = s := by
  unfold State.delayRespOp
  split
  · exact if_neg fun ⟨hears, selected, _⟩ => by simp [hears, selected] at h
  · rfl

theorem State.announceOp_of_unheard (h : s.ptpHears domain = false) : s.announceOp domain d = s := by
  unfold State.announceOp
  exact if_pos (by simp [h])

theorem State.followOp_of_none (h : s.ptp.pending = none) : s.followOp domain seq source origin = s := by
  simp [State.followOp, h]

theorem State.delayRespOp_of_none (h : s.ptp.delayReq = none ∨ s.ptp.time = none) :
    s.delayRespOp domain seq source rx = s := by
  unfold State.delayRespOp
  split
  · next req time => simp [req, time] at h
  · rfl

/-! ## Messages of the selected transmitter -/

theorem State.announceOp_first (hears : s.ptpHears domain = true) (h : s.ptp.best = none) :
    s.announceOp domain d = { s with ptp := { s.ptp with best := some d } } := by
  simp [State.announceOp, hears, h]

theorem State.announceOp_same (hears : s.ptpHears domain = true) {b : AnnounceData} (h : s.ptp.best = some b)
    (same : b.identity = d.identity) : s.announceOp domain d = { s with ptp := { s.ptp with best := some d } } := by
  simp [State.announceOp, hears, h, same]

theorem State.announceOp_other (hears : s.ptpHears domain = true) {b : AnnounceData} (h : s.ptp.best = some b)
    (other : b.identity ≠ d.identity) :
    s.announceOp domain d = if before (announceKey d) (announceKey b) then
      { s with ptp := { s.ptp with best := some d, pending := none, delayReq := none } } else s := by
  simp [State.announceOp, hears, h, other]

theorem State.syncOp_selected (hears : s.ptpHears domain = true) (selected : s.ptpFrom source = true) (two : Bool) :
    s.syncOp domain seq source two origin rx = { s with ptp := { s.ptp with
      syncAt := some s.now, lost := false, pending := if two then some (seq, source, rx) else none
      time := if two then s.ptp.time else some (origin, rx) } } := by
  simp [State.syncOp, hears, selected]

theorem State.followOp_selected (hears : s.ptpHears domain = true) (selected : s.ptpFrom source = true)
    (h : s.ptp.pending = some (seq, source, rx)) :
    s.followOp domain seq source origin = { s with ptp := { s.ptp with pending := none, time := some (origin, rx) } } := by
  simp [State.followOp, hears, selected, h]

theorem State.delayRespOp_selected (hears : s.ptpHears domain = true) (selected : s.ptpFrom source = true) {sent o x : Nat}
    (req : s.ptp.delayReq = some (seq, sent)) (time : s.ptp.time = some (o, x)) :
    s.delayRespOp domain seq source rx = { s with ptp := { s.ptp with
      delayReq := none, delay := (2 * ((rx : Int) - o) - ((sent : Int) - x)) / 4 } } := by
  simp [State.delayRespOp, hears, selected, req, time]

end

/-! ## The receiver's own events -/

theorem State.delayReqOp_of_selected {s : State} {m : ModuleSection} (hs : s.sec? = some m) (bellwether : m.bellwether = true)
    (good : s.power.good = true) (selected : s.ptp.best.isSome = true) :
    s.delayReqOp = { s with ptp := { s.ptp with delayReq := some (s.ptp.seq, s.now), seq := s.ptp.seq + 1 } } := by
  simp [State.delayReqOp, hs, bellwether, good, selected]

theorem State.delayReqOp_of_not {s : State}
    (h : s.sec? = none ∨ (∃ m, s.sec? = some m ∧ m.bellwether = false) ∨ s.power.good = false ∨ s.ptp.best = none) :
    s.delayReqOp = s := by
  unfold State.delayReqOp
  split
  · next m hs =>
    refine if_neg fun ⟨good, bellwether, selected⟩ => ?_
    obtain h | ⟨k, hk, h⟩ | h | h := h
    · simp [hs] at h
    · cases hs.symm.trans hk
      simp [h] at bellwether
    · simp [h] at good
    · simp [h] at selected
  · rfl

/-- A module counter counts by one, and an entry of the log counts at most in the counter of lost entries. -/
theorem State.count_log1_ctr (s : State) {i : Fin 12} (h : i ≠ 11) (n : Nat) (code : BitVec 16) (fold : Option FoldNo)
    (l p : Option CoreNo) (d : List Byte) : ((s.count i n).log1 code fold l p d).ctrs[i] = (s.ctrs[i] : Ctr).add n := by
  have other := vmod_get_other (s.count i n).ctrs 11 i
    (fun c => c.add (((s.count i n).log1 code fold l p d).log.lost - (s.count i n).log.lost)) h
  exact other.trans (vmod_get_self ..)

theorem State.sourceLossOp_of_silent {s : State} (bellwether : s.isBellwether = true) (heard : s.ptp.lost = false)
    (late : s.ptp.syncAt.getD s.power.goodAt + 8000000000 ≤ s.now) :
    s.sourceLossOp = (({ s with ptp := { s.ptp with lost := true } }).count 6 1).log1 0x0605 none none none [] := by
  unfold State.sourceLossOp
  exact if_pos ⟨bellwether, by simp [heard], late⟩

theorem State.sourceLossOp_of_not {s : State}
    (h : s.isBellwether = false ∨ s.ptp.lost = true ∨ s.now < s.ptp.syncAt.getD s.power.goodAt + 8000000000) :
    s.sourceLossOp = s := by
  unfold State.sourceLossOp
  refine if_neg fun ⟨bellwether, heard, late⟩ => ?_
  obtain h | h | h := h
  · simp [h] at bellwether
  · simp [h] at heard
  · exact absurd late (Nat.not_le.2 h)

/-- The nearest second to a time in ns is at most half a second away. -/
theorem nearestSecond_bounds (t : Int) {r : Int}
    (h : r = if t % 1000000000 < 500000000 then t % 1000000000 else t % 1000000000 - 1000000000) :
    (-500000000 ≤ r ∧ r < 500000000) ∧ (t - r) % 1000000000 = 0 := by
  split at h <;> omega

/-- Settles O52: each message as its operation tests what it needs. -/
theorem ptpGivesTheTime : Obligations.PtpGivesTheTime := by
  intro s domain seq source origin rx d
  refine ⟨rfl, fun h => ⟨fun two => exec_next (State.syncOp_of_unheard h two), exec_next (State.followOp_of_unheard h),
      exec_next (State.delayRespOp_of_unheard h)⟩, fun h => exec_next (State.announceOp_of_unheard h),
    fun h => exec_next (State.followOp_of_none h), fun h => exec_next (State.delayRespOp_of_none h),
    fun hears => ⟨fun h => exec_next (State.announceOp_first hears h),
      fun b h same => exec_next (State.announceOp_same hears h same),
      fun b h other => ⟨fun better => ?_, fun worse => ?_⟩, fun selected => ⟨?_, ?_, fun waits => ?_, fun sent o x req time => ?_⟩⟩,
    fun m hs bellwether good selected => exec_next (State.delayReqOp_of_selected hs bellwether good selected),
    fun h => exec_next (State.delayReqOp_of_not h), fun bellwether heard late => ?_,
    fun h => exec_next (State.sourceLossOp_of_not h), fun noTime => ?_, fun x time => ?_⟩
  · exact exec_next ((State.announceOp_other hears h other).trans (if_pos better))
  · exact exec_next ((State.announceOp_other hears h other).trans (if_neg (by simp [worse])))
  · exact exec_next (State.syncOp_selected hears selected false)
  · exact exec_next (State.syncOp_selected hears selected true)
  · exact exec_next (State.followOp_selected hears selected waits)
  · exact exec_next (State.delayRespOp_selected hears selected req time)
  · refine ⟨_, exec_next (State.sourceLossOp_of_silent bellwether heard late), rfl, ?_⟩
    exact State.count_log1_ctr _ (by decide) ..
  · refine exec_next (t := s.ppsOp) ?_
    simp [State.ppsOp, Ptp.time2, noTime]
  · obtain ⟨⟨low, high⟩, whole⟩ := nearestSecond_bounds (x / 2) rfl
    refine ⟨_, _, exec_next (t := s.ppsOp) rfl, ?_, low, high, whole⟩
    simp [State.ppsOp, time]

end Sys2Proof.Machine


/-! Maintenance requests and their answers (R350, R356, R357): what giving an answer changes, and what admission tests. -/

namespace Sys2Proof.Machine

/-! ## Giving an answer -/

@[simp] theorem State.onSess_answerFits (s : State) (g : Session → Session) (a : Answer) :
    (s.onSess g).answerFits a = s.answerFits a := rfl

/-- An answer given is kept as sent, and changes its port alone besides. -/
theorem State.sendAnswer_eq (s : State) (a : Answer) :
    s.sendAnswer a = { s with
      trust := { s.trust with sess := { s.trust.sess with sent := s.trust.sess.sent ++ [a] } }, pl := (s.sendAnswer a).pl } := by
  unfold State.sendAnswer
  dsimp only
  split <;> rfl

theorem State.sendAnswer_given (s : State) (a : Answer) : answerGiven s (s.sendAnswer a) a := by
  unfold State.sendAnswer
  extract_lets u
  have ports : u.pl = s.pl := rfl
  have fits : u.answerFits a = s.answerFits a := rfl
  rw [ports, fits]
  split
  · next now =>
    obtain ⟨free, fit⟩ := Bool.and_eq_true_iff.1 now
    refine ⟨fun q hq => ?_, fun _ => ?_, fun late => ?_⟩
    · exact (vmod_get_other _ _ _ _ hq).trans (vmod_get_other _ _ _ _ hq)
    · unfold State.emitAnswer
      extract_lets k
      refine ⟨k, rfl, rfl, (vmod_get_self ..).trans ?_⟩
      simp only [State.sendPlant, State.onPl, vmod_get_self, ports, Fin.getElem_fin]
      rfl
    · simp [fit] at late
      exact absurd (List.isEmpty_iff.1 free) late
  · next later =>
    refine ⟨fun q hq => vmod_get_other _ _ _ _ hq, fun ⟨free, fit⟩ => ?_, fun _ => vmod_get_self ..⟩
    rw [free, fit] at later
    exact absurd rfl later

/-- Nothing differs but the log, the module counters and when the session was last heard of. -/
def State.heard (e u : State) : Prop :=
  u = { e with
    trust := { e.trust with sess := { e.trust.sess with last := u.trust.sess.last } }, log := u.log, ctrs := u.ctrs }

theorem State.heard_refl (s : State) : s.heard s := rfl

theorem State.heard.trans {s t u : State} (h : s.heard t) (k : t.heard u) : s.heard u := by
  unfold State.heard at h k ⊢
  rw [k, h]

theorem State.heard_log1 (s : State) (code : BitVec 16) (fold : Option FoldNo) (l p : Option CoreNo) (d : List Byte) :
    s.heard (s.log1 code fold l p d) := rfl

theorem State.heard_logMaint (s : State) (r : MaintReq) : s.heard (s.logMaint r) := rfl

theorem State.heard_touch (s : State) (r : MaintReq) : s.heard (s.touch r) := by
  unfold State.heard State.touch State.onSess
  by_cases own : s.trust.sess.num = some r.session
  · simp only [if_pos own]
  · simp only [if_neg own]

theorem State.heard_answerFits {e u : State} (h : e.heard u) (a : Answer) : u.answerFits a = e.answerFits a := by
  rw [h]
  rfl

theorem answerGiven_congr {e u t : State} {a : Answer} (ports : u.pl = e.pl) (fits : u.answerFits a = e.answerFits a)
    (given : answerGiven u t a) : answerGiven e t a := by
  unfold answerGiven at given ⊢
  rwa [← ports, ← fits]

/-- A request answered on a state that has heard of it alone is answered. -/
theorem answered_of_heard {e u : State} (h : e.heard u) (r : MaintReq) (status : Nat) (session : BitVec 32) (body : List Byte) :
    answered e (u.finishWith r status session body) r status session body := by
  unfold State.finishWith
  extract_lets a
  refine ⟨?_, answerGiven_congr (by rw [h]) (State.heard_answerFits h a) (State.sendAnswer_given _ a)⟩
  rw [State.sendAnswer_eq]
  simp only [State.onSess]
  rw [h]

theorem answered_finish {e u : State} (h : e.heard u) (r : MaintReq) (status : Nat) (body : List Byte) :
    answered e (u.finish r status body) r status r.session body := answered_of_heard h r status r.session body

/-- A request that is done is logged and answered with status 0. -/
theorem answered_done {e u : State} (h : e.heard u) (r : MaintReq) : answered e (u.done r) r 0 r.session [] :=
  answered_finish (h.trans (u.heard_logMaint r)) r 0 []

/-! ## Admission -/

/-- A new request acts. -/
theorem State.request_of_new {s : State} {r : MaintReq} (h : isNew s r) (act : State → State) :
    s.request r act = act (s.touch r) := by
  obtain ⟨hears, first, idle⟩ := h
  simp [State.request, hears, first, idle]

@[simp] theorem State.touch_windowStatus (s : State) (r : MaintReq) : (s.touch r).windowStatus = s.windowStatus := by
  rw [s.heard_touch r]
  rfl

@[simp] theorem State.touch_num (s : State) (r : MaintReq) : (s.touch r).trust.sess.num = s.trust.sess.num := by
  rw [s.heard_touch r]

@[simp] theorem State.touch_admitStatus (s : State) (r q : MaintReq) : (s.touch r).admitStatus q = s.admitStatus q := by
  unfold State.admitStatus
  simp

theorem State.inWindow_of_admitted {s : State} {r : MaintReq} (h : isNew s r) (admitted : s.admitStatus r = 0)
    (act : State → State) : s.inWindow r act = act (s.touch r) := by
  rw [State.inWindow, State.request_of_new h, State.touch_admitStatus, admitted]

theorem State.inWindow_of_refused {s : State} {r : MaintReq} (h : isNew s r) {n : Nat} (refused : s.admitStatus r = n)
    (some_ : n ≠ 0) (act : State → State) : s.inWindow r act = (s.touch r).finish r n [] := by
  obtain ⟨k, rfl⟩ := Nat.exists_eq_succ_of_ne_zero some_
  rw [State.inWindow, State.request_of_new h, State.touch_admitStatus, refused]

theorem State.admitStatus_of_inSession {s : State} {r : MaintReq} (h : inSession s r) : s.admitStatus r = 0 := by
  obtain ⟨-, open_, own⟩ := h
  simp [State.admitStatus, open_, own]

/-- A new request of the open session while a window is open acts. -/
theorem State.inWindow_of_inSession {s : State} {r : MaintReq} (h : inSession s r) (act : State → State) :
    s.inWindow r act = act (s.touch r) := State.inWindow_of_admitted h.1 (State.admitStatus_of_inSession h) act

/-- What an admitted request answers without a change of its own. -/
theorem answered_touch_finish (s : State) (r : MaintReq) (status : Nat) (body : List Byte) :
    answered s ((s.touch r).finish r status body) r status r.session body := answered_finish (s.heard_touch r) r status body

end Sys2Proof.Machine


/-! Presence, the boot that an opened window or recovered entropy lets go on, and the entropy source (R341, R345 to R351, R359). -/

namespace Sys2Proof.Machine

/-! ## What opening and closing a window changes besides presence -/

/-- Mail of the module's own supervisor changes the hall alone. -/
theorem State.sendMail_own_eq (s : State) (kind : Nat) (bad : Bool) (dst : BitVec 12) (dstTag epoch : BitVec 16)
    (reference : BitVec 32) (addr : Word64) (payload : List Byte) :
    s.sendMail none kind bad dst dstTag epoch reference addr payload =
      { s with hall := (s.sendMail none kind bad dst dstTag epoch reference addr payload).hall } := by
  unfold State.sendMail
  extract_lets tag m h lost
  split
  · rfl
  · extract_lets q
    split <;> rfl

theorem State.notifyFlock_eq (s : State) (kind : Nat) (payload : List Byte) :
    s.notifyFlock kind payload = { s with hall := (s.notifyFlock kind payload).hall } := by
  have keep : ∀ (l : List (BitVec 12)) (t : State),
      l.foldl (fun (s : State) m => s.sendMail none kind false m 0xFFFF 0 0 0 payload) t =
        { t with hall := (l.foldl (fun (s : State) m => s.sendMail none kind false m 0xFFFF 0 0 0 payload) t).hall } := by
    intro l
    induction l with
    | nil => exact fun _ => rfl
    | cons m l ih =>
      intro t
      have h := ih (t.sendMail none kind false m 0xFFFF 0 0 0 payload)
      rw [State.sendMail_own_eq t] at h
      rw [List.foldl_cons, State.sendMail_own_eq t, h]
  exact keep s.flockPeers s

/-- Presence, the hall, the log and its counters may differ, nothing else. -/
structure State.presenceOnly (s t : State) : Prop where
  frame : t = { s with trust := { s.trust with pres := t.trust.pres }, hall := t.hall, log := t.log, ctrs := t.ctrs }

theorem State.presenceOnly_notified {s u : State} (h : s.presenceOnly u) (early : Prop) [Decidable early] (kind : Nat)
    (payload : List Byte) : s.presenceOnly (if early then u.notifyFlock kind payload else u) := by
  split
  · exact ⟨by rw [State.notifyFlock_eq, h.frame]⟩
  · exact h

theorem State.notified_pres (u : State) (early : Prop) [Decidable early] (kind : Nat) (payload : List Byte) :
    (if early then u.notifyFlock kind payload else u).trust.pres = u.trust.pres := by
  split
  · exact State.pres_of_still (State.notifyFlock_still ..)
  · rfl

theorem State.closePresence_presenceOnly (s : State) (cause : Nat) (early : Bool) :
    s.presenceOnly (s.closePresence cause early) := by
  unfold State.closePresence
  split
  · exact ⟨rfl⟩
  · exact State.presenceOnly_notified (s := s) ⟨rfl⟩ ..

/-- A window is closed; who opened it is forgotten with it. -/
theorem State.closePresence_window (s : State) (cause : Nat) (early : Bool) :
    (s.closePresence cause early).trust.pres =
      { s.trust.pres with window := none, byNotice := (s.closePresence cause early).trust.pres.byNotice } := by
  unfold State.closePresence
  split
  · next closed => rw [← closed]
  · dsimp only
    rw [State.notified_pres]
    rfl

theorem State.openPresence_presenceOnly (s : State) (notice : Bool) : s.presenceOnly (s.openPresence notice) := by
  unfold State.openPresence
  exact State.presenceOnly_notified (s := s) ⟨rfl⟩ ..

theorem State.openPresence_pres (s : State) (notice : Bool) :
    (s.openPresence notice).trust.pres = { s.trust.pres with
      window := some (s.micros + 120000000), byNotice := notice && (s.trust.pres.window.isNone || s.trust.pres.byNotice)
      windows := if s.trust.pres.window.isNone then s.trust.pres.windows + 1 else s.trust.pres.windows } := by
  unfold State.openPresence
  dsimp only
  rw [State.notified_pres]
  rfl

/-! ## The boot leaves the session, the entropy source and the binding -/

/-- What a boot that goes on leaves of the trust block. -/
def State.bootKeeps (s : State) : Session × Bool × Bool := (s.trust.sess, s.trust.entropyFailed, s.trust.bound)

theorem State.bootKeeps_of_trust {s t : State} (h : t.trust = s.trust) : t.bootKeeps = s.bootKeeps := by
  unfold State.bootKeeps
  rw [h]

theorem State.identify_bootKeeps (s : State) : s.identify.bootKeeps = s.bootKeeps := by
  unfold State.identify
  split
  · rfl
  · split <;> rfl
  · split
    · rfl
    · unfold State.recall
      dsimp only
      split <;> rfl

theorem foldl_trust {β : Type} {f : State → β → State} (h : ∀ s b, (f s b).trust = s.trust) (l : List β) (s : State) :
    (l.foldl f s).trust = s.trust :=
  foldl_keep (fun u => u.trust = s.trust) f (fun u b kept => (h u b).trans kept) l s rfl

theorem State.bootStores_trust (s : State) : s.bootStores.trust = s.trust := by
  unfold State.bootStores
  dsimp only
  split <;> rfl

theorem State.readRecord_trust (s : State) : s.readRecord.trust = s.trust := by
  unfold State.readRecord
  split
  · split <;> rfl
  · rfl

theorem State.startFirmware_bootKeeps (s : State) : s.startFirmware.bootKeeps = s.bootKeeps := by
  unfold State.startFirmware
  split
  · rfl
  · split
    · split
      · dsimp only
        rw [State.bootKeeps_of_trust (State.bootStores_trust _)]
        unfold State.bootKeeps
        simp only [State.readRecord_trust]
      · rfl
    · rfl

theorem State.bootEntries_trust (s : State) : s.bootEntries.trust = s.trust := by
  unfold State.bootEntries
  extract_lets next freed kept s1 s2
  have kept1 : s1.trust = s.trust := by
    unfold s1
    split <;> rfl
  have kept2 : s2.trust = s1.trust := by
    unfold s2
    exact foldl_trust (fun u _ => by exact rfl) _ _
  exact ((foldl_trust (fun u _ => by exact rfl) _ _).trans kept2).trans kept1

theorem State.lift_trust (s : State) : s.lift.trust = s.trust := by simp only [State.lift]

theorem State.setFloors_trust (s : State) : s.setFloors.trust = s.trust := by simp only [State.setFloors]

theorem State.settle_trust (s : State) : s.settle.trust = s.trust := by
  unfold State.settle
  extract_lets t
  have lifted : t.trust = s.trust := (State.setFloors_trust _).trans (foldl_trust (fun u _ => u.lift_trust) _ s)
  refine (foldl_trust (fun u p => ?_) _ _).trans lifted
  split <;> rfl

theorem State.buildMap_trust (s : State) (m : ModuleSection) : (s.buildMap m).trust = s.trust := by
  unfold State.buildMap
  extract_lets bad s1 us s2
  have retired : s1.trust = s.trust := by
    unfold s1
    split <;> rfl
  exact (State.settle_trust _).trans retired

theorem State.useSection_trust (s : State) (m : ModuleSection) : (s.useSection m).trust = s.trust := by
  simp only [State.useSection]

theorem State.logEach_trust (s : State) (code : BitVec 16) (p : CoreNo) (detail : List Byte) :
    (s.logEach code p detail).trust = s.trust := by
  unfold State.logEach
  split <;> rfl

theorem State.baseline_trust (s : State) : s.baseline.trust = s.trust := by
  unfold State.baseline
  refine foldl_trust (fun u p => ?_) _ _
  split
  · exact State.logEach_trust ..
  · rfl

theorem State.poisonDynamic_trust (s : State) (i : FoldImage) : (s.poisonDynamic i).trust = s.trust := by
  unfold State.poisonDynamic
  refine foldl_trust (fun u r => ?_) _ _
  split <;> rfl

theorem State.formParity_trust (s : State) : s.formParity.trust = s.trust := by
  unfold State.formParity
  extract_lets ws
  refine foldl_trust (fun u r => ?_) _ _
  split <;> rfl

theorem State.askBlock_trust (s : State) (x : Fetch) : (s.askBlock x).trust = s.trust := by
  unfold State.askBlock
  split
  · rw [State.sendMail_own_eq]
  · rfl

theorem State.beginFetch_trust (s : State) (k : Fin 33) (b : Bool) : (s.beginFetch k b).trust = s.trust := by
  unfold State.beginFetch
  dsimp only
  split
  · rfl
  · exact State.askBlock_trust ..

theorem State.beginLoad_trust (s : State) (f : FoldNo) (b : Bool) : (s.beginLoad f b).trust = s.trust := by
  unfold State.beginLoad
  exact (State.beginFetch_trust ..).trans (State.formParity_trust _)

theorem State.resume_trust (s : State) (f : FoldNo) : (s.resume f).trust = s.trust := by
  unfold State.resume
  split
  · rfl
  · split
    · split
      · exact State.poisonDynamic_trust ..
      · exact State.beginLoad_trust ..
    · exact State.beginLoad_trust ..

theorem State.readyFolds_trust (s : State) : s.readyFolds.trust = s.trust := by
  unfold State.readyFolds
  refine foldl_trust (fun u f => ?_) _ _
  split
  · exact State.resume_trust ..
  · rfl

theorem State.bootStore_trust (s : State) : s.bootStore.trust = s.trust := by
  unfold State.bootStore
  split
  · rfl
  · extract_lets s1 src s2
    have entries : s2.trust = s.trust := by
      unfold s2
      split
      · simp only [s1, State.bootEntries_trust]
      · rfl
    split
    · rw [State.readyFolds_trust, State.baseline_trust, State.buildMap_trust, State.useSection_trust, entries]
    · exact entries

theorem State.continueBoot_bootKeeps (s : State) : s.continueBoot.bootKeeps = s.bootKeeps := by
  unfold State.continueBoot
  split
  · exact ((State.bootKeeps_of_trust (State.bootStore_trust _)).trans (State.startFirmware_bootKeeps _)).trans
      (State.identify_bootKeeps s)
  · rfl

/-- A settled boot has nothing left to do. -/
theorem State.continueBoot_of_settled {s : State} (h : bootSettled s) : s.continueBoot = s := by
  unfold State.continueBoot
  split
  · next good =>
    obtain bad | ⟨step, sec, life, root⟩ := h
    · simp [bad] at good
    · have known : s.identify = s := by simp [State.identify, life, root]
      have started : s.startFirmware = s := by
        unfold State.startFirmware
        rw [if_pos (.inr (.inr step))]
      have stored : s.bootStore = s := by
        unfold State.bootStore
        rw [if_pos (.inr (.inl sec))]
      dsimp only
      rw [known, started, stored]
  · rfl

end Sys2Proof.Machine


/-! Presses, notices, the loop and the lock, and what recovered entropy lets go on (O53). -/

namespace Sys2Proof.Machine

/-! ## The bridle -/

theorem State.bridleOp_of_unpowered {s : State} (down : s.power.good = false) (ch : Chan) (x : Bool) (stamp : Nat) :
    s.bridleOp ch x stamp = s := by simp [State.bridleOp, down]

/-- The second press within 50 ms is valid, and judged as one. -/
theorem State.bridleOp_second {s : State} {ch other : Chan} {t1 stamp : Nat} (differ : other ≠ ch) (good : s.power.good = true)
    (press : s.trust.pres.press = some (other, t1)) (fresh : s.trust.pres.pressed = false) (soon : stamp ≤ t1 + 50000) :
    s.bridleOp ch true stamp =
      (s.onPres fun x => { x.change ch true stamp with pressed := true }).validPress := by
  have press' : (s.trust.pres.change ch true stamp).press = some (other, t1) := by cases ch <;> exact press
  have fresh' : (s.trust.pres.change ch true stamp).pressed = false := by cases ch <;> exact fresh
  have inTime : ¬ t1 + pairMicros < stamp := Nat.not_lt.2 soon
  have judged : (s.trust.pres.change ch true stamp).down ch stamp =
      ({ s.trust.pres.change ch true stamp with pressed := true }, true) := by
    simp [Presence.down, press', fresh', differ, inTime]
  simp only [State.bridleOp, good, State.onPres, judged]
  rfl

/-- The first press opens nothing. -/
theorem State.bridleOp_first {s : State} {ch other : Chan} {stamp : Nat} (differ : other ≠ ch) (good : s.power.good = true)
    (idle : s.trust.pres.press = none) (up : s.trust.pres.level other = false) :
    s.bridleOp ch true stamp =
      s.onPres fun x => { x.change ch true stamp with press := some (ch, stamp), pressed := false, released := none } := by
  have judged : (s.trust.pres.change ch true stamp).down ch stamp =
      ({ s.trust.pres.change ch true stamp with press := some (ch, stamp), pressed := false, released := none }, false) := by
    cases ch <;> cases other <;> simp_all [Presence.down, Presence.change, Presence.level]
  simp only [State.bridleOp, good, State.onPres, judged]
  rfl

/-- Both channels released clear a discrepancy; the window stands. -/
theorem State.bridleOp_released {s : State} {ch : Chan} (stamp : Nat) (good : s.power.good = true)
    (latched : s.trust.pres.discrepancy = true) (others : ∀ c, c ≠ ch → s.trust.pres.level c = false) :
    (s.bridleOp ch false stamp).trust.pres.discrepancy = false ∧
      (s.bridleOp ch false stamp).trust.pres.window = s.trust.pres.window := by
  unfold State.bridleOp
  rw [if_neg (by simp [good])]
  extract_lets s1 r1 s2 r2 s3 s4
  rw [if_neg Bool.false_ne_true, State.onPres_pres]
  have counted : s4.trust.pres = s3.trust.pres := by
    unfold s4
    split
    · exact State.pres_of_still (State.count_still ..)
    · rfl
  have same : s1.trust.pres.sameBars s3.trust.pres := s1.trust.pres.up_sameBars ch stamp
  have levels : s3.trust.pres.bridleA = false ∧ s3.trust.pres.bridleB = false := by
    have up : ∀ x : Presence, (x.up ch stamp).1.bridleA = x.bridleA ∧ (x.up ch stamp).1.bridleB = x.bridleB := by
      intro x
      unfold Presence.up
      repeat' split
      all_goals exact ⟨rfl, rfl⟩
    refine ⟨(up s1.trust.pres).1.trans ?_, (up s1.trust.pres).2.trans ?_⟩ <;> cases ch
    · rfl
    · exact others .a (by decide)
    · exact others .b (by decide)
    · rfl
  have changed := s.trust.pres.change_sameBars ch false stamp
  have latched' : s3.trust.pres.discrepancy = true := same.discrepancy.trans (changed.discrepancy.trans latched)
  rw [counted, latched', levels.1, levels.2]
  exact ⟨rfl, same.window.trans changed.window⟩

/-- What bars a press is not its own doing. -/
theorem State.pressBar_pressed (s : State) (ch : Chan) (stamp : Nat) :
    (s.onPres fun x => { x.change ch true stamp with pressed := true }).pressBar = s.pressBar := by cases ch <;> rfl

theorem State.validPress_of_bar {s : State} {k : Nat} (bar : s.pressBar = some k) :
    s.validPress = (s.count 8 1).logPresence (0x20 + k) [] := by simp only [State.validPress, bar]

theorem State.validPress_of_free {s : State} (free : s.pressBar = none) :
    s.validPress = ((s.openPresence false).bindFirst).continueBoot := by simp only [State.validPress, free]

theorem State.bindFirst_bound {s : State} (branded : s.trust.life = .branded) : s.bindFirst.trust.bound = true := by
  unfold State.bindFirst
  by_cases bound : s.trust.bound = true
  · rw [if_pos (.inl bound), bound]
  · rw [if_neg (by simp [bound, branded])]

/-- R345, R348: a valid press opens a window where nothing bars it, and binds the module. -/
theorem State.validPress_opens {s : State} (free : s.pressBar = none) :
    s.validPress.trust.pres = (s.openPresence false).trust.pres ∧ s.validPress.trust.bound = true := by
  have branded : (s.openPresence false).trust.life = .branded := by
    rw [(s.openPresence_presenceOnly false).frame]
    exact (State.unbarred_of_pressBar free).2
  rw [State.validPress_of_free free]
  refine ⟨State.pres_of_still ((State.continueBoot_still _).trans (State.bindFirst_still _)), ?_⟩
  exact (congrArg (fun x => x.2.2) (State.continueBoot_bootKeeps _)).trans (State.bindFirst_bound branded)

/-! ## Discrepancy, loop, lock and expiry -/

theorem State.discrepancyOp_of_disagrees {s : State} (h : s.trust.pres.disagrees s.micros = true) :
    s.discrepancyOp.trust.pres.discrepancy = true ∧ s.discrepancyOp.trust.pres.window = none ∧
      s.discrepancyOp.trust.pres.press = none ∧ s.discrepancyOp.trust.pres.fuse = s.trust.pres.fuse := by
  unfold State.discrepancyOp
  rw [if_pos h, State.closePresence_window, State.logPresence_pres]
  exact ⟨rfl, rfl, rfl, rfl⟩

theorem State.discrepancyOp_of_not {s : State} (h : s.trust.pres.disagrees s.micros = false) : s.discrepancyOp = s := by
  unfold State.discrepancyOp
  rw [if_neg (by simp [h])]

/-- R347: one channel alone waits 55,000 µs for the other one. -/
theorem Presence.disagrees_iff {x : Presence} {ch : Chan} {t1 : Nat} (press : x.press = some (ch, t1)) (micros : Nat) :
    x.disagrees micros = true ↔ (x.pressed = false ∧ x.level ch = true ∧ t1 + 55000 ≤ micros) ∨
      (x.pressed = true ∧ ∃ d u, x.released = some (d, u) ∧ u + 55000 ≤ micros) := by
  unfold Presence.disagrees
  rw [press, show (55000 : Nat) = waitMicros from rfl]
  cases hp : x.pressed
  · simp
  · cases hr : x.released with
    | none => simp
    | some r => obtain ⟨d, u⟩ := r; simp

theorem State.sealOp_close {s : State} (good : s.power.good = true) (stamp : Nat) :
    (s.sealOp false stamp).trust.pres.sealOpen = false ∧ (s.sealOp false stamp).trust.pres.window = none ∧
      (s.sealOp false stamp).trust.pres.openings = s.trust.pres.openings := by
  simp only [State.sealOp, good, Bool.not_true, Bool.false_eq_true, ↓reduceIte]
  rw [State.closePresence_window, State.logPresence_pres]
  exact ⟨rfl, rfl, rfl⟩

theorem State.endSession_none (s : State) : s.endSession.trust.sess.num = none ∧
    s.endSession.trust.sess.busy = s.trust.sess.busy := ⟨rfl, rfl⟩

/-- A locked session has nothing in progress. -/
theorem State.lockSession_sess (s : State) : s.lockSession.trust.sess.num = none ∧ s.lockSession.trust.sess.busy = none := by
  unfold State.lockSession
  extract_lets u
  have idle : u.trust.sess.busy = none := by
    unfold u
    split
    · unfold State.finish State.finishWith
      rw [State.sendAnswer_eq]
      rfl
    · next h => exact h
  exact ⟨rfl, idle⟩

theorem State.tackLockOp_fitted {s : State} (good : s.power.good = true) :
    (s.tackLockOp true).trust.pres.tackLock = true ∧ (s.tackLockOp true).trust.pres.fuse = true ∧
      (s.tackLockOp true).trust.pres.window = none ∧ (s.tackLockOp true).trust.sess.num = none ∧
      (s.tackLockOp true).trust.sess.busy = none := by
  have h : s.tackLockOp true =
      ((s.onPres fun x => { x with tackLock := true, fuse := true }).closePresence 0x13 true).lockSession := by
    simp [State.tackLockOp, good]
  rw [h]
  refine ⟨?_, ?_, ?_, State.lockSession_sess _⟩ <;>
    rw [State.pres_of_still (State.lockSession_still _), State.closePresence_window] <;> rfl

theorem State.expirePresence_of_due {s : State} {w : Nat} (isOpen : s.trust.pres.window = some w) (due : w ≤ s.micros) :
    s.expirePresence = s.closePresence 0x10 false := by simp [State.expirePresence, isOpen, due]

/-- A window that closes by itself is not told to the flock. -/
theorem State.closePresence_late_eq (s : State) (cause : Nat) :
    s.closePresence cause false = { s with
      trust := { s.trust with pres := (s.closePresence cause false).trust.pres }
      log := (s.closePresence cause false).log, ctrs := (s.closePresence cause false).ctrs } := by
  unfold State.closePresence
  split <;> rfl

/-! ## Notices of the flock -/

theorem State.onSupervisor_here {s : State} {m : MailMsg} (here : m.dstModule = s.hallNo) (toSup : m.dstTag = 0xFFFF)
    (fromSup : m.srcTag = 0xFFFF) (act : State → State) : s.onSupervisor m act = act s := by
  simp [State.onSupervisor, State.onMail, here, toSup, fromSup]

/-! ## Requests that wait for the entropy source -/

theorem State.finish_trust (s : State) (r : MaintReq) (status : Nat) (body : List Byte) :
    (s.finish r status body).trust = { s.trust with sess := { s.trust.sess with
      answers := (answerTo r status r.session body :: s.trust.sess.answers).take answersKept
      sent := s.trust.sess.sent ++ [answerTo r status r.session body] } } := by
  unfold State.finish State.finishWith
  rw [State.sendAnswer_eq]
  rfl

theorem State.beginSession_trust (s : State) (r : MaintReq) :
    ∃ n : BitVec 32, n ≠ 0 ∧ (s.beginSession r).trust = { s.trust with
      draws := s.trust.draws + 1
      sess := { s.trust.sess with
        num := some n, last := s.now, download := none
        answers := (answerTo r 0 n [] :: s.trust.sess.answers).take answersKept
        sent := s.trust.sess.sent ++ [answerTo r 0 n []] } } := by
  refine ⟨BitVec.ofNat 32 (1 + (Config.entropy s.trust.draws 32).toNat % (2 ^ 32 - 1)), ?_, ?_⟩
  · have small := Nat.mod_lt (Config.entropy s.trust.draws 32).toNat (show 0 < 2 ^ 32 - 1 by decide)
    intro zero
    have := congrArg BitVec.toNat zero
    rw [BitVec.toNat_ofNat, Nat.mod_eq_of_lt (by omega)] at this
    simp at this
  · unfold State.beginSession State.finishWith
    rw [State.sendAnswer_eq]
    rfl

theorem State.attest_trust (s : State) (r : MaintReq) :
    ∃ sig : List Byte, (s.attest r).trust = { s.trust with
      draws := s.trust.draws + 1
      sess := { s.trust.sess with
        answers := (answerTo r 0 r.session (s.attestBytes r.body ++ sig) :: s.trust.sess.answers).take answersKept
        sent := s.trust.sess.sent ++ [answerTo r 0 r.session (s.attestBytes r.body ++ sig)] } } :=
  ⟨_, State.finish_trust _ r 0 _⟩

/-- No request waits any more, and the entropy source is as it was. -/
theorem State.resumeWaiting_trust (s : State) :
    s.resumeWaiting.trust.sess.waiting = none ∧ s.resumeWaiting.trust.entropyFailed = s.trust.entropyFailed := by
  unfold State.resumeWaiting
  split
  · next idle => exact ⟨idle, rfl⟩
  · next r since waits =>
    extract_lets u
    split
    · obtain ⟨sig, h⟩ := u.attest_trust r
      rw [h]
      exact ⟨rfl, rfl⟩
    · split
      · rw [State.finish_trust]
        exact ⟨rfl, rfl⟩
      · obtain ⟨n, -, h⟩ := u.beginSession_trust r
        rw [h]
        exact ⟨rfl, rfl⟩

theorem State.attestBytes_congr {s t : State} (nonce : List Byte)
    (h : t = { s with trust := { s.trust with
      entropyFailed := t.trust.entropyFailed, sess := { s.trust.sess with waiting := t.trust.sess.waiting } } }) :
    t.attestBytes nonce = s.attestBytes nonce := by
  rw [h]
  rfl

/-- The entropy source recovers on a settled boot. -/
theorem State.entropyBack_settled {s : State} (failed : s.trust.entropyFailed = true) (settled : bootSettled s) :
    s.entropyBack = ({ s with trust := { s.trust with entropyFailed := false } }).resumeWaiting := by
  unfold State.entropyBack
  rw [if_pos failed, State.continueBoot_of_settled (s := { s with trust := { s.trust with entropyFailed := false } }) settled]

theorem State.entropyBack_trust {s : State} (failed : s.trust.entropyFailed = true) :
    s.entropyBack.trust.entropyFailed = false ∧ s.entropyBack.trust.sess.waiting = none := by
  unfold State.entropyBack
  rw [if_pos failed]
  obtain ⟨idle, same⟩ := State.resumeWaiting_trust
    (({ s with trust := { s.trust with entropyFailed := false } }).continueBoot)
  exact ⟨same.trans (congrArg (fun x => x.2.1) (State.continueBoot_bootKeeps _)), idle⟩

/-- Settles O53: presses, notices, the loop, the lock and time open and close the window; entropy that recovers lets go on what waited. -/
theorem presenceAndEntropy : Obligations.PresenceAndEntropy := by
  unfold Obligations.PresenceAndEntropy
  refine ⟨fun s ch other t1 stamp differ => ⟨fun down x => exec_next (State.bridleOp_of_unpowered down ch x stamp), ?_, ?_⟩,
    fun s => ⟨fun ch t1 press => ⟨?_, ?_⟩, ?_, fun stamp good => ⟨?_, ?_⟩, ?_, ?_, ?_, fun w isOpen => ⟨?_, ?_⟩, ?_, ?_⟩,
    fun s p m here toSup fromSup => ⟨?_, fun heard => ⟨?_, ?_, ?_, ?_⟩⟩,
    fun s => ⟨⟨s.entropyFail, rfl, rfl, ?_⟩, ?_, ?_, ?_, ?_, ?_, ?_, fun r since waits => ⟨?_, ?_⟩⟩⟩
  · intro good press fresh soon
    set u := s.onPres fun x => { x.change ch true stamp with pressed := true } with hu
    refine ⟨u.validPress, exec_next (State.bridleOp_second differ good press fresh soon), ?_⟩
    have bar : u.pressBar = s.pressBar := State.pressBar_pressed s ch stamp
    have level : u.trust.pres.level ch = true := by cases ch <;> rfl
    have window : u.trust.pres.window = s.trust.pres.window := by cases ch <;> rfl
    have windows : u.trust.pres.windows = s.trust.pres.windows := by cases ch <;> rfl
    have kept : u.validPress.trust.pres.pressed = true ∧ u.validPress.trust.pres.level ch = true := by
      cases h : s.pressBar with
      | none =>
        rw [(State.validPress_opens (bar.trans h)).1, State.openPresence_pres]
        exact ⟨rfl, by cases ch <;> rfl⟩
      | some k =>
        rw [State.validPress_of_bar (bar.trans h), State.logPresence_pres, State.pres_of_still (State.count_still ..)]
        exact ⟨rfl, level⟩
    refine ⟨kept.1, kept.2, u.validPress_tick, fun free => ?_, fun k barred => ?_⟩
    · obtain ⟨pres, bound⟩ := State.validPress_opens (bar.trans free)
      rw [pres, State.openPresence_pres, window, windows]
      refine ⟨rfl, rfl, bound, ?_⟩
      cases s.trust.pres.window <;> rfl
    · rw [State.validPress_of_bar (bar.trans barred)]
      refine ⟨?_, State.count_log1_ctr u (by decide) 1 .., rfl⟩
      rw [State.logPresence_pres, State.pres_of_still (State.count_still ..), window]
  · intro good idle up
    exact ⟨_, exec_next (State.bridleOp_first differ good idle up), rfl, by cases ch <;> rfl, rfl⟩
  · exact fun late => ⟨_, rfl, State.discrepancyOp_of_disagrees ((Presence.disagrees_iff press s.micros).2 late)⟩
  · intro early
    refine exec_next (State.discrepancyOp_of_not (Bool.eq_false_iff.2 fun late => ?_))
    obtain ⟨fresh, level, due⟩ | ⟨pressed, d, u, released, due⟩ := (Presence.disagrees_iff press s.micros).1 late <;>
      obtain ⟨fresh', h⟩ | ⟨pressed', h⟩ := early
    · obtain h | h := h
      · simp [level] at h
      · omega
    · simp [fresh] at pressed'
    · simp [pressed] at fresh'
    · have := h d u released
      omega
  · exact fun idle => exec_next (State.discrepancyOp_of_not (by simp [Presence.disagrees, idle]))
  · exact ⟨_, rfl, State.sealOp_close good stamp⟩
  · refine ⟨s.sealOp true stamp, rfl, ?_⟩
    simp only [State.sealOp, good, Bool.not_true, Bool.false_eq_true, ↓reduceIte]
    refine ⟨rfl, rfl, ?_, rfl⟩
    rw [State.logPresence_pres, State.onPres_pres]
    dsimp only
    by_cases h : s.trust.pres.sealOpen = false ∧ s.trust.life = .branded
    · simp [h.1, h.2]
    · rw [if_neg h, if_neg (by simpa using h)]
      rfl
  · exact fun good => ⟨_, rfl, State.tackLockOp_fitted good⟩
  · exact fun good => exec_next (t := s.tackLockOp false) (by simp [State.tackLockOp, good, State.onPres])
  · exact fun down x stamp => ⟨exec_next (t := s.sealOp x stamp) (by simp [State.sealOp, down]),
      exec_next (t := s.tackLockOp x) (by simp [State.tackLockOp, down])⟩
  · intro due
    refine ⟨_, exec_next (State.expirePresence_of_due isOpen due), ?_, State.closePresence_late_eq ..⟩
    rw [State.closePresence_window]
  · exact fun early => exec_next (t := s.expirePresence) (by simp [State.expirePresence, isOpen, Nat.not_le.2 early])
  · exact fun closed => exec_next (t := s.expirePresence) (by simp [State.expirePresence, closed])
  · exact fun ch stamp good latched others => ⟨_, rfl, State.bridleOp_released stamp good latched others⟩
  · intro unheard
    constructor
    · exact exec_next (t := s.noticeOp p m) (by
        rw [State.noticeOp, State.onSupervisor_here here toSup fromSup, unheard]; rfl)
    · exact exec_next (t := s.closeNoticeOp p m) (by
        rw [State.closeNoticeOp, State.onSupervisor_here here toSup fromSup, unheard]; rfl)
  · intro barred
    refine exec_next (t := s.noticeOp p m) ?_
    rw [State.noticeOp, State.onSupervisor_here here toSup fromSup, heard, if_neg (by simpa using barred)]
  · intro free
    refine ⟨s.openPresence true, exec_next (t := s.noticeOp p m) ?_, ?_, fun closed => ?_, (s.openPresence_presenceOnly true).frame⟩
    · rw [State.noticeOp, State.onSupervisor_here here toSup fromSup, heard, free]
      rfl
    · rw [State.openPresence_pres]
    · rw [State.openPresence_pres, closed]
      exact ⟨rfl, rfl⟩
  · intro own
    refine exec_next (t := s.closeNoticeOp p m) ?_
    rw [State.closeNoticeOp, State.onSupervisor_here here toSup fromSup, heard, own]
    rfl
  · intro noticed
    refine ⟨s.closePresence 0x14 true, exec_next (t := s.closeNoticeOp p m) ?_, ?_, (s.closePresence_presenceOnly 0x14 true).frame⟩
    · rw [State.closeNoticeOp, State.onSupervisor_here here toSup fromSup, heard, noticed]
      rfl
    · rw [State.closePresence_window]
  · exact State.count_log1_ctr _ (by decide) 1 ..
  · exact fun works => exec_next (t := s.entropyBack) (by simp [State.entropyBack, works])
  · exact fun failed => ⟨_, rfl, State.entropyBack_trust failed⟩
  · intro r since failed settled waits attest
    obtain ⟨sig, h⟩ := (({ s with trust := { s.trust with entropyFailed := false } } : State).onSess fun x =>
      { x with waiting := none }).attest_trust r
    refine ⟨_, s.attestBytes r.body ++ sig, exec_next (State.entropyBack_settled failed settled), ?_⟩
    simp only [State.resumeWaiting, waits, attest, ↓reduceIte]
    rw [State.attestBytes_congr (s := s) r.body (by rfl)] at h
    rw [h]
    exact ⟨rfl, rfl, rfl, List.take_left⟩
  · intro failed settled idle
    refine exec_next ((State.entropyBack_settled failed settled).trans ?_)
    simp only [State.resumeWaiting, idle]
  · intro r since failed settled waits other inWindow
    obtain ⟨n, nonzero, h⟩ := (({ s with trust := { s.trust with entropyFailed := false } } : State).onSess fun x =>
      { x with waiting := none }).beginSession_trust r
    refine ⟨_, n, exec_next (State.entropyBack_settled failed settled), nonzero, ?_⟩
    have inWindow' : (({ s with trust := { s.trust with entropyFailed := false } } : State).onSess fun x =>
      { x with waiting := none }).windowStatus = 0 := inWindow
    simp only [State.resumeWaiting, waits, other, inWindow', ↓reduceIte, ne_eq, not_true_eq_false]
    rw [h]
    exact ⟨rfl, rfl, rfl, List.getLast?_concat⟩
  · exact fun idle => exec_next (t := s.drawTimeout) (by simp [State.drawTimeout, idle])
  · intro due
    refine ⟨_, exec_next (t := s.drawTimeout) (u := (s.onSess fun x => { x with waiting := none }).finish r 5 []) ?_,
      answered_finish (State.heard_refl _) r 5 []⟩
    simp [State.drawTimeout, waits, drawCycles, due]
  · exact fun early => exec_next (t := s.drawTimeout) (by simp [State.drawTimeout, waits, drawCycles, Nat.not_le.2 early])

end Sys2Proof.Machine


/-! The tack record's commits and the SSDs (O54). -/

namespace Sys2Proof.Machine

/-! ## The record asked for last -/

theorem State.tack_commit (s : State) (g : TackRec → TackRec) : (s.commit g).tack = { g s.tack with seq := s.tack.seq + 1 } := by
  simp [State.commit, State.tack]

theorem TackRec.setStep_same (t : TackRec) (n : SsdNo) (on : Bool) :
    (if n = 0 then (t.setStep n on).step0 else (t.setStep n on).step1) = on := by
  unfold TackRec.setStep
  by_cases first : n = 0 <;> simp [first]

theorem TackRec.setStep_other (t : TackRec) {n k : SsdNo} (h : k ≠ n) (on : Bool) :
    (if k = 0 then (t.setStep n on).step0 else (t.setStep n on).step1) = if k = 0 then t.step0 else t.step1 := by
  unfold TackRec.setStep
  have : n = 0 ∧ k = 1 ∨ n = 1 ∧ k = 0 := by
    revert n k
    decide
  obtain ⟨rfl, rfl⟩ | ⟨rfl, rfl⟩ := this <;> rfl

theorem State.stepFlag_commit_same (s : State) (n : SsdNo) (on : Bool) :
    (s.commit fun t => t.setStep n on).stepFlag n = on := by
  unfold State.stepFlag
  rw [State.tack_commit]
  exact s.tack.setStep_same n on

theorem State.stepFlag_commit_other (s : State) {n k : SsdNo} (h : k ≠ n) (on : Bool) :
    (s.commit fun t => t.setStep n on).stepFlag k = s.stepFlag k := by
  unfold State.stepFlag
  rw [State.tack_commit]
  exact s.tack.setStep_other h on

/-! ## An SSD lost, found and brought into step -/

/-- An SSD that is lost: its step bit is cleared by a commit where it stood. -/
theorem State.ssdLost_of_present {s : State} {n : SsdNo} (present : s.store.ssds[n].present = true) :
    ∃ t, s.ssdLost n = t ∧ t.store.ssds = vmod s.store.ssds n (fun d =>
        { d with present := false, width := 0, rate := 0, perst := false, resync := false, mirror := false }) ∧
      t.stepFlag n = false ∧ (∀ k : SsdNo, k ≠ n → t.stepFlag k = s.stepFlag k) ∧
      (s.stepFlag n = false → t.store.commits = s.store.commits) ∧
      t = { s with store := { s.store with ssds := t.store.ssds, commits := t.store.commits }, log := t.log, ctrs := t.ctrs } := by
  refine ⟨_, rfl, ?_⟩
  unfold State.ssdLost
  rw [if_pos present]
  extract_lets src u v
  have same : ∀ k, u.stepFlag k = s.stepFlag k := fun _ => rfl
  by_cases flag : s.stepFlag n = true
  · have hv : v = u.commit fun t => t.setStep n false := if_pos ((same n).trans flag)
    rw [hv]
    exact ⟨rfl, u.stepFlag_commit_same n false, fun k h => u.stepFlag_commit_other h false, fun h => by simp [h] at flag, rfl⟩
  · have hv : v = u := if_neg (by rw [same]; exact flag)
    rw [hv]
    exact ⟨rfl, Bool.eq_false_iff.2 flag, fun _ _ => rfl, fun _ => rfl, rfl⟩

theorem State.ssdLost_of_absent {s : State} {n : SsdNo} (absent : s.store.ssds[n].present = false) : s.ssdLost n = s :=
  if_neg fun h => Bool.noConfusion (absent.symm.trans h)

/-- An SSD found: what is kept of it, and whether it is in step. -/
theorem State.ssdInsert_own {s : State} {n : SsdNo} {i : SsdInfo} (own : i.fingerprint = s.trust.fingerprint)
    (branded : s.trust.life = .branded) :
    ∃ t, s.ssdInsert n i = t ∧ t.store.ssds = vmod s.store.ssds n (fun d =>
        { d with present := true, width := i.width, rate := i.rate, perst := s.power.good, fingerprint := i.fingerprint
                 resync := !s.stepFlag n, mirror := s.stepFlag n }) ∧ t.stepFlag n = s.stepFlag n ∧
      t.store.commits = s.store.commits := by
  refine ⟨_, rfl, ?_⟩
  unfold State.ssdInsert
  simp only [own, branded, decide_true, Bool.and_self, Bool.true_and, Bool.not_true, Bool.and_false, Bool.false_eq_true, ↓reduceIte]
  exact ⟨rfl, rfl, rfl⟩

theorem State.ssdInsert_foreign {s : State} {n : SsdNo} {i : SsdInfo}
    (foreign : i.fingerprint ≠ s.trust.fingerprint ∨ s.trust.life ≠ .branded) :
    ∃ t, s.ssdInsert n i = t ∧ t.store.ssds = vmod s.store.ssds n (fun d =>
        { d with present := true, width := i.width, rate := i.rate, perst := s.power.good, fingerprint := i.fingerprint
                 resync := false, mirror := false }) ∧ t.stepFlag n = false := by
  have own : (decide (i.fingerprint = s.trust.fingerprint) && decide (s.trust.life = .branded)) = false := by
    simpa only [Bool.and_eq_false_iff, decide_eq_false_iff_not] using foreign
  refine ⟨_, rfl, ?_⟩
  unfold State.ssdInsert
  dsimp only
  rw [own]
  cases flag : s.stepFlag n
  · exact ⟨rfl, flag⟩
  · exact ⟨rfl, s.stepFlag_commit_same n false⟩

/-- What the boot needs stands as it stood. -/
theorem bootSettled_congr {s t : State} (power : t.power = s.power) (sec : t.sec? = s.sec?) (trust : t.trust = s.trust)
    (h : bootSettled s) : bootSettled t := by
  unfold bootSettled
  rw [power, sec, trust]
  exact h

theorem State.ssdInsert_eq (s : State) (n : SsdNo) (i : SsdInfo) : s.ssdInsert n i = { s with
    store := (s.ssdInsert n i).store, log := (s.ssdInsert n i).log, ctrs := (s.ssdInsert n i).ctrs } := by
  unfold State.ssdInsert
  dsimp only
  split <;> rfl

theorem State.ssdInsert_settled {s : State} (settled : bootSettled s) (n : SsdNo) (i : SsdInfo) :
    bootSettled (s.ssdInsert n i) := by
  rw [State.ssdInsert_eq]
  exact settled

/-- The slots change, nothing else. -/
structure State.slotsOnly (s t : State) : Prop where
  frame : t = { s with store := { s.store with slots := t.store.slots } }

theorem State.slotsOnly.trans {s t u : State} (h : s.slotsOnly t) (k : t.slotsOnly u) : s.slotsOnly u := ⟨by rw [k.frame, h.frame]⟩

theorem State.storeFetched_slotsOnly (s : State) : s.slotsOnly s.storeFetched := by
  unfold State.storeFetched
  refine foldl_keep (fun u => s.slotsOnly u) _ (fun u k kept => ?_) _ _ ⟨rfl⟩
  refine foldl_keep (fun u => s.slotsOnly u) _ (fun v b kept => ?_) _ _ kept
  dsimp only
  split
  · exact kept.trans ⟨rfl⟩
  · exact kept

theorem State.resyncDone_of_idle {s : State} {n : SsdNo}
    (h : s.store.ssds[n].present = false ∨ s.store.ssds[n].resync = false) : s.resyncDone n = s := by
  unfold State.resyncDone
  refine if_neg fun both => ?_
  obtain ⟨present, resync⟩ := Bool.and_eq_true_iff.1 both
  obtain absent | idle := h
  · exact Bool.noConfusion (absent.symm.trans present)
  · exact Bool.noConfusion (idle.symm.trans resync)

/-- An SSD brought into step: a commit sets its bit, and the slots are all that changes besides. -/
theorem State.resyncDone_of_ready {s : State} {n : SsdNo} (present : s.store.ssds[n].present = true)
    (resync : s.store.ssds[n].resync = true) :
    ∃ t, s.resyncDone n = t ∧ t.store.ssds = vmod s.store.ssds n (fun d => { d with resync := false, mirror := true }) ∧
      t.stepFlag n = true ∧ t = { s with store := t.store } := by
  refine ⟨_, rfl, ?_⟩
  unfold State.resyncDone
  rw [if_pos (Bool.and_eq_true_iff.2 ⟨present, resync⟩)]
  extract_lets src u v
  obtain ⟨w, hw, hv⟩ : ∃ w, u.slotsOnly w ∧ v = w.commit fun t => t.setStep n true := by
    refine ⟨if u.storeUp then u else u.storeFetched, ?_, rfl⟩
    split
    · exact ⟨rfl⟩
    · exact u.storeFetched_slotsOnly
  have flag : v.writeTrailers.stepFlag n = v.stepFlag n := rfl
  have ssds : v.writeTrailers.store.ssds = v.store.ssds := rfl
  have rest : v.writeTrailers = { v with store := v.writeTrailers.store } := rfl
  rw [flag, ssds, rest, hv]
  refine ⟨?_, w.stepFlag_commit_same n true, ?_⟩
  · rw [hw.frame]
    rfl
  · rw [hw.frame]
    rfl

/-- Settles O54: a commit by the region of the record in force, an SSD by what is found of it and by the record's bit. -/
theorem commitsAndSsds : Obligations.CommitsAndSsds := by
  unfold Obligations.CommitsAndSsds
  refine ⟨fun s => ⟨fun idle => exec_next (t := s.commitOp) (by simp [State.commitOp, idle]), fun r rest waits => ?_⟩,
    fun s n => ⟨fun c hc => ?_, fun i settled => ?_, fun idle settled => ?_, fun present resync settled => ?_⟩⟩
  · refine ⟨s.commitOp, rfl, ?_⟩
    unfold State.commitOp
    rw [waits]
    refine ⟨rfl, ?_⟩
    dsimp only
    cases held : s.store.record with
    | none => exact ⟨fun _ => rfl, fun h => Bool.noConfusion h, fun h => Bool.noConfusion h, fun _ => ⟨rfl, rfl⟩⟩
    | some r' => cases inY : s.store.inY with
      | false => exact ⟨nofun, fun _ => rfl, fun _ => ⟨rfl, rfl⟩, fun h => Bool.noConfusion h⟩
      | true => exact ⟨nofun, fun _ => rfl, fun h => Bool.noConfusion h, fun _ => ⟨rfl, rfl⟩⟩
  · have run : exec c s = .next (s.ssdLost n) := by
      simp only [List.mem_cons, List.not_mem_nil, or_false] at hc
      obtain rfl | rfl | rfl := hc <;> rfl
    refine ⟨fun absent => run.trans (by rw [State.ssdLost_of_absent absent]), fun present => ?_⟩
    obtain ⟨t, rfl, ssds, flag, others, commits, rest⟩ := State.ssdLost_of_present present
    refine ⟨_, run, ?_, ?_, flag, fun k h => ⟨?_, others k h⟩, commits, rest⟩
    · simp [ssds]
    · simp [ssds]
    · rw [ssds]
      exact vmod_get_other _ _ _ _ h
  · refine ⟨s.ssdInsert n i, exec_next (State.continueBoot_of_settled (State.ssdInsert_settled settled n i)), ?_⟩
    by_cases own : i.fingerprint = s.trust.fingerprint ∧ s.trust.life = .branded
    · obtain ⟨t, rfl, ssds, flag, commits⟩ := State.ssdInsert_own (n := n) own.1 own.2
      unfold State.inStep
      rw [ssds, flag, commits, Fin.getElem_fin, vmod_get_self]
      refine ⟨rfl, rfl, rfl, rfl, fun k h => vmod_get_other _ _ _ _ h, fun _ _ => ⟨rfl, rfl, rfl⟩, fun h => ?_⟩
      exact absurd own (by tauto)
    · obtain ⟨t, rfl, ssds, flag⟩ := State.ssdInsert_foreign (n := n) (i := i) (s := s) (by tauto)
      unfold State.inStep
      rw [ssds, flag, Fin.getElem_fin, vmod_get_self]
      exact ⟨rfl, rfl, rfl, rfl, fun k h => vmod_get_other _ _ _ _ h, fun h h' => absurd ⟨h, h'⟩ own, fun _ => ⟨rfl, rfl⟩⟩
  · exact exec_next (t := (s.resyncDone n).continueBoot) (by
      rw [State.resyncDone_of_idle idle, State.continueBoot_of_settled settled])
  · obtain ⟨t, rfl, ssds, flag, rest⟩ := State.resyncDone_of_ready present resync
    have settled' : bootSettled (s.resyncDone n) := by
      rw [rest]
      exact settled
    refine ⟨_, exec_next (State.continueBoot_of_settled settled'), ?_, ?_, rest⟩
    · unfold State.inStep
      rw [ssds, flag, Fin.getElem_fin, vmod_get_self]
      exact Bool.and_eq_true_iff.2 ⟨present, rfl⟩
    · rw [ssds, Fin.getElem_fin, vmod_get_self]

end Sys2Proof.Machine


/-! Requests and sessions (O56). -/

namespace Sys2Proof.Machine

/-! ## What every maintenance request shares -/

/-- The commands that carry a maintenance request. -/
def requestCommands (r : MaintReq) : List Instr :=
  [.openSession r, .closeSession r, .attestation r, .statusRead r, .logRead r, .downloadBegin r, .downloadData r,
    .downloadEnd r, .verify r, .activateImmediate r, .activateAtTick r, .activateDeferred r, .revert r, .holdStop r,
    .holdRelease r, .withdraw r, .reLock r, .replayOn r, .replayOff r, .debugEnable r, .debugDisable r, .debugRead r,
    .dumpExport r, .logClear r, .keyChange r, .adoptSsd r, .maintUnknownOperation r, .tallySelWrite (.maint r),
    .userTagWrite (.maint r), .statusWriteRefused (.maint r)]

/-- Those that need a window. -/
def windowCommands (r : MaintReq) : List Instr :=
  [.downloadBegin r, .activateImmediate r, .activateAtTick r, .activateDeferred r, .revert r, .holdStop r,
    .holdRelease r, .withdraw r, .reLock r, .replayOn r, .replayOff r, .debugEnable r, .debugDisable r, .debugRead r,
    .dumpExport r, .logClear r, .keyChange r, .adoptSsd r]

theorem exec_windowCommand {r : MaintReq} {c : Instr} (h : c ∈ windowCommands r) (s : State) :
    ∃ act, exec c s = .next (s.inWindow r act) := by
  simp only [windowCommands, List.mem_cons, List.not_mem_nil, or_false] at h
  rcases h with rfl | rfl | rfl | rfl | rfl | rfl | rfl | rfl | rfl | rfl | rfl | rfl | rfl | rfl | rfl | rfl | rfl | rfl
  all_goals exact ⟨_, rfl⟩

theorem State.inWindow_isRequest (s : State) (r : MaintReq) (act : State → State) :
    ∃ act', s.inWindow r act = s.request r act' := ⟨_, rfl⟩

/-- What a status write does once it is heard. -/
def State.writeStatus (r : MaintReq) (s : State) : State :=
  let n := s.admitStatus r
  let s := if s.writable r.arg.toNat then s else s.countRefusedWrite
  if n ≠ 0 then s.finish r n []
  else if r.body.length ≠ 4 then s.finish r 7 []
  else match s.putStatus r.arg.toNat (BitVec.ofNat 32 (beAt r.body 0 4)) with
    | some t => t.done r
    | none => s.finish r 6 []

theorem State.statusWriteOp_maint (s : State) (r : MaintReq) :
    s.statusWriteOp (.maint r) = s.request r (State.writeStatus r) := rfl

/-- Those that need none, but the status writes. -/
def openCommands (r : MaintReq) : List Instr :=
  [.openSession r, .closeSession r, .attestation r, .statusRead r, .logRead r, .downloadData r, .downloadEnd r, .verify r,
    .maintUnknownOperation r]

def writeCommands (w : StatusWrite) : List Instr := [.tallySelWrite w, .userTagWrite w, .statusWriteRefused w]

theorem exec_writeCommand {w : StatusWrite} {c : Instr} (h : c ∈ writeCommands w) (s : State) :
    exec c s = .next (s.statusWriteOp w) := by
  simp only [writeCommands, List.mem_cons, List.not_mem_nil, or_false] at h
  rcases h with rfl | rfl | rfl <;> rfl

theorem requestCommands_cases {r : MaintReq} {c : Instr} (h : c ∈ requestCommands r) :
    c ∈ openCommands r ∨ c ∈ windowCommands r ∨ c ∈ writeCommands (.maint r) := by
  simp only [requestCommands, List.mem_cons, List.not_mem_nil, or_false] at h
  rcases h with rfl | rfl | rfl | rfl | rfl | rfl | rfl | rfl | rfl | rfl | rfl | rfl | rfl | rfl | rfl | rfl | rfl | rfl |
    rfl | rfl | rfl | rfl | rfl | rfl | rfl | rfl | rfl | rfl | rfl | rfl
  all_goals simp [openCommands, windowCommands, writeCommands]

/-- Every one of them is heard, repeated or acted on by the one rule of `State.request`. -/
theorem exec_requestCommand {r : MaintReq} {c : Instr} (h : c ∈ requestCommands r) (s : State) :
    ∃ act, exec c s = .next (s.request r act) := by
  obtain open_ | windowed | written := requestCommands_cases h
  · simp only [openCommands, List.mem_cons, List.not_mem_nil, or_false] at open_
    rcases open_ with rfl | rfl | rfl | rfl | rfl | rfl | rfl | rfl | rfl
    all_goals exact ⟨_, rfl⟩
  · obtain ⟨act, run⟩ := exec_windowCommand windowed s
    obtain ⟨act', same⟩ := s.inWindow_isRequest r act
    exact ⟨act', run.trans (congrArg _ same)⟩
  · exact ⟨State.writeStatus r, exec_writeCommand written s⟩

theorem State.request_unheard {s : State} {r : MaintReq} (h : s.hears r = false) (act : State → State) :
    s.request r act = s.countPl r.port 3 1 := by simp [State.request, h]

theorem State.request_repeat {s : State} {r : MaintReq} {a : Answer} (h : s.hears r = true)
    (again : s.trust.sess.given r = some a ∨
      (s.trust.sess.given r = none ∧ s.trust.sess.busyWith r = true ∧ a = answerTo r 1 r.session []))
    (act : State → State) : s.request r act = s.sendAnswer a := by
  obtain given | ⟨first, busy, rfl⟩ := again
  · simp [State.request, h, given]
  · simp [State.request, h, first, busy]

/-- Table 15.5: what a request outside a window or a session is answered. -/
theorem State.admitStatus_refused {s : State} {r : MaintReq} {n : Nat}
    (h : n = 3 ∧ s.trust.pres.fuse = true ∨
      n = 9 ∧ s.trust.pres.fuse = false ∧ s.trust.pres.discrepancy = true ∨
      n = 2 ∧ s.trust.pres.fuse = false ∧ s.trust.pres.discrepancy = false ∧ s.trust.pres.window = none ∨
      n = 4 ∧ s.windowStatus = 0 ∧ s.trust.sess.num ≠ some r.session) : s.admitStatus r = n ∧ n ≠ 0 := by
  unfold State.admitStatus
  obtain ⟨rfl, fuse⟩ | ⟨rfl, fuse, latched⟩ | ⟨rfl, fuse, clear, closed⟩ | ⟨rfl, isOpen, other⟩ := h
  · simp [State.windowStatus, fuse]
  · simp [State.windowStatus, fuse, latched]
  · simp [State.windowStatus, fuse, clear, closed]
  · simp [isOpen, other]

/-! ## Sessions -/

theorem State.touch_of_other {s : State} {r : MaintReq} (h : s.trust.sess.num ≠ some r.session) : s.touch r = s := by
  unfold State.touch State.onSess
  simp only [if_neg h]

/-- A session begun is answered under its number, drawn nonzero. -/
theorem beginSession_answered (s : State) (r : MaintReq) :
    ∃ n : BitVec 32, n ≠ 0 ∧ answered ({ s with
      trust := { s.trust with draws := s.trust.draws + 1, sess := { s.trust.sess with num := some n, download := none } } })
      (s.beginSession r) r 0 n [] ∧ (s.beginSession r).trust.sess.last = s.now := by
  obtain ⟨n, nonzero, h⟩ := s.beginSession_trust r
  have num : (BitVec.ofNat 32 (1 + (Config.entropy s.trust.draws 32).toNat % (2 ^ 32 - 1))) = n := by
    have : (s.beginSession r).trust.sess.num = some (BitVec.ofNat 32 (1 + (Config.entropy s.trust.draws 32).toNat % (2 ^ 32 - 1))) := by
      unfold State.beginSession State.finishWith
      rw [State.sendAnswer_eq]
      rfl
    rw [h] at this
    exact (Option.some.inj this).symm
  refine ⟨n, nonzero, ?_, by rw [h]⟩
  unfold State.beginSession
  dsimp only
  rw [show (s.draw 32).1 = Config.entropy s.trust.draws 32 from rfl, num]
  exact answered_of_heard (by exact rfl) r 0 n []

/-- Settles O56: requests by the one rule of admission, sessions by the cases of opening, closing and time. -/
theorem requestsAndSessions : Obligations.RequestsAndSessions := by
  unfold Obligations.RequestsAndSessions
  refine ⟨⟨fun s r c hc => ?_, fun s r c n hc new h => ?_, fun s r new => ?_⟩,
    fun s r new => ⟨?_, ?_, ?_, ?_, ?_, ?_, ?_⟩, fun s => ⟨?_, ?_, ?_, ?_⟩⟩
  · obtain ⟨act, run⟩ := exec_requestCommand (r := r) hc s
    refine ⟨fun unheard => run.trans (by rw [State.request_unheard unheard]; rfl), fun a heard again => ?_⟩
    refine ⟨_, run, ?_⟩
    rw [State.request_repeat heard again]
    exact ⟨s.sendAnswer_given a, s.sendAnswer_eq a⟩
  · obtain ⟨act, run⟩ := exec_windowCommand (r := r) hc s
    obtain ⟨refused, nonzero⟩ := State.admitStatus_refused h
    refine ⟨_, run, ?_⟩
    rw [State.inWindow_of_refused new refused nonzero]
    exact answered_touch_finish s r n []
  · refine ⟨_, exec_next (t := s.unknownOp r) (State.request_of_new new _), answered_touch_finish s r 10 []⟩
  · intro isOpen none_ idle works
    obtain ⟨n, nonzero, done⟩ := beginSession_answered s r
    refine ⟨_, n, nonzero, exec_next (t := s.openOp r) ?_, done⟩
    rw [State.openOp, State.request_of_new new, State.touch_of_other (by simp [none_])]
    simp [isOpen, none_, idle, works]
  · intro isOpen taken
    refine ⟨_, exec_next (t := s.openOp r) (u := (s.touch r).finish r 5 []) ?_, answered_touch_finish s r 5 []⟩
    have waiting : (s.touch r).trust.sess.waiting = s.trust.sess.waiting := by rw [s.heard_touch r]
    rw [State.openOp, State.request_of_new new, State.touch_windowStatus, State.touch_num, waiting, if_neg (by simp [isOpen]),
      if_pos taken]
  · intro isOpen none_ idle failed
    refine exec_next (t := s.openOp r) ?_
    rw [State.openOp, State.request_of_new new, State.touch_of_other (by simp [none_])]
    simp [isOpen, none_, idle, failed, State.onSess]
  · intro closed
    refine ⟨_, exec_next (t := s.openOp r) (u := (s.touch r).finish r s.windowStatus []) ?_, answered_touch_finish s r _ []⟩
    rw [State.openOp, State.request_of_new new, State.touch_windowStatus, if_pos closed]
  · intro own closed
    refine ⟨_, exec_next (t := s.closeOp r) (u := (s.touch r).finish r 2 []) ?_, answered_touch_finish s r 2 []⟩
    have window : (s.touch r).trust.pres = s.trust.pres := by rw [s.heard_touch r]
    rw [State.closeOp, State.request_of_new new, State.touch_num, window, if_neg (by simp [own]), if_pos (by simp [closed])]
  · intro own isOpen
    refine ⟨_, exec_next (t := s.closeOp r) (u := (s.touch r).endSession.done r) ?_, answered_done ?_ r⟩
    · have window : (s.touch r).trust.pres = s.trust.pres := by rw [s.heard_touch r]
      rw [State.closeOp, State.request_of_new new, State.touch_num, window, if_neg (by simp [own]),
        if_neg (by simpa [Option.isSome_iff_ne_none] using isOpen)]
    · have h := s.heard_touch r
      unfold State.heard at h ⊢
      rw [h]
      rfl
  · intro other
    refine ⟨_, exec_next (t := s.closeOp r) (u := (s.touch r).finish r 4 []) ?_, answered_touch_finish s r 4 []⟩
    rw [State.closeOp, State.request_of_new new, State.touch_num, if_pos other]
  · exact fun isOpen silent => exec_next (t := s.sessionTimeoutOp) (if_pos ⟨isOpen, silent⟩)
  · intro h
    refine exec_next (t := s.sessionTimeoutOp) (if_neg fun ⟨isOpen, silent⟩ => ?_)
    obtain none_ | early := h
    · simp [none_] at isOpen
    · exact absurd silent (Nat.not_le.2 early)
  · exact fun idle => exec_next (t := s.inProgressOp) (by simp only [State.inProgressOp, idle])
  · intro r busy
    refine ⟨_, exec_next (t := s.inProgressOp) (u := s.sendAnswer (answerTo r 1 r.session [])) ?_, s.sendAnswer_given _,
      s.sendAnswer_eq _⟩
    simp only [State.inProgressOp, busy]

end Sys2Proof.Machine


/-! Reads, which need no window, and status writes (O57). -/

namespace Sys2Proof.Machine

/-! ## Hearing of the session changes no register -/

/-- A touched session is the session, heard of at a time of its own. -/
theorem State.touch_eq (s : State) (r : MaintReq) :
    ∃ last, s.touch r = { s with trust := { s.trust with sess := { s.trust.sess with last := last } } } := by
  by_cases own : s.trust.sess.num = some r.session
  · exact ⟨s.now, by simp only [State.touch, State.onSess, if_pos own]⟩
  · exact ⟨s.trust.sess.last, State.touch_of_other own⟩

theorem State.peek_latches (s : State) (l : List Latch) (addr : Nat) : ({ s with latches := l } : State).peek addr = s.peek addr := rfl

theorem State.peek_touch (s : State) (r : MaintReq) (addr : Nat) : (s.touch r).peek addr = s.peek addr := by
  obtain ⟨last, h⟩ := s.touch_eq r
  rw [h]
  rfl

theorem State.readStatus_touch (s : State) (r : MaintReq) (addr : Nat) :
    ((s.touch r).readStatus addr).1 = (s.readStatus addr).1 ∧ (s.readStatus addr).2.heard ((s.touch r).readStatus addr).2 := by
  obtain ⟨last, h⟩ := s.touch_eq r
  rw [h]
  unfold State.readStatus
  dsimp only [State.endDigest]
  split
  · exact ⟨rfl, rfl⟩
  · refine ⟨rfl, ?_⟩
    unfold State.latchPair
    dsimp only
    split
    · rfl
    · split <;> rfl

/-! ## Attestation -/

theorem attest_answered (s : State) (r : MaintReq) :
    answered ({ s with trust := { s.trust with draws := s.trust.draws + 1 } }) ((s.touch r).attest r) r 0 r.session
      (s.attestBytes r.body ++
        beBytes (ecdsaSign s.brandPrivate (nonceOf (Config.entropy s.trust.draws 384)) (s.attestBytes r.body)).toNat 96) := by
  obtain ⟨last, h⟩ := s.touch_eq r
  rw [h]
  exact answered_finish (by exact rfl) r 0 _

theorem State.attestationOp_of_sound {s : State} {r : MaintReq} (new : isNew s r) (len : r.body.length = 32)
    (branded : s.trust.life = .branded) :
    s.attestationOp r = if s.ticks && !s.tick.inReserve then (s.touch r).keepRead r else (s.touch r).attestNow r := by
  obtain ⟨last, h⟩ := s.touch_eq r
  rw [State.attestationOp, State.request_of_new new, h]
  rw [if_neg (by simp [len]), if_neg (by simp [branded])]
  rfl

/-! ## A pair is read from one sample -/

theorem reg_toNat {a : Nat} (h : a < 2 ^ 32) : (reg a).toNat = a := by
  rw [reg, BitVec.toNat_ofNat, Nat.mod_eq_of_lt h]

/-- R447: what a read latches is what the next read of that register returns. -/
theorem State.readStatus_of_latched {s : State} {a : Nat} {v : Word32} {rest : List Latch} (small : a < 2 ^ 32)
    (latched : s.latches = (reg a, v) :: rest) : (s.readStatus a).1 = v := by
  have kept : ∃ rest', (s.endDigest a).latches = (reg a, v) :: rest' := by
    unfold State.endDigest
    rw [latched, List.filter_cons_of_pos (by simp [reg_toNat small])]
    exact ⟨_, rfl⟩
  obtain ⟨rest', kept⟩ := kept
  unfold State.readStatus
  dsimp only
  rw [kept, List.find?_cons_of_pos (by simp [reg_toNat small])]

theorem State.pairLowOp_eq (s : State) (a : Word32) : s.pairLowOp a = { s with latches := (s.pairLowOp a).latches } := by
  unfold State.pairLowOp State.latchPair
  dsimp only
  split
  · rfl
  · split <;> rfl

theorem State.pairLowOp_latches {s : State} {a : Word32} (low : isLow a.toNat = true) :
    ∃ rest, (s.pairLowOp a).latches = (reg (a.toNat + 4), s.peek (a.toNat + 4)) :: rest := by
  unfold State.pairLowOp State.latchPair
  dsimp only
  rw [if_pos low]
  exact ⟨_, rfl⟩

/-- What ends a digest's latches adds none. -/
theorem State.pairLowOp_of_single {s : State} {a : Word32} (low : isLow a.toNat = false) (digest : isDigest a.toNat = false) :
    s.pairLowOp a = s.endDigest a.toNat := by
  unfold State.pairLowOp State.latchPair
  simp [low, digest]

/-! ## Status writes -/

theorem State.putStatus_select {s : State} {addr : Nat} {p : CoreNo} {k : Fin 8} (sel : tallySel addr = some (p, k))
    (on : s.cores[p].supply.on = true) (v : Word32) :
    s.putStatus addr v = some { s with cores := s.cores.set p { s.cores[p] with
      tally := s.cores[p].tally.set k { s.cores[p].tally[k] with selNext := some (v &&& 0xEFFFE0FF) } } } := by
  simp only [State.putStatus, sel, if_pos on]
  rfl

theorem State.putStatus_tag {s : State} {addr : Nat} {k : Fin 16} (sel : tallySel addr = none) (tag : userTag addr = some k)
    (v : Word32) : s.putStatus addr v = some { s with userTags := s.userTags.set k v } := by
  simp only [State.putStatus, sel, tag]
  rfl

/-- Registers that no status write reaches. -/
inductive State.unwritten (s : State) (addr : Nat) : Prop
  | unnamed (sel : tallySel addr = none) (tag : userTag addr = none)
  | off (p : CoreNo) (k : Fin 8) (sel : tallySel addr = some (p, k)) (off : s.cores[p].supply.on = false)

theorem State.unwritten_of {s : State} {addr : Nat} (h : (tallySel addr = none ∧ userTag addr = none) ∨
    (∃ p k, tallySel addr = some (p, k) ∧ s.cores[p].supply.on = false)) : s.unwritten addr :=
  h.elim (fun ⟨sel, tag⟩ => .unnamed sel tag) fun ⟨p, k, sel, off⟩ => .off p k sel off

theorem State.putStatus_unwritten {s : State} {addr : Nat} (h : s.unwritten addr) (v : Word32) :
    s.putStatus addr v = none ∧ s.writable addr = false := by
  obtain ⟨sel, tag⟩ | ⟨p, k, sel, off⟩ := h
  · simp [State.putStatus, State.writable, sel, tag]
  · unfold State.putStatus State.writable
    rw [sel]
    exact ⟨if_neg (by rw [off]; decide), off⟩

theorem State.writable_of_putStatus {s : State} {addr : Nat} {v : Word32} (h : (s.putStatus addr v).isSome = true) :
    s.writable addr = true := by
  unfold State.putStatus at h
  unfold State.writable
  split at h
  · next p k sel =>
    rw [sel]
    split at h
    · assumption
    · simp at h
  · next sel =>
    rw [sel]
    split at h
    · next k tag => rw [tag]; rfl
    · simp at h

theorem State.i3cWrite_of_some {s t : State} {a v : Word32} (isOpen : s.windowOpen = true) (put : s.putStatus a.toNat v = some t) :
    s.i3cWrite a v = { t with nack := false } := by
  simp only [State.i3cWrite, isOpen, ↓reduceIte, put]

theorem State.i3cWrite_of_none {s : State} {a v : Word32} (h : s.windowOpen = false ∨ s.putStatus a.toNat v = none) :
    s.i3cWrite a v = { s with nack := true, ctrs := s.ctrs.set 9 ((s.ctrs[9] : Ctr).add 1) } := by
  have none_ : (if s.windowOpen then s.putStatus a.toNat v else none) = none := by
    obtain closed | none_ := h
    · simp [closed]
    · simp [none_]
  unfold State.i3cWrite
  rw [none_]
  rfl

/-! ### Over maintenance requests -/

/-- A write of a register that is not for writing is counted before it is answered. -/
def State.countIfRefused (s : State) (r : MaintReq) : State := if s.writable r.arg.toNat then s else s.countRefusedWrite

theorem State.heard_countIfRefused (s : State) (r : MaintReq) : s.heard (s.countIfRefused r) := by
  unfold State.countIfRefused
  split <;> rfl

theorem State.finish_ctrs (s : State) (r : MaintReq) (status : Nat) (body : List Byte) :
    (s.finish r status body).ctrs = s.ctrs := by
  unfold State.finish State.finishWith
  rw [State.sendAnswer_eq]
  rfl

theorem State.writable_touch (s : State) (r : MaintReq) (addr : Nat) : (s.touch r).writable addr = s.writable addr := by
  rw [s.heard_touch r]
  rfl

theorem State.countIfRefused_ctrs (s : State) (r : MaintReq) :
    (s.writable r.arg.toNat = false → ((s.touch r).countIfRefused r).ctrs[9] = (s.ctrs[9] : Ctr).add 1) ∧
      (s.writable r.arg.toNat = true → ((s.touch r).countIfRefused r).ctrs[9] = (s.ctrs[9] : Ctr)) := by
  obtain ⟨last, h⟩ := s.touch_eq r
  unfold State.countIfRefused
  rw [State.writable_touch, h]
  refine ⟨fun off => ?_, fun on => ?_⟩
  · rw [if_neg (by rw [off]; decide)]
    exact vmod_get_self ..
  · rw [if_pos on]

theorem State.statusWriteOp_of_barred {s : State} {r : MaintReq} (new : isNew s r) (barred : s.admitStatus r ≠ 0) :
    s.statusWriteOp (.maint r) = ((s.touch r).countIfRefused r).finish r (s.admitStatus r) [] := by
  rw [State.statusWriteOp_maint, State.request_of_new new]
  unfold State.writeStatus
  dsimp only
  rw [State.touch_admitStatus, if_pos barred]
  rfl

theorem State.statusWriteOp_of_short {s : State} {r : MaintReq} (ours : inSession s r) (len : r.body.length ≠ 4) :
    s.statusWriteOp (.maint r) = ((s.touch r).countIfRefused r).finish r 7 [] := by
  rw [State.statusWriteOp_maint, State.request_of_new ours.1]
  unfold State.writeStatus
  dsimp only
  rw [State.touch_admitStatus, State.admitStatus_of_inSession ours, if_neg (by simp), if_pos len]
  rfl

@[simp] theorem State.touch_cores (s : State) (r : MaintReq) : (s.touch r).cores = s.cores := rfl

theorem State.putStatus_touch (s : State) (r : MaintReq) (addr : Nat) (v : Word32) :
    (s.touch r).putStatus addr v = (s.putStatus addr v).map fun t => t.onSess fun x =>
      if x.num = some r.session then { x with last := s.now } else x := by
  unfold State.putStatus
  rw [State.touch_cores]
  split
  · split <;> rfl
  · split <;> rfl

theorem State.heard_onSess_last (s : State) (r : MaintReq) (now : Nat) :
    s.heard (s.onSess fun x => if x.num = some r.session then { x with last := now } else x) := by
  unfold State.heard State.onSess
  by_cases own : s.trust.sess.num = some r.session
  · simp only [if_pos own]
  · simp only [if_neg own]

theorem answered_statusWrite {s t : State} {r : MaintReq} (ours : inSession s r) (len : r.body.length = 4)
    (put : s.putStatus r.arg.toNat (BitVec.ofNat 32 (beAt r.body 0 4)) = some t) :
    answered t (s.statusWriteOp (.maint r)) r 0 r.session [] := by
  have writable := State.writable_of_putStatus (s := s) (addr := r.arg.toNat) (v := BitVec.ofNat 32 (beAt r.body 0 4))
    (by rw [put]; rfl)
  rw [State.statusWriteOp_maint, State.request_of_new ours.1]
  unfold State.writeStatus
  dsimp only
  rw [State.touch_admitStatus, State.admitStatus_of_inSession ours, if_neg (by simp), if_neg (by simp [len]),
    State.writable_touch, if_pos writable, State.putStatus_touch, put]
  exact answered_done (t.heard_onSess_last r s.now) r

theorem answered_statusWrite_refused {s : State} {r : MaintReq} (ours : inSession s r) (len : r.body.length = 4)
    (h : s.unwritten r.arg.toNat) :
    answered s (s.statusWriteOp (.maint r)) r 6 r.session [] ∧
      (s.statusWriteOp (.maint r)).ctrs[9] = (s.ctrs[9] : Ctr).add 1 := by
  have h' : ((s.touch r).countRefusedWrite).unwritten r.arg.toNat := by
    obtain ⟨last, e⟩ := s.touch_eq r
    rw [e]
    cases h with
    | unnamed sel tag => exact .unnamed sel tag
    | off p k sel off => exact .off p k sel off
  have run : s.statusWriteOp (.maint r) = ((s.touch r).countIfRefused r).finish r 6 [] := by
    rw [State.statusWriteOp_maint, State.request_of_new ours.1]
    unfold State.writeStatus State.countIfRefused
    dsimp only
    rw [State.touch_admitStatus, State.admitStatus_of_inSession ours, if_neg (by simp), if_neg (by simp [len]),
      State.writable_touch, (State.putStatus_unwritten h 0).2, if_neg (by decide), (State.putStatus_unwritten h' _).1]
  rw [run, State.finish_ctrs]
  exact ⟨answered_finish ((s.heard_touch r).trans (State.heard_countIfRefused _ r)) r 6 [],
    (s.countIfRefused_ctrs r).1 (State.putStatus_unwritten h 0).2⟩

/-! ## I3C -/

theorem State.provisionalId_parts (s : State) : s.provisionalId.extractLsb' 33 15 = Config.makerCode ∧
    s.provisionalId.getLsbD 32 = true ∧ s.provisionalId.extractLsb' 0 32 = s.trust.fingerprint.extractLsb' 352 32 := by
  have maker := Config.makerCode.isLt
  have print : s.trust.fingerprint.toNat / 2 ^ 352 < 2 ^ 32 := by
    rw [Nat.div_lt_iff_lt_mul (by decide), ← Nat.pow_add]
    exact s.trust.fingerprint.isLt
  unfold State.provisionalId
  generalize s.trust.fingerprint = fp at *
  refine ⟨?_, ?_, ?_⟩
  · apply BitVec.eq_of_toNat_eq
    rw [BitVec.extractLsb'_toNat, BitVec.toNat_ofNat, Nat.shiftRight_eq_div_pow]
    omega
  · rw [BitVec.getLsbD_ofNat, Nat.testBit, Nat.shiftRight_eq_div_pow]
    generalize fp.toNat / 2 ^ 352 = q at print
    have : (Config.makerCode.toNat * 2 ^ 33 + 2 ^ 32 + q) / 2 ^ 32 % 2 = 1 := by omega
    rw [Nat.one_and_eq_mod_two, this]
    decide
  · apply BitVec.eq_of_toNat_eq
    rw [BitVec.extractLsb'_toNat, BitVec.extractLsb'_toNat, BitVec.toNat_ofNat, Nat.shiftRight_eq_div_pow, Nat.shiftRight_eq_div_pow]
    omega

/-- Settles O57: what is read comes of the registers of one cycle, what is written by the kind of the register. -/
theorem readsAndStatusWrites : Obligations.ReadsAndStatusWrites := by
  unfold Obligations.ReadsAndStatusWrites
  refine ⟨fun s r new => ⟨fun len branded => ⟨?_, ?_, ?_⟩, ?_, ?_, fun kept => ⟨?_, ?_, ?_⟩, ?_⟩,
    fun s w c a v hc hw => ?_, fun s r w c hc hw => ?_, fun s a small => ?_, fun s a => ?_⟩
  · intro now works
    refine ⟨_, exec_next (t := s.attestationOp r) (u := (s.touch r).attest r) ?_, attest_answered s r⟩
    rw [State.attestationOp_of_sound new len branded, if_neg (by grind)]
    obtain ⟨last, h⟩ := s.touch_eq r
    rw [h]
    exact if_neg (by simp [works])
  · intro ticks outside
    refine ⟨_, exec_next (t := s.attestationOp r) (u := (s.touch r).keepRead r) ?_, ?_⟩
    · rw [State.attestationOp_of_sound new len branded, if_pos (by simp [ticks, outside])]
    · obtain ⟨last, h⟩ := s.touch_eq r
      rw [h]
      rfl
  · intro now failed idle
    refine ⟨_, exec_next (t := s.attestationOp r) (u := (s.touch r).onSess fun x => { x with waiting := some (r, s.now) }) ?_, ?_⟩
    · rw [State.attestationOp_of_sound new len branded, if_neg (by grind)]
      obtain ⟨last, h⟩ := s.touch_eq r
      rw [h]
      simp only [State.attestNow, failed, idle]
      rfl
    · obtain ⟨last, h⟩ := s.touch_eq r
      rw [h]
      rfl
  · intro len
    refine ⟨_, exec_next (t := s.attestationOp r) (u := (s.touch r).finish r 7 []) ?_, answered_touch_finish s r 7 []⟩
    rw [State.attestationOp, State.request_of_new new, if_pos len]
  · intro len life
    refine ⟨_, exec_next (t := s.attestationOp r) (u := (s.touch r).finish r 8 []) ?_, answered_touch_finish s r 8 []⟩
    rw [State.attestationOp, State.request_of_new new, if_neg (by simp [len]), s.heard_touch r]
    exact if_pos life
  · obtain ⟨value, heard⟩ := s.readStatus_touch r r.arg.toNat
    refine ⟨_, exec_next (t := s.statusReadOp r) (u := ((s.touch r).readStatus r.arg.toNat).2.finish r 0
      (beBytes (s.readStatus r.arg.toNat).1.toNat 4)) ?_, answered_finish heard r 0 _⟩
    rw [State.statusReadOp, State.request_of_new new, if_neg (by rw [s.heard_touch r]; exact kept)]
    dsimp only
    rw [value]
  · intro inside
    refine ⟨_, exec_next (t := s.logReadOp r) (u := (s.touch r).finish r 0 _) ?_, answered_touch_finish s r 0 _⟩
    rw [State.logReadOp, State.request_of_new new, if_neg (by rw [s.heard_touch r]; exact kept), if_neg (show ¬ ringBytes ≤ r.arg.toNat from Nat.not_le.2 inside),
      s.heard_touch r]
    rfl
  · intro outside
    refine ⟨_, exec_next (t := s.logReadOp r) (u := (s.touch r).finish r 7 []) ?_, answered_touch_finish s r 7 []⟩
    rw [State.logReadOp, State.request_of_new new, if_neg (by rw [s.heard_touch r]; exact kept), if_pos (show ringBytes ≤ r.arg.toNat from outside)]
  · intro lost c hc
    obtain rfl | rfl := hc
    · refine ⟨_, exec_next (t := s.statusReadOp r) (u := (s.touch r).finish r 6 []) ?_, answered_touch_finish s r 6 []⟩
      rw [State.statusReadOp, State.request_of_new new, if_pos (by rw [s.heard_touch r]; exact lost)]
    · refine ⟨_, exec_next (t := s.logReadOp r) (u := (s.touch r).finish r 6 []) ?_, answered_touch_finish s r 6 []⟩
      rw [State.logReadOp, State.request_of_new new, if_pos (by rw [s.heard_touch r]; exact lost)]
  · have run := exec_writeCommand (w := w) hc s
    subst hw
    refine ⟨fun p k isOpen sel on => run.trans ?_, fun k isOpen sel tag => run.trans ?_, fun h => run.trans ?_⟩
    · exact congrArg _ (State.i3cWrite_of_some isOpen (State.putStatus_select sel on v))
    · exact congrArg _ (State.i3cWrite_of_some isOpen (State.putStatus_tag sel tag v))
    · exact congrArg _ (State.i3cWrite_of_none (h.imp_right fun h => (State.putStatus_unwritten (State.unwritten_of h) v).1))
  · have run := exec_writeCommand (w := w) hc s
    subst hw
    refine ⟨fun k ours len sel tag => ⟨_, run, ?_⟩, fun p k ours len sel on => ⟨_, run, ?_⟩, fun ours len h => ⟨_, run, ?_⟩,
      fun ours len => ⟨_, run, ?_⟩, fun new barred => ⟨_, run, ?_⟩⟩
    · exact answered_statusWrite ours len (State.putStatus_tag sel tag _)
    · exact answered_statusWrite ours len (State.putStatus_select sel on _)
    · exact answered_statusWrite_refused ours len (State.unwritten_of h)
    · rw [State.statusWriteOp_of_short ours len]
      exact answered_finish ((s.heard_touch r).trans (State.heard_countIfRefused _ r)) r 7 []
    · rw [State.statusWriteOp_of_barred new barred, State.finish_ctrs]
      exact ⟨answered_finish ((s.heard_touch r).trans (State.heard_countIfRefused _ r)) r _ [], s.countIfRefused_ctrs r⟩
  · refine ⟨s.pairLowOp a, rfl, s.pairLowOp_eq a, fun low => ?_, fun low digest x hx => ?_⟩
    · obtain ⟨rest, h⟩ := State.pairLowOp_latches low
      exact State.readStatus_of_latched small h
    · rw [State.pairLowOp_of_single low digest] at hx
      exact (List.mem_filter.1 hx).1
  · exact ⟨s.provisionalId, rfl, s.provisionalId_parts⟩

end Sys2Proof.Machine


/-! Downloads and verifications (O58). -/

namespace Sys2Proof.Machine

/-! ## Slots and entries -/

@[simp] theorem Store.slot?_setSlot (t : Store) (key : SlotKey) (c : Slot) : (t.setSlot key c).slot? key = some c := by
  simp [Store.slot?, Store.setSlot]

theorem State.entryAt_commitEntry (s : State) (k : Fin 33) (g : TackEntry → TackEntry) :
    (s.commitEntry k g).entryAt k = g (s.entryAt k) := by
  unfold State.commitEntry State.entryAt
  rw [State.tack_commit]
  exact vmod_get_self ..

theorem targetEntry_firmware : targetEntry 0x100 = none := by decide

theorem targetEntry_boot : targetEntry 0x101 = none := by decide

/-- Only the session's own fields differ. -/
theorem State.touch_of_own {s : State} {r : MaintReq} (own : s.trust.sess.num = some r.session) :
    s.touch r = { s with trust := { s.trust with sess := { s.trust.sess with last := s.now } } } := by
  simp only [State.touch, State.onSess, if_pos own]

/-! ## Hearing of the session leaves the image store -/

@[simp] theorem State.touch_store (s : State) (r : MaintReq) : (s.touch r).store = s.store := rfl
@[simp] theorem State.touch_downKey (s : State) (r : MaintReq) (t : BitVec 16) : (s.touch r).downKey t = s.downKey t := rfl
@[simp] theorem State.touch_storeUp (s : State) (r : MaintReq) : (s.touch r).storeUp = s.storeUp := rfl
@[simp] theorem State.touch_entryAt (s : State) (r : MaintReq) (k : Fin 33) : (s.touch r).entryAt k = s.entryAt k := rfl
@[simp] theorem State.touch_targetState (s : State) (r : MaintReq) (t : BitVec 16) :
    (s.touch r).targetState t = s.targetState t := rfl
@[simp] theorem State.touch_notBegun (s : State) (r : MaintReq) (t : BitVec 16) (key : SlotKey) :
    (s.touch r).notBegun t key = s.notBegun t key := rfl

@[simp] theorem State.touch_busy (s : State) (r : MaintReq) : (s.touch r).trust.sess.busy = s.trust.sess.busy := by
  rw [s.heard_touch r]

@[simp] theorem State.touch_download (s : State) (r : MaintReq) :
    (s.touch r).trust.sess.download = s.trust.sess.download := by rw [s.heard_touch r]

section
variable {s : State} {r : MaintReq} {key : SlotKey} (down : s.downKey r.target = some key)
include down

/-! ## A download begins -/

theorem downloadBegin_answered (ours : inSession s r) (arg : r.arg ≠ 0)
    (ready : ¬(s.storeUp = false ∨ (s.targetState r.target).blocksDownload = true ∨ s.trust.sess.busy.isSome = true)) :
    answered ({ s with
        trust := { s.trust with sess := { s.trust.sess with download := some (r.target, r.arg.toNat) } }
        store := if s.targetState r.target = .downloading ∨ targetEntry r.target = none then s.store.freeSlot key else s.store })
      (s.downloadBeginOp r) r 0 r.session [] := by
  rw [State.downloadBeginOp, State.inWindow_of_inSession ours]
  simp only [State.touch_downKey, down, State.touch_storeUp, State.touch_targetState, State.touch_busy]
  have go : ¬((!s.storeUp) = true ∨ (s.targetState r.target).blocksDownload = true ∨ s.trust.sess.busy.isSome = true) := by
    rwa [Bool.not_eq_true']
  rw [if_neg arg, if_neg go]
  refine answered_done ?_ r
  simp only [Option.isNone_iff_eq_none]
  by_cases freed : s.targetState r.target = .downloading ∨ targetEntry r.target = none
  · simp only [if_pos freed, State.touch_of_own ours.2.2]
    rfl
  · simp only [if_neg freed, State.touch_of_own ours.2.2]
    rfl

theorem State.downloadBeginOp_of_not (ours : inSession s r) (arg : r.arg ≠ 0)
    (not_ : s.storeUp = false ∨ (s.targetState r.target).blocksDownload = true ∨ s.trust.sess.busy.isSome = true) :
    s.downloadBeginOp r = (s.touch r).finish r 6 [] := by
  rw [State.downloadBeginOp, State.inWindow_of_inSession ours]
  simp only [State.touch_downKey, down, State.touch_storeUp, State.touch_targetState, State.touch_busy]
  rw [if_neg arg, if_pos (by simpa using not_)]

theorem State.downloadBeginOp_of_empty (ours : inSession s r) (arg : r.arg = 0) :
    s.downloadBeginOp r = (s.touch r).finish r 7 [] := by
  rw [State.downloadBeginOp, State.inWindow_of_inSession ours]
  simp only [State.touch_downKey, down]
  rw [if_pos arg]

/-! ## Its bytes -/

section
variable {len : Nat} (new : isNew s r) (own : s.trust.sess.num = some r.session)
  (open_ : s.trust.sess.download = some (r.target, len)) (some_ : 0 < len) (up : s.storeUp = true)
include new own open_ some_ up

/-- What a transfer does with a request that may bring bytes. -/
theorem State.downloadDataOp_eq : s.downloadDataOp r =
    if r.arg.toNat % 32 ≠ 0 ∨ r.body.isEmpty ∨ len < r.arg.toNat + r.body.length then (s.touch r).finish r 7 []
    else
      let u := if s.notBegun r.target key then (s.touch r).beginTransfer r.target key len else s.touch r
      ({ u with store := u.store.setSlot key (((u.store.slot? key).getD (Slot.fresh len)).put r.arg.toNat r.body) }).done r := by
  have ready : ¬(r.target ≠ r.target ∨ len = 0 ∨ (!s.storeUp) = true) := by
    rw [up]
    simp
    omega
  rw [State.downloadDataOp, State.request_of_new new, if_neg (by simp [own])]
  simp only [State.touch_download, open_, State.touch_downKey, down, State.touch_storeUp, State.touch_notBegun]
  exact if_neg ready

theorem State.downloadDataOp_of_bad (bad : r.arg.toNat % 32 ≠ 0 ∨ r.body = [] ∨ len < r.arg.toNat + r.body.length) :
    s.downloadDataOp r = (s.touch r).finish r 7 [] := by
  rw [State.downloadDataOp_eq down new own open_ some_ up, if_pos (by simpa using bad)]

theorem downloadData_answered {c : Slot} (aligned : r.arg.toNat % 32 = 0) (bytes : r.body ≠ [])
    (fits : r.arg.toNat + r.body.length ≤ len) (begun : s.notBegun r.target key = false) (held : s.store.slot? key = some c) :
    answered ({ s with store := s.store.setSlot key (c.put r.arg.toNat r.body) }) (s.downloadDataOp r) r 0 r.session [] := by
  rw [State.downloadDataOp_eq down new own open_ some_ up, if_neg (by simp [aligned, bytes]; omega)]
  dsimp only
  rw [begun, if_neg Bool.false_ne_true, State.touch_of_own own, held]
  exact answered_done (by exact rfl) r

theorem State.downloadDataOp_first (aligned : r.arg.toNat % 32 = 0) (bytes : r.body ≠ [])
    (fits : r.arg.toNat + r.body.length ≤ len) (first : s.notBegun r.target key = true) :
    s.downloadDataOp r = State.done { (s.touch r).beginTransfer r.target key len with
      store := ((s.touch r).beginTransfer r.target key len).store.setSlot key
        (((((s.touch r).beginTransfer r.target key len).store.slot? key).getD (Slot.fresh len)).put r.arg.toNat r.body) } r := by
  rw [State.downloadDataOp_eq down new own open_ some_ up, if_neg (by simp [aligned, bytes]; omega)]
  dsimp only
  rw [first, if_pos rfl]

/-- A download that is whole: its slot is written. -/
def State.downloaded (s : State) (t : BitVec 16) (key : SlotKey) (c : Slot) : State :=
  ({ s with store := s.store.setSlot key { c with written := true } }).onSess fun x => { x with download := some (t, 0) }

theorem State.downloadEndOp_eq {c : Slot} (begun : s.notBegun r.target key = false) (held : s.store.slot? key = some c) :
    (∀ k, targetEntry r.target = some k → s.downloadEndOp r =
      (((s.touch r).downloaded r.target key c).commitEntry k fun e => { e with state := .downloaded }).done r) ∧
    (targetEntry r.target = none → s.downloadEndOp r = ((s.touch r).downloaded r.target key c).done r) := by
  have ready : ¬(r.target ≠ r.target ∨ len = 0 ∨ s.notBegun r.target key = true ∨ (!s.storeUp) = true) := by
    rw [up, begun]
    simp
    omega
  rw [State.downloadEndOp, State.request_of_new new, if_neg (by simp [own])]
  simp only [State.touch_download, open_, State.touch_downKey, down, State.touch_storeUp, State.touch_notBegun, Option.bind_some,
    State.touch_store, held, Option.map_some]
  constructor
  · intro k entry
    rw [entry]
    exact if_neg ready
  · intro none_
    rw [none_]
    exact if_neg ready

/-- The end of a download marks its slot written, and its entry downloaded. -/
theorem downloadEnd_answered {c : Slot} (begun : s.notBegun r.target key = false) (held : s.store.slot? key = some c) :
    ∃ e, answered e (s.downloadEndOp r) r 0 r.session [] ∧
      (∀ k, targetEntry r.target = some k → e = ((s.downloaded r.target key c).commitEntry k fun e =>
          { e with state := .downloaded })) ∧
      (targetEntry r.target = none → e = s.downloaded r.target key c) := by
  obtain ⟨withEntry, without⟩ := State.downloadEndOp_eq down new own open_ some_ up begun held
  cases entry : targetEntry r.target with
  | none =>
    rw [without entry, State.touch_of_own own]
    exact ⟨_, answered_done (by exact rfl) r, nofun, fun _ => rfl⟩
  | some k =>
    rw [withEntry k entry, State.touch_of_own own]
    refine ⟨(s.downloaded r.target key c).commitEntry k fun e => { e with state := .downloaded }, answered_done (by exact rfl) r,
      fun k' h => ?_, nofun⟩
    rw [Option.some.inj h]

end
end

/-- What beginning a transfer leaves of the machine. -/
theorem State.beginTransfer_keeps (u : State) (t : BitVec 16) (key : SlotKey) (len : Nat) :
    (u.beginTransfer t key len).folds = u.folds ∧ (u.beginTransfer t key len).cores = u.cores ∧
      (u.beginTransfer t key len).trust.sess = u.trust.sess ∧
      (u.beginTransfer t key len).store.slots = (u.store.setSlot key (Slot.fresh len)).slots := by
  unfold State.beginTransfer
  dsimp only
  split
  · exact ⟨rfl, rfl, rfl, rfl⟩
  · split
    · split <;> exact ⟨rfl, rfl, rfl, rfl⟩
    · exact ⟨rfl, rfl, rfl, rfl⟩

theorem State.beginTransfer_slot (u : State) (t : BitVec 16) (key : SlotKey) (len : Nat) :
    (u.beginTransfer t key len).store.slot? key = some (Slot.fresh len) := by
  obtain ⟨-, -, -, slots⟩ := u.beginTransfer_keeps t key len
  unfold Store.slot?
  rw [slots]
  exact Store.slot?_setSlot ..

theorem State.beginTransfer_entryAt (u : State) {t : BitVec 16} {k : Fin 33} (entry : targetEntry t = some k) (key : SlotKey)
    (len : Nat) : (u.beginTransfer t key len).entryAt k = { u.entryAt k with
      state := .downloading, other := 0, otherVersion := 0, switch := 0, onRequest := false, preload := false } := by
  unfold State.beginTransfer
  simp only [entry]
  exact State.entryAt_commitEntry ..

theorem State.done_slots (s : State) (r : MaintReq) : (s.done r).store = s.store ∧ (s.done r).folds = s.folds ∧
    (s.done r).cores = s.cores ∧ (s.done r).supA = s.supA ∧ (s.done r).supB = s.supB ∧
    (s.done r).trust = { s.trust with sess := { s.trust.sess with
      answers := (answerTo r 0 r.session [] :: s.trust.sess.answers).take answersKept
      sent := s.trust.sess.sent ++ [answerTo r 0 r.session []] } } := by
  unfold State.done State.finish State.finishWith
  rw [State.sendAnswer_eq]
  exact ⟨rfl, rfl, rfl, rfl, rfl, rfl⟩

/-! ## Verification -/

theorem State.verifyReqOp_of_ready {s : State} {r : MaintReq} {key : SlotKey} {c : Slot} (down : s.downKey r.target = some key)
    (admitted : inSession s r ∨ (isNew s r ∧ s.trust.sess.num = some r.session ∧
      ∃ len, s.trust.sess.download = some (r.target, len)))
    (ready : ∀ k, targetEntry r.target = some k → (s.entryAt k).state = .downloaded) (up : s.storeUp = true)
    (held : s.store.slot? key = some c) (written : c.written = true) (idle : s.trust.sess.busy = none) :
    s.verifyReqOp r = (s.touch r).onSess fun x => { x with busy := some r } := by
  have new : isNew s r := admitted.elim (fun h => h.1) fun h => h.1
  rw [State.verifyReqOp, State.request_of_new new]
  simp only [State.touch_download, State.touch_downKey, State.touch_storeUp, State.touch_busy, State.touch_num,
    State.touch_admitStatus, State.touch_store, State.touch_entryAt, down, held, idle, up, written, Option.bind_some]
  rw [if_neg, if_neg]
  · cases entry : targetEntry r.target with
    | none => simp
    | some k => simp [ready k entry]
  · rintro ⟨foreign, barred⟩
    obtain ours | ⟨-, own, len, download⟩ := admitted
    · exact barred (State.admitStatus_of_inSession ours)
    · simp [own, download] at foreign

theorem State.verificationEndOp_idle {s : State} (idle : s.trust.sess.busy = none) : s.verificationEndOp = s := by
  simp only [State.verificationEndOp, idle]

/-- The verification in progress is over, before its verdict. -/
def State.verified (s : State) : State := s.onSess fun x => { x with busy := none }

theorem State.verificationEndOp_eq {s : State} {r : MaintReq} {key : SlotKey} {c : Slot} (down : s.downKey r.target = some key)
    (busy : s.trust.sess.busy = some r) (up : s.storeUp = true) (held : s.store.slot? key = some c) :
    s.verificationEndOp =
      if s.targetCheck r.target c = 0 then (s.verified.acceptTarget r.target key c).done r
      else State.finish ((if r.target = 0x100 then s.verified.commit fun t => { t with fw := .idle } else s.verified).log1
        0x0E02 (targetFold r.target) none none
          (leBytes r.op.toNat 1 ++ leBytes r.target.toNat 2 ++ leBytes (s.targetCheck r.target c) 1)) r 8
        [BitVec.ofNat 8 (s.targetCheck r.target c)] := by
  have down' : s.verified.downKey r.target = some key := down
  have held' : s.verified.store.slot? key = some c := held
  have up' : ¬(!s.verified.storeUp) = true := by
    rw [show s.verified.storeUp = true from up]
    decide
  unfold State.verificationEndOp
  simp only [busy]
  change (match (s.verified.downKey r.target).bind fun k => (s.verified.store.slot? k).map fun c => (k, c) with
    | none => _
    | some (key, c) => _) = _
  rw [down', Option.bind_some, held']
  exact if_neg up'

theorem State.acceptTarget_entry {s : State} {t : BitVec 16} {k : Fin 33} (entry : targetEntry t = some k) (key : SlotKey)
    (c : Slot) : s.acceptTarget t key c = s.acceptCandidate k key c := by simp only [State.acceptTarget, entry]

theorem State.acceptTarget_firmware (s : State) (key : SlotKey) (c : Slot) :
    s.acceptTarget 0x100 key c = s.acceptFirmware c := by
  simp only [State.acceptTarget, targetEntry_firmware, ↓reduceIte]

theorem State.acceptTarget_boot (s : State) (key : SlotKey) (c : Slot) :
    s.acceptTarget 0x101 key c = (s.writeNor 0 c).writeNor 1 c := by
  simp only [State.acceptTarget, targetEntry_boot]
  exact if_neg (by decide)

theorem State.acceptTarget_keeps (s : State) (t : BitVec 16) (key : SlotKey) (c : Slot) :
    (s.acceptTarget t key c).trust.sess = s.trust.sess ∧ (s.acceptTarget t key c).folds = s.folds := by
  unfold State.acceptTarget
  split
  · exact ⟨rfl, rfl⟩
  · split
    · unfold State.acceptFirmware
      split <;> exact ⟨rfl, rfl⟩
    · exact ⟨rfl, rfl⟩

end Sys2Proof.Machine


/-! What a download begins, and what a verification leaves (O58). -/

namespace Sys2Proof.Machine

theorem State.entryAt_congr {s t : State} (h : t.store = s.store) (k : Fin 33) : t.entryAt k = s.entryAt k := by
  unfold State.entryAt State.tack
  rw [h]

theorem State.tack_congr {s t : State} (h : t.store = s.store) : t.tack = s.tack := by
  unfold State.tack
  rw [h]

/-- The first bytes of a download give up what the slot held. -/
theorem State.firstBytes_done {s : State} {r : MaintReq} {len : Nat} (key : SlotKey) :
    ∀ u, u = State.done { (s.touch r).beginTransfer r.target key len with
      store := ((s.touch r).beginTransfer r.target key len).store.setSlot key
        (((((s.touch r).beginTransfer r.target key len).store.slot? key).getD (Slot.fresh len)).put r.arg.toNat r.body) } r →
    u.store.slot? key = some ((Slot.fresh len).put r.arg.toNat r.body) ∧
      (∀ k, targetEntry r.target = some k → (u.entryAt k).state = .downloading ∧ (u.entryAt k).other = 0 ∧
        (u.entryAt k).active = (s.entryAt k).active) ∧
      u.trust.sess.sent = s.trust.sess.sent ++ [answerTo r 0 r.session []] ∧ u.folds = s.folds ∧ u.cores = s.cores := by
  rintro u rfl
  obtain ⟨folds, cores, sess, -⟩ := (s.touch r).beginTransfer_keeps r.target key len
  obtain ⟨store, folds', cores', -, -, trust⟩ := State.done_slots { (s.touch r).beginTransfer r.target key len with
    store := ((s.touch r).beginTransfer r.target key len).store.setSlot key
      (((((s.touch r).beginTransfer r.target key len).store.slot? key).getD (Slot.fresh len)).put r.arg.toNat r.body) } r
  refine ⟨?_, fun k entry => ?_, ?_, folds'.trans folds, cores'.trans cores⟩
  · rw [store, State.beginTransfer_slot]
    exact Store.slot?_setSlot ..
  · rw [State.entryAt_congr store]
    have same := (s.touch r).beginTransfer_entryAt entry key len
    exact ⟨congrArg (fun e => e.state) same, congrArg (fun e => e.other) same, congrArg (fun e => e.active) same⟩
  · rw [trust]
    dsimp only
    rw [sess, s.heard_touch r]

section
variable {s : State} {r : MaintReq} {key : SlotKey} {c : Slot}

/-- What a passed verification of a fold image or module section leaves (R327). -/
theorem State.acceptCandidate_done {k : Fin 33} (u : State) :
    (((u.acceptCandidate k key c).done r).entryAt k).state = .staged ∧
      (((u.acceptCandidate k key c).done r).entryAt k).other = c.measure ∧
      (((u.acceptCandidate k key c).done r).entryAt k).otherVersion = c.version ∧
      (((u.acceptCandidate k key c).done r).entryAt k).active = (u.entryAt k).active ∧
      ((u.acceptCandidate k key c).done r).store.slot? key = some { c with trailer := some (u.codeOf c) } := by
  obtain ⟨store, -⟩ := State.done_slots (u.acceptCandidate k key c) r
  rw [State.entryAt_congr store, store]
  unfold State.acceptCandidate
  dsimp only
  rw [State.entryAt_commitEntry]
  exact ⟨rfl, rfl, rfl, rfl, Store.slot?_setSlot ..⟩

theorem State.acceptFirmware_second {u : State} (region : u.fwRegion = true) :
    ((u.acceptFirmware c).done r).trust.romMeas[3] = c.measure ∧ ((u.acceptFirmware c).done r).supB.state = .restarting ∧
      ((u.acceptFirmware c).done r).supA = u.supA := by
  obtain ⟨-, -, -, supA, supB, trust⟩ := State.done_slots (u.acceptFirmware c) r
  rw [supA, supB, trust]
  unfold State.acceptFirmware
  rw [if_pos region]
  exact ⟨vmod_get_self .., rfl, rfl⟩

theorem State.acceptFirmware_first {u : State} (region : u.fwRegion = false) :
    ((u.acceptFirmware c).done r).trust.romMeas[2] = c.measure ∧ ((u.acceptFirmware c).done r).supA.state = .restarting ∧
      ((u.acceptFirmware c).done r).supB = u.supB ∧ ((u.acceptFirmware c).done r).tack.fw = .idle := by
  obtain ⟨store, -, -, supA, supB, trust⟩ := State.done_slots (u.acceptFirmware c) r
  rw [supA, supB, trust, State.tack_congr store]
  unfold State.acceptFirmware
  rw [if_neg (by simp [region])]
  refine ⟨vmod_get_self .., rfl, rfl, ?_⟩
  rw [State.tack_commit]

theorem State.writeNor_boot (u : State) :
    (((u.writeNor 0 c).writeNor 1 c).done r).trust.romMeas[0] = c.measure ∧
      (((u.writeNor 0 c).writeNor 1 c).done r).trust.romMeas[1] = c.measure := by
  obtain ⟨-, -, -, -, -, trust⟩ := State.done_slots ((u.writeNor 0 c).writeNor 1 c) r
  rw [trust]
  refine ⟨?_, vmod_get_self ..⟩
  exact (vmod_get_other _ (1 : Fin 4) (0 : Fin 4) _ (by decide)).trans (vmod_get_self ..)

/-- The first check that failed is named (R327). -/
theorem verification_fails {n : Nat} (down : s.downKey r.target = some key) (busy : s.trust.sess.busy = some r)
    (up : s.storeUp = true) (held : s.store.slot? key = some c) (check : s.targetCheck r.target c = n) (failed : n ≠ 0)
    (other : r.target ≠ 0x100) : answered s.verified s.verificationEndOp r 8 r.session [BitVec.ofNat 8 n] := by
  rw [State.verificationEndOp_eq down busy up held, check, if_neg failed, if_neg other]
  exact answered_finish (State.heard_log1 ..) r 8 _

theorem verification_passes (down : s.downKey r.target = some key) (busy : s.trust.sess.busy = some r)
    (up : s.storeUp = true) (held : s.store.slot? key = some c) (check : s.targetCheck r.target c = 0) :
    s.verificationEndOp = (s.verified.acceptTarget r.target key c).done r := by
  rw [State.verificationEndOp_eq down busy up held, if_pos check]

end

/-- Settles O58: a download by its begin, its bytes and its end, a verification by its verdict on each target. -/
theorem downloadsAreVerified : Obligations.DownloadsAreVerified := by
  unfold Obligations.DownloadsAreVerified
  refine fun s r key down => ⟨fun ours up arg free idle => ?_, fun ours arg not_ => ?_, fun ours arg => ?_,
    fun len new own open_ some_ up => ⟨fun aligned bytes fits => ⟨fun c begun held => ?_, fun first => ?_⟩, fun bad => ?_,
      fun c begun held => ?_⟩, fun c admitted ready up held written idle => ?_, fun idle => ?_,
    fun c busy up held => ⟨fun n check failed other => ?_, fun check => ?_⟩⟩
  · exact ⟨_, rfl, downloadBegin_answered down ours arg (by simp [up, free, idle])⟩
  · exact ⟨_, exec_next (t := s.downloadBeginOp r) (State.downloadBeginOp_of_not down ours arg not_), answered_touch_finish s r 6 []⟩
  · exact ⟨_, exec_next (t := s.downloadBeginOp r) (State.downloadBeginOp_of_empty down ours arg), answered_touch_finish s r 7 []⟩
  · exact ⟨_, rfl, downloadData_answered down new own open_ some_ up aligned bytes fits begun held⟩
  · exact ⟨_, exec_next (t := s.downloadDataOp r) (State.downloadDataOp_first down new own open_ some_ up aligned bytes fits first),
      State.firstBytes_done key _ rfl⟩
  · exact ⟨_, exec_next (t := s.downloadDataOp r) (State.downloadDataOp_of_bad down new own open_ some_ up bad),
      answered_touch_finish s r 7 []⟩
  · obtain ⟨e, done, entries⟩ := downloadEnd_answered down new own open_ some_ up begun held
    exact ⟨_, e, rfl, done, entries⟩
  · refine ⟨_, exec_next (t := s.verifyReqOp r) (State.verifyReqOp_of_ready down admitted ready up held written idle), ?_⟩
    rw [State.touch_of_own (admitted.elim (fun h => h.2.2) fun h => h.2.1)]
    rfl
  · exact exec_next (t := s.verificationEndOp) (State.verificationEndOp_idle idle)
  · exact ⟨_, rfl, verification_fails down busy up held check failed other⟩
  · refine ⟨_, exec_next (t := s.verificationEndOp) (verification_passes down busy up held check), ?_⟩
    obtain ⟨sess, folds⟩ := s.verified.acceptTarget_keeps r.target key c
    obtain ⟨-, folds', -, -, -, trust⟩ := State.done_slots (s.verified.acceptTarget r.target key c) r
    refine ⟨?_, folds'.trans folds, ?_, fun k entry => ?_, fun firmware region => ?_, fun firmware region => ?_, fun boot => ?_⟩
    · rw [trust]
      exact congrArg Session.busy sess
    · rw [trust]
      exact List.getLast?_concat
    · rw [State.acceptTarget_entry entry]
      exact State.acceptCandidate_done s.verified
    · rw [firmware, State.acceptTarget_firmware]
      exact State.acceptFirmware_second (u := s.verified) region
    · rw [firmware, State.acceptTarget_firmware]
      exact State.acceptFirmware_first (u := s.verified) region
    · rw [boot, State.acceptTarget_boot]
      exact State.writeNor_boot s.verified

end Sys2Proof.Machine


/-! Activation, revert, withdrawal, hold and release commit the entry that they change (O59). -/

namespace Sys2Proof.Machine

/-! ## What committing an entry leaves -/

theorem State.heard_commitEntry {e u : State} (h : e.heard u) (k : Fin 33) (g : TackEntry → TackEntry) :
    (e.commitEntry k g).heard (u.commitEntry k g) := by
  unfold State.heard at h ⊢
  rw [h]
  rfl

/-- A container is found by the slots and the measurements of its entry, whatever else the entry says. -/
theorem State.container_commitEntry {s : State} {k : Fin 33} {g : TackEntry → TackEntry}
    (active : (g (s.entryAt k)).active = (s.entryAt k).active) (meas : (g (s.entryAt k)).meas = (s.entryAt k).meas)
    (other : (g (s.entryAt k)).other = (s.entryAt k).other) (b : Bool) :
    (s.commitEntry k g).container k b = s.container k b := by
  have measOf : ((s.commitEntry k g).entryAt k).measOf b = (s.entryAt k).measOf b := by
    rw [State.entryAt_commitEntry, TackEntry.measOf, TackEntry.measOf, active, meas, other]
  have up : (s.commitEntry k g).storeUp = s.storeUp := by
    unfold State.storeUp State.inStep State.stepFlag State.commitEntry
    rw [State.tack_commit]
    rfl
  unfold State.container
  rw [measOf, up]
  rfl

theorem State.entryMulti_commitEntry {s : State} {k : Fin 33} {g : TackEntry → TackEntry}
    (active : (g (s.entryAt k)).active = (s.entryAt k).active) (meas : (g (s.entryAt k)).meas = (s.entryAt k).meas)
    (other : (g (s.entryAt k)).other = (s.entryAt k).other) : (s.commitEntry k g).entryMulti k = s.entryMulti k := by
  unfold State.entryMulti State.candidateMulti
  rw [State.container_commitEntry active meas other, State.entryAt_commitEntry, TackEntry.otherSlot, TackEntry.otherSlot, active]

/-! ## A fenced fold makes one new attempt (R370) -/

/-- What a request for a target does with the fold of that target. -/
def State.retryTarget (s : State) (t : BitVec 16) : State := match targetFold t with
  | some f => s.retryFenced f
  | none => s

/-- Only folds change, and they alike whether the session has just been heard of or not. -/
theorem State.retryTarget_eq (s : State) (r : MaintReq) : ∃ folds last, s.retryTarget r.target = { s with folds := folds } ∧
    (s.touch r).retryTarget r.target =
      { s with folds := folds, trust := { s.trust with sess := { s.trust.sess with last := last } } } := by
  obtain ⟨last, h⟩ := s.touch_eq r
  rw [h]
  unfold State.retryTarget
  split
  · unfold State.retryFenced
    by_cases fenced : s.folds[‹FoldNo›].run = .fenced
    · rw [if_pos fenced, if_pos fenced]
      exact ⟨_, last, rfl, rfl⟩
    · rw [if_neg fenced, if_neg fenced]
      exact ⟨s.folds, last, rfl, rfl⟩
  · exact ⟨s.folds, last, rfl, rfl⟩

theorem State.retryTarget_of {s u : State} {t : BitVec 16} (some_ : ∀ f, targetFold t = some f → u = s.retryFenced f)
    (none_ : targetFold t = none → u = s) : u = s.retryTarget t := by
  unfold State.retryTarget
  split
  · next f h => exact some_ f h
  · next h => exact none_ h

theorem State.heard_retryTarget (s : State) (r : MaintReq) :
    (s.retryTarget r.target).heard ((s.touch r).retryTarget r.target) := by
  obtain ⟨folds, last, hs, ht⟩ := s.retryTarget_eq r
  rw [hs, ht]
  rfl

theorem foldEntry_of_targetFold {t : BitVec 16} {f : FoldNo} {k : Fin 33} (fold : targetFold t = some f)
    (entry : targetEntry t = some k) : k = foldEntry f := by
  unfold targetEntry at entry
  by_cases module_ : t = 0xFF
  · subst module_
    have none_ : targetFold 0xFF = none := by decide
    rw [none_] at fold
    nomatch fold
  · rw [if_neg module_, fold] at entry
    exact (Option.some.inj entry).symm

/-! ## Activation (R329) -/

theorem activate_single {s : State} {r : MaintReq} {k : Fin 33} {tick : Nat} {preload : Bool} (sec : s.sec?.isSome = true) (single : s.entryMulti k = false) :
    answered ((s.retryTarget r.target).commitEntry k fun e => { e with
        state := .activating, onRequest := false, preload := preload
        switch := max tick ((s.retryTarget r.target).switchAfter s.tick.number.toNat) })
      ((((s.touch r).retryTarget r.target).activate k tick preload).done r) r 0 r.session [] := by
  obtain ⟨folds, last, hs, ht⟩ := s.retryTarget_eq r
  have single' : ((s.touch r).retryTarget r.target).entryMulti k = false := by
    rw [ht]
    exact single
  have sec' : ¬((s.touch r).retryTarget r.target).sec?.isNone = true := by
    rw [ht]
    simpa [Option.isSome_iff_ne_none] using sec
  refine answered_done ?_ r
  rw [State.activate, if_neg (by simp [single']), if_neg sec', ht, hs]
  exact State.heard_commitEntry (by exact rfl) k _

theorem activate_multi {s : State} {r : MaintReq} {k : Fin 33} {tick : Nat} {preload : Bool} (multi : s.entryMulti k = true) :
    answered ((s.retryTarget r.target).commitEntry k fun e => { e with onRequest := false, switch := tick, preload := preload })
      ((((s.touch r).retryTarget r.target).activate k tick preload).done r) r 0 r.session [] := by
  have multi' : ((s.touch r).retryTarget r.target).entryMulti k = true := by
    obtain ⟨folds, last, hs, ht⟩ := s.retryTarget_eq r
    rw [ht]
    exact multi
  refine answered_done ?_ r
  rw [State.activate, if_pos multi']
  exact State.heard_commitEntry (s.heard_retryTarget r) k _

/-- A request of one fold, or of the module section. -/
theorem targetFold_cases {t : BitVec 16} {k : Fin 33} (entry : targetEntry t = some k) :
    (∃ f, targetFold t = some f ∧ k = foldEntry f) ∨ targetFold t = none := by
  cases fold : targetFold t with
  | none => exact .inr rfl
  | some f => exact .inl ⟨f, rfl, foldEntry_of_targetFold fold entry⟩

theorem State.canWithdraw_touch (s : State) (r : MaintReq) (k : Fin 33) : (s.touch r).canWithdraw k = s.canWithdraw k := by
  obtain ⟨last, h⟩ := s.touch_eq r
  rw [h]
  rfl

section
variable {s : State} {r : MaintReq} {k : Fin 33} (ours : inSession s r) (entry : targetEntry r.target = some k)
include ours entry

/-- What an activation of a staged candidate does, with no clash on a preload. -/
theorem State.activateOp_of_staged {mode : Nat} (asked : fld r.arg 56 8 = mode) (staged : (s.entryAt k).state = .staged)
    (free : bitOf r.arg 55 = false ∨ s.preloadClash k = false) :
    s.activateOp r mode =
      if mode = 2 then (((s.touch r).retryTarget r.target).commitEntry k fun e =>
        { e with onRequest := true, preload := bitOf r.arg 55 }).done r
      else (((s.touch r).retryTarget r.target).activate k (if mode = 1 then fld r.arg 0 48 else 0) (bitOf r.arg 55)).done r := by
  have clash : (s.touch r).preloadClash k = s.preloadClash k := by
    obtain ⟨last, h⟩ := s.touch_eq r
    rw [h]
    rfl
  rw [State.activateOp, State.inWindow_of_inSession ours]
  simp only [entry]
  rw [if_neg (by simp [asked]), if_neg (by simp [staged]), if_neg (by rw [clash]; grind)]
  rfl

/-- The refusals of an activation. -/
theorem State.activateOp_refused {mode : Nat} :
    (fld r.arg 56 8 ≠ mode → s.activateOp r mode = (s.touch r).finish r 7 []) ∧
      (fld r.arg 56 8 = mode → (s.entryAt k).state ≠ .staged → s.activateOp r mode = (s.touch r).finish r 6 []) ∧
      (fld r.arg 56 8 = mode → (s.entryAt k).state = .staged → bitOf r.arg 55 = true → s.preloadClash k = true →
        s.activateOp r mode = (s.touch r).finish r 8 [5]) := by
  have clash : (s.touch r).preloadClash k = s.preloadClash k := by
    obtain ⟨last, h⟩ := s.touch_eq r
    rw [h]
    rfl
  rw [State.activateOp, State.inWindow_of_inSession ours]
  simp only [entry]
  refine ⟨fun other => if_pos other, fun asked state => ?_, fun asked staged preload meets => ?_⟩
  · rw [if_neg (by simp [asked]), if_pos (by simpa using state)]
  · rw [if_neg (by simp [asked]), if_neg (by simp [staged]), if_pos ⟨preload, clash.trans meets⟩]

/-! ## Revert (R332) -/

theorem State.revertReqOp_eq : s.revertReqOp r =
    if (s.entryAt k).state = .idle ∧ (s.entryAt k).other ≠ 0 ∧ (s.container k (s.entryAt k).otherSlot).isSome then
      ((((s.touch r).retryTarget r.target).commitEntry k fun e => { e with
        state := .staged
        confirm := ((s.container k (s.entryAt k).otherSlot).map fun c => if k.val < 32 then c.image.confirm else 0).getD 0
        switch := 0 }).activate k 0 false).done r
    else if (s.entryAt k).state = .confirming then
      (((s.touch r).retryTarget r.target).commitEntry k fun e => { e with state := .reverting }).done r
    else ((s.touch r).retryTarget r.target).finish r 6 [] := by
  have same : ∀ b, ((s.touch r).retryTarget r.target).container k b = s.container k b := by
    obtain ⟨folds, last, hs, ht⟩ := s.retryTarget_eq r
    rw [ht]
    exact fun b => rfl
  rw [State.revertReqOp, State.inWindow_of_inSession ours]
  simp only [entry, State.touch_entryAt]
  rw [← same]
  rfl

/-- A revert of an idle entry goes back to the bound image of its other slot. -/
theorem State.revertReqOp_back {c : Slot} (idle : (s.entryAt k).state = .idle) (bound : (s.entryAt k).other ≠ 0)
    (held : s.container k (s.entryAt k).otherSlot = some c) (sec : s.sec?.isSome = true) (single : s.entryMulti k = false) :
    ∃ t, s.revertReqOp r = t ∧ (t.entryAt k).state = .activating ∧
      (t.entryAt k).switch = (s.retryTarget r.target).switchAfter s.tick.number.toNat ∧
      (t.entryAt k).confirm = (if k.val < 32 then c.image.confirm else 0) ∧ (t.entryAt k).other = (s.entryAt k).other ∧
      t.folds = (s.retryTarget r.target).folds ∧ t.trust.sess.sent.getLast? = some (answerTo r 0 r.session []) := by
  refine ⟨_, rfl, ?_⟩
  obtain ⟨folds, last, hs, ht⟩ := s.retryTarget_eq r
  rw [State.revertReqOp_eq ours entry, if_pos ⟨idle, bound, by simp [held]⟩, held, ht, hs]
  set w := (({ s with folds := folds, trust := { s.trust with sess := { s.trust.sess with last := last } } } : State).commitEntry k
    fun e => { e with state := .staged
                      confirm := ((some c).map fun c => if k.val < 32 then c.image.confirm else 0).getD 0
                      switch := 0 }) with hw
  have single' : w.entryMulti k = false := by
    rw [hw, State.entryMulti_commitEntry rfl rfl rfl]
    exact single
  have sec' : ¬w.sec?.isNone = true := by
    rw [show w.sec? = s.sec? from rfl]
    simpa [Option.isSome_iff_ne_none] using sec
  have entryW : w.entryAt k = { s.entryAt k with
      state := .staged, confirm := if k.val < 32 then c.image.confirm else 0, switch := 0 } := State.entryAt_commitEntry ..
  rw [State.activate, if_neg (by simp [single']), if_neg sec']
  obtain ⟨store, folds', -, -, -, trust⟩ := State.done_slots (w.commitEntry k fun e => { e with
    state := .activating, onRequest := false, preload := false, switch := max 0 (w.switchAfter w.tick.number.toNat) }) r
  rw [State.entryAt_congr store, State.entryAt_commitEntry, entryW, folds', trust]
  exact ⟨rfl, Nat.max_eq_right (Nat.zero_le _), rfl, rfl, rfl, List.getLast?_concat⟩

/-! ## Withdrawal, hold and release -/

theorem holdStop_answered {f : FoldNo} (fold : targetFold r.target = some f) (hold : bitOf r.arg 0 = true) :
    answered (s.commitEntry k fun e => { e with held := true }) (s.holdStopOp r) r 0 r.session [] := by
  rw [State.holdStopOp, State.inWindow_of_inSession ours]
  simp only [fold]
  rw [if_pos hold, ← foldEntry_of_targetFold fold entry]
  exact answered_done (State.heard_commitEntry (s.heard_touch r) k _) r

theorem holdRelease_answered {f : FoldNo} (fold : targetFold r.target = some f) (release : bitOf r.arg 0 = false) :
    answered ((s.retryTarget r.target).commitEntry k fun e => { e with held := false }) (s.holdReleaseOp r) r 0 r.session [] := by
  have commutes : ∀ u : State, (u.commitEntry k fun e => { e with held := false }).retryFenced f =
      (u.retryTarget r.target).commitEntry k fun e => { e with held := false } := by
    intro u
    simp only [State.retryTarget, fold]
    unfold State.retryFenced
    by_cases fenced : u.folds[f].run = .fenced
    · rw [if_pos fenced, if_pos (by exact fenced)]
      rfl
    · rw [if_neg fenced, if_neg (by exact fenced)]
  rw [State.holdReleaseOp, State.inWindow_of_inSession ours]
  simp only [fold]
  rw [if_neg (by simp [release]), ← foldEntry_of_targetFold fold entry, commutes]
  exact answered_done (State.heard_commitEntry (s.heard_retryTarget r) k _) r

/-- A candidate withdrawn, with its download and verification, before its entry is committed. -/
def State.withdrawn (s : State) (r : MaintReq) (k : Fin 33) : State :=
  { s with
    trust := { s.trust with sess := { s.trust.sess with
      download := s.trust.sess.download.filter fun d => decide (d.1 ≠ r.target)
      busy := s.trust.sess.busy.filter fun b => decide (b.target ≠ r.target) } }
    store := s.store.freeSlot (k.val, (s.entryAt k).otherSlot)
    folds := match targetFold r.target with
      | some f => vmod s.folds f fun x => { x with preloaded := false }
      | none => s.folds }

theorem withdraw_answered (can : s.canWithdraw k = true) :
    answered ((s.withdrawn r k).commitEntry k TackEntry.giveUp) (s.withdrawOp r) r 0 r.session [] := by
  rw [State.withdrawOp, State.inWindow_of_inSession ours]
  simp only [entry]
  rw [if_pos ((s.canWithdraw_touch r k).trans can)]
  refine answered_done (State.heard_commitEntry ?_ k _) r
  obtain ⟨last, h⟩ := s.touch_eq r
  rw [h]
  unfold State.withdrawn State.heard
  have dropped : ∀ x : Option (BitVec 16 × Nat), x.filter (fun d => decide (d.1 ≠ r.target)) =
      x.elim none fun d => if d.1 = r.target then none else some d := by
    rintro (_ | d)
    · rfl
    · by_cases own : d.1 = r.target <;> simp [own]
  have idle : ∀ x : Option MaintReq, x.filter (fun b => decide (b.target ≠ r.target)) =
      x.elim none fun b => if b.target = r.target then none else some b := by
    rintro (_ | b)
    · rfl
    · by_cases own : b.target = r.target <;> simp [own]
  rw [dropped, idle]
  cases download : s.trust.sess.download <;> cases busy : s.trust.sess.busy <;> cases targetFold r.target <;>
    simp only [State.onSess, download, busy] <;> rfl

end

/-- Settles O59: each request in a session commits its entry on the state in which a fenced fold may make its new attempt. -/
theorem activationsAreCommitted : Obligations.ActivationsAreCommitted := by
  unfold Obligations.ActivationsAreCommitted
  intro s u r k ours entry sec some_ none_
  obtain rfl := State.retryTarget_of some_ none_
  refine ⟨fun c mode tick hc asked staged free => ?_, fun asked staged free => ?_, fun c mode hc => ?_, fun confirming => ?_,
    fun c idle bound held single => ?_, fun other not_ => ?_, fun can => ?_, fun can => ?_, fun fold => ?_, fun none_ c hc => ?_⟩
  · have run : exec c s = .next (s.activateOp r mode) ∧ mode ≠ 2 ∧ tick = if mode = 1 then fld r.arg 0 48 else 0 := by
      simp only [List.mem_cons, Prod.mk.injEq, List.not_mem_nil, or_false] at hc
      obtain ⟨rfl, rfl, rfl⟩ | ⟨rfl, rfl, rfl⟩ := hc <;> exact ⟨rfl, by decide, rfl⟩
    obtain ⟨run, now, rfl⟩ := run
    rw [State.activateOp_of_staged ours entry asked staged free, if_neg now] at run
    exact ⟨fun single => ⟨_, run, activate_single sec single⟩, fun multi => ⟨_, run, activate_multi multi⟩⟩
  · refine ⟨_, exec_next (t := s.activateOp r 2) (State.activateOp_of_staged ours entry asked staged free), ?_⟩
    rw [if_pos rfl]
    exact answered_done (State.heard_commitEntry (s.heard_retryTarget r) k _) r
  · have run : exec c s = .next (s.activateOp r mode) := by
      simp only [List.mem_cons, Prod.mk.injEq, List.not_mem_nil, or_false] at hc
      obtain ⟨rfl, rfl⟩ | ⟨rfl, rfl⟩ | ⟨rfl, rfl⟩ := hc <;> rfl
    obtain ⟨differ, state, meets⟩ := State.activateOp_refused ours entry (mode := mode)
    refine ⟨fun h => ⟨_, run, ?_⟩, fun asked other => ⟨_, run, ?_⟩, fun asked staged preload clash => ⟨_, run, ?_⟩⟩
    · rw [differ h]
      exact answered_touch_finish s r 7 []
    · rw [state asked other]
      exact answered_touch_finish s r 6 []
    · rw [meets asked staged preload clash]
      exact answered_touch_finish s r 8 [5]
  · refine ⟨_, exec_next (t := s.revertReqOp r) (State.revertReqOp_eq ours entry), ?_⟩
    rw [if_neg (by simp [confirming]), if_pos confirming]
    exact answered_done (State.heard_commitEntry (s.heard_retryTarget r) k _) r
  · obtain ⟨t, rfl, back⟩ := State.revertReqOp_back ours entry idle bound held sec single
    exact ⟨_, rfl, back⟩
  · refine ⟨_, exec_next (t := s.revertReqOp r) (State.revertReqOp_eq ours entry), ?_⟩
    rw [if_neg (fun ⟨idle, bound, _⟩ => not_.elim (fun h => h idle) fun h => bound h), if_neg other]
    exact answered_finish (s.heard_retryTarget r) r 6 []
  · refine ⟨_, s.withdrawn r k, rfl, withdraw_answered ours entry can, rfl, fun f fold => ?_, fun none_ => ?_⟩
    · simp only [State.withdrawn, fold]
      rfl
    · simp only [State.withdrawn, none_]
  · refine ⟨_, exec_next (t := s.withdrawOp r) (u := (s.touch r).finish r 6 []) ?_, answered_touch_finish s r 6 []⟩
    rw [State.withdrawOp, State.inWindow_of_inSession ours]
    simp only [entry]
    exact if_neg (by rw [State.canWithdraw_touch, can]; decide)
  · obtain ⟨f, hf, rfl⟩ := (targetFold_cases entry).resolve_right fold
    refine ⟨fun hold => ⟨⟨_, rfl, holdStop_answered ours entry hf hold⟩, ?_⟩,
      fun release => ⟨⟨_, rfl, holdRelease_answered ours entry hf release⟩, ?_⟩⟩
    · refine ⟨_, exec_next (t := s.holdReleaseOp r) (u := (s.touch r).finish r 7 []) ?_, answered_touch_finish s r 7 []⟩
      rw [State.holdReleaseOp, State.inWindow_of_inSession ours]
      simp only [hf]
      exact if_pos hold
    · refine ⟨_, exec_next (t := s.holdStopOp r) (u := (s.touch r).finish r 7 []) ?_, answered_touch_finish s r 7 []⟩
      rw [State.holdStopOp, State.inWindow_of_inSession ours]
      simp only [hf]
      exact if_neg (by simp [release])
  · obtain rfl | rfl := hc
    · refine ⟨_, exec_next (t := s.holdStopOp r) (u := (s.touch r).finish r 7 []) ?_, answered_touch_finish s r 7 []⟩
      rw [State.holdStopOp, State.inWindow_of_inSession ours]
      simp only [none_]
    · refine ⟨_, exec_next (t := s.holdReleaseOp r) (u := (s.touch r).finish r 7 []) ?_, answered_touch_finish s r 7 []⟩
      rw [State.holdReleaseOp, State.inWindow_of_inSession ours]
      simp only [none_]

end Sys2Proof.Machine


/-! The accumulator stays in canonical form (O20). -/

namespace Sys2Proof.Machine

/-! ## Single cells and rows -/

theorem wf_setRow {a : Accum} (h : a.wf) (slot row : Nat) (w : BitVec 16) : (a.setRow slot row w).wf := by
  obtain ⟨entries, sides, rows, slots⟩ := h
  exact ⟨entries, sides, cellSet_wf 0 _ _ _ rows, slots⟩

theorem wf_setEntry {a : Accum} (h : a.wf) (slot row col : Nat) (w : Word64) : (a.setEntry slot row col w).wf := by
  obtain ⟨entries, sides, rows, slots⟩ := h
  exact ⟨cellSet_wf 0 _ _ _ entries, sides, rows, slots⟩

theorem wf_setSide {a : Accum} (h : a.wf) (slot row col : Nat) (w : BitVec 4) : (a.setSide slot row col w).wf := by
  obtain ⟨entries, sides, rows, slots⟩ := h
  exact ⟨entries, cellSet_wf 0 _ _ _ sides, rows, slots⟩

theorem wf_setPair {a : Accum} (h : a.wf) (slot row col v : Nat) : (a.setPair slot row col v).wf :=
  wf_setEntry (wf_setEntry h ..) ..

theorem wf_refill {a : Accum} (h : a.wf) (slot row : Nat) (v : Word64) : (a.refill slot row v).wf := by
  obtain ⟨entries, sides, rows, slots⟩ := h
  unfold Accum.refill
  split
  · have emptied := cellsClear_wf 0 (entIx slot row 0) (entIx slot row 0 + 128) a.entries entries
    refine ⟨?_, cellsClear_wf 0 _ _ _ sides, cellSet_wf 0 _ _ _ rows, slots⟩
    dsimp only
    split
    · exact emptied
    · exact cellsSet_wf 0 _ _ _ emptied
  · exact ⟨entries, sides, rows, slots⟩

theorem wf_materialise {a : Accum} (h : a.wf) (slot row : Nat) (pair : Bool) : (a.materialise slot row pair).wf := by
  unfold Accum.materialise
  dsimp only
  split
  · exact wf_refill (wf_refill h ..) ..
  · exact wf_refill h ..

theorem wf_clear {a : Accum} (h : a.wf) (slot : Nat) (cls : BitVec 3) (base : BitVec 16) : (a.clear slot cls base).wf := by
  obtain ⟨entries, sides, rows, slots⟩ := h
  unfold Accum.clear
  refine ⟨entries, sides, ?_, cellSet_wf 0 _ _ _ slots⟩
  generalize List.replicate 128 (rowWord true false 0) = words
  exact cellsSet_wf 0 _ words _ (cellsClear_wf 0 _ _ _ rows)

theorem wf_seen {a : Accum} (h : a.wf) (slot row : Nat) : (a.seen slot row).wf := wf_materialise h ..

theorem wf_markRow {a : Accum} (h : a.wf) (slot row : Nat) : (a.markRow slot row).wf :=
  foldl_keep Accum.wf _ (fun _ _ h => wf_setSide h ..) _ a h

/-! ## What passes, strays, row writes and walks do -/

theorem wf_addColumn {a : Accum} (h : a.wf) (own slot row n : Nat) (single : Bool) (products : List Rat) :
    (a.addColumn own slot row n single products).wf := by
  unfold Accum.addColumn
  dsimp only
  split
  · exact wf_setPair h ..
  · split
    · exact wf_setEntry h ..
    · exact wf_setPair h ..

theorem wf_countOp {a : Accum} (h : a.wf) (slot row : Nat) : (a.countOp slot row).1.wf := by
  unfold Accum.countOp
  dsimp only
  split
  · split
    · split
      · exact wf_setRow h ..
      · exact foldl_keep Accum.wf _ (fun _ _ h => wf_setSide h ..) _ _ (wf_setRow h ..)
    · exact wf_setRow h ..
  · exact h

theorem wf_addPass {a : Accum} (h : a.wf) (f : PassFl) (slot : Nat) (lower mark : Bool) : (a.addPass f slot lower mark).1.wf := by
  unfold Accum.addPass
  extract_lets own single conflict homes a1
  have seen : a1.wf := foldl_keep Accum.wf _ (fun _ _ h => wf_seen h ..) _ a h
  split
  next b guard hx =>
    have counted : b.wf := by
      rw [show b = (b, guard).1 from rfl, ← hx]
      split
      · exact foldl_keep (fun x : Accum × Nat => x.1.wf) _ (fun x h' kept => by exact wf_countOp kept h' f.dest) homes (a1, 0) seen
      · exact seen
    refine foldl_keep Accum.wf _ (fun b n h => ?_) _ b counted
    exact foldl_keep Accum.wf _ (fun _ _ h => wf_setSide h ..) _ _ (wf_addColumn h ..)

theorem wf_addStray {a : Accum} (h : a.wf) (f : StrayFl) : (a.addStray f).wf :=
  foldl_keep Accum.wf _ (fun _ _ h => wf_setSide (wf_seen h ..) ..) _ _
    (foldl_keep Accum.wf _ (fun _ _ h => wf_setEntry (wf_materialise h ..) ..) _ a h)

theorem wf_putRow {a : Accum} (h : a.wf) (slot row col : Nat) (es : List (Word64 × BitVec 4 × Bool)) :
    (a.putRow slot row col es).wf :=
  wf_setRow (foldl_keep Accum.wf _ (fun _ _ h => wf_setSide (wf_setEntry h ..) ..) _ _ (wf_seen h ..)) ..

theorem wf_markSpilled {a : Accum} (h : a.wf) (slot row : Nat) : (a.markSpilled slot row).wf := by
  unfold Accum.markSpilled
  dsimp only
  refine wf_markRow ?_ ..
  split
  · exact wf_refill (wf_refill h ..) ..
  · exact wf_refill h ..

theorem wf_walkCatch {c : Core} (h : c.acc.wf) (w : Walk) (now : Nat) : (c.walkCatch w now).1.acc.wf := by
  unfold Core.walkCatch
  extract_lets r cls a m vals sides wantQ a2
  split
  · exact foldl_keep Accum.wf _ (fun _ _ h => wf_markSpilled h ..) _ _ h
  · have read : m.wf := by
      unfold m
      split
      · exact h
      · exact wf_materialise h ..
    dsimp only
    unfold a2
    split
    · exact foldl_keep Accum.wf _ (fun _ _ h => wf_setRow h ..) _ _ read
    · exact read

/-- Settles O20: every operation is built of writes of single cells and rows, which keep canonical form. -/
theorem accumulatorStaysCanonical : Obligations.AccumulatorStaysCanonical := by
  unfold Obligations.AccumulatorStaysCanonical
  rintro c a h
  exact ⟨wf_clear h, wf_materialise h, wf_addPass h, wf_addStray h, wf_putRow h,
    fun w now same => wf_walkCatch (by rw [same]; exact h) w now⟩

end Sys2Proof.Machine


/-! Mail for another module (O35). -/

namespace Sys2Proof.Machine

theorem State.onMail_elsewhere {s : State} {m : MailMsg} (h : m.dstModule ≠ s.hallNo) (act : State → State) :
    s.onMail m act = s.forward m := if_neg h

theorem State.onSupervisor_elsewhere {s : State} {m : MailMsg} (h : m.dstModule ≠ s.hallNo) (act : State → State) :
    s.onSupervisor m act = s.forward m := State.onMail_elsewhere h _

theorem State.countTag_folds (s : State) (tag : BitVec 16) (i : Fin 23) :
    s.countTag tag i = { s with folds := (s.countTag tag i).folds } := by
  unfold State.countTag
  split <;> rfl

theorem State.countTag_of {s : State} {tag : BitVec 16} {f : FoldNo} (h : s.foldByTag tag = some f) (i : Fin 23) :
    (s.countTag tag i).folds = s.folds.set f (s.folds[f].count i 1) := by
  simp only [State.countTag, h]
  rfl

section
variable {s : State} {m : MailMsg}

theorem hops_succ (small : m.hops.toNat < 255) : (m.hops + 1).toNat = m.hops.toNat + 1 := by
  rw [BitVec.toNat_add]
  exact Nat.mod_eq_of_lt (by simp; omega)

theorem State.forward_queued {r : Fin 12} (hops : m.hops.toNat < 7) (next : s.nextHop m.dstModule = some r)
    (room : ((s.hall.queues[r] : List MailMsg).map mailSize).sum + mailSize m ≤ 2 ^ 20) :
    s.forward m = { s with hall := { s.hall with
      queues := s.hall.queues.set r (s.hall.queues[r] ++ [{ m with hops := m.hops + 1 }]) } } := by
  have near : ¬ 8 ≤ (m.hops + 1).toNat := by rw [hops_succ (by omega)]; omega
  have fits : s.hall.enqueue r { m with hops := m.hops + 1 } =
      ({ s.hall with queues := s.hall.queues.set r (s.hall.queues[r] ++ [{ m with hops := m.hops + 1 }]) }, true) :=
    if_pos room
  simp only [State.forward]
  rw [if_neg near]
  simp only [next, fits, ↓reduceIte]

theorem State.forward_dropped (h : (7 ≤ m.hops.toNat ∧ m.hops.toNat < 255) ∨
    (m.hops.toNat < 7 ∧ ∃ r, s.nextHop m.dstModule = some r ∧
      2 ^ 20 < ((s.hall.queues[r] : List MailMsg).map mailSize).sum + mailSize m)) :
    s.forward m = s.countTag m.srcTag 17 := by
  simp only [State.forward]
  obtain ⟨far, small⟩ | ⟨near, r, next, full⟩ := h
  · rw [if_pos (by rw [hops_succ small]; omega)]
  · have full' : s.hall.enqueue r { m with hops := m.hops + 1 } = (s.hall, false) := if_neg (Nat.not_le.2 full)
    rw [if_neg (by rw [hops_succ (by omega)]; omega)]
    simp only [next, full', Bool.false_eq_true, ↓reduceIte]

/-- A fetch asks its next peer when the answer is for this module alone. -/
theorem State.nextPeer_elsewhere (h : m.dstModule ≠ s.hallNo) : s.nextPeer m = s := by
  unfold State.nextPeer
  split
  · exact if_neg fun ⟨_, _, here⟩ => h here
  · rfl

end

/-- The commands that bring mail. -/
def mailCommands (port : FabricPort) (m : MailMsg) : List Instr :=
  [.mailWrite m, .mailGatherRequest m, .mailGatherResponse m, .mailNotServed m, .mailStaleRole m, .mailRefused m,
    .mailNoRoute m, .mailUnknownKind m, .mailReservedKind m, .faultNotice m, .statusReadRequest m, .statusReadResponse m,
    .imageBlockRequest m, .imageBlockResponse m, .presenceNotice port m, .presenceCloseNotice port m, .witnessRecord m]

/-- Mail of any kind for another module is passed on, and nothing else. -/
theorem exec_mail_elsewhere {s : State} {m : MailMsg} {port : FabricPort} {c : Instr} (hc : c ∈ mailCommands port m)
    (h : m.dstModule ≠ s.hallNo) (place : (s.forward m).hallNo = s.hallNo) : exec c s = .next (s.forward m) := by
  have onMail := fun act => State.onMail_elsewhere h act
  have peer : (s.forward m).nextPeer m = s.forward m := State.nextPeer_elsewhere (by rw [place]; exact h)
  have byCore := fun act => congrArg (Host.Outcome.next (φ := Fault) (ρ := Refusal)) (onMail act)
  have bySupervisor := fun act => congrArg (Host.Outcome.next (φ := Fault) (ρ := Refusal)) (State.onSupervisor_elsewhere h act)
  simp only [mailCommands, List.mem_cons, List.not_mem_nil, or_false] at hc
  rcases hc with rfl | rfl | rfl | rfl | rfl | rfl | rfl | rfl | rfl | rfl | rfl | rfl | rfl | rfl | rfl | rfl | rfl
  · exact byCore _
  · exact byCore _
  · exact byCore _
  · exact exec_next (t := (s.answerOp m (some 16)).nextPeer m) (by rw [State.answerOp, onMail, peer])
  · exact byCore _
  · exact byCore _
  · exact byCore _
  · exact exec_next (t := (s.answerOp m none).nextPeer m) (by rw [State.answerOp, onMail, peer])
  · exact byCore _
  · exact bySupervisor _
  · exact byCore _
  · exact byCore _
  · exact bySupervisor _
  · exact bySupervisor _
  · exact bySupervisor _
  · exact bySupervisor _
  · exact bySupervisor _

/-- Settles O35: mail for another module by the room on its next rein and by its hops. -/
theorem mailPassesThrough : Obligations.MailPassesThrough := by
  unfold Obligations.MailPassesThrough
  intro s m port c hc elsewhere
  refine ⟨fun r hops next room => ?_, fun h => ?_⟩
  · have queued := State.forward_queued hops next room
    rw [exec_mail_elsewhere (port := port) hc elsewhere (by rw [queued]; rfl), queued]
  · have dropped := State.forward_dropped h
    have folds := s.countTag_folds m.srcTag 17
    refine ⟨s.countTag m.srcTag 17, ?_, ?_, ?_, folds, fun f source => State.countTag_of source 17⟩
    · rw [exec_mail_elsewhere (port := port) hc elsewhere (by rw [dropped, folds]; rfl), dropped]
    · rw [folds]
    · rw [folds]

end Sys2Proof.Machine


/-! Exchange reports and decisions (O34). -/

namespace Sys2Proof.Machine

theorem Fold.takeDecision_eq (x : Fold) (i : FoldImage) (m : BitVec 12) (d : Decision) : x.takeDecision i m d = { x with
    fromShepherd := if m = i.shepherd then some d else x.fromShepherd
    fromDeputy := if m = i.deputy then some d else x.fromDeputy } := by
  unfold Fold.takeDecision
  dsimp only
  split <;> split <;> rfl

/-- Reports, cores and held packets stand as they stood. -/
structure State.reportsKept (s t : State) : Prop where
  reports : ∀ f : FoldNo, t.folds[f].reports = s.folds[f].reports
  cores : t.cores = s.cores
  held : t.hall.held = s.hall.held

theorem State.reportsKept.trans {s t u : State} (h : s.reportsKept t) (k : t.reportsKept u) : s.reportsKept u := by
  obtain ⟨reports, cores, held⟩ := h
  obtain ⟨reports', cores', held'⟩ := k
  exact ⟨fun f => (reports' f).trans (reports f), cores'.trans cores, held'.trans held⟩

theorem State.reportsKept_refl (s : State) : s.reportsKept s := ⟨fun _ => rfl, rfl, rfl⟩

theorem State.sendControl_reportsKept (s : State) (f : FoldNo) (type : Nat) (m : BitVec 12) (bytes : List Byte) (stamp : Nat) :
    s.reportsKept (s.sendControl f type m bytes stamp) := by
  unfold State.sendControl
  split
  · exact ⟨fun _ => rfl, rfl, rfl⟩
  · exact s.reportsKept_refl

/-- A fold changed in what is no report. -/
theorem State.onFold_reportsKept (s : State) (f : FoldNo) {g : Fold → Fold} (h : (g s.folds[f]).reports = s.folds[f].reports) :
    s.reportsKept (s.onFold f g) := by
  refine ⟨fun k => ?_, rfl, rfl⟩
  by_cases same : k = f
  · subst same
    exact (congrArg Fold.reports (vmod_get_self ..)).trans h
  · exact congrArg Fold.reports (vmod_get_other _ _ _ _ same)

theorem State.makeDecision_reportsKept (s : State) (f : FoldNo) (i : FoldImage) : s.reportsKept (s.makeDecision f i) := by
  unfold State.makeDecision
  extract_lets d row u stamp
  have decided : s.reportsKept u := s.onFold_reportsKept f (by rw [Fold.takeDecision_eq])
  refine foldl_keep s.reportsKept _ (fun t m kept => ?_) _ u decided
  split
  · exact kept
  · exact kept.trans (State.sendControl_reportsKept ..)

theorem State.decideDue_reportsKept (s : State) : s.reportsKept s.decideDue := by
  unfold State.decideDue
  refine foldl_keep s.reportsKept _ (fun t f kept => ?_) _ s s.reportsKept_refl
  split
  · split
    · exact kept.trans (State.makeDecision_reportsKept ..)
    · exact kept
  · exact kept

/-- R273: no fold decides before the reserve. -/
theorem State.mustDecide_early {s : State} (early : s.rel < s.reserveAt) (f : FoldNo) (i : FoldImage) : s.mustDecide f i = false := by
  unfold State.mustDecide
  rw [decide_eq_false (Nat.not_le.2 early)]
  simp

theorem State.decideDue_early {s : State} (early : s.rel < s.reserveAt) : s.decideDue = s := by
  unfold State.decideDue
  refine foldl_keep (· = s) _ (fun t f kept => ?_) _ s rfl
  subst kept
  split
  · rw [State.mustDecide_early early, if_neg Bool.false_ne_true]
  · rfl

section
variable {s : State} {h : HeldPacket} {f : FoldNo} {i : FoldImage}

theorem State.exchangeDecisionOp_of (due : s.dueControl 7 = some (h, f, i)) : s.exchangeDecisionOp =
    if h.2.2.marks = 0 ∧ (readDecision i.memberList.length h.2.2.payload).tick = s.tick.number ∧
        i.hasPen (readDecision i.memberList.length h.2.2.payload).pen then
      (s.dropHeld h).onFold f fun x => x.takeDecision i h.2.1 (readDecision i.memberList.length h.2.2.payload)
    else s.dropHeld h := by
  simp only [State.exchangeDecisionOp, due]
  rfl

theorem State.exchangeReportOp_of (due : s.dueControl 6 = some (h, f, i)) : s.exchangeReportOp =
    (if h.2.2.marks = 0 then (s.dropHeld h).onFold f fun x => x.takeReport (readReport h.2.1 h.2.2.payload)
      else s.dropHeld h).decideDue := by
  simp only [State.exchangeReportOp, due]

end

/-- Settles O34: what is intact is kept by its fold, what is marked or of another tick is dropped. -/
theorem exchangePacketsAreKept : Obligations.ExchangePacketsAreKept := by
  unfold Obligations.ExchangePacketsAreKept
  refine ⟨fun s h f i due d hd => ⟨fun intact now pen => ?_, fun bad => ?_⟩,
    fun s h f i due => ⟨fun intact x hx => ⟨?_, fun early => ?_⟩, fun marked early => ?_⟩⟩
  · subst hd
    refine exec_next ((State.exchangeDecisionOp_of due).trans ?_)
    rw [if_pos ⟨intact, now, pen⟩]
    simp only [Fold.takeDecision_eq]
    rfl
  · subst hd
    refine exec_next ((State.exchangeDecisionOp_of due).trans ?_)
    rw [if_neg]
    · rfl
    · rintro ⟨intact, now, pen⟩
      obtain marked | late | foreign := bad
      · exact marked intact
      · exact late now
      · rw [foreign] at pen
        exact Bool.false_ne_true pen
  · subst hx
    refine ⟨_, exec_next (State.exchangeReportOp_of due), ?_⟩
    rw [if_pos intact]
    obtain ⟨reports, cores, held⟩ := State.decideDue_reportsKept
      ((s.dropHeld h).onFold f fun x => x.takeReport (readReport h.2.1 h.2.2.payload))
    exact ⟨(reports f).trans (congrArg Fold.reports (vmod_get_self ..)), cores, held⟩
  · subst hx
    refine exec_next ((State.exchangeReportOp_of due).trans ?_)
    rw [if_pos intact]
    exact State.decideDue_early (s := (s.dropHeld h).onFold f fun x => x.takeReport (readReport h.2.1 h.2.2.payload)) early
  · refine exec_next ((State.exchangeReportOp_of due).trans ?_)
    rw [if_neg marked]
    exact State.decideDue_early (s := s.dropHeld h) early

end Sys2Proof.Machine


/-! A command that goes over all cores, one by one, and the cancellation of a fold (O28). -/

namespace Sys2Proof.Machine

/-! ## One core at a time -/

/-- What a change of one core with events does: that core as changed, and the events of the cycle. -/
theorem State.onCoreE_frame (s : State) (p : CoreNo) (f : Core → Core × List (Nat × Nat)) (g : Option FoldNo) :
    onlyCore s (s.onCoreE p f g) p ∧ (s.onCoreE p f g).cores[p].quiet = (f s.cores[p]).1.quiet := by
  unfold State.onCoreE
  dsimp only
  obtain ⟨only, quiet⟩ := State.events_frame { s with cores := s.cores.set p (f s.cores[p]).1 } p (f s.cores[p]).2 g
  refine ⟨onlyCore_trans (onlyCore_set s p _) only, quiet.trans ?_⟩
  simp

/-- Only cores, the log and the module counters may differ. -/
def coresOnly (s t : State) : Prop := t = { s with cores := t.cores, log := t.log, ctrs := t.ctrs }

theorem coresOnly_refl (s : State) : coresOnly s s := rfl

theorem coresOnly.trans {s t u : State} (h : coresOnly s t) (k : coresOnly t u) : coresOnly s u := by
  unfold coresOnly at h k ⊢
  rw [k, h]

theorem onlyCore.coresOnly {s t : State} {p : CoreNo} (h : onlyCore s t p) : coresOnly s t := h.2

/-- A step for each core of a list, each of which changes its own core alone. -/
theorem foldl_onlyCore {step : State → CoreNo → State} (only : ∀ u p, onlyCore u (step u p) p) :
    ∀ (l : List CoreNo) (s : State), l.Nodup → coresOnly s (l.foldl step s) ∧
      (∀ p, p ∉ l → (l.foldl step s).cores[p] = s.cores[p]) ∧
      (∀ p, p ∈ l → ∃ u, coresOnly s u ∧ u.cores[p] = s.cores[p] ∧ (l.foldl step s).cores[p] = (step u p).cores[p]) := by
  intro l
  induction l with
  | nil => exact fun s _ => ⟨rfl, fun _ _ => rfl, fun _ h => absurd h List.not_mem_nil⟩
  | cons q l ih =>
    intro s distinct
    obtain ⟨fresh, distinct'⟩ := List.nodup_cons.1 distinct
    obtain ⟨frame, others, each⟩ := ih (step s q) distinct'
    have first := only s q
    refine ⟨first.coresOnly.trans frame, fun p hp => ?_, fun p hp => ?_⟩
    · obtain ⟨differ, rest⟩ := not_or.1 (fun h => hp (List.mem_cons.2 h))
      exact (others p rest).trans (first.1 p differ)
    · obtain rfl | later := List.mem_cons.1 hp
      · exact ⟨s, coresOnly_refl s, rfl, others p fresh⟩
      · obtain ⟨u, same, core, result⟩ := each p later
        have differ : p ≠ q := fun e => fresh (e ▸ later)
        exact ⟨u, first.coresOnly.trans same, core.trans (first.1 p differ), result⟩

/-- The same over all cores. -/
theorem allCores_onlyCore {step : State → CoreNo → State} (only : ∀ u p, onlyCore u (step u p) p) (s : State) :
    coresOnly s ((List.finRange 32).foldl step s) ∧ ∀ p, ∃ u, coresOnly s u ∧ u.cores[p] = s.cores[p] ∧
      ((List.finRange 32).foldl step s).cores[p] = (step u p).cores[p] := by
  obtain ⟨frame, -, each⟩ := foldl_onlyCore only (List.finRange 32) s (List.nodup_finRange 32)
  exact ⟨frame, fun p => each p (List.mem_finRange p)⟩

/-- A property that one step of a pass brings about, and that every step keeps. -/
theorem foldl_reaches {α β : Type} {P Q : α → Prop} {f : α → β → α} {x : β} (here : ∀ a, P a ∨ Q a → Q (f a x))
    (before : ∀ a b, P a → P (f a b) ∨ Q (f a b)) (after : ∀ a b, Q a → Q (f a b)) :
    ∀ (l : List β) (a : α), x ∈ l → P a ∨ Q a → Q (l.foldl f a) := by
  intro l
  induction l with
  | nil => exact fun _ h => absurd h List.not_mem_nil
  | cons b l ih =>
    intro a hx ha
    rw [List.foldl_cons]
    have next : P (f a b) ∨ Q (f a b) := ha.elim (before a b) fun h => .inr (after a b h)
    obtain rfl | later := List.mem_cons.1 hx
    · exact foldl_keep Q f after l _ (here a ha)
    · exact ih (f a b) later next

/-! ## Streams of a core -/

@[simp] theorem Core.setDs_ds_same (c : Core) (d : DroverNo) (i : DStreamNo) (x : DStream) : (c.setDs d i x).ds d i = x := by
  simp [Core.setDs, Core.ds]

theorem Core.setDs_ds_other (c : Core) {d e : DroverNo} {i j : DStreamNo} (x : DStream) (h : ¬(e = d ∧ j = i)) :
    (c.setDs d i x).ds e j = c.ds e j := by
  unfold Core.setDs Core.ds
  by_cases drover : e = d
  · subst drover
    have stream : j ≠ i := fun same => h ⟨rfl, same⟩
    simp only [Fin.getElem_fin, vmod_get_self]
    exact set_get_other _ _ _ _ stream
  · exact congrArg (fun v : Vector DStream 8 => v[j]) (vmod_get_other c.drovers d e _ drover)

/-- The rings of a stream are to be reset. -/
def ringWaits (c : Core) (x : DStream) : Prop := ∀ ctx, x.ctx = some ctx → xRingOn ctx = true → xRing ctx ∈ c.ringsToReset

/-- A cancelled stream is idle with nothing left; any other stands. -/
theorem Core.cancelStream_ds (c : Core) (d : DroverNo) (i : DStreamNo) (e : DroverNo) (j : DStreamNo) :
    (c.cancelStream d i).1.ds e j = if e = d ∧ j = i ∧ (c.ds d i).status ≠ .idle then DStream.reset else c.ds e j := by
  unfold Core.cancelStream
  dsimp only
  by_cases idle : (c.ds d i).status = .idle
  · rw [if_pos idle, if_neg fun h => h.2.2 idle]
  · rw [if_neg idle]
    by_cases here : e = d ∧ j = i
    · obtain ⟨rfl, rfl⟩ := here
      rw [if_pos ⟨rfl, rfl, idle⟩]
      exact c.setDs_ds_same e j _
    · rw [if_neg fun h => here ⟨h.1, h.2.1⟩]
      exact c.setDs_ds_other _ here

theorem Core.cancelStream_rings (c : Core) (d : DroverNo) (i : DStreamNo) :
    (∀ k, k ∈ c.ringsToReset → k ∈ (c.cancelStream d i).1.ringsToReset) ∧
      ((c.ds d i).status ≠ .idle → ringWaits (c.cancelStream d i).1 (c.ds d i)) := by
  unfold Core.cancelStream ringWaits
  extract_lets x n rings
  have more : ∀ k, k ∈ c.ringsToReset → k ∈ rings := by
    intro k hk
    unfold rings
    split
    · split
      · next w _ _ =>
        by_cases same : k = xRing w
        · exact List.mem_cons.2 (.inl same)
        · exact List.mem_cons.2 (.inr (List.mem_filter.2 ⟨hk, by simpa using same⟩))
      · exact hk
    · exact hk
  by_cases idle : x.status = .idle
  · rw [if_pos idle]
    exact ⟨fun _ h => h, fun h => absurd idle h⟩
  · rw [if_neg idle]
    refine ⟨more, fun _ ctx hctx on => ?_⟩
    show xRing ctx ∈ rings
    unfold rings
    rw [hctx]
    simp only [on, ↓reduceIte, List.mem_cons_self]

/-- Streams and rings to be reset may differ, nothing else of the core. -/
def Core.streamsOnly (c e : Core) : Prop := e = { c with drovers := e.drovers, ringsToReset := e.ringsToReset }

theorem Core.streamsOnly.trans {c e g : Core} (h : c.streamsOnly e) (k : e.streamsOnly g) : c.streamsOnly g := by
  unfold Core.streamsOnly at h k ⊢
  rw [k, h]

theorem Core.cancelStream_streamsOnly (c : Core) (d : DroverNo) (i : DStreamNo) : c.streamsOnly (c.cancelStream d i).1 := by
  unfold Core.cancelStream
  dsimp only
  split <;> rfl

/-- One stream of a cancellation. -/
def cancelOne (pick : DStream → Bool) (a : Core × Nat) (x : DroverNo × DStreamNo) : Core × Nat :=
  if pick (a.1.ds x.1 x.2) then ((a.1.cancelStream x.1 x.2).1, a.2 + (a.1.cancelStream x.1 x.2).2) else a

/-- All streams of a core. -/
def allStreams : List (DroverNo × DStreamNo) := (List.finRange 4).flatMap fun d => (List.finRange 8).map fun i => (d, i)

theorem mem_allStreams (x : DroverNo × DStreamNo) : x ∈ allStreams := by
  simp [allStreams]

theorem Core.cancel_eq (c : Core) (pick : DStream → Bool) :
    (c.cancel pick).1 = (allStreams.foldl (cancelOne pick) (c, 0)).1 := by
  unfold Core.cancel allStreams
  rw [List.foldl_flatMap]
  simp only [List.foldl_map]
  rfl

section
variable (c : Core) (pick : DStream → Bool)

theorem Core.cancel_streamsOnly : c.streamsOnly (c.cancel pick).1 := by
  rw [Core.cancel_eq]
  refine foldl_keep (fun a : Core × Nat => c.streamsOnly a.1) _ (fun a x kept => ?_) _ _ rfl
  unfold cancelOne
  split
  · exact kept.trans (Core.cancelStream_streamsOnly ..)
  · exact kept

/-- A stream that is not picked stands; so does one that is idle. -/
theorem Core.cancel_other {d : DroverNo} {i : DStreamNo} (other : pick (c.ds d i) = false) :
    (c.cancel pick).1.ds d i = c.ds d i := by
  rw [Core.cancel_eq]
  refine foldl_keep (fun a : Core × Nat => a.1.ds d i = c.ds d i) _ (fun a x kept => ?_) _ _ rfl
  unfold cancelOne
  split
  · next picked =>
    rw [Core.cancelStream_ds, if_neg]
    · exact kept
    · rintro ⟨rfl, rfl, -⟩
      rw [kept, other] at picked
      exact Bool.false_ne_true picked
  · exact kept

/-- A stream that is picked and not idle is reset, and its ring waits to be. -/
theorem Core.cancel_picked {d : DroverNo} {i : DStreamNo} (picked : pick (c.ds d i) = true)
    (busy : (c.ds d i).status ≠ .idle) :
    (c.cancel pick).1.ds d i = DStream.reset ∧ ringWaits (c.cancel pick).1 (c.ds d i) := by
  rw [Core.cancel_eq]
  refine foldl_reaches (P := fun a : Core × Nat => a.1.ds d i = c.ds d i)
    (Q := fun a : Core × Nat => a.1.ds d i = DStream.reset ∧ ringWaits a.1 (c.ds d i)) (x := (d, i)) ?_ ?_ ?_ _ _
    (mem_allStreams _) (.inl rfl)
  · rintro a (same | ⟨reset, waits⟩)
    · unfold cancelOne
      rw [if_pos (by rw [same]; exact picked)]
      refine ⟨?_, ?_⟩
      · rw [Core.cancelStream_ds, if_pos ⟨rfl, rfl, by rw [same]; exact busy⟩]
      · have rings := (a.1.cancelStream_rings d i).2 (by rw [same]; exact busy)
        rwa [same] at rings
    · unfold cancelOne
      split
      · refine ⟨?_, fun ctx hctx on => (a.1.cancelStream_rings d i).1 _ (waits ctx hctx on)⟩
        rw [Core.cancelStream_ds, if_neg fun h => h.2.2 (by rw [reset]; rfl)]
        exact reset
      · exact ⟨reset, waits⟩
  · intro a x same
    unfold cancelOne
    split
    · rw [Core.cancelStream_ds]
      by_cases here : d = x.1 ∧ i = x.2 ∧ (a.1.ds x.1 x.2).status ≠ .idle
      · obtain ⟨rfl, rfl, -⟩ := here
        refine .inr ⟨if_pos ⟨rfl, rfl, by rw [same]; exact busy⟩, ?_⟩
        have rings := (a.1.cancelStream_rings x.1 x.2).2 (by rw [same]; exact busy)
        rwa [same] at rings
      · rw [if_neg here]
        exact .inl same
    · exact .inl same
  · rintro a x ⟨reset, waits⟩
    unfold cancelOne
    split
    · refine ⟨?_, fun ctx hctx on => (a.1.cancelStream_rings x.1 x.2).1 _ (waits ctx hctx on)⟩
      rw [Core.cancelStream_ds]
      split
      · rfl
      · exact reset
    · exact ⟨reset, waits⟩

end

/-! ## A fold cancelled -/

theorem State.logicalOf_congr {s t : State} {p : CoreNo} (h : t.cores[p] = s.cores[p]) : t.logicalOf p = s.logicalOf p := by
  unfold State.logicalOf
  rw [h]

/-- The core is one that the fold holds. -/
def State.heldBy (s : State) (f : FoldNo) (p : CoreNo) : Bool := match s.logicalOf p, s.folds[f].allot with
  | some l, some a => a.holds l
  | _, _ => false

theorem State.heldBy_of {s : State} {f : FoldNo} {p l : CoreNo} {a : Allot} (logical : s.logicalOf p = some l)
    (allot : s.folds[f].allot = some a) (holds : a.holds l = true) : s.heldBy f p = true := by
  simp only [State.heldBy, logical, allot, holds]

theorem State.heldBy_congr {s u : State} {p : CoreNo} (frame : coresOnly s u) (core : u.cores[p] = s.cores[p]) (f : FoldNo) :
    u.heldBy f p = s.heldBy f p := by
  have folds : u.folds = s.folds := by rw [frame]
  unfold State.heldBy
  rw [State.logicalOf_congr core, folds]

/-- What a cancellation makes of one core. -/
def Core.cancelled (c : Core) (f : FoldNo) (held : Bool) : Core × List (Nat × Nat) :=
  let r := c.cancel fun x => decide (x.fold = f)
  ({ r.1 with emptyFeeder := r.1.emptyFeeder || held }, r.2)

theorem State.cancelFold_eq (s : State) (f : FoldNo) : s.cancelFold f =
    (List.finRange 32).foldl (fun (u : State) p => u.onCoreE p (fun c => c.cancelled f (u.heldBy f p)) f) s := rfl

theorem Core.streamsOnly.quiet {c e : Core} (h : c.streamsOnly e) (empty : Bool) :
    ({ e with emptyFeeder := empty } : Core).quiet = { c.quiet with
      drovers := e.drovers, ringsToReset := e.ringsToReset, emptyFeeder := empty } := by
  unfold Core.streamsOnly at h
  rw [h]
  rfl

theorem Core.cancelled_quiet (c : Core) (f : FoldNo) (held : Bool) : (c.cancelled f held).1.quiet = { c.quiet with
    drovers := (c.cancelled f held).1.drovers, ringsToReset := (c.cancelled f held).1.ringsToReset
    emptyFeeder := (c.cancelled f held).1.emptyFeeder } := by
  have streams := c.cancel_streamsOnly fun x => decide (x.fold = f)
  unfold Core.cancelled
  generalize c.cancel (fun x => decide (x.fold = f)) = r at streams
  exact streams.quiet _

/-- Cores alike but for the events of a cycle have the same streams, rings to reset and feeder. -/
theorem quiet_streams {c e : Core} (h : c.quiet = e.quiet) :
    c.drovers = e.drovers ∧ c.ringsToReset = e.ringsToReset ∧ c.emptyFeeder = e.emptyFeeder := by
  have drovers := congrArg Core.drovers h
  have rings := congrArg Core.ringsToReset h
  have feeder := congrArg Core.emptyFeeder h
  exact ⟨drovers, rings, feeder⟩

/-- A cancellation of a fold, core by core: what its streams, its rings and its feeder are after it. -/
theorem State.cancelFold_core (s : State) (f : FoldNo) (p : CoreNo) :
    (s.cancelFold f).cores[p].quiet = (s.cores[p].cancelled f (s.heldBy f p)).1.quiet := by
  rw [State.cancelFold_eq]
  obtain ⟨-, each⟩ := allCores_onlyCore (step := fun (u : State) p => u.onCoreE p (fun c => c.cancelled f (u.heldBy f p)) f)
    (fun u p => (State.onCoreE_frame ..).1) s
  obtain ⟨u, frame, core, result⟩ := each p
  refine (congrArg Core.quiet result).trans ((State.onCoreE_frame ..).2.trans ?_)
  rw [core, State.heldBy_congr frame core]

theorem Core.cancelled_fields (c : Core) (f : FoldNo) (held : Bool) :
    (c.cancelled f held).1.drovers = (c.cancel fun x => decide (x.fold = f)).1.drovers ∧
      (c.cancelled f held).1.ringsToReset = (c.cancel fun x => decide (x.fold = f)).1.ringsToReset ∧
      (c.cancelled f held).1.emptyFeeder = ((c.cancel fun x => decide (x.fold = f)).1.emptyFeeder || held) := by
  unfold Core.cancelled
  generalize c.cancel (fun x => decide (x.fold = f)) = r
  exact ⟨rfl, rfl, rfl⟩

theorem State.cancelFold_fields (s : State) (f : FoldNo) (p : CoreNo) :
    (s.cancelFold f).cores[p].drovers = (s.cores[p].cancel fun x => decide (x.fold = f)).1.drovers ∧
      (s.cancelFold f).cores[p].ringsToReset = (s.cores[p].cancel fun x => decide (x.fold = f)).1.ringsToReset ∧
      (s.cancelFold f).cores[p].emptyFeeder =
        ((s.cores[p].cancel fun x => decide (x.fold = f)).1.emptyFeeder || s.heldBy f p) := by
  obtain ⟨drovers, rings, feeder⟩ := quiet_streams (s.cancelFold_core f p)
  obtain ⟨drovers', rings', feeder'⟩ := s.cores[p].cancelled_fields f (s.heldBy f p)
  exact ⟨drovers.trans drovers', rings.trans rings', feeder.trans feeder'⟩

theorem State.cancelFold_coresOnly (s : State) (f : FoldNo) : coresOnly s (s.cancelFold f) := by
  rw [State.cancelFold_eq]
  exact (allCores_onlyCore (fun u p => (State.onCoreE_frame ..).1) s).1

/-- Settles O28: a cancellation stops the streams of its fold core by core, when it is due. -/
theorem cancelStopsStreamsOfFold : Obligations.CancelStopsStreamsOfFold := by
  unfold Obligations.CancelStopsStreamsOfFold
  intro s f
  refine ⟨fun early quiet => ?_, fun due => ?_⟩
  · refine exec_next (t := s.cancelOp f) (if_neg ?_)
    unfold State.cancels
    cases hurdle : s.folds[f].recov.hurdle with
    | none => grind
    | some h =>
      have := early h hurdle
      grind
  · have cancels : s.cancels f = true := by
      unfold State.cancels
      dsimp only
      obtain ⟨h, hurdle, due⟩ | ⟨reserve, after, changes⟩ := due
      · rw [hurdle]
        simp only [due, decide_true, Bool.or_true]
      · rw [reserve, changes, decide_eq_true after]
        rfl
    refine ⟨s.cancelFold f, exec_next (t := s.cancelOp f) (if_pos cancels), fun p d i => ?_, fun p l a logical allot holds => ?_,
      fun p => ?_, s.cancelFold_coresOnly f⟩
    · obtain ⟨drovers, rings, -⟩ := s.cancelFold_fields f p
      have ds : (s.cancelFold f).ds p d i = (s.cores[p].cancel fun x => decide (x.fold = f)).1.ds d i :=
        congrArg (fun v : Vector (Vector DStream 8) 4 => v[d][i]) drovers
      refine ⟨fun mine busy => ?_, fun other => ?_⟩
      · obtain ⟨reset, waits⟩ := s.cores[p].cancel_picked (fun x => decide (x.fold = f)) (decide_eq_true mine) busy
        rw [ds]
        exact ⟨reset, fun ctx hctx on => by rw [rings]; exact waits ctx hctx on⟩
      · rw [ds]
        exact s.cores[p].cancel_other _ (decide_eq_false other)
    · obtain ⟨-, -, feeder⟩ := s.cancelFold_fields f p
      rw [feeder, State.heldBy_of logical allot holds, Bool.or_true]
    · obtain ⟨drovers, rings, feeder⟩ := quiet_streams (s.cancelFold_core f p)
      rw [drovers, rings, feeder]
      exact (s.cancelFold_core f p).trans (Core.cancelled_quiet ..)

end Sys2Proof.Machine


/-! What is read of the accumulator after it has been written, and the exact sums of a UQ8 pass (O17). -/

namespace Sys2Proof.Machine

/-! ## Sparse maps with a range back at the default -/

theorem cellGet_clear {α : Type} [DecidableEq α] (d : α) (lo hi j : Nat) (m : List (Nat × α)) (h : cellWf d m = true) :
    cellGet d j (cellsClear lo hi m) = if lo ≤ j ∧ j < hi then d else cellGet d j m := by
  rw [cellWf_iff] at h
  obtain ⟨rising, -⟩ := h
  induction m with
  | nil => simp [cellsClear, cellGet]
  | cons a r ih =>
    obtain ⟨k, v⟩ := a
    obtain ⟨above, rising'⟩ := List.pairwise_cons.1 rising
    have low : ∀ q : Nat × α → Bool, j ≤ k → cellGet d j (r.filter q) = d := fun q hjk =>
      cellGet_low d j _ fun c hc => Nat.lt_of_le_of_lt hjk (above c (List.mem_filter.1 hc).1)
    have ih := ih rising'
    unfold cellsClear at ih ⊢
    by_cases kept : (decide (k < lo) || decide (hi ≤ k)) = true
    · rw [List.filter_cons_of_pos (by exact kept)]
      simp only [Bool.or_eq_true, decide_eq_true_eq] at kept
      obtain before | rfl | after := Nat.lt_trichotomy k j
      · simp only [cellGet, if_pos before, ih]
      · simp only [cellGet, Nat.lt_irrefl, ↓reduceIte]
        rw [if_neg (by omega)]
      · simp only [cellGet, if_neg (Nat.lt_asymm after), if_neg (Nat.ne_of_gt after), ite_self]
    · rw [List.filter_cons_of_neg (by exact kept)]
      simp only [Bool.or_eq_true, decide_eq_true_eq, not_or, not_lt, not_le] at kept
      obtain before | rfl | after := Nat.lt_trichotomy k j
      · simp only [cellGet, if_pos before, ih]
      · rw [low _ (Nat.le_refl _), if_pos kept]
      · simp only [cellGet, if_neg (Nat.lt_asymm after), if_neg (Nat.ne_of_gt after), ite_self]
        exact low _ (Nat.le_of_lt after)

/-! ## Entries of the accumulator -/

/-- Entries of a row of 128 columns lie apart. -/
theorem entIx_inj {slot row col slot' row' col' : Nat} (hr : row < 128) (hr' : row' < 128) (hc : col < 128) (hc' : col' < 128) :
    entIx slot row col = entIx slot' row' col' ↔ slot = slot' ∧ row = row' ∧ col = col' := by
  unfold entIx
  omega

/-- A row's entries are 128 consecutive ones. -/
theorem entIx_row {slot row slot' row' col' : Nat} (hr : row < 128) (hr' : row' < 128) (hc' : col' < 128) :
    (entIx slot row 0 ≤ entIx slot' row' col' ∧ entIx slot' row' col' < entIx slot row 0 + 128) ↔ slot' = slot ∧ row' = row := by
  unfold entIx
  omega

section
variable {a : Accum} (wf : a.wf) {slot row col slot' row' col' : Nat} (hr : row < 128) (hr' : row' < 128) (hc : col < 128)
  (hc' : col' < 128)
include wf hr hr' hc hc'

theorem Accum.entry_setEntry (w : Word64) : (a.setEntry slot row col w).entry slot' row' col' =
    if slot' = slot ∧ row' = row ∧ col' = col then w else a.entry slot' row' col' := by
  obtain ⟨entries, -, -, -⟩ := wf
  refine (cellGet_set 0 _ _ _ _ entries).trans ?_
  simp only [entIx_inj hr' hr hc' hc]
  rfl

theorem Accum.side_setSide (w : BitVec 4) : (a.setSide slot row col w).side slot' row' col' =
    if slot' = slot ∧ row' = row ∧ col' = col then w else a.side slot' row' col' := by
  obtain ⟨-, sides, -, -⟩ := wf
  refine (cellGet_set 0 _ _ _ _ sides).trans ?_
  simp only [entIx_inj hr' hr hc' hc]
  rfl

omit hc in
/-- A cleared row refilled with zeros reads zero, in its entries and side entries. -/
theorem Accum.refill_zero (cleared : rowCleared (a.row slot row) = true) :
    (a.refill slot row 0).entry slot' row' col' = (if slot' = slot ∧ row' = row then 0 else a.entry slot' row' col') ∧
      (a.refill slot row 0).side slot' row' col' = (if slot' = slot ∧ row' = row then 0 else a.side slot' row' col') := by
  obtain ⟨entries, sides, -, -⟩ := wf
  unfold Accum.refill
  rw [if_pos cleared]
  constructor
  · refine (cellGet_clear 0 _ _ _ _ entries).trans ?_
    simp only [entIx_row hr hr' hc']
    rfl
  · refine (cellGet_clear 0 _ _ _ _ sides).trans ?_
    simp only [entIx_row hr hr' hc']
    rfl

end

@[simp] theorem Accum.setEntry_side (a : Accum) (slot row col : Nat) (w : Word64) (s r c : Nat) :
    (a.setEntry slot row col w).side s r c = a.side s r c := rfl
@[simp] theorem Accum.setSide_entry (a : Accum) (slot row col : Nat) (w : BitVec 4) (s r c : Nat) :
    (a.setSide slot row col w).entry s r c = a.entry s r c := rfl

theorem Accum.refill_of_not {a : Accum} {slot row : Nat} (h : rowCleared (a.row slot row) = false) (v : Word64) :
    a.refill slot row v = a := by simp [Accum.refill, h]

theorem Accum.refill_slots (a : Accum) (slot row : Nat) (v : Word64) : (a.refill slot row v).slots = a.slots := by
  unfold Accum.refill
  split <;> rfl

theorem Accum.cls_congr {a b : Accum} (h : b.slots = a.slots) (slot : Nat) : b.cls slot = a.cls slot := by
  unfold Accum.cls Accum.slot
  rw [h]

/-! ## Slots of one word -/

section
variable {a : Accum} {slot : Nat} (uq8 : a.cls slot = 0)
include uq8

theorem Accum.home_uq8 : a.home slot = slot := by simp [Accum.home, uq8]

theorem Accum.seen_uq8 (row : Nat) : a.seen slot row = a.refill slot row 0 := by
  unfold Accum.seen
  rw [Accum.home_uq8 uq8, uq8]
  simp [Accum.materialise, uq8, pairClass]

end

/-! ## Exact sums -/

theorem sumQ_intCast (l : List Int) : sumQ (l.map fun x : Int => (x : Rat)) = (l.sum : Int) := by
  have fold : ∀ (l : List Int) (q : Int), (l.map fun x : Int => (x : Rat)).foldl (· + ·) (q : Rat) = ((q + l.sum : Int) : Rat) := by
    intro l
    induction l with
    | nil => simp
    | cons x l ih =>
      intro q
      rw [List.map_cons, List.foldl_cons, ← Rat.intCast_add, ih, List.sum_cons, Int.add_assoc]
  have := fold l 0
  simpa [sumQ] using this

theorem truncQ_intCast (x : Int) : truncQ (x : Rat) = x := by
  simp [truncQ, Rat.num_intCast, Rat.den_intCast]

/-- An element's code as the model's operands read it. -/
theorem code_eq_iff (c : Word64) : c.toNat = 0xFF ↔ c = 0xFF := by
  rw [← BitVec.toNat_inj]
  rfl

section
variable {f : PassFl}

theorem PassFl.act_uq8 (row : f.row.fmt = .uq8) {act : Int} {k : Nat}
    (h : act = if f.row.stray = true ∧ (f.row.elem k).code = 0xFF then 0
      else ((f.row.elem k).code.toNat : Int) - f.row.za.toNat) : (f.act k).1 = (act : Rat) := by
  unfold PassFl.act
  dsimp only
  rw [if_pos row, h]
  simp only [Bool.and_eq_true, decide_eq_true_eq, code_eq_iff]
  split
  · rfl
  · rfl

theorem PassFl.wt_uq8 (match_ : f.mismatch = false) (weights : f.weights.fmt = some .uq8) {wt : Int} {k n : Nat}
    (h : wt = if leAt f.weights.trailer 128 4 ≠ 0 ∧ (f.weights.cell k n).code = 0xFF then 0
      else ((f.weights.cell k n).code.toNat : Int) - (f.weights.trailer.getD n 0).toNat) : (f.wt k n).1 = (wt : Rat) := by
  unfold PassFl.wt
  rw [match_, if_neg Bool.false_ne_true, weights, h]
  dsimp only
  rw [if_pos rfl]
  simp only [code_eq_iff, and_comm]
  split
  · rfl
  · rfl

/-- What a column of a UQ8 pass adds is the exact sum of its integer products (R66, R89). -/
theorem PassFl.column_uq8 {ks : List Nat} {n : Nat} {act wt : Nat → Int} (hact : ∀ k, (f.act k).1 = (act k : Rat))
    (hwt : ∀ k, (f.wt k n).1 = (wt k : Rat)) : sumQ (f.column ks n).1 = ((ks.map fun k => act k * wt k).sum : Int) := by
  rw [← sumQ_intCast, List.map_map]
  unfold PassFl.column
  simp only [List.map_map]
  congr 1
  refine List.map_congr_left fun k _ => ?_
  simp only [Function.comp, hact, hwt, Rat.intCast_mul]

end

theorem word64_add (w : Word64) (x : Int) : word64 (w.toNat + x) = w + BitVec.ofInt 64 x := by
  unfold word64
  rw [BitVec.ofInt_add]
  congr 1
  simp

theorem Accum.addColumn_uq8 {a : Accum} {slot : Nat} (uq8 : a.cls slot = 0) (row n : Nat) {products : List Rat} {x : Int}
    (sum : sumQ products = (x : Rat)) :
    a.addColumn 0 slot row n true products = a.setEntry slot row n (a.entry slot row n + BitVec.ofInt 64 x) := by
  have unit : sumQ products * twoPow (-(unitExp 0)) = (x : Rat) := by
    have one : twoPow (-(unitExp 0)) = 1 := by decide
    rw [sum, one, Rat.mul_one]
  unfold Accum.addColumn
  simp only [uq8]
  rw [if_neg (by decide), if_pos trivial, unit, truncQ_intCast, word64_add]

/-! ## A whole pass -/

/-- The accumulator after the columns below `m` of a row have had their sums added: `was` is what the row read before. -/
structure ColumnsAdded (a b : Accum) (slot row m : Nat) (was : Nat → Word64) (side : Nat → BitVec 4) (sum : Nat → Int) : Prop where
  wf : b.wf
  slots : b.slots = a.slots
  added : ∀ n, n < m → b.entry slot row n = was n + BitVec.ofInt 64 (sum n)
  waiting : ∀ n, m ≤ n → n < 128 → b.entry slot row n = was n ∧ b.side slot row n = side n
  others : ∀ slot' row' n, row' < 128 → n < 128 → (slot' ≠ slot ∨ row' ≠ row) →
    b.entry slot' row' n = a.entry slot' row' n ∧ b.side slot' row' n = a.side slot' row' n

section
variable {a b : Accum} {slot row m : Nat} {was : Nat → Word64} {side : Nat → BitVec 4} {sum : Nat → Int}

/-- One column more, whatever is merged into its side entry. -/
theorem ColumnsAdded.step (h : ColumnsAdded a b slot row m was side sum) (hrow : row < 128) (hm : m < 128) (w : BitVec 4) :
    ColumnsAdded a ((b.setEntry slot row m (b.entry slot row m + BitVec.ofInt 64 (sum m))).setSide slot row m w)
      slot row (m + 1) was side sum := by
  have wf := wf_setEntry h.wf slot row m (b.entry slot row m + BitVec.ofInt 64 (sum m))
  have entry : ∀ slot' row' n, row' < 128 → n < 128 →
      ((b.setEntry slot row m (b.entry slot row m + BitVec.ofInt 64 (sum m))).setSide slot row m w).entry slot' row' n =
        if slot' = slot ∧ row' = row ∧ n = m then was m + BitVec.ofInt 64 (sum m) else b.entry slot' row' n := by
    intro slot' row' n hrow' hn
    rw [Accum.setSide_entry, Accum.entry_setEntry h.wf hrow hrow' hm hn, (h.waiting m (Nat.le_refl _) hm).1]
  have sides : ∀ slot' row' n, row' < 128 → n < 128 →
      ((b.setEntry slot row m (b.entry slot row m + BitVec.ofInt 64 (sum m))).setSide slot row m w).side slot' row' n =
        if slot' = slot ∧ row' = row ∧ n = m then w else b.side slot' row' n := by
    intro slot' row' n hrow' hn
    rw [Accum.side_setSide wf hrow hrow' hm hn, Accum.setEntry_side]
  refine ⟨wf_setSide wf .., h.slots, fun n hn => ?_, fun n hmn hn => ?_, fun slot' row' n hrow' hn differ => ?_⟩
  · rw [entry slot row n hrow (by omega)]
    by_cases last : n = m
    · rw [if_pos ⟨rfl, rfl, last⟩, last]
    · rw [if_neg fun h => last h.2.2, h.added n (by omega)]
  · rw [entry slot row n hrow hn, sides slot row n hrow hn, if_neg (by omega), if_neg (by omega)]
    exact h.waiting n (by omega) hn
  · rw [entry slot' row' n hrow' hn, sides slot' row' n hrow' hn, if_neg (by omega), if_neg (by omega)]
    exact h.others slot' row' n hrow' hn differ

end

/-- What a UQ8 pass does with each column of its row: the sum added, and a side entry merged. -/
theorem uq8_columns {a b : Accum} {slot row count : Nat} {was : Nat → Word64} {side : Nat → BitVec 4} {sum : Nat → Int}
    {step : Accum → Nat → Accum} (hrow : row < 128) (start : ColumnsAdded a b slot row 0 was side sum)
    (hstep : ∀ c n, c.slots = a.slots → ∃ w, step c n =
      (c.setEntry slot row n (c.entry slot row n + BitVec.ofInt 64 (sum n))).setSide slot row n w) :
    count ≤ 128 → ColumnsAdded a ((List.range count).foldl step b) slot row count was side sum := by
  induction count with
  | zero => exact fun _ => start
  | succ count ih =>
    intro small
    have before := ih (by omega)
    rw [List.range_succ, List.foldl_append, List.foldl_cons, List.foldl_nil]
    obtain ⟨w, hw⟩ := hstep _ count before.slots
    rw [hw]
    exact before.step hrow (by omega) w

/-- The row as a pass first sees it. -/
theorem columnsAdded_seen {a : Accum} (wf : a.wf) {slot row : Nat} (uq8 : a.cls slot = 0) (hrow : row < 128)
    {was : Nat → Word64} (hwas : ∀ n, was n = if rowCleared (a.row slot row) then 0 else a.entry slot row n) (sum : Nat → Int) :
    ColumnsAdded a (a.seen slot row) slot row 0 was (fun n => if rowCleared (a.row slot row) then 0 else a.side slot row n) sum := by
  rw [Accum.seen_uq8 uq8]
  cases cleared : rowCleared (a.row slot row) with
  | false =>
    rw [Accum.refill_of_not cleared]
    exact ⟨wf, rfl, nofun, fun n _ _ => ⟨by rw [hwas, cleared]; rfl, rfl⟩, fun _ _ _ _ _ _ => ⟨rfl, rfl⟩⟩
  | true =>
    refine ⟨wf_refill wf .., Accum.refill_slots .., nofun, fun n _ hn => ?_, fun slot' row' n hrow' hn differ => ?_⟩
    · obtain ⟨entry, sides⟩ := Accum.refill_zero wf hrow hrow hn (slot' := slot) cleared
      rw [entry, sides, if_pos ⟨rfl, rfl⟩, if_pos ⟨rfl, rfl⟩, hwas, cleared]
      exact ⟨rfl, rfl⟩
    · obtain ⟨entry, sides⟩ := Accum.refill_zero wf hrow hrow' hn (slot' := slot') cleared
      rw [entry, sides, if_neg (by omega), if_neg (by omega)]
      exact ⟨rfl, rfl⟩

/-- What a UQ8 pass does with one column: its sum added, its side entry merged, marked under an exhausted carry guard. -/
def PassFl.addUq8 (f : PassFl) (a : Accum) (n : Nat) : Accum :=
  let x := f.column (List.range f.kcount) n
  let b := a.addColumn 0 f.slot f.dest n true x.1
  b.setSide f.slot f.dest n (sideMerge (b.side f.slot f.dest n) (if rowGuard (b.row f.slot f.dest) then sideMark x.2 else x.2))

/-- Settles O17: column by column a UQ8 pass adds the exact sum to what its row first reads. -/
theorem uq8PassAddsExactSums : Obligations.Uq8PassAddsExactSums := by
  unfold Obligations.Uq8PassAddsExactSums
  intro a f wf wide pair half uq8 row weights hdest hcount b es act wt was run hact hwt hwas
  have match_ : f.mismatch = false := by
    unfold PassFl.mismatch
    rw [weights, wide, pair]
    decide
  have start := columnsAdded_seen wf uq8 hdest hwas fun n => ((List.range f.kcount).map fun k => act k * wt k n).sum
  have own : pairCls f.wide f.pair.toNat = 0 := by rw [wide, pair]; decide
  have homes : a.homes [f.slot] = [f.slot] := by simp [Accum.homes, Accum.home_uq8 uq8]
  have uq8' : (a.seen f.slot f.dest).cls f.slot = 0 := (Accum.cls_congr start.slots f.slot).trans uq8
  have counted : (a.seen f.slot f.dest).countOp f.slot f.dest = (a.seen f.slot f.dest, 0) := by
    simp [Accum.countOp, uq8']
  have single : (!pairClass 0) = true := rfl
  have positions : f.positions false = List.range f.kcount := by simp [PassFl.positions, half]
  have columns : b = (List.range f.ncount).foldl f.addUq8 (a.seen f.slot f.dest) := by
    refine (congrArg Prod.fst run).symm.trans ?_
    unfold Accum.addPass
    simp only [own, single, homes, uq8, ↓reduceIte, List.foldl_cons, List.foldl_nil, counted, ite_self, positions, Nat.zero_add]
    rfl
  have hstep : ∀ c n, c.slots = a.slots → ∃ w, f.addUq8 c n =
      (c.setEntry f.slot f.dest n (c.entry f.slot f.dest n + BitVec.ofInt 64
        (((List.range f.kcount).map fun k => act k * wt k n).sum))).setSide f.slot f.dest n w := by
    intro c n slots
    have cls : c.cls f.slot = 0 := (Accum.cls_congr slots f.slot).trans uq8
    have sum := PassFl.column_uq8 (f := f) (ks := List.range f.kcount) (n := n) (act := act) (wt := fun k => wt k n)
      (fun k => PassFl.act_uq8 row (hact k)) fun k => PassFl.wt_uq8 match_ weights (hwt k n)
    unfold PassFl.addUq8
    dsimp only
    rw [Accum.addColumn_uq8 cls f.dest n sum]
    exact ⟨_, rfl⟩
  have final := uq8_columns hdest start hstep hcount
  rw [← columns] at final
  exact ⟨final.added, final.waiting, final.others, final.slots⟩

end Sys2Proof.Machine


/-! Descriptors that join their chains (O26). -/

namespace Sys2Proof.Machine

section
variable {x : DStream} {now off ready : Nat} {w : Word256} {bad : Bool} {buf : List (Nat × Nat × Word256 × Bool)}

theorem DStream.takeDesc_of_absent (h : ∀ e ∈ buf, e.1 ≠ x.next) : x.takeDesc buf now = (x, 0) := by
  have none : (buf.find? fun e => decide (e.1 = x.next)) = none :=
    List.find?_eq_none.2 fun e he => by simpa using h e he
  unfold DStream.takeDesc
  rw [none]

/-- What a held descriptor does, case by case. -/
theorem DStream.takeDesc_of_held (h : (buf.find? fun e => decide (e.1 = x.next)) = some (off, ready, w, bad)) :
    x.takeDesc buf now =
      (let y := { x with next := x.next + 32 }
       if decide (now < ready) || x.ended || decide (x.status = .idle) then (x, 0)
       else if w = 0 && !bad then ({ y with ended := true }, 0)
       else if x.ctx.isNone then (if !bad && ctxOk w then ({ y with ctx := some w }, 0) else (y, 1))
       else if !bad && descOk (x.ctx.getD 0) w then
         ({ y with lead := some (x.lead.getD (dSrc w, dDst w))
                   descs := x.descs ++ [{ at_ := x.next, word := w, src0 := dSrc w, dst0 := dDst w, src := dSrc w
                                          dst := dDst w, slot := none, held := none }] }, 0)
       else (y, 1)) := by
  have place : off = x.next := by simpa using List.find?_some h
  subst place
  unfold DStream.takeDesc
  rw [h]

/-- A descriptor that is not usable, or after the end of the chain, is not taken. -/
theorem DStream.takeDesc_of_waiting (h : (buf.find? fun e => decide (e.1 = x.next)) = some (off, ready, w, bad))
    (waits : now < ready ∨ x.ended = true ∨ x.status = .idle) : x.takeDesc buf now = (x, 0) := by
  rw [DStream.takeDesc_of_held h]
  exact if_pos (by simpa [or_assoc] using waits)

/-- A usable descriptor ends the chain, becomes its context, joins it, or is passed over. -/
theorem DStream.takeDesc_of_usable (h : (buf.find? fun e => decide (e.1 = x.next)) = some (off, ready, w, bad))
    (usable : ready ≤ now) (goes : x.ended = false) (busy : x.status ≠ .idle) :
    x.takeDesc buf now =
      (let y := { x with next := x.next + 32 }
       if w = 0 && !bad then ({ y with ended := true }, 0)
       else if x.ctx.isNone then (if !bad && ctxOk w then ({ y with ctx := some w }, 0) else (y, 1))
       else if !bad && descOk (x.ctx.getD 0) w then
         ({ y with lead := some (x.lead.getD (dSrc w, dDst w))
                   descs := x.descs ++ [{ at_ := x.next, word := w, src0 := dSrc w, dst0 := dDst w, src := dSrc w
                                          dst := dDst w, slot := none, held := none }] }, 0)
       else (y, 1)) := by
  rw [DStream.takeDesc_of_held h]
  exact if_neg (by simp [usable, goes, busy])

end

/-! ## All streams of a drover -/

theorem State.setDs_events_frame (s : State) (p : CoreNo) (d : DroverNo) (i : DStreamNo) (x : DStream) (es : List (Nat × Nat))
    (g : Option FoldNo) :
    onlyCore s ((s.setDs p d i x).events p es g) p ∧
      ((s.setDs p d i x).events p es g).cores[p].quiet = (s.cores[p].setDs d i x).quiet := by
  obtain ⟨only, quiet⟩ := State.events_frame (s.setDs p d i x) p es g
  refine ⟨onlyCore_trans (onlyCore_set s p _) only, quiet.trans ?_⟩
  exact congrArg Core.quiet (vmod_get_self s.cores p _)

/-- The core but for its drovers and what events change. -/
def Core.undrovered (c : Core) : Core := { c.quiet with drovers := Core.reset.drovers }

theorem Core.ds_congr {c e : Core} (h : c.quiet = e.quiet) : c.ds = e.ds := by
  have drovers := congrArg Core.drovers h
  change c.drovers = e.drovers at drovers
  unfold Core.ds
  rw [drovers]

/-- A pass over streams of a drover, each of which changes its own stream as `f` says. -/
theorem foldl_streams {p : CoreNo} {d : DroverNo} {step : State → DStreamNo → State} {s : State} {f : DStream → DStream}
    (each : ∀ u i, coresOnly s u → u.cores[p].undrovered = s.cores[p].undrovered → onlyCore u (step u i) p ∧
      (step u i).cores[p].quiet = (u.cores[p].setDs d i (f (u.ds p d i))).quiet) :
    ∀ l : List DStreamNo, l.Nodup → onlyCore s (l.foldl step s) p ∧
      (l.foldl step s).cores[p].undrovered = s.cores[p].undrovered ∧
      (∀ e i, ¬(e = d ∧ i ∈ l) → (l.foldl step s).ds p e i = s.ds p e i) ∧
      (∀ i ∈ l, (l.foldl step s).ds p d i = f (s.ds p d i)) := by
  intro l
  induction l using List.reverseRecOn with
  | nil => exact fun _ => ⟨onlyCore_refl s p, rfl, fun _ _ _ => rfl, fun _ h => absurd h List.not_mem_nil⟩
  | append_singleton l j ih =>
    intro distinct
    obtain ⟨distinct, -, apart⟩ := List.nodup_append.1 distinct
    obtain ⟨only, core, others, done⟩ := ih distinct
    have fresh : j ∉ l := fun h => apart j h j (List.mem_singleton.2 rfl) rfl
    rw [List.foldl_append, List.foldl_cons, List.foldl_nil]
    obtain ⟨only', quiet⟩ := each (l.foldl step s) j only.coresOnly core
    have ds : ∀ e i, (step (l.foldl step s) j).ds p e i =
        ((l.foldl step s).cores[p].setDs d j (f ((l.foldl step s).ds p d j))).ds e i :=
      fun e i => congrFun (congrFun (Core.ds_congr quiet) e) i
    refine ⟨onlyCore_trans only only', ?_, fun e i hi => ?_, fun i hi => ?_⟩
    · refine Eq.trans ?_ core
      exact congrArg (fun c : Core => { c with drovers := Core.reset.drovers }) quiet
    · rw [ds, Core.setDs_ds_other _ _ fun h => hi ⟨h.1, List.mem_append.2 (.inr (List.mem_singleton.2 h.2))⟩]
      exact others e i fun h => hi ⟨h.1, List.mem_append.2 (.inl h.2)⟩
    · rw [ds]
      obtain before | here := List.mem_append.1 hi
      · have differ : i ≠ j := fun same => fresh (same ▸ before)
        rw [Core.setDs_ds_other _ _ fun h => differ h.2]
        exact done i before
      · obtain rfl := List.mem_singleton.1 here
        rw [Core.setDs_ds_same, others d i fun h => fresh h.2]

/-- One stream of a drover takes what has become usable. -/
def State.serveStream (p : CoreNo) (d : DroverNo) (s : State) (i : DStreamNo) : State :=
  let x := s.ds p d i
  let q := x.takeDescs s.cores[p].dbufs[d] s.now 64
  let lost := match x.ctx, q.1.ctx with
    | none, some ctx => xRingOn ctx && !(s.cores[p].rings[xRing ctx]).enabled
    | _, _ => false
  (s.setDs p d i (q.1.settle s.tick.number.toNat)).events p [(0x26, q.2), (0x27, b2n lost)] x.fold

theorem State.descriptors_eq {s : State} {l p : CoreNo} (hp : s.phys l = some p) (d : DroverNo) :
    s.descriptors l d = (List.finRange 8).foldl (State.serveStream p d) s := by
  unfold State.descriptors
  rw [hp]
  rfl

/-- Settles O26, case by case for one descriptor, stream by stream for a drover. -/
theorem descriptorsJoinAndServe : Obligations.DescriptorsJoinAndServe := by
  unfold Obligations.DescriptorsJoinAndServe
  constructor
  · intro x now off ready w bad buf
    refine ⟨DStream.takeDesc_of_absent, fun held => ⟨DStream.takeDesc_of_waiting held, fun usable goes busy => ?_⟩⟩
    rw [DStream.takeDesc_of_usable held usable goes busy]
    refine ⟨fun zero good => by simp [zero, good], fun some_ => ?_⟩
    have notEnd : (decide (w = 0) && !bad) = false := by
      obtain h | h := some_
      · rw [decide_eq_false h]
        rfl
      · rw [h]
        exact Bool.and_false _
    dsimp only
    rw [notEnd]
    refine ⟨fun first good ok => ?_, fun first ill => ?_, fun ctx has good ok => ?_, fun ctx has ill => ?_⟩
    · simp [first, good, ok]
    · have : (!bad && ctxOk w) = false := by obtain h | h := ill <;> simp [h]
      simp [first, this]
    · simp [has, good, ok, dSrc, dDst]
    · have : (!bad && descOk ctx w) = false := by obtain h | h := ill <;> simp [h]
      simp [has, this]
  · intro s l p d hp
    refine ⟨s.descriptors l d, rfl, ?_⟩
    rw [State.descriptors_eq hp]
    have served : ∀ u i, coresOnly s u → u.cores[p].undrovered = s.cores[p].undrovered →
        onlyCore u (State.serveStream p d u i) p ∧ (State.serveStream p d u i).cores[p].quiet =
          (u.cores[p].setDs d i (((u.ds p d i).takeDescs s.cores[p].dbufs[d] s.now 64).1.settle s.tick.number.toNat)).quiet := by
      intro u i frame core
      have buffers := congrArg Core.dbufs core
      change u.cores[p].dbufs = s.cores[p].dbufs at buffers
      have now : u.now = s.now := by rw [frame]
      have tick : u.tick = s.tick := by rw [frame]
      rw [← buffers, ← now, ← tick]
      exact u.setDs_events_frame p d i _ _ _
    obtain ⟨only, core, others, done⟩ := foldl_streams
      (f := fun x => (x.takeDescs s.cores[p].dbufs[d] s.now 64).1.settle s.tick.number.toNat) served (List.finRange 8) (List.nodup_finRange 8)
    generalize (List.finRange 8).foldl (State.serveStream p d) s = t at only core others done ⊢
    refine ⟨only, fun i => done i (List.mem_finRange i), fun e i he => others e i fun h => he h.1, ?_⟩
    exact congrArg (fun c : Core => { c with drovers := t.cores[p].drovers }) core

end Sys2Proof.Machine


/-! Packets that land at their stamp: writes and posts (O32). -/

namespace Sys2Proof.Machine

/-! ## Pieces of a write -/

/-- A piece of a write of one 256 B row. -/
theorem rowPieces_within {off len : Nat} {y : Nat × Nat} (h : y ∈ rowPieces off len) :
    off ≤ y.1 ∧ 0 < y.2 ∧ y.1 + y.2 ≤ off + len ∧ y.1 % 4096 + y.2 ≤ 4096 := by
  unfold rowPieces at h
  split at h
  · exact absurd h List.not_mem_nil
  · obtain ⟨k, hk, rfl⟩ := List.mem_map.1 h
    have := List.mem_range.1 hk
    dsimp only
    omega

theorem rowPieces_length {off len : Nat} (h : len ≤ 512) : (rowPieces off len).length ≤ 8 := by
  unfold rowPieces
  split
  · exact Nat.zero_le _
  · rw [List.length_map, List.length_range]
    omega

theorem pagePieces_one {off : Nat} {bs : List MByte} (some_ : bs ≠ []) (fits : off % 4096 + bs.length ≤ 4096) :
    pagePieces off bs = [(off, bs)] := by
  unfold pagePieces
  dsimp only
  rw [if_pos (by omega)]
  simp [some_]

theorem countAt_countPut (l : List (Nat × Nat)) (now n : Nat) : countAt (countPut l now now n) now = n + countAt l now := by
  unfold countAt countPut
  have same : (l.filter fun x => decide (now ≤ x.1)).filter (fun x => decide (x.1 = now)) =
      l.filter fun x => decide (x.1 = now) := by
    rw [List.filter_filter]
    refine List.filter_congr fun x _ => ?_
    by_cases h : x.1 = now <;> simp [h]
  simp [same]

/-! ## Where a logical core stands -/

theorem State.phys_congr {s t : State} (h : ∀ p : CoreNo, t.cores[p].mode = s.cores[p].mode ∧
    t.cores[p].logical = s.cores[p].logical) (l : CoreNo) : t.phys l = s.phys l := by
  unfold State.phys
  exact congrArg (fun g => (List.finRange 32).find? g) (funext fun p => by rw [(h p).1, (h p).2])

/-- A change of one core that keeps the place of that core keeps every place. -/
theorem onlyCore.phys {s t : State} {p : CoreNo} (only : onlyCore s t p) (mode : t.cores[p].mode = s.cores[p].mode)
    (logical : t.cores[p].logical = s.cores[p].logical) (l : CoreNo) : t.phys l = s.phys l :=
  State.phys_congr (fun q => by
    by_cases h : q = p
    · subst h
      exact ⟨mode, logical⟩
    · rw [only.1 q h]
      exact ⟨rfl, rfl⟩) l

/-! ## Bytes stored -/

/-- Bytes that lie in one page of dynamic regions of the fold. -/
structure Storable (s : State) (f : FoldNo) (l : CoreNo) (off len : Nat) : Prop where
  ends : off + len ≤ dataEnd
  page : off % 4096 + len ≤ 4096
  region : ∀ a, off ≤ a → a < off + len → ∃ g, s.regionOf f l a = some g ∧ g.dynamic = true

theorem Storable.congr {s t : State} {f : FoldNo} {l : CoreNo} {off len : Nat} (h : Storable s f l off len)
    (same : t.folds[f].image = s.folds[f].image) : Storable t f l off len := by
  refine ⟨h.ends, h.page, fun a lo hi => ?_⟩
  unfold State.regionOf
  rw [same]
  exact h.region a lo hi

theorem Storable.inRegions {s : State} {f : FoldNo} {l : CoreNo} {off len : Nat} (h : Storable s f l off len) (pos : 0 < len) :
    s.inRegions f l off len = true := by
  obtain ⟨g, first, -⟩ := h.region off (le_refl _) (by omega)
  obtain ⟨g', last, -⟩ := h.region (off + len - 1) (by omega) (by omega)
  unfold State.inRegions
  rw [first, last, decide_eq_true h.ends]
  rfl

theorem Storable.not_static {s : State} {f : FoldNo} {l : CoreNo} {off len : Nat} (h : Storable s f l off len) (pos : 0 < len) :
    s.staticOf f l off = false := by
  obtain ⟨g, first, dynamic⟩ := h.region off (le_refl _) (by omega)
  unfold State.staticOf
  rw [first]
  simp [dynamic]

theorem State.onCore_frame (s : State) (p : CoreNo) (f : Core → Core) :
    onlyCore s (s.onCore p f) p ∧ (s.onCore p f).cores[p] = f s.cores[p] :=
  ⟨onlyCore_set s p _, by simp [State.onCore]⟩

/-- The core changed, and events of the cycle after it. -/
theorem State.onCore_events_frame (s : State) (p : CoreNo) (f : Core → Core) (es : List (Nat × Nat)) (g : Option FoldNo) :
    onlyCore s ((s.onCore p f).events p es g) p ∧ ((s.onCore p f).events p es g).cores[p].quiet = (f s.cores[p]).quiet := by
  obtain ⟨only, core⟩ := s.onCore_frame p f
  obtain ⟨only', quiet⟩ := (s.onCore p f).events_frame p es g
  exact ⟨onlyCore_trans only only', quiet.trans (congrArg Core.quiet core)⟩

section
variable {s : State} {f : FoldNo} {l p : CoreNo}

/-- Bytes of one page of a dynamic region are stored, and nothing else of the core changes but counts of events. -/
theorem State.storeAt_open (hp : s.phys l = some p) {off m : Nat} {bs : List MByte} (some_ : bs ≠ [])
    (page : off % 4096 + bs.length ≤ 4096) (inside : s.inRegions f l off bs.length = true) (dynamic : s.staticOf f l off = false)
    (own : List Nat) : onlyCore s (s.storeAt f l m off bs own).1 p ∧ (s.storeAt f l m off bs own).1.cores[p].quiet =
      { s.cores[p].quiet with pasture := s.cores[p].pasture.store m off bs } := by
  have filled : bs.isEmpty = false := by simpa using some_
  unfold State.storeAt
  rw [hp]
  simp only [filled, inside, pagePieces_one some_ page, dynamic, Bool.false_eq_true, ↓reduceIte, Bool.not_true, Bool.not_false,
    List.filter_cons_of_pos, List.filter_nil]
  exact s.onCore_events_frame p _ _ _

/-- Storable bytes are stored, and nothing else of the core changes but counts of events. -/
theorem State.storeAt_frame (hp : s.phys l = some p) {off : Nat} {bs : List MByte} (some_ : bs ≠ [])
    (open_ : Storable s f l off bs.length) (m : Nat) (own : List Nat) :
    onlyCore s (s.storeAt f l m off bs own).1 p ∧ (s.storeAt f l m off bs own).1.cores[p].quiet =
      { s.cores[p].quiet with pasture := s.cores[p].pasture.store m off bs } :=
  State.storeAt_open hp some_ open_.page (open_.inRegions (List.length_pos_iff.2 some_)) (open_.not_static (List.length_pos_iff.2 some_)) own

/-- A beat of a packet stores its bytes with one write beat. -/
theorem State.packetBeat_frame (hp : s.phys l = some p) (walks : s.cores[p].walks = [])
    (room : countAt s.cores[p].writeBeats s.now < 8) {off : Nat} {bs : List MByte} (some_ : bs ≠ [])
    (open_ : Storable s f l off bs.length) :
    onlyCore s (s.packetBeat p f l off bs) p ∧ (s.packetBeat p f l off bs).cores[p].quiet =
      { s.cores[p].quiet with
        pasture := s.cores[p].pasture.store s.now off bs
        writeBeats := countPut s.cores[p].writeBeats s.now s.now 1 } := by
  have free : s.cores[p].writesAt s.now = countAt s.cores[p].writeBeats s.now := by
    unfold Core.writesAt Core.walkBeats
    rw [walks]
    exact Nat.zero_add _
  unfold State.packetBeat
  rw [free, if_neg (by omega)]
  dsimp only
  obtain ⟨only, core⟩ := s.onCore_frame p fun c => c.takeWrites s.now s.now 1
  have hp' : (s.onCore p fun c => c.takeWrites s.now s.now 1).phys l = some p :=
    (only.phys (by rw [core]; rfl) (by rw [core]; rfl) l).trans hp
  obtain ⟨stored, quiet⟩ := State.storeAt_frame hp' some_ (open_.congr rfl)
    (s.onCore p fun c => c.takeWrites s.now s.now 1).now []
  obtain ⟨counted, quiet'⟩ := State.events_frame _ p [(0x07, 1)] (some f)
  refine ⟨onlyCore_trans only (onlyCore_trans stored counted), ?_⟩
  rw [quiet', quiet, core]
  rfl

/-- Beats one after another, as many as the cycle has write beats for. -/
theorem foldl_packetBeat {ι : Type} (off : ι → Nat) (bs : ι → List MByte) :
    ∀ (ys : List ι) {s : State}, s.phys l = some p → s.cores[p].walks = [] →
      countAt s.cores[p].writeBeats s.now + ys.length ≤ 8 → (∀ y ∈ ys, bs y ≠ [] ∧ Storable s f l (off y) (bs y).length) →
      onlyCore s (ys.foldl (fun s y => s.packetBeat p f l (off y) (bs y)) s) p ∧
        (ys.foldl (fun s y => s.packetBeat p f l (off y) (bs y)) s).cores[p].quiet =
          { s.cores[p].quiet with
            pasture := ys.foldl (fun m y => m.store s.now (off y) (bs y)) s.cores[p].pasture
            writeBeats := (ys.foldl (fun s y => s.packetBeat p f l (off y) (bs y)) s).cores[p].writeBeats } := by
  intro ys
  induction ys with
  | nil => exact fun _ _ _ _ => ⟨onlyCore_refl _ p, rfl⟩
  | cons y ys ih =>
    intro s hp walks room each
    rw [List.length_cons] at room
    obtain ⟨some_, open_⟩ := each y List.mem_cons_self
    obtain ⟨only, quiet⟩ := State.packetBeat_frame hp walks (by omega) some_ open_
    rw [List.foldl_cons, List.foldl_cons]
    have mode := congrArg Core.mode quiet
    have logical := congrArg Core.logical quiet
    have walks' := congrArg Core.walks quiet
    have beats := congrArg Core.writeBeats quiet
    have pasture := congrArg Core.pasture quiet
    generalize s.packetBeat p f l (off y) (bs y) = u at only quiet mode logical walks' beats pasture ⊢
    change u.cores[p].mode = s.cores[p].mode at mode
    change u.cores[p].logical = s.cores[p].logical at logical
    change u.cores[p].walks = s.cores[p].walks at walks'
    change u.cores[p].writeBeats = countPut s.cores[p].writeBeats s.now s.now 1 at beats
    change u.cores[p].pasture = s.cores[p].pasture.store s.now (off y) (bs y) at pasture
    have now : u.now = s.now := by rw [only.2]
    have folds : u.folds = s.folds := by rw [only.2]
    obtain ⟨only', quiet'⟩ := ih (s := u) ((only.phys mode logical l).trans hp) (walks'.trans walks)
      (by rw [beats, now, countAt_countPut]; omega)
      fun z hz => ⟨(each z (List.mem_cons_of_mem _ hz)).1, (each z (List.mem_cons_of_mem _ hz)).2.congr (by rw [folds])⟩
    refine ⟨onlyCore_trans only only', ?_⟩
    rw [quiet', now, pasture]
    exact congrArg (fun c : Core => { c with
      pasture := ys.foldl (fun m y => m.store s.now (off y) (bs y)) (s.cores[p].pasture.store s.now (off y) (bs y))
      writeBeats := (ys.foldl (fun (s : State) y => s.packetBeat p f l (off y) (bs y)) u).cores[p].writeBeats }) quiet

/-- A write that finds its core ready stores its bytes, row by row. -/
theorem State.writeAt_stores {addr : Word64} {bs : List MByte} (hp : s.phys (hCore addr) = some p)
    (here : s.absent (hCore addr) = false) (small : bs.length ≤ 512) (ok : storeOk s f p addr bs.length) :
    onlyCore s (s.writeAt f addr bs) p ∧ storedBy s (s.writeAt f addr bs) p (hOff addr) bs := by
  obtain ⟨decodes, memory, open_, walks, beats, recvs⟩ := ok
  have ends : hOff addr + bs.length ≤ dataEnd := by
    unfold addrOk at decodes
    rw [memory] at decodes
    exact of_decide_eq_true (Bool.and_eq_true_iff.1 decodes).2
  have recv : s.cores[p].recvBeat s.now = ({ s.cores[p] with recvs := countPut s.cores[p].recvs s.now s.now 1 }, true) := by
    unfold Core.recvBeat
    rw [recvs]
    rfl
  unfold State.writeAt
  simp only [hp, decodes, here, recv, memory, Bool.not_true, Bool.false_eq_true, ↓reduceIte, Nat.zero_ne_one]
  obtain ⟨only, quiet⟩ := State.events_frame
    { s with cores := s.cores.set p { s.cores[p] with recvs := countPut s.cores[p].recvs s.now s.now 1 } } p
    [(0x39, b2n false)] (some f)
  have only := onlyCore_trans (onlyCore_set s p _) only
  generalize State.events _ p [(0x39, b2n false)] (some f) = u at only quiet ⊢
  simp only [Fin.getElem_fin, Vector.getElem_set_self] at quiet
  have core : u.cores[p].quiet = { s.cores[p].quiet with recvs := countPut s.cores[p].recvs s.now s.now 1 } := quiet
  have mode := congrArg Core.mode core
  have logical := congrArg Core.logical core
  have walks' := congrArg Core.walks core
  have beats' := congrArg Core.writeBeats core
  have pasture := congrArg Core.pasture core
  change u.cores[p].mode = s.cores[p].mode at mode
  change u.cores[p].logical = s.cores[p].logical at logical
  change u.cores[p].walks = s.cores[p].walks at walks'
  change u.cores[p].writeBeats = s.cores[p].writeBeats at beats'
  change u.cores[p].pasture = s.cores[p].pasture at pasture
  have now : u.now = s.now := by rw [only.2]
  have folds : u.folds = s.folds := by rw [only.2]
  have each : ∀ y ∈ rowPieces (hOff addr) bs.length, (bs.drop (y.1 - hOff addr)).take y.2 ≠ [] ∧
      Storable u f (hCore addr) y.1 ((bs.drop (y.1 - hOff addr)).take y.2).length := by
    intro y hy
    obtain ⟨lo, pos, hi, page⟩ := rowPieces_within hy
    have length : ((bs.drop (y.1 - hOff addr)).take y.2).length = y.2 := by
      rw [List.length_take, List.length_drop]
      omega
    refine ⟨fun none => ?_, ?_⟩
    · rw [none] at length
      exact absurd length.symm (by simpa using Nat.ne_of_gt pos)
    · rw [length]
      refine ⟨by omega, page, fun a ha ha' => ?_⟩
      unfold State.regionOf
      rw [folds]
      exact open_ a (by omega) (by omega)
  obtain ⟨only', quiet'⟩ := foldl_packetBeat (f := f) (l := hCore addr) (fun y : Nat × Nat => y.1)
    (fun y => (bs.drop (y.1 - hOff addr)).take y.2) (rowPieces (hOff addr) bs.length) (s := u)
    ((only.phys mode logical _).trans hp) (walks'.trans walks)
    (by rw [beats', beats]; exact (Nat.zero_add _).trans_le (rowPieces_length small)) each
  refine ⟨onlyCore_trans only only', ?_⟩
  unfold storedBy
  rw [quiet', now, pasture]
  have recv := congrArg Core.recvs quiet'
  generalize (rowPieces (hOff addr) bs.length).foldl _ u = t at recv ⊢
  rw [show t.cores[p].recvs = u.cores[p].recvs from recv]
  exact congrArg (fun c : Core => { c with
    pasture := (rowPieces (hOff addr) bs.length).foldl (fun (m : Pasture) (y : Nat × Nat) =>
      m.store s.now y.1 ((bs.drop (y.1 - hOff addr)).take y.2)) s.cores[p].pasture
    recvs := u.cores[p].recvs
    writeBeats := t.cores[p].writeBeats }) core
end

/-! ## A packet that lands -/

/-- The state in which a packet takes its effect: it is held no longer and its entry is met. -/
def State.landed (s : State) (h : HeldPacket) (f : FoldNo) (n : Nat) : State := { s with
  hall := { s.hall with held := s.hall.held.erase h }
  folds := s.folds.set f { s.folds[f] with landed := n :: s.folds[f].landed } }

/-- Two records of a fold that differ in nothing that its image, its place or its run state is read from. -/
structure Fold.samePlace (x y : Fold) : Prop where
  image : y.image = x.image
  allot : y.allot = x.allot
  run : y.run = x.run

/-- Lists of folds that differ in nothing that images and places of folds are read from. -/
def State.sameFolds (s u : State) : Prop := ∀ g : FoldNo, s.folds[g].samePlace u.folds[g]

theorem State.sameFolds_set {s u : State} {f : FoldNo} {x : Fold} (folds : u.folds = s.folds.set f x)
    (image : x.image = s.folds[f].image) (allot : x.allot = s.folds[f].allot) (run : x.run = s.folds[f].run) :
    s.sameFolds u := by
  intro g
  rw [folds]
  by_cases h : g = f
  · subst h
    simp only [Fin.getElem_fin, Vector.getElem_set_self]
    exact ⟨image, allot, run⟩
  · rw [set_get_other _ _ _ _ h]
    exact ⟨rfl, rfl, rfl⟩

theorem State.landed_sameFolds (s : State) (h : HeldPacket) (f : FoldNo) (n : Nat) : s.sameFolds (s.landed h f n) :=
  State.sameFolds_set rfl rfl rfl rfl

/-- A packet whose entry is met and whose epoch is current takes its effect. -/
theorem State.landSched_current {s : State} {type : BitVec 4} {h : HeldPacket} {f : FoldNo} {n : Nat}
    (due : s.dueSched type = some (h, f, n)) (epoch : s.currentEpoch f h.2.2 = true)
    (placed : (s.phys (hCore h.2.2.addr)).isSome = true ∨ type = 2) (act : State → HeldPacket → FoldNo → State) :
    s.landSched type act = act (s.landed h f n) h f := by
  have taken : ((s.dropHeld h).currentEpoch f h.2.2 &&
      (((s.dropHeld h).phys (hCore h.2.2.addr)).isSome || decide (type = 2))) = true := by
    rw [Bool.and_eq_true_iff, Bool.or_eq_true_iff]
    exact ⟨epoch, placed.imp id fun h => decide_eq_true h⟩
  unfold State.landSched
  rw [due]
  dsimp only
  rw [if_pos taken]
  rfl

theorem storeOk_congr {s u : State} {f : FoldNo} {p : CoreNo} {addr : Word64} {n : Nat} (ok : storeOk s f p addr n)
    (cores : u.cores = s.cores) (section_ : u.sec? = s.sec?) (folds : s.sameFolds u) : storeOk u f p addr n := by
  have declared : u.declared = s.declared := by
    unfold State.declared
    rw [section_]
  have region : ∀ a, u.regionOf f (hCore addr) a = s.regionOf f (hCore addr) a := by
    intro a
    unfold State.regionOf
    rw [(folds f).image]
  unfold storeOk at ok ⊢
  rw [cores, declared]
  simp only [region]
  exact ok

/-! ## A handle that lands -/

section
variable {s : State} {f : FoldNo} {p : CoreNo} {addr : Word64} (hp : s.phys (hCore addr) = some p)
  (here : s.absent (hCore addr) = false) (decodes : addrOk s.declared addr 4 .post false = true)
  (x : Handle) (stamp : Nat)
include hp here decodes

theorem State.postAt_room (room : s.cores[p].gates[(Fin.ofNat 64 (hOff addr / 4) : GateNo)].full s.now = false) :
    s.postAt f addr x stamp = s.onCore p fun c => c.onGate (Fin.ofNat 64 (hOff addr / 4)) fun q => q.put x (stamp + 2) := by
  unfold State.postAt
  simp only [hp, here, decodes, room, Bool.not_true, Bool.false_eq_true, ↓reduceIte]

theorem State.postAt_full (full : s.cores[p].gates[(Fin.ofNat 64 (hOff addr / 4) : GateNo)].full s.now = true) :
    s.postAt f addr x stamp = s.events p [(0x38, 1)] f := by
  unfold State.postAt
  simp only [hp, here, decodes, full, Bool.not_true, Bool.false_eq_true, ↓reduceIte]

end

/-- The fold that an event counts for is the same. -/
theorem State.eventFold_congr {s u : State} (now : u.now = s.now) (tick : u.tick = s.tick) (section_ : u.sec? = s.sec?)
    (folds : s.sameFolds u) (l : Option CoreNo) (g : Option FoldNo) : u.eventFold l g = s.eventFold l g := by
  have at_ : ∀ l r, u.foldAt l r = s.foldAt l r := by
    intro l r
    unfold State.foldAt
    exact congrArg (fun g => (List.finRange 32).find? g) (funext fun f => by rw [(folds f).allot])
  unfold State.eventFold State.foldOf State.reserveAt State.rel
  rw [now, tick, section_]
  simp only [at_]

/-- What one event adds to the counters of its core. -/
theorem State.event_tally (s : State) (p : CoreNo) (code n : Nat) (pos : n ≠ 0) (g : Option FoldNo) :
    (s.events p [(code, n)] g).cores[p].tally =
      (s.cores[p].occur code n (s.eventFold (s.logicalOf p) g) 0 s.now).tally := by
  unfold State.events
  simp only [List.foldl_cons, List.foldl_nil, pos, ↓reduceIte]
  split <;> simp only [Fin.getElem_fin, vmod_get_self]

/-- Settles O32: a write stores its bytes row by row, a post goes into its gate or overflows. -/
theorem scheduledWritesAndPostsLand : Obligations.ScheduledWritesAndPostsLand := by
  unfold Obligations.ScheduledWritesAndPostsLand
  constructor
  · intro s h f n p due epoch hp here _ small ok
    let bs := packetBytes h.2.2
    have length : bs.length = h.2.2.payload.length := by
      show (packetBytes h.2.2).length = _
      unfold packetBytes
      rw [List.length_map, List.length_zipIdx]
    have landed : exec .schedWrite s = .next ((s.landed h f n).writeAt f h.2.2.addr bs) :=
      exec_next (State.landSched_current due epoch (.inl (by rw [hp]; rfl)) _)
    have ready : storeOk (s.landed h f n) f p h.2.2.addr bs.length :=
      storeOk_congr (s := s) (length.symm ▸ ok) rfl rfl (s.landed_sameFolds h f n)
    obtain ⟨only, stored⟩ := State.writeAt_stores (s := s.landed h f n) hp here (by rw [length]; omega) ready
    generalize (s.landed h f n).writeAt f h.2.2.addr bs = t at landed only stored
    have hall : t.hall = (s.landed h f n).hall := by rw [only.2]
    have folds : t.folds = (s.landed h f n).folds := by rw [only.2]
    refine ⟨t, landed, ?_, hall, folds, stored⟩
    rw [hall, folds]
    exact only
  · intro s h f n p g x due epoch hp here decodes hg hx
    subst hg hx
    let y : Handle := Handle.ofWord (BitVec.ofNat 32 (beAt h.2.2.payload 0 4))
    have landed : exec .schedPost s = .next ((s.landed h f n).postAt f h.2.2.addr
        { y with bad := y.bad || bitOf h.2.2.marks 0 } h.1) :=
      exec_next (State.landSched_current due epoch (.inl (by rw [hp]; rfl)) _)
    by_cases full : s.cores[p].gates[(Fin.ofNat 64 (hOff h.2.2.addr / 4) : GateNo)].full s.now = true
    · rw [State.postAt_full (s := s.landed h f n) hp here decodes _ _ full] at landed
      obtain ⟨only, quiet⟩ := (s.landed h f n).events_frame p [(0x38, 1)] (some f)
      have tally := (s.landed h f n).event_tally p 0x38 1 one_ne_zero (some f)
      generalize (s.landed h f n).events p [(0x38, 1)] (some f) = t at landed only quiet tally
      have hall : t.hall = (s.landed h f n).hall := by rw [only.2]
      have folds : t.folds = (s.landed h f n).folds := by rw [only.2]
      refine ⟨t, landed, ?_, hall, folds, fun room => absurd (room.symm.trans full) Bool.false_ne_true, fun _ => ⟨quiet, ?_⟩⟩
      · rw [hall, folds]
        exact only
      · rw [tally, s.event_tally p 0x38 1 one_ne_zero (some f),
          State.eventFold_congr (s := s) (u := s.landed h f n) rfl rfl rfl (s.landed_sameFolds h f n)]
        rfl
    · have room := Bool.eq_false_iff.2 full
      rw [State.postAt_room (s := s.landed h f n) hp here decodes _ _ room] at landed
      obtain ⟨only, core⟩ := (s.landed h f n).onCore_frame p fun c => c.onGate (Fin.ofNat 64 (hOff h.2.2.addr / 4)) fun q =>
        q.put { y with bad := y.bad || bitOf h.2.2.marks 0 } (h.1 + 2)
      exact ⟨_, landed, only, rfl, rfl, fun _ => core, fun h => absurd h full⟩

end Sys2Proof.Machine


/-! Scheduled read requests and responses (O33). -/

namespace Sys2Proof.Machine

/-! ## Requests -/

theorem State.inRegions_congr {s u : State} {f : FoldNo} (same : u.folds[f].image = s.folds[f].image) (l : CoreNo)
    (off len : Nat) : u.inRegions f l off len = s.inRegions f l off len := by
  unfold State.inRegions State.regionOf
  rw [same]

theorem State.flowOf_congr {s u : State} {f : FoldNo} (same : u.folds[f].image = s.folds[f].image) (control : Bool)
    (l : CoreNo) (m : BitVec 12) : u.flowOf f control l m = s.flowOf f control l m := by
  unfold State.flowOf
  rw [same]

theorem State.fencedOff_congr {s u : State} {f : FoldNo} (same : u.folds[f].run = s.folds[f].run) :
    u.fencedOff f = s.fencedOff f := by
  unfold State.fencedOff
  rw [same]

/-- A request answered at once with a packet of type 5, and counted. -/
def State.notServed (s : State) (f : FoldNo) (fl : Nat × Flow) (ret : Word64) (stamp : BitVec 32) : State :=
  (s.sendSched f fl 5 ret [] s.now (some stamp)).countFold f 15 1

theorem State.landed_notServed (s : State) (h : HeldPacket) (f : FoldNo) (n : Nat) (fl : Nat × Flow) (ret : Word64)
    (stamp : BitVec 32) : ∃ y : SchedTx, y.pkt.type = 5 ∧ y.pkt.addr = ret ∧ y.pkt.stamp = stamp ∧ y.pkt.payload = [] ∧
      y.flow = fl.1 ∧ (s.landed h f n).notServed f fl ret stamp = { s with
        hall := { s.hall with held := s.hall.held.erase h, tx := s.hall.tx ++ [y] }
        folds := s.folds.set f (({ s.folds[f] with landed := n :: s.folds[f].landed } : Fold).count 15 1) } := by
  unfold State.notServed State.sendSched State.countFold State.onFold
  extract_lets ready bytes tag k
  refine ⟨{ ready := ready, rein := fl.2.rein, pkt := k, fold := f, flow := fl.1, placed := 0 }, rfl, rfl, rfl, rfl, rfl, ?_⟩
  unfold State.landed vmod
  simp only [Fin.getElem_fin, Vector.getElem_set_self, Vector.set_set]
  rfl

/-- The rows that a core has taken in the running tick. -/
def State.rowsOf (s : State) (p : CoreNo) : Nat :=
  if s.cores[p].rowsTaken.1 = s.tick.number.toNat then s.cores[p].rowsTaken.2 else 0

theorem State.takeRow_eq (s : State) (p : CoreNo) : s.takeRow p =
    if s.reserveAt ≤ s.rowsOf p then (s, false)
    else (s.onCore p fun c => { c with rowsTaken := (s.tick.number.toNat, s.rowsOf p + 1) }, true) := rfl

section
variable {s : State} {h : HeldPacket} {f : FoldNo} {fl : Nat × Flow} {ret : Word64} {stamp : BitVec 32} {len : Nat}
  (hret : ret = BitVec.ofNat 64 (beAt h.2.2.payload 0 8)) (hstamp : stamp = BitVec.ofNat 32 (beAt h.2.2.payload 8 4))
  (hlen : len = beAt h.2.2.payload 12 2) (flow : s.flowOf f false (hCore h.2.2.addr) (hModule ret) = some fl)
include hret hstamp flow

/-- Towards an absent core or a fold that is fenced off no request is served. -/
theorem State.requestAt_closed (closed : s.absent (hCore h.2.2.addr) = true ∨ s.fencedOff f = true) :
    s.requestAt h f = s.notServed f fl ret stamp := by
  subst hret hstamp
  unfold State.requestAt
  dsimp only
  rw [flow]
  dsimp only
  cases s.phys (hCore h.2.2.addr) with
  | none => rfl
  | some p => exact if_pos closed

include hlen

/-- A request that is served or not: outside its regions or beyond the rows of the tick it is not. -/
theorem State.requestAt_open {p : CoreNo} (hp : s.phys (hCore h.2.2.addr) = some p)
    (here : s.absent (hCore h.2.2.addr) = false) (runs : s.fencedOff f = false)
    (decodes : addrOk s.declared h.2.2.addr len .read false = true) (memory : hSpace h.2.2.addr = 0) :
    s.requestAt h f =
      if !s.inRegions f (hCore h.2.2.addr) (hOff h.2.2.addr) len then s.notServed f fl ret stamp
      else if !(s.takeRow p).2 then (s.takeRow p).1.notServed f fl ret stamp
      else (s.takeRow p).1.onCore p fun c =>
        { c with gather := c.gather ++ [(s.unstamp stamp - fl.2.lambda - 58, h.2.2, s.now)] } := by
  subst hret hstamp hlen
  have now : (s.takeRow p).1.now = s.now := by
    rw [State.takeRow_eq]
    split <;> rfl
  unfold State.requestAt State.notServed
  simp only [flow, hp, here, runs, decodes, memory, now, Bool.false_eq_true, or_self, ↓reduceIte, Bool.not_true, decide_true,
    Bool.true_and]

end

theorem State.onCore_onCore (s : State) (p : CoreNo) (f g : Core → Core) :
    (s.onCore p f).onCore p g = s.onCore p fun c => g (f c) := by
  unfold State.onCore vmod
  simp only [Fin.getElem_fin, Vector.getElem_set_self, Vector.set_set]

/-! ## Responses -/

section
variable {s : State} {f : FoldNo} {addr : Word64} {p : CoreNo} {d : DroverNo} {i : DStreamNo} {k : Nat} {u : UnitFl}
  {b : BeatFl} {rest : List BeatFl}

/-- Bytes reach the first beat of the unit that waits for them. -/
theorem State.respondAt_eq (waits : s.waitingAt f addr = some (p, d, i, k)) (unit_ : (s.ds p d i).units[k]? = some u)
    (beats : u.beats = b :: rest) (bs : List MByte) :
    s.respondAt f addr bs = s.onCore p fun c => c.setDs d i { s.ds p d i with
      units := (s.ds p d i).units.set k { u with beats := { b with data := bs.take b.len } :: rest } } := by
  have units : ((s.ds p d i).units.modify k fun u =>
      { u with beats := u.beats.modifyHead fun b => { b with data := bs.take b.len } }) =
      (s.ds p d i).units.set k { u with beats := { b with data := bs.take b.len } :: rest } := by
    rw [List.modify_eq_set_getElem?, unit_]
    show (s.ds p d i).units.set k { u with beats := u.beats.modifyHead fun b => { b with data := bs.take b.len } } = _
    rw [beats]
    rfl
  unfold State.respondAt
  rw [waits]
  dsimp only
  rw [units]
  rfl

end

/-- Settles O33: a request by the branches of its service, a response by the unit that waits for it. -/
theorem scheduledReadsAreServed : Obligations.ScheduledReadsAreServed := by
  unfold Obligations.ScheduledReadsAreServed
  constructor
  · intro s h f n fl len ret stamp due epoch hret hstamp hlen flow x hx
    have same := s.landed_sameFolds h f n f
    have flow' := (State.flowOf_congr same.image false (hCore h.2.2.addr) (hModule ret)).trans flow
    have landed : exec .schedReadRequest s = .next ((s.landed h f n).requestAt h f) :=
      exec_next (State.landSched_current due epoch (.inr rfl) _)
    have regions := State.inRegions_congr same.image (hCore h.2.2.addr) (hOff h.2.2.addr) len
    constructor
    · intro p hp here runs decodes memory inside k hk rows
      have runs' := (State.fencedOff_congr same.run).trans runs
      subst hk
      have left := Nat.not_le.2 rows
      refine landed.trans ?_
      rw [State.requestAt_open (s := s.landed h f n) hret hstamp hlen flow' hp here runs' decodes memory, regions, inside,
        State.takeRow_eq, if_neg (show ¬(s.landed h f n).reserveAt ≤ (s.landed h f n).rowsOf p from left)]
      simp only [Bool.not_true, Bool.false_eq_true, ↓reduceIte, State.onCore_onCore]
      subst hx
      rfl
    · intro closed
      obtain ⟨y, type, addr, stamp', payload, number, result⟩ := s.landed_notServed h f n fl ret stamp
      rw [← hx] at result
      refine ⟨_, y, landed, type, addr, stamp', payload, number, Eq.trans ?_ result⟩
      by_cases off : s.absent (hCore h.2.2.addr) = true ∨ s.fencedOff f = true
      · exact State.requestAt_closed (s := s.landed h f n) hret hstamp flow'
          (off.imp id fun h => (State.fencedOff_congr same.run).trans h)
      · obtain ⟨here, runs⟩ := not_or.1 off
        obtain absent | fenced | ⟨p, hp, decodes, memory, outside⟩ := closed
        · exact absurd absent here
        · exact absurd fenced runs
        · have runs' := (State.fencedOff_congr same.run).trans (Bool.eq_false_iff.2 runs)
          rw [State.requestAt_open (s := s.landed h f n) hret hstamp hlen flow' hp (Bool.eq_false_iff.2 here) runs' decodes
            memory, regions]
          obtain out | ⟨tick, rows⟩ := outside
          · rw [out]
            rfl
          · have none : (s.landed h f n).reserveAt ≤ (s.landed h f n).rowsOf p :=
              (show s.rowsOf p = s.cores[p].rowsTaken.2 from if_pos tick) ▸ rows
            rw [State.takeRow_eq, if_pos none]
            exact ite_self _
  · intro s h f n k p d i u b rest bs type c hc due epoch placed waits unit_ beats
    have waits' : (s.landed h f n).waitingAt f h.2.2.addr = some (p, d, i, k) := waits
    have reached := State.respondAt_eq (s := s.landed h f n) waits' unit_ beats
    obtain ⟨hq, hp⟩ := (s.landed h f n).onCore_frame p fun c => c.setDs d i { s.ds p d i with
      units := (s.ds p d i).units.set k { u with beats := { b with data := bs.take b.len } :: rest } }
    obtain ⟨rfl, rfl, rfl⟩ | ⟨rfl, rfl, rfl⟩ := hc
    · refine ⟨_, exec_next ((State.landSched_current due epoch (.inl placed) _).trans (reached _)), hq.1, hp, rfl, ?_, fun g hg => set_get_other _ _ _ _ hg,
        fun e => absurd e (by decide), fun _ => ?_, rfl⟩ <;>
      simp [State.onCore, State.landed]
    · have ended := exec_next (c := .schedNotServed) ((State.landSched_current due epoch (.inl placed) _).trans
        (congrArg (fun t : State => t.packetFault f (hCore h.2.2.addr) 16 3) (reached _)))
      refine ⟨_, ended, hq.1, hp, rfl, ?_, fun g hg => ?_, fun _ => ?_, fun e => absurd e (by decide), rfl⟩
      · simp [State.packetFault, State.summary, State.countFold, State.onFold, State.onCore, State.landed, Fold.count]
      · exact (vmod_get_other _ _ _ _ hg).trans (set_get_other _ _ _ _ hg)
      · simp [State.packetFault, State.summary, State.countFold, State.onFold, State.onCore, State.landed, Fold.count]

end Sys2Proof.Machine


/-! Packets held, dropped and replaced (O31). -/

namespace Sys2Proof.Machine

/-! ## Stamps -/

theorem fld_ofNat_high {a b : Nat} (ha : a < 16) (hb : b < 2 ^ 28) : fld (BitVec.ofNat 32 (a * 2 ^ 28 + b)) 28 4 = a := by
  unfold fld fldN
  rw [BitVec.toNat_ofNat]
  omega

theorem fld_ofNat_low {a b : Nat} (hb : b < 2 ^ 28) : fld (BitVec.ofNat 32 (a * 2 ^ 28 + b)) 0 28 = b := by
  unfold fld fldN
  rw [BitVec.toNat_ofNat]
  omega

/-- A stamp at most eight ticks ahead names its cycle. -/
theorem State.unstamp_stamp {s : State} {c : Nat} (pos : 0 < s.period) (small : s.period < 2 ^ 28)
    (lo : s.tick.instant ≤ c) (hi : c < s.tick.instant + 8 * s.period) : s.unstamp (s.stamp c) = c := by
  obtain ⟨r, rfl⟩ := Nat.exists_eq_add_of_le lo
  have split_ := Nat.div_add_mod r s.period
  have below := Nat.mod_lt r pos
  have ahead : r / s.period < 8 := (Nat.div_lt_iff_lt_mul pos).2 (by omega)
  have rest : r - r / s.period * s.period = r % s.period := by rw [Nat.mul_comm]; omega
  unfold State.unstamp State.stamp
  simp only [Nat.add_sub_cancel_left, Nat.ne_of_gt pos, ↓reduceIte, rest]
  rw [fld_ofNat_high (Nat.mod_lt _ (by decide)) (by omega), fld_ofNat_low (by omega)]
  generalize r / s.period = q at *
  have ticks : (((((s.tick.number.toNat + q) % 16 : Nat) : Int) - s.tick.number.toNat) % 16) = q := by omega
  rw [ticks, if_neg (by omega)]
  have product : (q : Int) * s.period = ((s.period * q : Nat) : Int) := by push_cast; ring
  rw [product]
  omega

/-! ## Packets that are dropped -/

/-- A packet error changes one counter of its fold and the log. -/
theorem State.packetFault_eq (s : State) (f : FoldNo) (l : CoreNo) (i : Fin 23) (kind : Nat) :
    s.packetFault f l i kind = { s with
      folds := s.folds.set f (s.folds[f].count i 1), log := (s.packetFault f l i kind).log
      ctrs := (s.packetFault f l i kind).ctrs } := rfl

/-- A state after mail of a fold: the hall and the folds may differ, but not what is held, and of the folds that one's count of lost
mail alone. -/
inductive State.mailedFor (s : State) (f : FoldNo) (t : State) : Prop
  | sent (hall : Hall) (folds : Vector Fold 32) (frame : t = { s with hall := hall, folds := folds }) (held : hall.held = s.hall.held)
      (lost : folds = s.folds ∨ folds = s.folds.set f (s.folds[f].count 17 1))

/-- What mail sent for a fold changes: the hall, and one counter of the fold when it has no way to go. -/
theorem State.sendMail_frame (s : State) (f : FoldNo) (kind : Nat) (bad : Bool) (dst : BitVec 12) (dstTag epoch : BitVec 16)
    (reference : BitVec 32) (addr : Word64) (payload : List Byte) :
    s.mailedFor f (s.sendMail (some f) kind bad dst dstTag epoch reference addr payload) := by
  unfold State.sendMail
  extract_lets srcTag m src number lost
  cases next : s.nextHop dst with
  | none => exact ⟨number, _, rfl, rfl, .inr rfl⟩
  | some r =>
    dsimp only
    have held : (number.enqueue r m).1.held = s.hall.held := by
      unfold Hall.enqueue
      dsimp only
      split <;> rfl
    split
    · exact ⟨_, s.folds, rfl, held, .inl rfl⟩
    · exact ⟨_, _, rfl, held, .inr rfl⟩

/-- Mail for a neighbour with room in its queue is queued. -/
theorem State.sendMail_queued {s : State} {f : FoldNo} {dst : BitVec 12} {r : Fin 12} (next : s.nextHop dst = some r)
    {payload : List Byte} (room : ((s.hall.queues[r] : List MailMsg).map mailSize).sum + (32 + payload.length) ≤ 2 ^ 20)
    (kind : Nat) (bad : Bool) (dstTag epoch : BitVec 16) (reference : BitVec 32) (addr : Word64) :
    ∃ m : MailMsg, s.sendMail (some f) kind bad dst dstTag epoch reference addr payload = { s with hall := { s.hall with
        number := s.hall.number + 1, queues := s.hall.queues.set r (s.hall.queues[r] ++ [m]) } } ∧
      m.kind = BitVec.ofNat 8 kind ∧ m.dstModule = dst ∧ m.epoch = epoch ∧ m.addr = addr := by
  unfold State.sendMail
  extract_lets srcTag m src number lost
  have fits : number.enqueue r m = ({ number with queues := s.hall.queues.set r (s.hall.queues[r] ++ [m]) }, true) :=
    if_pos room
  refine ⟨m, ?_, rfl, rfl, rfl, rfl⟩
  simp only [next, fits, ↓reduceIte]
  rfl

/-! ## Packets of an old epoch -/

section
variable {s : State} {h : HeldPacket} {f : FoldNo}

/-- The state in which a stale packet has been discarded and counted. -/
def State.stale (s : State) (h : HeldPacket) (f : FoldNo) : State :=
  (s.dropHeld h).packetFault f (hCore h.2.2.addr) 11 1

theorem State.landSched_stale {type : BitVec 4} {n : Nat} (due : s.dueSched type = some (h, f, n))
    (old : s.currentEpoch f h.2.2 = false) (act : State → HeldPacket → FoldNo → State) :
    s.landSched type act = (s.dropHeld h).staleSched f h := by
  have dropped : ((s.dropHeld h).currentEpoch f h.2.2 &&
      (((s.dropHeld h).phys (hCore h.2.2.addr)).isSome || decide (type = 2))) = false :=
    Bool.and_eq_false_imp.2 fun current => absurd (current.symm.trans old) (by decide)
  unfold State.landSched
  rw [due]
  dsimp only
  rw [if_neg (Bool.not_eq_true _ ▸ dropped)]

/-- Its sender is told while its core is there. -/
theorem State.staleSched_eq : (s.dropHeld h).staleSched f h =
    if (s.phys (hCore h.2.2.addr)).isNone then s.stale h f
    else (s.stale h f).sendMail (some f) 5 false h.2.1 h.2.2.tag (s.stale h f).folds[f].epochs[hCore h.2.2.addr] 0
      h.2.2.addr [] := rfl

theorem State.stale_fold : (s.stale h f).folds[f] = s.folds[f].count 11 1 := by
  show (vmod s.folds f fun x => x.count 11 1)[f] = _
  simp

theorem Fold.count_other (x : Fold) {i j : Fin 23} (n : Nat) (differ : j ≠ i) : (x.count i n).ctrs[j] = x.ctrs[j] :=
  vmod_get_other _ _ _ _ differ

theorem Fold.count_same (x : Fold) (i : Fin 23) (n : Nat) : (x.count i n).ctrs[i] = (x.ctrs[i] : Ctr).add n := by
  show (vmod x.ctrs i fun c => c.add n)[i] = _
  simp

end

/-! ## What a landing leaves of the folds -/

theorem onlyCore.folds {s t : State} {p : CoreNo} (h : onlyCore s t p) : t.folds = s.folds := by rw [h.2]

theorem State.events_folds (s : State) (p : CoreNo) (es : List (Nat × Nat)) (g : Option FoldNo) :
    (s.events p es g).folds = s.folds := (s.events_frame p es g).1.folds

theorem State.storeAt_folds (s : State) (f : FoldNo) (l : CoreNo) (m off : Nat) (bs : List MByte) (own : List Nat) :
    (s.storeAt f l m off bs own).1.folds = s.folds := by
  unfold State.storeAt
  split
  · rfl
  · split
    · rfl
    · split
      · exact s.events_folds ..
      · exact State.events_folds ..

theorem State.packetBeat_folds (s : State) (p : CoreNo) (f : FoldNo) (l : CoreNo) (off : Nat) (bs : List MByte) :
    (s.packetBeat p f l off bs).folds = s.folds := by
  unfold State.packetBeat
  split
  · exact s.events_folds ..
  · exact (State.events_folds ..).trans (State.storeAt_folds ..)

theorem State.writeAt_folds (s : State) (f : FoldNo) (addr : Word64) (bs : List MByte) : (s.writeAt f addr bs).folds = s.folds := by
  unfold State.writeAt
  dsimp only
  split
  · rfl
  · split
    · exact s.events_folds ..
    · split
      · rfl
      · generalize (if (Core.recvBeat _ _).2 = true then bs else zerosBad bs.length) = bytes
        split
        · split
          · exact (State.onCoreE_frame ..).1.folds.trans (State.events_folds ..)
          · exact (State.events_folds ..).trans (State.events_folds ..)
        · exact foldl_keep (fun t : State => t.folds = s.folds) _ (fun t y kept => (t.packetBeat_folds ..).trans kept) _ _
            (State.events_folds ..)

theorem State.postAt_folds (s : State) (f : FoldNo) (addr : Word64) (x : Handle) (stamp : Nat) :
    (s.postAt f addr x stamp).folds = s.folds := by
  unfold State.postAt
  cases s.phys (hCore addr) with
  | none => rfl
  | some p =>
    dsimp only
    split
    · exact s.events_folds ..
    · split
      · rfl
      · split
        · exact s.events_folds ..
        · rfl

theorem State.respondAt_folds (s : State) (f : FoldNo) (addr : Word64) (bs : List MByte) :
    (s.respondAt f addr bs).folds = s.folds := by
  unfold State.respondAt
  split <;> rfl

theorem State.substitute_folds (s : State) (f : FoldNo) (e : Landing) : (s.substitute f e).folds = s.folds := by
  unfold State.substitute
  dsimp only
  split
  · exact s.writeAt_folds ..
  · split
    · exact s.respondAt_folds ..
    · split
      · exact s.postAt_folds ..
      · rfl

/-! ## Substitutes -/

section
variable {s : State} {l : CoreNo} {f : FoldNo} {n : Nat} {e : Landing}

/-- The state in which an entry is met by its substitute. -/
def State.met (s : State) (f : FoldNo) (n : Nat) : State := { s with
  folds := s.folds.set f (({ s.folds[f] with landed := n :: s.folds[f].landed } : Fold).count 14 1) }

theorem State.met_sameFolds (s : State) (f : FoldNo) (n : Nat) : s.sameFolds (s.met f n) := State.sameFolds_set rfl rfl rfl rfl

theorem State.substituteOp_eq (h : s.missing l = some (f, n, e)) : s.substituteOp l = (s.met f n).substitute f e := by
  unfold State.substituteOp
  rw [h]
  dsimp only
  refine congrArg (fun u : State => u.substitute f e) ?_
  unfold State.countFold State.meetEntry State.onFold State.met vmod
  simp only [Fin.getElem_fin, Vector.getElem_set_self, Vector.set_set]

theorem State.substitute_write (h : e.type = 1) : s.substitute f e = s.writeAt f e.addr (zerosBad (32 * e.units.toNat)) :=
  if_pos h

theorem State.substitute_post {i : FoldImage} {r : GateRec} (h : e.type = 4) (image : s.folds[f].image = some i)
    (record : (i.gates.find? fun r => decide (r.core = e.core) && decide (r.gate = (Fin.ofNat 64 (hOff e.addr / 4) : GateNo))) =
      some r) :
    s.substitute f e = s.postAt f e.addr { bad := true, tag := 0, buffer := BitVec.ofNat 23 r.standIn }
      (s.tick.instant + e.stamp) := by
  unfold State.substitute
  simp only [h, image, record]
  rfl

end

theorem exec_stale {s : State} {type : BitVec 4} {c : Instr} {h : HeldPacket} {f : FoldNo} {n : Nat}
    (hc : (c, type) ∈ [(Instr.schedWrite, (1 : BitVec 4)), (.schedReadRequest, 2), (.schedReadResponse, 3), (.schedPost, 4),
      (.schedNotServed, 5)]) (due : s.dueSched type = some (h, f, n)) (old : s.currentEpoch f h.2.2 = false) :
    exec c s = .next ((s.dropHeld h).staleSched f h) := by
  have stale := State.landSched_stale due old
  simp only [List.mem_cons, List.not_mem_nil, or_false, Prod.mk.injEq] at hc
  rcases hc with ⟨rfl, rfl⟩ | ⟨rfl, rfl⟩ | ⟨rfl, rfl⟩ | ⟨rfl, rfl⟩ | ⟨rfl, rfl⟩
  · exact exec_next (stale _)
  · exact exec_next (stale _)
  · exact exec_next (stale _)
  · exact exec_next (stale _)
  · exact exec_next (stale _)

/-- Settles O31: by what becomes of a packet when it arrives, when its entry is missed, and when nothing expects it. -/
theorem packetsAreHeldDroppedOrReplaced : Obligations.PacketsAreHeldDroppedOrReplaced := by
  unfold Obligations.PacketsAreHeldDroppedOrReplaced
  refine ⟨fun s c => State.unstamp_stamp, fun s p k => ⟨fun early => ?_, fun late => ⟨fun f hf => ?_, fun none => ?_⟩⟩,
    fun s l p => ⟨fun none => ?_, fun f n e missing => ?_, fun f n e missing hp here x hx => ?_⟩,
    fun s h f found hf => ?_, fun s type c h f n hc due old => ?_⟩
  · exact exec_next (if_neg (Nat.not_lt.2 early))
  · refine ⟨s.packetFault f (hCore k.addr) 13 0, exec_next ((if_pos late).trans ?_), s.packetFault_eq ..⟩
    rw [hf]
  · refine exec_next ((if_pos late).trans ?_)
    rw [none]
  · refine exec_next (t := s.substituteOp l) ?_
    unfold State.substituteOp
    rw [none]
  · refine ⟨_, exec_next (State.substituteOp_eq missing), ?_⟩
    exact State.substitute_folds ..
  · subst hx
    have met : exec (.landingSubstitute l) s = .next ((s.met f n).substitute f e) := exec_next (State.substituteOp_eq missing)
    constructor
    · intro type _ ok
      rw [State.substitute_write type] at met
      have ready : storeOk (s.met f n) f p e.addr (zerosBad (32 * e.units.toNat)).length := by
        rw [show (zerosBad (32 * e.units.toNat)).length = 32 * e.units.toNat from List.length_replicate]
        exact storeOk_congr ok rfl rfl (s.met_sameFolds f n)
      have small : (zerosBad (32 * e.units.toNat)).length ≤ 512 := by
        rw [show (zerosBad (32 * e.units.toNat)).length = 32 * e.units.toNat from List.length_replicate]
        have := e.units.isLt
        omega
      exact ⟨_, met, State.writeAt_stores (s := s.met f n) hp here small ready⟩
    · intro i r g type hg image record decodes room
      subst hg
      rw [State.substitute_post type ((s.met_sameFolds f n f).image.trans image) record,
        State.postAt_room (s := s.met f n) hp here decodes _ _ room] at met
      exact met
  · refine ⟨(s.dropHeld h).packetFault f (hCore h.2.2.addr) 12 2, exec_next (t := s.unexpectedOp) ?_, rfl⟩
    unfold State.unexpectedOp
    rw [found]
    dsimp only
    rw [show (s.dropHeld h).foldByTag h.2.2.tag = some f from hf]
  · have stale := exec_stale hc due old
    rw [State.staleSched_eq] at stale
    have counted : (s.stale h f).folds[f].ctrs[11] = (s.folds[f].ctrs[11] : Ctr).add 1 := by
      rw [State.stale_fold]
      exact Fold.count_same ..
    have landed : (s.stale h f).folds[f].landed = s.folds[f].landed := by
      rw [State.stale_fold]
      rfl
    cases hp : s.phys (hCore h.2.2.addr) with
    | none =>
      rw [hp] at stale
      exact ⟨_, stale, rfl, rfl, counted, landed, fun _ => rfl, fun r h => Bool.noConfusion h, rfl⟩
    | some p =>
      rw [hp] at stale
      have told := stale.trans (congrArg Host.Outcome.next (if_neg Bool.false_ne_true))
      obtain ⟨hall, folds, sent, held, lost⟩ := (s.stale h f).sendMail_frame f 5 false h.2.1 h.2.2.tag
        (s.stale h f).folds[f].epochs[hCore h.2.2.addr] 0 h.2.2.addr []
      refine ⟨{ s.stale h f with hall := hall, folds := folds }, told.trans (congrArg _ sent), rfl, held, ?_, ?_, nofun, ?_, rfl⟩
      · obtain rfl | rfl := lost
        · exact counted
        · simp only [Fin.getElem_fin, Vector.getElem_set_self]
          exact (Fold.count_other (i := 17) (j := 11) _ _ (by decide)).trans counted
      · obtain rfl | rfl := lost
        · exact landed
        · simp only [Fin.getElem_fin, Vector.getElem_set_self]
          exact landed
      · intro r _ next room
        obtain ⟨a, queued, kind, dst, epoch, addr⟩ := State.sendMail_queued (s := s.stale h f) (f := f) (payload := [])
          next room 5 false h.2.2.tag (s.stale h f).folds[f].epochs[hCore h.2.2.addr] 0 h.2.2.addr
        refine ⟨a, ?_, kind, dst, ?_, addr⟩
        · exact congrArg State.hall (sent.symm.trans queued)
        · rw [epoch, State.stale_fold]
          rfl

end Sys2Proof.Machine


/-! When an instruction issues and where its stream goes on (O12). -/

namespace Sys2Proof.Machine

/-! ## Streams of a core -/

@[simp] theorem Core.stream_setStream (c : Core) (i : Issuer) (t : Stream) : (c.setStream i t).stream i = t := by
  cases i with
  | thread j => exact Vector.getElem_set_self _
  | _ => rfl

@[simp] theorem Core.setStream_setStream (c : Core) (i : Issuer) (t u : Stream) :
    (c.setStream i t).setStream i u = c.setStream i u := by
  cases i with
  | thread j => simp [Core.setStream]
  | _ => rfl

/-! ## What an instruction needs to issue -/

/-- The issue slot of a stream: a thread has one cycle in eight of its section, the currier stream none while a section is
open. -/
def State.slotOpen (s : State) (p : CoreNo) : Issuer → Bool
  | .thread j => decide (s.rel % 8 = j.val) &&
      (s.cores[p].currier.sec?.any fun k => decide (s.now < k.issue + 8 + k.len))
  | .currier => s.cores[p].currier.sec?.isNone
  | _ => true

/-- The cycles that the delay of a word counts: a thread's are slots of eight. -/
def delayCycles (i : Issuer) (w : Word128) : Nat := slotCycles i * delayOf w

theorem State.ready_of_phys {s : State} {l p : CoreNo} (hp : s.phys l = some p) (i : Issuer) :
    s.ready l i =
      (let t := s.cores[p].stream i
       let w := t.modified (s.cores[p].nextWord i)
       if t.running && decide (t.wait = .none) && t.active.isNone && s.slotOpen p i &&
           decide (t.base + delayCycles i w ≤ s.now) && (opFree (opcodeOf w) || decide (t.floor ≤ s.now)) &&
           decide (s.rel < s.reserveAt) then some (p, w) else none) := by
  unfold State.ready
  rw [hp]
  cases i with
  | thread j =>
    unfold State.slotOpen delayCycles slotCycles
    dsimp only
    cases s.cores[p].currier.sec? <;> rfl
  | matrix => simp [State.slotOpen, delayCycles, slotCycles]
  | currier => simp [State.slotOpen, delayCycles, slotCycles]
  | drover => simp [State.slotOpen, delayCycles, slotCycles]

theorem State.ready_of_none {s : State} {l : CoreNo} (hp : s.phys l = none) (i : Issuer) : s.ready l i = none := by
  unfold State.ready
  rw [hp]

theorem State.issuing_iff {s : State} {l p : CoreNo} {i : Issuer} {op : Nat} {w : Word128} :
    s.issuing l i op = some (p, w) ↔
      s.phys l = some p ∧ w = (s.cores[p].stream i).modified (s.cores[p].nextWord i) ∧ opcodeOf w = op ∧
      (s.cores[p].stream i).running = true ∧ (s.cores[p].stream i).wait = .none ∧
      (s.cores[p].stream i).active = none ∧ s.slotOpen p i = true ∧ (s.cores[p].stream i).base + delayCycles i w ≤ s.now ∧
      (op = 0xC1 ∨ op = 0xC4 ∨ (s.cores[p].stream i).floor ≤ s.now) ∧ s.rel < s.reserveAt := by
  unfold State.issuing
  rw [Option.filter_eq_some_iff, decide_eq_true_iff]
  constructor
  · rintro ⟨ready, rfl⟩
    cases hq : s.phys l with
    | none =>
      rw [State.ready_of_none hq] at ready
      exact absurd ready (by simp)
    | some q =>
      rw [State.ready_of_phys hq] at ready
      obtain ⟨cond, same⟩ := Option.ite_none_right_eq_some.1 ready
      obtain ⟨rfl, rfl⟩ := Prod.mk.inj (Option.some.inj same)
      simp only [Bool.and_eq_true_iff, decide_eq_true_iff, Bool.or_eq_true_iff, opFree, Option.isNone_iff_eq_none] at cond
      obtain ⟨⟨⟨⟨⟨⟨running, wait⟩, active⟩, slot⟩, base⟩, floor⟩, rel⟩ := cond
      exact ⟨rfl, rfl, rfl, running, wait, active, slot, base, or_assoc.1 floor, rel⟩
  · rintro ⟨hp, rfl, rfl, running, wait, active, slot, base, floor, rel⟩
    refine ⟨?_, rfl⟩
    rw [State.ready_of_phys hp]
    refine if_pos ?_
    simp only [Bool.and_eq_true_iff, decide_eq_true_iff, Bool.or_eq_true_iff, opFree, Option.isNone_iff_eq_none]
    exact ⟨⟨⟨⟨⟨⟨running, wait⟩, active⟩, slot⟩, base⟩, or_assoc.2 floor⟩, rel⟩

theorem State.phys_of_issuing {s : State} {l p : CoreNo} {i : Issuer} {op : Nat} {w : Word128}
    (h : s.issuing l i op = some (p, w)) : s.phys l = some p := (State.issuing_iff.1 h).1

/-! ## The stream after an instruction -/

section
variable {t : Stream} (issue occ : Nat)

/-- Outside a branch a stream goes on with its loops. -/
theorem Stream.advance_of_plain (plain : t.branch = none) : t.advance issue occ = { t with
    next := (closeLoops (t.next + 16) t.loops).2.1
    base := issue + occ + (closeLoops (t.next + 16) t.loops).2.2
    floor := 0
    lastIssue := issue
    loops := (closeLoops (t.next + 16) t.loops).1 } := by
  unfold Stream.advance
  simp only [plain]

theorem closeLoops_open {next : Nat} {l : List LoopFrame} (h : ∀ g ∈ l.head?, next ≠ g.body + 16 * g.len) :
    closeLoops next l = (l, next, 0) := by
  cases l with
  | nil => rfl
  | cons g r => exact if_neg (h g rfl)

theorem closeLoops_round {next : Nat} {g : LoopFrame} {r : List LoopFrame} (ends : next = g.body + 16 * g.len)
    (more : g.index + 1 < g.trip) :
    closeLoops next (g :: r) = ({ g with index := g.index + 1 } :: r, g.body, if 256 < g.len then 12 else 0) :=
  (if_pos ends).trans (if_pos more)

theorem closeLoops_left {next : Nat} {g : LoopFrame} {r : List LoopFrame} (ends : next = g.body + 16 * g.len)
    (last : g.trip ≤ g.index + 1) : closeLoops next (g :: r) = closeLoops next r :=
  (if_pos ends).trans (if_neg (Nat.not_lt.2 last))

end

/-- Settles O12: the conditions of issue one by one, the stream after it by its loops and its branch. -/
theorem issueKeepsItsTime : Obligations.IssueKeepsItsTime := by
  unfold Obligations.IssueKeepsItsTime
  refine ⟨fun s l p i op w plain => ?_, fun s l p j op w => ?_, ⟨fun t issue occ plain => ?_, fun t b issue occ hb none => ?_⟩,
    fun s l i => ?_⟩
  · have delay : delayCycles i w = delayOf w := by
      cases i with
      | thread j => exact absurd rfl (plain j)
      | _ => exact Nat.one_mul _
    have slot : s.slotOpen p i = true ↔ (i = .currier → s.cores[p].currier.sec? = none) := by
      cases i with
      | thread j => exact absurd rfl (plain j)
      | currier => simp [State.slotOpen]
      | _ => exact ⟨nofun, fun _ => rfl⟩
    rw [State.issuing_iff, delay, slot]
    tauto
  · have slot : s.slotOpen p (.thread j) = true ↔
        s.rel % 8 = j.val ∧ ∃ k, s.cores[p].currier.sec? = some k ∧ s.now < k.issue + 8 + k.len := by
      simp [State.slotOpen, Option.any_eq_true]
    rw [State.issuing_iff, slot, show delayCycles (.thread j) w = 8 * delayOf w from rfl]
    tauto
  · rw [Stream.advance_of_plain issue occ plain]
    refine ⟨rfl, rfl, rfl, rfl, fun none => by rw [none]; exact ⟨rfl, rfl, rfl⟩, fun f r hf => ?_⟩
    rw [hf]
    refine ⟨fun open_ => ?_, fun ends more => ?_, fun ends last outer => ?_, fun ends last => ?_⟩
    · rw [closeLoops_open (fun g hg => by obtain rfl := Option.some.inj hg; exact open_)]
      exact ⟨rfl, rfl, rfl⟩
    · rw [closeLoops_round ends more]
      exact ⟨rfl, rfl, rfl⟩
    · rw [closeLoops_left ends last, closeLoops_open outer]
      exact ⟨rfl, rfl, rfl⟩
    · rw [closeLoops_left ends last]
      exact (Stream.advance_of_plain (t := { t with loops := r }) issue occ plain).symm
  · constructor
    · intro stop
      unfold Stream.advance
      simp only [hb, stop, ↓reduceIte, none]
      exact ⟨rfl, rfl, trivial⟩
    · intro on
      unfold Stream.advance
      simp only [hb, on, ↓reduceIte, none]
      exact ⟨rfl, rfl, trivial⟩
  · refine ⟨fun h => exec_next (t := s.nop l i) ?_, fun h => exec_next (t := s.waitt l i) ?_,
      fun h => exec_next (t := s.take l i) ?_, fun h => exec_next (t := s.post l i) ?_,
      fun h => exec_next (t := s.loop l i) ?_, fun h => exec_next (t := s.release l i) ?_,
      fun h => exec_next (t := s.endp l i) ?_, fun h => exec_next (t := s.mark l i) ?_,
      fun h => ⟨exec_next (t := s.passOp l false) ?_, exec_next (t := s.passOp l true) ?_⟩,
      fun h => exec_next (t := s.wpassOp l) ?_, fun h => exec_next (t := s.clearOp l) ?_,
      fun h => ⟨exec_next (t := s.spillOp l false) ?_, exec_next (t := s.spillOp l true) ?_⟩,
      fun h => exec_next (t := s.readOp l) ?_, fun h => exec_next (t := s.wloadOp l) ?_⟩
    · simp only [State.nop, h]
    · simp only [State.waitt, h]
    · simp only [State.take, h]
    · simp only [State.post, h]
    · simp only [State.loop, h]
    · simp only [State.release, h]
    · simp only [State.endp, h]
    · simp only [State.mark, h]
    · simp only [State.passOp, h]
    · simp only [State.passOp, h]
    · simp only [State.wpassOp, h]
    · simp only [State.clearOp, h]
    · simp only [State.spillOp, h]
    · simp only [State.spillOp, h]
    · simp only [State.readOp, h]
    · simp only [State.wloadOp, h]

end Sys2Proof.Machine


/-! RELEASE of a ring of more slots than its head field counts (O13). -/

namespace Sys2Proof.Machine

/-! ## Commands on one core -/

theorem coreBecomes_onCore {c : Instr} {s t : State} {p : CoreNo} {f : Core → Core} {e : Core} (h : t = s.onCore p f)
    (core : f s.cores[p] = e) (ex : exec c s = .next t := by rfl) : coreBecomes c s p e := by
  subst core
  exact ex.trans (congrArg Host.Outcome.next h)

theorem coreRaises_onCoreE {c : Instr} {s t : State} {p : CoreNo} {f : Core → Core × List (Nat × Nat)} {e : Core}
    {es : List (Nat × Nat)} (h : t = s.onCoreE p f) (core : f s.cores[p] = (e, es)) (ex : exec c s = .next t := by rfl) :
    coreRaises c s p e es := by
  refine coreRaises_of (ex.trans (congrArg Host.Outcome.next (h.trans ?_)))
  unfold State.onCoreE
  rw [core]

/-- The answer of a command that raises events has the core that the events are raised on. -/
theorem coreRaises.quiet {c : Instr} {s t : State} {p : CoreNo} {e : Core} {es : List (Nat × Nat)} (h : coreRaises c s p e es)
    (ex : exec c s = .next t) : t.cores[p].quiet = e.quiet := by
  obtain ⟨u, answer, -, -, quiet⟩ := h
  obtain rfl := Host.Outcome.next.inj (ex.symm.trans answer)
  exact quiet

/-! ## A ring of 31 slots -/

/-- A module section of one module with a period of 100 µs. -/
def plainSection : ModuleSection :=
  let port : PlantRec :=
    { ipv6 := false, enabled := false, mac := 0, local_ := 0, udp := 0, resultDst := 0, resultUdp := 0, telemetryUdp := 0,
      exportUdp := 0, telemetryDst := 0, exportDst := 0, feedSrc := 0, peers := [] }
  { version := 1, measurement := 0, period := 100, bellwether := false, n := 1, spare := false, startCounts := [],
    placement := [], nextHop := [], reins := [], plan := [], allots := [], ptpPort := none, ptpDomain := 0,
    telemetryEvery := 1, telemetryPorts := 0, telemetryList := [], plant0 := port, plant1 := port, drain0 := [], drain1 := [],
    power := { cap := 1750, entry := 380, exit := 360, exitCount := 1, lead := 1, horizon := 1, warming := false, coolant := 40 } }

/-- RELEASE of two slots of ring 0. -/
def releaseTwo : Word128 := BitVec.ofNat 128 (0xC5 + 2 * 2 ^ 118)

/-- Ring 0 is enabled and has 31 slots, of which two are filled from slot 15 on, and the drover stream is at the release. -/
def longRing : State := { State.reset with
  sec? := some plainSection
  cores := State.reset.cores.set 0 { Core.reset with
    mode := .mapped
    rings := Core.reset.rings.set 0 { reg := BitVec.ofNat 64 (2 ^ 63 + 31 * 2 ^ 15 + 2 * 2 ^ 10 + 15 * 2 ^ 6), started := 0 }
    dstream := { Stream.reset with running := true, buffer := [(0, releaseTwo)] } } }

/-- The release can issue, in turn, on an enabled ring; what it frees would leave the fill at 0; but the head, 17 after it, does not
fit its four bits and runs over into the fill. -/
theorem longRing_runs : longRing.issuing 0 .drover 0xC5 = some (0, releaseTwo) ∧ longRing.turn 0 .drover (some (.ring 0)) = true ∧
    longRing.cores[(0 : CoreNo)].rings[(0 : RingNo)].enabled = true ∧
    longRing.cores[(0 : CoreNo)].rings[(0 : RingNo)].fill - min (fld releaseTwo 118 5) longRing.cores[(0 : CoreNo)].rings[(0 : RingNo)].fill = 0 ∧
    (longRing.release 0 .drover).cores[(0 : CoreNo)].rings[(0 : RingNo)].fill = 1 := by
  decide +kernel

/-- Refutes O13: RELEASE of two slots of a ring of 31 slots, two of them filled from slot 15 on, leaves the fill at 1 and not at
0, because the new head, 17, is one bit longer than its field. -/
theorem not_commonInstructionsAndRelease : ¬ Obligations.CommonInstructionsAndRelease := by
  unfold Obligations.CommonInstructionsAndRelease
  rintro ⟨-, release⟩
  obtain ⟨issues, turn, enabled, free, filled⟩ := longRing_runs
  obtain ⟨-, inTurn⟩ := release longRing 0 0 .drover releaseTwo issues 0 (by decide)
  obtain ⟨q, -, -, -, -, -, -, fill, -, raises⟩ := (inTurn turn).2 enabled
  have quiet := raises.quiet (t := longRing.release 0 .drover) rfl
  have rings := congrArg Core.rings quiet
  have ring : (longRing.release 0 .drover).cores[(0 : CoreNo)].rings[(0 : RingNo)] = q :=
    (congrArg (fun v : Vector Ring 32 => v[(0 : RingNo)]) rings).trans (Vector.getElem_set_self _)
  have freed := fill.trans free
  rw [← ring, filled] at freed
  exact absurd freed (by decide)

end Sys2Proof.Machine


/-! Handles that move through gates (O14). -/

namespace Sys2Proof.Machine

/-! ## A stream and the rest of its core -/

section
variable (c : Core) (i : Issuer) (t : Stream)

@[simp] theorem Core.stream_onGate (g : GateNo) (f : Gate → Gate) : (c.onGate g f).stream i = c.stream i := by
  cases i <;> rfl

@[simp] theorem Core.setStream_quiet : (c.setStream i t).quiet = c.quiet.setStream i t := by
  cases i <;> rfl

@[simp] theorem Core.stream_quiet : c.quiet.stream i = c.stream i := by
  cases i <;> rfl

@[simp] theorem Core.setStream_tally : (c.setStream i t).tally = c.tally := by
  cases i <;> rfl

theorem Core.onGate_eq (g : GateNo) (f : Gate → Gate) : c.onGate g f = { c with gates := c.gates.set g (f c.gates[g]) } := rfl

/-- A gate put back as it is. -/
theorem Core.onGate_self (g : GateNo) : (c.onGate g fun _ => c.gates[g]) = c := by
  unfold Core.onGate vmod
  simp

end

/-- Cores alike but for counts of events go on alike. -/
theorem Core.issued_quiet {c e : Core} (h : c.quiet = e.quiet) (i : Issuer) (issue occ : Nat) :
    (c.issued i issue occ).quiet = (e.issued i issue occ).quiet := by
  unfold Core.issued
  rw [Core.setStream_quiet, Core.setStream_quiet, ← Core.stream_quiet c, ← Core.stream_quiet e, h]

/-! ## What a take finds -/

section
variable {s : State} {p l : CoreNo} {g : GateNo}

theorem State.taken_of_there (there : producerThere s l g) :
    s.taken p l g = (s.cores[p].gates[g].first s.now).map fun h => (h, s.cores[p].gates[g].take s.now) := by
  unfold State.taken
  dsimp only
  split
  · next x hx => exact if_neg (by rw [there x hx]; exact Bool.false_ne_true)
  · rfl

theorem State.taken_visible (there : producerThere s l g) {h : Handle} {v : Nat} {r : List (Handle × Nat)}
    (queue : s.cores[p].gates[g].queue = (h, v) :: r) (shown : v ≤ s.now) :
    s.taken p l g = some (h, s.cores[p].gates[g].take s.now) := by
  rw [State.taken_of_there there]
  unfold Gate.first
  rw [queue]
  dsimp only
  rw [if_pos shown]
  rfl

theorem State.taken_hidden (there : producerThere s l g)
    (hidden : ∀ h v r, s.cores[p].gates[g].queue = (h, v) :: r → s.now < v) : s.taken p l g = none := by
  rw [State.taken_of_there there]
  unfold Gate.first
  cases queue : s.cores[p].gates[g].queue with
  | nil => rfl
  | cons e r =>
    dsimp only
    rw [if_neg (Nat.not_le.2 (hidden e.1 e.2 r queue))]
    rfl

theorem State.taken_absent {x : GateRec} (record : s.gateRec l g = some x) (absent : s.absent x.producer = true) :
    s.taken p l g = some ({ bad := true, tag := 0, buffer := BitVec.ofNat 23 x.standIn }, s.cores[p].gates[g]) := by
  unfold State.taken
  rw [record]
  exact if_pos absent

end

/-! ## TAKE -/

section
variable {s : State} {l p : CoreNo} {i : Issuer} {w : Word128}

theorem sharedOf_take (op : opcodeOf w = 0xC2) : sharedOf l w = some (.handles (Fin.ofNat 64 (fld w 122 6))) := by
  unfold sharedOf
  simp only [op, ↓reduceIte]

/-- A take that completes at once. -/
theorem State.take_completes (issues : s.issuing l i 0xC2 = some (p, w)) {h : Handle} {q : Gate}
    (finds : s.taken p l (Fin.ofNat 64 (fld w 122 6)) = some (h, q))
    (turn : s.turn l i (some (.handles (Fin.ofNat 64 (fld w 122 6)))) = true) :
    s.take l i = s.onCore p fun c => c.complete i (Fin.ofNat 64 (fld w 122 6)) (BitVec.ofNat 2 (fld w 120 2)) s.now s.now h q := by
  obtain ⟨-, -, op, -⟩ := State.issuing_iff.1 issues
  unfold State.take
  simp only [issues, finds, sharedOf_take op, turn, Option.filter_some, ↓reduceIte]

/-- A take that holds its stream. -/
theorem State.take_holds (issues : s.issuing l i 0xC2 = some (p, w))
    (waits : s.turn l i (some (.handles (Fin.ofNat 64 (fld w 122 6)))) = false ∨
      s.taken p l (Fin.ofNat 64 (fld w 122 6)) = none) :
    s.take l i = s.onCore p fun c => c.setStream i { c.stream i with
      wait := .take (Fin.ofNat 64 (fld w 122 6)) (BitVec.ofNat 2 (fld w 120 2)) s.now, lastIssue := s.now } := by
  obtain ⟨-, -, op, -⟩ := State.issuing_iff.1 issues
  have none : ((s.taken p l (Fin.ofNat 64 (fld w 122 6))).filter fun _ => s.turn l i (sharedOf l w)) = none := by
    rw [sharedOf_take op]
    obtain turn | nothing := waits
    · rw [turn]
      cases s.taken p l (Fin.ofNat 64 (fld w 122 6)) <;> rfl
    · rw [nothing]
      rfl
  unfold State.take
  simp only [issues, none]

variable {g : GateNo} {reg : BitVec 2} {since : Nat} (hp : s.phys l = some p)
  (held : (s.cores[p].stream i).wait = .take g reg since)
include hp held

theorem State.takeCompletion_completes {h : Handle} {q : Gate} (finds : s.taken p l g = some (h, q))
    (turn : s.turn l i (some (.handles g)) = true) :
    s.takeCompletion l i = s.onCore p fun c => c.complete i g reg since s.now h q := by
  unfold State.takeCompletion
  simp only [hp, held, finds, turn, Option.filter_some, ↓reduceIte]

theorem State.takeCompletion_waits (waits : s.turn l i (some (.handles g)) = false ∨ s.taken p l g = none) :
    s.takeCompletion l i = s := by
  have none : ((s.taken p l g).filter fun _ => s.turn l i (some (.handles g))) = none := by
    obtain turn | nothing := waits
    · rw [turn]
      cases s.taken p l g <;> rfl
    · rw [nothing]
      rfl
  unfold State.takeCompletion
  simp only [hp, held, none]

end

/-- The core of a completed take. -/
theorem Core.complete_eq (c : Core) (i : Issuer) (g : GateNo) (reg : BitVec 2) (since now : Nat) (h : Handle) (q : Gate) :
    c.complete i g reg since now h q = ({ c with gates := c.gates.set g q }.setStream i
      { (c.stream i).advance since (now - since + 1) with
        wait := .none, handles := (c.stream i).handles.set reg.toFin h }) := by
  cases i <;> rfl

theorem Core.complete_self (c : Core) (i : Issuer) (g : GateNo) (reg : BitVec 2) (since now : Nat) (h : Handle) :
    c.complete i g reg since now h c.gates[g] = (c.setStream i
      { (c.stream i).advance since (now - since + 1) with
        wait := .none, handles := (c.stream i).handles.set reg.toFin h }) := by
  have same := c.onGate_self g
  unfold Core.complete
  rw [same]
  cases i <;> rfl

/-! ## POST -/

section
variable {s : State} {l p : CoreNo} {i : Issuer} {w : Word128} (issues : s.issuing l i 0xC3 = some (p, w))

/-- The handle that a post of a core carries. -/
def Core.postedBy (c : Core) (i : Issuer) (w : Word128) : Handle :=
  if c.fault.isSome then { (c.stream i).posted w with bad := true } else (c.stream i).posted w

theorem sharedOf_post (op : opcodeOf w = 0xC3) (near : bitOf w 104 = false)
    (own : (Fin.ofNat 32 (fld w 105 5) : CoreNo) = l) : sharedOf l w = some (.places (Fin.ofNat 64 (fld w 122 6))) := by
  unfold sharedOf
  dsimp only
  rw [op, near, decide_eq_true own]
  rfl

include issues

/-- A post to a gate of its own core. -/
theorem State.post_own (near : bitOf w 104 = false) (own : (Fin.ofNat 32 (fld w 105 5) : CoreNo) = l) :
    s.post l i =
      (if s.cores[p].gates[(Fin.ofNat 64 (fld w 122 6) : GateNo)].full s.now ||
          !s.turn l i (some (.places (Fin.ofNat 64 (fld w 122 6)))) then
        s.onCore p fun c => c.setStream i { c.stream i with
          wait := .post (Fin.ofNat 64 (fld w 122 6)) (s.cores[p].postedBy i w) s.now, lastIssue := s.now }
      else s.onCore p fun c =>
        (c.onGate (Fin.ofNat 64 (fld w 122 6)) fun q => q.put (s.cores[p].postedBy i w) (s.now + 2)).issued i s.now 1) := by
  obtain ⟨-, -, op, -⟩ := State.issuing_iff.1 issues
  have shared := sharedOf_post op near own
  unfold State.post
  rw [issues]
  dsimp only
  rw [near, if_neg Bool.false_ne_true, if_pos own, shared]
  rfl

theorem State.post_other (near : bitOf w 104 = false) (other : (Fin.ofNat 32 (fld w 105 5) : CoreNo) ≠ l) :
    s.post l i = (s.sendHandle p (Fin.ofNat 32 (fld w 105 5)) (Fin.ofNat 64 (fld w 122 6)) (s.cores[p].postedBy i w)).onCore p
      fun c => c.issued i s.now 1 := by
  unfold State.post
  rw [issues]
  dsimp only
  rw [near, if_neg Bool.false_ne_true, if_neg other]
  rfl

theorem State.post_far (far : bitOf w 104 = true) :
    s.post l i = (s.postFar p l (BitVec.ofNat 12 (fld w 110 12)) (Fin.ofNat 32 (fld w 105 5)) (Fin.ofNat 64 (fld w 122 6))
      (s.cores[p].postedBy i w)).onCore p fun c => c.issued i s.now 1 := by
  unfold State.post
  rw [issues]
  dsimp only
  rw [far, if_pos rfl]
  rfl

end

/-- A stream that goes on after an event of its core. -/
theorem State.event_issued (s : State) (p : CoreNo) (i : Issuer) (es : List (Nat × Nat)) :
    onlyCore s ((s.events p es).onCore p fun c => c.issued i s.now 1) p ∧
      ((s.events p es).onCore p fun c => c.issued i s.now 1).cores[p].quiet =
        (s.cores[p].setStream i ((s.cores[p].stream i).advance s.now 1)).quiet ∧
      ((s.events p es).onCore p fun c => c.issued i s.now 1).cores[p].tally = (s.events p es).cores[p].tally ∧
      ((s.events p es).onCore p fun c => c.issued i s.now 1).log = (s.events p es).log := by
  obtain ⟨only, quiet⟩ := s.events_frame p es none
  obtain ⟨only', core⟩ := (s.events p es).onCore_frame p fun c => c.issued i s.now 1
  refine ⟨onlyCore_trans only only', ?_, ?_, rfl⟩
  · rw [core]
    exact Core.issued_quiet quiet i s.now 1
  · rw [core]
    exact Core.setStream_tally ..

/-- A post to another module whose address no slice admits. -/
theorem State.postFar_refused {s : State} {p l : CoreNo} {m : BitVec 12} {target : CoreNo} {g : GateNo} {h : Handle} {f : FoldNo}
    (fold : s.foldOf l = some f) (refused : (addrOk s.declared (hallAddr 2 m target (4 * g.val)) 4 .post false &&
      (s.sliceOf f (hallAddr 2 m target (4 * g.val)) .post).isSome) = false) :
    s.postFar p l m target g h = s.events p [(0x22, 1)] := by
  unfold State.postFar
  rw [fold]
  dsimp only
  rw [refused]
  rfl

theorem State.postFar_sent {s : State} {p l : CoreNo} {m : BitVec 12} {target : CoreNo} {g : GateNo} {h : Handle} {f : FoldNo}
    (fold : s.foldOf l = some f) (decodes : addrOk s.declared (hallAddr 2 m target (4 * g.val)) 4 .post false = true)
    (slice : (s.sliceOf f (hallAddr 2 m target (4 * g.val)) .post).isSome = true) {fl : Nat × Flow}
    (flow : s.flowOf f false l m = some fl) :
    s.postFar p l m target g h = s.sendSched f fl 4 (hallAddr 2 m target (4 * g.val))
      ((beBytes h.toWord.toNat 4 ++ List.replicate 28 0).map fun b => (b, false)) s.now none := by
  unfold State.postFar
  rw [fold]
  dsimp only
  rw [decodes, slice, flow]
  rfl

/-! ## Held posts and handles that arrive -/

section
variable {s : State} {l p : CoreNo} (hp : s.phys l = some p)
include hp

theorem State.postHold_stream {i : Issuer} {g : GateNo} {h : Handle} {since : Nat}
    (held : (s.cores[p].stream i).wait = .post g h since) : s.postHoldRelease l (.stream i) =
      if s.cores[p].gates[g].full s.now || !s.turn l i (some (.places g)) then s
      else s.onCore p fun c => (c.onGate g fun q => q.put h (s.now + 2)).setStream i
        { ((c.onGate g fun q => q.put h (s.now + 2)).stream i).advance since (s.now - since + 1) with wait := .none } := by
  unfold State.postHoldRelease
  simp only [hp, held]

theorem State.postHold_slot {d : DroverNo} {k : DStreamNo} {i : DStreamNo} {e : Nat} {g : GateNo} {h : Handle}
    (held : s.cores[p].heldSlot d k.val = some (i, e, g, h)) : s.postHoldRelease l (.slot d k) =
      if s.cores[p].gates[g].full s.now then s
      else s.onCore p fun c => (c.onGate g fun q => q.put h (s.now + 2)).setDs d i
        ((((c.onGate g fun q => q.put h (s.now + 2)).ds d i).posted e).settle s.tick.number.toNat) := by
  unfold State.postHoldRelease
  simp only [hp, held]

theorem State.handleArrival_eq {a : HandleFl} (found : (s.cores[p].arrivals.find? fun a => decide (a.arrive ≤ s.now)) = some a) :
    s.handleArrival l = s.onCoreE p fun c =>
      let c := { c with arrivals := c.arrivals.erase a }
      if a.dead then (c, [(0x2A, 1)])
      else if c.gates[a.gate].full s.now then (c, [(0x38, 1)])
      else (c.onGate a.gate fun q => q.put a.handle a.arrive, []) := by
  unfold State.handleArrival
  simp only [hp, found]

end

/-- Without events a core is changed and nothing else. -/
theorem coreBecomes_onCoreE {c : Instr} {s t : State} {p : CoreNo} {f : Core → Core × List (Nat × Nat)} {e : Core}
    (h : t = s.onCoreE p f) (core : f s.cores[p] = (e, [])) (ex : exec c s = .next t := by rfl) : coreBecomes c s p e := by
  refine ex.trans (congrArg Host.Outcome.next (h.trans ?_))
  unfold State.onCoreE
  rw [core]
  rfl

/-- A core with a handle on its way to it, sent at a cycle. -/
def Core.awaiting (g : GateNo) (h : Handle) (now : Nat) (c : Core) : Core :=
  { c with arrivals := c.arrivals ++ [{ gate := g, handle := h, sent := now, arrive := now + 48, dead := false }] }

/-- Settles O14: each movement of a handle by the branches of the instruction that makes it. -/
theorem handlesMoveThroughGates : Obligations.HandlesMoveThroughGates := by
  unfold Obligations.HandlesMoveThroughGates
  refine ⟨fun s l p i w => ⟨fun issues g hg => ?_, fun g reg since hp held => ?_⟩, fun s l p i w issues near own g h x hg hx hh => ?_,
    fun s l p q x i w issues near hx other apart h hh => ?_, fun s l p i w f a issues far fold ha => ?_, fun s l p hp => ?_⟩
  · subst hg
    refine ⟨fun turn there h v r queue shown => ?_, fun waits => ?_, fun turn x record absent => ?_⟩
    · have finds := State.taken_visible there queue shown
      exact coreBecomes_onCore (State.take_completes issues finds turn) ((Core.complete_eq ..).trans (by rw [Nat.sub_self]; rfl))
    · refine coreBecomes_onCore (State.take_holds issues ?_) rfl
      exact waits.imp id fun h => State.taken_hidden h.1 h.2
    · have finds := State.taken_absent (p := p) record absent
      exact coreBecomes_onCore (State.take_completes issues finds turn)
        ((Core.complete_self ..).trans (by rw [Nat.sub_self]; rfl))
  · refine ⟨fun turn there h v r queue shown => ?_, fun turn x record absent => ?_, fun waits => ?_⟩
    · have finds := State.taken_visible there queue shown
      exact coreBecomes_onCore (State.takeCompletion_completes hp held finds turn) (Core.complete_eq ..)
    · have finds := State.taken_absent (p := p) record absent
      exact coreBecomes_onCore (State.takeCompletion_completes hp held finds turn) (Core.complete_self ..)
    · exact exec_next (State.takeCompletion_waits hp held (waits.imp id fun h => State.taken_hidden h.1 h.2))
  · have here : (Fin.ofNat 32 (fld w 105 5) : CoreNo) = l := by
      rw [own]
      exact Fin.ext (Nat.mod_eq_of_lt l.isLt)
    have posted : s.cores[p].postedBy i w = h := by
      rw [hh, hx]
      rfl
    have post := State.post_own issues near here
    rw [posted] at post
    subst hg
    refine ⟨fun room turn => ?_, fun waits => ?_⟩
    · rw [room, turn] at post
      exact coreBecomes_onCore (post.trans (if_neg Bool.false_ne_true)) (by cases i <;> rfl)
    · refine coreBecomes_onCore (post.trans (if_pos ?_)) rfl
      obtain full | turn := waits
      · rw [full]
        rfl
      · rw [turn]
        exact Bool.or_true _
  · subst hx
    have posted : s.cores[p].postedBy i w = h := by
      rw [hh]
      rfl
    have post := State.post_other issues near other
    rw [posted] at post
    refine ⟨fun there hq => ?_, fun absent => ?_⟩
    · refine ⟨_, exec_next (t := s.post l i) post, ?_⟩
      have sent : s.sendHandle p (Fin.ofNat 32 (fld w 105 5)) (Fin.ofNat 64 (fld w 122 6)) h =
          s.onCore q (Core.awaiting (Fin.ofNat 64 (fld w 122 6)) h s.now) := by
        unfold State.sendHandle
        rw [there, hq]
        rfl
      rw [sent]
      obtain ⟨only, core⟩ := s.onCore_frame q (Core.awaiting (Fin.ofNat 64 (fld w 122 6)) h s.now)
      have frame : s.onCore q (Core.awaiting (Fin.ofNat 64 (fld w 122 6)) h s.now) =
        { s with cores := (s.onCore q (Core.awaiting (Fin.ofNat 64 (fld w 122 6)) h s.now)).cores } := rfl
      generalize s.onCore q (Core.awaiting (Fin.ofNat 64 (fld w 122 6)) h s.now) = u at only core frame ⊢
      obtain ⟨only', core'⟩ := u.onCore_frame p fun c => c.issued i s.now 1
      refine ⟨?_, ?_, ?_, fun o hp hq => (only'.1 o hp).trans (only.1 o hq)⟩
      · rw [frame]
        rfl
      · rw [core', only.1 p apart.symm]
        rfl
      · rw [only'.1 q apart, core]
        rfl
    · have sent : s.sendHandle p (Fin.ofNat 32 (fld w 105 5)) (Fin.ofNat 64 (fld w 122 6)) h = s.events p [(0x2D, 1)] :=
        if_pos absent
      rw [sent] at post
      exact ⟨_, exec_next (t := s.post l i) post, s.event_issued p i [(0x2D, 1)]⟩
  · subst ha
    have post := State.post_far issues far
    refine ⟨fun refused => ?_, fun fl decodes slice flow => ?_⟩
    · rw [State.postFar_refused fold refused] at post
      exact ⟨_, exec_next (t := s.post l i) post, s.event_issued p i [(0x22, 1)]⟩
    · rw [State.postFar_sent fold decodes slice flow] at post
      refine ⟨_, _, exec_next (t := s.post l i) post, (State.onCore_frame _ p _).1, ?_, rfl, rfl, rfl, rfl, rfl, rfl, rfl⟩
      exact (State.onCore_frame _ p fun c => c.issued i s.now 1).2
  · refine ⟨fun i g h since held room turn => ?_, fun i g h since held waits => ?_, fun d k i e g h held => ⟨fun room => ?_, fun full => ?_⟩,
      fun a found => ⟨fun dead => ?_, fun alive full => ?_, fun alive room => ?_⟩⟩
    · have released := State.postHold_stream hp held
      rw [room, turn] at released
      exact coreBecomes_onCore (released.trans (if_neg Bool.false_ne_true)) (by cases i <;> rfl)
    · refine exec_next (t := s.postHoldRelease l (.stream i)) ((State.postHold_stream hp held).trans (if_pos ?_))
      obtain full | turn := waits
      · rw [full]
        rfl
      · rw [turn]
        exact Bool.or_true _
    · have released := State.postHold_slot hp held
      rw [room] at released
      exact coreBecomes_onCore (released.trans (if_neg Bool.false_ne_true)) rfl
    · exact exec_next (t := s.postHoldRelease l (.slot d k)) ((State.postHold_slot hp held).trans (if_pos full))
    · exact coreRaises_onCoreE (State.handleArrival_eq hp found) (if_pos dead)
    · refine coreRaises_onCoreE (State.handleArrival_eq hp found) ((if_neg ?_).trans (if_pos full))
      rw [alive]
      exact Bool.false_ne_true
    · refine coreBecomes_onCoreE (State.handleArrival_eq hp found) ((if_neg ?_).trans (if_neg ?_))
      · rw [alive]
        exact Bool.false_ne_true
      · exact fun full => Bool.false_ne_true (room.symm.trans full)

end Sys2Proof.Machine


/-! Passes that issue and leave the slot write stage (O16). -/

namespace Sys2Proof.Machine

section
variable {s : State} {l p : CoreNo} {op : Nat} {w : Word128}

theorem State.issuing_of_matrixIssue (h : s.matrixIssue l op = some (p, w)) :
    s.issuing l .matrix op = some (p, w) ∧ s.cores[p].hazard w s.now = false := by
  unfold State.matrixIssue at h
  split at h
  · next q v hq =>
    obtain ⟨free, same⟩ := Option.ite_none_left_eq_some.1 h
    obtain ⟨rfl, rfl⟩ := Prod.mk.inj (Option.some.inj same)
    exact ⟨hq, Bool.eq_false_iff.2 free⟩
  · exact absurd h (by simp)

end

/-! ## The first pass of an instruction -/

section
variable (c : Core) (wide : Bool) (w : Word128) (now : Nat)

/-- The feeder entry that a first pass names fits its pair. -/
def Core.rowFits : Bool := (c.feeder[fld w 113 7]?).any fun e => (pairAct wide (fld w 73 3)).contains e.fmt

/-- The row of a first pass: the entry it names, or the missing row. -/
def Core.firstRow : FeederEntry := if c.rowFits wide w then (c.feeder[fld w 113 7]?).getD .missing else .missing

/-- The first pass of an instruction. -/
def Core.firstPass : PassFl :=
  { issue := now, wide := wide, pair := BitVec.ofNat 3 (fld w 73 3), half := !wide && bitOf w 76
    pieceA := ((passPieces wide (fld w 73 3)).getD 0 (false, false)).1
    pieceW := ((passPieces wide (fld w 73 3)).getD 0 (false, false)).2
    op := now, row := c.firstRow wide w, set := bitOf w 77, weights := c.wset (bitOf w 77)
    kcount := if wide then fld w 101 5 + 1 else fld w 98 8 + 1, ncount := fld w 91 7 + 1, dest := fld w 84 7, slot := fld w 78 6 }

theorem Core.passPart_first : c.passPart wide w 0 now now = (c.firstPass wide w now,
    [(if wide then 0x02 else 0x01, 1), (0x34, b2n (!c.rowFits wide w)), (0x30, b2n (c.firstPass wide w now).mismatch)]) := by
  have dest : fld w 84 7 % 128 = fld w 84 7 := Nat.mod_mod _ _
  unfold Core.passPart Core.firstPass Core.firstRow Core.rowFits
  simp only [Nat.zero_div, Nat.zero_mod, Nat.add_zero, dest]
  cases c.feeder[fld w 113 7]? <;> rfl

theorem raw_not_pairAct (wide : Bool) (pair : Nat) : (pairAct wide pair).contains FeederEntry.missing.fmt = false := by
  unfold pairAct
  split
  · split <;> decide
  · split
    · decide
    · split <;> decide

/-- A row that fits is not the missing one. -/
theorem Core.firstRow_missing : decide (c.firstRow wide w = FeederEntry.missing) = !c.rowFits wide w := by
  unfold Core.firstRow
  cases fits : c.rowFits wide w with
  | false => exact decide_eq_true rfl
  | true =>
    obtain ⟨e, he, format⟩ := Option.any_eq_true _ _ |>.1 fits
    refine decide_eq_false fun same => ?_
    rw [if_pos rfl, he] at same
    rw [show e = FeederEntry.missing from same] at format
    rw [raw_not_pairAct] at format
    exact Bool.false_ne_true format

end

/-- A pass in flight, and its stream at the other passes of the instruction. -/
theorem Core.passIssue_eq (c : Core) (wide : Bool) (w : Word128) (now : Nat) : c.passIssue wide w now =
    ({ c with
       passes := c.passes ++ [c.firstPass wide w now]
       matrix := { c.matrix.advance now (passParts wide w) with
         active := some { word := w, part := 1, parts := passParts wide w, due := now + 1 } } },
     [(if wide then 0x02 else 0x01, 1), (0x34, b2n (decide (c.firstRow wide w = FeederEntry.missing))),
      (0x30, b2n (c.firstPass wide w now).mismatch)]) := by
  unfold Core.passIssue
  rw [Core.passPart_first, Core.firstRow_missing]
  rfl

/-! ## A pass that leaves the slot write stage -/

/-- What a pass that is written changes of its core. -/
theorem Core.passUpdate_frame {c : Core} {f : PassFl} {rest : List PassFl} (oldest : c.passes = f :: rest) (now : Nat) :
    let e := (c.passUpdate now f).1
    e = { c with passes := rest, acc := e.acc, wroteBack := e.wroteBack, origins := e.origins } ∧
      e.accAt now = c.accAt now := by
  have left : c.passes.drop 1 = rest := by rw [oldest]; rfl
  unfold Core.passUpdate Core.accAt
  dsimp only
  rw [left]
  refine ⟨rfl, ?_⟩
  cases c.wroteBack with
  | none => exact if_pos rfl
  | some b =>
    obtain ⟨t, old, fs⟩ := b
    dsimp only
    by_cases here : t = now
    · simp only [here, ↓reduceIte]
    · simp only [here, ↓reduceIte]

theorem Core.passUpdate_whole (c : Core) {f : PassFl} (whole : f.half = false) (now : Nat) {mark : Bool}
    (hmark : mark = (f.mismatch || f.rowBad || f.weights.conflict || (if f.set then c.setY else c.setX).conflict)) :
    (c.passUpdate now f).1.acc = (c.acc.addPass f f.slot false mark).1 ∧
      (c.passUpdate now f).2 = (c.acc.addPass f f.slot false mark).2 := by
  subst hmark
  unfold Core.passUpdate
  dsimp only
  rw [whole]
  exact ⟨rfl, List.append_nil _⟩

theorem Core.passUpdate_half (c : Core) {f : PassFl} (half : f.half = true) (now : Nat) {mark : Bool}
    (hmark : mark = (f.mismatch || f.rowBad || f.weights.conflict || (if f.set then c.setY else c.setX).conflict)) :
    (c.passUpdate now f).1.acc = ((c.acc.addPass f f.slot false mark).1.addPass f (f.slot + 1) true mark).1 ∧
      (c.passUpdate now f).2 = (c.acc.addPass f f.slot false mark).2 ++
        ((c.acc.addPass f f.slot false mark).1.addPass f (f.slot + 1) true mark).2 := by
  subst hmark
  unfold Core.passUpdate
  dsimp only
  rw [half]
  exact ⟨rfl, rfl⟩

section
variable {s : State} {l p : CoreNo} {f : PassFl} {rest : List PassFl} (hp : s.phys l = some p)
  (oldest : s.cores[p].passes = f :: rest)
include hp oldest

theorem State.passSlotUpdate_eq : s.passSlotUpdate l =
    if f.issue + 11 ≤ s.now then s.onCoreE p fun c => c.passUpdate s.now f else s := by
  unfold State.passSlotUpdate
  simp only [hp, oldest]

end

/-- Settles O16: the pass that is put in flight, and the core after the oldest one is written. -/
theorem passesIssueAndLeave : Obligations.PassesIssueAndLeave := by
  unfold Obligations.PassesIssueAndLeave
  refine ⟨fun s l p w wide c issues => ?_, fun s l p w issues => ?_, fun s l p f rest hp oldest => ⟨fun early => ?_, fun due mark hmark => ?_⟩⟩
  · refine ⟨s.cores[p].firstPass wide w s.now, { word := w, part := 1, parts := passParts wide w, due := s.now + 1 }, rfl, rfl, rfl,
      rfl, rfl, rfl, rfl, rfl, rfl, rfl, rfl, fun e he fits => ?_, fun e he misfit => ?_, fun none => ?_, rfl, rfl, rfl, rfl, ?_⟩
    · show s.cores[p].firstRow wide w = e
      unfold Core.firstRow Core.rowFits
      rw [he]
      exact if_pos (List.contains_iff_mem.2 fits)
    · show s.cores[p].firstRow wide w = FeederEntry.missing
      unfold Core.firstRow Core.rowFits
      rw [he]
      exact if_neg fun fits => misfit (List.contains_iff_mem.1 fits)
    · show s.cores[p].firstRow wide w = FeederEntry.missing
      unfold Core.firstRow Core.rowFits
      rw [none]
      rfl
    · have issue := s.cores[p].passIssue_eq wide w s.now
      cases wide with
      | true =>
        obtain ⟨issues, rfl⟩ := issues
        refine coreRaises_onCoreE (t := s.wpassOp l) (f := fun c => c.passIssue true w s.now) ?_ issue
        unfold State.wpassOp
        rw [issues]
      | false =>
        obtain ⟨issues, rfl⟩ := issues
        have op : s.passOp l (bitOf w 76) = s.onCoreE p fun c => c.passIssue false w s.now := by
          unfold State.passOp
          rw [issues]
          exact if_pos (beq_self_eq_true _)
        refine coreRaises_onCoreE op issue ?_
        cases bitOf w 76 <;> rfl
  · have op : s.passOp l (!bitOf w 76) = s := by
      unfold State.passOp
      rw [issues]
      exact if_neg (by cases bitOf w 76 <;> decide)
    refine exec_next op ?_
    cases bitOf w 76 <;> rfl
  · exact exec_next ((State.passSlotUpdate_eq hp oldest).trans (if_neg (Nat.not_le.2 early)))
  · have update := (State.passSlotUpdate_eq hp oldest).trans (if_pos due)
    obtain ⟨frame, seen⟩ := Core.passUpdate_frame oldest s.now
    refine ⟨(s.cores[p].passUpdate s.now f).1, frame, seen, fun whole => ?_, fun half a ha => ?_⟩
    · obtain ⟨acc, events⟩ := s.cores[p].passUpdate_whole whole s.now hmark
      exact ⟨acc, coreRaises_onCoreE update (Prod.ext rfl events)⟩
    · subst ha
      obtain ⟨acc, events⟩ := s.cores[p].passUpdate_half half s.now hmark
      exact ⟨acc, coreRaises_onCoreE update (Prod.ext rfl events)⟩

end Sys2Proof.Machine


/-! Clears, walks and loads that issue (O18). -/

namespace Sys2Proof.Machine

theorem fld_lt {n : Nat} (w : BitVec n) (lo len : Nat) : fld w lo len < 2 ^ len := Nat.mod_lt _ (Nat.two_pow_pos len)

/-- The class code of a clear names windows where it is 3. -/
theorem clearClass_iff (w : Word128) : BitVec.ofNat 3 (fld w 112 3) = 3 ↔ fld w 112 3 = 3 := by
  have small := fld_lt w 112 3
  rw [← BitVec.toNat_inj, BitVec.toNat_ofNat, Nat.mod_eq_of_lt small]
  rfl

/-- The window base that a clear names. -/
def clearBase (w : Word128) : BitVec 16 := if fld w 112 3 = 3 then BitVec.ofNat 16 (fld w 96 16) else 0

/-- The first slot or pair of a clear. -/
theorem clearEntries_first (w : Word128) (now : Nat) : clearEntries w 0 now =
    if bitOf w 121 then
      [(fld w 122 6, BitVec.ofNat 3 (fld w 112 3), clearBase w, now + 1), (fld w 122 6 + 1, 7, 0, now + 1)]
    else [(fld w 122 6, BitVec.ofNat 3 (fld w 112 3), clearBase w, now + 1)] := by
  have base : (if BitVec.ofNat 3 (fld w 112 3) = 3 then BitVec.ofNat 16 (fld w 96 16) else 0) = clearBase w :=
    if_congr (clearClass_iff w) rfl rfl
  unfold clearEntries clearSlots
  rw [Nat.zero_mul, Nat.add_zero]
  dsimp only
  rw [base]
  cases bitOf w 121 <;> rfl

/-- A spill walk agrees with the class of its slot. -/
theorem walkAgrees_spill (pair quire : Bool) (cls : Nat) :
    (!walkAgrees false pair quire cls) = false ↔ (cls = 1 ∧ pair = false) ∨ (cls = 2 ∧ pair = true) := by
  unfold walkAgrees
  rw [Bool.not_eq_false', if_neg Bool.false_ne_true, Bool.or_eq_true_iff, Bool.and_eq_true_iff, Bool.and_eq_true_iff,
    Bool.not_eq_true', decide_eq_true_iff, decide_eq_true_iff]

/-- A readout agrees with the class of its slot. -/
theorem walkAgrees_read (pair quire : Bool) (cls : Nat) :
    (!walkAgrees true pair quire cls) = false ↔
      cls ≠ 7 ∧ (pair = true ↔ cls = 2 ∨ cls = 3) ∧ (quire = true → cls = 1 ∨ cls = 2) := by
  have wide : pairClass cls = true ↔ cls = 2 ∨ cls = 3 := by simp [pairClass]
  unfold walkAgrees
  rw [Bool.not_eq_false', if_pos rfl, Bool.and_eq_true_iff, Bool.and_eq_true_iff, decide_eq_true_iff, beq_iff_eq,
    Bool.or_eq_true_iff, Bool.not_eq_true', decide_eq_true_iff, ← wide, and_assoc, Bool.eq_iff_iff,
    ← Bool.not_eq_true, ← imp_iff_not_or]

section
variable {s : State} {l p : CoreNo} {w : Word128}

/-- The core after a clear has issued. -/
def Core.cleared (c : Core) (w : Word128) (now : Nat) : Core :=
  { c with
    clears := c.clears ++ clearEntries w 0 now
    matrix := if fld w 115 6 = 0 then c.matrix.advance now 1
      else { c.matrix.advance now (fld w 115 6 + 1) with
        active := some { word := w, part := 1, parts := fld w 115 6 + 1, due := now + 1 } } }

theorem State.clearOp_becomes (issues : s.matrixIssue l 0x03 = some (p, w)) :
    coreBecomes (.clear l) s p (s.cores[p].cleared w s.now) := by
  refine coreBecomes_onCore (t := s.clearOp l) (f := fun c =>
      let n := clearCount w
      let c := { c with clears := c.clears ++ clearEntries w 0 s.now }
      let c := c.issued .matrix s.now n
      if n ≤ 1 then c
      else c.setStream .matrix { c.matrix with active := some { word := w, part := 1, parts := n, due := s.now + 1 } }) ?_ ?_
  · unfold State.clearOp
    rw [issues]
  · unfold Core.cleared clearCount
    by_cases one : fld w 115 6 = 0
    · simp only [one, Nat.zero_add, le_refl, ↓reduceIte]
      rfl
    · have more : ¬ fld w 115 6 + 1 ≤ 1 := by omega
      simp only [one, more, ↓reduceIte]
      rfl

theorem State.spillOp_raises (issues : s.matrixIssue l 0x04 = some (p, w)) :
    coreRaises (if bitOf w 120 then .spillFirst l else .spill l) s p
      { s.cores[p] with walks := s.cores[p].walks ++ [s.cores[p].spillWalk w s.now], matrix := s.cores[p].matrix.advance s.now 1 }
      [(0x31, b2n (s.cores[p].spillWalk w s.now).mismatch)] ∧
    exec (if bitOf w 120 then .spill l else .spillFirst l) s = .next s := by
  have takes : s.spillOp l (bitOf w 120) = s.onCoreE p fun c =>
      (({ c with walks := c.walks ++ [c.spillWalk w s.now] }).issued .matrix s.now 1, [(0x31, b2n (c.spillWalk w s.now).mismatch)]) := by
    unfold State.spillOp
    rw [issues]
    exact if_pos (beq_self_eq_true _)
  have other : s.spillOp l (!bitOf w 120) = s := by
    unfold State.spillOp
    rw [issues]
    exact if_neg (by cases bitOf w 120 <;> decide)
  refine ⟨coreRaises_onCoreE takes rfl ?_, exec_next other ?_⟩
  · cases bitOf w 120 <;> rfl
  · cases bitOf w 120 <;> rfl

theorem State.readOp_raises (issues : s.matrixIssue l 0x05 = some (p, w)) :
    coreRaises (.read l) s p
      { s.cores[p] with walks := s.cores[p].walks ++ [s.cores[p].readWalk w s.now], matrix := s.cores[p].matrix.advance s.now 1 }
      [(0x31, b2n (s.cores[p].readWalk w s.now).mismatch)] := by
  refine coreRaises_onCoreE (t := s.readOp l) (f := fun c =>
    (({ c with walks := c.walks ++ [c.readWalk w s.now] }).issued .matrix s.now 1, [(0x31, b2n (c.readWalk w s.now).mismatch)]))
    ?_ rfl
  unfold State.readOp
  rw [issues]

end

/-- Settles O18: what each instruction puts down, and the hold of a hazard. -/
theorem walksAndLoadsIssue : Obligations.WalksAndLoadsIssue := by
  unfold Obligations.WalksAndLoadsIssue
  refine ⟨fun s l p w => ⟨fun issues => ?_, fun issues => ?_, fun issues => ?_, fun issues q hq => ?_⟩,
    fun s l p w hp issues => ⟨fun hazard => ?_, fun free => ?_⟩⟩
  · refine ⟨_, rfl, ?_⟩
    have becomes := State.clearOp_becomes issues
    unfold Core.cleared at becomes
    rw [clearEntries_first] at becomes
    exact becomes
  · exact ⟨s.cores[p].spillWalk w s.now, rfl, rfl, rfl, rfl, rfl, rfl, rfl, rfl, walkAgrees_spill .., State.spillOp_raises issues⟩
  · exact ⟨s.cores[p].readWalk w s.now, rfl, rfl, rfl, rfl, rfl, rfl, rfl, rfl, rfl, walkAgrees_read .., rfl, State.readOp_raises issues⟩
  · subst hq
    refine coreRaises_onCoreE (t := s.wloadOp l) (f := fun c =>
      let q := (c.ds (Fin.ofNat 4 (fld w 94 2)) (Fin.ofNat 8 (fld w 91 3))).rearmBy
        { src := some (fld w 96 32), dst := some (fld w 90 1), origin := s.now, relative := true, bad := false, tick := false }
        s.tick.number.toNat
      ((c.setDs (Fin.ofNat 4 (fld w 94 2)) (Fin.ofNat 8 (fld w 91 3)) q.1).issued .matrix s.now 1, [(0x29, q.2)])) ?_ rfl
    unfold State.wloadOp
    rw [issues]
  · refine coreRaises_onCoreE (t := s.hazardHold l)
      (f := fun c => ({ c with matrix := { c.matrix with floor := s.now + 12 } }, [(0x0A, 1)])) ?_ rfl
    unfold State.hazardHold
    rw [hp]
    dsimp only
    rw [issues]
    exact if_pos hazard
  · refine exec_next (t := s.hazardHold l) ?_
    unfold State.hazardHold
    rw [hp]
    dsimp only
    rw [issues]
    exact if_neg fun hazard => Bool.false_ne_true (free.symm.trans hazard)

end Sys2Proof.Machine


/-! Branches, threads and their loads (O24). -/

namespace Sys2Proof.Machine

/-! ## What a read of pasture leaves -/

/-- Nothing of the core differs but what a read of its pasture finds: its cells stand. -/
structure Core.readOnly (c e : Core) : Prop where
  quiet : e.quiet = { c.quiet with pasture := e.pasture }
  cells : e.pasture.cells = c.pasture.cells

theorem Core.readOnly_of_quiet {c e : Core} {m : Pasture} (h : e.quiet = ({ c with pasture := m } : Core).quiet)
    (cells : m.cells = c.pasture.cells) : c.readOnly e := by
  have pasture : e.pasture = m := congrArg Core.pasture h
  subst pasture
  exact ⟨h, cells⟩

/-- Every core is as a read leaves it, and nothing differs but cores, log and module counters. -/
structure readOnly (s t : State) : Prop where
  frame : coresOnly s t
  cores : ∀ q : CoreNo, s.cores[q].readOnly t.cores[q]

theorem readOnly_of_onlyCore {s t : State} {p : CoreNo} (only : onlyCore s t p) (core : s.cores[p].readOnly t.cores[p]) :
    readOnly s t := by
  refine ⟨only.coresOnly, fun q => ?_⟩
  by_cases here : q = p
  · exact here ▸ core
  · rw [only.1 q here]
    exact ⟨rfl, rfl⟩

theorem readOnly_events (s : State) (p : CoreNo) (es : List (Nat × Nat)) (g : Option FoldNo) : readOnly s (s.events p es g) := by
  obtain ⟨only, quiet⟩ := s.events_frame p es g
  exact readOnly_of_onlyCore only (Core.readOnly_of_quiet (m := s.cores[p].pasture) quiet rfl)

/-- What a scan finds is kept in the pasture alone. -/
theorem Core.scan_readOnly (c : Core) (now : Nat) (rs : List (Nat × Nat)) :
    (c.scan now rs).1 = { c with pasture := (c.scan now rs).1.pasture } := by
  unfold Core.scan
  split <;> rfl

theorem State.readBeat_readOnly (s : State) (f : FoldNo) (l : CoreNo) (off len : Nat) : readOnly s (s.readBeat f l off len).1 := by
  have same : readOnly s s := ⟨coresOnly_refl s, fun _ => ⟨rfl, rfl⟩⟩
  unfold State.readBeat
  cases s.phys l with
  | none => exact same
  | some p =>
    dsimp only
    split
    · exact same
    · split
      · exact readOnly_events ..
      · split
        · exact readOnly_events ..
        · refine foldl_keep (fun t => readOnly s t) _ (fun t w kept => ?_) _ _ ?_
          · rw [State.log1_eq]
            exact ⟨kept.1.trans rfl, kept.2⟩
          · obtain ⟨only, quiet⟩ := s.onCore_events_frame p
              (fun c => { c with pasture := c.pasture.find (s.cores[p].pasture.lostIn s.now off len) })
              (s.cores[p].pasture.read s.now off len).events (some f)
            exact readOnly_of_onlyCore only (Core.readOnly_of_quiet quiet rfl)

/-! ## BSEL -/

/-- The condition of a BSEL: not marked, no NaN and not zero. -/
def LaneOp.takesA (o : LaneOp) : Bool := !o.bad && !o.x.isNan && !o.x.isZero

theorem LaneOp.takesA_iff (o : LaneOp) : o.takesA = true ↔ o.bad = false ∧ o.x ≠ .nan ∧ o.x ≠ .fin 0 := by
  unfold LaneOp.takesA
  rw [Bool.and_eq_true_iff, Bool.and_eq_true_iff, Bool.not_eq_true', Bool.not_eq_true', Bool.not_eq_true', and_assoc]
  refine and_congr_right fun _ => ?_
  cases o.x with
  | fin q => simp [Ext.isNan, Ext.isZero]
  | inf neg => simp [Ext.isNan, Ext.isZero]
  | nan => simp [Ext.isNan]

/-- The stream after a BSEL that takes a branch. -/
def Stream.select (t : Stream) (takeA : Bool) (na nb longest now : Nat) : Stream :=
  let first := t.next + 16
  let len := if takeA then na else nb
  if len = 0 then { t with next := first + 16 * (na + nb) - 16 }.advance now (1 + longest)
  else
    { t with
      next := (if takeA then first else first + 16 * na) - 16
      branch := some { stopAt := (if takeA then first else first + 16 * na) + 16 * len
                       resume := first + 16 * (na + nb), ready := now + 1 + longest } }.advance now 1

/-- The stream after a BSEL word. -/
def Core.selected (c : Core) (w : Word128) (now : Nat) : Stream :=
  c.cstream.select (c.operand (fld w 91 5) 0 0).takesA (fld w 79 12) (fld w 67 12) (max (fld w 112 16) (fld w 96 16)) now

theorem State.bselOp_raises {s : State} {l p : CoreNo} {w : Word128} (issues : s.issuing l .currier 0x57 = some (p, w)) :
    coreRaises (.bsel l) s p { s.cores[p] with cstream := s.cores[p].selected w s.now }
      [(0x43, b2n (s.cores[p].operand (fld w 91 5) 0 0).takesA), (0x44, b2n !(s.cores[p].operand (fld w 91 5) 0 0).takesA),
       (0x45, b2n (s.cores[p].operand (fld w 91 5) 0 0).bad)] := by
  refine coreRaises_onCoreE (t := s.bselOp l) (f := fun c =>
    ({ c with cstream := c.selected w s.now },
     [(0x43, b2n (c.operand (fld w 91 5) 0 0).takesA), (0x44, b2n !(c.operand (fld w 91 5) 0 0).takesA),
      (0x45, b2n (c.operand (fld w 91 5) 0 0).bad)])) ?_ rfl
  unfold State.bselOp
  rw [issues]
  rfl

section
variable {t : Stream} (loops : t.loops = []) (branch : t.branch = none) (na nb longest now : Nat) {takeA : Bool}
include loops

include branch in
theorem Stream.select_empty (none : (if takeA then na else nb) = 0) : t.select takeA na nb longest now = { t with
    next := t.next + 16 + 16 * (na + nb), base := now + 1 + longest, floor := 0, lastIssue := now } := by
  have place : t.next + 16 + 16 * (na + nb) - 16 + 16 = t.next + 16 + 16 * (na + nb) := by omega
  have cycle : now + (1 + longest) + 0 = now + 1 + longest := by omega
  refine (if_pos none).trans ((Stream.advance_of_plain (t := { t with next := t.next + 16 + 16 * (na + nb) - 16 }) now
    (1 + longest) branch).trans ?_)
  rw [loops, closeLoops_open (fun _ h => absurd h (by simp)), place]
  dsimp only
  rw [cycle, ← loops]

theorem Stream.select_some (some_ : (if takeA then na else nb) ≠ 0) : t.select takeA na nb longest now = { t with
    next := if takeA then t.next + 16 else t.next + 16 + 16 * na
    base := now + 1, floor := 0, lastIssue := now
    branch := some { stopAt := (if takeA then t.next + 16 else t.next + 16 + 16 * na) + 16 * (if takeA then na else nb)
                     resume := t.next + 16 + 16 * (na + nb), ready := now + 1 + longest } } := by
  have place : (if takeA then t.next + 16 else t.next + 16 + 16 * na) - 16 + 16 =
      if takeA then t.next + 16 else t.next + 16 + 16 * na := by split <;> omega
  refine (if_neg some_).trans ?_
  generalize (if takeA then t.next + 16 else t.next + 16 + 16 * na) = start at place ⊢
  generalize (if takeA then na else nb) = len at some_ ⊢
  have inside : ¬ start = start + 16 * len := by omega
  unfold Stream.advance
  simp only [place, inside, ↓reduceIte, loops, closeLoops, Nat.add_zero]

end

/-! ## Sections -/

/-- A core that has opened the section of a THRD, with what its scan finds. -/
def Core.sectioned (c : Core) (w : Word128) (now : Nat) : Core × List (Nat × Nat) :=
  let q := c.scan now [(fld w 96 32, 64)]
  let len := q.1.pasture.num (fld w 96 32 + 32) 4
  let e := q.1.issued .currier now (16 + len)
  ({ e with currier := { e.currier with
      sec? := some { issue := now, len := len }
      threads := Vector.ofFn fun (j : Fin 8) =>
        { Stream.reset with running := true, next := q.1.pasture.num (fld w 96 32 + 4 * j.val) 4, base := now + 8 } } }, q.2)

/-! ## Loads of threads -/

theorem sliceD_length {α : Type} (d : α) (l : List α) (pos len : Nat) : (sliceD d l pos len).length = len := by
  unfold sliceD
  rw [List.length_append, List.length_replicate, List.length_take]
  omega

/-- The load of a thread that issues with the bytes it has read. -/
def threadLoad (w : Word128) (now : Nat) (bs : List MByte) : LoadFl :=
  { land := now + (if bitOf w 80 then 128 else 32), reg := fld w 91 5, fmt := fmtD (fld w 68 4)
    elems := unpack (fmtD (fld w 68 4)) bs }

/-- A core with that load under way. -/
def Core.loaded (w : Word128) (j : ThreadNo) (now : Nat) (bs : List MByte) (c : Core) : Core :=
  let c := c.issued (.thread j) now 8
  { c with currier := { c.currier with loads := c.currier.loads ++ [threadLoad w now bs] } }

/-- The cores of the state in which a thread load has issued. -/
theorem State.tldOp_eq {s : State} {l p : CoreNo} {j : ThreadNo} {w : Word128} {f : FoldNo}
    (issues : s.issuing l (.thread j) 0x59 = some (p, w)) (fold : s.foldOf l = some f) :
    s.tldOp l j = (s.readBeat f (if bitOf w 80 then Fin.ofNat 32 (fld w 81 5) else l) (fld w 96 32) (fld w 72 8 + 1)).1.onCore p
      (Core.loaded w j s.now
        (s.readBeat f (if bitOf w 80 then Fin.ofNat 32 (fld w 81 5) else l) (fld w 96 32) (fld w 72 8 + 1)).2) := by
  unfold State.tldOp
  rw [issues]
  dsimp only
  rw [fold]
  rfl

/-- A core whose due loads have landed. -/
def Core.loadsLand (now : Nat) (c : Core) : Core :=
  let due := c.currier.loads.filter fun r => decide (r.land ≤ now)
  let regs := due.foldl (fun (v : Vector (List Elem) 32) r =>
    let n : Fin 32 := Fin.ofNat 32 r.reg
    let old := sliceD { code := 0, bad := false } v[n] 0 128
    v.set n ((r.elems ++ old.drop r.elems.length).take 128)) c.currier.regs
  let fmts := due.foldl (fun (v : Vector Fmt 32) r => v.set (Fin.ofNat 32 r.reg) r.fmt) c.currier.fmts
  { c with currier := { c.currier with
      regs := regs, fmts := fmts, loads := c.currier.loads.filter fun r => decide (now < r.land) } }

theorem State.threadLoadLand_eq {s : State} {l p : CoreNo} (hp : s.phys l = some p) :
    s.threadLoadLand l = s.onCore p (Core.loadsLand s.now) := by
  unfold State.threadLoadLand
  rw [hp]
  rfl

/-- Settles O24: branches by their condition, sections and threads by their times, loads by the beat that they read. -/
theorem branchesAndThreadsKeepTime : Obligations.BranchesAndThreadsKeepTime := by
  unfold Obligations.BranchesAndThreadsKeepTime
  refine ⟨fun s l p w issues o takeA first na nb len longest ho hA hfirst hna hnb hlen hlongest => ?_,
    ⟨fun s l p w issues e evs len threads he hlen hthreads => ?_, fun s l p j w issues => ?_, fun s l p k hp open_ => ⟨fun early => ?_,
      fun due => ?_⟩⟩,
    fun s l p j w f issues fold => ?_, fun s l j none => ?_, fun s l p x n hp loads hn short => ⟨fun due => ?_, fun early => ?_⟩⟩
  · have raises := State.bselOp_raises issues
    have takes : (s.cores[p].operand (fld w 91 5) 0 0).takesA = takeA :=
      Bool.eq_iff_iff.2 ((LaneOp.takesA_iff _).trans (ho ▸ hA.symm))
    unfold Core.selected at raises
    rw [takes, ← ho, ← hna, ← hnb, ← hlongest] at raises
    subst hfirst
    refine ⟨hlen ▸ raises, fun loops branch => ⟨fun none => ?_, fun some_ => ?_⟩⟩
    · rw [Stream.select_empty loops branch na nb longest s.now (hlen ▸ none)] at raises
      exact raises
    · rw [Stream.select_some loops na nb longest s.now (hlen ▸ some_), ← hlen] at raises
      exact raises
  · have frame := s.cores[p].scan_readOnly s.now [(fld w 96 32, 64)]
    rw [← he] at frame
    have cstream := congrArg Core.cstream frame
    have currier := congrArg Core.currier frame
    change e.cstream = s.cores[p].cstream at cstream
    change e.currier = s.cores[p].currier at currier
    subst hthreads hlen
    refine coreRaises_onCoreE (t := s.thrdOp l) (f := fun c => c.sectioned w s.now) ?_ ?_
    · unfold State.thrdOp
      rw [issues]
      rfl
    · unfold Core.sectioned
      rw [← he, ← cstream, ← currier]
      rfl
  · refine coreBecomes_onCore (t := s.thendOp l j) (f := fun c =>
      c.setStream (.thread j) { c.stream (.thread j) with running := false, lastIssue := s.now }) ?_ rfl
    unfold State.thendOp
    rw [issues]
  · refine exec_next (t := s.sectionClose l) ?_
    unfold State.sectionClose
    rw [hp]
    dsimp only
    rw [open_]
    exact if_neg (Nat.not_le.2 early)
  · refine coreRaises_onCoreE (t := s.sectionClose l) (f := fun c => ({ c with currier := { c.currier with
        sec? := none, threads := c.currier.threads.map fun t => { t with running := false } } },
        [(0x3A, (c.currier.threads.toList.filter fun t => t.running).length)])) ?_ rfl
    unfold State.sectionClose
    rw [hp]
    dsimp only
    rw [open_]
    exact if_pos due
  · have op := State.tldOp_eq issues fold
    obtain ⟨frame, cores⟩ := s.readBeat_readOnly f (if bitOf w 80 then Fin.ofNat 32 (fld w 81 5) else l) (fld w 96 32) (fld w 72 8 + 1)
    obtain ⟨core, cells⟩ := cores p
    have currier := congrArg Core.currier core
    have acc := congrArg Core.acc core
    generalize hr : s.readBeat f (if bitOf w 80 then Fin.ofNat 32 (fld w 81 5) else l) (fld w 96 32) (fld w 72 8 + 1) = r
      at op frame core cells currier acc ⊢
    change r.1.cores[p].currier = s.cores[p].currier at currier
    change r.1.cores[p].acc = s.cores[p].acc at acc
    have after := (r.1.onCore_frame p (Core.loaded w j s.now r.2)).2
    refine ⟨threadLoad w s.now r.2, r.1.onCore p (Core.loaded w j s.now r.2), rfl, rfl, rfl, exec_next op, rfl, ?_, ?_, ?_, ?_, ?_,
      by rw [State.onCore_tick, frame], by rw [State.onCore_folds, frame], by rw [State.onCore_hall, frame]⟩
    · rw [after, ← currier]
      rfl
    · rw [after, ← currier]
      exact Vector.getElem_set_self _
    · rw [after]
      exact cells
    · rw [after, ← acc]
      rfl
    · rw [after, ← currier]
      rfl
  · refine exec_next (t := s.tldOp l j) ?_
    unfold State.tldOp
    cases s.issuing l (.thread j) 0x59 with
    | none => rfl
    | some x => simp only [none]
  · subst hn
    have old := sliceD_length ({ code := 0, bad := false } : Elem) s.cores[p].currier.regs[(Fin.ofNat 32 x.reg : Fin 32)] 0 128
    have row : (x.elems ++ (sliceD { code := 0, bad := false } s.cores[p].currier.regs[(Fin.ofNat 32 x.reg : Fin 32)] 0 128).drop
        x.elems.length).take 128 = x.elems ++
          (sliceD { code := 0, bad := false } s.cores[p].currier.regs[(Fin.ofNat 32 x.reg : Fin 32)] 0 128).drop x.elems.length := by
      refine List.take_of_length_le ?_
      rw [List.length_append, List.length_drop, old]
      omega
    refine coreBecomes_onCore (State.threadLoadLand_eq hp) ?_
    unfold Core.loadsLand
    rw [loads]
    simp only [List.filter_cons, decide_eq_true due, decide_eq_false (Nat.not_lt.2 due), ↓reduceIte, Bool.false_eq_true,
      List.filter_nil, List.foldl_cons, List.foldl_nil, row]
  · refine coreBecomes_onCore (State.threadLoadLand_eq hp) ?_
    unfold Core.loadsLand
    rw [loads]
    simp only [List.filter_cons, decide_eq_true early, decide_eq_false (Nat.not_le.2 early), ↓reduceIte, Bool.false_eq_true,
      List.filter_nil, List.foldl_nil]
    rw [← loads]

end Sys2Proof.Machine


/-! Lane operations: their issue, their times and their values (O21). -/

namespace Sys2Proof.Machine

/-! ## Issue of a first lane-row -/

/-- An event of no occurrences at the end is none. -/
theorem State.events_append_zero (s : State) (p : CoreNo) (es : List (Nat × Nat)) (code : Nat) (g : Option FoldNo) :
    s.events p (es ++ [(code, 0)]) g = s.events p es g := by
  unfold State.events
  rw [List.foldl_append]
  rfl

theorem coreRaises_drop {c : Instr} {s : State} {p : CoreNo} {e : Core} {es : List (Nat × Nat)} {code : Nat}
    (h : coreRaises c s p e (es ++ [(code, 0)])) : coreRaises c s p e es := by
  obtain ⟨t, answer, raised, frame⟩ := h
  exact ⟨t, answer, raised.trans (State.events_append_zero ..), frame⟩

/-- The stream of a core after the first lane-row of an instruction. -/
def Core.laneStream (c : Core) (i : Issuer) (w : Word128) (now per : Nat) : Stream :=
  { (c.stream i).advance now (takenCycles i per (curG w)) with
    active := if curG w = 1 then (c.stream i).active
      else some { word := w, part := 1, parts := per * curG w, due := now + 1 } }

theorem Core.stream_currier (c : Core) (i : Issuer) {z : Currier} (threads : z.threads = c.currier.threads) :
    ({ c with currier := z } : Core).stream i = c.stream i := by
  cases i with
  | thread j => exact congrArg (fun v : Vector Stream 8 => v[j]) threads
  | _ => rfl

/-- A lane operation raises what its first lane-row raises, and its stream goes on. -/
theorem State.laneIssue_raises {c : Instr} {s : State} {l p : CoreNo} {i : Issuer} {op : Nat} {w : Word128} {z : Currier}
    {es : List (Nat × Nat)} (issues : s.issuing l i op = some (p, w)) (ex : exec c s = .next (s.laneIssue l i op))
    (row : s.cores[p].issueRow s.now op w (s.microStart l w) 0
      (s.now + s.cores[p].rowCycles op w (s.microStart l w) * (curG w - 1)) = ({ s.cores[p] with currier := z }, es))
    (threads : z.threads = s.cores[p].currier.threads) :
    coreRaises c s p ({ s.cores[p] with currier := z }.setStream i
      (s.cores[p].laneStream i w s.now (s.cores[p].rowCycles op w (s.microStart l w)))) es := by
  have stream := s.cores[p].stream_currier i threads
  refine coreRaises_of (ex.trans (congrArg Host.Outcome.next ?_))
  unfold State.laneIssue
  rw [issues]
  unfold State.onCoreE
  dsimp only
  rw [row]
  generalize s.cores[p].rowCycles op w (s.microStart l w) = per
  dsimp only
  refine congrArg (fun e => State.events { s with cores := s.cores.set p e } p es) ?_
  unfold Core.laneStream Core.issued
  rw [← stream]
  by_cases one : curG w = 1
  · simp only [one, ↓reduceIte]
    cases i <;> rfl
  · simp only [one, ↓reduceIte]
    cases i with
    | thread j =>
      unfold Core.setStream Core.stream
      simp only [Fin.getElem_fin, Vector.getElem_set_self, Vector.set_set]
      rfl
    | _ => rfl

/-! ## The lane-row of a lane operation -/

/-- The operations that work lane by lane, with the commands that issue them. -/
def laneCommands (l : CoreNo) (i : Issuer) : List (Instr × Nat) :=
  [(.add l i, 0x40), (.sub l i, 0x41), (.mul l i, 0x42), (.fma l i, 0x43), (.sprod l i, 0x44), (.affine l i, 0x45),
    (.cmp l i, 0x46), (.max l i, 0x47), (.min l i, 0x48), (.lsel l i, 0x49), (.cvt l i, 0x4A), (.teval l i, 0x4B),
    (.mprog l i, 0x4C)]

theorem laneCommands_op {l : CoreNo} {i : Issuer} {c : Instr} {op : Nat} (h : (c, op) ∈ laneCommands l i) :
    0x40 ≤ op ∧ op ≤ 0x4C := by
  simp only [laneCommands, List.mem_cons, List.not_mem_nil, or_false, Prod.mk.injEq] at h
  omega

theorem exec_laneCommands {l : CoreNo} {i : Issuer} {c : Instr} {op : Nat} (h : (c, op) ∈ laneCommands l i) (s : State) :
    exec c s = .next (s.laneIssue l i op) := by
  simp only [laneCommands, List.mem_cons, List.not_mem_nil, or_false, Prod.mk.injEq] at h
  rcases h with ⟨rfl, rfl⟩ | ⟨rfl, rfl⟩ | ⟨rfl, rfl⟩ | ⟨rfl, rfl⟩ | ⟨rfl, rfl⟩ | ⟨rfl, rfl⟩ | ⟨rfl, rfl⟩ | ⟨rfl, rfl⟩ |
    ⟨rfl, rfl⟩ | ⟨rfl, rfl⟩ | ⟨rfl, rfl⟩ | ⟨rfl, rfl⟩ | ⟨rfl, rfl⟩ <;> rfl

section
variable (c : Core) (now op : Nat) (w : Word128) (start last : Nat)

/-- A lane of the first lane-row met a load of its table. -/
def Core.laneClash : Bool := (c.laneRow now op w start 0).any fun v => v.2

/-- The result of a first lane-row. -/
def Core.laneResult : ResultFl :=
  { land := last + c.latency op w start, reg := curD w % 32, fmt := curFmt w, record := curImm w, row := 0
    vals := (c.laneRow now op w start 0).map fun v => v.1, sums := softAdd w }

theorem Core.issueRow_lane (low : 0x40 ≤ op) (high : op ≤ 0x4C) : c.issueRow now op w start 0 last =
    ({ c with currier := { c.softRow w 0 with results := (c.softRow w 0).results ++ [c.laneResult now op w start last] } },
     [(0x04, 1), (0x37, b2n (c.laneClash now op w start)),
      (0x42, b2n (softAdd w && decide (1 = curG w) && (c.softRow w 0).emptyRow))]) := by
  have sum : ¬(op = 0x4F ∨ op = 0x50 ∨ op = 0x51) := by omega
  have extreme : ¬(op = 0x4D ∨ op = 0x4E) := by omega
  unfold Core.issueRow
  simp only [sum, extreme, ↓reduceIte]
  rfl

theorem Core.softRow_plain (plain : softAdd w = false) : c.softRow w 0 = c.currier := by
  unfold Core.softRow
  rw [plain]
  rfl

theorem Core.softRow_sums (sums : softAdd w = true) : c.softRow w 0 = { c.currier with
    quires := Vector.ofFn fun (n : Fin 128) =>
      if n.val < (if curG w = 1 then curK w else 128) then LaneQuire.zero else c.currier.quires[n]
    emptyRow := (c.softRow w 0).emptyRow } := by
  have cleared : ∃ b, c.softRow w 0 =
      { c.currier.clearQuires (if curG w = 1 then curK w else 128) with emptyRow := b } := by
    unfold Core.softRow
    rw [if_pos sums]
    exact ⟨_, if_pos rfl⟩
  obtain ⟨b, hb⟩ := cleared
  rw [hb, Currier.clearQuires]

theorem Core.softRow_threads : (c.softRow w 0).threads = c.currier.threads := by
  cases sums : softAdd w with
  | false => rw [Core.softRow_plain c w sums]
  | true => rw [Core.softRow_sums c w sums]

theorem Core.laneClash_iff : c.laneClash now op w start = true ↔
    ∃ lane, lane < curLanes w 0 ∧ (c.laneOp now op w start 0 lane).2 = true := by
  simp [Core.laneClash, Core.laneRow, List.any_eq_true]

end

/-! ## Times -/

section
variable (c : Core) (w : Word128) {op : Nat}

theorem Core.rowCycles_of (start : Nat) (plain : op ≠ 0x4C) : c.rowCycles op w start = if c.involves64 op w then 4 else 1 :=
  if_neg plain

theorem Core.latency_of (start : Nat) (plain : op ≠ 0x4C) : c.latency op w start =
    (if op = 0x4B then 10 else if op = 0x4D ∨ op = 0x4E then 13 else 4) + (if c.involves64 op w then 3 else 0) := by
  unfold Core.latency
  rw [if_neg plain]

/-- Every operation reads operand a. -/
theorem curA_mem_sourcesAt (j : Nat) : curA w + j ∈ sourcesAt op w j := by
  unfold sourcesAt
  split
  · exact List.mem_cons_self
  · split
    · exact List.mem_cons_self
    · split
      · exact List.mem_cons_self
      · split
        · split <;> exact List.mem_cons_self
        · exact List.mem_cons_self

theorem Core.involves64_of_source {j : Nat} (hj : j < curG w) (wide : c.currier.fmts[Fin.ofNat 32 (curA w + j)] = .b64) :
    c.involves64 op w = true := by
  refine Bool.or_eq_true_iff.2 (.inr (List.any_eq_true.2 ⟨curA w + j, ?_, decide_eq_true wide⟩))
  exact List.mem_flatMap.2 ⟨j, List.mem_range.2 hj, curA_mem_sourcesAt w j⟩

theorem Core.involves64_of_dest (wide : curFmt w = .b64) (h1 : op ≠ 0x4F) (h2 : op ≠ 0x50) (h3 : op ≠ 0x51) :
    c.involves64 op w = true := by
  have writes : writesReg op = true := by simp [writesReg, h1, h2, h3]
  unfold Core.involves64
  rw [writes, decide_eq_true wide]
  rfl

end

/-! ## Values -/

section
variable {x y z u v : Ext} {a b d e f : Rat}

theorem Ext.add_fin : (Ext.fin a).add (.fin b) = (.fin (a + b), []) := rfl
theorem Ext.sub_fin : (Ext.fin a).sub (.fin b) = (.fin (a - b), []) := by rw [sub_eq_add_neg]; rfl
theorem Ext.mul_fin : (Ext.fin a).mul (.fin b) = (.fin (a * b), []) := rfl
theorem Ext.fma_fin : (Ext.fin a).fma (.fin b) (.fin d) = (.fin (a * b + d), []) := rfl
theorem Ext.mul3_fin : (Ext.fin a).mul3 (.fin b) (.fin d) = (.fin (a * b * d), []) := rfl
theorem Ext.affine_fin : ((Ext.fin a).affine (.fin b) (.fin d) (.fin e) (.fin f)).1 = .fin ((a - b) * d * e + f) := by
  rw [sub_eq_add_neg]
  rfl

/-- The larger of two values, a NaN ignored. -/
theorem max_fin : (if (Ext.fin a).isNan then Ext.fin b else if (Ext.fin b).isNan then .fin a
    else if (Ext.fin a).lt (.fin b) then .fin b else .fin a) = .fin (max a b) := by
  by_cases h : a < b
  · rw [max_eq_right h.le]
    simp [Ext.isNan, Ext.lt, h]
  · rw [max_eq_left (not_lt.1 h)]
    simp [Ext.isNan, Ext.lt, h]

theorem min_fin : (if (Ext.fin a).isNan then Ext.fin b else if (Ext.fin b).isNan then .fin a
    else if (Ext.fin b).lt (.fin a) then .fin b else .fin a) = .fin (min a b) := by
  by_cases h : b < a
  · rw [min_eq_right h.le]
    simp [Ext.isNan, Ext.lt, h]
  · rw [min_eq_left (not_lt.1 h)]
    simp [Ext.isNan, Ext.lt, h]

end

/-- The answer of a compare. -/
def compares (code : Nat) (x y : Ext) : Bool :=
  match code with
  | 0 => !(x.isNan || y.isNan) && decide (x = y)
  | 1 => x.lt y
  | 2 => x.lt y || (!(x.isNan || y.isNan) && decide (x = y))
  | 3 => x.isNan || y.isNan
  | _ => false

theorem compares_fin (code : Nat) (a b : Rat) :
    compares code (.fin a) (.fin b) = true ↔ (code = 0 ∧ a = b) ∨ (code = 1 ∧ a < b) ∨ (code = 2 ∧ a ≤ b) := by
  match code with
  | 0 => simp [compares, Ext.isNan]
  | 1 => simp [compares, Ext.lt]
  | 2 => simp [compares, Ext.lt, Ext.isNan, le_iff_lt_or_eq]
  | 3 => simp [compares, Ext.isNan]
  | n + 4 => simp [compares]

theorem compares_nan (code : Nat) (y : Ext) : compares code .nan y = true ↔ code = 3 := by
  match code with
  | 0 => simp [compares, Ext.isNan]
  | 1 => simp [compares, Ext.lt]
  | 2 => simp [compares, Ext.lt, Ext.isNan]
  | 3 => simp [compares, Ext.isNan]
  | n + 4 => simp [compares]

section
variable (c : Core) (now : Nat) (w : Word128) (start j lane : Nat)

theorem Core.laneOp_max : (c.laneOp now 0x47 w start j lane).1.x =
    if (c.operand (curA w + j) j lane).x.isNan then (c.operand (regB w j) j lane).x
    else if (c.operand (regB w j) j lane).x.isNan then (c.operand (curA w + j) j lane).x
    else if (c.operand (curA w + j) j lane).x.lt (c.operand (regB w j) j lane).x then (c.operand (regB w j) j lane).x
    else (c.operand (curA w + j) j lane).x := rfl

theorem Core.laneOp_min : (c.laneOp now 0x48 w start j lane).1.x =
    if (c.operand (curA w + j) j lane).x.isNan then (c.operand (regB w j) j lane).x
    else if (c.operand (regB w j) j lane).x.isNan then (c.operand (curA w + j) j lane).x
    else if (c.operand (regB w j) j lane).x.lt (c.operand (curA w + j) j lane).x then (c.operand (regB w j) j lane).x
    else (c.operand (curA w + j) j lane).x := rfl

/-- LSEL takes b where a is not zero, else c. -/
theorem Core.laneOp_select : (c.laneOp now 0x49 w start j lane).1 =
    (let o := if (c.operand (curA w + j) j lane).x.isZero then c.operand (regC w j) j lane else c.operand (regB w j) j lane
     { x := o.x, neg0 := false, copy := if o.fmt = curFmt w then some o.code else none
       bad := (c.operand (curA w + j) j lane).bad || (c.operand (regB w j) j lane).bad || (c.operand (regC w j) j lane).bad
       invalid := false }) := rfl

end

theorem ignores_nan (a : Ext) {p : Bool} {b : Ext} :
    (if a.isNan then Ext.nan else if Ext.nan.isNan then a else if p then b else a) = a := by
  cases a <;> rfl

theorem if_fin (p : Prop) [Decidable p] (b : Bool) (h : b = true ↔ p) :
    Ext.fin (if b then 1 else 0) = .fin (if p then 1 else 0) :=
  congrArg Ext.fin (if_congr h rfl rfl)

/-- Settles O21: the issue by the first lane-row, the times by the formats, the values lane by lane. -/
theorem laneOperationsIssueAndCompute : Obligations.LaneOperationsIssueAndCompute := by
  unfold Obligations.LaneOperationsIssueAndCompute
  refine ⟨fun s l p i w op c hc issues start per hstart hper => ?_, fun c op start w hop => ?_,
    fun c now start j lane w a b d e f ha hb hd he hf => ?_⟩
  · subst hstart hper
    obtain ⟨low, high⟩ := laneCommands_op hc
    have opcode : opcodeOf w = op := (State.issuing_iff.1 issues).2.2.1
    have raises := State.laneIssue_raises issues (exec_laneCommands hc s) (Core.issueRow_lane _ s.now op w _ _ low high)
      (Core.softRow_threads ..)
    refine ⟨s.cores[p].laneResult s.now op w (s.microStart l w)
        (s.now + s.cores[p].rowCycles op w (s.microStart l w) * (curG w - 1)), _, s.cores[p].laneClash s.now op w (s.microStart l w),
      s.cores[p].softRow w 0, rfl, rfl, rfl, rfl, rfl, ?_, Core.laneClash_iff .., rfl, ?_, fun plain => ⟨?_, ?_⟩, fun sums => ⟨?_, ?_⟩⟩
    · exact List.map_map
    · show softAdd w = _
      unfold softAdd
      rw [opcode]
    · exact Core.softRow_plain _ w plain
    · have plain : softAdd w = false := plain
      rw [plain] at raises
      exact coreRaises_drop raises
    · exact Core.softRow_sums _ w sums
    · have sums : softAdd w = true := sums
      rw [sums, Bool.true_and, show decide (1 = curG w) = decide (curG w = 1) from decide_eq_decide.2 eq_comm] at raises
      exact raises
  · have plain : op ≠ 0x4C := by
      rintro rfl
      exact absurd hop (by decide)
    rw [Core.rowCycles_of c w start plain, Core.latency_of c w start plain]
    refine ⟨fun narrow => ?_, fun wide => ?_, Core.involves64_of_dest c w, fun j => Core.involves64_of_source c w⟩
    · rw [narrow]
      exact ⟨rfl, rfl⟩
    · rw [wide]
      refine ⟨rfl, ?_⟩
      split
      · rfl
      · split <;> rfl
  · subst ha hb hd he hf
    refine ⟨fun x y hx hy => ⟨⟨?_, ?_, ?_⟩, fun z hz => ⟨?_, ?_, fun u v hu hv => ?_⟩, ?_, ?_, ?_⟩, fun nan => ⟨?_, ?_, ?_⟩,
      fun nan => ⟨?_, ?_⟩, fun some_ => ⟨?_, fun format => ?_⟩, fun zero => ⟨?_, fun format => ?_⟩, ⟨rfl, rfl⟩, fun op hop => ?_,
      fun op hop => ?_, rfl⟩
    · show ((c.operand (curA w + j) j lane).x.add (c.operand (regB w j) j lane).x).1 = _
      rw [hx, hy, Ext.add_fin]
    · show ((c.operand (curA w + j) j lane).x.sub (c.operand (regB w j) j lane).x).1 = _
      rw [hx, hy, Ext.sub_fin]
    · show ((c.operand (curA w + j) j lane).x.mul (c.operand (regB w j) j lane).x).1 = _
      rw [hx, hy, Ext.mul_fin]
    · show ((c.operand (curA w + j) j lane).x.fma (c.operand (regB w j) j lane).x (c.operand (regC w j) j lane).x).1 = _
      rw [hx, hy, hz, Ext.fma_fin]
    · show ((c.operand (curA w + j) j lane).x.mul3 (c.operand (regB w j) j lane).x (c.operand (regC w j) j lane).x).1 = _
      rw [hx, hy, hz, Ext.mul3_fin]
    · show ((c.operand (curA w + j) j lane).x.affine (c.operand (regB w j) j lane).x (c.operand (regC w j) j lane).x
        (c.operand (curD2 w + j) j lane).x (c.operand (curE w + j) j lane).x).1 = _
      rw [hx, hy, hz, hu, hv, Ext.affine_fin]
    · refine Eq.trans ?_ (if_fin _ _ (compares_fin (fld w 35 3) x y))
      rw [← hx, ← hy]
      rfl
    · refine Eq.trans ?_ max_fin
      rw [← hx, ← hy]
      rfl
    · refine Eq.trans ?_ min_fin
      rw [← hx, ← hy]
      rfl
    · rw [Core.laneOp_max, nan]
      exact if_pos rfl
    · rw [Core.laneOp_min, nan]
      exact if_pos rfl
    · refine Eq.trans ?_ (if_fin _ _ (compares_nan (fld w 35 3) (c.operand (regB w j) j lane).x))
      rw [← nan]
      rfl
    · rw [Core.laneOp_max, nan]
      exact ignores_nan _
    · rw [Core.laneOp_min, nan]
      exact ignores_nan _
    · rw [Core.laneOp_select, some_]
      rfl
    · rw [Core.laneOp_select, some_]
      exact if_pos format
    · rw [Core.laneOp_select, zero]
      rfl
    · rw [Core.laneOp_select, zero]
      exact if_pos format
    · simp only [List.mem_cons, List.not_mem_nil, or_false] at hop
      rcases hop with rfl | rfl | rfl | rfl | rfl | rfl <;> rfl
    · simp only [List.mem_cons, List.not_mem_nil, or_false] at hop
      rcases hop with rfl | rfl | rfl <;> rfl

end Sys2Proof.Machine


/-! Row sums, extremes, statistics and stray corrections (O22). -/

namespace Sys2Proof.Machine

/-! ## Row sums and extremes -/

section
variable (c : Core) (now op : Nat) (w : Word128) (start last : Nat)

/-- What a lane gives to a row sum: the element, its square, or its squared difference. -/
def Core.sumLane (lane : Nat) : LaneVal :=
  let a := c.operand (curA w) 0 lane
  if op = 0x4F then laneVal (a.x, []) a.bad
  else if op = 0x50 then laneVal (a.x.mul a.x) a.bad
  else
    let b := c.operand (regB w 0) 0 lane
    let d := a.x.sub b.x
    let q := d.1.mul d.1
    laneVal (q.1, d.2 ++ q.2) (a.bad || b.bad)

/-- The addends of the first lane-row of a row sum. -/
def Core.rowAddends : QuireFl :=
  { land := last + c.latency op w start, vals := (List.range (curLanes w 0)).map fun lane => c.sumLane op w lane }

/-- The currier after the first lane-row of a row sum. -/
def Core.summing : Currier := { c.currier with
  quires := if bitOf w 43 then Vector.ofFn fun (n : Fin 128) =>
      if n.val < (if curG w = 1 then curK w else 128) then LaneQuire.zero else c.currier.quires[n]
    else c.currier.quires
  emptyRow := !bitOf w 43 && c.currier.emptyRow
  addends := c.currier.addends ++ [c.rowAddends op w start last] }

theorem Core.issueRow_sum (sum : op = 0x4F ∨ op = 0x50 ∨ op = 0x51) : c.issueRow now op w start 0 last =
    ({ c with currier := c.summing op w start last }, [(0x04, 1)]) := by
  unfold Core.issueRow Core.summing Core.rowAddends Core.sumLane
  simp only [sum, ↓reduceIte]
  cases bitOf w 43 with
  | false => rfl
  | true => simp only [Currier.clearQuires, decide_true, Bool.and_self, ↓reduceIte, Bool.not_true, Bool.false_and, Nat.add_zero]

/-- The extreme of a first lane-row, with its mark. -/
def Core.rowExtreme : Ext × Bool :=
  ((List.range (curLanes w 0)).map fun lane => c.operand (curA w) 0 lane).foldl
    (fun (e : Ext × Bool) o => (extremeOf (decide (op = 0x4D)) e.1 o.x, e.2 || o.bad)) (.nan, false)

/-- The result of a row extreme of one lane-row. -/
def Core.extremeResult : ResultFl :=
  { land := last + c.latency op w start, reg := curD w, fmt := curFmt w, record := curImm w, row := 0
    vals := List.replicate 128 (laneVal ((c.rowExtreme op w).1, []) (c.rowExtreme op w).2), sums := false }

theorem Core.issueRow_extreme (extreme : op = 0x4D ∨ op = 0x4E) : c.issueRow now op w start 0 last =
    ({ c with currier := if curG w = 1 then
          { c.currier with results := c.currier.results ++ [c.extremeResult op w start last], extreme := none }
        else { c.currier with extreme := some (c.rowExtreme op w) } }, [(0x04, 1)]) := by
  have sum : ¬(op = 0x4F ∨ op = 0x50 ∨ op = 0x51) := by omega
  unfold Core.issueRow Core.extremeResult Core.rowExtreme
  simp only [sum, extreme, ↓reduceIte]
  by_cases one : curG w = 1
  · simp only [one, ↓reduceIte]
    rfl
  · have more : ¬ 0 + 1 = curG w := fun h => one h.symm
    simp only [one, more, ↓reduceIte]
    rfl

end

/-! ## Row statistics -/

/-- A value of a statistic, the same in every lane. -/
def statVal (x : Ext) (bad invalid : Bool) : LaneVal := { x := x, neg0 := false, copy := none, bad := bad, invalid := invalid }

/-- What a row statistic answers: its lanes, its latency, and whether its table was being loaded. -/
def Core.statistic (c : Core) (now op : Nat) (w : Word128) : List LaneVal × Nat × Bool :=
  let t := c.currier.total (statLanes w).1
  let len : Ext := .fin ((statLanes w).2 : Rat)
  if op = 0x52 then
    let r := if c.currier.emptyRow && t.1.isFin then (.fin 0, []) else Ext.div (.fin 1) t.1
    (List.replicate 128 (statVal (round32 r.1) t.2.1 (t.2.2 || r.2.contains .invalid)), 24, false)
  else if op = 0x53 then
    let r := t.1.div len
    (List.replicate 128 (statVal (round32 r.1) t.2.1 (t.2.2 || r.2.contains .invalid)), 20, false)
  else if op = 0x54 then
    let r := t.1.div len
    let y := round32 (r.1.plus (Fmt.b32.value (curImm w)))
    let e := c.currier.evaluateAt now 3 y false none false
    (List.replicate 128 (statVal e.value (t.2.1 || e.clash) (t.2.2 || e.invalid)), 34, e.clash)
  else (c.currier.quires.toList.map fun q => statVal q.value q.bad (q.invalid && decide (q.tag = 3)), 8, false)

/-- The result of a row statistic. -/
def Core.statResult (c : Core) (now op : Nat) (w : Word128) : ResultFl :=
  { land := now + (c.statistic now op w).2.1 + (if curFmt w = .b64 then 3 else 0), reg := curD w, fmt := curFmt w
    record := curImm w, row := 0, vals := (c.statistic now op w).1, sums := false }

theorem State.statIssue_raises {c : Instr} {s : State} {l p : CoreNo} {i : Issuer} {op : Nat} {w : Word128}
    (issues : s.issuing l i op = some (p, w)) (ex : exec c s = .next (s.statIssue l i op)) :
    coreRaises c s p
      ({ s.cores[p] with currier := { s.cores[p].currier with
          results := s.cores[p].currier.results ++ [s.cores[p].statResult s.now op w] } }.setStream i
        ((s.cores[p].stream i).advance s.now (slotCycles i)))
      [(0x04, 1), (0x37, b2n (s.cores[p].statistic s.now op w).2.2)] := by
  have stream := s.cores[p].stream_currier i (z := { s.cores[p].currier with
    results := s.cores[p].currier.results ++ [s.cores[p].statResult s.now op w] }) rfl
  refine coreRaises_onCoreE (t := s.statIssue l i op) (f := fun c =>
    (({ c with currier := { c.currier with results := c.currier.results ++ [c.statResult s.now op w] } }).issued i s.now
        (slotCycles i),
      [(0x04, 1), (0x37, b2n (c.statistic s.now op w).2.2)])) ?_ ?_ ex
  · unfold State.statIssue
    rw [issues]
    rfl
  · unfold Core.issued
    rw [stream]

/-- The statistics, with the commands that issue them and their latencies. -/
def statCommands (l : CoreNo) (i : Issuer) : List (Instr × Nat × Nat) :=
  [(.rrecip l i, 0x52, 24), (.rmean l i, 0x53, 20), (.rrsqrt l i, 0x54, 34), (.qread l i, 0x55, 8)]

theorem exec_statCommands {l : CoreNo} {i : Issuer} {c : Instr} {op lat : Nat} (h : (c, op, lat) ∈ statCommands l i) (s : State) :
    exec c s = .next (s.statIssue l i op) := by
  simp only [statCommands, List.mem_cons, List.not_mem_nil, or_false, Prod.mk.injEq] at h
  rcases h with ⟨rfl, rfl, rfl⟩ | ⟨rfl, rfl, rfl⟩ | ⟨rfl, rfl, rfl⟩ | ⟨rfl, rfl, rfl⟩ <;> rfl

section
variable (c : Core) (now : Nat) (w : Word128)

theorem Core.statistic_latency {l : CoreNo} {i : Issuer} {k : Instr} {op lat : Nat} (h : (k, op, lat) ∈ statCommands l i) :
    (c.statistic now op w).2.1 = lat ∧ (c.statistic now op w).1.length = 128 ∧
      (op ≠ 0x54 → (c.statistic now op w).2.2 = false) := by
  simp only [statCommands, List.mem_cons, List.not_mem_nil, or_false, Prod.mk.injEq] at h
  rcases h with ⟨-, rfl, rfl⟩ | ⟨-, rfl, rfl⟩ | ⟨-, rfl, rfl⟩ | ⟨-, rfl, rfl⟩
  · exact ⟨rfl, List.length_replicate, fun _ => rfl⟩
  · exact ⟨rfl, List.length_replicate, fun _ => rfl⟩
  · exact ⟨rfl, List.length_replicate, fun h => absurd rfl h⟩
  · refine ⟨rfl, ?_, fun _ => rfl⟩
    show (c.currier.quires.toList.map fun q => statVal q.value q.bad (q.invalid && decide (q.tag = 3))).length = 128
    rw [List.length_map, Vector.length_toList]

theorem Ext.div_fin (a : Rat) {b : Rat} (some_ : b ≠ 0) : (Ext.fin a).div (.fin b) = (.fin (a / b), []) := if_neg some_

/-- The row length is never 0. -/
theorem rowLength_ne_zero : ((statLanes w).2 : Rat) ≠ 0 := by
  have pos : 0 < (statLanes w).2 := Nat.lt_add_left _ (Nat.succ_pos _)
  exact_mod_cast pos.ne'

variable {q : Rat} (total : (c.currier.total (statLanes w).1).1 = .fin q)
include total

theorem Core.reciprocal_value (some_ : q ≠ 0 ∨ c.currier.emptyRow = true) {v : LaneVal} (hv : v ∈ (c.statistic now 0x52 w).1) :
    v.x = round32 (.fin (if c.currier.emptyRow then 0 else 1 / q)) ∧ v.bad = (c.currier.total (statLanes w).1).2.1 := by
  obtain rfl := List.eq_of_mem_replicate hv
  refine ⟨?_, rfl⟩
  show round32 (if c.currier.emptyRow && (c.currier.total (statLanes w).1).1.isFin then (.fin 0, [])
    else Ext.div (.fin 1) (c.currier.total (statLanes w).1).1).1 = _
  rw [total]
  cases empty : c.currier.emptyRow with
  | true => rfl
  | false =>
    have q0 : q ≠ 0 := some_.resolve_right fun h => Bool.false_ne_true (empty.symm.trans h)
    rw [show (false && (Ext.fin q).isFin) = false from rfl, if_neg Bool.false_ne_true, if_neg Bool.false_ne_true, Ext.div_fin 1 q0]

theorem Core.mean_value {v : LaneVal} (hv : v ∈ (c.statistic now 0x53 w).1) :
    v.x = round32 (.fin (q / ((statLanes w).2 : Rat))) ∧ v.bad = (c.currier.total (statLanes w).1).2.1 := by
  obtain rfl := List.eq_of_mem_replicate hv
  refine ⟨?_, rfl⟩
  show round32 ((c.currier.total (statLanes w).1).1.div (.fin ((statLanes w).2 : Rat))).1 = _
  rw [total, Ext.div_fin q (rowLength_ne_zero w)]

theorem Core.root_value {e : Rat} (added : Fmt.b32.value (curImm w) = .fin e) {v : LaneVal}
    (hv : v ∈ (c.statistic now 0x54 w).1) :
    v.x = (c.currier.evaluateAt now 3 (round32 (.fin (q / ((statLanes w).2 : Rat) + e))) false none false).value := by
  obtain rfl := List.eq_of_mem_replicate hv
  show (c.currier.evaluateAt now 3 (round32 (((c.currier.total (statLanes w).1).1.div (.fin ((statLanes w).2 : Rat))).1.plus
    (Fmt.b32.value (curImm w)))) false none false).value = _
  rw [total, Ext.div_fin q (rowLength_ne_zero w), added]
  rfl

end

theorem Core.quire_value (c : Core) (now : Nat) (w : Word128) (lane : Fin 128) :
    ∃ v, (c.statistic now 0x55 w).1[lane.val]? = some v ∧ v.x = c.currier.quires[lane].value ∧
      v.bad = c.currier.quires[lane].bad := by
  refine ⟨statVal c.currier.quires[lane].value c.currier.quires[lane].bad
    (c.currier.quires[lane].invalid && decide (c.currier.quires[lane].tag = 3)), ?_, rfl, rfl⟩
  show (c.currier.quires.toList.map fun q => statVal q.value q.bad (q.invalid && decide (q.tag = 3)))[lane.val]? = _
  rw [List.getElem?_map, List.getElem?_eq_getElem (by rw [Vector.length_toList]; exact lane.isLt), Vector.getElem_toList]
  rfl

/-! ## STRAY -/

/-- The core after the first cycle of a STRAY, which has found `e` in a scan. -/
def Core.strayFirst (e : Core) (w : Word128) (tiles now : Nat) : Core :=
  let x := e.strayEntry w tiles 0
  let ok := decide (e.acc.cls (fld w 90 6) = 0)
  let f : StrayFl := { issue := now, adds := if ok then x.1 else []
                       tags := if ok then x.2.1 else x.2.1.map fun y => (y.1, y.2.1, y.2.2.1, 4) }
  let d := if x.2.2 = 0 then e
    else e.setTensor (fld w 29 31) { e.tensor (fld w 29 31) with clips := (e.tensor (fld w 29 31)).clips + x.2.2 }
  { d with currier := { d.currier with strays := d.currier.strays ++ [f] } }

section
variable {c e : Core} {now : Nat} {w : Word128} {evs : List (Nat × Nat)} (found : (e, evs) = c.scan now (c.strayParts w)) (tiles : Nat)
include found

theorem Core.strayPart_empty (none : e.pasture.num (curImm w) 1 = 0) : c.strayPart now w tiles 0 = (e, evs) := by
  unfold Core.strayPart
  rw [if_pos rfl, ← found]
  dsimp only
  rw [none]
  rfl

theorem Core.strayPart_first (some_ : 1 ≤ e.pasture.num (curImm w) 1) : c.strayPart now w tiles 0 =
    (e.strayFirst w tiles now, evs ++ [(0x18, (e.strayEntry w tiles 0).2.2), (0x31, b2n !decide (e.acc.cls (fld w 90 6) = 0))]) := by
  unfold Core.strayPart
  rw [if_pos rfl, ← found]
  dsimp only
  rw [if_pos (by omega), decide_eq_true rfl]
  rfl

end

/-- A STRAY of its own kind, from the first of its parts. -/
theorem State.strayIssue_raises {s : State} {l p : CoreNo} {w : Word128} {d : Core} {es : List (Nat × Nat)} {c : Instr}
    (issues : s.issuing l .currier 0x56 = some (p, w)) (part : s.cores[p].strayPart s.now w (s.strayTiles l w) 0 = (d, es))
    (stream : d.cstream = s.cores[p].cstream) (ex : exec c s = .next (s.strayIssue l (bitOf w 82))) :
    coreRaises c s p { d with cstream := { s.cores[p].cstream.advance s.now 64 with
      active := some { word := w, part := 1, parts := 64, due := s.now + 1 } } } es := by
  refine coreRaises_onCoreE (t := s.strayIssue l (bitOf w 82)) (f := fun c =>
    let r := c.strayPart s.now w (s.strayTiles l w) 0
    let c := r.1.issued .currier s.now 64
    (c.setStream .currier { c.cstream with active := some { word := w, part := 1, parts := 64, due := s.now + 1 } }, r.2)) ?_ ?_ ex
  · unfold State.strayIssue
    rw [issues]
    exact if_pos (beq_self_eq_true _)
  · dsimp only
    rw [part, ← stream]
    rfl

/-- The row sums and the row extremes. -/
theorem sum_ops {l : CoreNo} {i : Issuer} {c : Instr} {op : Nat}
    (h : (c, op) ∈ [(Instr.rsum l i, 0x4F), (.rsumsq l i, 0x50), (.rsumsd l i, 0x51)]) (s : State) :
    (op = 0x4F ∨ op = 0x50 ∨ op = 0x51) ∧ exec c s = .next (s.laneIssue l i op) := by
  simp only [List.mem_cons, List.not_mem_nil, or_false, Prod.mk.injEq] at h
  rcases h with ⟨rfl, rfl⟩ | ⟨rfl, rfl⟩ | ⟨rfl, rfl⟩
  · exact ⟨.inl rfl, rfl⟩
  · exact ⟨.inr (.inl rfl), rfl⟩
  · exact ⟨.inr (.inr rfl), rfl⟩

theorem extreme_ops {l : CoreNo} {i : Issuer} {c : Instr} {op : Nat} (h : (c, op) ∈ [(Instr.rmax l i, 0x4D), (.rmin l i, 0x4E)])
    (s : State) : (op = 0x4D ∨ op = 0x4E) ∧ exec c s = .next (s.laneIssue l i op) := by
  simp only [List.mem_cons, List.not_mem_nil, or_false, Prod.mk.injEq] at h
  rcases h with ⟨rfl, rfl⟩ | ⟨rfl, rfl⟩
  · exact ⟨.inl rfl, rfl⟩
  · exact ⟨.inr rfl, rfl⟩

/-- Settles O22: sums and extremes by their first lane-row, statistics by their operation, STRAY by its first entry. -/
theorem rowAndStrayOperationsIssue : Obligations.RowAndStrayOperationsIssue := by
  unfold Obligations.RowAndStrayOperationsIssue
  refine ⟨fun s l p i w op c issues per t hper ht => ⟨fun hc => ?_, fun hc x hx => ?_⟩,
    fun s l p i w op lat c hc issues total htotal => ?_, fun s l p w issues c d e evs t ok hcc hd he ht hok => ?_⟩
  · subst hper ht
    obtain ⟨sum, ex⟩ := sum_ops hc s
    refine ⟨s.cores[p].rowAddends op w (s.microStart l w) (s.now + s.cores[p].rowCycles op w (s.microStart l w) * (curG w - 1)),
      _, rfl, ?_, fun lane v hlane hv x hx => ?_, rfl,
      State.laneIssue_raises issues ex (Core.issueRow_sum _ _ _ _ _ _ sum) rfl⟩
    · exact (List.length_map _).trans List.length_range
    · have same : s.cores[p].sumLane op w lane = v := by
        have := hv
        rw [show (s.cores[p].rowAddends op w (s.microStart l w) (s.now + s.cores[p].rowCycles op w (s.microStart l w) *
          (curG w - 1))).vals = (List.range (curLanes w 0)).map fun lane => s.cores[p].sumLane op w lane from rfl,
          List.getElem?_map, List.getElem?_range hlane] at this
        exact Option.some.inj this
      subst same
      refine ⟨?_, ?_, ?_⟩
      · rintro rfl
        exact hx
      · rintro rfl
        show ((s.cores[p].operand (curA w) 0 lane).x.mul (s.cores[p].operand (curA w) 0 lane).x).1 = _
        rw [hx, Ext.mul_fin]
      · rintro y rfl hy
        show (((s.cores[p].operand (curA w) 0 lane).x.sub (s.cores[p].operand (regB w 0) 0 lane).x).1.mul
          ((s.cores[p].operand (curA w) 0 lane).x.sub (s.cores[p].operand (regB w 0) 0 lane).x).1).1 = _
        rw [hx, hy, Ext.sub_fin, Ext.mul_fin]
  · subst hper ht
    obtain ⟨extreme, ex⟩ := extreme_ops hc s
    have raises := State.laneIssue_raises issues ex (Core.issueRow_extreme _ _ _ _ _ _ extreme) (by split <;> rfl)
    obtain rfl : x = s.cores[p].rowExtreme op w := hx
    refine ⟨fun one => ?_, fun more => ?_⟩
    · refine ⟨s.cores[p].extremeResult op w (s.microStart l w)
        (s.now + s.cores[p].rowCycles op w (s.microStart l w) * (curG w - 1)), ?_, rfl, rfl, List.length_replicate, fun v hv => ?_, ?_⟩
      · show s.now + _ * (curG w - 1) + _ = _
        rw [one, Nat.sub_self, Nat.mul_zero, Nat.add_zero]
      · obtain rfl := List.eq_of_mem_replicate hv
        exact ⟨rfl, rfl⟩
      · rw [if_pos one] at raises
        exact raises
    · rw [if_neg more] at raises
      exact raises
  · subst htotal
    obtain ⟨latency, length, quiet⟩ := s.cores[p].statistic_latency s.now w hc
    refine ⟨s.cores[p].statResult s.now op w, (s.cores[p].statistic s.now op w).2.2, ?_, rfl, rfl, length, ?_, ?_, ?_, ?_, quiet,
      State.statIssue_raises issues (exec_statCommands hc s)⟩
    · show s.now + (s.cores[p].statistic s.now op w).2.1 + _ = _
      rw [latency]
    · rintro rfl q total some_ v hv
      exact Core.reciprocal_value _ s.now w total some_ hv
    · rintro rfl q total v hv
      exact Core.mean_value _ s.now w total hv
    · rintro rfl q e total added v hv
      exact Core.root_value _ s.now w total added hv
    · rintro rfl lane
      exact Core.quire_value _ s.now w lane
  · subst hcc hd ht
    have ex : exec (if bitOf w 82 then .strayWeight l else .strayActivation l) s = .next (s.strayIssue l (bitOf w 82)) := by
      cases bitOf w 82 <;> rfl
    have other : exec (if bitOf w 82 then .strayActivation l else .strayWeight l) s = .next (s.strayIssue l (!bitOf w 82)) := by
      cases bitOf w 82 <;> rfl
    have frame := s.cores[p].scan_readOnly s.now (s.cores[p].strayParts w)
    rw [← he] at frame
    have stream := congrArg Core.cstream frame
    have acc := congrArg Core.acc frame
    change e.cstream = s.cores[p].cstream at stream
    change e.acc = s.cores[p].acc at acc
    have agrees : ok = decide (e.acc.cls (fld w 90 6) = 0) := by
      rw [acc]
      exact Bool.eq_iff_iff.2 (hok.trans decide_eq_true_iff.symm)
    refine ⟨other.trans (congrArg Host.Outcome.next ?_), fun none => ?_, fun x hx some_ => ?_⟩
    · unfold State.strayIssue
      rw [issues]
      exact if_neg (by cases bitOf w 82 <;> decide)
    · exact State.strayIssue_raises issues (Core.strayPart_empty he _ none) stream ex
    · subst hx
      have raises := State.strayIssue_raises issues (Core.strayPart_first he _ some_)
        (by unfold Core.strayFirst; dsimp only; split <;> exact stream) ex
      unfold Core.strayFirst at raises
      rw [← agrees] at raises
      refine ⟨{ issue := s.now, adds := if ok then (e.strayEntry w (s.strayTiles l w) 0).1 else []
                tags := if ok then (e.strayEntry w (s.strayTiles l w) 0).2.1
                  else (e.strayEntry w (s.strayTiles l w) 0).2.1.map fun y => (y.1, y.2.1, y.2.2.1, 4) }, rfl, ?_, ?_, ?_⟩
      · rintro rfl
        exact ⟨rfl, rfl⟩
      · rintro rfl
        exact ⟨rfl, rfl⟩
      · by_cases clips : (e.strayEntry w (s.strayTiles l w) 0).2.2 = 0
        · simp only [clips, ↓reduceIte] at raises ⊢
          exact raises
        · simp only [clips, ↓reduceIte] at raises ⊢
          exact raises

end Sys2Proof.Machine


/-! START, REARM and STOP, and what a re-arm does to a chain (O25). -/

namespace Sys2Proof.Machine

/-! ## Re-arms -/

section
variable (x : DStream) (r : Rearm) (tick : Nat)

theorem DStream.rearmBy_idle (idle : x.status = .idle) : x.rearmBy r tick = (x, 1) := by
  unfold DStream.rearmBy
  rw [idle]

theorem DStream.rearmBy_pending (busy : x.status ≠ .idle) (pending : x.rearm.isSome = true) : x.rearmBy r tick = (x, 1) := by
  unfold DStream.rearmBy
  cases status : x.status with
  | idle => exact absurd status busy
  | armed => exact if_pos pending
  | running => exact if_pos pending

theorem DStream.rearmBy_armed (armed : x.status = .armed) (free : x.rearm = none) :
    x.rearmBy r tick = if x.ended then (x.applyRearm r tick, 0) else ({ x with rearm := some r }, 0) := by
  unfold DStream.rearmBy
  rw [armed]
  exact if_neg (by rw [free]; exact Bool.false_ne_true)

theorem DStream.rearmBy_running (running : x.status = .running) (free : x.rearm = none) : x.rearmBy r tick =
    if x.allStarted && decide (x.ungranted = 0) then (x.applyRearm r tick, 0) else ({ x with rearm := some r }, 0) := by
  unfold DStream.rearmBy
  rw [running]
  exact if_neg (by rw [free]; exact Bool.false_ne_true)

/-- New bases move the chain as a whole. -/
theorem DStream.applyRearm_moves {a0 b0 a b : Nat} (plain : r.tick = false) (lead : x.lead = some (a0, b0)) (src : r.src = some a)
    (dst : r.dst = some b) :
    (x.applyRearm r tick).lead = some (a, b) ∧
      (x.applyRearm r tick).descs = (x.descs.filter fun e => dPersistent e.word).map fun y =>
        { y with src0 := wrapN ((y.src0 : Int) + (a : Int) - a0) 32, dst0 := wrapN ((y.dst0 : Int) + (b : Int) - b0) 32
                 src := wrapN ((y.src0 : Int) + (a : Int) - a0) 32, dst := wrapN ((y.dst0 : Int) + (b : Int) - b0) 32 } := by
  unfold DStream.applyRearm
  dsimp only
  rw [plain, lead, src, dst]
  exact ⟨rfl, rfl⟩

/-- A tick re-arm moves every descriptor from its own base, at its source or its destination. -/
theorem DStream.applyRearm_tick {ctx : Word256} (byTick : r.tick = true) (hctx : x.ctx = some ctx) (some_ : 1 ≤ xMod ctx) :
    (x.applyRearm r tick).lead = x.lead ∧
      (x.applyRearm r tick).descs = (x.descs.filter fun e => dPersistent e.word).map fun e =>
        if xTarget ctx then { e with src := e.src0, dst := (e.dst0 + fld ctx 104 24 * 256 * (tick % xMod ctx)) % 2 ^ 32 }
        else { e with src := (e.src0 + fld ctx 104 24 * 256 * (tick % xMod ctx)) % 2 ^ 32, dst := e.dst0 } := by
  have modulus : max 1 (xMod ctx) = xMod ctx := max_eq_right some_
  unfold DStream.applyRearm
  dsimp only
  rw [byTick, hctx, Option.getD_some, modulus]
  refine ⟨?_, rfl⟩
  cases x.lead <;> rfl

end

/-! ## STOP of a stream -/

section
variable {x : DStream} (tick : Nat)

theorem DStream.reset_settle : DStream.reset.settle tick = DStream.reset := rfl

theorem DStream.settle_idle (idle : x.status = .idle) (free : x.rearm = none) : x.settle tick = x := by
  unfold DStream.settle
  simp only [free, idle]
  rfl

/-- A stream that is not running any unit and stops is idle. -/
theorem DStream.settle_stopped (running : x.status = .running) (free : x.rearm = none) (started : x.allStarted = true)
    (empty : x.units = []) (held : ∀ e ∈ x.descs, e.held = none) (stopping : x.stopping = true) : x.settle tick = DStream.reset := by
  have passed : (x.descs.all fun e => e.held.isNone) = true :=
    List.all_eq_true.2 fun e he => by rw [held e he]; rfl
  unfold DStream.settle
  simp only [free, running, started, empty, passed, stopping]
  simp

theorem DStream.settle_busy (free : x.rearm = none) (units : x.units ≠ []) : x.settle tick = x := by
  have filled : x.units.isEmpty = false := by simpa using units
  unfold DStream.settle
  simp only [free, filled]
  simp

/-- What a running stream that is stopped keeps: the units of which some beat is granted. -/
def DStream.stopped (x : DStream) : DStream := { x with
  units := (x.units.filter fun u => u.granted).map fun u => { u with last := u.last &&
    !(decide (u.run = x.runNo) || x.units.any fun v => decide (v.run = u.run) && !v.granted) }
  stopping := true, rearm := none, ended := true, want := false, cur := x.descs.length }

theorem DStream.stop_running (running : x.status = .running) :
    x.stop = (x.stopped, x.units.length - (x.units.filter fun u => u.granted).length) := by
  unfold DStream.stop
  rw [running]
  rfl

theorem DStream.stop_idle (idle : x.status = .idle) : x.stop = (x, 0) := by
  unfold DStream.stop
  rw [idle]

theorem DStream.stop_armed (armed : x.status = .armed) : x.stop = (DStream.reset, 0) := by
  unfold DStream.stop
  rw [armed]

end

theorem Core.setDs_self (c : Core) (d : DroverNo) (i : DStreamNo) : c.setDs d i (c.ds d i) = c := by
  unfold Core.setDs Core.ds vmod
  simp

/-! ## The three instructions -/

section
variable {s : State} {l p : CoreNo} {w : Word128}

theorem sharedOf_start (op : opcodeOf w = 0x80 ∨ opcodeOf w = 0x82) :
    sharedOf l w = some (.dstream (Fin.ofNat 4 (fld w 94 2)) (Fin.ofNat 8 (fld w 91 3))) := by
  unfold sharedOf
  dsimp only
  obtain op | op := op
  · rw [op]
    rfl
  · rw [op]
    rfl

theorem sharedOf_rearm (op : opcodeOf w = 0x81) :
    sharedOf l w = some (.dstream (Fin.ofNat 4 (fld w 62 2)) (Fin.ofNat 8 (fld w 59 3))) := by
  unfold sharedOf
  dsimp only
  rw [op]
  rfl

/-- The re-arm that a REARM word gives. -/
def Stream.rearmOf (t : Stream) (w : Word128) (now instant : Nat) : Rearm :=
  { src := some (rearmBase t (fld w 96 32) (bitOf w 57) (fld w 55 2)).1
    dst := some (rearmBase t (fld w 64 32) (bitOf w 54) (fld w 52 2)).1
    origin := if bitOf w 58 then now else instant, relative := bitOf w 58
    bad := (rearmBase t (fld w 96 32) (bitOf w 57) (fld w 55 2)).2 || (rearmBase t (fld w 64 32) (bitOf w 54) (fld w 52 2)).2
    tick := false }

/-- The core after a STOP, but for its drover stream. -/
def Core.stopped (c : Core) (d : DroverNo) (i : DStreamNo) (tick : Nat) : Core :=
  let x := c.ds d i
  let e := if (x.ctx.any xRingOn) then
      c.onRing (xRing (x.ctx.getD 0)) fun r => { r with started := r.started - x.stop.2 } else c
  e.setDs d i (x.stop.1.settle tick)

theorem Core.stopped_frame (c : Core) (d : DroverNo) (i : DStreamNo) (tick : Nat) :
    c.stopped d i tick = { c with drovers := (c.stopped d i tick).drovers, rings := (c.stopped d i tick).rings } ∧
      (c.stopped d i tick).ds d i = (c.ds d i).stop.1.settle tick ∧
      ∀ d2 i2, (d2, i2) ≠ (d, i) → (c.stopped d i tick).ds d2 i2 = c.ds d2 i2 := by
  unfold Core.stopped
  dsimp only
  refine ⟨by split <;> rfl, Core.setDs_ds_same .., fun d2 i2 other => ?_⟩
  rw [Core.setDs_ds_other _ _ fun h => other (Prod.ext h.1 h.2)]
  split <;> rfl

theorem State.stopOp_eq (issues : s.issuing l .drover 0x82 = some (p, w)) : s.stopOp l =
    if s.turn l .drover (some (.dstream (Fin.ofNat 4 (fld w 94 2)) (Fin.ofNat 8 (fld w 91 3)))) then
      s.onCore p fun c => (c.stopped (Fin.ofNat 4 (fld w 94 2)) (Fin.ofNat 8 (fld w 91 3)) s.tick.number.toNat).issued .drover s.now 1
    else s := by
  obtain ⟨-, -, op, -⟩ := State.issuing_iff.1 issues
  unfold State.stopOp
  rw [issues]
  dsimp only
  rw [sharedOf_start (.inr op)]
  cases s.turn l .drover (some (.dstream (Fin.ofNat 4 (fld w 94 2)) (Fin.ofNat 8 (fld w 91 3)))) with
  | false => rfl
  | true =>
    rw [Bool.not_true, if_neg Bool.false_ne_true, if_pos rfl]
    refine congrArg (fun f => s.onCore p f) (funext fun c => ?_)
    unfold Core.stopped startStream
    dsimp only
    cases (c.ds (Fin.ofNat 4 (fld w 94 2)) (Fin.ofNat 8 (fld w 91 3))).ctx with
    | none => rfl
    | some ctx => rfl

end

section
variable {s : State} {l p : CoreNo} {w : Word128}

theorem State.startOp_eq (issues : s.issuing l .drover 0x80 = some (p, w))
    (turn : s.turn l .drover (some (.dstream (Fin.ofNat 4 (fld w 94 2)) (Fin.ofNat 8 (fld w 91 3)))) = true) :
    s.startOp l (bitOf w 89) = s.onCoreE p fun c =>
      let q := (c.ds (Fin.ofNat 4 (fld w 94 2)) (Fin.ofNat 8 (fld w 91 3))).start ((s.foldOf l).getD 0) (fld w 96 32)
        (if bitOf w 90 then s.now else s.tick.instant) (bitOf w 90) (bitOf w 89) false
      ((c.setDs (Fin.ofNat 4 (fld w 94 2)) (Fin.ofNat 8 (fld w 91 3)) q.1).issued .drover s.now 1, [(0x29, q.2)]) := by
  obtain ⟨-, -, op, -⟩ := State.issuing_iff.1 issues
  unfold State.startOp
  rw [issues]
  dsimp only
  rw [sharedOf_start (.inl op), turn]
  exact if_pos (by rw [beq_self_eq_true]; rfl)

/-- Out of its turn, or of the other kind than its word's, a START changes nothing. -/
theorem State.startOp_none (issues : s.issuing l .drover 0x80 = some (p, w)) {armOnly : Bool}
    (none : armOnly ≠ bitOf w 89 ∨ s.turn l .drover (some (.dstream (Fin.ofNat 4 (fld w 94 2)) (Fin.ofNat 8 (fld w 91 3)))) = false) :
    s.startOp l armOnly = s := by
  obtain ⟨-, -, op, -⟩ := State.issuing_iff.1 issues
  unfold State.startOp
  rw [issues]
  dsimp only
  rw [sharedOf_start (.inl op)]
  refine if_neg fun both => ?_
  obtain ⟨kind, turn⟩ := Bool.and_eq_true_iff.1 both
  obtain other | waits := none
  · exact other (beq_iff_eq.1 kind).symm
  · exact Bool.false_ne_true (waits.symm.trans turn)

theorem State.rearmOp_eq (issues : s.issuing l .drover 0x81 = some (p, w)) : s.rearmOp l =
    if s.turn l .drover (some (.dstream (Fin.ofNat 4 (fld w 62 2)) (Fin.ofNat 8 (fld w 59 3)))) then
      s.onCoreE p fun c =>
        let q := (c.ds (Fin.ofNat 4 (fld w 62 2)) (Fin.ofNat 8 (fld w 59 3))).rearmBy (c.dstream.rearmOf w s.now s.tick.instant)
          s.tick.number.toNat
        ((c.setDs (Fin.ofNat 4 (fld w 62 2)) (Fin.ofNat 8 (fld w 59 3)) q.1).issued .drover s.now 1, [(0x29, q.2)])
    else s := by
  obtain ⟨-, -, op, -⟩ := State.issuing_iff.1 issues
  unfold State.rearmOp
  rw [issues]
  dsimp only
  rw [sharedOf_rearm op]
  cases s.turn l .drover (some (.dstream (Fin.ofNat 4 (fld w 62 2)) (Fin.ofNat 8 (fld w 59 3)))) <;> rfl

end

/-- The core of a stopped stream once its drover stream has gone on. -/
theorem Core.stopped_issued (c : Core) (d : DroverNo) (i : DStreamNo) (tick now : Nat) :
    (c.stopped d i tick).issued .drover now 1 = { c.stopped d i tick with dstream := c.dstream.advance now 1 } := by
  rw [(c.stopped_frame d i tick).1]
  rfl

theorem Core.onRing_self (c : Core) (r : RingNo) : (c.onRing r fun x => { x with started := x.started - 0 }) = c := by
  show { c with rings := c.rings.set r.val c.rings[r.val] } = c
  rw [Vector.set_getElem_self]

/-- Settles O25: START, REARM and STOP by the state of their stream, a re-arm by what it is given. -/
theorem droverInstructionsAndRearm : Obligations.DroverInstructionsAndRearm := by
  unfold Obligations.DroverInstructionsAndRearm
  refine ⟨fun s l p w => ⟨fun issues d i c other hd hi hc ho => ?_, fun issues d i a b r hd hi ha hb hr => ?_,
    fun issues d i hd hi => ?_⟩, fun x r tick => ?_⟩
  · subst hd hi hc ho
    have ex : exec (if bitOf w 89 then .startArmOnly l else .start l) s = .next (s.startOp l (bitOf w 89)) := by
      cases bitOf w 89 <;> rfl
    have exOther : exec (if bitOf w 89 then .start l else .startArmOnly l) s = .next (s.startOp l (!bitOf w 89)) := by
      cases bitOf w 89 <;> rfl
    refine ⟨exOther.trans (congrArg _ (State.startOp_none issues (.inl (by cases bitOf w 89 <;> decide)))),
      fun waits => ex.trans (congrArg _ (State.startOp_none issues (.inr waits))), fun turn => ⟨fun idle => ?_, fun busy => ?_⟩⟩
    · refine coreRaises_onCoreE (State.startOp_eq issues turn) ?_ ex
      unfold DStream.start
      rw [if_neg fun busy => busy idle]
      rfl
    · refine coreRaises_onCoreE (State.startOp_eq issues turn) ?_ ex
      unfold DStream.start
      rw [if_pos (show (s.cores[p].ds _ _).status ≠ .idle from busy)]
      dsimp only
      rw [Core.setDs_self]
      rfl
  · subst hd hi ha hb
    have same : r = s.cores[p].dstream.rearmOf w s.now s.tick.instant := by
      rw [hr]
      unfold Stream.rearmOf rearmBase
      cases bitOf w 57 <;> cases bitOf w 54 <;> rfl
    subst same
    have op := State.rearmOp_eq issues
    refine ⟨fun waits => exec_next (op.trans (if_neg fun turn => Bool.false_ne_true (waits.symm.trans turn))),
      fun turn => ⟨fun idle => ?_, fun _ => coreRaises_onCoreE (op.trans (if_pos turn)) rfl⟩⟩
    refine coreRaises_onCoreE (op.trans (if_pos turn)) ?_
    rw [show (s.cores[p].ds _ _).rearmBy _ _ = _ from DStream.rearmBy_idle _ _ _ idle]
    dsimp only
    rw [Core.setDs_self]
    rfl
  · subst hd hi
    have op := State.stopOp_eq issues
    refine ⟨fun waits => exec_next (op.trans (if_neg fun turn => Bool.false_ne_true (waits.symm.trans turn))), fun turn => ?_⟩
    obtain ⟨frame, stream, others⟩ := s.cores[p].stopped_frame (Fin.ofNat 4 (fld w 94 2)) (Fin.ofNat 8 (fld w 91 3))
      s.tick.number.toNat
    have becomes : coreBecomes (.stop l) s p _ := coreBecomes_onCore (op.trans (if_pos turn)) (Core.stopped_issued ..)
    refine ⟨⟨_, becomes, ?_, others⟩, fun idle free => ?_, fun armed => ⟨_, becomes, ?_⟩,
      fun keep running hkeep => ⟨fun none held => ⟨_, becomes, ?_⟩, fun some_ => ⟨_, becomes, ?_, fun ctx hctx on => ?_⟩⟩⟩
    · exact congrArg Core.quiet frame
    · have same : s.cores[p].stopped (Fin.ofNat 4 (fld w 94 2)) (Fin.ofNat 8 (fld w 91 3)) s.tick.number.toNat = s.cores[p] := by
        unfold Core.stopped
        dsimp only
        rw [show (s.cores[p].ds _ _).stop = _ from DStream.stop_idle idle, show (s.cores[p].ds _ _).settle _ = _ from DStream.settle_idle _ idle free]
        rw [Core.onRing_self, ite_self, Core.setDs_self]
      rw [same] at becomes
      exact becomes
    · rw [stream, show (s.cores[p].ds _ _).stop = _ from DStream.stop_armed armed]
      rfl
    · subst hkeep
      rw [stream, show (s.cores[p].ds _ _).stop = _ from DStream.stop_running running]
      refine DStream.settle_stopped _ running rfl ?_ ?_ held rfl
      · exact Bool.and_eq_true_iff.2 ⟨rfl, decide_eq_true (le_refl _)⟩
      · exact List.map_eq_nil_iff.2 none
    · subst hkeep
      rw [stream, show (s.cores[p].ds _ _).stop = _ from DStream.stop_running running]
      exact DStream.settle_busy _ rfl fun empty => some_ (List.map_eq_nil_iff.1 empty)
    · subst hkeep
      unfold Core.stopped
      dsimp only
      rw [show (s.cores[p].ds _ _).stop = _ from DStream.stop_running running, show (s.cores[p].ds _ _).ctx = some ctx from hctx]
      rw [Option.any_some, on]
      rfl
  · exact ⟨x.rearmBy_pending r tick, fun armed free => ⟨fun ended => (x.rearmBy_armed r tick armed free).trans (if_pos ended),
        fun more => (x.rearmBy_armed r tick armed free).trans (if_neg (by rw [more]; exact Bool.false_ne_true))⟩,
      fun running free => ⟨fun busy => (x.rearmBy_running r tick running free).trans (if_neg fun both => by
          obtain ⟨started, none⟩ := Bool.and_eq_true_iff.1 both
          exact busy.elim (fun more => Bool.false_ne_true (more.symm.trans started)) fun left => left (of_decide_eq_true none)),
        fun started none => (x.rearmBy_running r tick running free).trans (if_pos (by rw [started, decide_eq_true none]; rfl))⟩,
      ⟨rfl, rfl, rfl, rfl, rfl, rfl⟩, fun a0 b0 a b => x.applyRearm_moves r tick, fun ctx => x.applyRearm_tick r tick⟩

end Sys2Proof.Machine


/-! Results and addends of the currier land (O23). -/

namespace Sys2Proof.Machine

/-! ## Addends into lane quires -/

section
variable (q : LaneQuire) (v : LaneVal) {x : Rat}

theorem LaneQuire.add_sum (fin : v.x = .fin x) (small : absQ x < twoPow 256) :
    q.add v = ({ q with sum := q.sum + BitVec.ofInt 640 (truncQ (x * twoPow 320)), bad := q.bad || v.bad
                        invalid := q.invalid || v.invalid },
      [(0x40, b2n (decide (((truncQ (x * twoPow 320) : Int) : Rat) ≠ x * twoPow 320)))]) := by
  unfold LaneQuire.add
  rw [fin]
  exact if_neg (not_le.2 small)

theorem LaneQuire.add_overflow (fin : v.x = .fin x) (large : twoPow 256 ≤ absQ x) (finite : q.tag = 0) :
    q.add v = ({ q with tag := if x < 0 then 2 else 1, bad := q.bad || v.bad, invalid := q.invalid || v.invalid },
      [(0x41, 1)]) := by
  unfold LaneQuire.add
  rw [fin]
  refine (if_pos large).trans ?_
  rw [finite]
  by_cases negative : x < 0
  · rw [if_pos negative, if_pos negative]
    simp [tagMerge]
  · rw [if_neg negative, if_neg negative]
    simp [tagMerge]

end

/-- The lane quires after values from lane k on have been added, with the events of it. -/
def addLanes (vals : List LaneVal) (k : Nat) (a : Vector LaneQuire 128 × List (Nat × Nat)) :
    Vector LaneQuire 128 × List (Nat × Nat) :=
  (vals.zipIdx k).foldl (fun (a : Vector LaneQuire 128 × List (Nat × Nat)) v =>
    let n : Fin 128 := Fin.ofNat 128 v.2
    let o := a.1[n].add v.1
    (a.1.set n o.1, a.2 ++ o.2)) a

/-- Each value joins the quire of its own lane, and the other lanes stay. -/
theorem addLanes_quires (vals : List LaneVal) (n : Fin 128) : ∀ (k : Nat) (a : Vector LaneQuire 128 × List (Nat × Nat)),
    k + vals.length ≤ 128 →
      (n.val < k ∨ k + vals.length ≤ n.val → (addLanes vals k a).1[n] = a.1[n]) ∧
      ∀ i v, vals[i]? = some v → n.val = k + i → (addLanes vals k a).1[n] = (a.1[n].add v).1 := by
  induction vals with
  | nil =>
    intro k a _
    exact ⟨fun _ => rfl, fun i v get => by simp at get⟩
  | cons w vals ih =>
    intro k a within
    rw [List.length_cons] at within
    have lane : (Fin.ofNat 128 k : Fin 128).val = k := Nat.mod_eq_of_lt (by omega)
    obtain ⟨keeps, adds⟩ := ih (k + 1) (a.1.set (Fin.ofNat 128 k) (a.1[(Fin.ofNat 128 k : Fin 128)].add w).1,
      a.2 ++ (a.1[(Fin.ofNat 128 k : Fin 128)].add w).2) (by omega)
    have step : addLanes (w :: vals) k a = addLanes vals (k + 1) (a.1.set (Fin.ofNat 128 k)
      (a.1[(Fin.ofNat 128 k : Fin 128)].add w).1, a.2 ++ (a.1[(Fin.ofNat 128 k : Fin 128)].add w).2) := rfl
    have away : n.val ≠ k → (a.1.set (Fin.ofNat 128 k) (a.1[(Fin.ofNat 128 k : Fin 128)].add w).1)[n] = a.1[n] := fun other =>
      Vector.getElem_set_ne _ _ (by rw [lane]; exact fun h => other h.symm)
    rw [step]
    refine ⟨fun out => ?_, fun i v get place => ?_⟩
    · rw [List.length_cons] at out
      exact (keeps (by omega)).trans (away (by omega))
    · cases i with
      | zero =>
        rw [List.getElem?_cons_zero] at get
        obtain rfl := Option.some.inj get
        have here : n = Fin.ofNat 128 k := Fin.ext (by rw [lane]; exact place)
        rw [keeps (by omega), here]
        exact Vector.getElem_set_self _
      | succ i =>
        rw [List.getElem?_cons_succ] at get
        rw [adds i v get (by omega)]
        exact congrArg (fun u : LaneQuire => (u.add v).1) (away (by omega))

theorem Currier.landAddends_eq (c : Currier) (q : QuireFl) :
    c.landAddends q = ({ c with quires := (addLanes q.vals 0 (c.quires, [])).1 }, (addLanes q.vals 0 (c.quires, [])).2) := rfl

/-! ## Results into their register -/

/-- What a lane of a result writes: the code that it copies, or its value encoded once. -/
def ResultFl.elem (r : ResultFl) (v : LaneVal) : Elem :=
  { code := v.copy.getD (BitVec.ofNat 64 (r.fmt.encode v.x v.neg0).1), bad := v.bad }

section
variable {r : ResultFl} (plain : r.fmt ≠ .uq8)
include plain

theorem Core.landLane_elem (c : Core) (now lane : Nat) (v : LaneVal) :
    ∃ es, c.landLane now r lane v = (c, r.elem v, es) := by
  unfold Core.landLane ResultFl.elem
  cases v.copy with
  | some code => exact ⟨_, rfl⟩
  | none =>
    unfold Core.roundAt
    rw [if_neg plain]
    exact ⟨_, rfl⟩

theorem Core.landLanes_elems (c : Core) (now : Nat) : ∀ (vals : List (LaneVal × Nat)) (es : List Elem) (evs : List (Nat × Nat)),
    ∃ raised, vals.foldl (fun (a : Core × List Elem × List (Nat × Nat)) v =>
        let e := a.1.landLane now r v.2 v.1
        (e.1, a.2.1 ++ [e.2.1], a.2.2 ++ e.2.2)) (c, es, evs) = (c, es ++ vals.map (fun v => r.elem v.1), raised) := by
  intro vals
  induction vals with
  | nil => exact fun es evs => ⟨evs, by rw [List.map_nil, List.append_nil]; rfl⟩
  | cons v vals ih =>
    intro es evs
    obtain ⟨more, elem⟩ := c.landLane_elem plain now v.2 v.1
    obtain ⟨raised, rest⟩ := ih (es ++ [r.elem v.1]) (evs ++ more)
    refine ⟨raised, ?_⟩
    rw [List.foldl_cons]
    dsimp only
    rw [elem]
    refine rest.trans ?_
    rw [List.map_cons, List.append_assoc]
    rfl

end

/-- What a register holds after a result: its lanes, and beyond them what it held. -/
def Core.landed (c : Core) (r : ResultFl) : List Elem :=
  r.vals.map r.elem ++ (sliceD { code := 0, bad := false } c.currier.regs[Fin.ofNat 32 r.reg] 0 128).drop r.vals.length

/-- The exponentials of a soft maximum as they stand in the register. -/
def ResultFl.exponential (r : ResultFl) (v : LaneVal) : LaneVal :=
  { x := r.fmt.value (r.elem v).code.toNat, neg0 := false, copy := none, bad := (r.elem v).bad, invalid := false }

/-- The lane quires after a result: a soft maximum's exponentials join them as they stand in the register. -/
def Core.landedQuires (c : Core) (r : ResultFl) : Vector LaneQuire 128 :=
  if r.sums then (addLanes (r.vals.map r.exponential) 0 (c.currier.quires, [])).1
  else c.currier.quires

section
variable (c : Core) {r : ResultFl}

theorem Core.landed_value {n : Nat} {v : LaneVal} (get : r.vals[n]? = some v) : (c.landed r)[n]? = some (r.elem v) := by
  obtain ⟨within, -⟩ := List.getElem?_eq_some_iff.1 get
  unfold Core.landed
  rw [List.getElem?_append_left (by rw [List.length_map]; exact within), List.getElem?_map, get]
  rfl

theorem Core.landed_beyond {n : Nat} (beyond : r.vals.length ≤ n) :
    (c.landed r)[n]? = (sliceD { code := 0, bad := false } c.currier.regs[Fin.ofNat 32 r.reg] 0 128)[n]? := by
  unfold Core.landed
  rw [List.getElem?_append_right (by rw [List.length_map]; exact beyond), List.length_map, List.getElem?_drop]
  congr 1
  omega

theorem Core.landed_length (lanes : r.vals.length ≤ 128) : (c.landed r).length = 128 := by
  unfold Core.landed
  rw [List.length_append, List.length_map, List.length_drop, sliceD_length]
  omega

/-- A lane of a register of another format than UQ8 is read as the value of its code. -/
theorem Core.operand_plain (d : Core) (n : Fin 32) (plain : d.currier.fmts[n] ≠ .uq8) (row lane : Nat) :
    (d.operand n.val row lane).x =
        d.currier.fmts[n].value (d.currier.regs[n].getD lane { code := 0, bad := false }).code.toNat ∧
      (d.operand n.val row lane).bad = (d.currier.regs[n].getD lane { code := 0, bad := false }).bad := by
  have same : (Fin.ofNat 32 n.val : Fin 32) = n := Fin.ext (Nat.mod_eq_of_lt n.isLt)
  unfold Core.operand
  simp only [same, if_neg plain, Bool.or_false, and_self]

/-- A lane of a register that has just taken a result is read as the value of its code. -/
theorem Core.operand_landed (plain : r.fmt ≠ .uq8) {d : Core} (regs : d.currier.regs[Fin.ofNat 32 r.reg] = c.landed r)
    (fmts : d.currier.fmts[Fin.ofNat 32 r.reg] = r.fmt) {n : Nat} {v : LaneVal} (get : r.vals[n]? = some v) (row : Nat) :
    (d.operand (Fin.ofNat 32 r.reg : Fin 32).val row n).x = r.fmt.value (r.elem v).code.toNat ∧
      (d.operand (Fin.ofNat 32 r.reg : Fin 32).val row n).bad = (r.elem v).bad := by
  have lane : (c.landed r).getD n { code := 0, bad := false } = r.elem v := by
    rw [List.getD_eq_getElem?_getD, c.landed_value get, Option.getD_some]
  have ⟨value, bad⟩ := d.operand_plain (Fin.ofNat 32 r.reg) (by rw [fmts]; exact plain) row n
  rw [regs, lane] at bad
  rw [regs, fmts, lane] at value
  exact ⟨value, bad⟩

theorem Core.operands_landed (plain : r.fmt ≠ .uq8) {d : Core} (regs : d.currier.regs[Fin.ofNat 32 r.reg] = c.landed r)
    (fmts : d.currier.fmts[Fin.ofNat 32 r.reg] = r.fmt) : (r.vals.map r.elem).zipIdx.map (fun e =>
      let x := d.operand (Fin.ofNat 32 r.reg : Fin 32).val r.row e.2; laneVal (x.x, []) x.bad) = r.vals.map r.exponential := by
  refine List.ext_getElem? fun n => ?_
  rw [List.getElem?_map, List.getElem?_zipIdx, List.getElem?_map, List.getElem?_map]
  cases get : r.vals[n]? with
  | none => rfl
  | some v =>
    have ⟨value, bad⟩ := c.operand_landed plain regs fmts get r.row
    simp only [Option.map_some, Nat.zero_add]
    rw [value, bad]
    rfl

/-- A result lands: its register takes its elements, its format and its record. -/
theorem Core.landResult_eq (plain : r.fmt ≠ .uq8) (now : Nat) : ∃ evs, c.landResult now r =
    ({ c with currier := { c.currier with
        quires := c.landedQuires r, regs := c.currier.regs.set (Fin.ofNat 32 r.reg : Fin 32) (c.landed r)
        fmts := c.currier.fmts.set (Fin.ofNat 32 r.reg : Fin 32) r.fmt
        recs := c.currier.recs.set (Fin.ofNat 32 r.reg : Fin 32) r.record } }, evs) := by
  obtain ⟨raised, lanes⟩ := c.landLanes_elems plain now r.vals.zipIdx [] []
  have values : r.vals.zipIdx.map (fun v => r.elem v.1) = r.vals.map r.elem := by
    refine (List.map_map (f := Prod.fst) (g := r.elem) (l := r.vals.zipIdx)).symm.trans ?_
    rw [List.zipIdx_map_fst]
  rw [List.nil_append, values] at lanes
  unfold Core.landResult
  rw [lanes]
  dsimp only
  rw [List.length_map]
  by_cases sums : r.sums = true
  · rw [if_pos sums, Currier.landAddends_eq]
    refine ⟨_, Prod.ext ?_ rfl⟩
    unfold Core.landedQuires
    rw [if_pos sums]
    dsimp only
    rw [c.operands_landed plain (Vector.getElem_set_self _) (Vector.getElem_set_self _)]
    rfl
  · rw [if_neg sums]
    refine ⟨raised, ?_⟩
    unfold Core.landedQuires
    rw [if_neg sums]
    rfl

end

section
variable {s : State} {l p : CoreNo} (at_ : s.phys l = some p)
include at_

/-- What a core is once everything that is due has landed. -/
theorem State.currierResultLand_eq : s.currierResultLand l = s.onCoreE p fun c =>
    let a := (c.currier.results.filter fun r => decide (r.land ≤ s.now)).foldl (fun (a : Core × List (Nat × Nat)) r =>
      let o := a.1.landResult s.now r
      (o.1, a.2 ++ o.2)) ({ c with currier := { c.currier with
        results := c.currier.results.filter fun r => decide (s.now < r.land)
        addends := c.currier.addends.filter fun r => decide (s.now < r.land) } }, [])
    (c.currier.addends.filter fun r => decide (r.land ≤ s.now)).foldl (fun (a : Core × List (Nat × Nat)) q =>
      let o := a.1.currier.landAddends q
      ({ a.1 with currier := o.1 }, a.2 ++ o.2)) a := by
  unfold State.currierResultLand
  rw [at_]

theorem State.result_lands {r : ResultFl} (one : s.cores[p].currier.results = [r]) (none : s.cores[p].currier.addends = [])
    (due : r.land ≤ s.now) (plain : r.fmt ≠ .uq8) : ∃ evs, coreRaises (.currierResultLand l) s p
      { s.cores[p] with currier := { s.cores[p].currier with
          quires := s.cores[p].landedQuires r, results := []
          regs := s.cores[p].currier.regs.set (Fin.ofNat 32 r.reg : Fin 32) (s.cores[p].landed r)
          fmts := s.cores[p].currier.fmts.set (Fin.ofNat 32 r.reg : Fin 32) r.fmt
          recs := s.cores[p].currier.recs.set (Fin.ofNat 32 r.reg : Fin 32) r.record } } evs := by
  obtain ⟨evs, lands⟩ := Core.landResult_eq { s.cores[p] with currier := { s.cores[p].currier with results := [], addends := [] } }
    plain s.now
  refine ⟨[] ++ evs, coreRaises_onCoreE (State.currierResultLand_eq at_) ?_⟩
  have here : [r].filter (fun r => decide (r.land ≤ s.now)) = [r] := List.filter_cons_of_pos (decide_eq_true due)
  have gone : [r].filter (fun r => decide (s.now < r.land)) = [] :=
    List.filter_cons_of_neg (by rw [decide_eq_true_iff]; exact not_lt.2 due)
  rw [one, none, here, gone]
  simp only [List.filter_nil, List.foldl_cons, List.foldl_nil]
  rw [lands, ← none]
  rfl

theorem State.addend_lands {q : QuireFl} (none : s.cores[p].currier.results = []) (one : s.cores[p].currier.addends = [q])
    (due : q.land ≤ s.now) : coreRaises (.currierResultLand l) s p
      { s.cores[p] with currier := { s.cores[p].currier with
          addends := [], quires := (addLanes q.vals 0 (s.cores[p].currier.quires, [])).1 } }
      (addLanes q.vals 0 (s.cores[p].currier.quires, [])).2 := by
  refine coreRaises_onCoreE (State.currierResultLand_eq at_) ?_
  have here : [q].filter (fun r => decide (r.land ≤ s.now)) = [q] := List.filter_cons_of_pos (decide_eq_true due)
  have gone : [q].filter (fun r => decide (s.now < r.land)) = [] :=
    List.filter_cons_of_neg (by rw [decide_eq_true_iff]; exact not_lt.2 due)
  rw [one, none, here, gone]
  simp only [List.filter_nil, List.foldl_cons, List.foldl_nil, Currier.landAddends_eq, List.nil_append]
  rw [← none]

theorem State.nothing_lands (results : ∀ r ∈ s.cores[p].currier.results, s.now < r.land)
    (addends : ∀ r ∈ s.cores[p].currier.addends, s.now < r.land) : coreBecomes (.currierResultLand l) s p s.cores[p] := by
  have stay : (s.cores[p].currier.results.filter fun r => decide (s.now < r.land)) = s.cores[p].currier.results :=
    List.filter_eq_self.2 fun r hr => decide_eq_true (results r hr)
  have due : (s.cores[p].currier.results.filter fun r => decide (r.land ≤ s.now)) = [] :=
    List.filter_eq_nil_iff.2 fun r hr => by rw [decide_eq_true_iff]; exact not_le.2 (results r hr)
  have stayA : (s.cores[p].currier.addends.filter fun r => decide (s.now < r.land)) = s.cores[p].currier.addends :=
    List.filter_eq_self.2 fun r hr => decide_eq_true (addends r hr)
  have dueA : (s.cores[p].currier.addends.filter fun r => decide (r.land ≤ s.now)) = [] :=
    List.filter_eq_nil_iff.2 fun r hr => by rw [decide_eq_true_iff]; exact not_le.2 (addends r hr)
  refine coreBecomes_onCoreE (State.currierResultLand_eq at_) ?_
  rw [stay, due, stayA, dueA]
  rfl

end

/-- Settles O23: results land encoded once in their lanes, addends in the quires of theirs. -/
theorem resultsAndAddends : Obligations.ResultsAndAddends := by
  unfold Obligations.ResultsAndAddends
  refine ⟨fun s l p at_ => ⟨fun r one none due plain lanes => ?_, fun q none one due lanes => ?_, State.nothing_lands at_⟩,
    fun q v x fin => ⟨fun n whole small => ?_, fun small partial_ => ?_, q.add_overflow v fin⟩⟩
  · obtain ⟨evs, lands⟩ := State.result_lands at_ one none due plain
    refine ⟨s.cores[p].landed r, evs, s.cores[p].landed_length lanes, fun n v get => ⟨_, s.cores[p].landed_value get, rfl, ?_, ?_⟩,
      fun n => s.cores[p].landed_beyond, s.cores[p].landedQuires r, fun off => ?_, fun on n => ?_, lands⟩
    · intro code copied
      unfold ResultFl.elem
      rw [copied, Option.getD_some]
    · intro rounded
      unfold ResultFl.elem
      rw [rounded, Option.getD_none]
    · unfold Core.landedQuires
      rw [off, if_neg Bool.false_ne_true]
    · obtain ⟨keeps, adds⟩ := addLanes_quires (r.vals.map r.exponential) n 0 (s.cores[p].currier.quires, [])
        (by rw [List.length_map]; omega)
      unfold Core.landedQuires
      rw [if_pos on]
      refine ⟨fun e lane get => ?_, fun beyond => keeps (.inr (by rw [List.length_map]; omega))⟩
      have value : r.vals[n.val]? = some r.vals[n.val] := List.getElem?_eq_getElem lane
      rw [s.cores[p].landed_value value] at get
      obtain rfl := Option.some.inj get
      exact adds n.val _ (by rw [List.getElem?_map, value]; rfl) (by omega)
  · obtain keeps := addLanes_quires q.vals
    refine ⟨_, _, fun n v get => ?_, fun n beyond => ?_, State.addend_lands at_ none one due⟩
    · exact (keeps n 0 _ (by omega)).2 n.val v get (by omega)
    · exact (keeps n 0 _ (by omega)).1 (.inr (by omega))
  · rw [q.add_sum v fin small, whole, truncQ_intCast]
    simp [b2n]
  · have lost := (partial_ (truncQ (x * twoPow 320))).symm
    rw [q.add_sum v fin small]
    simp [b2n, lost]

end Sys2Proof.Machine


/-! Clears, first reads, spill walks, readout rows and merged side entries (O19). -/

namespace Sys2Proof.Machine

/-! ## Clears and first reads -/

/-- The row state words of a slot are 128 consecutive ones. -/
theorem rowIx_slot {slot x row : Nat} (hr : row < 128) :
    (rowIx slot 0 ≤ rowIx x row ∧ rowIx x row < rowIx slot 0 + 128) ↔ x = slot := by
  unfold rowIx
  omega

theorem rowIx_inj {slot row slot' row' : Nat} (hr : row < 128) (hr' : row' < 128) :
    rowIx slot' row' = rowIx slot row ↔ slot' = slot ∧ row' = row := by
  unfold rowIx
  omega

/-- A slot state word's class and window base. -/
theorem slotWord_fields (cls : BitVec 3) (base : BitVec 16) :
    fld (BitVec.ofNat 32 (base.toNat * 2 ^ 16 + cls.toNat)) 0 3 = cls.toNat ∧
      fld (BitVec.ofNat 32 (base.toNat * 2 ^ 16 + cls.toNat)) 16 16 = base.toNat := by
  have hc := cls.isLt
  have hb := base.isLt
  unfold fld fldN
  rw [BitVec.toNat_ofNat]
  constructor <;> omega

theorem Accum.clear_entries (a : Accum) (slot : Nat) (cls : BitVec 3) (base : BitVec 16) :
    (a.clear slot cls base).entries = a.entries ∧ (a.clear slot cls base).sides = a.sides := by
  unfold Accum.clear
  exact ⟨rfl, rfl⟩

section
variable {a : Accum} (wf : a.wf)
include wf

theorem Accum.row_clear (slot : Nat) (cls : BitVec 3) (base : BitVec 16) {x row : Nat} (hr : row < 128) :
    (a.clear slot cls base).row x row = if x = slot then 0x8000 else a.row x row := by
  obtain ⟨-, -, rows, -⟩ := wf
  unfold Accum.clear Accum.row
  dsimp only
  have emptied := cellsClear_wf 0 (rowIx slot 0) (rowIx slot 0 + 128) a.rows rows
  rw [cellGet_sets 0 _ _ _ _ emptied, cellGet_clear 0 _ _ _ _ rows, List.length_replicate]
  simp only [rowIx_slot hr]
  by_cases here : x = slot
  · have within : rowIx x row - rowIx slot 0 < 128 := by unfold rowIx; omega
    rw [if_pos here, if_pos here, List.getD_eq_getElem?_getD, List.getElem?_replicate_of_lt within]
    rfl
  · rw [if_neg here, if_neg here, if_neg here]

theorem Accum.slot_clear (slot : Nat) (cls : BitVec 3) (base : BitVec 16) (x : Nat) :
    (a.clear slot cls base).slot x =
      if x = slot then BitVec.ofNat 32 (base.toNat * 2 ^ 16 + cls.toNat) else a.slot x := by
  obtain ⟨-, -, -, slots⟩ := wf
  exact cellGet_set 0 _ _ _ _ slots

/-- A cleared row that is written has a count of 0; an exhausted carry guard stays. -/
theorem Accum.refill_row {slot row : Nat} (cleared : rowCleared (a.row slot row) = true) (v : Word64) :
    (a.refill slot row v).row slot row = if rowGuard (a.row slot row) then 0x4000 else 0 := by
  obtain ⟨-, -, rows, -⟩ := wf
  unfold Accum.refill
  rw [if_pos cleared]
  refine (cellGet_set 0 _ _ _ _ rows).trans ((if_pos rfl).trans ?_)
  cases rowGuard (a.row slot row) <;> rfl

end

/-- The first read of a row of one slot is of integers. -/
theorem Accum.materialise_single {a : Accum} {slot : Nat} (own : a.cls slot ≠ 3) (row : Nat) :
    a.materialise slot row false = a.refill slot row 0 := by
  unfold Accum.materialise
  simp only [Bool.false_eq_true, ↓reduceIte, if_neg own]

/-! ## Spill walks -/

theorem Walk.pop_eq {w : Walk} {r : RowCap} {rest : List RowCap} (caught : w.caught = r :: rest) :
    w.pop = { w with caught := rest } := by
  unfold Walk.pop
  rw [caught]
  rfl

/-- A core whose walk has written its oldest row to its quire. -/
def Core.spilled (w : Walk) (k q now : Nat) (r : RowCap) (rest : List RowCap) (c : Core) : Core := { c with
  pasture := (c.pasture.put now (q + r.row * 128 * quireBytes w.cls.toNat) (r.quireBytes w.cls.toNat).1).put now
    (quireSides q w.cls.toNat r.row) (r.quireBytes w.cls.toNat).2
  walks := c.walks.set k { w with caught := rest } }

section
variable {s : State} {l p : CoreNo} {w : Walk} {k : Nat} {r : RowCap} {rest : List RowCap} (at_ : s.phys l = some p)
  (caught : w.caught = r :: rest)
include at_ caught

theorem State.spillWalkRow_eq (walk : (s.cores[p].walks.zipIdx.find? fun x => !x.1.isRead && !x.1.caught.isEmpty) = some (w, k)) :
    s.spillWalkRow l = if w.readAt r.row + 2 ≤ s.now then s.onCore p (Core.spilled w k (w.quire.getD 0) s.now r rest) else s := by
  unfold State.spillWalkRow
  rw [at_]
  dsimp only
  rw [walk]
  dsimp only
  rw [caught]
  dsimp only
  rw [Walk.pop_eq caught]
  rfl

end

/-! ## Readout rows -/

/-- What of a core a delivered element depends on. -/
theorem Core.feederEntry_congr {c e : Core} (pasture : c.pasture = e.pasture) (f : Fmt) (rec : Nat) (es : List Elem) :
    c.feederEntry f rec es = e.feederEntry f rec es := by
  unfold Core.feederEntry Core.qrec Core.entryBad Core.channel Core.qrec
  rw [pasture]

/-- A row pushed into the feeder, unless it is full. -/
theorem Core.feederPush_core (c : Core) (e : FeederEntry) :
    (c.feederPush e).1 = { c with feeder := if 128 ≤ c.feeder.length then c.feeder else c.feeder ++ [e] } := by
  unfold Core.feederPush
  split
  · rfl
  · rfl

/-- The core after a row has left, before it is delivered. -/
def Core.left (o : Core) (w : Walk) (k : Nat) (rest : List RowCap) : Core :=
  { o with walks := o.walks.set k { w with caught := rest } }

/-- Where a row that has left goes. -/
def State.delivers (s : State) (p l : CoreNo) (w : Walk) (r : RowCap) (es : List Elem) : State :=
  if w.kind = 0 then s.onCoreE p fun c => c.feederPush (c.feederEntry w.fmt w.record es)
  else if w.kind = 1 then
    s.onCore p fun c =>
      let n : Fin 32 := Fin.ofNat 32 (w.reg.toNat + r.row % 8)
      { c with currier := { c.currier with
          regs := c.currier.regs.set n es, fmts := c.currier.fmts.set n w.fmt,
          recs := c.currier.recs.set n w.record } }
  else if w.kind = 2 then s.supplyRow p l w.drover w.stream w.fmt es
  else s

section
variable {s : State} {l p : CoreNo} {w : Walk} {k : Nat} {r : RowCap} {rest : List RowCap} (at_ : s.phys l = some p)
  (caught : w.caught = r :: rest)
include at_ caught

theorem State.readoutRowLeave_eq
    (walk : (s.cores[p].walks.zipIdx.find? fun x => x.1.isRead && !x.1.caught.isEmpty) = some (w, k))
    {o : Core × List Elem × List (Nat × Nat)} (ho : o = s.cores[p].readRow s.now w r (s.operandsOf p l w.slot)) :
    s.readoutRowLeave l = if w.readAt r.row + 3 ≤ s.now then
      (State.events { s with cores := s.cores.set p (o.1.left w k rest) } p o.2.2).delivers p l w r
        (if s.cores[p].fault.isSome then o.2.1.map fun x => { x with bad := true } else o.2.1)
    else s := by
  unfold State.readoutRowLeave
  rw [at_]
  dsimp only
  rw [walk]
  dsimp only
  rw [caught]
  dsimp only
  rw [Walk.pop_eq caught, ← ho]
  rfl

end

/-- A core but for the engines that a row for a drover stream goes through. -/
def Core.unsupplied (c : Core) : Core :=
  { c.quiet with drovers := Core.reset.drovers, rings := Core.reset.rings, sends := Core.reset.sends }

/-- Two cores alike in what walks, the feeder, the currier and the accumulator hold. -/
structure Core.sameReadout (c e : Core) : Prop where
  walks : c.walks = e.walks
  feeder : c.feeder = e.feeder
  currier : c.currier = e.currier
  acc : c.acc = e.acc

theorem Core.sameReadout_of_unsupplied {c e : Core} (h : c.unsupplied = e.unsupplied) : c.sameReadout e := by
  have walks := congrArg Core.walks h
  have feeder := congrArg Core.feeder h
  have currier := congrArg Core.currier h
  have acc := congrArg Core.acc h
  exact ⟨walks, feeder, currier, acc⟩

theorem Core.sendBeat_unsupplied (c : Core) (now : Nat) : (c.sendBeat now).1.unsupplied = c.unsupplied := by
  unfold Core.sendBeat
  split <;> rfl

theorem Core.sendAll_unsupplied (c : Core) (now : Nat) (beats : List (List MByte)) :
    (c.sendAll now beats).1.unsupplied = c.unsupplied :=
  foldl_keep (fun a : Core × List (List MByte) × Nat => a.1.unsupplied = c.unsupplied) _
    (fun a _ kept => by exact (a.1.sendBeat_unsupplied now).trans kept) beats (c, [], 0) rfl

theorem Core.unsupplied_of_quiet {c e : Core} (h : c.quiet = e.quiet) : c.unsupplied = e.unsupplied := by
  unfold Core.unsupplied
  rw [h]

theorem DStream.seated_status {x y : DStream} {free : Option Nat} (seat : x.seated free = some y) : y.status = x.status := by
  unfold DStream.seated at seat
  split at seat
  · exact absurd seat (by simp)
  · split at seat
    · exact congrArg _ (Option.some.inj seat).symm
    · obtain ⟨k, -, rfl⟩ := Option.map_eq_some_iff.1 seat
      rfl

theorem State.supplied_frame (s : State) (p : CoreNo) {c : Core} {f : Core → Core}
    (sent : c.unsupplied = s.cores[p].unsupplied) (kept : ∀ c : Core, (f c).unsupplied = c.unsupplied)
    (evs : List (Nat × Nat)) (g : Option FoldNo) :
    onlyCore s ((State.onCore { s with cores := s.cores.set p c } p f).events p evs g) p ∧
      ((State.onCore { s with cores := s.cores.set p c } p f).events p evs g).cores[p].unsupplied = s.cores[p].unsupplied := by
  obtain ⟨only, quiet⟩ := State.onCore_events_frame { s with cores := s.cores.set p c } p f evs g
  refine ⟨onlyCore_trans (onlyCore_set s p c) only, (Core.unsupplied_of_quiet quiet).trans ((kept _).trans ?_)⟩
  simpa using sent

section
variable (s : State) (p l : CoreNo) (d : DroverNo) (i : DStreamNo) (fmt : Fmt) (es : List Elem)

/-- A row supplied to a drover stream touches its drovers, rings and sends alone. -/
theorem State.supplyRow_frame : onlyCore s (s.supplyRow p l d i fmt es) p ∧
    (s.supplyRow p l d i fmt es).cores[p].unsupplied = s.cores[p].unsupplied := by
  have counted : ∀ evs, onlyCore s (s.events p evs) p ∧ (s.events p evs).cores[p].unsupplied = s.cores[p].unsupplied := fun evs =>
    ⟨(s.events_frame p evs none).1, Core.unsupplied_of_quiet (s.events_frame p evs none).2⟩
  unfold State.supplyRow
  split
  · exact counted _
  · split
    · dsimp only
      split
      · exact counted _
      · split
        · exact counted _
        · refine s.supplied_frame p ?_ ?_ _ _
          · split
            · rfl
            · exact Core.sendAll_unsupplied ..
          · intro c
            split <;> rfl
    · exact counted _

/-- A stream that does not run takes no row. -/
theorem State.supplyRow_idle (idle : (s.ds p d i).status ≠ .running) : ∃ evs, s.supplyRow p l d i fmt es = s.events p evs := by
  unfold State.supplyRow
  split
  · exact ⟨_, rfl⟩
  next x seat =>
    have still : x.status ≠ .running := by
      rw [DStream.seated_status seat]
      exact idle
    split
    · dsimp only
      rw [if_pos (by rw [decide_eq_true still]; rfl)]
      exact ⟨_, rfl⟩
    · exact ⟨_, rfl⟩

end

/-! ## Elements of a row -/

section
variable (c : Core) (now n : Nat) {w : Walk} (r : RowCap) (ops : Nat × Nat × Nat) (plain : w.fmt ≠ .uq8)
include plain

/-- What an element of a row is before it is encoded. -/
def Core.rowValue (c : Core) (w : Walk) (r : RowCap) (ops : Nat × Nat × Nat) (n : Nat) : Rat :=
  if w.cls.toNat = 0 then ((r.value w.cls.toNat n).1 : Rat) * c.scale (c.qrec ops.1) 0 * c.scale (c.qrec ops.2.1) (ops.2.2 + n)
  else (r.value w.cls.toNat n).2.1

theorem Core.readElem_plain : (c.readElem now w r ops n).1 = c ∧
    (c.readElem now w r ops n).2.1 = {
      code := BitVec.ofNat 64 (w.fmt.encode (tagExt (sideTag (r.value w.cls.toNat n).2.2) (c.rowValue w r ops n))).1
      bad := sideBad (r.value w.cls.toNat n).2.2 || c.readBad w ops n } := by
  unfold Core.readElem
  dsimp only
  rw [if_neg plain]
  exact ⟨rfl, rfl⟩

/-- Of another class than UQ8 no scale is read. -/
theorem Core.readBad_plain (other : w.cls.toNat ≠ 0) : c.readBad w ops n = false := by
  unfold Core.readBad
  simp [other, plain]

end

/-- Table 6.8. -/
theorem sideMerge_table (a b : BitVec 4) :
    sideBad (sideMerge a b) = (sideBad a || sideBad b) ∧
      (sideTag a = 0 → sideTag (sideMerge a b) = sideTag b ∧ sideInvalid (sideMerge a b) = (sideInvalid a || sideInvalid b)) ∧
      (sideTag b = 0 → sideTag (sideMerge a b) = sideTag a ∧ sideInvalid (sideMerge a b) = (sideInvalid a || sideInvalid b)) ∧
      (sideTag a = 3 ∨ sideTag b = 3 → sideTag (sideMerge a b) = 3 ∧
        sideInvalid (sideMerge a b) = (sideInvalid a || sideInvalid b)) ∧
      (sideTag a = sideTag b → sideTag (sideMerge a b) = sideTag a ∧
        sideInvalid (sideMerge a b) = (sideInvalid a || sideInvalid b)) ∧
      (sideTag a = 1 ∧ sideTag b = 2 ∨ sideTag a = 2 ∧ sideTag b = 1 →
        sideTag (sideMerge a b) = 3 ∧ sideInvalid (sideMerge a b) = true) := by
  revert a b
  decide +kernel

/-- Settles O19: a clear and a first read by rows, walks by the row that they take out, an element by its class. -/
theorem rowsAreClearedSpilledAndReadOut : Obligations.RowsAreClearedSpilledAndReadOut := by
  unfold Obligations.RowsAreClearedSpilledAndReadOut
  refine ⟨fun a slot cls base wf => ⟨fun row hr => ?_, ?_, ?_, fun x row other hr => ⟨?_, ?_⟩,
      a.clear_entries slot cls base⟩,
    fun a slot row wf hr own => ?_, fun s l p w k r rest q at_ walk caught quire => ?_,
    fun s l p w k r rest at_ walk caught => ?_, fun c now n w r ops plain v x hv uq8 tp8 tp16 wide known => ?_, sideMerge_table⟩
  · exact (Accum.row_clear wf slot cls base hr).trans (if_pos rfl)
  · unfold Accum.cls
    rw [Accum.slot_clear wf, if_pos rfl]
    exact (slotWord_fields cls base).1
  · rw [Accum.slot_clear wf, if_pos rfl]
    exact (slotWord_fields cls base).2
  · exact (Accum.row_clear wf slot cls base hr).trans (if_neg other)
  · exact (Accum.slot_clear wf slot cls base x).trans (if_neg other)
  · rw [Accum.materialise_single own]
    refine ⟨fun whole => Accum.refill_of_not whole 0, fun cleared => ⟨Accum.refill_row wf cleared 0, fun n hn => ?_,
      fun x r n apart hx hn => ?_⟩⟩
    · obtain ⟨entry, side⟩ := Accum.refill_zero wf hr hr hn cleared (slot' := slot)
      exact ⟨entry.trans (if_pos ⟨rfl, rfl⟩), side.trans (if_pos ⟨rfl, rfl⟩)⟩
    · obtain ⟨entry, side⟩ := Accum.refill_zero wf hr hx hn cleared (slot' := x)
      have away : ¬(x = slot ∧ r = row) := fun both => apart.elim (fun h => h both.1) fun h => h both.2
      exact ⟨entry.trans (if_neg away), side.trans (if_neg away)⟩
  · have op := State.spillWalkRow_eq at_ caught walk
    rw [quire, Option.getD_some] at op
    exact ⟨fun early => exec_next (op.trans (if_neg (by omega))), fun late => coreBecomes_onCore (op.trans (if_pos late)) rfl⟩
  · have op := fun o ho => State.readoutRowLeave_eq at_ caught walk (o := o) ho
    refine ⟨fun early => exec_next ((op _ rfl).trans (if_neg (by omega))), fun late o e es ho he hes => ?_⟩
    have op := (op o ho).trans (if_pos late)
    rw [← hes, show o.1.left w k rest = e from he.symm] at op
    obtain ⟨only, quiet⟩ := State.events_frame { s with cores := s.cores.set p e } p o.2.2 none
    have only := onlyCore_trans (onlyCore_set s p e) only
    rw [show ({ s with cores := s.cores.set p e } : State).cores[p] = e by simp] at quiet
    generalize State.events { s with cores := s.cores.set p e } p o.2.2 = u at op only quiet
    unfold State.delivers at op
    have pasture := congrArg Core.pasture quiet
    have pushed := congrArg Core.feeder quiet
    have currier := congrArg Core.currier quiet
    change u.cores[p].pasture = e.pasture at pasture
    change u.cores[p].feeder = e.feeder at pushed
    change u.cores[p].currier = e.currier at currier
    refine ⟨fun feeder => ?_, fun regs => ?_, fun stream => ?_⟩
    · rw [if_pos feeder] at op
      obtain ⟨only', quiet'⟩ := u.onCoreE_frame p (fun c => c.feederPush (c.feederEntry w.fmt w.record es)) none
      refine ⟨_, exec_next op, onlyCore_trans only only', ?_⟩
      rw [quiet']
      rw [Core.feederPush_core, Core.feederEntry_congr pasture, pushed]
      exact congrArg (fun c : Core => { c with feeder :=
        if 128 ≤ e.feeder.length then e.feeder else e.feeder ++ [e.feederEntry w.fmt w.record es] }) quiet
    · rw [if_neg (by rw [regs]; decide), if_pos regs] at op
      refine ⟨_, exec_next op, onlyCore_trans only (State.onCore_frame ..).1, fun m hm => ?_⟩
      subst hm
      rw [(State.onCore_frame ..).2]
      dsimp only
      rw [currier]
      exact congrArg (fun c : Core => { c with currier := { e.currier with
        regs := e.currier.regs.set (Fin.ofNat 32 (w.reg.toNat + r.row % 8) : Fin 32) es
        fmts := e.currier.fmts.set (Fin.ofNat 32 (w.reg.toNat + r.row % 8) : Fin 32) w.fmt
        recs := e.currier.recs.set (Fin.ofNat 32 (w.reg.toNat + r.row % 8) : Fin 32) w.record } }) quiet
    · rw [if_neg (by rw [stream]; decide), if_neg (by rw [stream]; decide), if_pos stream] at op
      obtain ⟨only', supplied⟩ := u.supplyRow_frame p l w.drover w.stream w.fmt es
      have core := supplied.trans (Core.unsupplied_of_quiet quiet)
      obtain ⟨walks', feeder', currier', acc'⟩ := Core.sameReadout_of_unsupplied core
      refine ⟨_, exec_next op, onlyCore_trans only only', walks', feeder', currier', acc', fun idle => ?_⟩
      have same : u.ds p w.drover w.stream = e.ds w.drover w.stream := congrFun (congrFun (Core.ds_congr quiet) _) _
      obtain ⟨evs, counted⟩ := u.supplyRow_idle p l w.drover w.stream w.fmt es (by rw [same]; exact idle)
      rw [counted]
      exact (u.events_frame p evs none).2.trans quiet
  · subst hv
    obtain ⟨core, elem⟩ := c.readElem_plain now n r ops plain
    have value : c.rowValue w r ops n = x := by
      unfold Core.rowValue
      by_cases c0 : w.cls.toNat = 0
      · rw [if_pos c0, uq8 c0]
      · rw [if_neg c0]
        by_cases c1 : w.cls.toNat = 1
        · rw [tp8 c1, c1]
          rfl
        · by_cases c2 : w.cls.toNat = 2
          · rw [tp16 c2, c2]
            rfl
          · have c3 : w.cls.toNat = 3 := by omega
            rw [wide c3, c3]
            rfl
    rw [elem, value]
    exact ⟨core, rfl, fun other => by rw [c.readBad_plain n ops plain other, Bool.or_false], fun _ => rfl⟩

end Sys2Proof.Machine


/-! What a slot frame boundary sends (O47). -/

namespace Sys2Proof.Machine

/-! ## Changes of one fabric port -/

section
variable (s : State) (p : FabricPort) (f g : FabPort → FabPort)

theorem State.onFab_onFab : (s.onFab p f).onFab p g = s.onFab p fun x => g (f x) := by
  unfold State.onFab vmod
  simp [Vector.set_set]

@[simp] theorem State.onFab_self : (s.onFab p f).fab[p] = f s.fab[p] := vmod_get_self ..

theorem State.onFab_other {q : FabricPort} (h : q ≠ p) : (s.onFab p f).fab[q] = s.fab[q] := vmod_get_other _ _ _ _ h

theorem State.onFab_set : s.onFab p f = { s with fab := s.fab.set p (f s.fab[p]) } := rfl

theorem State.countFab_onFab (k : Fin 13) (n : Nat) : (s.onFab p f).countFab p k n =
    s.onFab p fun x => { f x with ctrs := (f x).ctrs.set k ((f x).ctrs[k].add n) } := s.onFab_onFab p f _

end

/-! ## The part of a rein frame touches the hall alone -/

theorem State.buildRein_hall (s : State) (r : Rein) : s.buildRein r = { s with hall := (s.buildRein r).hall } := by
  unfold State.buildRein
  dsimp only

theorem State.takePart_hall (s : State) (p : FabricPort) :
    (s.takePart p).2 = { s with hall := (s.takePart p).2.hall } := by
  unfold State.takePart
  split
  · rfl
  next r q _ =>
    dsimp only
    split
    · rfl
    · rw [s.buildRein_hall r]

/-! ## Frames -/

section
variable (s : State) (p : FabricPort)

theorem port_toNat : (BitVec.ofNat 5 p.val).toNat = p.val := by
  rw [BitVec.toNat_ofNat]
  have := p.isLt
  omega

theorem State.trainingFrames_header {h : Hello} {k : TrainFrame} (sent : k ∈ s.trainingFrames p h) :
    s.fab[p].sig.getLsbD k.header.lane.val = true ∧ k.header.port.toNat = p.val ∧
      k.header.counter = BitVec.ofNat 64 s.fab[p].trainFrames ∧ k.header.active = 0 ∧ k.hello = h := by
  unfold State.trainingFrames at sent
  obtain ⟨lane, member, rfl⟩ := List.mem_map.1 sent
  exact ⟨(List.mem_filter.1 member).2, port_toNat p, rfl, rfl, rfl⟩

theorem State.trainingFrames_lane {h : Hello} {l : LaneNo} (signal : s.fab[p].sig.getLsbD l.val = true) :
    ∃ k ∈ s.trainingFrames p h, k.header.lane = l :=
  ⟨_, List.mem_map.2 ⟨l, List.mem_filter.2 ⟨List.mem_finRange l, signal⟩, rfl⟩, rfl⟩

theorem State.trafficFrames_length (key : BitVec 256) (h : Hello) (slots : List (List Byte)) :
    (s.trafficFrames p key h slots).length = 8 := by
  unfold State.trafficFrames
  rw [List.length_map, List.length_finRange]

theorem State.trafficFrames_header {key : BitVec 256} {h : Hello} {slots : List (List Byte)} {k : LaneFrame}
    (sent : k ∈ s.trafficFrames p key h slots) :
    k.header.counter = s.fab[p].counter ∧ k.header.port.toNat = p.val ∧ k.header.active = s.fab[p].txActive ∧
      k.units.length = 16 := by
  unfold State.trafficFrames at sent
  obtain ⟨lane, -, rfl⟩ := List.mem_map.1 sent
  exact ⟨rfl, port_toNat p, rfl, by simp⟩

/-- A port after it has sent its traffic frames. -/
def FabPort.sent (s : State) (p : FabricPort) (k : BitVec 256) (slots : List (List Byte)) (x : FabPort) : FabPort := { x with
  ownHello := some (s.helloOf p (byteLag mgmtPlace)), counter := x.counter + 1, txTraining := []
  txFrames := s.trafficFrames p k (s.helloOf p (byteLag mgmtPlace)) slots }

theorem State.sendTraffic_eq {k : BitVec 256} (key : s.fab[p].txKey = some k) (slots : List (List Byte)) :
    s.sendTraffic p slots = { s with fab := s.fab.set p (s.fab[p].sent s p k slots) } := by
  unfold State.sendTraffic FabPort.sent
  rw [State.onFab_set]
  simp only [key]

end

/-! ## Masks -/

/-- The announced mask takes effect on every lane at once. -/
def FabPort.switched (x : FabPort) : FabPort := { x with
  txActive := x.announced, countdown := 0, goDown := x.goDown || { x with txActive := x.announced, countdown := 0 : FabPort }.short
  ctrs := x.ctrs.set 4 (x.ctrs[4].add 1) }

/-- The masks and the countdown of the next frame. -/
def FabPort.masked (x : FabPort) : FabPort :=
  if x.countdown = 1 then x.switched
  else if 1 < x.countdown then { x with countdown := x.countdown - 1 }
  else if x.peerRequest ≠ 0 ∧ x.peerRequest ≠ x.txActive then { x with announced := x.peerRequest, countdown := 2 }
  else x

section
variable {s : State} {p : FabricPort}

theorem State.maskOp_eq (up : s.fab[p].state = .up) (last : s.fab[p].countdown = 1) :
    s.maskOp p = { s with fab := s.fab.set p s.fab[p].switched } := by
  unfold State.maskOp
  rw [if_pos ⟨up, last⟩]
  exact s.countFab_onFab p _ 4 1

theorem State.boundaryMasks_eq (up : s.fab[p].state = .up) :
    s.boundaryMasks p = { s with fab := s.fab.set p s.fab[p].masked } := by
  unfold State.boundaryMasks FabPort.masked
  dsimp only
  by_cases last : s.fab[p].countdown = 1
  · rw [if_pos last, if_pos last]
    exact State.maskOp_eq up last
  · rw [if_neg last, if_neg last]
    rfl

theorem FabPort.switched_short (x : FabPort) (few : lanesIn x.announced < 6) : x.switched.goDown = true := by
  unfold FabPort.switched FabPort.short
  simp [few]

theorem FabPort.masked_fields (x : FabPort) : x.masked.state = x.state ∧ x.masked.txKey = x.txKey ∧
    x.masked.counter = x.counter ∧
    (x.countdown = 1 → x.masked.txActive = x.announced ∧ x.masked.countdown = 0 ∧
      x.masked.ctrs = x.ctrs.set 4 ((x.ctrs[4] : Ctr).add 1)) ∧
    (x.countdown ≠ 1 → x.masked.txActive = x.txActive ∧ x.masked.ctrs = x.ctrs) ∧
    (1 < x.countdown → x.masked.countdown + 1 = x.countdown) ∧
    (x.countdown = 0 → x.peerRequest ≠ 0 → x.peerRequest ≠ x.txActive →
      x.masked.announced = x.peerRequest ∧ x.masked.countdown = 2) := by
  unfold FabPort.masked
  by_cases last : x.countdown = 1
  · rw [if_pos last]
    exact ⟨rfl, rfl, rfl, fun _ => ⟨rfl, rfl, rfl⟩, fun h => absurd last h, fun h => by omega, fun h => by omega⟩
  · rw [if_neg last]
    by_cases more : 1 < x.countdown
    · rw [if_pos more]
      exact ⟨rfl, rfl, rfl, fun h => absurd h last, fun _ => ⟨rfl, rfl⟩, fun _ => by dsimp only; omega, fun h => by omega⟩
    · rw [if_neg more]
      by_cases asks : x.peerRequest ≠ 0 ∧ x.peerRequest ≠ x.txActive
      · rw [if_pos asks]
        exact ⟨rfl, rfl, rfl, fun h => absurd h last, fun _ => ⟨rfl, rfl⟩, fun h => absurd h more, fun _ _ _ => ⟨rfl, rfl⟩⟩
      · rw [if_neg asks]
        exact ⟨rfl, rfl, rfl, fun h => absurd h last, fun _ => ⟨rfl, rfl⟩, fun h => absurd h more,
          fun _ some_ other => absurd ⟨some_, other⟩ asks⟩

end

/-! ## The boundary -/

section
variable (s : State) (p : FabricPort)

/-- A port in training sends its hello on each lane that has signal. -/
def State.sendTraining (s : State) (p : FabricPort) : State := s.onFab p fun x => { x with
  ownHello := some (s.helloOf p (byteLag 16)), txTraining := s.trainingFrames p (s.helloOf p (byteLag 16))
  trainFrames := x.trainFrames + 1 }

theorem State.boundaryOp_training (training : s.fab[p].state ∈ [LinkState.acquire, .align, .hello, .key]) :
    s.boundaryOp p = (s.takePart p).2.sendTraining p := by
  unfold State.boundaryOp
  dsimp only
  rw [s.takePart_hall p]
  dsimp only
  simp only [List.mem_cons, List.not_mem_nil, or_false] at training
  obtain st | st | st | st := training
  · rw [st]
    rfl
  · rw [st]
    rfl
  · rw [st]
    rfl
  · rw [st]
    rfl

/-- A port after it has sent its training frames. -/
def FabPort.trained (s : State) (h : Hall) (p : FabricPort) (x : FabPort) : FabPort := { x with
  ownHello := some (s.helloOf p 1), txTraining := { s with hall := h }.trainingFrames p (s.helloOf p 1)
  trainFrames := x.trainFrames + 1 }

theorem State.sendTraining_eq : (s.takePart p).2.sendTraining p =
    { s with hall := (s.takePart p).2.hall, fab := s.fab.set p (s.fab[p].trained s (s.takePart p).2.hall p) } := by
  rw [s.takePart_hall p]
  rfl

theorem State.boundaryOp_silent (still : s.fab[p].state = .down ∨ s.fab[p].state = .unpaired) :
    ∃ h, s.boundaryOp p = { s with hall := h } := by
  refine ⟨(s.takePart p).2.hall, ?_⟩
  unfold State.boundaryOp
  dsimp only
  rw [s.takePart_hall p]
  dsimp only
  obtain st | st := still <;> rw [st]

section
variable {k : BitVec 256} (key : s.fab[p].txKey = some k)
include key

theorem State.boundaryOp_verify (verify : s.fab[p].state = .verify) : ∃ h, s.boundaryOp p =
    { s with hall := h, fab := s.fab.set p (s.fab[p].sent { s with hall := h } p k []) } := by
  refine ⟨(s.takePart p).2.hall, ?_⟩
  unfold State.boundaryOp
  dsimp only
  rw [s.takePart_hall p]
  dsimp only
  rw [verify]
  exact State.sendTraffic_eq { s with hall := (s.takePart p).2.hall } p key []

theorem State.boundaryOp_up (up : s.fab[p].state = .up) : ∃ h slots, s.boundaryOp p =
    { s with
        hall := h
        fab := (s.fab.set p s.fab[p].masked).set p
          (s.fab[p].masked.sent { s with hall := h, fab := s.fab.set p s.fab[p].masked } p k slots) } := by
  refine ⟨(s.takePart p).2.hall, (s.takePart p).1, ?_⟩
  unfold State.boundaryOp
  dsimp only
  rw [s.takePart_hall p]
  dsimp only
  rw [up]
  dsimp only
  rw [State.boundaryMasks_eq (s := { s with hall := (s.takePart p).2.hall }) up]
  have ⟨_, kept, _⟩ := s.fab[p].masked_fields
  rw [State.sendTraffic_eq _ p (k := k) (by simpa using kept.trans key)]
  simp

end

end

/-- Settles O47: by the state of the port; its masks come before its frames. -/
theorem boundariesSendFrames : Obligations.BoundariesSendFrames := by
  unfold Obligations.BoundariesSendFrames
  refine fun s p => ⟨fun training => ?_, fun still => ?_, fun k verify key => ?_, fun k up key => ?_, fun up last => ?_,
    fun none => ?_⟩
  · refine ⟨_, exec_next ((s.boundaryOp_training p training).trans (s.sendTraining_eq p)), ?_⟩
    generalize (s.takePart p).2.hall = h
    dsimp only
    have here : (s.fab.set p (s.fab[p].trained s h p))[p] = s.fab[p].trained s h p := Vector.getElem_set_self _
    rw [here]
    refine ⟨rfl, rfl, fun k sent => State.trainingFrames_header { s with hall := h } p sent,
      fun l signal => State.trainingFrames_lane { s with hall := h } p signal, rfl⟩
  · obtain ⟨h, op⟩ := s.boundaryOp_silent p still
    exact ⟨_, exec_next op, rfl⟩
  · obtain ⟨h, op⟩ := s.boundaryOp_verify p key verify
    refine ⟨_, exec_next op, ?_⟩
    dsimp only
    have here : (s.fab.set p (s.fab[p].sent { s with hall := h } p k []))[p] = s.fab[p].sent { s with hall := h } p k [] :=
      Vector.getElem_set_self _
    rw [here]
    refine ⟨rfl, State.trafficFrames_length .., rfl, fun x sent => ?_, fun q other => vmod_get_other _ _ _ _ other, rfl⟩
    obtain ⟨counter, port, -, -⟩ := State.trafficFrames_header _ p sent
    exact ⟨counter, port⟩
  · obtain ⟨h, slots, op⟩ := s.boundaryOp_up p key up
    refine ⟨_, exec_next op, ?_⟩
    dsimp only
    generalize hu : ({ s with hall := h, fab := s.fab.set p s.fab[p].masked } : State) = u
    have port : u.fab[p] = s.fab[p].masked := by
      subst hu
      exact Vector.getElem_set_self _
    have here : ((s.fab.set p s.fab[p].masked).set p (s.fab[p].masked.sent u p k slots))[p] = s.fab[p].masked.sent u p k slots :=
      Vector.getElem_set_self _
    have ⟨state, txKey, counter, last, more, down, asks⟩ := s.fab[p].masked_fields
    rw [here]
    refine ⟨congrArg (· + 1) counter, State.trafficFrames_length .., state.trans up, fun x sent => ?_, last, more, down, asks,
      fun q other => ?_, rfl⟩
    · obtain ⟨sent, number, active, units⟩ := State.trafficFrames_header _ p sent
      rw [port] at sent active
      exact ⟨sent.trans counter, number, active, units⟩
    · exact (vmod_get_other _ p q (fun _ => s.fab[p].masked.sent u p k slots) other).trans
        (vmod_get_other s.fab p q (fun _ => s.fab[p].masked) other)
  · refine ⟨_, exec_next (State.maskOp_eq up last), ?_⟩
    dsimp only
    have here : (s.fab.set p s.fab[p].switched)[p] = s.fab[p].switched := Vector.getElem_set_self _
    rw [here]
    exact ⟨rfl, rfl, s.fab[p].switched_short⟩
  · refine exec_next (t := s.maskOp p) ?_
    unfold State.maskOp
    exact if_neg fun both => none.elim (fun h => h both.2) fun h => h both.1

end Sys2Proof.Machine


/-! The crook's samples and the hurdling of a hung fold (O39). -/

namespace Sys2Proof.Machine

/-! ## Samples of the crook -/

/-- The waits on a closed path with the number of consecutive samples that found each there. -/
def State.cycleCounts (s : State) (f : FoldNo) : List (WaitNode × Nat) :=
  (s.onCycle (s.waits f)).map fun n =>
    (n, 1 + (match s.folds[f].recov.lastCycle.find? fun o => decide (o.1 = n) with
      | some o => o.2
      | none => 0))

/-- The waits of a closed path that 126 samples found. -/
def State.longCycle (s : State) (f : FoldNo) : List WaitNode :=
  s.onCycle (((s.cycleCounts f).filter fun c => decide (hangSamples ≤ c.2)).map fun c => c.1)

section
variable (s : State) (f : FoldNo)

theorem State.cycleCounts_nodes : (s.cycleCounts f).map (fun c => c.1) = s.onCycle (s.waits f) := by
  unfold State.cycleCounts
  rw [List.map_map]
  exact List.map_id _

theorem State.cycleCounts_again {n : WaitNode} {k : Nat} (on : n ∈ s.onCycle (s.waits f))
    (before : (s.folds[f].recov.lastCycle.find? fun o => decide (o.1 = n)) = some (n, k)) : (n, k + 1) ∈ s.cycleCounts f := by
  refine List.mem_map.2 ⟨n, on, ?_⟩
  rw [before, Nat.add_comm]

theorem State.cycleCounts_first {n : WaitNode} (on : n ∈ s.onCycle (s.waits f))
    (before : (s.folds[f].recov.lastCycle.find? fun o => decide (o.1 = n)) = none) : (n, 1) ∈ s.cycleCounts f := by
  refine List.mem_map.2 ⟨n, on, ?_⟩
  rw [before]
  rfl

theorem State.crookSample_running (running : s.folds[f].run = .running) (due : s.rel % 1024 = 0) :
    s.crookSample f = { s with folds := s.folds.set f { s.folds[f] with recov := { s.folds[f].recov with
      lastCycle := s.cycleCounts f
      nodes := if (s.longCycle f).isEmpty then s.folds[f].recov.nodes else s.longCycle f
      hang := if (s.longCycle f).isEmpty || s.folds[f].recov.hang.isSome then s.folds[f].recov.hang else some 0x0501 } } } := by
  have counted : ¬(s.folds[f].run ≠ .running ∨ s.rel % 1024 ≠ 0) := fun h => h.elim (fun h => h running) fun h => h due
  unfold State.crookSample State.longCycle State.cycleCounts
  rw [if_neg counted]
  rfl

end

/-! ## What a notice and a log entry may change -/

/-- Only mail sent, the log and the module counters may differ. -/
def State.toldOnly (s t : State) : Prop :=
  t = { s with hall := { s.hall with number := t.hall.number, queues := t.hall.queues }, log := t.log, ctrs := t.ctrs }

theorem State.toldOnly.refl (s : State) : s.toldOnly s := rfl

theorem State.toldOnly.trans {s t u : State} (h : s.toldOnly t) (k : t.toldOnly u) : s.toldOnly u := by
  unfold State.toldOnly at h k ⊢
  rw [k, h]

theorem State.toldOnly_log1 (s : State) (code : BitVec 16) (fold : Option FoldNo) (l p : Option CoreNo) (detail : List Byte) :
    s.toldOnly (s.log1 code fold l p detail) := rfl

theorem State.toldOnly_sendMail (s : State) (kind : Nat) (bad : Bool) (dst : BitVec 12) (dstTag epoch : BitVec 16)
    (reference : BitVec 32) (addr : Word64) (payload : List Byte) :
    s.toldOnly (s.sendMail none kind bad dst dstTag epoch reference addr payload) := by
  unfold State.sendMail
  extract_lets srcTag m src h lost
  split
  · rfl
  · extract_lets q
    have kept : q.1 = { h with queues := q.1.queues } := by
      unfold q Hall.enqueue
      dsimp only
      split <;> rfl
    split
    · unfold State.toldOnly
      dsimp only
      rw [kept]
    · unfold State.toldOnly lost
      dsimp only
      rw [kept]

theorem State.toldOnly_notice (s : State) (f : FoldNo) (code : BitVec 16) (l : Option CoreNo) (action : Nat) (detail : List Byte) :
    s.toldOnly (s.notice f code l action detail) := by
  unfold State.notice
  split
  · split
    · rfl
    · refine foldl_keep (fun t => s.toldOnly t) _ (fun t m told => ?_) _ s rfl
      split
      · exact told
      · exact told.trans (t.toldOnly_sendMail ..)
  · rfl

/-! ## The streams of a fold stop -/

theorem Core.stopStreams_twice (c : Core) : c.stopStreams.stopStreams = c.stopStreams := by
  unfold Core.stopStreams
  simp

/-- Nothing differs but that some cores' streams stand. -/
structure State.stilled (s t : State) : Prop where
  frame : t = { s with cores := t.cores }
  cores : ∀ p : CoreNo, t.cores[p] = s.cores[p] ∨ t.cores[p] = s.cores[p].stopStreams

theorem State.stilled.phys {s t : State} (h : s.stilled t) (l : CoreNo) : t.phys l = s.phys l :=
  State.phys_congr (fun p => by
    obtain same | stopped := h.2 p
    · rw [same]
      exact ⟨rfl, rfl⟩
    · rw [stopped]
      exact ⟨rfl, rfl⟩) l

theorem State.stilled.stop {s t : State} (h : s.stilled t) (p : CoreNo) : s.stilled (t.onCore p Core.stopStreams) := by
  obtain ⟨frame, cores⟩ := h
  obtain ⟨only, core⟩ := t.onCore_frame p Core.stopStreams
  refine ⟨?_, fun q => ?_⟩
  · have kept : t.onCore p Core.stopStreams = { t with cores := (t.onCore p Core.stopStreams).cores } := rfl
    rw [kept, frame]
  · by_cases here : q = p
    · subst here
      rw [core]
      obtain same | stopped := cores q
      · exact .inr (congrArg Core.stopStreams same)
      · exact .inr ((congrArg Core.stopStreams stopped).trans (Core.stopStreams_twice _))
    · rw [only.1 q here]
      exact cores q

/-- What stopping a fold's streams does for one logical core. -/
def State.stopOne (f : FoldNo) (s : State) (l : CoreNo) : State := match s.phys l with
  | some p => if s.sharesOn f l && decide (s.foldOf l ≠ some f) then s else s.onCore p Core.stopStreams
  | none => s

theorem State.stilled.stopOne {s t : State} (h : s.stilled t) (f : FoldNo) (l : CoreNo) : s.stilled (t.stopOne f l) := by
  unfold State.stopOne
  split
  · split
    · exact h
    · exact h.stop _
  · exact h

theorem State.stopOne_core {s t : State} (h : s.stilled t) {f : FoldNo} {l p : CoreNo} (at_ : s.phys l = some p)
    (alone : s.sharesOn f l = false) : (t.stopOne f l).cores[p] = s.cores[p].stopStreams := by
  have shares : t.sharesOn f l = false := by
    rw [h.1]
    exact alone
  unfold State.stopOne
  rw [(h.phys l).trans at_, shares]
  refine ((t.onCore_frame p Core.stopStreams).2).trans ?_
  obtain same | stopped := h.2 p
  · exact congrArg Core.stopStreams same
  · exact (congrArg Core.stopStreams stopped).trans (Core.stopStreams_twice _)

section
variable (s : State) (f : FoldNo)

theorem State.stopFoldStreams_eq : s.stopFoldStreams f = (s.coresOf f).foldl (State.stopOne f) s := by
  unfold State.stopFoldStreams
  refine congrArg (fun g => (s.coresOf f).foldl g s) (funext fun t => funext fun l => ?_)
  unfold State.stopOne
  cases t.phys l <;> rfl

theorem State.stopFoldStreams_stilled : s.stilled (s.stopFoldStreams f) := by
  rw [State.stopFoldStreams_eq]
  exact foldl_keep (fun t => s.stilled t) _ (fun t l h => h.stopOne f l) _ s ⟨rfl, fun _ => .inl rfl⟩

theorem State.stopFoldStreams_core {l p : CoreNo} (own : l ∈ s.coresOf f) (at_ : s.phys l = some p)
    (alone : s.sharesOn f l = false) : (s.stopFoldStreams f).cores[p] = s.cores[p].stopStreams := by
  rw [State.stopFoldStreams_eq]
  have still : s.stilled s := ⟨rfl, fun _ => .inl rfl⟩
  refine (foldl_reaches (P := fun t => s.stilled t) (Q := fun t => s.stilled t ∧ t.cores[p] = s.cores[p].stopStreams)
    (f := State.stopOne f) (x := l) (fun t h => ?_) (fun t m h => .inl (h.stopOne f m)) (fun t m h => ?_) _ s own (.inl still)).2
  · have h : s.stilled t := h.elim id fun h => h.1
    exact ⟨h.stopOne f l, State.stopOne_core h at_ alone⟩
  · refine ⟨h.1.stopOne f m, ?_⟩
    have ⟨stilled, stopped⟩ := h
    have kept : ∀ u : State, t.stilled u → u.cores[p] = s.cores[p].stopStreams := fun u hu =>
      (hu.2 p).elim (fun same => same.trans stopped) fun again =>
        again.trans ((congrArg Core.stopStreams stopped).trans (Core.stopStreams_twice _))
    exact kept _ (State.stilled.stopOne ⟨rfl, fun _ => .inl rfl⟩ f m)

end

/-! ## Hurdling -/

/-- A fold that is hurdled at a cycle, before its hang is counted. -/
def Fold.hurdled (x : Fold) (now : Nat) (code : BitVec 16) (nodes : List WaitNode) (walking : List CoreNo) (dump : List Byte)
    (summary : Bool) : Fold := { x with
  run := .hurdled, markAll := true
  recov := { x.recov with hurdle := some now, cause := code, nodes := nodes, captured := false, dump := dump
                          summary := summary, walking := walking, paused := 0, unrepairable := false, lastCycle := []
                          overrun := false, hang := none } }

/-- Everything that a hurdle does at once, before it is logged. -/
def State.hurdling (s : State) (f : FoldNo) (code : BitVec 16) (nodes : List WaitNode) (dump : List Byte) (summary : Bool) : State :=
  let u := (State.stopFoldStreams { s with dumpNo := s.dumpNo + 1 } f).dropMail f
  (u.onFold f fun x => x.hurdled u.now code nodes (u.coresOf f) dump summary).countFold f 9 1

/-- A hang comes within 1,024 ticks of the last restart. -/
def State.hangsAgain (s : State) (f : FoldNo) : Bool :=
  s.folds[f].recov.restarted.any fun t => decide (s.tick.number.toNat < t + 1024)

theorem State.hurdle_eq {s : State} {f : FoldNo} {i : FoldImage} (image : s.folds[f].image = some i)
    (running : s.folds[f].run = .running) (code : BitVec 16) (nodes : List WaitNode) :
    ∃ dump detail, ∀ u, u = ((s.hurdling f code nodes dump (s.capturing f)).log1 code (some f) none none detail).notice f code
        none 1 detail →
      s.hurdle f code nodes = if (s.entry f).state = .confirming then u.beginRevert f
        else if s.hangsAgain f then u.fence f else u := by
  refine ⟨s.dumpBytes f i code nodes s.dumpNo (s.capturing f), sliceD 0 (nodes.flatMap fun n => leBytes n.word 4) 0 20, ?_⟩
  rintro u rfl
  unfold State.hurdle
  rw [image]
  dsimp only
  generalize s.dumpBytes f i code nodes s.dumpNo (s.capturing f) = dump
  rw [if_neg (by rw [running]; exact fun h => h rfl)]
  unfold State.hangsAgain
  by_cases confirming : (s.entry f).state = .confirming
  · rw [if_pos confirming, decide_eq_true confirming]
    cases s.folds[f].recov.restarted <;> rfl
  · rw [if_neg confirming, decide_eq_false confirming]
    cases s.folds[f].recov.restarted with
    | none => rfl
    | some k =>
      rw [Option.any_some]
      dsimp only
      by_cases again : s.tick.number.toNat < k + 1024
      · rw [decide_eq_true again]
        rfl
      · rw [decide_eq_false again]
        rfl

/-- What stands of a fold and the hall after everything that a hurdle does at once. -/
theorem State.hurdling_frame (s : State) (f : FoldNo) (code : BitVec 16) (nodes : List WaitNode) (dump : List Byte)
    (summary : Bool) : ∀ u, u = s.hurdling f code nodes dump summary →
    u = { s with
      dumpNo := s.dumpNo + 1, cores := (State.stopFoldStreams { s with dumpNo := s.dumpNo + 1 } f).cores
      folds := u.folds, hall := u.hall } ∧
      u.folds[f] = ((s.folds[f].count 17 (s.hall.writes.filter fun w => decide (w.fold = f)).length).hurdled s.now code nodes
        (s.coresOf f) dump summary).count 9 1 ∧
      (∀ g : FoldNo, g ≠ f → u.folds[g] = s.folds[g]) ∧
      u.hall = { s.hall with writes := s.hall.writes.filter fun w => decide (w.fold ≠ f)
                             asked := s.hall.asked.filter fun a => decide (a.fold ≠ f) } := by
  rintro u rfl
  unfold State.hurdling
  have frame := (State.stopFoldStreams_stilled { s with dumpNo := s.dumpNo + 1 } f).frame
  generalize State.stopFoldStreams { s with dumpNo := s.dumpNo + 1 } f = v at frame ⊢
  obtain ⟨cores, rfl⟩ : ∃ cores, v = { s with dumpNo := s.dumpNo + 1, cores := cores } := ⟨_, frame⟩
  have own : State.coresOf (State.dropMail { s with dumpNo := s.dumpNo + 1, cores := cores } f) f = s.coresOf f := by
    unfold State.coresOf State.dropMail State.countFold
    simp only [State.onFold_folds, Fin.getElem_fin, vmod_get_self]
    rfl
  dsimp only
  rw [own]
  unfold State.dropMail State.countFold State.onFold
  refine ⟨rfl, ?_, fun g other => ?_, rfl⟩
  · simp only [Fin.getElem_fin, vmod_get_self]
  · simp only [Fin.getElem_fin, vmod_get_other _ _ _ _ other]

/-- A fold that fences has nothing else changed but what tells of it. -/
theorem State.fence_frame (s : State) (f : FoldNo) :
    State.toldOnly { s with folds := s.folds.set f { s.folds[f] with run := .fenced } } (s.fence f) :=
  (State.toldOnly_log1 ..).trans (State.toldOnly_notice ..)

/-- Of what stood, only the fold's run state, its mail, what tells of it and the image store may differ. -/
def State.settled (s t : State) (f : FoldNo) (r : RunState) : Prop :=
  t = { s with
    folds := s.folds.set f { s.folds[f] with run := r }
    hall := { s.hall with number := t.hall.number, queues := t.hall.queues }
    store := t.store, log := t.log, ctrs := t.ctrs }

theorem State.settled_of_toldOnly {s t : State} (f : FoldNo) (told : s.toldOnly t) : s.settled t f s.folds[f].run := by
  unfold State.settled
  have store : t.store = s.store := by rw [told]
  rw [show s.folds.set f { s.folds[f] with run := s.folds[f].run } = s.folds from Vector.set_getElem_self _, store]
  exact told

/-- A hung fold: everything that its hurdle does at once, what tells of it, and what follows of its state. -/
theorem State.hurdle_leaves {s : State} {f : FoldNo} {i : FoldImage} (image : s.folds[f].image = some i)
    (running : s.folds[f].run = .running) (code : BitVec 16) (nodes : List WaitNode) : ∃ dump, ∀ v,
    v = s.hurdling f code nodes dump (s.capturing f) → v.folds[f].run = .hurdled →
    ∃ r, v.settled (s.hurdle f code nodes) f r ∧
      ((s.entry f).state = .confirming → r = .hurdled ∧ ((s.hurdle f code nodes).entry f).state = .reverting) ∧
      ((s.entry f).state ≠ .confirming → (s.hurdle f code nodes).store = v.store ∧
        r = if s.hangsAgain f then .fenced else .hurdled) := by
  obtain ⟨dump, detail, op⟩ := State.hurdle_eq image running code nodes
  refine ⟨dump, ?_⟩
  rintro v rfl hurdled
  have op := op _ rfl
  generalize s.hurdling f code nodes dump (s.capturing f) = v at op hurdled
  have told : v.toldOnly ((v.log1 code (some f) none none detail).notice f code none 1 detail) :=
    (State.toldOnly_log1 ..).trans (State.toldOnly_notice ..)
  generalize (v.log1 code (some f) none none detail).notice f code none 1 detail = u at op told
  rw [op]
  by_cases confirming : (s.entry f).state = .confirming
  · rw [if_pos confirming]
    refine ⟨.hurdled, ?_, fun _ => ⟨rfl, congrArg TackEntry.state (u.entryAt_commitEntry (foldEntry f) _)⟩,
      fun other => absurd confirming other⟩
    have settled := State.settled_of_toldOnly f told
    rw [hurdled] at settled
    unfold State.settled at settled ⊢
    exact congrArg (fun x : State => { x with store := (u.beginRevert f).store }) settled
  · rw [if_neg confirming]
    by_cases again : s.hangsAgain f = true
    · rw [if_pos again, if_pos again]
      refine ⟨.fenced, ?_, fun h => absurd h confirming, fun _ => ⟨?_, rfl⟩⟩
      · have fenced := u.fence_frame f
        unfold State.toldOnly at told fenced
        unfold State.settled
        rw [fenced, told]
      · rw [u.fence_frame f, told]
    · rw [if_neg again, if_neg again]
      refine ⟨.hurdled, ?_, fun h => absurd h confirming, fun _ => ⟨?_, rfl⟩⟩
      · have settled := State.settled_of_toldOnly f told
        rw [hurdled] at settled
        exact settled
      · rw [told]

/-- Settles O39: the crook's counts of one sample, and a hurdle with what follows of the fold's state. -/
theorem hangsAreFoundAndHurdle : Obligations.HangsAreFoundAndHurdle := by
  unfold Obligations.HangsAreFoundAndHurdle
  refine ⟨fun s f => ⟨fun none => exec_next (t := s.crookSample f) (if_pos none), fun running due => ?_⟩, fun s f i => ⟨fun none => ?_,
    fun code hang image running => ?_⟩⟩
  · refine ⟨_, s.cycleCounts f, exec_next (s.crookSample_running f running due), s.cycleCounts_nodes f,
      fun n k => s.cycleCounts_again f, fun n => s.cycleCounts_first f, fun long hlong => ?_⟩
    rw [show s.longCycle f = long from hlong.symm]
    cases long with
    | nil => exact ⟨fun _ => rfl, fun h => absurd rfl h⟩
    | cons n ns => exact ⟨fun h => absurd h (by simp), fun _ => rfl⟩
  · refine exec_next (t := s.declareHang f) ?_
    unfold State.declareHang
    cases hang : s.folds[f].recov.hang with
    | none => rfl
    | some code =>
      obtain off | off := none
      · exact absurd (hang.symm.trans off) (by simp)
      · dsimp only
        unfold State.hurdle
        cases s.folds[f].image with
        | none => rfl
        | some i => exact if_pos off
  · have op : s.declareHang f = s.hurdle f code s.folds[f].recov.nodes := by
      unfold State.declareHang
      rw [hang]
    obtain ⟨dump, leaves⟩ := State.hurdle_leaves image running code s.folds[f].recov.nodes
    obtain ⟨frame, fold, others, hall⟩ := State.hurdling_frame s f code s.folds[f].recov.nodes dump (s.capturing f) _ rfl
    obtain ⟨r, settled, reverts, follows⟩ := leaves _ rfl (by rw [fold]; rfl)
    generalize s.hurdling f code s.folds[f].recov.nodes dump (s.capturing f) = v at settled follows frame fold others hall
    have stopped := fun l p => State.stopFoldStreams_core { s with dumpNo := s.dumpNo + 1 } f (l := l) (p := p)
    have stilled := (State.stopFoldStreams_stilled { s with dumpNo := s.dumpNo + 1 } f).cores
    refine ⟨_, exec_next op, ?_⟩
    generalize s.hurdle f code s.folds[f].recov.nodes = t at settled reverts follows ⊢
    generalize State.stopFoldStreams { s with dumpNo := s.dumpNo + 1 } f = w at frame stopped stilled
    have tf : t.folds[f] = { v.folds[f] with run := r } := by
      rw [settled]
      exact Vector.getElem_set_self _
    have cores : t.cores = w.cores := by
      rw [settled, frame]
    rw [tf, fold]
    refine ⟨rfl, rfl, rfl, rfl, rfl, rfl, ?_, ?_, fun g other => ?_, ?_, ?_, fun l p own at_ alone => ?_, fun p => ?_,
      reverts, fun other => ?_, ?_⟩
    · rw [settled, frame]
    · refine (Fold.count_same (i := 9) _ _).trans (congrArg (fun c : Ctr => c.add 1) ?_)
      exact Fold.count_other (i := 17) (j := 9) _ _ (by decide)
    · rw [settled]
      exact (vmod_get_other v.folds f g (fun _ => { v.folds[f] with run := r }) other).trans (others g other)
    · rw [settled, hall]
    · rw [settled, hall]
    · have core := stopped l p own at_ alone
      rw [cores, core]
      exact ⟨rfl, rfl, rfl⟩
    · rw [cores]
      obtain same | stop := stilled p
      · rw [same]
        exact ⟨rfl, rfl, rfl⟩
      · rw [stop]
        exact ⟨rfl, rfl, rfl⟩
    · obtain ⟨store, run⟩ := follows other
      unfold State.hangsAgain at run
      refine ⟨store.trans (by rw [frame]), fun k restarted again => ?_, fun k restarted far => ?_, fun never => ?_⟩
      · rw [run, restarted, Option.any_some, decide_eq_true again]
        rfl
      · rw [run, restarted, Option.any_some, decide_eq_false (by omega)]
        rfl
      · rw [run, never]
        rfl
    · rw [settled, frame]

end Sys2Proof.Machine


/-! An event of the scrub in the reserve falls to the fold whose data it concerns (O30). -/

namespace Sys2Proof.Machine

/-- A fold image of one static word of logical core 0. -/
def oneWordImage : FoldImage :=
  { version := 1, release := 0, measurement := 0, tag := 0, degraded := 0, thermal := 0, members := 1, confirm := 0
    mailBudget := 0, shepherd := 0, deputy := 0, selector := 0, pens := []
    regions := [{ core := 0, start := 0, len := 32, dynamic := false, fold := 0 }], gates := [], rings := [], rows := []
    streams := [], frames := [], slices := [], flows := [], landings := [], topology := [], statics := [], tensors := [] }

/-- In the reserve: word 0 of core 0 is fold 0's and has one flipped bit, and counter 0 of the core counts the corrected words
of fold 0 (event 0x20). -/
def reserveScrub : State := { State.reset with
  now := 192000
  sec? := some plainSection
  folds := State.reset.folds.set 0 { State.reset.folds[0] with image := some oneWordImage }
  cores := State.reset.cores.set 0 { Core.reset with
    pasture := { Core.reset.pasture with flips := [(0, 1)] }
    tally := Core.reset.tally.set 0 { Core.reset.tally[0] with sel := BitVec.ofNat 32 (2 ^ 31 + 2 ^ 27 + 0x20) } } }

/-- A core once the scrub has corrected word 0. -/
def Core.corrected (c : Core) (now : Nat) : Core := { c with
  scrubRow := (c.scrubRow + 1) % scrubRows, scrubbed := some now, pasture := c.pasture.fix 0 (c.pasture.word 0) }

/-- The scrub goes on in this cycle and finds the flipped bit of word 0; the machine counts the event for fold 0, whose data the word
is; and without that fold it would not be counted. -/
theorem reserveScrub_runs : (reserveScrub.mailWaits 0 = false ∧ reserveScrub.cores[(0 : CoreNo)].scrubbed ≠ some reserveScrub.now) ∧
    (reserveScrub.cores[(0 : CoreNo)].pasture.flips = [(0, 1)] ∧ 0 / 8 = reserveScrub.cores[(0 : CoreNo)].scrubRow ∧
      ivMem 0 reserveScrub.cores[(0 : CoreNo)].pasture.poison = false ∧ flipCount 1 = 1) ∧
    (reserveScrub.scrub 0 []).cores[(0 : CoreNo)].tally[0].ctr.val = 1 ∧
    (State.events { reserveScrub with
        cores := reserveScrub.cores.set (0 : CoreNo) (reserveScrub.cores[(0 : CoreNo)].corrected reserveScrub.now) }
      0 [(0x20, 1)]).cores[(0 : CoreNo)].tally[0].ctr.val = 0 := by
  decide +kernel

/-- Refutes O30: in the reserve the correction of a word counts for the fold whose data the word is (R415), and not for the fold
in whose cycles it falls, as the statement has it. -/
theorem not_scrubAndRepair : ¬ Obligations.ScrubAndRepair := by
  unfold Obligations.ScrubAndRepair
  rintro ⟨scrub, -⟩
  obtain ⟨⟨quiet, fresh⟩, ⟨flips, row, sound, one⟩, counts, uncounted⟩ := reserveScrub_runs
  obtain ⟨-, corrects⟩ := (scrub reserveScrub 0 [] [] _ rfl).2 rfl quiet fresh
  obtain ⟨t, answer, raised, -⟩ := (corrects 0 1 rfl flips row sound).1 (.inl one)
  have same : reserveScrub.scrub 0 [] = t := Host.Outcome.next.inj answer
  rw [same, raised] at counts
  exact absurd (counts.symm.trans uncounted) (by decide)

end Sys2Proof.Machine


/-! Frames at a stream port: refused by their first failing cause, or accepted and handled (O49). -/

namespace Sys2Proof.Machine

/-! ## Changes of one stream port -/

section
variable (s : State) (p : StreamPort) (f g : StPort → StPort)

theorem State.onSt_set : s.onSt p f = { s with st := s.st.set p (f s.st[p]) } := rfl

theorem State.onSt_onSt : (s.onSt p f).onSt p g = s.onSt p fun x => g (f x) := by
  unfold State.onSt vmod
  simp [Vector.set_set]

theorem State.st_set_same (x : StPort) : (s.st.set p x)[p] = x := Vector.getElem_set_self _

theorem State.st_set_other (x : StPort) {q : StreamPort} (h : q ≠ p) : (s.st.set p x)[q] = s.st[q] :=
  vmod_get_other s.st p q (fun _ => x) h

end

/-- A port with one counter raised. -/
def StPort.counted (x : StPort) (k : Fin 14) : StPort := { x with ctrs := x.ctrs.set k ((x.ctrs[k] : Ctr).add 1) }

/-- A port that has discarded a packet of its window. -/
def StPort.dropping (x : StPort) (k : Fin 14) : StPort := { x.counted k with discarded := x.discarded + 1 }

theorem StPort.counted_ctr (x : StPort) (k : Fin 14) : (x.counted k).ctrs[k] = (x.ctrs[k] : Ctr).add 1 := Vector.getElem_set_self _

theorem StPort.counted_other (x : StPort) {j k : Fin 14} (h : j ≠ k) : (x.counted k).ctrs[j] = x.ctrs[j] :=
  vmod_get_other x.ctrs k j (fun c => c.add 1) h

section
variable (s : State) (p : StreamPort)

theorem State.countSt_set (k : Fin 14) : s.countSt p k 1 = { s with st := s.st.set p (s.st[p].counted k) } := rfl

theorem State.inputFault_frame (kind : Nat) : ∃ log ctrs, s.inputFault p kind = { s with log := log, ctrs := ctrs } := by
  unfold State.inputFault
  split
  · exact ⟨_, _, rfl⟩
  · exact ⟨s.log, s.ctrs, rfl⟩

theorem State.discardSt_frame (k : Fin 14) : ∃ log ctrs,
    s.discardSt p k = { s with st := s.st.set p (s.st[p].dropping k), log := log, ctrs := ctrs } := by
  unfold State.discardSt State.countSt
  rw [State.onSt_onSt]
  obtain ⟨log, ctrs, told⟩ := State.inputFault_frame (s.onSt p fun x => { x.counted k with discarded := x.discarded + 1 }) p
    (inputKind k)
  exact ⟨log, ctrs, told⟩

end

/-! ## Acceptance -/

section
variable (s : State) (p : StreamPort) (f : FoldNo) (r : StreamRec)

theorem State.record_frame (kind port tick arrival : Nat) (payload : List Byte) : ∃ folds pl,
    s.record f kind port tick arrival payload = { s with folds := folds, pl := pl } := by
  unfold State.record
  split
  · exact ⟨_, _, rfl⟩
  · exact ⟨s.folds, s.pl, rfl⟩

/-- A live packet that is accepted counts in its window; where the record says so it is kept for replay. -/
theorem State.acceptSt_live (t c : Nat) (b : List Byte) : ∃ folds pl, (r.record = false → folds = s.folds ∧ pl = s.pl) ∧
    s.acceptSt p f r (.live t c) b =
      { s with st := s.st.set p { s.st[p] with accepted := s.st[p].accepted + 1 }, folds := folds, pl := pl } := by
  unfold State.acceptSt
  dsimp only
  cases r.record with
  | false => exact ⟨s.folds, s.pl, fun _ => ⟨rfl, rfl⟩, rfl⟩
  | true =>
    obtain ⟨folds, pl, kept⟩ := State.record_frame (s.onSt p fun x => { x with accepted := x.accepted + 1 }) f 1 p.val t c b
    exact ⟨folds, pl, nofun, kept⟩

theorem State.arrivalOf_live (e : EthFrame) : ∃ t c, s.arrivalOf e = .live t c := by
  unfold State.arrivalOf
  dsimp only
  split
  · exact ⟨_, _, rfl⟩
  · exact ⟨_, _, rfl⟩

end

/-- A frame that a port has counted and then drops raises two counters. -/
theorem StPort.dropping_counted (x : StPort) (accepted : Nat) {k : Fin 14} (other : k ≠ 0) :
    ({ x.counted 0 with accepted := accepted } : StPort).dropping k = { x with
      accepted := accepted, discarded := x.discarded + 1
      ctrs := (x.ctrs.set 0 ((x.ctrs[0] : Ctr).add 1)).set k ((x.ctrs[k] : Ctr).add 1) } := by
  show { x with
    accepted := accepted, discarded := x.discarded + 1
    ctrs := (x.counted 0).ctrs.set k (((x.counted 0).ctrs[k] : Ctr).add 1) } = _
  rw [x.counted_other other]
  rfl

/-- What is done with the payload of a live frame that its window takes. -/
def State.handled (s : State) (p : StreamPort) (r : StreamRec) (b : List Byte) : State :=
  if r.imesk = true ∨ beAt b 0 1 = 1 then
    (if imeskOk r r.imesk b then s.imeskFrame p r 0 b else s.discardSt p 11)
  else if gevOk b then s.gevFrame p r 0 b
  else s.discardSt p 11

/-- A port that has accepted a frame into its window. -/
def StPort.taken (x : StPort) : StPort := { x.counted 0 with accepted := x.accepted + 1 }

section
variable {s : State} {p : StreamPort} {f : FoldNo} {r : StreamRec} {e : EthFrame}

/-- A port without a record or link takes no frame. -/
theorem State.streamFrame_closed (closed : s.st[p].up = false ∨ s.st[p].cfg = none) : s.streamFrame p e = s := by
  unfold State.streamFrame
  cases cfg : s.st[p].cfg with
  | none => rfl
  | some x =>
    obtain down | free := closed
    · dsimp only
      rw [down]
      rfl
    · exact absurd (cfg.symm.trans free) (by simp)

theorem State.invalidFrame_closed (closed : s.st[p].up = false ∨ s.st[p].cfg = none) : s.invalidFrame p e = s := by
  unfold State.invalidFrame
  cases cfg : s.st[p].cfg with
  | none => rfl
  | some x =>
    obtain down | free := closed
    · dsimp only
      rw [down]
      rfl
    · exact absurd (cfg.symm.trans free) (by simp)

section
variable (cfg : s.st[p].cfg = some (f, r)) (up : s.st[p].up = true)
include cfg up

theorem State.streamFrame_caused {k : Fin 14} (cause : r.cause e = some k) : s.streamFrame p e = s.countSt p k 1 := by
  unfold State.streamFrame
  rw [cfg]
  dsimp only
  rw [up, cause]
  rfl

theorem State.invalidFrame_caused {k : Fin 14} (cause : r.cause e = some k) : s.invalidFrame p e = s.countSt p k 1 := by
  unfold State.invalidFrame
  rw [cfg]
  dsimp only
  rw [up, cause]
  rfl

variable (sound : r.cause e = none)
include sound

theorem State.invalidFrame_malformed
    (bad : (if r.imesk ∨ beAt e.payload 0 1 = 1 then imeskOk r r.imesk e.payload else gevOk e.payload) = false) :
    s.invalidFrame p e = (s.countSt p 0 1).discardSt p 11 := by
  unfold State.invalidFrame
  rw [cfg]
  dsimp only
  rw [up, sound]
  dsimp only
  rw [bad]
  rfl

theorem State.streamFrame_sound : ∃ t c, s.streamFrame p e = (s.countSt p 0 1).streamPayload p f r (.live t c) e.payload := by
  obtain ⟨t, c, arrival⟩ := s.arrivalOf_live e
  refine ⟨t, c, ?_⟩
  unfold State.streamFrame
  rw [cfg]
  dsimp only
  rw [up, sound, arrival]
  rfl

theorem State.streamFrame_excess (closed : s.folds[f].run ≠ .running ∨ s.folds[f].replay.on = true ∨ s.st[p].window = none) :
    s.streamFrame p e = (s.countSt p 0 1).discardSt p 9 := by
  obtain ⟨t, c, op⟩ := State.streamFrame_sound cfg up sound
  rw [op]
  unfold State.streamPayload
  dsimp only
  refine if_pos ?_
  obtain stopped | replays | shut := closed
  · exact .inl stopped
  · exact .inr (.inr replays)
  · refine .inr (.inl ?_)
    rw [State.countSt_set, State.st_set_same]
    show s.st[p].window.isNone = true
    rw [shut]
    rfl

/-- A frame for a running fold's open window is accepted, and handled if the window has room for it. -/
theorem State.streamFrame_accepted (running : s.folds[f].run = .running) (live : s.folds[f].replay.on = false)
    (open_ : s.st[p].window.isSome = true) : ∃ folds pl, (r.record = false → folds = s.folds ∧ pl = s.pl) ∧
      ∀ u, u = { s with st := s.st.set p s.st[p].taken, folds := folds, pl := pl } →
        s.streamFrame p e = if r.maxPackets ≤ s.st[p].accepted then u.discardSt p 9 else u.handled p r e.payload := by
  obtain ⟨t, c, op⟩ := State.streamFrame_sound cfg up sound
  obtain ⟨folds, pl, kept, accepts⟩ := (s.countSt p 0 1).acceptSt_live p f r t c e.payload
  refine ⟨folds, pl, kept, ?_⟩
  rintro u rfl
  have here : (s.countSt p 0 1).st[p] = s.st[p].counted 0 := s.st_set_same p _
  have taken : { s.countSt p 0 1 with
      st := (s.countSt p 0 1).st.set p { (s.countSt p 0 1).st[p] with accepted := (s.countSt p 0 1).st[p].accepted + 1 }
      folds := folds, pl := pl } = { s with st := s.st.set p s.st[p].taken, folds := folds, pl := pl } := by
    rw [here, State.countSt_set]
    dsimp only
    rw [Vector.set_set]
    rfl
  rw [op]
  unfold State.streamPayload
  rw [if_neg, accepts, taken, here]
  · dsimp only
    by_cases full : r.maxPackets ≤ s.st[p].accepted
    · rw [if_pos full]
      exact if_pos (decide_eq_true full)
    · rw [if_neg full]
      exact if_neg (by rw [decide_eq_true_iff]; exact full)
  · rw [here]
    rintro (stopped | shut | replays)
    · exact stopped running
    · exact absurd (Option.isNone_iff_eq_none.1 shut) (Option.isSome_iff_ne_none.1 open_)
    · exact absurd (live.symm.trans (Bool.and_eq_true_iff.1 replays).2) (by simp)

end

/-- A frame that its window takes is handled. -/
theorem State.streamFrame_taken {k : Nat} (taken : frameTaken s p f r e k) :
    ∃ folds pl, (r.record = false → folds = s.folds ∧ pl = s.pl) ∧
      ∀ u, u = { s with st := s.st.set p s.st[p].taken, folds := folds, pl := pl } → s.streamFrame p e = u.handled p r e.payload := by
  obtain ⟨cfg, up, sound, running, window, live, room⟩ := taken
  obtain ⟨folds, pl, kept, op⟩ := State.streamFrame_accepted cfg up sound running live (by rw [window]; rfl)
  exact ⟨folds, pl, kept, fun u hu => (op u hu).trans (if_neg (not_le.2 room))⟩

end

/-! ## Leaders, trailers and process frames -/

section
variable {u : State} {p : StreamPort} {r : StreamRec} {b : List Byte}

theorem State.handled_imesk (imesk : beAt b 0 1 = 1 ∨ r.imesk = true) (ok : imeskOk r r.imesk b = true) :
    u.handled p r b = u.imeskFrame p r 0 b := by
  unfold State.handled
  rw [if_pos imesk.symm, ok]
  rfl

theorem State.handled_gev (gev : r.imesk = false) (other : beAt b 0 1 ≠ 1) (ok : gevOk b = true) :
    u.handled p r b = u.gevFrame p r 0 b := by
  unfold State.handled
  rw [if_neg (by rw [gev]; exact fun h => h.elim Bool.false_ne_true other), ok]
  rfl

/-- A port that has seen the sequence number of a frame: gaps are counted. -/
def StPort.sequenced (b : List Byte) (x : StPort) : StPort := { x with
  seq := some (BitVec.ofNat 32 (beAt b 8 4))
  gaps := match x.seq with
    | some q => x.gaps + (BitVec.ofNat 32 (beAt b 8 4) - (q + 1) : Word32).toNat
    | none => x.gaps }

theorem State.imeskFrame_line (line : beAt b 1 1 ≠ 2) : u.imeskFrame p r 0 b =
    (u.onSt p (StPort.sequenced b)).landLine p r 0 (beAt b 12 8) (beAt b 20 8) (beAt b 28 4) (b.drop 48) := by
  unfold State.imeskFrame
  exact if_neg line

/-- The 32 bytes of a process frame. -/
def processFields (b : List Byte) : List Byte := (b.drop 48).take 32

/-- A port that has taken the fields of a process frame, `early` before the reserve. -/
def StPort.processed (b : List Byte) (early : Bool) (x : StPort) : StPort := { x with
  fields := some (processFields b), windowFields := some (processFields b)
  sampled := if early then some (processFields b) else x.sampled }

theorem State.imeskFrame_process (process : beAt b 1 1 = 2) {early : Bool} (clock : decide (u.rel < u.reserveAt) = early) :
    u.imeskFrame p r 0 b = u.onSt p fun x => (x.sequenced b).processed b early := by
  subst clock
  unfold State.imeskFrame
  dsimp only
  rw [if_pos process, State.onSt_onSt]
  rfl

/-- A leader whose image matches its record. -/
structure leaderMatches (r : StreamRec) (b : List Byte) : Prop where
  width : beAt b 36 4 = r.width
  lines : beAt b 40 4 = r.lines
  pixel : beAt b 32 4 = r.pixel.toNat
  flags : beAt b 52 4 = 0

theorem State.gevFrame_leader (leader : beAt b 4 1 % 16 = 1) (same : leaderMatches r b) : u.gevFrame p r 0 b =
    u.onSt p fun x => { x with block := some (BitVec.ofNat 64 (beAt b 8 8), beAt b 24 8) } := by
  unfold State.gevFrame
  exact (if_pos leader).trans (if_pos ⟨same.width, same.lines, same.pixel, same.flags⟩)

theorem State.gevFrame_otherLeader (leader : beAt b 4 1 % 16 = 1) (other : ¬leaderMatches r b) : u.gevFrame p r 0 b =
    (u.onSt p fun x => { x with block := none }).discardSt p 13 := by
  unfold State.gevFrame
  exact (if_pos leader).trans (if_neg fun ⟨width, lines, pixel, flags⟩ => other ⟨width, lines, pixel, flags⟩)

theorem State.gevFrame_trailer (trailer : beAt b 4 1 % 16 = 2) : u.gevFrame p r 0 b = u := by
  unfold State.gevFrame
  exact (if_neg (by omega)).trans (if_pos trailer)

end

/-- Settles O49: a frame by its acceptance, its window and its format. -/
theorem framesAreTakenOrRefused : Obligations.FramesAreTakenOrRefused := by
  unfold Obligations.FramesAreTakenOrRefused
  refine ⟨fun s p e c kind => ?_, fun s p f r e k taken => ?_⟩
  · have op : exec c s = .next (s.streamFrame p e) ∧ c ≠ .streamFrameInvalid p e ∨
        exec c s = .next (s.invalidFrame p e) ∧ c = .streamFrameInvalid p e := by
      simp only [List.mem_cons, List.not_mem_nil, or_false] at kind
      obtain rfl | rfl | rfl | rfl | rfl | rfl := kind
      · exact .inl ⟨rfl, nofun⟩
      · exact .inl ⟨rfl, nofun⟩
      · exact .inl ⟨rfl, nofun⟩
      · exact .inl ⟨rfl, nofun⟩
      · exact .inl ⟨rfl, nofun⟩
      · exact .inr ⟨rfl, rfl⟩
    refine ⟨fun closed => ?_, fun f r cfg up => ⟨fun k cause => ?_, fun k sound why => ?_, fun stream sound running live open_ full
      unrecorded => ?_⟩⟩
    · obtain ⟨op, -⟩ | ⟨op, -⟩ := op
      · rw [op, State.streamFrame_closed closed]
      · rw [op, State.invalidFrame_closed closed]
    · obtain ⟨op, -⟩ | ⟨op, -⟩ := op
      · rw [op, State.streamFrame_caused cfg up cause]
        rfl
      · rw [op, State.invalidFrame_caused cfg up cause]
        rfl
    · have dropped : exec c s = .next ((s.countSt p 0 1).discardSt p k) ∧ k ≠ 0 := by
        obtain ⟨invalid, rfl, imesk, gevImesk, gev⟩ | ⟨stream, rfl, closed⟩ := why
        · obtain ⟨-, other⟩ | ⟨op, -⟩ := op
          · exact absurd invalid other
          · rw [op, State.invalidFrame_malformed cfg up sound ?_]
            · exact ⟨rfl, by decide⟩
            · cases line : r.imesk with
              | true => exact (if_pos (.inl rfl)).trans (imesk line)
              | false =>
                by_cases first : beAt e.payload 0 1 = 1
                · exact (if_pos (.inr first)).trans (gevImesk line first)
                · exact (if_neg (fun h => h.elim Bool.false_ne_true first)).trans (gev line first)
        · obtain ⟨op, -⟩ | ⟨-, invalid⟩ := op
          · rw [op, State.streamFrame_excess cfg up sound closed]
            exact ⟨rfl, by decide⟩
          · exact absurd invalid stream
      obtain ⟨dropped, nonzero⟩ := dropped
      obtain ⟨log, ctrs, drops⟩ := (s.countSt p 0 1).discardSt_frame p k
      refine ⟨_, dropped.trans (congrArg _ drops), ?_⟩
      rw [State.countSt_set]
      dsimp only
      rw [State.st_set_same, Vector.set_set, State.st_set_same]
      refine ⟨rfl, ?_⟩
      exact s.st[p].dropping_counted s.st[p].accepted nonzero
    · obtain ⟨op, -⟩ | ⟨-, invalid⟩ := op
      · obtain ⟨folds, pl, kept, accepts⟩ := State.streamFrame_accepted cfg up sound running live open_
        obtain ⟨rfl, rfl⟩ := kept unrecorded
        have accepts := accepts _ rfl
        rw [if_pos full] at accepts
        obtain ⟨log, ctrs, drops⟩ := State.discardSt_frame { s with st := s.st.set p s.st[p].taken } p 9
        refine ⟨_, op.trans (congrArg _ (accepts.trans drops)), ?_⟩
        dsimp only
        rw [State.st_set_same, Vector.set_set, State.st_set_same]
        refine ⟨rfl, ?_⟩
        exact s.st[p].dropping_counted _ (by decide)
      · exact absurd invalid stream
  · obtain ⟨folds, pl, kept, op⟩ := State.streamFrame_taken taken
    have op := op _ rfl
    have here : ({ s with st := s.st.set p s.st[p].taken, folds := folds, pl := pl } : State).st[p] = s.st[p].taken :=
      s.st_set_same p _
    refine ⟨fun first ok process => ?_, fun gev ok leader unrecorded other => ?_, fun gev ok trailer unrecorded other => ?_⟩
    · rw [State.handled_imesk (.inl first) ok] at op
      replace op := op.trans (State.imeskFrame_process process (early := decide (s.rel < s.reserveAt)) rfl)
      rw [State.onSt_set, here] at op
      dsimp only at op
      rw [Vector.set_set] at op
      refine ⟨_, exec_next op, rfl, fun unrecorded => ?_, ?_⟩
      · obtain ⟨rfl, rfl⟩ := kept unrecorded
        dsimp only
        rw [State.st_set_same]
      · dsimp only
        rw [State.st_set_same]
        unfold StPort.processed
        by_cases early : s.rel < s.reserveAt
        · rw [if_pos early, decide_eq_true early]
          rfl
        · rw [if_neg early, decide_eq_false early]
          rfl
    · obtain ⟨rfl, rfl⟩ := kept unrecorded
      rw [State.handled_gev gev other ok] at op
      refine ⟨fun width lines pixel flags => ?_, fun differ => ?_⟩
      · rw [State.gevFrame_leader leader ⟨width, lines, pixel, flags⟩, State.onSt_set, here] at op
        dsimp only at op
        rw [Vector.set_set] at op
        exact exec_next op
      · have unlike : ¬leaderMatches r e.payload := fun ⟨width, lines, pixel, flags⟩ =>
          differ.elim (fun h => h width) fun differ => differ.elim (fun h => h lines) fun differ =>
            differ.elim (fun h => h pixel) fun h => h flags
        rw [State.gevFrame_otherLeader leader unlike, State.onSt_set, here] at op
        dsimp only at op
        rw [Vector.set_set] at op
        obtain ⟨log, ctrs, drops⟩ :=
          State.discardSt_frame { s with st := s.st.set p { s.st[p].taken with block := none } } p 13
        refine ⟨_, exec_next (op.trans drops), ?_⟩
        dsimp only
        rw [State.st_set_same, Vector.set_set, State.st_set_same]
        exact ⟨rfl, ({ s.st[p] with block := none } : StPort).dropping_counted _ (by decide)⟩
    · obtain ⟨rfl, rfl⟩ := kept unrecorded
      rw [State.handled_gev gev other ok, State.gevFrame_trailer trailer] at op
      exact exec_next op

end Sys2Proof.Machine


/-! Lines of a stream port on their way to the buffer core, and a landing beat (O50). -/

namespace Sys2Proof.Machine

/-! ## A byte range of a line -/

/-- A core that gets beats of a line, 48 cycles from now. -/
def Core.getsLine (c : Core) (p : StreamPort) (now : Nat) (beats : List (Nat × List Byte)) : Core := { c with
  portBeats := c.portBeats ++ beats.map fun y => { port := p, due := now + 48, off := y.1, bytes := y.2 } }

/-- The beats of a byte range of a row of the buffer of a tick. -/
def StreamRec.lineBeats (r : StreamRec) (ns k row off : Nat) (bs : List Byte) : List (Nat × List Byte) :=
  (r.parts ns row off bs).flatMap fun y => beatParts (r.buffer ns k + y.1) y.2

section
variable {u : State} {p : StreamPort} {r : StreamRec} {line stamp off k : Nat} {bs : List Byte} {q : CoreNo}
  (window : u.st[p].window = some k) (buffer : u.bufferCore r = some q) (period : 0 < u.periodNs)
include window buffer period

theorem State.landLine_eq : u.landLine p r 0 line stamp off bs =
    if (stamp + r.offset) / u.periodNs < k then u.discardSt p 7
    else if k < (stamp + r.offset) / u.periodNs then u.discardSt p 8
    else
      let b := u.st[p].base.getD (r.baseFor u.periodNs line stamp ((stamp + r.offset) / u.periodNs))
      let row : Int := line - b.1
      if row < 0 ∨ (r.rowMax u.periodNs : Int) ≤ row then u.discardSt p 12
      else
        let here := (row.toNat, off, bs.length)
        let s := (u.onCore q fun c => c.getsLine p u.now
          (r.lineBeats u.periodNs ((stamp + r.offset) / u.periodNs) row.toNat off bs)).onSt p fun x =>
            { x with base := some b, landed := here :: x.landed }
        if (u.st[p].landed.any fun l => byteRangesMeet l here) then (s.countSt p 10 1).inputFault p 4 else s := by
  unfold State.landLine
  dsimp only
  rw [window, buffer]
  dsimp only
  rw [if_neg (Nat.ne_of_gt period), Nat.add_zero]
  rfl

/-- A line of another tick, or outside the rows of the buffer, is discarded. -/
theorem State.landLine_drops {j : Fin 14} (why : ((stamp + r.offset) / u.periodNs < k ∧ j = 7) ∨
    (k < (stamp + r.offset) / u.periodNs ∧ j = 8) ∨ ((stamp + r.offset) / u.periodNs = k ∧ j = 12 ∧
      ∀ b : Int × Nat × Nat, b = u.st[p].base.getD (r.baseFor u.periodNs line stamp k) →
        (line : Int) < b.1 ∨ b.1 + (r.rowMax u.periodNs : Int) ≤ (line : Int))) :
    u.landLine p r 0 line stamp off bs = u.discardSt p j := by
  rw [State.landLine_eq window buffer period]
  obtain ⟨late, rfl⟩ | ⟨early, rfl⟩ | ⟨own, rfl, outside⟩ := why
  · exact if_pos late
  · exact (if_neg (by omega)).trans (if_pos early)
  · rw [own, if_neg (Nat.lt_irrefl k), if_neg (Nat.lt_irrefl k)]
    have outside := outside _ rfl
    exact if_pos (by omega)

/-- A line of the window's tick within the rows of the buffer: its beats are on their way. -/
theorem State.landLine_lands {b : Int × Nat × Nat} {row : Nat} (own : (stamp + r.offset) / u.periodNs = k)
    (base : b = u.st[p].base.getD (r.baseFor u.periodNs line stamp k)) (place : (line : Int) = b.1 + row)
    (within : row < r.rowMax u.periodNs) : ∃ x log ctrs,
      u.landLine p r 0 line stamp off bs = { u with
        cores := u.cores.set q (u.cores[q].getsLine p u.now (r.lineBeats u.periodNs k row off bs))
        st := u.st.set p x, log := log, ctrs := ctrs } ∧
      x = { u.st[p] with base := some b, landed := (row, off, bs.length) :: u.st[p].landed, ctrs := x.ctrs } ∧
      x.ctrs[0] = u.st[p].ctrs[0] := by
  rw [State.landLine_eq window buffer period, own, if_neg (Nat.lt_irrefl k), if_neg (Nat.lt_irrefl k), ← base]
  dsimp only
  rw [show (line : Int) - b.1 = row by omega, if_neg (by omega), Int.toNat_natCast]
  split
  · rw [State.countSt, State.onSt_onSt]
    obtain ⟨log, ctrs, told⟩ := State.inputFault_frame ((u.onCore q fun c => c.getsLine p u.now
      (r.lineBeats u.periodNs k row off bs)).onSt p fun x => StPort.counted
        { x with base := some b, landed := (row, off, bs.length) :: x.landed } 10) p 4
    exact ⟨_, log, ctrs, told, rfl, StPort.counted_other (j := 0) (k := 10) _ (by decide)⟩
  · exact ⟨_, u.log, u.ctrs, rfl, rfl, rfl⟩

end

/-- Whatever becomes of a line, cores get beats and nothing else, and what the port has accepted stays. -/
structure lineKept (p : StreamPort) (s t : State) : Prop where
  cores : ∀ l : CoreNo, t.cores[l] = { s.cores[l] with portBeats := t.cores[l].portBeats }
  accepted : t.st[p].accepted = s.st[p].accepted
  block : t.st[p].block = s.st[p].block

theorem lineKept.trans {p : StreamPort} {s t u : State} (h : lineKept p s t) (k : lineKept p t u) : lineKept p s u := by
  obtain ⟨cores, accepted, block⟩ := h
  obtain ⟨cores', accepted', block'⟩ := k
  refine ⟨fun l => ?_, accepted'.trans accepted, block'.trans block⟩
  have here := cores' l
  rw [cores l] at here
  exact here

theorem lineKept_port (s : State) (p : StreamPort) (x : StPort) (accepted : x.accepted = s.st[p].accepted)
    (block : x.block = s.st[p].block) (log : TallyLog) (ctrs : Vector Ctr 12) :
    lineKept p s { s with st := s.st.set p x, log := log, ctrs := ctrs } :=
  ⟨fun _ => rfl, (congrArg StPort.accepted (s.st_set_same p x)).trans accepted,
    (congrArg StPort.block (s.st_set_same p x)).trans block⟩

theorem lineKept_discardSt (s : State) (p : StreamPort) (j : Fin 14) : lineKept p s (s.discardSt p j) := by
  obtain ⟨log, ctrs, drops⟩ := s.discardSt_frame p j
  rw [drops]
  exact lineKept_port s p (s.st[p].dropping j) rfl rfl log ctrs

theorem lineKept_getsLine (s : State) (p : StreamPort) (q : CoreNo) (beats : List (Nat × List Byte)) :
    lineKept p s (s.onCore q fun c => c.getsLine p s.now beats) := by
  refine ⟨fun l => ?_, rfl, rfl⟩
  obtain ⟨only, core⟩ := s.onCore_frame q fun c => c.getsLine p s.now beats
  by_cases here : l = q
  · subst here
    rw [core]
    rfl
  · rw [only.1 l here]

theorem lineKept_placed (s : State) (p : StreamPort) (q : CoreNo) (beats : List (Nat × List Byte)) (b : Int × Nat × Nat)
    (here : Nat × Nat × Nat) : lineKept p s ((s.onCore q fun c => c.getsLine p s.now beats).onSt p fun x =>
      { x with base := some b, landed := here :: x.landed }) :=
  (lineKept_getsLine s p q beats).trans (lineKept_port (s.onCore q fun c => c.getsLine p s.now beats) p { s.st[p] with base := some b, landed := here :: s.st[p].landed }
    rfl rfl s.log s.ctrs)

theorem lineKept_again (s : State) (p : StreamPort) (q : CoreNo) (beats : List (Nat × List Byte)) (b : Int × Nat × Nat)
    (here : Nat × Nat × Nat) : lineKept p s ((((s.onCore q fun c => c.getsLine p s.now beats).onSt p fun x =>
      { x with base := some b, landed := here :: x.landed }).countSt p 10 1).inputFault p 4) := by
  refine (lineKept_placed s p q beats b here).trans ?_
  generalize (s.onCore q fun c => c.getsLine p s.now beats).onSt p _ = u
  obtain ⟨log, ctrs, told⟩ := (u.countSt p 10 1).inputFault_frame p 4
  rw [told]
  exact lineKept_port u p (u.st[p].counted 10) rfl rfl log ctrs

theorem lineKept_landLine (s : State) (p : StreamPort) (r : StreamRec) (line stamp off : Nat) (bs : List Byte) :
    lineKept p s (s.landLine p r 0 line stamp off bs) := by
  unfold State.landLine
  dsimp only
  generalize (if s.periodNs = 0 then 0 else (stamp + r.offset) / s.periodNs) = own
  split
  next w q _ _ =>
    split
    · exact lineKept_discardSt ..
    · split
      · exact lineKept_discardSt ..
      · split
        · exact lineKept_discardSt ..
        · split
          · exact lineKept_again ..
          · exact lineKept_placed ..
  · exact lineKept_discardSt ..

/-! ## Frames that carry lines -/

section
variable {s : State} {p : StreamPort} {f : FoldNo} {r : StreamRec} {e : EthFrame} {k : Nat} {c : Instr} {line stamp off : Nat}
  {bs : List Byte}

/-- The frames that carry one byte range of a line. -/
def carriesLine (s : State) (p : StreamPort) (r : StreamRec) (e : EthFrame) (c : Instr) (line stamp off : Nat) (bs : List Byte) :
    Prop :=
  (c = .imeskLineFrame p e ∧ r.imesk = true ∧ imeskOk r true e.payload = true ∧ beAt e.payload 1 1 = 1 ∧
      line = beAt e.payload 12 8 ∧ stamp = beAt e.payload 20 8 ∧ off = beAt e.payload 28 4 ∧ bs = e.payload.drop 48) ∨
    (c = .gevPayload p e ∧ r.imesk = false ∧ gevOk e.payload = true ∧ beAt e.payload 4 1 % 16 = 3 ∧ beAt e.payload 0 1 ≠ 1 ∧
      ∃ (id : Word64) (i at_ : Nat), s.st[p].block = some (id, at_) ∧ id = BitVec.ofNat 64 (beAt e.payload 8 8) ∧
        1 ≤ beAt e.payload 16 4 ∧ r.lines? ((beAt e.payload 16 4 - 1) * r.payload) (e.payload.drop 20) = [(i, off, bs)] ∧
        line = id.toNat * r.lines + i ∧ stamp = at_ + i * r.period / 1000)

/-- A port that has accepted a frame and perhaps its sequence number. -/
def StPort.accepting (x y : StPort) : Prop := y = { x.taken with seq := y.seq, gaps := y.gaps }

theorem State.gevFrame_lines {u : State} {id : Word64} {at_ : Nat} (form : beAt e.payload 4 1 % 16 = 3)
    (block : u.st[p].block = some (id, at_)) (own : id = BitVec.ofNat 64 (beAt e.payload 8 8)) (some_ : 1 ≤ beAt e.payload 16 4) :
    u.gevFrame p r 0 e.payload = (r.lines? ((beAt e.payload 16 4 - 1) * r.payload) (e.payload.drop 20)).foldl (fun (s : State) l =>
      s.landLine p r 0 (id.toNat * r.lines + l.1) (at_ + l.1 * r.period / 1000) l.2.1 l.2.2) u := by
  unfold State.gevFrame
  dsimp only
  rw [if_neg (by omega), if_neg (by omega), block]
  dsimp only
  rw [if_pos ⟨own, some_⟩, ← own]

theorem State.gevFrame_leaderless {u : State} (form : beAt e.payload 4 1 % 16 = 3)
    (leaderless : ∀ b, u.st[p].block = some b → b.1 ≠ BitVec.ofNat 64 (beAt e.payload 8 8) ∨ beAt e.payload 16 4 = 0) :
    u.gevFrame p r 0 e.payload = u.discardSt p 11 := by
  unfold State.gevFrame
  dsimp only
  rw [if_neg (by omega), if_neg (by omega)]
  cases block : u.st[p].block with
  | none => rfl
  | some b =>
    refine if_neg fun both => ?_
    obtain ⟨own, some_⟩ := both
    exact (leaderless b block).elim (fun h => h own) fun h => by omega

/-- A frame that carries a line is accepted, and the line is placed. -/
theorem State.line_taken (taken : frameTaken s p f r e k) (carries : carriesLine s p r e c line stamp off bs) :
    ∃ folds pl x, (r.record = false → folds = s.folds ∧ pl = s.pl) ∧ s.st[p].accepting x ∧
      exec c s = .next (State.landLine { s with st := s.st.set p x, folds := folds, pl := pl } p r 0 line stamp off bs) := by
  obtain ⟨folds, pl, kept, op⟩ := State.streamFrame_taken taken
  have op := op _ rfl
  have here : ({ s with st := s.st.set p s.st[p].taken, folds := folds, pl := pl } : State).st[p] = s.st[p].taken :=
    s.st_set_same p _
  obtain ⟨rfl, imesk, ok, kind, rfl, rfl, rfl, rfl⟩ | ⟨rfl, gev, ok, form, other, id, i, at_, block, own, some_, lines, rfl, rfl⟩ :=
    carries
  · rw [State.handled_imesk (.inr imesk) (by rw [imesk]; exact ok), State.imeskFrame_line (by omega), State.onSt_set, here] at op
    dsimp only at op
    rw [Vector.set_set] at op
    exact ⟨folds, pl, s.st[p].taken.sequenced e.payload, kept, rfl, exec_next op⟩
  · rw [State.handled_gev gev other ok,
      State.gevFrame_lines form ((congrArg StPort.block here).trans block) own some_, lines] at op
    exact ⟨folds, pl, s.st[p].taken, kept, rfl, exec_next op⟩

end

/-- Settles O50: a line by the window that its timestamp and number meet; a landing beat by its core's endpoint. -/
theorem streamLinesLand : Obligations.StreamLinesLand := by
  unfold Obligations.StreamLinesLand
  refine ⟨fun s p f r e k q c line stamp off bs taken buffer period carries => ?_, fun s p f r e k taken gev ok form other => ?_,
    fun s q l i b member port due unique fresh => ?_⟩
  · obtain ⟨folds, pl, x, kept, accepting, op⟩ := State.line_taken taken carries
    obtain ⟨-, -, -, -, window, -, -⟩ := taken
    have here : ({ s with st := s.st.set p x, folds := folds, pl := pl } : State).st[p] = x := s.st_set_same p x
    have open_ : x.window = some k := by
      rw [accepting]
      exact window
    refine ⟨fun b row own base place within => ?_, fun j why => ?_⟩
    · obtain ⟨y, log, ctrs, lands, hy, hctr⟩ := State.landLine_lands (u := { s with st := s.st.set p x, folds := folds, pl := pl })
        (off := off) (bs := bs) (by rw [here]; exact open_) buffer period own
        (b := b) (row := row) (by rw [here, accepting]; exact base) place within
      rw [here] at hy hctr
      refine ⟨_, op.trans (congrArg _ lands), fun l other => ?_, ?_, ?_⟩
      · exact vmod_get_other s.cores q l (fun c => c.getsLine p s.now _) other
      · exact vmod_get_self s.cores q (fun c => c.getsLine p s.now _)
      · dsimp only
        rw [Vector.set_set, State.st_set_same]
        refine ⟨by rw [hy], by rw [hy, accepting]; rfl, by rw [hy, accepting]; rfl, by rw [hy, accepting]; rfl, ?_,
          fun x => s.st_set_other p y, fun unrecorded => ?_⟩
        · rw [hctr, accepting]
          exact s.st[p].counted_ctr 0
        · obtain ⟨rfl, rfl⟩ := kept unrecorded
          rfl
    · have drops := State.landLine_drops (u := { s with st := s.st.set p x, folds := folds, pl := pl }) (line := line)
        (off := off) (bs := bs) (by rw [here]; exact open_) buffer period (j := j) (by rw [here, accepting]; exact why)
      obtain ⟨log, ctrs, frame⟩ := State.discardSt_frame { s with st := s.st.set p x, folds := folds, pl := pl } p j
      rw [here] at frame
      have nonzero : j ≠ 0 := by
        obtain ⟨-, rfl⟩ | ⟨-, rfl⟩ | ⟨-, rfl, -⟩ := why <;> decide
      refine ⟨_, op.trans (congrArg _ (drops.trans frame)), rfl, ?_⟩
      dsimp only
      rw [Vector.set_set, State.st_set_same]
      refine ⟨by rw [accepting]; rfl, by rw [accepting]; rfl, by rw [accepting]; rfl, ?_, fun z => s.st_set_other p _,
        fun unrecorded => ?_⟩
      · refine (x.counted_ctr j).trans (congrArg (fun y : Ctr => y.add 1) ?_)
        rw [accepting]
        exact s.st[p].counted_other nonzero
      · obtain ⟨rfl, rfl⟩ := kept unrecorded
        rfl
  · obtain ⟨folds, pl, kept, op⟩ := State.streamFrame_taken taken
    have op := op _ rfl
    have here : ({ s with st := s.st.set p s.st[p].taken, folds := folds, pl := pl } : State).st[p] = s.st[p].taken :=
      s.st_set_same p _
    rw [State.handled_gev gev other ok] at op
    refine ⟨fun b block own some_ => ?_, fun leaderless => ?_⟩
    · obtain ⟨id, at_⟩ := b
      rw [State.gevFrame_lines form ((congrArg StPort.block here).trans block) own some_] at op
      have lines := foldl_keep (lineKept p { s with st := s.st.set p s.st[p].taken, folds := folds, pl := pl })
        (fun (u : State) (l : Nat × Nat × List Byte) =>
          u.landLine p r 0 (id.toNat * r.lines + l.1) (at_ + l.1 * r.period / 1000) l.2.1 l.2.2)
        (fun u l h => h.trans (lineKept_landLine ..)) (r.lines? ((beAt e.payload 16 4 - 1) * r.payload) (e.payload.drop 20)) _
        ⟨fun _ => rfl, rfl, rfl⟩
      obtain ⟨cores, accepted, kept⟩ := lines
      have accepted' := congrArg StPort.accepted here
      have block' := congrArg StPort.block here
      exact ⟨_, exec_next op, accepted.trans accepted', kept.trans block', cores⟩
    · have none : ∀ b, ({ s with st := s.st.set p s.st[p].taken, folds := folds, pl := pl } : State).st[p].block = some b →
          b.1 ≠ BitVec.ofNat 64 (beAt e.payload 8 8) ∨ beAt e.payload 16 4 = 0 := by
        rw [here]
        exact leaderless
      obtain ⟨log, ctrs, drops⟩ :=
        State.discardSt_frame { s with st := s.st.set p s.st[p].taken, folds := folds, pl := pl } p 11
      rw [here] at drops
      refine ⟨_, exec_next (op.trans ((State.gevFrame_leaderless form none).trans drops)), rfl, ?_⟩
      dsimp only
      rw [Vector.set_set, State.st_set_same]
      refine ⟨rfl, rfl, ?_⟩
      exact (StPort.counted_ctr _ 11).trans (congrArg (fun y : Ctr => y.add 1) (s.st[p].counted_other (by decide)))
  · have found : (s.cores[q].portBeats.find? fun b => decide (b.port = i) && decide (b.due ≤ s.now)) = some b := by
      have arrived : (decide (b.port = i) && decide (b.due ≤ s.now)) = true := by
        rw [decide_eq_true port, decide_eq_true due]
        rfl
      obtain ⟨x, found⟩ := Option.isSome_iff_exists.1
        (List.find?_isSome (p := fun b => decide (b.port = i) && decide (b.due ≤ s.now)).2 ⟨b, member, arrived⟩)
      have ports : (decide (x.port = i) && decide (x.due ≤ s.now)) = true :=
        List.find?_some (p := fun b : PortBeat => decide (b.port = i) && decide (b.due ≤ s.now)) found
      have ports := (Bool.and_eq_true_iff.1 ports).1
      rw [found]
      by_contra other
      exact unique x (List.mem_of_find?_eq_some found) (fun h => other (congrArg some h)) (of_decide_eq_true ports)
    obtain ⟨d, room, kept⟩ : ∃ d, s.cores[q].recvBeat s.now = (d, true) ∧ d.pasture = s.cores[q].pasture := by
      unfold Core.recvBeat
      rw [fresh]
      exact ⟨_, rfl, rfl⟩
    obtain ⟨only, quiet⟩ := State.onCore_events_frame { s with cores := s.cores.set q d } q
      (fun c => { c with portBeats := c.portBeats.erase b, pasture := c.pasture.land s.now b.off b.bytes })
      [(0x39, b2n (!true))] (s.st[i].cfg.map fun c => c.1)
    have only := onlyCore_trans (onlyCore_set s q d) only
    have pasture := congrArg Core.pasture quiet
    unfold State.portBeat
    rw [found]
    dsimp only
    rw [room]
    refine ⟨pasture.trans ?_, rfl, only.1⟩
    rw [← kept]
    exact congrArg (fun c : Core => c.pasture.land s.now b.off b.bytes) (vmod_get_self s.cores q fun _ => d)

end Sys2Proof.Machine


/-! Loads, confirmations and the boundary of a shared core (O55). -/

namespace Sys2Proof.Machine

/-! ## Loading changes cores alone -/

/-- Nothing but cores differs. -/
structure State.coresAlone (s t : State) : Prop where
  frame : t = { s with cores := t.cores }

theorem State.coresAlone.trans {s t u : State} (h : s.coresAlone t) (k : t.coresAlone u) : s.coresAlone u :=
  ⟨by rw [k.frame, h.frame]⟩

theorem State.coresAlone_onCore (s : State) (p : CoreNo) (f : Core → Core) : s.coresAlone (s.onCore p f) := ⟨rfl⟩

section
variable (s : State) (i : FoldImage) (c : Slot)

theorem State.loadStatics_cores : s.coresAlone (s.loadStatics i c) :=
  foldl_keep (fun t => s.coresAlone t) _ (fun t b h => by
    split
    · exact h.trans (t.coresAlone_onCore ..)
    · exact h) _ s ⟨rfl⟩

theorem State.poisonDynamic_cores : s.coresAlone (s.poisonDynamic i) :=
  foldl_keep (fun t => s.coresAlone t) _ (fun t b h => by
    split
    · exact h.trans (t.coresAlone_onCore ..)
    · exact h) _ s ⟨rfl⟩

theorem State.formParity_cores : s.coresAlone s.formParity :=
  foldl_keep (fun t => s.coresAlone t) _ (fun t b h => by
    split
    · exact h
    · exact h.trans (t.coresAlone_onCore ..)) _ s ⟨rfl⟩

/-- What a load leaves on the cores. -/
def State.loaded : State := ((s.loadStatics i c).poisonDynamic i).formParity

theorem State.loaded_cores : s.coresAlone (s.loaded i c) :=
  ((s.loadStatics_cores i c).trans (State.poisonDynamic_cores ..)).trans (State.formParity_cores _)

end

theorem State.loaded_tick (s : State) (i : FoldImage) (c : Slot) : (s.loaded i c).tick = s.tick := by
  rw [(s.loaded_cores i c).frame]

/-- A fold once its load is complete. -/
def Fold.loadedWith (x : Fold) (i : FoldImage) (sound : Bool) (tick : Nat) : Fold :=
  let x := { x with image := some i, loaded := true, blocksOk := sound }
  if i.multi then { x with run := .waiting, release := i.release, startTick := startAfter tick } else { x with run := .waiting }

theorem Fold.loadedWith_fields (x : Fold) (i : FoldImage) (sound : Bool) (tick : Nat) :
    (x.loadedWith i sound tick).run = .waiting ∧ (x.loadedWith i sound tick).image = some i ∧
      (x.loadedWith i sound tick).loaded = true ∧ (x.loadedWith i sound tick).blocksOk = sound := by
  unfold Fold.loadedWith
  cases i.multi <;> exact ⟨rfl, rfl, rfl, rfl⟩

section
variable (s : State) (f : FoldNo)

theorem State.onFold_onFold (g h : Fold → Fold) : (s.onFold f g).onFold f h = s.onFold f fun x => h (g x) := by
  unfold State.onFold vmod
  simp [Vector.set_set]

/-- An earlier fold still loads. -/
def State.loadsBefore : Bool := (List.finRange 32).any fun g => decide (g < f) && decide (s.folds[g].run = .loading)

theorem State.loadsBefore_iff : s.loadsBefore f = true ↔ ∃ g, g < f ∧ s.folds[g].run = .loading := by
  unfold State.loadsBefore
  rw [List.any_eq_true]
  exact ⟨fun ⟨g, _, h⟩ => ⟨g, of_decide_eq_true (Bool.and_eq_true_iff.1 h).1, of_decide_eq_true (Bool.and_eq_true_iff.1 h).2⟩,
    fun ⟨g, lt, loads⟩ => ⟨g, List.mem_finRange g, by rw [decide_eq_true lt, decide_eq_true loads]; rfl⟩⟩

theorem State.reachWaiting_onFold (i : FoldImage) (sound : Bool) :
    (s.onFold f fun x => { x with image := some i, loaded := true, blocksOk := sound }).reachWaiting f i =
      s.onFold f fun x => x.loadedWith i sound s.tick.number.toNat :=
  s.onFold_onFold f _ _

variable {s f}

theorem State.loadComplete_waits {g : FoldNo} (lt : g < f) (loads : s.folds[g].run = .loading) : s.loadComplete f = s :=
  if_pos ((s.loadsBefore_iff f).2 ⟨g, lt, loads⟩)

theorem State.loadComplete_idle (other : s.folds[f].run ≠ .loading)
    (nothing : (s.entry f).state ≠ .activating ∨ (s.entry f).preload = false ∨ s.folds[f].preloaded = true) :
    s.loadComplete f = s := by
  by_cases before : s.loadsBefore f = true
  · exact if_pos before
  · refine (if_neg before).trans ((if_neg other).trans (if_neg fun all => ?_))
    obtain ⟨activating, preload, fresh⟩ := all
    obtain h | h | h := nothing
    · exact h activating
    · exact Bool.false_ne_true (h.symm.trans preload)
    · rw [h] at fresh
      exact absurd fresh (by decide)

variable (first : ∀ g, g < f → s.folds[g].run ≠ .loading)
include first

theorem State.loadComplete_loads {c : Slot} (loads : s.folds[f].run = .loading)
    (slot : s.container (foldEntry f) s.folds[f].slot = some c) : s.loadComplete f =
      (s.loaded c.image c).onFold f fun x => x.loadedWith c.image c.sound s.tick.number.toNat := by
  have alone : ¬s.loadsBefore f = true := fun h =>
    let ⟨g, lt, loads⟩ := (s.loadsBefore_iff f).1 h
    first g lt loads
  have tick := State.loaded_tick s c.image c
  have step : s.loadComplete f =
      ((s.loaded c.image c).onFold f fun x => { x with image := some c.image, loaded := true, blocksOk := c.sound }).reachWaiting f c.image := by
    refine (if_neg alone).trans ((if_pos loads).trans ?_)
    rw [slot]
    rfl
  rw [step]
  rw [← tick]
  exact State.reachWaiting_onFold _ f c.image c.sound

theorem State.loadComplete_preloads {c : Slot} (other : s.folds[f].run ≠ .loading) (activating : (s.entry f).state = .activating)
    (preload : (s.entry f).preload = true) (fresh : s.folds[f].preloaded = false)
    (slot : s.container (foldEntry f) (s.entry f).otherSlot = some c) : s.loadComplete f =
      (s.loaded c.image c).onFold f fun x => { x with preloaded := true } := by
  have alone : ¬s.loadsBefore f = true := fun h =>
    let ⟨g, lt, loads⟩ := (s.loadsBefore_iff f).1 h
    first g lt loads
  refine (if_neg alone).trans ((if_neg other).trans ((if_pos ⟨activating, preload, by rw [fresh]; rfl⟩).trans ?_))
  rw [slot]
  rfl

end

/-! ## Confirmation -/

theorem TackEntry.confirmed_fields (e : TackEntry) : e.confirmed.state = .idle ∧ e.confirmed.active = some e.otherSlot ∧
    e.confirmed.meas = e.other ∧ e.confirmed.other = e.meas ∧ e.confirmed.version = e.otherVersion := ⟨rfl, rfl, rfl, rfl, rfl⟩

theorem State.entry_commitEntry_other (s : State) {f g : FoldNo} (h : g ≠ f) (e : TackEntry → TackEntry) :
    (s.commitEntry (foldEntry f) e).entry g = s.entry g := by
  unfold State.commitEntry State.entry
  rw [State.tack_commit]
  exact vmod_get_other s.tack.entries (foldEntry f) (foldEntry g) e fun same => h (by simpa [foldEntry, Fin.ext_iff] using same)

/-! ## The boundary of a shared core -/

section
variable (s : State) (l : CoreNo)

/-- The fold whose share of a core ends at its boundary. -/
def State.firstShare : Option FoldNo := (s.holders l).find? fun f => s.sharesOn f l && !s.secondOn f l

/-- The fold whose share of a core begins at its boundary. -/
def State.secondShare : Option FoldNo := (s.holders l).find? fun f => s.secondOn f l

/-- The boundary of some share of the core is still to come. -/
def State.boundaryAhead : Bool := (s.holders l).any fun f => s.sharesOn f l && (match s.folds[f].allot with
  | some a => decide (s.rel < a.boundary)
  | none => false)

theorem State.boundaryAhead_iff : s.boundaryAhead l = true ↔
    ∃ f a, f ∈ s.holders l ∧ s.sharesOn f l = true ∧ s.folds[f].allot = some a ∧ s.rel < a.boundary := by
  unfold State.boundaryAhead
  rw [List.any_eq_true]
  constructor
  · rintro ⟨f, holds, both⟩
    obtain ⟨shares, ahead⟩ := Bool.and_eq_true_iff.1 both
    cases allot : s.folds[f].allot with
    | none =>
      rw [allot] at ahead
      exact absurd ahead Bool.false_ne_true
    | some a =>
      rw [allot] at ahead
      exact ⟨f, a, holds, shares, allot, of_decide_eq_true ahead⟩
  · rintro ⟨f, a, holds, shares, allot, ahead⟩
    refine ⟨f, holds, Bool.and_eq_true_iff.2 ⟨shares, ?_⟩⟩
    rw [allot]
    exact decide_eq_true ahead

/-- An unfinished first share is found at the boundary as an overrun. -/
def State.overran (p : CoreNo) : State := match s.firstShare l with
  | some f =>
    if s.cores[p].anyRunning && decide (s.folds[f].run = RunState.running) then
      s.onFold f fun x => { x with recov := { x.recov with overrun := true, hang := some 0x0502 } }
    else s
  | none => s

/-- What issues on a core stops at the boundary, and its feeder is emptied. -/
def Core.halted (c : Core) : Core := { c.stopStreams with feeder := [] }

/-- What is left of the first share on the core is cancelled. -/
def State.cancelFirst (p : CoreNo) (first : Option FoldNo) : State := match first with
  | some f => s.cancelOn f p
  | none => s

/-- The second share starts at this cycle, if its fold runs. -/
def State.startSecond (second : Option FoldNo) : State := match second with
  | some f => if s.folds[f].run = .running then s.startOn f l s.now else s
  | none => s

variable {s l}

/-- Where a core stands whose boundary is due. -/
def State.boundaryCore (s : State) (l : CoreNo) : Option CoreNo := if s.boundaryAhead l then none else s.phys l

/-- What the boundary does on a core that stands somewhere. -/
def State.shareAt (s : State) (l : CoreNo) : Option CoreNo → State
  | none => s
  | some p => (((s.overran l p).onCore p Core.halted).cancelFirst p (s.firstShare l)).startSecond l (s.secondShare l)

theorem State.shareBoundaryOp_at : s.shareBoundaryOp l = s.shareAt l (s.boundaryCore l) := by
  unfold State.shareBoundaryOp
  rfl

theorem State.shareBoundaryOp_none (none : s.phys l = none ∨ s.boundaryAhead l = true) : s.shareBoundaryOp l = s := by
  have off : s.boundaryCore l = Option.none := by
    unfold State.boundaryCore
    obtain h | h := none
    · rw [h, ite_self]
    · rw [h]
      rfl
  rw [State.shareBoundaryOp_at, off]
  rfl

theorem State.shareBoundaryOp_eq {p : CoreNo} (at_ : s.phys l = some p) (due : s.boundaryAhead l = false) :
    s.shareBoundaryOp l = (((s.overran l p).onCore p Core.halted).cancelFirst p (s.firstShare l)).startSecond l (s.secondShare l) := by
  have on : s.boundaryCore l = some p := by
    unfold State.boundaryCore
    rw [due, at_]
    rfl
  rw [State.shareBoundaryOp_at, on]
  rfl

variable (s l)

/-- Nothing but the folds differs. -/
theorem State.overran_frame (p : CoreNo) : s.overran l p = { s with folds := (s.overran l p).folds } := by
  unfold State.overran
  cases s.firstShare l with
  | none => rfl
  | some f => dsimp only; split <;> rfl

theorem State.overran_cores (p : CoreNo) : (s.overran l p).cores = s.cores := by
  rw [s.overran_frame l p]

theorem State.overran_folds (p : CoreNo) :
    (∀ f, s.firstShare l = some f →
      (s.cores[p].anyRunning = true → s.folds[f].run = .running → (s.overran l p).folds = s.folds.set f { s.folds[f] with
        recov := { s.folds[f].recov with overrun := true, hang := some 0x0502 } }) ∧
      (s.cores[p].anyRunning = false ∨ s.folds[f].run ≠ .running → (s.overran l p).folds = s.folds)) ∧
    (s.firstShare l = none → (s.overran l p).folds = s.folds) := by
  unfold State.overran
  refine ⟨fun f first => ⟨fun busy runs => ?_, fun idle => ?_⟩, fun none => ?_⟩
  · rw [first]
    dsimp only
    rw [if_pos (Bool.and_eq_true_iff.2 ⟨busy, decide_eq_true runs⟩)]
    rfl
  · rw [first]
    dsimp only
    rw [if_neg fun both => ?_]
    obtain ⟨busy, runs⟩ := Bool.and_eq_true_iff.1 both
    obtain h | h := idle
    · exact Bool.false_ne_true (h.symm.trans busy)
    · exact h (of_decide_eq_true runs)
  · rw [none]

/-- An overrun leaves what a fold runs as it is. -/
theorem State.overran_fold (p : CoreNo) (g : FoldNo) : (s.overran l p).folds[g] = { s.folds[g] with recov := (s.overran l p).folds[g].recov } := by
  unfold State.overran
  cases s.firstShare l with
  | none => rfl
  | some f =>
    dsimp only
    split
    · by_cases same : g = f
      · subst same
        unfold State.onFold
        simp only [Fin.getElem_fin, vmod_get_self]
      · unfold State.onFold
        rw [vmod_get_other _ _ _ _ same]
    · rfl

/-- Streams, waiting rings and a feeder to be emptied may differ, and the counters of the core. -/
def Core.streamsAside (c e : Core) : Prop :=
  e.quiet = { c.quiet with drovers := e.drovers, ringsToReset := e.ringsToReset, emptyFeeder := e.emptyFeeder }

theorem Core.streamsAside_refl (c : Core) : c.streamsAside c := rfl

theorem Core.streamsAside.fields {c e : Core} (h : c.streamsAside e) : e.feeder = c.feeder ∧ e.pasture = c.pasture ∧ e.acc = c.acc ∧
    e.matrix = c.matrix ∧ e.cstream = c.cstream ∧ e.dstream = c.dstream := by
  unfold Core.streamsAside at h
  have feeder := congrArg Core.feeder h
  have pasture := congrArg Core.pasture h
  have acc := congrArg Core.acc h
  have matrix := congrArg Core.matrix h
  have currier := congrArg Core.cstream h
  have drover := congrArg Core.dstream h
  exact ⟨feeder, pasture, acc, matrix, currier, drover⟩

theorem Core.streamsAside.place {c e : Core} (h : c.streamsAside e) : e.mode = c.mode ∧ e.logical = c.logical ∧
    e.absent = c.absent ∧ e.isolated = c.isolated := by
  unfold Core.streamsAside at h
  have mode := congrArg Core.mode h
  have logical := congrArg Core.logical h
  have absent := congrArg Core.absent h
  have isolated := congrArg Core.isolated h
  exact ⟨mode, logical, absent, isolated⟩

/-- A cancellation leaves an idle stream as it is. -/
theorem Core.cancel_idle (c : Core) (pick : DStream → Bool) {d : DroverNo} {i : DStreamNo} (idle : (c.ds d i).status = .idle) :
    (c.cancel pick).1.ds d i = c.ds d i := by
  rw [Core.cancel_eq]
  refine foldl_keep (fun a : Core × Nat => a.1.ds d i = c.ds d i) _ (fun a x kept => ?_) _ _ rfl
  unfold cancelOne
  split
  · rw [Core.cancelStream_ds, if_neg]
    · exact kept
    · rintro ⟨rfl, rfl, busy⟩
      rw [kept] at busy
      exact busy idle
  · exact kept

/-- The streams of one fold cancelled, and the feeder to be emptied. -/
def Core.cancelledFor (c : Core) (f : FoldNo) : Core × List (Nat × Nat) :=
  ({ (c.cancel fun x => decide (x.fold = f)).1 with emptyFeeder := true }, (c.cancel fun x => decide (x.fold = f)).2)

theorem Core.cancelledFor_aside (c : Core) (f : FoldNo) {e : Core} (same : e.quiet = (c.cancelledFor f).1.quiet) : c.streamsAside e := by
  have streams := c.cancel_streamsOnly fun x => decide (x.fold = f)
  unfold Core.streamsAside Core.cancelledFor at *
  generalize c.cancel (fun x => decide (x.fold = f)) = r at streams same
  have drovers := congrArg Core.drovers same
  have rings := congrArg Core.ringsToReset same
  have feeder := congrArg Core.emptyFeeder same
  change e.drovers = _ at drovers
  change e.ringsToReset = _ at rings
  change e.emptyFeeder = _ at feeder
  rw [drovers, rings, feeder]
  exact same.trans (streams.quiet true)

theorem Core.cancelledFor_idle (c : Core) {f : FoldNo} {d : DroverNo} {i : DStreamNo} (ours : (c.ds d i).fold = f) :
    ((c.cancelledFor f).1.ds d i).status = .idle := by
  have same : (c.cancelledFor f).1.ds d i = (c.cancel fun x => decide (x.fold = f)).1.ds d i := by
    unfold Core.cancelledFor
    generalize c.cancel (fun x => decide (x.fold = f)) = r
    rfl
  rw [same]
  by_cases idle : (c.ds d i).status = .idle
  · rw [c.cancel_idle _ idle]
    exact idle
  · rw [(c.cancel_picked _ (decide_eq_true ours) idle).1]
    rfl

variable {s l}

theorem State.cancelFirst_none (p : CoreNo) : s.cancelFirst p none = s := rfl

theorem State.cancelFirst_some (p : CoreNo) (f : FoldNo) : s.cancelFirst p (some f) = s.onCoreE p (fun c => c.cancelledFor f) f := rfl

theorem State.cancelFirst_frame (p : CoreNo) (first : Option FoldNo) : onlyCore s (s.cancelFirst p first) p ∧
    s.cores[p].streamsAside (s.cancelFirst p first).cores[p] ∧
    ∀ f, first = some f → ∀ d i, (s.ds p d i).fold = f → ((s.cancelFirst p first).ds p d i).status = .idle := by
  cases first with
  | none =>
    rw [State.cancelFirst_none]
    exact ⟨⟨fun _ _ => rfl, rfl⟩, s.cores[p].streamsAside_refl, fun _ h => nomatch h⟩
  | some f =>
    obtain ⟨only, quiet⟩ := s.onCoreE_frame p (fun c => c.cancelledFor f) f
    rw [State.cancelFirst_some]
    generalize s.onCoreE p (fun c => c.cancelledFor f) f = u at only quiet
    refine ⟨only, Core.cancelledFor_aside _ f quiet, fun g same d i ours => ?_⟩
    cases same
    exact (congrArg DStream.status (congrFun (congrFun (Core.ds_congr quiet) d) i)).trans (Core.cancelledFor_idle _ ours)

theorem State.startSecond_frame (g : Option FoldNo) : s.startSecond l g = { s with cores := (s.startSecond l g).cores } := by
  unfold State.startSecond State.startOn
  cases g with
  | none => rfl
  | some g =>
    dsimp only
    split
    · split
      · split <;> rfl
      · rfl
    · rfl

theorem State.startSecond_none : s.startSecond l none = s := rfl

theorem State.startSecond_other {p q : CoreNo} (at_ : s.phys l = some p) (h : q ≠ p) (g : Option FoldNo) :
    (s.startSecond l g).cores[q] = s.cores[q] := by
  unfold State.startSecond State.startOn
  rw [at_]
  cases g with
  | none => rfl
  | some g =>
    dsimp only
    split
    · cases s.penCore g l with
      | none => rfl
      | some e =>
        dsimp only
        split
        · rfl
        · exact vmod_get_other s.cores p q _ h
    · rfl

/-- The second share begins its three streams, or leaves the core as it is. -/
theorem State.startSecond_core {p : CoreNo} (at_ : s.phys l = some p) (g : Option FoldNo) :
    (s.startSecond l g).cores[p] = s.cores[p] ∨ ∃ e, (s.startSecond l g).cores[p] = s.cores[p].beginStreams e s.now := by
  unfold State.startSecond State.startOn
  rw [at_]
  cases g with
  | none => exact .inl rfl
  | some g =>
    dsimp only
    split
    · cases s.penCore g l with
      | none => exact .inl rfl
      | some e =>
        dsimp only
        split
        · exact .inl rfl
        · exact .inr ⟨e, (s.onCore_frame p _).2⟩
    · exact .inl rfl

/-- Starting the second share leaves the feeder, the memories and the transfers of its core. -/
theorem State.startSecond_kept {p : CoreNo} (at_ : s.phys l = some p) (g : Option FoldNo) :
    (s.startSecond l g).cores[p].feeder = s.cores[p].feeder ∧ (s.startSecond l g).cores[p].pasture = s.cores[p].pasture ∧
      (s.startSecond l g).cores[p].acc = s.cores[p].acc ∧ ∀ d i, (s.startSecond l g).ds p d i = s.ds p d i := by
  unfold State.ds
  obtain same | ⟨e, begun⟩ := State.startSecond_core at_ g
  · rw [same]
    exact ⟨rfl, rfl, rfl, fun _ _ => rfl⟩
  · rw [begun]
    exact ⟨rfl, rfl, rfl, fun _ _ => rfl⟩

theorem State.startSecond_begins {p : CoreNo} (at_ : s.phys l = some p) {g : FoldNo} {e : PenCore} (runs : s.folds[g].run = .running)
    (pen : s.penCore g l = some e) (present : s.absent l = false) :
    (s.startSecond l (some g)).cores[p] = s.cores[p].beginStreams e s.now := by
  unfold State.startSecond State.startOn
  dsimp only
  rw [if_pos runs, at_, pen]
  dsimp only
  rw [present]
  exact (s.onCore_frame p _).2

end

section
variable {s : State} {l p : CoreNo}

/-- A core as the boundary leaves it before the second share starts: halted, with the first share cancelled. -/
def State.firstEnded (s : State) (l p : CoreNo) : State := ((s.overran l p).onCore p Core.halted).cancelFirst p (s.firstShare l)

theorem Core.halted_stopped (c : Core) : c.halted.anyRunning = false := rfl

theorem State.firstEnded_frame : (∀ q : CoreNo, q ≠ p → (s.firstEnded l p).cores[q] = s.cores[q]) ∧
    (s.firstEnded l p).folds = (s.overran l p).folds ∧
    s.firstEnded l p = { s with
      cores := (s.firstEnded l p).cores, folds := (s.firstEnded l p).folds, log := (s.firstEnded l p).log,
      ctrs := (s.firstEnded l p).ctrs } := by
  have overran := s.overran_frame l p
  obtain ⟨halted, -⟩ := (s.overran l p).onCore_frame p Core.halted
  obtain ⟨cancelled, -, -⟩ := State.cancelFirst_frame (s := (s.overran l p).onCore p Core.halted) p (s.firstShare l)
  have only : onlyCore (s.overran l p) (s.firstEnded l p) p := onlyCore_trans halted cancelled
  have cores : (s.overran l p).cores = s.cores := s.overran_cores l p
  refine ⟨fun q h => (only.1 q h).trans (by rw [cores]), only.folds, ?_⟩
  rw [only.2, overran]

theorem State.firstEnded_core : s.cores[p].halted.streamsAside (s.firstEnded l p).cores[p] ∧
    ∀ f, s.firstShare l = some f → ∀ d i, (s.ds p d i).fold = f → ((s.firstEnded l p).ds p d i).status = .idle := by
  have cores : (s.overran l p).cores = s.cores := s.overran_cores l p
  obtain ⟨-, halted⟩ := (s.overran l p).onCore_frame p Core.halted
  obtain ⟨-, aside, idle⟩ := State.cancelFirst_frame (s := (s.overran l p).onCore p Core.halted) p (s.firstShare l)
  have core : ((s.overran l p).onCore p Core.halted).cores[p] = s.cores[p].halted := by rw [halted, cores]
  rw [core] at aside
  refine ⟨aside, fun f first d i ours => idle f first d i ?_⟩
  show (((s.overran l p).onCore p Core.halted).cores[p].ds d i).fold = f
  rw [core]
  exact ours

theorem State.firstEnded_phys (k : CoreNo) : (s.firstEnded l p).phys k = s.phys k := by
  obtain ⟨others, -, -⟩ := State.firstEnded_frame (s := s) (l := l) (p := p)
  obtain ⟨mode, logical, -, -⟩ := (State.firstEnded_core (s := s) (l := l) (p := p)).1.place
  refine State.phys_congr (fun q => ?_) k
  by_cases h : q = p
  · subst h
    exact ⟨mode, logical⟩
  · rw [others q h]
    exact ⟨rfl, rfl⟩

theorem State.firstEnded_absent (at_ : s.phys l = some p) : (s.firstEnded l p).absent l = s.absent l := by
  obtain ⟨-, -, absent, isolated⟩ := (State.firstEnded_core (s := s) (l := l) (p := p)).1.place
  unfold State.absent
  rw [State.firstEnded_phys, at_]
  dsimp only
  rw [absent, isolated]
  rfl

theorem State.firstEnded_pens (g : FoldNo) : (s.firstEnded l p).folds[g].run = s.folds[g].run ∧
    (s.firstEnded l p).penCore g l = s.penCore g l := by
  have folds := (State.firstEnded_frame (s := s) (l := l) (p := p)).2.1
  have fold := s.overran_fold l p g
  unfold State.penCore
  rw [folds, fold]
  exact ⟨rfl, rfl⟩

end

/-- Settles O55: a load changes its cores and the entry of its fold, a confirmation exchanges the two slots of its entry, and the
boundary of a shared core stops its streams, cancels the first share and starts the second. -/
theorem foldsLoadConfirmAndShare : Obligations.FoldsLoadConfirmAndShare := by
  unfold Obligations.FoldsLoadConfirmAndShare
  refine ⟨fun s f => ⟨fun g lt loads => exec_next (t := s.loadComplete f) (State.loadComplete_waits lt loads),
    fun other nothing => exec_next (t := s.loadComplete f) (State.loadComplete_idle other nothing),
    fun c i loads first slot image => ?_, fun c other first activating preload fresh slot => ?_, fun confirming due => ?_,
    fun early => exec_next (t := s.confirmFold f) (if_neg fun both => ?_)⟩,
    fun s l => ⟨fun none => exec_next (t := s.shareBoundaryOp l)
      (State.shareBoundaryOp_none (none.imp_right (s.boundaryAhead_iff l).2)), fun p at_ due => ?_⟩⟩
  · subst image
    have frame := (s.loaded_cores c.image c).frame
    refine ⟨_, exec_next (t := s.loadComplete f) (State.loadComplete_loads first loads slot), ?_⟩
    generalize hu : s.loaded c.image c = u at frame
    have cores : u.cores = (((s.loadStatics c.image c).poisonDynamic c.image).formParity).cores := by rw [← hu]; rfl
    have folds : u.folds = s.folds := by rw [frame]
    have fold : (u.onFold f fun x => x.loadedWith c.image c.sound s.tick.number.toNat).folds[f] =
        u.folds[f].loadedWith c.image c.sound s.tick.number.toNat := vmod_get_self ..
    obtain ⟨run, image, loaded, sound⟩ := u.folds[f].loadedWith_fields c.image c.sound s.tick.number.toNat
    rw [fold]
    refine ⟨run, image, loaded, sound, fun g h => ?_, cores, ?_⟩
    · exact (vmod_get_other u.folds f g _ h).trans (by rw [folds])
    · unfold State.onFold
      rw [frame]
  · have frame := (s.loaded_cores c.image c).frame
    refine ⟨_, exec_next (t := s.loadComplete f) (State.loadComplete_preloads first other activating preload fresh slot), ?_⟩
    generalize hu : s.loaded c.image c = u at frame
    have cores : (((s.loadStatics c.image c).poisonDynamic c.image).formParity).cores = u.cores := by rw [← hu]; rfl
    rw [cores]
    unfold State.onFold
    rw [frame]
    rfl
  · refine ⟨_, exec_next (t := s.confirmFold f) (if_pos ⟨confirming, due⟩), ?_⟩
    have entry : (s.commitEntry (foldEntry f) TackEntry.confirmed).entry f = (s.entry f).confirmed :=
      s.entryAt_commitEntry (foldEntry f) TackEntry.confirmed
    obtain ⟨idle, active, meas, other, version⟩ := (s.entry f).confirmed_fields
    rw [entry]
    exact ⟨idle, active, meas, other, version, List.length_append, fun g h => s.entry_commitEntry_other h _, rfl⟩
  · obtain ⟨confirming, due⟩ := both
    exact early.elim (fun h => h confirming) fun h => absurd due (by omega)
  · have ahead : s.boundaryAhead l = false := Bool.eq_false_iff.2 fun h =>
      let ⟨f, a, holds, shares, allot, before⟩ := (s.boundaryAhead_iff l).1 h
      absurd (due f a holds shares allot) (by omega)
    refine ⟨_, exec_next (t := s.shareBoundaryOp l) (State.shareBoundaryOp_eq at_ ahead), ?_⟩
    have start : (s.firstEnded l p).phys l = some p := (State.firstEnded_phys l).trans at_
    obtain ⟨others, folds, frame⟩ := State.firstEnded_frame (s := s) (l := l) (p := p)
    obtain ⟨aside, ended⟩ := State.firstEnded_core (s := s) (l := l) (p := p)
    obtain ⟨overruns, alone⟩ := s.overran_folds l p
    have now : (s.firstEnded l p).now = s.now := by rw [frame]
    have result : (((s.overran l p).onCore p Core.halted).cancelFirst p (s.firstShare l)).startSecond l (s.secondShare l) =
        (s.firstEnded l p).startSecond l (s.secondShare l) := rfl
    rw [result]
    have second := (s.firstEnded l p).startSecond_frame (l := l) (s.secondShare l)
    have folds' : ((s.firstEnded l p).startSecond l (s.secondShare l)).folds = (s.overran l p).folds := by
      rw [second]
      exact folds
    obtain ⟨feeder, pasture, acc, matrix, currier, drover⟩ := aside.fields
    obtain ⟨feeder', pasture', acc', streams⟩ := State.startSecond_kept start (s.secondShare l)
    refine ⟨fun q h => (State.startSecond_other start h _).trans (others q h), feeder'.trans feeder, pasture'.trans pasture,
      acc'.trans acc, fun f first => ?_, fun none => folds'.trans (alone none), fun none => ?_, fun g e second runs pen present => ?_, ?_⟩
    · obtain ⟨busy, idle⟩ := overruns f first
      exact ⟨fun d i ours => (congrArg DStream.status (streams d i)).trans (ended f first d i ours),
        fun running runs => folds'.trans (busy running runs), fun quiet => folds'.trans (idle quiet)⟩
    · rw [show s.secondShare l = Option.none from none]
      unfold Core.anyRunning
      rw [State.startSecond_none, matrix, currier, drover]
      rfl
    · obtain ⟨run, pens⟩ := State.firstEnded_pens (s := s) (l := l) (p := p) g
      have begins := State.startSecond_begins start (run.trans runs) (pens.trans pen) ((State.firstEnded_absent at_).trans present)
      rw [show s.secondShare l = some g from second, begins, now]
      unfold Core.beginStreams
      dsimp only
      rw [matrix, currier, drover]
      exact ⟨rfl, rfl, rfl⟩
    · rw [second, frame]

end Sys2Proof.Machine


/-! Dumps, walks and supervisors of a hurdled fold (O40). -/

namespace Sys2Proof.Machine

/-! ## Dumps -/

section
variable {s : State} {f : FoldNo}

/-- A fold whose dump is kept for writing. -/
def Fold.captured (x : Fold) : Fold := { x with recov := { x.recov with captured := true, dump := [] } }

/-- The dump of a fold among the captures, its streams cancelled. -/
def State.withCapture (s : State) (f : FoldNo) (dump : List Byte) : State :=
  { s.onFold f Fold.captured with captures := s.captures ++ [(f, leAt dump 8 4, dump)] }

/-- What a capture does, `u` being the state with the streams of the fold cancelled. -/
def State.captureInto (s u : State) (f : FoldNo) : State :=
  let r := s.folds[f].recov
  match r.hurdle with
  | some h =>
    if h + 4000 ≤ s.now ∧ !r.captured then
      let s := u.onFold f fun x => { x with recov := { x.recov with captured := true, dump := [] } }
      { s with captures := s.captures ++ [(f, leAt r.dump 8 4, r.dump)] }
    else s
  | none => s

theorem State.captureDump_eq : s.captureDump f = s.captureInto (s.cancelFold f) f := by
  delta State.captureDump State.captureInto
  exact rfl

variable {u : State}

theorem State.captureInto_running (none : s.folds[f].recov.hurdle = none) : s.captureInto u f = s := by
  unfold State.captureInto
  dsimp only
  rw [none]

theorem State.captureInto_waits {h : Nat} (hurdle : s.folds[f].recov.hurdle = some h)
    (wait : s.now < h + 4000 ∨ s.folds[f].recov.captured = true) : s.captureInto u f = s := by
  unfold State.captureInto
  dsimp only
  rw [hurdle]
  refine if_neg fun both => ?_
  obtain ⟨due, open_⟩ := both
  obtain early | captured := wait
  · omega
  · rw [captured] at open_
    exact absurd open_ (by decide)

theorem State.captureInto_due {h : Nat} (hurdle : s.folds[f].recov.hurdle = some h) (due : h + 4000 ≤ s.now)
    (open_ : s.folds[f].recov.captured = false) : s.captureInto u f = u.withCapture f s.folds[f].recov.dump := by
  unfold State.captureInto
  dsimp only
  rw [hurdle]
  exact if_pos ⟨due, by rw [open_]; rfl⟩

theorem Core.memories_of_quiet {c e : Core} (h : c.quiet = e.quiet) : c.pasture = e.pasture ∧ c.acc = e.acc := by
  have pasture := congrArg Core.pasture h
  have acc := congrArg Core.acc h
  exact ⟨pasture, acc⟩

theorem Core.cancelled_aside (c : Core) (held : Bool) : c.streamsAside (c.cancelled f held).1 := by
  have quiet := c.cancelled_quiet f held
  unfold Core.streamsAside
  exact quiet

/-- A cancellation leaves the memories of every core. -/
theorem State.cancelFold_memories (p : CoreNo) : (s.cancelFold f).cores[p].pasture = s.cores[p].pasture ∧
    (s.cancelFold f).cores[p].acc = s.cores[p].acc := by
  have core := s.cancelFold_core f p
  have aside := s.cores[p].cancelled_aside (f := f) (s.heldBy f p)
  generalize (s.cores[p].cancelled f (s.heldBy f p)).1 = e at core aside
  obtain ⟨pasture, acc⟩ := Core.memories_of_quiet core
  obtain ⟨-, pasture', acc', -⟩ := aside.fields
  exact ⟨pasture.trans pasture', acc.trans acc'⟩

/-- A cancellation leaves every stream of its fold idle. -/
theorem State.cancelFold_idle {p : CoreNo} {d : DroverNo} {k : DStreamNo} (ours : (s.ds p d k).fold = f) :
    ((s.cancelFold f).ds p d k).status = .idle := by
  have drovers := (s.cancelFold_fields f p).1
  have streams : (s.cancelFold f).ds p d k = (s.cores[p].cancel fun x => decide (x.fold = f)).1.ds d k := by
    unfold State.ds Core.ds
    rw [drovers]
  rw [streams]
  by_cases idle : (s.cores[p].ds d k).status = .idle
  · rw [Core.cancel_idle _ _ idle]
    exact idle
  · rw [(Core.cancel_picked _ _ (decide_eq_true ours) idle).1]
    rfl

/-- With the streams of its fold cancelled a capture leaves only itself, the fold's record and what tells of it. -/
theorem State.withCapture_result (frame : coresOnly s u)
    (idle : ∀ (p : CoreNo) (d : DroverNo) (k : DStreamNo), (s.ds p d k).fold = f → (u.ds p d k).status = .idle)
    (memories : ∀ p : CoreNo, u.cores[p].pasture = s.cores[p].pasture ∧ u.cores[p].acc = s.cores[p].acc) (dump : List Byte) :
    (∀ (p : CoreNo) (d : DroverNo) (k : DStreamNo), (s.ds p d k).fold = f → ((u.withCapture f dump).ds p d k).status = .idle) ∧
      (∀ p : CoreNo, (u.withCapture f dump).cores[p].pasture = s.cores[p].pasture ∧ (u.withCapture f dump).cores[p].acc = s.cores[p].acc) ∧
      u.withCapture f dump = { s with
        cores := (u.withCapture f dump).cores, log := (u.withCapture f dump).log, ctrs := (u.withCapture f dump).ctrs
        folds := s.folds.set f { s.folds[f] with recov := { s.folds[f].recov with captured := true, dump := [] } }
        captures := s.captures ++ [(f, leAt dump 8 4, dump)] } := by
  refine ⟨idle, memories, ?_⟩
  unfold coresOnly at frame
  rw [frame]
  rfl

/-- Writing a capture to its slot, told in the log. -/
def State.dumpStored (s : State) (f : FoldNo) (n : Nat) (bs : List Byte) (old : Option (Nat × Nat × List Byte)) : State :=
  let t : State := match old with
    | some d => s.log1 0x0507 (some f) none none (leBytes d.2.1 4)
    | none => s
  ({ t with store := { t.store with
    dumps := (n % dumpSlots, n, t.sealDump f bs) :: t.store.dumps.filter fun d => decide (d.1 ≠ n % dumpSlots) } }).log1
    0x0506 (some f) none none (leBytes n 4)

theorem State.dumpStored_frame (n : Nat) (bs : List Byte) (old : Option (Nat × Nat × List Byte)) :
    s.dumpStored f n bs old = { s with
      log := (s.dumpStored f n bs old).log, ctrs := (s.dumpStored f n bs old).ctrs
      store := { s.store with
        dumps := (n % 8128, n, s.sealDump f bs) :: s.store.dumps.filter fun d => decide (d.1 ≠ n % 8128) } } := by
  cases old <;> rfl

end

/-! ## Walks -/

section
variable (s : State) (f : FoldNo) (l p : CoreNo) (rs : List Region)

/-- A word of the core's memory rewritten whole. -/
def Core.fixed (c : Core) (w : Nat) (bs : List Byte) : Core := { c with pasture := c.pasture.fix w bs }

/-- A word of a walk rebuilt, and told. -/
def State.fixWord (s : State) (f : FoldNo) (l p : CoreNo) (w : Nat) (bs : List Byte) : State :=
  (s.onCore p fun c => c.fixed w bs).log1 0x0401 (some f) (some l) (some p) (leBytes (32 * w) 4)

/-- One uncorrectable word of a walk: rebuilt from parity and logged, or found beyond repair. -/
def walkWord (f : FoldNo) (l p : CoreNo) (q : Nat) (a : State × Bool) (w : Nat) : State × Bool :=
  match a.1.rebuiltWord q (32 * w) with
  | some bs =>
    (a.1.fixWord f l p w bs, a.2)
  | none => (a.1.log1 0x0402 (some f) (some l) (some p) (leBytes (32 * w) 4), true)

/-- The dynamic words of some regions poisoned. -/
def Core.walked (c : Core) (rs : List Region) : Core :=
  { c with pasture := (rs.filter fun g => g.dynamic).foldl (fun m g =>
      m.poisonZero (g.start / 32) ((g.start + g.len) / 32)) c.pasture }

/-- A walk of the regions of a fold on one core. -/
def State.walkCore : State :=
  let q := s.cores[p].member
  let t := ((s.cores[p].pasture.flips.map fun x => x.1).filter (staticIn rs)).foldl (fun (s : State) w => s.scrubWord p w) s
  let r := (t.cores[p].pasture.broken.filter (staticIn rs)).foldl (walkWord f l p q) (t, false)
  (r.1.onCore p fun c => c.walked rs).onFold f fun x =>
    { x with recov := { x.recov with unrepairable := x.recov.unrepairable || r.2 } }

/-- A fold whose walk of a core is over. -/
def Fold.walkedOn (x : Fold) (l : CoreNo) : Fold := { x with recov := { x.recov with walking := x.recov.walking.filter fun q => decide (q ≠ l) } }

/-- A walk that left a word beyond repair fences the fold when it was the last one. -/
def State.walkFences : State :=
  if s.folds[f].recov.unrepairable && s.folds[f].recov.walking.isEmpty && decide ((s.entry f).state ≠ .reverting) then s.fence f else s

variable {s f l p rs}

theorem State.walkEnd_early {i : FoldImage} {h : Nat} (image : s.folds[f].image = some i) (hurdle : s.folds[f].recov.hurdle = some h)
    (early : s.now < h + 4000 + i.unitsOn l + s.folds[f].recov.paused) : s.walkEnd f l = s := by
  unfold State.walkEnd
  dsimp only
  rw [image, hurdle]
  exact if_pos (.inr (.inr early))

/-- A walk on the core where a logical core stands, if it stands somewhere. -/
def State.walkOn (s : State) (f : FoldNo) (l : CoreNo) (rs : List Region) : Option CoreNo → State
  | none => s
  | some p => s.walkCore f l p rs

theorem State.walkEnd_due {i : FoldImage} {h : Nat} (image : s.folds[f].image = some i) (hurdle : s.folds[f].recov.hurdle = some h)
    (run : s.folds[f].run = .hurdled) (walks : s.folds[f].recov.walking.contains l = true) (at_ : s.phys l = some p)
    (due : h + 4000 + i.unitsOn l + s.folds[f].recov.paused ≤ s.now) : s.walkEnd f l =
      ((s.onFold f fun x => x.walkedOn l).walkCore f l p (i.regions.filter fun r => decide (r.core = l))).walkFences f := by
  unfold State.walkEnd
  dsimp only
  rw [image, hurdle]
  refine (if_neg fun wait => ?_).trans ?_
  · obtain other | done | early := wait
    · exact other run
    · rw [walks] at done
      exact absurd done (by decide)
    · omega
  · have walk : (s.onFold f fun x => x.walkedOn l).walkOn f l (i.regions.filter fun r => decide (r.core = l)) (s.phys l) =
        (s.onFold f fun x => x.walkedOn l).walkCore f l p (i.regions.filter fun r => decide (r.core = l)) := by
      rw [at_]
      rfl
    rw [← walk]
    rfl

/-- An offset lies in a static region that an image gives a core. -/
def staticInImage (l : CoreNo) (off : Nat) : Option FoldImage → Bool
  | some i => (match i.regionAt l off with
    | some r => !r.dynamic
    | none => false)
  | none => false

/-- Where data is static depends on the images of the folds alone. -/
theorem State.staticAt_onFold {g : Fold → Fold} (image : ∀ x, (g x).image = x.image) : (s.onFold f g).staticAt = s.staticAt := by
  have images : (s.onFold f g).folds.map (fun x => x.image) = s.folds.map fun x => x.image := by
    refine Vector.ext fun k hk => ?_
    rw [Vector.getElem_map, Vector.getElem_map]
    unfold State.onFold
    by_cases same : (⟨k, hk⟩ : FoldNo) = f
    · subst same
      exact (congrArg Fold.image (vmod_get_self s.folds ⟨k, hk⟩ g)).trans (image _)
    · exact congrArg Fold.image (vmod_get_other s.folds f ⟨k, hk⟩ g same)
  have each : ∀ (v : Vector Fold 32) l off, v.any (fun x => staticInImage l off x.image) =
      (v.map fun x => x.image).any (staticInImage l off) := fun v l off => by
    rw [Vector.any_map]
    rfl
  funext l off
  show (s.onFold f g).folds.any (fun x => staticInImage l off x.image) = s.folds.any fun x => staticInImage l off x.image
  rw [each, each, images]

theorem State.rebuiltWord_onFold {g : Fold → Fold} (image : ∀ x, (g x).image = x.image) (q off : Nat) :
    (s.onFold f g).rebuiltWord q off = s.rebuiltWord q off := by
  have static := State.staticAt_onFold (s := s) (f := f) image
  unfold State.rebuiltWord State.unreadable State.contribution State.staticWord
  rw [static]
  rfl

theorem State.fixWord_walked (w : Nat) (bs : List Byte) : ((s.fixWord f l p w bs).onCore p fun c => c.walked rs) = { s with
    log := (s.fixWord f l p w bs).log, ctrs := (s.fixWord f l p w bs).ctrs
    cores := s.cores.set p ((s.cores[p].fixed w bs).walked rs) } := by
  have cores : ((s.fixWord f l p w bs).onCore p fun c => c.walked rs).cores = s.cores.set p ((s.cores[p].fixed w bs).walked rs) := by
    unfold State.fixWord State.log1 State.onCore vmod
    simp
  rw [← cores]
  rfl

theorem walkWord_rebuilt {q w : Nat} {bs : List Byte} (b : Bool) (rebuilt : s.rebuiltWord q (32 * w) = some bs) :
    walkWord f l p q (s, b) w = (s.fixWord f l p w bs, b) := by
  unfold walkWord
  rw [rebuilt]

theorem walkWord_lost {q w : Nat} (b : Bool) (lost : s.rebuiltWord q (32 * w) = none) :
    walkWord f l p q (s, b) w = (s.log1 0x0402 (some f) (some l) (some p) (leBytes (32 * w) 4), true) := by
  unfold walkWord
  rw [lost]

/-- The state after a walk, `u` being the state after its broken words and `lost` telling whether one could not be rebuilt. -/
def State.walkedTo (u : State) (f : FoldNo) (p : CoreNo) (rs : List Region) (lost : Bool) : State :=
  (u.onCore p fun c => c.walked rs).onFold f fun x =>
    { x with recov := { x.recov with unrepairable := x.recov.unrepairable || lost } }

/-- A walk of a core none of whose words has flipped bits. -/
def State.walkBroken (s : State) (f : FoldNo) (l p : CoreNo) (rs : List Region) : State :=
  let r := (s.cores[p].pasture.broken.filter (staticIn rs)).foldl (walkWord f l p s.cores[p].member) (s, false)
  r.1.walkedTo f p rs r.2

theorem State.walkBroken_none (whole : s.cores[p].pasture.broken = []) : s.walkBroken f l p rs = s.walkedTo f p rs false := by
  unfold State.walkBroken
  rw [whole]
  rfl

theorem State.walkBroken_word {w : Nat} (broken : s.cores[p].pasture.broken = [w]) (static : staticIn rs w = true) :
    s.walkBroken f l p rs =
      (walkWord f l p s.cores[p].member (s, false) w).1.walkedTo f p rs (walkWord f l p s.cores[p].member (s, false) w).2 := by
  unfold State.walkBroken
  rw [broken, List.filter_cons_of_pos static]
  rfl

theorem State.walkCore_clean (flips : s.cores[p].pasture.flips = []) (whole : s.cores[p].pasture.broken = []) :
    s.walkCore f l p rs = s.walkedTo f p rs false := by
  unfold State.walkCore
  rw [flips]
  exact State.walkBroken_none whole

theorem State.walkCore_word {w : Nat} (flips : s.cores[p].pasture.flips = []) (broken : s.cores[p].pasture.broken = [w])
    (static : staticIn rs w = true) : s.walkCore f l p rs =
      (walkWord f l p s.cores[p].member (s, false) w).1.walkedTo f p rs (walkWord f l p s.cores[p].member (s, false) w).2 := by
  unfold State.walkCore
  rw [flips]
  exact State.walkBroken_word broken static

theorem State.walkFences_none (fine : s.folds[f].recov.unrepairable = false) : s.walkFences f = s := by
  unfold State.walkFences
  rw [fine]
  rfl

theorem State.walkFences_last (lost : s.folds[f].recov.unrepairable = true) (last : s.folds[f].recov.walking = [])
    (stays : (s.entry f).state ≠ .reverting) : s.walkFences f = s.fence f := by
  unfold State.walkFences
  rw [lost, last, decide_eq_true stays]
  rfl

theorem State.walkedTo_false : s.walkedTo f p rs false = s.onCore p fun c => c.walked rs := by
  unfold State.walkedTo State.onFold vmod
  simp only [Bool.or_false]
  rw [show ∀ v : Vector Fold 32, v.set f v[f] = v from fun v => Vector.set_getElem_self _]

theorem State.walkedTo_fold (lost : Bool) : (s.walkedTo f p rs lost).folds[f] = { s.folds[f] with
    recov := { s.folds[f].recov with unrepairable := s.folds[f].recov.unrepairable || lost } } := by
  unfold State.walkedTo State.onFold
  exact vmod_get_self ..

end

/-! ## Supervisors -/

theorem State.supRestart_other {s : State} {u : Sup} (h : (s.sup u).state ≠ .restarting) : s.supRestart u = s := if_neg h

theorem State.fence_fold {s : State} {f : FoldNo} (last : s.folds[f].recov.walking = []) :
    (s.fence f).folds[f].run = .fenced ∧ (s.fence f).folds[f].recov.walking = [] := by
  have folds : (s.fence f).folds = s.folds.set f { s.folds[f] with run := .fenced } := by
    have frame := s.fence_frame f
    unfold State.toldOnly at frame
    rw [frame]
  rw [folds]
  simp only [Fin.getElem_fin, Vector.getElem_set_self]
  exact ⟨trivial, last⟩

/-- Settles O40: a dump is captured once its time has come, the oldest one is written, a walk repairs or poisons and fences when a
word is lost, and a supervisor restarts as standby. -/
theorem dumpsWalksAndSupervisors : Obligations.DumpsWalksAndSupervisors := by
  unfold Obligations.DumpsWalksAndSupervisors
  refine ⟨⟨fun s f none => exec_next (t := s.captureDump f) (State.captureDump_eq.trans (State.captureInto_running none)),
    fun s f h hurdle => ⟨fun wait => exec_next (t := s.captureDump f) (State.captureDump_eq.trans (State.captureInto_waits hurdle wait)),
      fun due open_ => ?_⟩, fun s none => exec_next (t := s.writeDump) ?_, fun s f n bs rest captures => ⟨fun up => ?_, fun down => ?_⟩⟩,
    fun s f l p i h rs image hurdle run walks at_ regions fine => ⟨fun early =>
      exec_next (t := s.walkEnd f l) (State.walkEnd_early image hurdle early), fun due x hx => ?_⟩,
    fun s u => ⟨fun other => exec_next (t := s.supRestart u) (State.supRestart_other other), fun restarting => ?_⟩⟩
  · refine ⟨_, exec_next (t := s.captureDump f) (State.captureDump_eq.trans (State.captureInto_due hurdle due open_)), ?_⟩
    exact State.withCapture_result (s.cancelFold_coresOnly f) (fun _ _ _ => State.cancelFold_idle) State.cancelFold_memories _
  · unfold State.writeDump
    rw [none]
  · have stored : s.writeDump = ({ s with captures := rest } : State).dumpStored f n bs (s.store.dumps.find? fun d => decide (d.1 = n % dumpSlots)) := by
      unfold State.writeDump
      rw [captures]
      exact if_pos up
    exact ⟨_, exec_next (t := s.writeDump) stored, State.dumpStored_frame ..⟩
  · have told : s.writeDump = ({ s with captures := rest } : State).log1 0x0506 (some f) none none (sliceD 0 bs 0 20) := by
      unfold State.writeDump
      rw [captures]
      exact if_neg (Bool.not_eq_true _ ▸ down)
    exact ⟨_, exec_next (t := s.writeDump) told, rfl, rfl⟩
  · subst regions hx
    have step := State.walkEnd_due image hurdle run walks at_ due
    generalize hrs : i.regions.filter (fun r => decide (r.core = l)) = rs at step
    generalize hv : (s.onFold f fun x => x.walkedOn l) = v at step
    have fold : v.folds[f] = s.folds[f].walkedOn l := by
      rw [← hv]
      exact vmod_get_self ..
    have cores : v.cores = s.cores := by rw [← hv]; rfl
    refine ⟨fun flips whole => ?_, fun w bs flips broken static rebuilt => ?_, fun w flips broken static lost stays last => ?_⟩
    · have walked : v.walkCore f l p rs = v.onCore p fun c => c.walked rs :=
        (State.walkCore_clean (by rw [cores]; exact flips) (by rw [cores]; exact whole)).trans State.walkedTo_false
      have fine' : (v.onCore p fun c => c.walked rs).folds[f].recov.unrepairable = false := (congrArg (fun x : Fold => x.recov.unrepairable) fold).trans fine
      rw [walked, State.walkFences_none fine'] at step
      refine exec_next (t := s.walkEnd f l) (step.trans ?_)
      rw [← hv]
      rfl
    · have rebuilt' : v.rebuiltWord v.cores[p].member (32 * w) = some bs := by
        rw [cores, ← hv, State.rebuiltWord_onFold (g := fun x => x.walkedOn l) fun _ => rfl]
        exact rebuilt
      have walked := State.walkCore_word (s := v) (f := f) (l := l) (p := p) (by rw [cores]; exact flips) (by rw [cores]; exact broken) static
      rw [walkWord_rebuilt false rebuilt', State.walkedTo_false] at walked
      dsimp only at walked
      have unfenced : ((v.fixWord f l p w bs).onCore p fun c => c.walked rs).folds[f].recov.unrepairable = false :=
        (congrArg (fun x : Fold => x.recov.unrepairable) fold).trans fine
      rw [walked, State.walkFences_none unfenced, State.fixWord_walked, ← hv] at step
      exact ⟨_, exec_next (t := s.walkEnd f l) step, rfl⟩
    · have lost' : v.rebuiltWord v.cores[p].member (32 * w) = none := by
        rw [cores, ← hv, State.rebuiltWord_onFold (g := fun x => x.walkedOn l) fun _ => rfl]
        exact lost
      have walked := State.walkCore_word (s := v) (f := f) (l := l) (p := p) (by rw [cores]; exact flips) (by rw [cores]; exact broken) static
      rw [walkWord_lost false lost'] at walked
      generalize hu : v.log1 0x0402 (some f) (some l) (some p) (leBytes (32 * w) 4) = u at walked
      have found : u.folds[f] = s.folds[f].walkedOn l := by
        rw [← hu]
        exact fold
      have entry : (u.walkedTo f p rs true).entry f = s.entry f := by
        rw [← hu, ← hv]
        rfl
      have record := State.walkedTo_fold (s := u) (f := f) (p := p) (rs := rs) true
      rw [found] at record
      have none : (s.folds[f].walkedOn l).recov.walking = [] := by
        unfold Fold.walkedOn
        rw [last]
        simp
      refine ⟨_, exec_next (t := s.walkEnd f l) step, ?_⟩
      have unrepairable : (u.walkedTo f p rs true).folds[f].recov.unrepairable = true := by
        rw [record]
        exact Bool.or_true _
      have walking : (u.walkedTo f p rs true).folds[f].recov.walking = [] := by
        rw [record]
        exact none
      rw [walked, State.walkFences_last unrepairable walking (by rw [entry]; exact stays)]
      exact State.fence_fold walking
  · refine ⟨_, exec_next (t := s.supRestart u) (if_pos restarting), ?_⟩
    cases u
    · exact ⟨rfl, fun _ => rfl, fun h => absurd h (by decide)⟩
    · exact ⟨rfl, fun h => absurd h (by decide), fun _ => rfl⟩

end Sys2Proof.Machine


/-! Lost cores, their isolation and the rebuild chain (O38). -/

namespace Sys2Proof.Machine

/-! ## Takeover marks -/

/-- A fold whose frames carry the takeover mark up to a tick. -/
def Fold.markedUntil (n : Nat) (x : Fold) : Fold := { x with takeoverUntil := some n }

/-- Marks put on some folds, each once or more often. -/
def markFolds (n : Nat) (l : List FoldNo) (v : Vector Fold 32) : Vector Fold 32 := l.foldl (fun v f => vmod v f (Fold.markedUntil n)) v


theorem markFolds_get (n : Nat) (f : FoldNo) : ∀ (l : List FoldNo) (v : Vector Fold 32),
    (markFolds n l v)[f] = if f ∈ l then v[f].markedUntil n else v[f] := by
  intro l
  induction l with
  | nil => exact fun v => rfl
  | cons k l ih =>
    intro v
    refine (ih (vmod v k (Fold.markedUntil n))).trans ?_
    rw [vmod_get]
    by_cases here : f = k <;> by_cases later : f ∈ l <;> simp [here, later, Fold.markedUntil]

/-- Marking folds one by one and telling of each. -/
theorem State.markFolds_told {step : State → FoldNo → State} {n : Nat}
    (told : ∀ (u : State) f, (u.onFold f (Fold.markedUntil n)).toldOnly (step u f)) :
    ∀ (l : List FoldNo) (s : State), State.toldOnly { s with folds := markFolds n l s.folds } (l.foldl step s) := by
  intro l
  induction l with
  | nil => exact fun s => State.toldOnly.refl s
  | cons f l ih =>
    intro s
    have first := told s f
    have rest := ih (step s f)
    rw [List.foldl_cons]
    refine State.toldOnly.trans ?_ rest
    unfold State.toldOnly at first ⊢
    rw [first]
    rfl

/-! ## A fault found -/

section
variable {s : State} {p : CoreNo}

/-- A core with a fault of a cause. -/
def Core.faulted (c : Core) (now : Nat) (cause : FatalCause) : Core := { c with fault := some now, cause := some cause }

theorem State.coreFault_off (c : FatalCause)
    (off : s.cores[p].fault.isSome = true ∨ s.cores[p].mode = .fusedOff ∨ s.cores[p].mode = .retired) : s.coreFault p c = s := if_pos off

/-- The notice of a fault for each fold, with the takeover mark where a takeover follows. -/
def State.faultStep (c : FatalCause) (follows : Bool) (l : CoreNo) (s : State) (f : FoldNo) : State :=
  (if follows then s.onFold f fun x => { x with takeoverUntil := some noEnd } else s).notice f 0x0101 (some l) 0 (leBytes (causeCode c) 1)

/-- Telling every fold of a logical core of its fault. -/
def State.faultTold (c : FatalCause) (follows : Bool) (s : State) : Option CoreNo → State
  | none => s
  | some l => (s.holders l).foldl (State.faultStep c follows l) s

/-- The fault of a core, kept and logged. -/
def State.faultKept (s : State) (p : CoreNo) (c : FatalCause) : State :=
  (s.onCore p fun x => x.faulted s.now c).log1 0x0101 none ((s.onCore p fun x => x.faulted s.now c).logicalOf p) (some p) (leBytes (causeCode c) 1)

theorem State.coreFault_eq (c : FatalCause) (fine : s.cores[p].fault = none) (on : s.cores[p].mode ≠ .fusedOff)
    (used : s.cores[p].mode ≠ .retired) : s.coreFault p c =
      State.faultTold c (s.willTake p) (s.faultKept p c) ((s.onCore p fun x => x.faulted s.now c).logicalOf p) := by
  refine (if_neg fun off => ?_).trans rfl
  obtain h | h | h := off
  · rw [fine] at h
    exact Bool.false_ne_true h
  · exact on h
  · exact used h

theorem State.faulted_logical (c : FatalCause) : (s.onCore p fun x => x.faulted s.now c).logicalOf p = s.logicalOf p := by
  have core := (s.onCore_frame p fun x => x.faulted s.now c).2
  unfold State.logicalOf
  rw [core]
  rfl

theorem State.toldOnly.withFolds {u v : State} (told : u.toldOnly v) (fs : Vector Fold 32) :
    State.toldOnly { u with folds := fs } { v with folds := fs } := by
  unfold State.toldOnly at told ⊢
  rw [told]

theorem State.toldOnly.folds {u v : State} (told : u.toldOnly v) : v.folds = u.folds := by
  unfold State.toldOnly at told
  rw [told]

theorem State.faultKept_told (c : FatalCause) :
    State.toldOnly { s with cores := s.cores.set p { s.cores[p] with fault := some s.now, cause := some c } } (s.faultKept p c) :=
  State.toldOnly_log1 ..

/-- What a fault found leaves, and the folds after it. -/
theorem State.coreFault_folds (c : FatalCause) (fine : s.cores[p].fault = none) (on : s.cores[p].mode ≠ .fusedOff)
    (used : s.cores[p].mode ≠ .retired) : ∃ fs,
    State.toldOnly { s with cores := s.cores.set p { s.cores[p] with fault := some s.now, cause := some c }, folds := fs } (s.coreFault p c) ∧
      (∀ l f, s.logicalOf p = some l → f ∈ s.holders l → s.willTake p = true → fs[f] = s.folds[f].markedUntil noEnd) ∧
      (s.willTake p = false ∨ s.logicalOf p = none → fs = s.folds) := by
  have kept := s.faultKept_told (p := p) c
  have eq := State.coreFault_eq c fine on used
  rw [State.faulted_logical] at eq
  generalize s.faultKept p c = v at kept eq
  have folds : v.folds = s.folds := kept.folds
  have holders : ∀ l, v.holders l = s.holders l := fun l => by
    unfold State.holders
    rw [folds]
  by_cases takes : s.willTake p = true ∧ ∃ l, s.logicalOf p = some l
  · obtain ⟨follows, l, logical⟩ := takes
    rw [follows, logical] at eq
    have told := State.markFolds_told (step := State.faultStep c true l) (fun u f => State.toldOnly_notice ..) (v.holders l) v
    refine ⟨markFolds noEnd (s.holders l) s.folds, ?_, fun l' f same holds _ => ?_, fun no => ?_⟩
    · have run : State.faultTold c true v (some l) = (s.holders l).foldl (State.faultStep c true l) v := by
        rw [← holders]
        rfl
      rw [eq, run]
      rw [folds, holders] at told
      exact (kept.withFolds _).trans told
    · rw [logical] at same
      cases same
      rw [markFolds_get, if_pos holds]
    · rw [follows, logical] at no
      exact absurd no (by simp)
  · refine ⟨s.folds, ?_, fun l f logical _ follows => absurd ⟨follows, l, logical⟩ takes, fun _ => rfl⟩
    rw [eq]
    cases logical : s.logicalOf p with
    | none => exact kept
    | some l =>
      have no : s.willTake p = false := Bool.eq_false_iff.2 fun follows => takes ⟨follows, l, logical⟩
      rw [no]
      exact kept.trans (foldl_keep (fun t => v.toldOnly t) (State.faultStep c false l) (fun t f told => told.trans (t.toldOnly_notice ..)) _ v
        (State.toldOnly.refl v))

end

/-! ## Isolation -/

section
variable {s : State} {p : CoreNo}

/-- A core isolated, with its drover work cancelled. -/
def Core.fenced (used : Bool) (c : Core) : Core × List (Nat × Nat) :=
  let r := c.cancel fun _ => true
  ({ r.1.stopStreams with
      passes := [], walks := [], clears := [], mode := .failed, isolated := true, absent := used, planned := false,
      supply := { r.1.supply with on := false, handover := none, copy := none, warming := false } }, r.2)

/-- The takeover marks end where the core isolated was the spare. -/
def State.marksEnded (s : State) (x : Core) : State := if x.mode = .spare ∨ x.mode = .rebuilding then s.endMarks else s

/-- The rebuild chain after a core is isolated. -/
def State.chainAfter (s : State) (p : CoreNo) (used : Bool) : State := match s.rebuild with
  | some r => if r.spare = p then { s with rebuild := none } else if used then { s with rebuild := some { r with poisoned := true } } else s
  | none => s

/-- The loss of a core that no spare takes over is told. -/
def State.lossTold (s : State) (p : CoreNo) (x : Core) : State :=
  if x.inUse && !s.spareFree then s.log1 0x0102 none (some x.logical) (some p) [] else s

theorem State.isolate_off (off : s.cores[p].fault = none ∨ s.cores[p].isolated = true) : s.isolate p = s :=
  if_pos (off.imp_left fun h => by rw [h]; rfl)

theorem State.isolate_eq (faulty : s.cores[p].fault.isSome = true) (open_ : s.cores[p].isolated = false) : s.isolate p =
    (((s.marksEnded s.cores[p]).onCoreE p (Core.fenced s.cores[p].inUse)).chainAfter p s.cores[p].inUse).lossTold p s.cores[p] := by
  have off : ¬(s.cores[p].fault.isNone = true ∨ s.cores[p].isolated = true) := fun off => by
    obtain h | h := off
    · rw [Option.isNone_iff_eq_none] at h
      rw [h] at faulty
      exact Bool.false_ne_true faulty
    · exact Bool.false_ne_true (open_.symm.trans h)
  unfold State.isolate
  refine (if_neg off).trans ?_
  extract_lets used s1 s2 s3
  have fenced : (s.marksEnded s.cores[p]).onCoreE p (Core.fenced s.cores[p].inUse) = s2 := rfl
  rw [fenced]
  clear_value s2
  rfl

theorem State.marksEnded_frame (x : Core) : s.marksEnded x = { s with folds := (s.marksEnded x).folds } := by
  unfold State.marksEnded
  split <;> rfl

theorem State.marksEnded_fold (x : Core) (f : FoldNo) : (s.marksEnded x).folds[f] =
    if (x.mode = .spare ∨ x.mode = .rebuilding) ∧ s.folds[f].takeoverUntil = some noEnd then
      { s.folds[f] with takeoverUntil := some (s.tick.number.toNat + 2) }
    else s.folds[f] := by
  unfold State.marksEnded
  by_cases spare : x.mode = .spare ∨ x.mode = .rebuilding
  · rw [if_pos spare]
    unfold State.endMarks
    simp [spare]
  · rw [if_neg spare, if_neg fun h => spare h.1]

theorem State.chainAfter_frame (used : Bool) : s.chainAfter p used = { s with rebuild := (s.chainAfter p used).rebuild } := by
  unfold State.chainAfter
  cases s.rebuild with
  | none => rfl
  | some r => dsimp only; split <;> [rfl; (split <;> rfl)]

/-- A rebuild chain after a core is isolated. -/
def chainOf (p : CoreNo) (used : Bool) : Option Rebuild → Option Rebuild
  | some r => if r.spare = p then none else some { r with poisoned := r.poisoned || used }
  | none => none

theorem State.chainAfter_rebuild (used : Bool) : (s.chainAfter p used).rebuild = chainOf p used s.rebuild := by
  unfold State.chainAfter
  cases chain : s.rebuild with
  | none => exact chain
  | some r =>
    unfold chainOf
    dsimp only
    split
    · rfl
    · cases used
      · rw [Bool.or_false]
        exact chain
      · rw [Bool.or_true]
        rfl

theorem State.lossTold_frame (x : Core) : s.lossTold p x = { s with log := (s.lossTold p x).log, ctrs := (s.lossTold p x).ctrs } := by
  unfold State.lossTold
  split <;> rfl

end

/-- A core once it is isolated: it has failed, runs nothing, holds no work and has no power; its memories stay. -/
structure Core.outOf (e c : Core) (used : Bool) : Prop where
  mode : e.mode = .failed
  isolated : e.isolated = true
  absent : e.absent = used
  matrix : e.matrix.running = false
  currier : e.cstream.running = false
  drover : e.dstream.running = false
  passes : e.passes = []
  walks : e.walks = []
  clears : e.clears = []
  idle : ∀ d i, (e.ds d i).status = .idle
  supply : e.supply.on = false
  pasture : e.pasture = c.pasture
  acc : e.acc = c.acc

theorem Core.cancel_all_idle (c : Core) (d : DroverNo) (i : DStreamNo) : ((c.cancel fun _ => true).1.ds d i).status = .idle := by
  by_cases idle : (c.ds d i).status = .idle
  · rw [c.cancel_idle _ idle]
    exact idle
  · rw [(c.cancel_picked (fun _ => true) rfl idle).1]
    rfl

/-- A core stopped after its drover work is cancelled. -/
def Core.stoppedAs (c : Core) (used : Bool) : Core := { c.stopStreams with
  passes := [], walks := [], clears := [], mode := .failed, isolated := true, absent := used, planned := false,
  supply := { c.supply with on := false, handover := none, copy := none, warming := false } }

theorem Core.fenced_core (c : Core) (used : Bool) : (c.fenced used).1 = (c.cancel fun _ => true).1.stoppedAs used := by
  unfold Core.fenced
  generalize c.cancel (fun _ => true) = r
  rfl

theorem Core.outOf_of_quiet {c e : Core} {used : Bool} (h : e.quiet = (c.fenced used).1.quiet) : e.outOf c used := by
  have only := c.cancel_streamsOnly fun _ => true
  have idle := c.cancel_all_idle
  rw [Core.fenced_core] at h
  generalize (c.cancel fun _ => true).1 = r at h only idle
  have mode := congrArg Core.mode h
  have isolated := congrArg Core.isolated h
  have absent := congrArg Core.absent h
  have matrix := congrArg (fun x : Core => x.matrix.running) h
  have currier := congrArg (fun x : Core => x.cstream.running) h
  have drover := congrArg (fun x : Core => x.dstream.running) h
  have passes := congrArg Core.passes h
  have walks := congrArg Core.walks h
  have clears := congrArg Core.clears h
  have supply := congrArg (fun x : Core => x.supply.on) h
  have pasture := congrArg Core.pasture h
  have acc := congrArg Core.acc h
  have streams := Core.ds_congr h
  unfold Core.streamsOnly at only
  have pasture' : r.pasture = c.pasture := by rw [only]
  have acc' : r.acc = c.acc := by rw [only]
  exact ⟨mode, isolated, absent, matrix, currier, drover, passes, walks, clears, fun d i => by rw [streams]; exact idle d i, supply,
    Eq.trans pasture pasture', Eq.trans acc acc'⟩

section
variable {s : State} {p : CoreNo}

/-- What an isolation leaves. -/
theorem State.isolate_frame (faulty : s.cores[p].fault.isSome = true) (open_ : s.cores[p].isolated = false) :
    onlyCore { s with rebuild := (s.isolate p).rebuild, folds := (s.isolate p).folds } (s.isolate p) p ∧
      (s.isolate p).cores[p].outOf s.cores[p] s.cores[p].inUse ∧ (s.isolate p).folds = (s.marksEnded s.cores[p]).folds ∧
      (s.isolate p).rebuild = chainOf p s.cores[p].inUse s.rebuild := by
  rw [State.isolate_eq faulty open_]
  generalize hused : s.cores[p].inUse = used
  have ended := s.marksEnded_frame s.cores[p]
  generalize hv : s.marksEnded s.cores[p] = v at ended
  have cores : v.cores = s.cores := by rw [ended]
  have rebuild : v.rebuild = s.rebuild := by rw [ended]
  obtain ⟨only, quiet⟩ := v.onCoreE_frame p (Core.fenced used) none
  rw [cores] at quiet
  have out := Core.outOf_of_quiet quiet
  generalize v.onCoreE p (Core.fenced used) = u at only out quiet
  have chain := u.chainAfter_frame (p := p) used
  have same : (u.chainAfter p used).rebuild = chainOf p used s.rebuild := by
    rw [State.chainAfter_rebuild, only.2]
    exact congrArg (chainOf p used) rebuild
  generalize u.chainAfter p used = w at chain same
  have told := w.lossTold_frame (p := p) s.cores[p]
  generalize w.lossTold p s.cores[p] = x at told
  have cores' : x.cores = u.cores := by rw [told, chain]
  have folds' : x.folds = v.folds := by rw [told, chain, only.2]
  have rebuild' : x.rebuild = w.rebuild := by rw [told]
  refine ⟨⟨fun q other => ?_, ?_⟩, by rw [cores']; exact out, folds', rebuild'.trans same⟩
  · rw [cores', only.1 q other, cores]
  · rw [rebuild', folds', cores', told, chain, only.2, ended]

end

/-! ## The rebuild chain -/

section
variable {s : State} {r : Rebuild} {off : Nat}

theorem State.rebuildUnit_none (none : s.rebuild = none) : s.rebuildUnit = s := by
  unfold State.rebuildUnit
  rw [none]

theorem State.rebuildUnit_over (chain : s.rebuild = some r) (done : nextUnit r.units r.done = none) : s.rebuildUnit = s := by
  unfold State.rebuildUnit
  rw [chain]
  dsimp only
  rw [done]

theorem State.rebuildUnit_early (chain : s.rebuild = some r) (next : nextUnit r.units r.done = some off)
    (early : s.now < r.t1 + 8 + r.done + 50 * (s.groupSize - 2)) : s.rebuildUnit = s := by
  unfold State.rebuildUnit
  rw [chain]
  dsimp only
  rw [next]
  exact if_pos early

/-- The words of the next unit of a chain. -/
def State.chainWords (s : State) (r : Rebuild) (off : Nat) : Option (List Byte) :=
  if r.poisoned then none else s.unitWords s.cores[r.spare].member off

/-- A memory with one unit written, whole or poisoned. -/
def Pasture.withUnit (m : Pasture) (off : Nat) : Option (List Byte) → Pasture
  | some bs => (List.range 8).foldl (fun m k => m.fix (off / 32 + k) ((bs.drop (32 * k)).take 32)) m
  | none => m.poisonZero (off / 32) (off / 32 + 8)

/-- The spare with a unit written. -/
def Core.withUnit (c : Core) (off : Nat) (words : Option (List Byte)) : Core := { c with pasture := c.pasture.withUnit off words }

/-- A chain one unit on. -/
def Rebuild.onward (r : Rebuild) (words : Option (List Byte)) : Rebuild :=
  { r with done := r.done + 1, losses := r.losses + b2n words.isNone }

variable (chain : s.rebuild = some r) (next : nextUnit r.units r.done = some off)
  (due : r.t1 + 8 + r.done + 50 * (s.groupSize - 2) ≤ s.now)
include chain next due

theorem State.rebuildUnit_due : s.rebuildUnit =
    if r.done + 1 = (r.units.map fun u => u.2).sum then
      (s.onCore r.spare fun c => c.withUnit off (s.chainWords r off)).rebuilt (r.onward (s.chainWords r off))
    else { s.onCore r.spare fun c => c.withUnit off (s.chainWords r off) with rebuild := some (r.onward (s.chainWords r off)) } := by
  unfold State.rebuildUnit
  rw [chain]
  dsimp only
  rw [next]
  refine (if_neg (Nat.not_lt.2 due)).trans ?_
  have write : (fun c : Core => { c with pasture := c.pasture.withUnit off (s.chainWords r off) }) =
      fun c => c.withUnit off (s.chainWords r off) := rfl
  rw [← write]
  unfold Pasture.withUnit State.chainWords
  rfl

end

/-- The mark of a fold ends two ticks from now. -/
def State.endMark (s : State) (f : FoldNo) : State := s.onFold f (Fold.markedUntil (s.tick.number.toNat + 2))

theorem State.foldl_endMark : ∀ (l : List FoldNo) (s : State),
    l.foldl State.endMark s = { s with folds := markFolds (s.tick.number.toNat + 2) l s.folds } := by
  intro l
  induction l with
  | nil => exact fun s => rfl
  | cons f l ih => exact fun s => (ih (s.endMark f)).trans rfl

/-- The end of a chain told. -/
def State.chainTold (s : State) (r : Rebuild) : State :=
  { s.log1 0x0103 none (some r.logical) (some r.spare) (leBytes r.losses 4) with rebuild := none }

/-- A core that is mapped. -/
def Core.asMapped (c : Core) : Core := { c with mode := .mapped }

theorem State.rebuilt_eq (s : State) (r : Rebuild) : s.rebuilt r =
    State.chainTold { s with
      cores := vmod s.cores r.spare Core.asMapped
      folds := markFolds (s.tick.number.toNat + 2) (s.holders r.logical) s.folds } r := by
  have marks := State.foldl_endMark (s.holders r.logical) (s.onCore r.spare Core.asMapped)
  have run : s.rebuilt r = ((s.holders r.logical).foldl State.endMark (s.onCore r.spare Core.asMapped)).chainTold r := rfl
  rw [run, marks]
  rfl

/-- Settles O38: a fault found is noted and marks the folds of a takeover, an isolated core is out of all work, and the rebuild chain
writes its units one by one. -/
theorem lostCoresAndRebuild : Obligations.LostCoresAndRebuild := by
  unfold Obligations.LostCoresAndRebuild
  refine ⟨⟨fun s p c => ⟨fun off => exec_next (t := s.coreFault p c) (State.coreFault_off c off), fun fine on used => ?_⟩,
    fun s p => ⟨fun off => exec_next (t := s.isolate p) (State.isolate_off off), fun faulty open_ => ?_⟩⟩, fun s off => ?_,
    fun s r off chain next => ⟨fun early => exec_next (t := s.rebuildUnit) (State.rebuildUnit_early chain next early), fun due => ?_⟩⟩
  · obtain ⟨fs, told, marked, kept⟩ := State.coreFault_folds c fine on used
    refine ⟨s.coreFault p c, rfl, ?_⟩
    have folds := told.folds
    dsimp only at folds
    rw [folds]
    refine ⟨?_, marked, kept⟩
    unfold State.toldOnly at told
    exact told.trans (by rw [told])
  · obtain ⟨only, out, folds, rebuild⟩ := State.isolate_frame faulty open_
    refine ⟨s.isolate p, rfl, only, out.mode, out.isolated, out.absent, out.matrix, out.currier, out.drover, out.passes, out.walks,
      out.clears, out.idle, out.supply, out.pasture, out.acc, fun f => by rw [folds]; exact s.marksEnded_fold _ f, fun none => ?_,
      fun r chain => ⟨fun spare => ?_, fun other => ?_⟩⟩
    · rw [rebuild, none]
      rfl
    · rw [rebuild, chain]
      exact if_pos spare
    · rw [rebuild, chain]
      exact if_neg other
  · refine exec_next (t := s.rebuildUnit) ?_
    obtain none | ⟨r, chain, done⟩ := off
    · exact State.rebuildUnit_none none
    · exact State.rebuildUnit_over chain done
  · have unit := State.rebuildUnit_due chain next due
    refine ⟨fun bs sound words more => ?_, fun lost more => ?_, fun last => ?_⟩
    · have written : s.chainWords r off = some bs := by
        unfold State.chainWords
        rw [sound]
        exact words
      rw [if_neg more, written] at unit
      exact exec_next (t := s.rebuildUnit) unit
    · have written : s.chainWords r off = none := by
        unfold State.chainWords
        obtain poisoned | words := lost
        · rw [if_pos poisoned]
        · rw [words, ite_self]
      rw [if_neg more, written] at unit
      exact exec_next (t := s.rebuildUnit) unit
    · rw [if_pos last] at unit
      generalize s.chainWords r off = words at unit
      rw [State.rebuilt_eq] at unit
      refine ⟨_, exec_next (t := s.rebuildUnit) unit, rfl, ?_, fun q other => ?_, fun f holds => ?_, rfl⟩
      · exact congrArg Core.mode (vmod_get_self ..)
      · exact (vmod_get_other _ _ _ _ other).trans (vmod_get_other _ _ _ _ other)
      · exact (markFolds_get ..).trans (if_pos holds)

end Sys2Proof.Machine


/-! Ports in training: frames, bounds and retries, and ports that go down (O46). -/

namespace Sys2Proof.Machine

/-! ## Training afresh -/

/-- A port that trains afresh: in Acquire or Down by its lanes with signal, without keys, masks and plan; what it has counted and
whom it had joined stays. -/
structure FabPort.freshFrom (y x : FabPort) (now : Nat) : Prop where
  acquire : 6 ≤ lanesIn x.sig → y.state = .acquire
  down : lanesIn x.sig < 6 → y.state = .down
  since : y.since = now
  txKey : y.txKey = none
  rxKey : y.rxKey = none
  txActive : y.txActive = 0
  rxActive : y.rxActive = 0
  inPlan : y.inPlan = false
  joined : y.joined = x.joined
  ctrs : y.ctrs = x.ctrs

theorem FabPort.retrain_fresh (x : FabPort) (now : Nat) : (x.retrain now).freshFrom x now :=
  ⟨fun enough => if_pos enough, fun few => if_neg (Nat.not_le.2 few), rfl, rfl, rfl, rfl, rfl, rfl, rfl, rfl⟩

/-- A port trained afresh, with the setting of its cables kept or known. -/
def FabPort.retrained (x : FabPort) (now : Nat) (stored : Bool) : FabPort := { x.retrain now with stored := stored }

theorem FabPort.retrained_fresh (x : FabPort) (now : Nat) (stored : Bool) : (x.retrained now stored).freshFrom x now := by
  obtain ⟨acquire, down, since, txKey, rxKey, txActive, rxActive, inPlan, joined, ctrs⟩ := x.retrain_fresh now
  exact ⟨acquire, down, since, txKey, rxKey, txActive, rxActive, inPlan, joined, ctrs⟩

/-! ## Lanes that get signal -/

theorem laneBit_self (l : LaneNo) : (laneBit l).getLsbD l.val = true := by
  revert l
  decide

theorem laneBit_other : ∀ {l k : LaneNo}, k ≠ l → (laneBit l).getLsbD k.val = false := by
  decide

section
variable (x : FabPort) (lanes : BitVec 8) (now : Nat) (l : LaneNo)

/-- A lane that had no signal or was lost, and now has it. -/
def FabPort.back : Bool := lanes.getLsbD l.val && (decide (x.lanes[l] = .noSignal) || decide (x.lanes[l] = .lost))

theorem FabPort.regain_lane : (x.regain lanes now).lanes[l] = if x.back lanes l then .training else x.lanes[l] := by
  unfold FabPort.regain FabPort.back
  simp

theorem FabPort.regain_since : (x.regain lanes now).cleanSince[l] = if x.back lanes l then now else x.cleanSince[l] := by
  unfold FabPort.regain FabPort.back
  simp

variable {lanes l}

theorem FabPort.back_of {x : FabPort} (signal : lanes.getLsbD l.val = true) (gone : x.lanes[l] = .noSignal ∨ x.lanes[l] = .lost) :
    x.back lanes l = true := by
  unfold FabPort.back
  rw [signal]
  obtain h | h := gone <;> rw [h] <;> rfl

theorem FabPort.not_back_of {x : FabPort} (stays : lanes.getLsbD l.val = false ∨ (x.lanes[l] ≠ .noSignal ∧ x.lanes[l] ≠ .lost)) :
    x.back lanes l = false := by
  unfold FabPort.back
  obtain h | ⟨noSignal, lost⟩ := stays
  · rw [h]
    rfl
  · rw [decide_eq_false noSignal, decide_eq_false lost, Bool.or_false, Bool.and_false]

theorem FabPort.regain_signal (signal : lanes.getLsbD l.val = true) :
    (x.regain lanes now).lanes[l] ≠ .noSignal ∧ (x.regain lanes now).lanes[l] ≠ .lost := by
  rw [FabPort.regain_lane]
  by_cases gone : x.lanes[l] = .noSignal ∨ x.lanes[l] = .lost
  · rw [FabPort.back_of signal gone, if_pos rfl]
    exact ⟨by decide, by decide⟩
  · obtain ⟨noSignal, lost⟩ := not_or.1 gone
    rw [FabPort.not_back_of (.inr ⟨noSignal, lost⟩)]
    exact ⟨noSignal, lost⟩

theorem FabPort.regain_other (off : lanes.getLsbD l.val = false) : (x.regain lanes now).lanes[l] = x.lanes[l] := by
  rw [FabPort.regain_lane, FabPort.not_back_of (.inl off)]
  rfl

end

/-! ## One port changed -/

theorem State.onFab_result (s : State) (p : FabricPort) (g : FabPort → FabPort) : ∃ t, s.onFab p g = t ∧ t.fab[p] = g s.fab[p] ∧
    (∀ q : FabricPort, q ≠ p → t.fab[q] = s.fab[q]) ∧ t = { s with fab := s.fab.set p t.fab[p] } := by
  have self := s.onFab_self p g
  refine ⟨_, rfl, self, fun q other => s.onFab_other p g other, ?_⟩
  rw [self]
  rfl

/-- One port changed, and what tells of it. -/
theorem State.onFab_told {s t : State} {p : FabricPort} {y : FabPort} (told : State.toldOnly { s with fab := s.fab.set p y } t) :
    t.fab[p] = y ∧ (∀ q : FabricPort, q ≠ p → t.fab[q] = s.fab[q]) ∧
      t = { s with fab := t.fab, hall := t.hall, log := t.log, ctrs := t.ctrs } := by
  unfold State.toldOnly at told
  have fab : t.fab = s.fab.set p y := by rw [told]
  refine ⟨by rw [fab]; exact Vector.getElem_set_self _, fun q other => by rw [fab]; exact set_get_other _ _ _ _ other, ?_⟩
  rw [told]

/-- One port changed, and an entry logged. -/
theorem State.onFab_log1 (s : State) (p : FabricPort) (g : FabPort → FabPort) (code : BitVec 16) (detail : List Byte) :
    ∃ t, (s.onFab p g).log1 code none none none detail = t ∧ t.fab[p] = g s.fab[p] ∧
      t = { s with fab := s.fab.set p t.fab[p], log := t.log, ctrs := t.ctrs } := by
  obtain ⟨u, run, port, -, frame⟩ := s.onFab_result p g
  have logged := State.log1_eq u code none none none detail
  refine ⟨_, congrArg (fun v : State => v.log1 code none none none detail) run, ?_, ?_⟩
  · rw [logged]
    exact port
  · have fab : (u.log1 code none none none detail).fab = u.fab := by rw [logged]
    rw [fab]
    refine logged.trans ?_
    generalize (u.log1 code none none none detail).log = log
    generalize (u.log1 code none none none detail).ctrs = ctrs
    generalize u.fab[p] = x at frame
    rw [frame]

/-! ## Training frames, bounds and retries -/

section
variable {s : State} {p : FabricPort}

/-- The states in which clear training frames count. -/
def clearStates : List LinkState := [.acquire, .align, .hello, .key, .unpaired]

/-- A port that a clear training frame of its peer has reached. -/
def FabPort.framed (x : FabPort) (lane : LaneNo) (h : Hello) (o : PairingOffer) (now : Nat) : FabPort :=
  { x.regain (laneBit lane) now with peer := some h, offer := some o, helloAt := now + 1, heard := some h.txCycle }

theorem FabPort.framed_eq (x : FabPort) (lane : LaneNo) (h : Hello) (o : PairingOffer) (now : Nat) : x.framed lane h o now = { x with
    peer := some h, offer := some o, helloAt := now + 1, heard := some h.txCycle
    sig := x.sig ||| laneBit lane, lanes := (x.framed lane h o now).lanes, cleanSince := (x.framed lane h o now).cleanSince } := rfl

theorem FabPort.framed_signal (x : FabPort) (lane : LaneNo) (h : Hello) (o : PairingOffer) (now : Nat) :
    (x.framed lane h o now).lanes[lane] ≠ .noSignal ∧ (x.framed lane h o now).lanes[lane] ≠ .lost :=
  x.regain_signal now (laneBit_self lane)

theorem FabPort.framed_other (x : FabPort) {lane l : LaneNo} (h : Hello) (o : PairingOffer) (now : Nat) (other : l ≠ lane) :
    (x.framed lane h o now).lanes[l] = x.lanes[l] :=
  x.regain_other now (laneBit_other other)

theorem State.trainingOp_clear (lane : LaneNo) (h : Hello) (o : PairingOffer) (clear : s.fab[p].state ∈ clearStates) :
    s.trainingOp p lane h o = s.onFab p fun x => x.framed lane h o s.now := by
  unfold State.trainingOp
  exact if_pos (by simpa [clearStates] using clear)

theorem State.trainingOp_keyed (lane : LaneNo) (h : Hello) (o : PairingOffer) (keyed : s.fab[p].state ∉ clearStates) :
    s.trainingOp p lane h o = s := by
  unfold State.trainingOp
  exact if_neg (by simpa [clearStates] using keyed)

/-- The hello of a peer that shares no revision. -/
def revisionsApart : Option Hello → Bool
  | some h => !revisionsMeet h
  | none => false

/-- A port that stays in its state past its bound: in Key, and in Hello with a peer that shares no revision. -/
def FabPort.stays (x : FabPort) : Bool := decide (x.state = .key) || (decide (x.state = .hello) && revisionsApart x.peer)

theorem FabPort.not_stays {x : FabPort} (leaves : x.state ∈ [LinkState.acquire, .align, .verify] ∨
    (x.state = .hello ∧ ∀ h, x.peer = some h → revisionsMeet h = true)) : x.stays = false := by
  unfold FabPort.stays
  obtain other | ⟨hello, meets⟩ := leaves
  · rw [List.mem_cons, List.mem_cons, List.mem_singleton] at other
    obtain h | h | h := other <;> rw [h] <;> rfl
  · rw [hello]
    cases peer : x.peer with
    | none => rfl
    | some h =>
      show (false || (true && !revisionsMeet h)) = false
      rw [meets h peer]
      rfl

/-- A training state past a bound. -/
def State.timeoutAt (s : State) (p : FabricPort) : Option Nat → State
  | some b => if s.fab[p].stays ∨ s.now < s.fab[p].since + b then s else s.onFab p fun x => x.retrained s.now x.stored
  | none => s

theorem State.timeoutOp_eq : s.timeoutOp p = s.timeoutAt p (s.trainBound p) := rfl

theorem State.keyRetryOp_waits (h : s.fab[p].state ≠ .key ∨ s.now < s.fab[p].since + 2 ^ 21) : s.keyRetryOp p = s := by
  refine if_neg fun both => ?_
  obtain ⟨key, due⟩ := both
  obtain h | h := h
  · exact h key
  · exact absurd due (Nat.not_le.2 h)

/-- A port in Key under a nonce. -/
def FabPort.keyed (x : FabPort) (now : Nat) (nonce : BitVec 256) : FabPort :=
  { x.enter .key now with nonce := nonce, txKey := none, rxKey := none }

theorem State.enterKey_eq (sound : s.trust.entropyFailed = false) : s.enterKey p = { s with
    trust := { s.trust with draws := s.trust.draws + 1 }
    fab := s.fab.set p (s.fab[p].keyed s.now (Config.entropy s.trust.draws 256)) } := by
  unfold State.enterKey
  rw [sound]
  rfl

theorem State.unpairedOp_other (h : s.fab[p].state ≠ .unpaired) : s.unpairedOp p = s := if_pos h

theorem State.unpairedOp_enters (unpaired : s.fab[p].state = .unpaired) (paired : s.paired p = true) : s.unpairedOp p = s.enterKey p :=
  (if_neg (not_not_intro unpaired)).trans (if_pos paired)

/-- A port that sends a clear hello, and counts it. -/
def FabPort.helloed (x : FabPort) (h : Hello) (fs : List TrainFrame) : FabPort :=
  { x with ownHello := some h, txTraining := fs, ctrs := x.ctrs.set 11 ((x.ctrs[11] : Ctr).add 1) }

theorem State.unpairedOp_sends (unpaired : s.fab[p].state = .unpaired) (unknown : s.paired p = false) : s.unpairedOp p =
    (s.onFab p fun x => x.helloed (s.helloOf p 1) (s.trainingFrames p (s.helloOf p 1))).log1 0x0705 none none none [] := by
  refine (if_neg (not_not_intro unpaired)).trans ((if_neg (by rw [unknown]; exact Bool.false_ne_true)).trans ?_)
  exact congrArg (fun u : State => u.log1 0x0705 none none none []) (s.countFab_onFab p _ 11 1)

/-! ## Ports that go down -/

/-- A port taken down by a cause. -/
def FabPort.takenDown (x : FabPort) (now : Nat) (k : Fin 13) : FabPort :=
  { x.retrain now with stored := true, standIn := none, ctrs := x.ctrs.set k ((x.ctrs[k] : Ctr).add 1) }

theorem State.portNotice_told (s : State) (p : FabricPort) (code : BitVec 16) (action : Nat) (detail : List Byte) :
    s.toldOnly (s.portNotice p code action detail) :=
  foldl_keep (fun t => s.toldOnly t) _ (fun t f told => by
    cases t.folds[f].image with
    | none => exact told
    | some i =>
      dsimp only
      split
      · exact told.trans (t.toldOnly_notice ..)
      · exact told) _ s (State.toldOnly.refl s)

theorem State.takeDown_told (k : Fin 13) (code : BitVec 16) :
    State.toldOnly { s with fab := s.fab.set p (s.fab[p].takenDown s.now k) } (s.takeDown p k code) := by
  have counted : (s.onFab p fun x => { (x.retrain s.now) with stored := true, standIn := none }).countFab p k 1 =
      { s with fab := s.fab.set p (s.fab[p].takenDown s.now k) } := s.countFab_onFab p _ k 1
  unfold State.takeDown
  dsimp only
  rw [counted]
  exact (State.toldOnly_log1 ..).trans (State.portNotice_told ..)

theorem FabPort.takenDown_fields (x : FabPort) (now : Nat) (k : Fin 13) :
    (6 ≤ lanesIn x.sig → (x.takenDown now k).state = .acquire) ∧ (lanesIn x.sig < 6 → (x.takenDown now k).state = .down) ∧
      (x.takenDown now k).txKey = none ∧ (x.takenDown now k).rxKey = none ∧ (x.takenDown now k).txActive = 0 ∧
      (x.takenDown now k).rxActive = 0 ∧ (x.takenDown now k).inPlan = false ∧ (x.takenDown now k).joined = x.joined ∧
      (x.takenDown now k).ctrs = x.ctrs.set k ((x.ctrs[k] : Ctr).add 1) := by
  have fresh := x.retrain_fresh now
  exact ⟨fresh.acquire, fresh.down, fresh.txKey, fresh.rxKey, fresh.txActive, fresh.rxActive, fresh.inPlan, fresh.joined, rfl⟩

theorem State.portDownOp_up (up : s.fab[p].state = .up) (due : s.fab[p].goDown = true ∨ s.fab[p].short = true) :
    s.portDownOp p = s.takeDown p 5 0x0702 := if_pos ⟨up, due⟩

theorem State.portDownOp_stays (h : s.fab[p].state ≠ .up ∨ (s.fab[p].goDown = false ∧ s.fab[p].short = false)) :
    s.portDownOp p = s := by
  refine if_neg fun both => ?_
  obtain ⟨up, due⟩ := both
  obtain h | ⟨kept, wide⟩ := h
  · exact h up
  · rw [kept, wide] at due
    exact due.elim Bool.false_ne_true Bool.false_ne_true

theorem State.authRetrainOp_few (few : s.fab[p].recentFails.length < 16) : s.authRetrainOp p = s := if_pos few

theorem State.authRetrainOp_up (many : 16 ≤ s.fab[p].recentFails.length) (up : s.fab[p].state = .up) :
    s.authRetrainOp p = s.takeDown p 6 0x0703 := (if_neg (Nat.not_lt.2 many)).trans (if_pos up)

/-- A port that authentication failures retrain in Verify. -/
def FabPort.failed (x : FabPort) (now : Nat) : FabPort :=
  { x.retrained now x.stored with ctrs := x.ctrs.set 6 ((x.ctrs[6] : Ctr).add 1) }

theorem State.authRetrainOp_verify (many : 16 ≤ s.fab[p].recentFails.length) (verify : s.fab[p].state = .verify) :
    s.authRetrainOp p = (s.onFab p fun x => x.failed s.now).log1 0x0703 none none none (s.portDetail p) :=
  (if_neg (Nat.not_lt.2 many)).trans ((if_neg (by rw [verify]; decide)).trans ((if_pos verify).trans
    (congrArg (fun u : State => u.log1 0x0703 none none none (s.portDetail p)) (s.countFab_onFab p _ 6 1))))

theorem State.authRetrainOp_other (up : s.fab[p].state ≠ .up) (verify : s.fab[p].state ≠ .verify) : s.authRetrainOp p = s := by
  by_cases few : s.fab[p].recentFails.length < 16
  · exact State.authRetrainOp_few few
  · exact (if_neg few).trans ((if_neg up).trans (if_neg verify))

end

/-- Settles O46: a clear training frame brings the peer's hello, a state past its bound trains afresh, Key and Unpaired try again, and
a port that goes down trains afresh. -/
theorem trainingRetriesAndPortsGoDown : Obligations.TrainingRetriesAndPortsGoDown := by
  unfold Obligations.TrainingRetriesAndPortsGoDown
  refine ⟨fun s p lane h o => ⟨fun clear => ?_, fun keyed => exec_next (t := s.trainingOp p lane h o) (State.trainingOp_keyed lane h o keyed),
    fun b bound => ⟨fun waits => ?_, fun due late => ?_⟩, fun key sound => ⟨fun due => ?_, fun early => ?_⟩, fun other => ?_,
    fun other => exec_next (t := s.unpairedOp p) (State.unpairedOp_other other), fun unpaired => ⟨fun unknown => ?_, fun paired sound => ?_⟩⟩,
    fun s p c k up => ⟨fun cause => ?_, fun kept wide => exec_next (t := s.portDownOp p) (State.portDownOp_stays (.inr ⟨kept, wide⟩)),
      fun few => exec_next (t := s.authRetrainOp p) (State.authRetrainOp_few few)⟩,
    fun s p => ⟨fun other => exec_next (t := s.portDownOp p) (State.portDownOp_stays (.inl other)),
      fun up verify => exec_next (t := s.authRetrainOp p) (State.authRetrainOp_other up verify), fun verify many => ?_⟩⟩
  · obtain ⟨t, run, port, -, frame⟩ := s.onFab_result p fun x => x.framed lane h o s.now
    refine ⟨t, exec_next (t := s.trainingOp p lane h o) ((State.trainingOp_clear lane h o clear).trans run), ?_⟩
    obtain ⟨signal, present⟩ := s.fab[p].framed_signal lane h o s.now
    refine ⟨?_, by rw [port]; exact signal, by rw [port]; exact present, fun l other => ?_, frame⟩
    · rw [port]
      exact s.fab[p].framed_eq lane h o s.now
    · rw [port]
      exact s.fab[p].framed_other h o s.now other
  · refine exec_next (t := s.timeoutOp p) ?_
    rw [State.timeoutOp_eq, bound]
    refine if_pos ?_
    obtain early | key | ⟨hello, h, peer, apart⟩ := waits
    · exact .inr early
    · refine .inl ?_
      unfold FabPort.stays
      rw [key]
      rfl
    · refine .inl ?_
      unfold FabPort.stays revisionsApart
      rw [hello, peer]
      show (false || (true && !revisionsMeet h)) = true
      rw [apart]
      rfl
  · obtain ⟨t, run, port, -, frame⟩ := s.onFab_result p fun x => x.retrained s.now x.stored
    have goes : ¬(s.fab[p].stays = true ∨ s.now < s.fab[p].since + b) := by
      rintro (stays | early)
      · exact Bool.false_ne_true ((FabPort.not_stays late).symm.trans stays)
      · omega
    have op : s.timeoutOp p = t := by
      rw [State.timeoutOp_eq, bound]
      exact (if_neg goes).trans run
    refine ⟨t, exec_next op, frame, ?_⟩
    have fresh := s.fab[p].retrained_fresh s.now s.fab[p].stored
    rw [port]
    exact ⟨fresh.acquire, fresh.down, rfl, fresh.since, fresh.txKey, fresh.rxKey, fresh.txActive, fresh.rxActive, fresh.ctrs⟩
  · refine exec_next (t := s.keyRetryOp p) ((if_pos ⟨key, due⟩).trans ?_)
    rw [State.enterKey_eq sound]
    unfold FabPort.keyed FabPort.enter
    rw [← key]
  · exact exec_next (t := s.keyRetryOp p) (State.keyRetryOp_waits (.inr early))
  · exact exec_next (t := s.keyRetryOp p) (State.keyRetryOp_waits (.inl other))
  · obtain ⟨t, run, port, frame⟩ := s.onFab_log1 p (fun x => x.helloed (s.helloOf p 1) (s.trainingFrames p (s.helloOf p 1))) 0x0705 []
    exact ⟨t, exec_next (t := s.unpairedOp p) ((State.unpairedOp_sends unpaired unknown).trans run), port, frame⟩
  · exact exec_next (t := s.unpairedOp p) ((State.unpairedOp_enters unpaired paired).trans (State.enterKey_eq sound))
  · have told : ∃ code, exec c s = .next (s.takeDown p k code) := by
      obtain ⟨rfl, rfl, due⟩ | ⟨rfl, rfl, many⟩ := cause
      · exact ⟨_, exec_next (t := s.portDownOp p) (State.portDownOp_up up due)⟩
      · exact ⟨_, exec_next (t := s.authRetrainOp p) (State.authRetrainOp_up many up)⟩
    obtain ⟨code, runs⟩ := told
    obtain ⟨port, others, frame⟩ := State.onFab_told (s.takeDown_told (p := p) k code)
    obtain ⟨acquire, down, txKey, rxKey, txActive, rxActive, inPlan, joined, ctrs⟩ := s.fab[p].takenDown_fields s.now k
    refine ⟨_, runs, ?_⟩
    rw [port]
    exact ⟨acquire, down, txKey, rxKey, txActive, rxActive, inPlan, joined, ctrs, others, frame⟩
  · obtain ⟨t, run, port, frame⟩ := s.onFab_log1 p (fun x => x.failed s.now) 0x0703 (s.portDetail p)
    have fresh := s.fab[p].retrained_fresh s.now s.fab[p].stored
    refine ⟨t, exec_next (t := s.authRetrainOp p) ((State.authRetrainOp_verify many verify).trans run), ?_⟩
    rw [port]
    exact ⟨fresh.acquire, fresh.txKey, fresh.rxKey, rfl, port ▸ frame⟩

end Sys2Proof.Machine


/-! Link training from Down to Up (O45). -/

namespace Sys2Proof.Machine

/-! ## Signal and alignment -/

/-- What a port keeps of a signal on some of its lanes. -/
structure FabPort.signalledFrom (y x : FabPort) (m : BitVec 8) (now : Nat) : Prop where
  sig : y.sig = x.sig ||| m
  lanes : y.lanes = (x.regain m now).lanes
  cleanSince : y.cleanSince = (x.regain m now).cleanSince
  starts : x.state = .down → 6 ≤ lanesIn (x.sig ||| m) → y.state = .acquire ∧ y.since = now ∧ y.trainFrames = 0
  stays : x.state ≠ .down ∨ lanesIn (x.sig ||| m) < 6 → y.state = x.state ∧ y.since = x.since

/-- A port that has had a signal on some of its lanes. -/
def FabPort.signalled (x : FabPort) (lanes : BitVec 8) (now : Nat) : FabPort :=
  if x.state = .down ∧ 6 ≤ lanesIn (x.sig ||| lanes) then { (x.regain lanes now).enter .acquire now with trainFrames := 0 }
  else x.regain lanes now

theorem FabPort.signalled_from (x : FabPort) (lanes : BitVec 8) (now : Nat) : (x.signalled lanes now).signalledFrom x lanes now := by
  unfold FabPort.signalled
  by_cases starts : x.state = .down ∧ 6 ≤ lanesIn (x.sig ||| lanes)
  · rw [if_pos starts]
    refine ⟨rfl, rfl, rfl, fun _ _ => ⟨rfl, rfl, rfl⟩, fun stays => ?_⟩
    obtain up | few := stays
    · exact absurd starts.1 up
    · exact absurd few (Nat.not_lt.2 starts.2)
  · rw [if_neg starts]
    exact ⟨rfl, rfl, rfl, fun down enough => absurd ⟨down, enough⟩ starts, fun _ => ⟨rfl, rfl⟩⟩

section
variable {s : State} {p : FabricPort}

theorem State.signalOp_eq (lanes : BitVec 8) : s.signalOp p lanes = s.onFab p fun x => x.signalled lanes s.now := rfl

theorem State.acquireOp_other {lanes : BitVec 8} (h : lanesIn (lanes &&& s.fab[p].sig) < 6 ∨ s.fab[p].state ≠ .acquire) :
    s.acquireOp p lanes = s := by
  refine if_neg fun both => ?_
  obtain ⟨acquire, enough⟩ := both
  obtain few | other := h
  · exact absurd enough (Nat.not_le.2 few)
  · exact other acquire

theorem State.alignOp_other {lanes : BitVec 8} (h : lanesIn (lanes &&& s.fab[p].sig) < 6 ∨ s.fab[p].state ≠ .align) :
    s.alignOp p lanes = s := by
  refine if_neg fun both => ?_
  obtain ⟨align, enough⟩ := both
  obtain few | other := h
  · exact absurd enough (Nat.not_le.2 few)
  · exact other align

/-! ## Hello -/

/-- A port in Hello whose peer has been heard. -/
def State.helloWith (s : State) (p : FabricPort) (h : Hello) : State :=
  if !revisionsMeet h then s.countFab p 10 1
  else if h.unplaced then s
  else
    let s := s.onFab p fun x => { x with revision := if h.highRev.toNat < 2 then h.highRev else 2 }
    if s.paired p then s.enterKey p else s.onFab p fun x => x.enter .unpaired s.now

theorem State.helloOp_heard {h : Hello} (hello : s.fab[p].state = .hello) (peer : s.fab[p].peer = some h) :
    s.helloOp p = s.helloWith p h := by
  unfold State.helloOp
  rw [hello, peer]
  rfl

theorem State.helloOp_other (h : s.fab[p].state ≠ .hello ∨ s.fab[p].peer = none) : s.helloOp p = s := by
  unfold State.helloOp
  generalize s.fab[p].state = state at h
  generalize s.fab[p].peer = peer at h
  split
  · obtain h | h := h
    · exact absurd rfl h
    · cases h
  · rfl

theorem State.paired_onFab {g : FabPort → FabPort} (peer : (g s.fab[p]).peer = s.fab[p].peer) (offer : (g s.fab[p]).offer = s.fab[p].offer) :
    (s.onFab p g).paired p = s.paired p := by
  unfold State.paired
  rw [s.onFab_self p g, peer, offer]
  rfl

theorem State.helloWith_apart {h : Hello} (apart : revisionsMeet h = false) : s.helloWith p h = s.countFab p 10 1 := by
  unfold State.helloWith
  rw [apart]
  rfl

theorem State.helloWith_unplaced {h : Hello} (meets : revisionsMeet h = true) (unplaced : h.unplaced = true) : s.helloWith p h = s := by
  unfold State.helloWith
  rw [meets, unplaced]
  rfl

theorem State.helloWith_placed {h : Hello} (meets : revisionsMeet h = true) (placed : h.unplaced = false) : s.helloWith p h =
    if s.paired p then (s.onFab p fun x => { x with revision := if h.highRev.toNat < 2 then h.highRev else 2 }).enterKey p
    else (s.onFab p fun x => { x with revision := if h.highRev.toNat < 2 then h.highRev else 2 }).onFab p fun x => x.enter .unpaired s.now := by
  unfold State.helloWith
  rw [meets, placed]
  dsimp only
  rw [State.paired_onFab rfl rfl]
  rfl

/-! ## Keys -/

theorem State.keyOp_keyed {h : Hello} {k : BitVec 256 × BitVec 256} (key : s.fab[p].state = .key)
    (keys : s.directionKeys p h.nonce = some k) : s.keyOp p h =
      if h.confirmation = confirmationOf k.2 h then
        s.onFab p fun x => { x.enter .verify s.now with
          txKey := some k.1, rxKey := some k.2, counter := 0, txActive := x.peer.elim 0 fun q => q.lanes, rxActive := x.request }
      else s := by
  unfold State.keyOp
  refine (if_neg (not_not_intro key)).trans ?_
  rw [keys]

/-! ## Verify -/

/-- A port whose training ends in Up. -/
def FabPort.upWith (x : FabPort) (h : Hello) (worst now : Nat) : FabPort :=
  { x.enter .up now with
    peer := some h, latency := worst, rxDelay := worst + 16, goDown := false, owed := x.rxActive
    anchor := x.anchor.map fun a => (a.1 - worst, a.2)
    lanes := Vector.ofFn fun l => if x.rxActive.getLsbD l.val ∧ x.sig.getLsbD l.val then .active else x.lanes[l]
    cleanSince := Vector.replicate 8 now }

theorem FabPort.upWith_lane (x : FabPort) (h : Hello) (worst now : Nat) {l : LaneNo} (active : x.rxActive.getLsbD l.val = true)
    (signal : x.sig.getLsbD l.val = true) : (x.upWith h worst now).lanes[l] = .active := by
  show (Vector.ofFn _)[l] = _
  simp [active, signal]

/-- A port that has come up, whose delay fits the folds that run or not, rejoins with the peer that it had joined and is counted
with another. -/
def FabPort.rejoined (x : FabPort) (fits : Bool) : FabPort :=
  if x.joined.isNone then x
  else if x.samePeer && fits then { x with rejoin := true }
  else { x with ctrs := x.ctrs.set 8 ((x.ctrs[8] : Ctr).add 1) }

/-- A port that has come up joins the plan again or is counted. -/
def State.rejoins (s : State) (p : FabricPort) : State :=
  if s.fab[p].joined.isNone then s
  else if s.fab[p].samePeer && s.fitsRunning p then s.onFab p fun x => { x with rejoin := true }
  else s.countFab p 8 1

theorem State.onFab_congr {s : State} {p : FabricPort} {f g : FabPort → FabPort} (same : f s.fab[p] = g s.fab[p]) :
    s.onFab p f = s.onFab p g := by
  rw [s.onFab_set, s.onFab_set, same]

theorem State.onFab_same {s : State} {p : FabricPort} {g : FabPort → FabPort} (same : g s.fab[p] = s.fab[p]) : s.onFab p g = s := by
  rw [s.onFab_set, same]
  have fab : s.fab.set p s.fab[p] = s.fab := Vector.set_getElem_self _
  rw [fab]

theorem State.rejoins_eq (s : State) (p : FabricPort) : s.rejoins p = s.onFab p fun x => x.rejoined (s.fitsRunning p) := by
  unfold State.rejoins
  by_cases alone : s.fab[p].joined.isNone
  · rw [if_pos alone]
    exact (State.onFab_same (g := fun x => x.rejoined (s.fitsRunning p)) (if_pos alone)).symm
  · rw [if_neg alone]
    by_cases fits : s.fab[p].samePeer && s.fitsRunning p
    · rw [if_pos fits]
      exact State.onFab_congr ((if_neg alone).trans (if_pos fits)).symm
    · rw [if_neg fits]
      exact State.onFab_congr ((if_neg alone).trans (if_neg fits)).symm

/-- A port in Verify whose peer's hello has come in both copies. -/
def State.verifyWith (s : State) (p : FabricPort) (c h : Hello) : State :=
  if helloFields c ≠ helloFields h then
    let s := s.onFab p fun x => (x.retrain s.now)
    ((s.countFab p 10 1).countFab p 7 1).log1 0x0704 none none none ([BitVec.ofNat 8 p.val, h.lanes] ++ leBytes h.hallModule.toNat 2)
  else if s.fab[p].latencies.length < 16 then s
  else (s.onFab p fun x => x.upWith h (s.fab[p].latencies.foldl max 0) s.now).rejoins p

end

section
variable {s : State} {p : FabricPort} {c h : Hello}

theorem State.verifyDoneOp_tells (verify : s.fab[p].state = .verify) (peer : s.fab[p].peer = some c) (auth : s.fab[p].authHello = some h) :
    s.verifyDoneOp p h s.fab[p].latencies = s.verifyWith p c h := by
  unfold State.verifyDoneOp
  refine (if_pos ⟨auth, rfl⟩).trans ?_
  unfold State.verifyOp
  rw [verify, peer, auth]
  dsimp only
  unfold State.verifyWith
  rfl

/-- A port that a hello unlike the clear one trains afresh. -/
def FabPort.unlike (x : FabPort) (now : Nat) : FabPort :=
  let once := x.ctrs.set 10 ((x.ctrs[10] : Ctr).add 1)
  { x.retrain now with ctrs := once.set 7 ((once[7] : Ctr).add 1) }

theorem State.verifyWith_unlike (unlike : helloFields c ≠ helloFields h) : s.verifyWith p c h =
    (s.onFab p fun x => x.unlike s.now).log1 0x0704 none none none ([BitVec.ofNat 8 p.val, h.lanes] ++ leBytes h.hallModule.toNat 2) := by
  refine (if_pos unlike).trans (congrArg (fun u : State => u.log1 0x0704 none none none ([BitVec.ofNat 8 p.val, h.lanes] ++
    leBytes h.hallModule.toNat 2)) ?_)
  rw [s.countFab_onFab p, s.countFab_onFab p]
  rfl

theorem State.verifyWith_early (same : helloFields c = helloFields h) (few : s.fab[p].latencies.length < 16) : s.verifyWith p c h = s :=
  (if_neg (not_not_intro same)).trans (if_pos few)

theorem State.verifyWith_up (same : helloFields c = helloFields h) (enough : 16 ≤ s.fab[p].latencies.length) :
    s.verifyWith p c h = (s.onFab p fun x => x.upWith h (s.fab[p].latencies.foldl max 0) s.now).rejoins p :=
  (if_neg (not_not_intro same)).trans (if_neg (Nat.not_lt.2 enough))

theorem State.memberOf_onFab {g : FabPort → FabPort} (standIn : (g s.fab[p]).standIn = s.fab[p].standIn) :
    (s.onFab p g).memberOf p = s.memberOf p := by
  have stands : (s.onFab p g).fab[(15 : FabricPort)].standIn = s.fab[(15 : FabricPort)].standIn := by
    by_cases same : (15 : FabricPort) = p
    · subst same
      rw [s.onFab_self, standIn]
    · rw [s.onFab_other p g same]
  have carriers : ∀ q, (s.onFab p g).carrier q = s.carrier q := fun q => by
    unfold State.carrier
    exact congrArg (fun o => if o = some q.val then (15 : FabricPort) else q) stands
  unfold State.memberOf
  simp only [carriers]
  rfl

theorem State.fitsRunning_alone (alone : s.memberOf p = none) : s.fitsRunning p = true := by
  unfold State.fitsRunning
  rw [alone]

/-! ## The port that has come up -/

/-- A port that has come up with the peer of an authenticated hello: all but whether it rejoins, and what it has counted. -/
structure FabPort.upFrom (y x : FabPort) (h : Hello) (worst now : Nat) : Prop where
  state : y.state = .up
  since : y.since = now
  peer : y.peer = some h
  latency : y.latency = worst
  rxDelay : y.rxDelay = worst + 16
  anchor : y.anchor = x.anchor.map fun a => (a.1 - worst, a.2)
  owed : y.owed = x.rxActive
  txKey : y.txKey = x.txKey
  rxKey : y.rxKey = x.rxKey
  lanes : y.lanes = (x.upWith h worst now).lanes

end

section
variable (x : FabPort) (h : Hello) (worst now : Nat) (fits : Bool)

theorem FabPort.rejoined_up : ((x.upWith h worst now).rejoined fits).upFrom x h worst now := by
  unfold FabPort.rejoined
  split
  · exact ⟨rfl, rfl, rfl, rfl, rfl, rfl, rfl, rfl, rfl, rfl⟩
  · split
    · exact ⟨rfl, rfl, rfl, rfl, rfl, rfl, rfl, rfl, rfl, rfl⟩
    · exact ⟨rfl, rfl, rfl, rfl, rfl, rfl, rfl, rfl, rfl, rfl⟩

theorem FabPort.rejoined_first (first : x.joined = none) : (x.upWith h worst now).rejoined fits = x.upWith h worst now := by
  have none : (x.upWith h worst now).joined.isNone = true := congrArg Option.isNone first
  exact if_pos none

variable {j : BitVec 384 × BitVec 8}

theorem FabPort.upWith_again (joined : x.joined = some j) : ¬(x.upWith h worst now).joined.isNone = true := by
  have some : (x.upWith h worst now).joined.isNone = false := congrArg Option.isNone joined
  rw [some]
  exact Bool.false_ne_true

theorem FabPort.upWith_samePeer (joined : x.joined = some j) :
    (x.upWith h worst now).samePeer = decide (j = (h.fingerprint, h.port)) := by
  have again : (x.upWith h worst now).joined = some j := joined
  unfold FabPort.samePeer
  rw [again]
  rfl

theorem FabPort.rejoined_stranger (joined : x.joined = some j) (stranger : j ≠ (h.fingerprint, h.port)) :
    (x.upWith h worst now).rejoined fits =
      { x.upWith h worst now with ctrs := x.ctrs.set 8 ((x.ctrs[8] : Ctr).add 1) } := by
  have apart := (x.upWith_samePeer h worst now joined).trans (decide_eq_false stranger)
  refine (if_neg (x.upWith_again h worst now joined)).trans (if_neg ?_)
  rw [apart]
  exact Bool.false_ne_true

theorem FabPort.rejoined_same (joined : x.joined = some (h.fingerprint, h.port)) :
    (x.upWith h worst now).rejoined true = { x.upWith h worst now with rejoin := true } := by
  have same := (x.upWith_samePeer h worst now joined).trans (decide_eq_true rfl)
  refine (if_neg (x.upWith_again h worst now joined)).trans (if_pos ?_)
  rw [same]
  rfl

end

/-- Settles O45: signal, alignment, hello, keys and verification take a port from Down to Up under their conditions. -/
theorem trainingReachesUp : Obligations.TrainingReachesUp := by
  unfold Obligations.TrainingReachesUp
  refine ⟨fun s p lanes => ⟨?_, fun acquire enough => ?_, fun align enough => ?_,
    fun other => exec_next (t := s.acquireOp p lanes) (State.acquireOp_other other),
    fun other => exec_next (t := s.alignOp p lanes) (State.alignOp_other other),
    fun other => exec_next (t := s.helloOp p) (State.helloOp_other other),
    fun h hello peer => ⟨fun apart => ?_, fun meets unplaced => ?_, fun meets placed sound paired => ?_, fun meets placed unknown => ?_⟩,
    fun h k key keys => ⟨fun agrees => ?_, fun wrong => exec_next (t := s.keyOp p h) ((State.keyOp_keyed key keys).trans (if_neg wrong))⟩⟩,
    fun s p c h worst verify peer auth last => ⟨fun h' ls other => ?_, fun same few => ?_, fun same enough => ?_, fun unlike => ?_⟩⟩
  · obtain ⟨t, run, port, -, frame⟩ := s.onFab_result p fun x => x.signalled lanes s.now
    obtain ⟨sig, laneStates, cleanSince, starts, stays⟩ := s.fab[p].signalled_from lanes s.now
    refine ⟨t, exec_next (t := s.signalOp p lanes) run, frame, ?_⟩
    rw [port]
    refine ⟨sig, fun l => ?_, starts, stays⟩
    rw [laneStates, cleanSince, FabPort.regain_lane, FabPort.regain_since]
    refine ⟨fun signal gone => ?_, fun kept => ?_⟩
    · rw [FabPort.back_of signal gone]
      exact ⟨rfl, rfl⟩
    · rw [FabPort.not_back_of kept]
      exact ⟨rfl, rfl⟩
  · exact exec_next (t := s.acquireOp p lanes) (if_pos ⟨acquire, enough⟩)
  · exact exec_next (t := s.alignOp p lanes) (if_pos ⟨align, enough⟩)
  · exact exec_next (t := s.helloOp p) ((State.helloOp_heard hello peer).trans (State.helloWith_apart apart))
  · exact exec_next (t := s.helloOp p) ((State.helloOp_heard hello peer).trans (State.helloWith_unplaced meets unplaced))
  · refine exec_next (t := s.helloOp p) ((State.helloOp_heard hello peer).trans ((State.helloWith_placed meets placed).trans
      ((if_pos paired).trans ?_)))
    rw [State.enterKey_eq (s := s.onFab p _) sound, s.onFab_self p, s.onFab_set p]
    dsimp only
    rw [Vector.set_set]
    rfl
  · refine exec_next (t := s.helloOp p) ((State.helloOp_heard hello peer).trans ((State.helloWith_placed meets placed).trans
      ((if_neg (by rw [unknown]; exact Bool.false_ne_true)).trans ?_)))
    exact s.onFab_onFab p _ _
  · obtain ⟨t, run, port, -, frame⟩ := s.onFab_result p fun x => { x.enter .verify s.now with
          txKey := some k.1, rxKey := some k.2, counter := 0, txActive := x.peer.elim 0 fun q => q.lanes, rxActive := x.request }
    refine ⟨t, exec_next (t := s.keyOp p h) ((State.keyOp_keyed key keys).trans ((if_pos agrees).trans run)), ?_, fun q peer => ?_⟩
    · rw [port] at frame ⊢
      exact frame
    · rw [port]
      exact congrArg (fun o : Option Hello => o.elim 0 fun q => q.lanes) peer
  · refine exec_next (t := s.verifyDoneOp p h' ls) (if_neg fun both => ?_)
    obtain ⟨hello, measured⟩ := both
    obtain differs | differs := other
    · exact differs (Option.some.inj (hello.symm.trans auth))
    · exact differs measured.symm
  · exact exec_next (t := s.verifyDoneOp p h s.fab[p].latencies)
      ((State.verifyDoneOp_tells verify peer auth).trans (State.verifyWith_early same few))
  · have op := (State.verifyDoneOp_tells verify peer auth).trans (State.verifyWith_up same enough)
    rw [State.rejoins_eq, s.onFab_onFab p, ← last] at op
    have fits : s.memberOf p = none → (s.onFab p fun x => x.upWith h worst s.now).fitsRunning p = true := fun alone =>
      State.fitsRunning_alone ((State.memberOf_onFab rfl).trans alone)
    generalize (s.onFab p fun x => x.upWith h worst s.now).fitsRunning p = verdict at op fits
    obtain ⟨t, run, port, others, frame⟩ := s.onFab_result p fun x => (x.upWith h worst s.now).rejoined verdict
    obtain ⟨state, since, heard, latency, rxDelay, anchor, owed, txKey, rxKey, lanes⟩ := s.fab[p].rejoined_up h worst s.now verdict
    have moved : t = { s with fab := t.fab } := by
      generalize t.fab[p] = y at frame
      rw [frame]
    refine ⟨t, exec_next (t := s.verifyDoneOp p h s.fab[p].latencies) (op.trans run), others, moved, ?_⟩
    rw [port]
    refine ⟨state, since, heard, latency, rxDelay, anchor, owed, txKey, rxKey, fun l active signal => ?_, fun first => ?_,
      fun j joined stranger => ?_, fun joined alone => ?_⟩
    · rw [lanes]
      exact s.fab[p].upWith_lane h worst s.now active signal
    · rw [s.fab[p].rejoined_first h worst s.now verdict first]
      exact ⟨rfl, rfl⟩
    · rw [s.fab[p].rejoined_stranger h worst s.now verdict joined stranger]
      exact ⟨rfl, rfl⟩
    · rw [fits alone, s.fab[p].rejoined_same h worst s.now joined]
  · obtain ⟨t, run, port, frame⟩ := s.onFab_log1 p (fun x => x.unlike s.now) 0x0704
      ([BitVec.ofNat 8 p.val, h.lanes] ++ leBytes h.hallModule.toNat 2)
    have fresh := s.fab[p].retrain_fresh s.now
    have op := (State.verifyDoneOp_tells verify peer auth).trans ((State.verifyWith_unlike unlike).trans run)
    refine ⟨t, exec_next (t := s.verifyDoneOp p h s.fab[p].latencies) op, ?_⟩
    have others : ∀ q : FabricPort, q ≠ p → t.fab[q] = s.fab[q] := fun q other => by
      generalize t.fab[p] = y at frame
      rw [frame]
      exact set_get_other _ _ _ _ other
    have moved : t = { s with fab := t.fab, log := t.log, ctrs := t.ctrs } := by
      generalize t.fab[p] = y at frame
      generalize t.log = log at frame ⊢
      generalize t.ctrs = ctrs at frame ⊢
      rw [frame]
    rw [port]
    refine ⟨?_, fresh.txKey, fresh.rxKey, ?_, ?_, others, moved⟩
    · exact (Nat.lt_or_ge (lanesIn s.fab[p].sig) 6).elim (fun few => .inr (fresh.down few)) fun enough => .inl (fresh.acquire enough)
    · unfold FabPort.unlike
      simp
    · unfold FabPort.unlike
      simp

end Sys2Proof.Machine


/-! Traffic frames received, and lanes lost and usable again (O48). -/

namespace Sys2Proof.Machine

/-! ## Frames opened -/

section
variable {key : BitVec 256} {lane : LaneNo} {r : LineRx} {k : LaneFrame}

/-- A unit of a frame verifies. -/
def someUnitOpens (key : BitVec 256) (lane : LaneNo) (r : LineRx) (k : LaneFrame) : Prop :=
  ∃ u, u ∈ unitsOfFrame k ∧ (openUnit key lane r k.header u.1 u.2).isSome = true

theorem openFrame_header_opens (good : someUnitOpens key lane r k) : (openFrame key lane r k).header = some k.header :=
  if_pos (List.any_eq_true.2 good)

theorem openFrame_header_fails (bad : ¬someUnitOpens key lane r k) : (openFrame key lane r k).header = none :=
  if_neg fun any => bad (List.any_eq_true.1 any)

theorem mgmt_mem_units (k : LaneFrame) : (16, k.mgmt) ∈ unitsOfFrame k := List.mem_append_right _ (List.mem_singleton_self _)

theorem openFrame_mgmt_fails (bad : ¬someUnitOpens key lane r k) : (openFrame key lane r k).mgmt = none :=
  Option.not_isSome_iff_eq_none.1 fun opens => bad ⟨(16, k.mgmt), mgmt_mem_units k, opens⟩

theorem slot_mem_units {u : Nat} {x : LaneUnit} (unit : k.units[u]? = some x) : (u, x) ∈ unitsOfFrame k :=
  List.mem_append_left _ (List.mem_map.2 ⟨(x, u), List.mk_mem_zipIdx_iff_getElem?.2 unit, rfl⟩)

theorem openFrame_slot {u : Nat} {x : LaneUnit} (unit : k.units[u]? = some x) :
    (openUnit key lane r k.header u x, u) ∈ (openFrame key lane r k).slots.zipIdx := by
  refine List.mk_mem_zipIdx_iff_getElem?.2 ?_
  show (k.units.zipIdx.map _)[u]? = _
  rw [List.getElem?_map, List.getElem?_zipIdx, unit]
  simp

theorem unit_fails {u : Nat} {x : LaneUnit} (bad : ¬someUnitOpens key lane r k) (unit : k.units[u]? = some x) :
    openUnit key lane r k.header u x = none :=
  Option.not_isSome_iff_eq_none.1 fun opens => bad ⟨(u, x), slot_mem_units unit, opens⟩

end

/-! ## What a frame does to its port -/

/-- The slot of a frame's mask. -/
def maskUnder (x : FabPort) (h : Option LaneHeader) : BitVec 8 := h.elim x.rxActive fun h => h.active

theorem FabPort.slices_eq (x : FabPort) (now : Nat) (lane : LaneNo) (o : Opened) : x.slices now lane o =
    if (maskUnder x o.header).getLsbD lane.val then o.slots.zipIdx.map fun u =>
      { at_ := x.placedAt now o.header + 64 * u.2 + x.rxDelay, mask := maskUnder x o.header, lane := lane, unit := u.2
        bytes := if (decide (x.lanes[lane] = .active) || decide (x.lanes[lane] = .usable)) = true ∧
          now ≤ x.placedAt now o.header + 64 * u.2 + x.rxDelay then u.1 else none }
    else [] := by
  unfold FabPort.slices maskUnder
  cases o.header <;> rfl

/-- A port that has counted and kept what came with a frame. -/
def State.frameKept (s : State) (lane : LaneNo) (bad fails : Nat) (o : Opened) (x : FabPort) : FabPort :=
  let x := x.regain (laneBit lane) s.now
  { x with
    uncorr := x.uncorr.set lane (List.replicate bad s.now ++ s.recentUncorr x.uncorr[lane])
    cleanSince := if 0 < bad then x.cleanSince.set lane s.now else x.cleanSince
    authFails := List.replicate fails x.counter.toNat ++ x.recentFails
    rx := (x.rx.filter fun r => decide (s.now < r.at_ + 64)) ++ (if x.state = .up then x.slices s.now lane o else []) }

/-- A port that follows the header of a frame, when one is accepted. -/
def FabPort.followed (x : FabPort) (now : Nat) : Option LaneHeader → FabPort
  | some h => x.follow now h
  | none => x

/-- A port that takes the management unit of a frame, when it verifies. -/
def State.mgmtTaken (s : State) (x : FabPort) : Option (List Byte) → FabPort
  | some t => s.takeMgmt x t
  | none => x

/-- A port that goes down when it is short of lanes. -/
def FabPort.falling (x : FabPort) : FabPort := { x with goDown := x.goDown || (decide (x.state = .up) && x.short) }

/-- A port whose line counters have gone up. -/
def FabPort.lineCounted (x : FabPort) (corrected bad fails : Nat) : FabPort :=
  let once := x.ctrs.set 0 ((x.ctrs[0] : Ctr).add corrected)
  let twice := once.set 1 ((once[1] : Ctr).add bad)
  { x with ctrs := twice.set 2 ((twice[2] : Ctr).add fails) }

/-- A port that a traffic frame has reached. -/
def State.frameTaken (s : State) (lane : LaneNo) (bad fails : Nat) (o : Opened) (x : FabPort) : FabPort :=
  (s.mgmtTaken ((s.frameKept lane bad fails o x).followed s.now o.header) o.mgmt).falling

theorem FabPort.lineCounted_ctrs (x : FabPort) (corrected bad fails : Nat) :
    ((x.lineCounted corrected bad fails).ctrs[0] = (x.ctrs[0] : Ctr).add corrected) ∧
      ((x.lineCounted corrected bad fails).ctrs[1] = (x.ctrs[1] : Ctr).add bad) ∧
      ((x.lineCounted corrected bad fails).ctrs[2] = (x.ctrs[2] : Ctr).add fails) := by
  unfold FabPort.lineCounted
  simp

/-- A traffic frame under the receiving key of its port. -/
def State.trafficUnder (s : State) (p : FabricPort) (lane : LaneNo) (r : LineRx) (k : LaneFrame) : Option (BitVec 256) → State
  | none => s
  | some key =>
    if s.fab[p].state ≠ .up ∧ s.fab[p].state ≠ .verify then s
    else
      let fails := ((unitsOfFrame k).filter fun u => authFailed key lane r k.header u).length
      (((s.onFab p (s.frameTaken lane (lineUncorrectable r) fails (openFrame key lane r k))).countFab p 0 (lineCorrected r)).countFab p 1
        (lineUncorrectable r + ((unitsOfFrame k).filter fun u => falseCorrection key lane r k.header u).length)).countFab p 2 fails

section
variable {s : State} {p : FabricPort} {lane : LaneNo} {r : LineRx} {k : LaneFrame}

theorem State.trafficOp_eq : s.trafficOp p lane r k = s.trafficUnder p lane r k s.fab[p].rxKey := by
  unfold State.trafficOp State.trafficUnder
  exact rfl

theorem State.trafficOp_deaf (deaf : s.fab[p].rxKey = none ∨ (s.fab[p].state ≠ .up ∧ s.fab[p].state ≠ .verify)) :
    s.trafficOp p lane r k = s := by
  rw [State.trafficOp_eq]
  obtain none | other := deaf
  · rw [none]
    rfl
  · cases s.fab[p].rxKey with
    | none => rfl
    | some _ => exact if_pos other

theorem State.countLine (u : State) (p : FabricPort) (corrected bad fails : Nat) :
    ((u.countFab p 0 corrected).countFab p 1 bad).countFab p 2 fails = u.onFab p fun x => x.lineCounted corrected bad fails := by
  have first : u.countFab p 0 corrected = u.onFab p fun x => { x with ctrs := vmod x.ctrs 0 fun c => c.add corrected } := rfl
  rw [first, u.countFab_onFab p, u.countFab_onFab p]
  rfl

end

/-! ## What the port keeps -/

/-- What following a header leaves of a port. -/
structure FabPort.followedFrom (y x : FabPort) : Prop where
  state : y.state = x.state
  rx : y.rx = x.rx
  ctrs : y.ctrs = x.ctrs
  heard : y.heard = x.heard
  latencies : y.latencies = x.latencies

section
variable (x : FabPort) (now : Nat) (h : LaneHeader)

theorem FabPort.follow_from : (x.follow now h).followedFrom x := by
  unfold FabPort.follow
  dsimp only
  split
  · exact ⟨rfl, rfl, rfl, rfl, rfl⟩
  · exact ⟨rfl, rfl, rfl, rfl, rfl⟩

theorem FabPort.followed_from (o : Option LaneHeader) : (x.followed now o).followedFrom x := by
  cases o with
  | none => exact ⟨rfl, rfl, rfl, rfl, rfl⟩
  | some h => exact x.follow_from now h

theorem FabPort.follow_masks (up : x.state = .up) : (x.follow now h).rxActive = h.active ∧ (x.follow now h).peerRequest = h.request := by
  have followed : x.follow now h = _ := if_pos up
  rw [followed]
  exact ⟨rfl, rfl⟩

end

section
variable (s : State) (x : FabPort)

theorem State.mgmtTaken_keeps (o : Option (List Byte)) : (s.mgmtTaken x o).state = x.state ∧ (s.mgmtTaken x o).rx = x.rx ∧
    (s.mgmtTaken x o).ctrs = x.ctrs ∧ (s.mgmtTaken x o).rxActive = x.rxActive ∧ (s.mgmtTaken x o).peerRequest = x.peerRequest := by
  cases o with
  | none => exact ⟨rfl, rfl, rfl, rfl, rfl⟩
  | some _ => exact ⟨rfl, rfl, rfl, rfl, rfl⟩

theorem State.takeMgmt_verify (tx : List Byte) (verify : x.state = .verify) : (s.takeMgmt x tx).authHello = some (readHello tx) ∧
    (x.heard ≠ some (readHello tx).txCycle → (readHello tx).echoed ≠ 0 → x.latencies.length < 16 →
      (s.takeMgmt x tx).latencies = x.latencies ++ [s.latencyOf (readHello tx)]) := by
  refine ⟨if_pos verify, fun unheard echoes few => if_pos ⟨?_, few⟩⟩
  rw [decide_eq_true unheard, decide_eq_true echoes, decide_eq_true verify]
  rfl

/-- The slices that a frame brings to a port. -/
def FabPort.brought (x : FabPort) (now : Nat) (lane : LaneNo) (o : Opened) : List SliceRx :=
  if x.state = .up then (x.regain (laneBit lane) now).slices now lane o else []

/-- What a frame, as it opens, makes of its port. -/
structure FabPort.readsFrom (y x : FabPort) (s : State) (lane : LaneNo) (o : Opened) : Prop where
  state : y.state = x.state
  rx : y.rx = (x.rx.filter fun r => decide (s.now < r.at_ + 64)) ++ x.brought s.now lane o
  ctrs : y.ctrs = x.ctrs
  hello : ∀ tx, x.state = .verify → o.mgmt = some tx → y.authHello = some (readHello tx)
  measured : ∀ tx, x.state = .verify → o.mgmt = some tx → x.heard ≠ some (readHello tx).txCycle → (readHello tx).echoed ≠ 0 →
    x.latencies.length < 16 → y.latencies = x.latencies ++ [s.latencyOf (readHello tx)]
  masks : ∀ h, x.state = .up → o.header = some h → y.rxActive = h.active ∧ y.peerRequest = h.request
  refused : o.header = none → o.mgmt = none → y.rxActive = x.rxActive ∧ y.peerRequest = x.peerRequest ∧ y.peer = x.peer

variable (lane : LaneNo) (bad fails : Nat) (o : Opened)

theorem State.frameTaken_verify {tx : List Byte} (verify : x.state = .verify) (opens : o.mgmt = some tx) :
    (s.frameTaken lane bad fails o x).authHello = some (readHello tx) ∧
      (x.heard ≠ some (readHello tx).txCycle → (readHello tx).echoed ≠ 0 → x.latencies.length < 16 →
        (s.frameTaken lane bad fails o x).latencies = x.latencies ++ [s.latencyOf (readHello tx)]) := by
  obtain ⟨state, -, -, heard, latencies⟩ := (s.frameKept lane bad fails o x).followed_from s.now o.header
  obtain ⟨hello, measured⟩ := s.takeMgmt_verify ((s.frameKept lane bad fails o x).followed s.now o.header) tx (state.trans verify)
  rw [heard, latencies] at measured
  unfold State.frameTaken
  rw [opens]
  exact ⟨hello, measured⟩

theorem State.frameTaken_masks {h : LaneHeader} (up : x.state = .up) (accepted : o.header = some h) :
    (s.frameTaken lane bad fails o x).rxActive = h.active ∧ (s.frameTaken lane bad fails o x).peerRequest = h.request := by
  obtain ⟨-, -, -, active, request⟩ := s.mgmtTaken_keeps ((s.frameKept lane bad fails o x).followed s.now o.header) o.mgmt
  have masks := (s.frameKept lane bad fails o x).follow_masks s.now h up
  rw [accepted] at active request
  unfold State.frameTaken
  rw [accepted]
  exact ⟨active.trans masks.1, request.trans masks.2⟩

theorem State.frameTaken_bad (header : o.header = none) (mgmt : o.mgmt = none) :
    (s.frameTaken lane bad fails o x).rxActive = x.rxActive ∧ (s.frameTaken lane bad fails o x).peerRequest = x.peerRequest ∧
      (s.frameTaken lane bad fails o x).peer = x.peer := by
  unfold State.frameTaken
  rw [header, mgmt]
  exact ⟨rfl, rfl, rfl⟩

theorem State.frameTaken_reads : (s.frameTaken lane bad fails o x).readsFrom x s lane o := by
  obtain ⟨state, rx, ctrs, -, -⟩ := (s.frameKept lane bad fails o x).followed_from s.now o.header
  obtain ⟨mState, mRx, mCtrs, -, -⟩ := s.mgmtTaken_keeps ((s.frameKept lane bad fails o x).followed s.now o.header) o.mgmt
  exact ⟨mState.trans state, mRx.trans rx, mCtrs.trans ctrs, fun _ verify opens => (s.frameTaken_verify x lane bad fails o verify opens).1,
    fun _ verify opens => (s.frameTaken_verify x lane bad fails o verify opens).2,
    fun _ up accepted => s.frameTaken_masks x lane bad fails o up accepted, s.frameTaken_bad x lane bad fails o⟩

end

/-! ## Slices brought -/

/-- A lane carries slices. -/
def FabPort.carries (x : FabPort) (lane : LaneNo) : Bool := decide (x.lanes[lane] = .active) || decide (x.lanes[lane] = .usable)

section
variable {x : FabPort} {now : Nat} {lane : LaneNo} {o : Opened}

theorem FabPort.carries_of (h : x.lanes[lane] = .active ∨ x.lanes[lane] = .usable) : x.carries lane = true := by
  unfold FabPort.carries
  obtain h | h := h <;> rw [h] <;> rfl

theorem FabPort.not_carries_of (active : x.lanes[lane] ≠ .active) (usable : x.lanes[lane] ≠ .usable) : x.carries lane = false := by
  unfold FabPort.carries
  rw [decide_eq_false active, decide_eq_false usable]
  rfl

theorem FabPort.regain_carries (x : FabPort) (m : BitVec 8) (now : Nat) (lane : LaneNo) :
    (x.regain m now).carries lane = x.carries lane := by
  unfold FabPort.carries
  rw [FabPort.regain_lane]
  unfold FabPort.back
  generalize x.lanes[lane] = before
  generalize m.getLsbD lane.val = signal
  cases signal <;> cases before <;> rfl

theorem FabPort.brought_none (quiet : (maskUnder x o.header).getLsbD lane.val = false) : x.brought now lane o = [] := by
  unfold FabPort.brought
  split
  · rw [FabPort.slices_eq]
    exact if_neg (by rw [← Bool.not_eq_true] at quiet; exact quiet)
  · rfl

theorem FabPort.brought_slice {v : Option (List Byte)} {u at_ : Nat} (up : x.state = .up)
    (carried : (maskUnder x o.header).getLsbD lane.val = true) (slot : (v, u) ∈ o.slots.zipIdx)
    (due : at_ = x.placedAt now o.header + 64 * u + x.rxDelay) :
    ({ at_ := at_, mask := maskUnder x o.header, lane := lane, unit := u
       bytes := if x.carries lane = true ∧ now ≤ at_ then v else none } : SliceRx) ∈ x.brought now lane o := by
  have slices : x.brought now lane o = (x.regain (laneBit lane) now).slices now lane o := if_pos up
  rw [slices, FabPort.slices_eq, if_pos (show (maskUnder (x.regain (laneBit lane) now) o.header).getLsbD lane.val = true from carried)]
  refine List.mem_map.2 ⟨(v, u), slot, ?_⟩
  have carries := x.regain_carries (laneBit lane) now lane
  unfold FabPort.carries at carries ⊢
  rw [carries, due]
  rfl

end

section
variable {s : State} {p : FabricPort} {lane : LaneNo} {r : LineRx} {k : LaneFrame} {key : BitVec 256}

theorem State.trafficOp_heard (keyed : s.fab[p].rxKey = some key) (hears : s.fab[p].state = .up ∨ s.fab[p].state = .verify) :
    ∃ (t : State) (y : FabPort), s.trafficOp p lane r k = t ∧ y.readsFrom s.fab[p] s lane (openFrame key lane r k) ∧
      t.fab[p] = y.lineCounted (lineCorrected r)
        (lineUncorrectable r + ((unitsOfFrame k).filter fun u => falseCorrection key lane r k.header u).length)
        ((unitsOfFrame k).filter fun u => authFailed key lane r k.header u).length ∧
      t = { s with fab := s.fab.set p t.fab[p] } := by
  have op := s.trafficOp_eq (p := p) (lane := lane) (r := r) (k := k)
  rw [keyed] at op
  generalize hf : ((unitsOfFrame k).filter fun u => authFailed key lane r k.header u).length = fails
  generalize hb : lineUncorrectable r + ((unitsOfFrame k).filter fun u => falseCorrection key lane r k.header u).length = bad
  obtain ⟨t, run, port, -, frame⟩ := s.onFab_result p fun x =>
    (s.frameTaken lane (lineUncorrectable r) fails (openFrame key lane r k) x).lineCounted (lineCorrected r) bad fails
  refine ⟨t, _, ?_, s.frameTaken_reads s.fab[p] lane (lineUncorrectable r) fails (openFrame key lane r k), port, frame⟩
  refine op.trans ((if_neg fun deaf => hears.elim deaf.1 deaf.2).trans ?_)
  rw [hf, hb, State.countLine, s.onFab_onFab p]
  exact run

theorem FabPort.readsFrom.slice {y : FabPort} {u at_ : Nat} {x : LaneUnit} {header : Option LaneHeader} {mask : BitVec 8}
    (reads : y.readsFrom s.fab[p] s lane (openFrame key lane r k)) (up : s.fab[p].state = .up)
    (header_eq : (openFrame key lane r k).header = header) (mask_eq : maskUnder s.fab[p] header = mask)
    (carried : mask.getLsbD lane.val = true) (unit : k.units[u]? = some x)
    (due : at_ = s.fab[p].placedAt s.now header + 64 * u + s.fab[p].rxDelay) :
    ({ at_ := at_, mask := mask, lane := lane, unit := u
       bytes := if s.fab[p].carries lane = true ∧ s.now ≤ at_ then openUnit key lane r k.header u x else none } : SliceRx) ∈ y.rx := by
  subst header_eq mask_eq
  rw [reads.rx]
  exact List.mem_append_right _ (FabPort.brought_slice up carried (openFrame_slot unit) due)

theorem FabPort.readsFrom.rx_quiet {y : FabPort} (reads : y.readsFrom s.fab[p] s lane (openFrame key lane r k))
    (quiet : s.fab[p].brought s.now lane (openFrame key lane r k) = []) :
    y.rx = s.fab[p].rx.filter fun r => decide (s.now < r.at_ + 64) := by
  rw [reads.rx, quiet, List.append_nil]

end

/-! ## Lanes lost and usable again -/

/-- A lane that carried slices and is lost. -/
def lostFrom (state : LaneState) : LaneState := if state = .active ∨ state = .usable then .lost else state

/-- A port without a lane that it had. -/
def FabPort.without (x : FabPort) (lane : LaneNo) (now : Nat) : FabPort :=
  let y : FabPort := { x with
    lanes := x.lanes.set lane (lostFrom x.lanes[lane]), request := x.request &&& ~~~(laneBit lane)
    cleanSince := x.cleanSince.set lane now }
  { y with goDown := y.goDown || y.short }

/-- A port that loses a lane, and counts it. -/
def FabPort.losing (x : FabPort) (lane : LaneNo) (now : Nat) : FabPort :=
  { x.without lane now with ctrs := x.ctrs.set 3 ((x.ctrs[3] : Ctr).add 1) }

/-- A lane can carry no slices, or has lost too many. -/
def State.laneFails (s : State) (p : FabricPort) (lane : LaneNo) : Bool :=
  decide (s.fab[p].lanes[lane] = .noSignal ∨ s.fab[p].lanes[lane] = .training) ||
    decide (4 ≤ (s.recentUncorr s.fab[p].uncorr[lane]).length)

section
variable {s : State} {p : FabricPort} {lane : LaneNo}

theorem State.laneLostOp_loses (up : s.fab[p].state = .up) (asked : s.fab[p].request.getLsbD lane.val = true)
    (fails : s.laneFails p lane = true) :
    ∃ detail, s.laneLostOp p lane = (s.onFab p fun x => x.losing lane s.now).log1 0x0701 none none none detail := by
  have loses : ¬(s.fab[p].state ≠ .up ∨ (!s.laneFails p lane) = true ∨ (!s.fab[p].request.getLsbD lane.val) = true) := by
    rw [fails, asked]
    rintro (down | no | no)
    · exact down up
    · cases no
    · cases no
  exact ⟨(s.onFab p fun x => x.without lane s.now).portDetail p, (if_neg loses).trans (congrArg
    (fun u : State => u.log1 0x0701 none none none ((s.onFab p fun x => x.without lane s.now).portDetail p))
    (s.countFab_onFab p (fun x => x.without lane s.now) 3 1))⟩

theorem State.laneLostOp_keeps (kept : s.fab[p].state ≠ .up ∨ s.laneFails p lane = false ∨ s.fab[p].request.getLsbD lane.val = false) :
    s.laneLostOp p lane = s := by
  refine if_pos ?_
  obtain down | sound | unasked := kept
  · exact .inl down
  · exact .inr (.inl (congrArg Bool.not sound))
  · exact .inr (.inr (congrArg Bool.not unasked))

theorem FabPort.losing_lane (x : FabPort) (lane : LaneNo) (now : Nat) : (x.losing lane now).lanes[lane] = lostFrom x.lanes[lane] :=
  Vector.getElem_set_self _

theorem FabPort.losing_request (x : FabPort) (lane : LaneNo) (now : Nat) : (x.losing lane now).request.getLsbD lane.val = false := by
  show (x.request &&& ~~~(laneBit lane)).getLsbD lane.val = false
  rw [BitVec.getLsbD_and, BitVec.getLsbD_not, laneBit_self]
  simp

theorem FabPort.losing_other (x : FabPort) {lane l : LaneNo} (now : Nat) (other : l ≠ lane) :
    (x.losing lane now).lanes[l] = x.lanes[l] ∧ (x.losing lane now).request.getLsbD l.val = x.request.getLsbD l.val := by
  refine ⟨set_get_other _ _ _ _ other, ?_⟩
  show (x.request &&& ~~~(laneBit lane)).getLsbD l.val = _
  rw [BitVec.getLsbD_and, BitVec.getLsbD_not, laneBit_other other, decide_eq_true l.isLt]
  simp

end

/-- Settles O48: a traffic frame is opened, its slices kept and its header followed, and lanes are lost and usable again. -/
theorem trafficAndLanes : Obligations.TrafficAndLanes := by
  unfold Obligations.TrafficAndLanes
  refine ⟨fun s p lane r k => ⟨fun deaf => exec_next (t := s.trafficOp p lane r k) (State.trafficOp_deaf deaf),
      fun key good keyed opens hears => ?_⟩,
    fun s p lane => ⟨exec_next (t := s.signalLossOp p lane) rfl, fun up asked gone => ?_, fun kept => ?_, fun up training signal clean => ?_,
      fun waits => ?_⟩⟩
  · obtain ⟨t, y, op, reads, port, frame⟩ := State.trafficOp_heard (lane := lane) (r := r) (k := k) keyed hears
    have accepted : good → (openFrame key lane r k).header = some k.header := fun h => openFrame_header_opens (opens.1 h)
    have missed : ¬good → ¬someUnitOpens key lane r k := fun h any => h (opens.2 any)
    refine ⟨t, exec_next (t := s.trafficOp p lane r k) op, frame, ?_⟩
    obtain ⟨corrected, uncorrectable, failed⟩ := y.lineCounted_ctrs (lineCorrected r)
      (lineUncorrectable r + ((unitsOfFrame k).filter fun u => falseCorrection key lane r k.header u).length)
      ((unitsOfFrame k).filter fun u => authFailed key lane r k.header u).length
    rw [reads.ctrs] at corrected uncorrectable failed
    rw [port]
    refine ⟨reads.state, corrected, uncorrectable, failed,
      fun verify => ⟨?_, fun tx unit => ⟨reads.hello tx verify unit, reads.measured tx verify unit⟩⟩,
      fun up => ⟨fun u x at_ unit ok carried due => ⟨fun carries => ?_, fun idle unusable => ?_⟩,
      fun u x at_ unit bad carried due => ?_, fun quiet => ?_, fun ok => reads.masks _ up (accepted ok),
      fun bad => reads.refused (openFrame_header_fails (missed bad)) (openFrame_mgmt_fails (missed bad))⟩⟩
    · exact reads.rx_quiet (if_neg (by rw [verify]; decide))
    · have slice := reads.slice up (accepted ok) rfl carried unit due
      simp only [FabPort.carries_of carries, true_and] at slice
      exact slice
    · have slice := reads.slice up (accepted ok) rfl carried unit due
      simp only [FabPort.not_carries_of idle unusable, Bool.false_eq_true, false_and, if_false] at slice
      exact slice
    · have slice := reads.slice up (openFrame_header_fails (missed bad)) rfl carried unit due
      simp only [unit_fails (missed bad) unit, ite_self] at slice
      exact slice
    · refine reads.rx_quiet (FabPort.brought_none ?_)
      obtain ⟨ok, off⟩ | ⟨bad, off⟩ := quiet
      · rw [accepted ok]
        exact off
      · rw [openFrame_header_fails (missed bad)]
        exact off
  · have fails : s.laneFails p lane = true := by
      unfold State.laneFails
      rw [Bool.or_eq_true, decide_eq_true_iff, decide_eq_true_iff, or_assoc]
      exact gone
    obtain ⟨detail, op⟩ := State.laneLostOp_loses up asked fails
    obtain ⟨t, run, port, frame⟩ := s.onFab_log1 p (fun x => x.losing lane s.now) 0x0701 detail
    refine ⟨t, exec_next (t := s.laneLostOp p lane) (op.trans run), ?_⟩
    rw [port]
    refine ⟨fun carried => ?_, fun idle => ?_, s.fab[p].losing_request lane s.now, fun l other => s.fab[p].losing_other s.now other,
      Vector.getElem_set_self _, port ▸ frame⟩
    · rw [FabPort.losing_lane]
      exact if_pos carried
    · rw [FabPort.losing_lane]
      refine if_neg ?_
      obtain h | h := idle <;> rw [h] <;> decide
  · refine exec_next (t := s.laneLostOp p lane) (State.laneLostOp_keeps ?_)
    obtain down | unasked | ⟨noSignal, training, few⟩ := kept
    · exact .inl down
    · exact .inr (.inr unasked)
    · refine .inr (.inl ?_)
      unfold State.laneFails
      rw [decide_eq_false (not_or.2 ⟨noSignal, training⟩), decide_eq_false (Nat.not_le.2 few)]
      rfl
  · exact exec_next (t := s.laneUsableOp p lane) (if_pos ⟨up, training, signal, clean⟩)
  · refine exec_next (t := s.laneUsableOp p lane) (if_neg fun all => ?_)
    obtain ⟨up, training, signal, clean⟩ := all
    obtain h | h | h | h := waits
    · exact h up
    · exact h training
    · rw [h] at signal
      cases signal
    · omega

end Sys2Proof.Machine


/-! Ethernet ports, telemetry, outgoing and feed frames (O51). -/

namespace Sys2Proof.Machine

/-! ## Changes of one plant port -/

theorem plantPort_cases : ∀ p : PlantPort, p = 0 ∨ p = 1 := by decide

section
variable {s : State} {p : PlantPort}

theorem State.onPl_set (g : PlPort → PlPort) : s.onPl p g = { s with pl := s.pl.set p (g s.pl[p]) } := rfl

theorem State.onPl_same {g : PlPort → PlPort} (same : g s.pl[p] = s.pl[p]) : s.onPl p g = s := by
  have pl : s.pl.set p s.pl[p] = s.pl := Vector.set_getElem_self _
  rw [State.onPl_set, same, pl]

theorem State.onSt_same {p : StreamPort} {g : StPort → StPort} (same : g s.st[p] = s.st[p]) : s.onSt p g = s := by
  have st : s.st.set p s.st[p] = s.st := Vector.set_getElem_self _
  rw [State.onSt_set, same, st]

/-- A plant port with one counter raised. -/
def PlPort.counted (x : PlPort) (k : Fin 6) : PlPort := { x with ctrs := x.ctrs.set k ((x.ctrs[k] : Ctr).add 1) }

theorem State.countPl_set (k : Fin 6) : s.countPl p k 1 = { s with pl := s.pl.set p (s.pl[p].counted k) } := rfl

end

/-! ## Addresses and links -/

section
variable {s : State} {v6 : Bool} {a : BitVec 128}

theorem State.neighbourOp_st {p : StreamPort} {f : FoldNo} {r : StreamRec} (cfg : s.st[p].cfg = some (f, r)) :
    s.neighbourOp (.st p) v6 a = if s.st[p].up ∧ r.ipv6 = v6 ∧ a = r.local_ then
      s.onSt p fun x => { x with neighbourReplies := x.neighbourReplies + 1 } else s := by
  unfold State.neighbourOp
  dsimp only
  rw [cfg]

theorem State.neighbourOp_st_none {p : StreamPort} (cfg : s.st[p].cfg = none) : s.neighbourOp (.st p) v6 a = s := by
  unfold State.neighbourOp
  dsimp only
  rw [cfg]

theorem State.neighbourOp_pl {p : PlantPort} {r : PlantRec} (rec : s.plantRec p = some r) :
    s.neighbourOp (.pl p) v6 a = if s.pl[p].up ∧ r.ipv6 = v6 ∧ a = r.local_ then
      s.onPl p fun x => { x with neighbourReplies := x.neighbourReplies + 1 } else s := by
  unfold State.neighbourOp
  dsimp only
  rw [rec]

theorem State.neighbourOp_pl_none {p : PlantPort} (rec : s.plantRec p = none) : s.neighbourOp (.pl p) v6 a = s := by
  unfold State.neighbourOp
  dsimp only
  rw [rec]

theorem State.linkUpOp_pl {p : PlantPort} {m : EthMode} {r : PlantRec} (rec : s.plantRec p = some r) :
    s.linkUpOp (.pl p) m = if r.enabled then s.onPl p fun x => { x with up := true, mode := m } else s := by
  unfold State.linkUpOp
  dsimp only
  rw [rec]

theorem State.linkUpOp_pl_none {p : PlantPort} {m : EthMode} (rec : s.plantRec p = none) : s.linkUpOp (.pl p) m = s := by
  unfold State.linkUpOp
  dsimp only
  rw [rec]

/-- A question for an address that is not the port's, or at a port without a link. -/
theorem unasked {up : Bool} {own v6 : Bool} {mine a : BitVec 128} (h : up = false ∨ own ≠ v6 ∨ a ≠ mine) :
    ¬(up = true ∧ own = v6 ∧ a = mine) := by
  rintro ⟨linked, version, address⟩
  obtain h | h | h := h
  · rw [h] at linked
    cases linked
  · exact h version
  · exact h address

end

/-! ## Frames not accepted -/

section
variable {s : State} {p : PlantPort} {e : EthFrame}

theorem State.plantInvalid_down (down : s.pl[p].up = false) : s.plantInvalid p e = s :=
  if_neg (by rw [down]; exact Bool.false_ne_true)

theorem State.plantInvalid_cause {k : Fin 6} (up : s.pl[p].up = true) (cause : s.plantCause p e = some k) :
    s.plantInvalid p e = s.countPl p k 1 := by
  unfold State.plantInvalid
  rw [cause]
  exact if_pos up

theorem State.plantInvalid_sound (sound : s.plantCause p e = none) : s.plantInvalid p e = s := by
  unfold State.plantInvalid
  rw [sound]
  exact ite_self s

theorem State.feedOp_down (down : s.pl[p].up = false) : s.feedOp p e = s := if_pos (congrArg Bool.not down)

/-- A feed frame that is accepted, for the fold in replay mode of its tag. -/
def State.fedBy (s : State) (p : PlantPort) (b : List Byte) : Option FoldNo → State
  | none => s.countPl p 2 1
  | some f =>
    let q := s.folds[f].replay.feedBytes (beAt b 24 8) (b.drop 32)
    let r := q.1.takeRecords s.tick.number.toNat
    ((s.onFold f fun x => { x with replay := r.1 }).countFold f 22 r.2).countPl p 5 q.2

/-- The fold that a feed frame is for. -/
def State.fedFold (s : State) (b : List Byte) : Option FoldNo :=
  (s.foldByTag (BitVec.ofNat 16 (beAt b 2 2))).filter fun f => s.folds[f].replay.on && decide (beAt b 1 1 = 4)

theorem State.feedOp_cause {k : Fin 6} (up : s.pl[p].up = true) (cause : s.plantCause p e = some k) :
    s.feedOp p e = s.countPl p k 1 := by
  unfold State.feedOp
  rw [cause]
  exact if_neg (by rw [up]; exact Bool.false_ne_true)

theorem State.feedOp_sound (up : s.pl[p].up = true) (sound : s.plantCause p e = none) :
    s.feedOp p e = s.fedBy p e.payload (s.fedFold e.payload) := by
  unfold State.feedOp
  rw [sound]
  exact if_neg (by rw [up]; exact Bool.false_ne_true)

theorem State.fedFold_none {b : List Byte} (h : s.foldByTag (BitVec.ofNat 16 (beAt b 2 2)) = none ∨ beAt b 1 1 ≠ 4 ∨
    ∃ f, s.foldByTag (BitVec.ofNat 16 (beAt b 2 2)) = some f ∧ s.folds[f].replay.on = false) : s.fedFold b = none := by
  unfold State.fedFold
  obtain none | other | ⟨f, tagged, off⟩ := h
  · rw [none]
    rfl
  · rw [decide_eq_false other]
    simp
  · rw [tagged]
    have quiet : (s.folds[f].replay.on && decide (beAt b 1 1 = 4)) = false := by rw [off]; rfl
    exact if_neg fun takes => Bool.false_ne_true (quiet.symm.trans takes)

theorem State.fedFold_some {b : List Byte} {f : FoldNo} (tagged : s.foldByTag (BitVec.ofNat 16 (beAt b 2 2)) = some f)
    (on : s.folds[f].replay.on = true) (feed : beAt b 1 1 = 4) : s.fedFold b = some f := by
  unfold State.fedFold
  rw [tagged]
  have takes : (s.folds[f].replay.on && decide (beAt b 1 1 = 4)) = true := by rw [on, decide_eq_true feed]; rfl
  exact if_pos takes

theorem State.fedBy_some (b : List Byte) (f : FoldNo) : ∃ t, s.fedBy p b (some f) = t ∧
    t.folds[f].replay = ((s.folds[f].replay.feedBytes (beAt b 24 8) (b.drop 32)).1.takeRecords s.tick.number.toNat).1 ∧
    (∀ g : FoldNo, g ≠ f → t.folds[g] = s.folds[g]) ∧ t = { s with folds := t.folds, pl := t.pl } := by
  unfold State.fedBy
  dsimp only
  generalize s.folds[f].replay.feedBytes (beAt b 24 8) (b.drop 32) = q
  generalize q.1.takeRecords s.tick.number.toNat = r
  unfold State.countFold
  rw [State.onFold_onFold]
  refine ⟨_, rfl, ?_, fun g other => ?_, rfl⟩
  · exact congrArg Fold.replay (vmod_get_self s.folds f _)
  · exact vmod_get_other s.folds f g _ other

end

/-! ## Telemetry -/

/-- Telemetry leaves on a port now. -/
def State.telemetryDue (s : State) (m : ModuleSection) (p : PlantPort) : Bool :=
  m.telemetryPorts.getLsbD p.val && s.plantOpen p && s.plantFits p s.telemetry.length &&
    !(s.pl[p].sent.any fun k => decide (k.kind = 2))

/-- The telemetry frame of a port. -/
def State.telemetryFrame (s : State) (p : PlantPort) : PlantFrame :=
  { kind := 2, tag := 0xFFFF, hallModule := s.hallNo, number := s.pl[p].numTelemetry
    tick := BitVec.ofNat 48 (beAt s.telemetry 0 8), pen := 0, flags := 0, imageId := 0, offset := 0, startAt := s.rel
    payload := s.telemetry, marks := [] }

/-- A plant port after its turn to send telemetry. -/
def State.telemetryAt (s : State) (m : ModuleSection) (p : PlantPort) : PlPort :=
  if s.telemetryDue m p then
    { s.pl[p] with sent := s.pl[p].sent ++ [s.telemetryFrame p], numTelemetry := s.pl[p].numTelemetry + 1 }
  else s.pl[p]

/-- The turn of a plant port. -/
def State.telemetryTurn (s : State) (m : ModuleSection) (p : PlantPort) : State :=
  if s.telemetryDue m p then (s.sendPlant p (s.telemetryFrame p)).onPl p fun x => { x with numTelemetry := x.numTelemetry + 1 } else s

section
variable {s : State} {m : ModuleSection}

theorem State.telemetryOp_eq (sec : s.sec? = some m) : s.telemetryOp =
    if m.telemetryEvery = 0 ∨ s.tick.number.toNat % max 1 m.telemetryEvery ≠ 0 ∨ s.telemetry.isEmpty then s
    else (s.telemetryTurn m 0).telemetryTurn m 1 := by
  unfold State.telemetryOp
  rw [sec]
  rfl

theorem State.telemetryOp_none (sec : s.sec? = none) : s.telemetryOp = s := by
  unfold State.telemetryOp
  rw [sec]

theorem State.telemetryTurn_eq (p : PlantPort) : s.telemetryTurn m p = { s with pl := s.pl.set p (s.telemetryAt m p) } := by
  unfold State.telemetryTurn State.telemetryAt
  split
  · unfold State.sendPlant
    rw [State.onPl_set, State.onPl_set]
    dsimp only
    rw [Vector.set_set]
    simp
  · have pl : s.pl.set p s.pl[p] = s.pl := Vector.set_getElem_self _
    rw [pl]

/-- Telemetry of a port turns on that port alone. -/
theorem State.telemetryAt_congr {ports : Vector PlPort 2} {p : PlantPort} (same : ports[p] = s.pl[p]) :
    State.telemetryAt { s with pl := ports } m p = s.telemetryAt m p := by
  have open_ : State.plantOpen { s with pl := ports } p = s.plantOpen p := by
    unfold State.plantOpen
    dsimp only
    rw [same]
    rfl
  have fits : State.plantFits { s with pl := ports } p s.telemetry.length = s.plantFits p s.telemetry.length := by
    unfold State.plantFits
    dsimp only
    rw [same]
    rfl
  unfold State.telemetryAt State.telemetryDue State.telemetryFrame
  dsimp only
  rw [open_, fits, same]
  rfl

/-- Each plant port has had its turn. -/
structure State.telemetered (t s : State) (m : ModuleSection) : Prop where
  frame : t = { s with pl := t.pl }
  port : ∀ p : PlantPort, t.pl[p] = s.telemetryAt m p

theorem State.telemetryTurns_telemetered : ((s.telemetryTurn m 0).telemetryTurn m 1).telemetered s m := by
  rw [s.telemetryTurn_eq 0, State.telemetryTurn_eq 1]
  have other : ∀ {v : Vector PlPort 2} {x : PlPort} {p q : PlantPort}, q ≠ p → (v.set p x)[q] = v[q] :=
    fun h => set_get_other _ _ _ _ h
  rw [State.telemetryAt_congr (p := 1) (other (by decide))]
  refine ⟨rfl, fun p => ?_⟩
  obtain rfl | rfl := plantPort_cases p
  · exact (other (by decide)).trans (Vector.getElem_set_self _)
  · exact Vector.getElem_set_self _

theorem State.telemetryDue_early {p : PlantPort} (early : s.rel < 8000) : s.telemetryDue m p = false := by
  unfold State.telemetryDue State.plantFits plantFrom
  rw [decide_eq_false (Nat.not_le.2 early)]
  simp

theorem State.telemetryTurn_still {p : PlantPort} (still : s.telemetryDue m p = false) : s.telemetryTurn m p = s :=
  if_neg (by rw [still]; exact Bool.false_ne_true)

theorem State.telemetryDue_stays {p : PlantPort} (stays : m.telemetryPorts.getLsbD p.val = false ∨ s.plantOpen p = false ∨
    (∃ k, k ∈ s.pl[p].sent ∧ k.kind = 2) ∨ s.period < s.rel + s.plantCycles p s.telemetry.length 0) : s.telemetryDue m p = false := by
  unfold State.telemetryDue State.plantFits
  obtain h | h | ⟨k, sent, kind⟩ | late := stays
  · rw [h]
    simp
  · rw [h]
    simp
  · have any : (s.pl[p].sent.any fun k => decide (k.kind = 2)) = true := List.any_eq_true.2 ⟨k, sent, decide_eq_true kind⟩
    rw [any]
    simp
  · rw [decide_eq_false (Nat.not_le.2 late)]
    simp

theorem State.telemetryDue_now {p : PlantPort} (named : m.telemetryPorts.getLsbD p.val = true) (opens : s.plantOpen p = true)
    (first : ∀ k, k ∈ s.pl[p].sent → k.kind ≠ 2) (late : 8000 ≤ s.rel)
    (fits : s.rel + s.plantCycles p s.telemetry.length 0 ≤ s.period)
    (done : ∀ k, k ∈ s.pl[p].sent → k.startAt + s.plantCycles p k.payload.length k.marks.length ≤ s.rel) :
    s.telemetryDue m p = true := by
  have any : (s.pl[p].sent.any fun k => decide (k.kind = 2)) = false :=
    List.any_eq_false.2 fun k sent => by rw [decide_eq_true_iff]; exact first k sent
  have all : (s.pl[p].sent.all fun k => decide (k.startAt + s.plantCycles p k.payload.length k.marks.length ≤ s.rel)) = true :=
    List.all_eq_true.2 fun k sent => decide_eq_true (done k sent)
  unfold State.telemetryDue State.plantFits plantFrom
  rw [named, opens, any, all, decide_eq_true late, decide_eq_true fits]
  rfl

end

/-! ## Record stream -/

/-- A plant port has room for bytes of a record stream. -/
def State.exportRoom (s : State) (bs : List Byte) (p : PlantPort) : Bool :=
  s.plantOpen p && s.plantFits p bs.length && !s.telemetryWaits p

/-- The number of an image in the frames of its fold. -/
def imageNumber : Option FoldImage → BitVec 32
  | some i => BitVec.ofNat 32 (i.measurement.toNat / 2 ^ 352)
  | none => 0

/-- The frame that takes a fold's bytes out. -/
def State.exportFrame (s : State) (f : FoldNo) (a : Allot) (bs : List Byte) (p : PlantPort) : PlantFrame :=
  { kind := 3, tag := a.tag, hallModule := s.hallNo, number := s.pl[p].numExport, tick := 0, pen := 0, flags := 0
    imageId := imageNumber s.folds[f].image
    offset := BitVec.ofNat 64 s.folds[f].replay.outAt, startAt := s.rel, payload := bs, marks := [] }

/-- A fold whose bytes of the record stream have left. -/
def Fold.exported (x : Fold) (n : Nat) : Fold :=
  { x with replay := { x.replay with out := x.replay.out.drop n, outAt := x.replay.outAt + n } }

/-- Record bytes of a fold leave on the port that has room for them. -/
def State.exportOn (s : State) (f : FoldNo) (bs : List Byte) : Option PlantPort → Option Allot → State
  | some p, some a =>
    if bs.isEmpty then s
    else ((s.sendPlant p (s.exportFrame f a bs p)).onPl p fun x => { x with numExport := x.numExport + 1 }).onFold f fun x =>
      x.exported bs.length
  | _, _ => s

section
variable {s : State} {f : FoldNo} {bs : List Byte}

theorem State.exportOp_eq (out : bs = s.folds[f].replay.out.take 8192) :
    s.exportOp f = s.exportOn f bs ((List.finRange 2).find? (s.exportRoom bs)) s.folds[f].allot := by
  subst out
  unfold State.exportOp State.exportOn
  exact rfl

theorem State.exportOn_none (a : Option Allot) : s.exportOn f bs none a = s := rfl

theorem State.exportOn_free (p : Option PlantPort) : s.exportOn f bs p none = s := by cases p <;> rfl

theorem State.exportOn_empty (p : Option PlantPort) (a : Option Allot) : s.exportOn f [] p a = s := by
  cases p <;> cases a <;> rfl

theorem State.exportRoom_early {p : PlantPort} (early : s.rel < 8000) : s.exportRoom bs p = false := by
  unfold State.exportRoom State.plantFits plantFrom
  rw [decide_eq_false (Nat.not_le.2 early)]
  simp

theorem firstRoom_none {room : PlantPort → Bool} (full : ∀ p, room p = false) : (List.finRange 2).find? room = none :=
  List.find?_eq_none.2 fun p _ => by rw [full p]; exact Bool.false_ne_true

theorem firstRoom_some {room : PlantPort → Bool} {p : PlantPort} (here : room p = true) (before : ∀ q : PlantPort, q < p → room q = false) :
    (List.finRange 2).find? room = some p := by
  have list : List.finRange 2 = [0, 1] := rfl
  rw [list]
  obtain rfl | rfl := plantPort_cases p
  · exact List.find?_cons_of_pos here
  · rw [List.find?_cons_of_neg (by rw [before 0 (by decide)]; exact Bool.false_ne_true)]
    exact List.find?_cons_of_pos here

end

theorem State.exportOn_sends {s : State} {f : FoldNo} {bs : List Byte} {p : PlantPort} {a : Allot} (any : bs ≠ []) :
    s.exportOn f bs (some p) (some a) = { s with
      pl := s.pl.set p { s.pl[p] with sent := s.pl[p].sent ++ [s.exportFrame f a bs p], numExport := s.pl[p].numExport + 1 }
      folds := s.folds.set f (s.folds[f].exported bs.length) } := by
  refine (if_neg (by rw [List.isEmpty_iff]; exact any)).trans ?_
  unfold State.sendPlant
  rw [State.onPl_set, State.onPl_set]
  dsimp only
  rw [Vector.set_set]
  unfold State.onFold vmod
  simp

/-- Settles O51: ports answer for their own address and link under their conditions, frames not accepted are counted, and telemetry,
record and feed frames go where they are due. -/
theorem plantPortsAndTelemetry : Obligations.PlantPortsAndTelemetry := by
  unfold Obligations.PlantPortsAndTelemetry
  refine ⟨⟨fun s p f r v6 a c asks cfg => ?_, fun s p a c asks cfg => ?_, fun s p a m c asks rec => ?_, fun s p r v6 a c asks rec => ?_,
      fun s p m => ⟨fun enabled cfg => ?_, fun idle => ?_, exec_next (t := s.linkLossOp (.st p)) rfl, fun down => ?_, fun up => ?_⟩,
      fun s p m => ⟨fun r rec => ?_, exec_next (t := s.linkLossOp (.pl p)) rfl, fun down => ?_, fun up => ?_⟩,
      fun s p e c frames => ⟨fun down => ?_, fun k up cause => ?_⟩⟩,
    fun s m sec => ⟨fun still => ?_, fun every off => ?_, fun late every turn any => ?_⟩,
    fun s sec => exec_next (t := s.telemetryOp) (State.telemetryOp_none sec),
    fun s f => ⟨fun still => ?_, fun a bs allot out any => ⟨fun p here before => ?_, fun full => ?_⟩⟩,
    fun s p e up sound => ⟨fun stray => ?_, exec_next (t := s.plantInvalid p e) (State.plantInvalid_sound sound), fun f q tagged on feed fed => ?_⟩⟩
  · have op : exec c s = .next (s.neighbourOp (.st p) v6 a) := by
      rw [List.mem_cons, List.mem_singleton] at asks
      obtain h | h := asks <;> cases h <;> rfl
    rw [op, State.neighbourOp_st cfg]
    exact ⟨fun linked version address => congrArg Host.Outcome.next (if_pos ⟨linked, version, address⟩),
      fun h => congrArg Host.Outcome.next (if_neg (unasked h))⟩
  · rw [List.mem_cons, List.mem_singleton] at asks
    obtain rfl | rfl := asks
    · exact exec_next (t := s.neighbourOp (.st p) false a) (State.neighbourOp_st_none cfg)
    · exact exec_next (t := s.neighbourOp (.st p) true a) (State.neighbourOp_st_none cfg)
  · rw [List.mem_cons, List.mem_cons, List.mem_singleton] at asks
    obtain rfl | rfl | rfl := asks
    · exact exec_next (t := s.neighbourOp (.pl p) false a) (State.neighbourOp_pl_none rec)
    · exact exec_next (t := s.neighbourOp (.pl p) true a) (State.neighbourOp_pl_none rec)
    · exact exec_next (t := s.linkUpOp (.pl p) m) (State.linkUpOp_pl_none rec)
  · have op : exec c s = .next (s.neighbourOp (.pl p) v6 a) := by
      rw [List.mem_cons, List.mem_singleton] at asks
      obtain h | h := asks <;> cases h <;> rfl
    rw [op, State.neighbourOp_pl rec]
    exact ⟨fun linked version address => congrArg Host.Outcome.next (if_pos ⟨linked, version, address⟩),
      fun h => congrArg Host.Outcome.next (if_neg (unasked h))⟩
  · exact exec_next (t := s.linkUpOp (.st p) m) (if_pos ⟨enabled, cfg⟩)
  · refine exec_next (t := s.linkUpOp (.st p) m) (if_neg fun both => ?_)
    obtain ⟨enabled, cfg⟩ := both
    obtain h | h := idle
    · rw [h] at enabled
      cases enabled
    · rw [h] at cfg
      cases cfg
  · have still : ¬s.st[p].up = true := by rw [down]; exact Bool.false_ne_true
    exact exec_next (t := s.autonegOp (.st p)) (congrArg (fun x => { s with st := s.st.set p x }) (if_neg still))
  · exact exec_next (t := s.autonegOp (.st p)) (State.onSt_same (if_pos up))
  · refine ⟨fun enabled => ?_, fun disabled => ?_⟩
    · exact exec_next (t := s.linkUpOp (.pl p) m) ((State.linkUpOp_pl rec).trans (if_pos enabled))
    · exact exec_next (t := s.linkUpOp (.pl p) m) ((State.linkUpOp_pl rec).trans (if_neg (by rw [disabled]; exact Bool.false_ne_true)))
  · have still : ¬s.pl[p].up = true := by rw [down]; exact Bool.false_ne_true
    exact exec_next (t := s.autonegOp (.pl p)) (congrArg (fun x => { s with pl := s.pl.set p x }) (if_neg still))
  · exact exec_next (t := s.autonegOp (.pl p)) (State.onPl_same (if_pos up))
  · obtain rfl | rfl := frames
    · exact exec_next (t := s.plantInvalid p e) (State.plantInvalid_down down)
    · exact exec_next (t := s.feedOp p e) (State.feedOp_down down)
  · obtain rfl | rfl := frames
    · exact exec_next (t := s.plantInvalid p e) (State.plantInvalid_cause up cause)
    · exact exec_next (t := s.feedOp p e) (State.feedOp_cause up cause)
  · refine exec_next (t := s.telemetryOp) ((State.telemetryOp_eq sec).trans ?_)
    split
    · rfl
    next sends =>
      obtain early | never | empty := still
      · rw [State.telemetryTurn_still (State.telemetryDue_early early), State.telemetryTurn_still (State.telemetryDue_early early)]
      · exact absurd (.inl never) sends
      · exact absurd (.inr (.inr (by rw [empty]; rfl))) sends
  · refine exec_next (t := s.telemetryOp) ((State.telemetryOp_eq sec).trans (if_pos (.inr (.inl ?_))))
    rw [Nat.max_eq_right every]
    exact off
  · have sends : ¬(m.telemetryEvery = 0 ∨ s.tick.number.toNat % max 1 m.telemetryEvery ≠ 0 ∨ s.telemetry.isEmpty = true) := by
      rw [Nat.max_eq_right every, List.isEmpty_iff]
      rintro (never | off | empty)
      · omega
      · exact off turn
      · exact any empty
    obtain ⟨frame, port⟩ := s.telemetryTurns_telemetered (m := m)
    refine ⟨_, exec_next (t := s.telemetryOp) ((State.telemetryOp_eq sec).trans (if_neg sends)), frame, fun p => ?_⟩
    rw [port p]
    refine ⟨fun named opens first fits done => ?_, fun stays => ?_⟩
    · exact ⟨s.telemetryFrame p, rfl, rfl, rfl, rfl, rfl, if_pos (State.telemetryDue_now named opens first late fits done)⟩
    · exact if_neg (by rw [State.telemetryDue_stays stays]; exact Bool.false_ne_true)
  · refine exec_next (t := s.exportOp f) ((State.exportOp_eq rfl).trans ?_)
    obtain early | empty | free := still
    · rw [firstRoom_none fun _ => State.exportRoom_early early, State.exportOn_none]
    · rw [empty]
      exact State.exportOn_empty ..
    · rw [free]
      exact State.exportOn_free ..
  · refine ⟨_, exec_next (t := s.exportOp f) ((State.exportOp_eq out).trans ?_), s.exportFrame f a bs p, rfl, rfl, rfl, rfl, rfl, rfl⟩
    rw [firstRoom_some (room := s.exportRoom bs) here before, allot]
    exact State.exportOn_sends any
  · refine exec_next (t := s.exportOp f) ((State.exportOp_eq out).trans ?_)
    rw [firstRoom_none (room := s.exportRoom bs) full, State.exportOn_none]
  · refine exec_next (t := s.feedOp p e) ((State.feedOp_sound up sound).trans ?_)
    rw [State.fedFold_none stray]
    exact State.countPl_set 2
  · obtain ⟨t, run, replay, others, frame⟩ := s.fedBy_some (p := p) e.payload f
    have op := (State.feedOp_sound up sound).trans ((congrArg (s.fedBy p e.payload) (State.fedFold_some tagged on feed)).trans run)
    subst fed
    exact ⟨t, exec_next (t := s.feedOp p e) op, replay, others, frame⟩

end Sys2Proof.Machine


/-! Log entries written, their mirror and the witness records (O41). -/

namespace Sys2Proof.Machine

/-! ## What noting an entry leaves of the log -/

/-- A log that has had entries staged or lost, and is otherwise as it was. -/
structure TallyLog.notedFrom (h g : TallyLog) : Prop where
  frame : h = { g with staged := h.staged, lost := h.lost }

theorem TallyLog.notedFrom.trans {a b c : TallyLog} (second : c.notedFrom b) (first : b.notedFrom a) : c.notedFrom a := by
  refine ⟨second.frame.trans ?_⟩
  generalize c.staged = staged
  generalize c.lost = lost
  rw [first.frame]

theorem TallyLog.put_notedFrom (g : TallyLog) (tick : BitVec 48) (cycle : Nat) (code : BitVec 16) (fold : Option FoldNo)
    (l p : Option CoreNo) (debug : Bool) (kind : Nat) (detail : List Byte) :
    (g.put tick cycle code fold l p debug kind detail).notedFrom g := by
  unfold TallyLog.put
  extract_lets same e
  split
  · exact ⟨rfl⟩
  · split
    · exact ⟨rfl⟩
    · exact ⟨rfl⟩

theorem State.log1_notedFrom (s : State) (code : BitVec 16) (detail : List Byte) :
    (s.log1 code none none none detail).log.notedFrom s.log := TallyLog.put_notedFrom ..

/-! ## Writing -/

/-- An entry with its sequence number and its tag. -/
def State.sealedEntry (s : State) (e : LogEntry) : LogEntry :=
  { e with seq := s.log.seq, tag := s.entryTag { e with seq := s.log.seq } }

/-- What writing an entry makes of the state, and of the log that is without it. -/
def State.written (s : State) (ok : Bool) : Option (LogEntry × TallyLog) → State
  | none => s
  | some (e, g) =>
    let usable := decide (s.log.badSectors.length < 256)
    if usable ∧ !ok then s.sectorFails
    else if usable then { s with log := ({ g.chain (s.sealedEntry e) with ring := g.ring ++ [(g.pos, s.sealedEntry e)] }).advance }
    else if s.storeUp then { s with log := { g.chain (s.sealedEntry e) with mirrorSeq := s.log.seq } }
    else s

section
variable {s : State} {ok : Bool} {e : LogEntry} {g : TallyLog} {rest : List LogEntry}

theorem State.writeEntry_eq : s.writeEntry ok = s.written ok s.nextEntry := by
  unfold State.writeEntry State.written
  exact rfl

theorem State.nextEntry_none (lost : s.log.lost = 0) (staged : s.log.staged = []) : s.nextEntry = none := by
  unfold State.nextEntry
  dsimp only
  rw [lost, staged]
  rfl

theorem State.nextEntry_staged (lost : s.log.lost = 0) (staged : s.log.staged = e :: rest) :
    s.nextEntry = some (e, { s.log with lost := 0, staged := rest }) := by
  unfold State.nextEntry
  dsimp only
  rw [if_neg (by rw [lost]; exact Nat.lt_irrefl 0), staged]
  dsimp only
  rw [← lost]

theorem State.nextEntry_lost (lost : 0 < s.log.lost) :
    s.nextEntry = some (s.entryOfLog 0x0B04 (leBytes s.log.lost 4), { s.log with lost := 0 }) := if_pos lost

/-- The next entry of a log with something to write. -/
theorem State.nextEntry_due (due : (s.log.lost = 0 ∧ s.log.staged = e :: rest) ∨
    (0 < s.log.lost ∧ s.log.staged = rest ∧ e = s.entryOfLog 0x0B04 (leBytes s.log.lost 4))) :
    s.nextEntry = some (e, { s.log with lost := 0, staged := rest }) := by
  obtain ⟨none, staged⟩ | ⟨lost, staged, rfl⟩ := due
  · exact State.nextEntry_staged none staged
  · rw [State.nextEntry_lost lost, ← staged]

/-- A log with an entry at its write position. -/
def TallyLog.ringed (g : TallyLog) (e : LogEntry) : TallyLog := { g.chain e with ring := g.ring ++ [(g.pos, e)] }

theorem State.written_ring (usable : s.log.badSectors.length < 256) : s.written true (some (e, g)) =
    { s with log := (g.ringed (s.sealedEntry e)).advance } := by
  unfold State.written
  dsimp only
  rw [decide_eq_true usable]
  rfl

theorem State.written_fails (usable : s.log.badSectors.length < 256) : s.written false (some (e, g)) = s.sectorFails := by
  unfold State.written
  dsimp only
  rw [decide_eq_true usable]
  rfl

theorem State.written_mirror (full : 256 ≤ s.log.badSectors.length) (up : s.storeUp = true) : s.written ok (some (e, g)) =
    { s with log := { g.chain (s.sealedEntry e) with mirrorSeq := s.log.seq } } := by
  unfold State.written
  dsimp only
  rw [decide_eq_false (Nat.not_lt.2 full), up]
  simp

theorem State.written_waits (full : 256 ≤ s.log.badSectors.length) (down : s.storeUp = false) (n : Option (LogEntry × TallyLog)) :
    s.written ok n = s := by
  cases n with
  | none => rfl
  | some x =>
    unfold State.written
    dsimp only
    rw [decide_eq_false (Nat.not_lt.2 full), down]
    simp

theorem TallyLog.advance_within (within : (g.pos + 64) % ringBytes % sectorBytes ≠ 0) :
    g.advance = { g with pos := (g.pos + 64) % ringBytes } := if_pos within

theorem TallyLog.advance_begins {k : Nat} (full : (g.pos + 64) % ringBytes % sectorBytes = 0)
    (next : nextSector g.badSectors ((g.pos + 64) % ringBytes / sectorBytes) = some k) :
    g.advance = { g.erase k with pos := k * sectorBytes } := by
  unfold TallyLog.advance
  refine (if_neg (not_not_intro full)).trans ?_
  rw [next]

end

/-! ## A sector that fails -/

/-- A log whose sector has failed, once the next usable one is found or not. -/
structure TallyLog.failedFrom (h g : TallyLog) (k tick : Nat) : Prop where
  bad : k ∈ h.badSectors
  fuses : g.fuses < 256 → h.fuses = g.fuses + 1
  failed : h.failed = true
  witnessDue : h.witnessDue = true
  seq : h.seq = g.seq
  digest : h.digest = g.digest
  first : g.fuses = 0 → h.failTick = tick
  later : 0 < g.fuses → h.failTick = g.failTick
  ring : ∀ x, x ∈ h.ring → x ∈ g.ring ∧ x.1 / sectorBytes ≠ k

theorem TallyLog.failedFrom.noted {h i g : TallyLog} {k tick : Nat} (fails : h.failedFrom g k tick) (noted : i.notedFrom h) :
    i.failedFrom g k tick := by
  have frame := noted.frame
  generalize i.staged = staged at frame
  generalize i.lost = lost at frame
  subst frame
  exact ⟨fails.bad, fails.fuses, fails.failed, fails.witnessDue, fails.seq, fails.digest, fails.first, fails.later, fails.ring⟩

theorem TallyLog.mem_erase {g : TallyLog} {k : Nat} {x : Nat × LogEntry} (kept : x ∈ (g.erase k).ring) :
    x ∈ g.ring ∧ x.1 / sectorBytes ≠ k := by
  obtain ⟨member, other⟩ := List.mem_filter.1 kept
  exact ⟨member, of_decide_eq_true other⟩

/-- The log goes on in the next usable sector, where there is one. -/
def TallyLog.begun (g : TallyLog) : Option Nat → TallyLog
  | some n => { g.erase n with pos := n * sectorBytes }
  | none => g

/-- The log without its failing sector. -/
def TallyLog.failing (g : TallyLog) (tick : Nat) : TallyLog :=
  let k := g.pos / sectorBytes
  let bad := k :: g.badSectors.filter (· ≠ k)
  let h := (g.erase k).begun (nextSector bad (k + 1))
  { h with badSectors := bad
           fuses := if decide (g.fuses < 256) then h.fuses + 1 else h.fuses
           failTick := if h.fuses = 0 then tick else h.failTick
           failed := true, witnessDue := true }

theorem TallyLog.begun_ring {g : TallyLog} {n : Option Nat} {x : Nat × LogEntry} (kept : x ∈ (g.begun n).ring) : x ∈ g.ring := by
  cases n with
  | none => exact kept
  | some n => exact (TallyLog.mem_erase kept).1

theorem TallyLog.begun_keeps (g : TallyLog) (n : Option Nat) : (g.begun n).fuses = g.fuses ∧ (g.begun n).failTick = g.failTick ∧
    (g.begun n).seq = g.seq ∧ (g.begun n).digest = g.digest := by
  cases n with
  | none => exact ⟨rfl, rfl, rfl, rfl⟩
  | some n => exact ⟨rfl, rfl, rfl, rfl⟩

theorem TallyLog.failing_from (g : TallyLog) (tick : Nat) : (g.failing tick).failedFrom g (g.pos / sectorBytes) tick := by
  unfold TallyLog.failing
  dsimp only
  generalize nextSector _ _ = n
  obtain ⟨fuses, failTick, seq, digest⟩ := (g.erase (g.pos / sectorBytes)).begun_keeps n
  exact {
    bad := List.mem_cons_self
    fuses := fun few => (if_pos (decide_eq_true few)).trans (congrArg (· + 1) fuses)
    failed := rfl
    witnessDue := rfl
    seq := seq
    digest := digest
    first := fun zero => if_pos (fuses.trans zero)
    later := fun some => (if_neg (by rw [fuses]; exact Nat.ne_of_gt some)).trans failTick
    ring := fun _ kept => TallyLog.mem_erase (TallyLog.begun_ring kept) }

/-- A state whose log has changed, and what the log tells of that. -/
structure State.notedAs (t s : State) (g : TallyLog) : Prop where
  log : t.log.notedFrom g
  frame : t = { s with log := t.log, ctrs := t.ctrs }

theorem State.notedAs.told {t s : State} {g : TallyLog} (noted : t.notedAs s g) (code : BitVec 16) (detail : List Byte) :
    (t.log1 code none none none detail).notedAs s g := by
  refine ⟨(t.log1_notedFrom code detail).trans noted.log, ?_⟩
  refine (t.log1_eq code none none none detail).trans ?_
  generalize (t.log1 code none none none detail).log = log
  generalize (t.log1 code none none none detail).ctrs = ctrs
  rw [noted.frame]

theorem State.sectorFails_notedAs (s : State) : s.sectorFails.notedAs s (s.log.failing s.tick.number.toNat) := by
  have bare : State.notedAs { s with log := s.log.failing s.tick.number.toNat } s (s.log.failing s.tick.number.toNat) := ⟨⟨rfl⟩, rfl⟩
  have once := bare.told 0x0B02 (leBytes (s.log.pos / sectorBytes) 2)
  have twice := once.told 0x0B03 (leBytes (s.log.failing s.tick.number.toNat).fuses 2)
  have fails : s.sectorFails = if decide (s.log.fuses < 256) then
      (State.log1 { s with log := s.log.failing s.tick.number.toNat } 0x0B02 none none none
        (leBytes (s.log.pos / sectorBytes) 2)).log1 0x0B03 none none none (leBytes (s.log.failing s.tick.number.toNat).fuses 2)
      else State.log1 { s with log := s.log.failing s.tick.number.toNat } 0x0B02 none none none (leBytes (s.log.pos / sectorBytes) 2) := by
    unfold State.sectorFails
    exact rfl
  rw [fails]
  split
  · exact twice
  · exact once

/-! ## Witness records -/

/-- Messages that have left: the message numbers gone up, and the records that wait as they were. -/
structure State.mailsOnly (t s : State) (n : Nat) : Prop where
  frame : t = { s with hall := t.hall }
  number : t.hall.number = s.hall.number + BitVec.ofNat 32 n
  pending : t.hall.witnessPending = s.hall.witnessPending

theorem State.mailsOnly.trans {s t u : State} {n m : Nat} (first : t.mailsOnly s n) (second : u.mailsOnly t m) : u.mailsOnly s (n + m) := by
  obtain ⟨frame, number, pending⟩ := first
  refine ⟨second.frame.trans ?_, ?_, second.pending.trans pending⟩
  · generalize u.hall = hall
    rw [frame]
  · rw [second.number, number, BitVec.add_assoc, BitVec.ofNat_add]

theorem Hall.enqueue_keeps (h : Hall) (r : Fin 12) (m : MailMsg) :
    (h.enqueue r m).1.number = h.number ∧ (h.enqueue r m).1.witnessPending = h.witnessPending := by
  unfold Hall.enqueue
  dsimp only
  split <;> exact ⟨rfl, rfl⟩

theorem State.sendMail_mailsOnly (s : State) (kind : Nat) (dst : BitVec 12) (b : List Byte) :
    (s.sendMail none kind false dst 0xFFFF 0 0 0 b).mailsOnly s 1 := by
  unfold State.sendMail
  extract_lets src m _ hall lost
  split
  · exact ⟨rfl, rfl, rfl⟩
  next r _ =>
    obtain ⟨kept, pending⟩ := hall.enqueue_keeps r m
    dsimp only
    split
    · exact ⟨rfl, kept, pending⟩
    · exact ⟨rfl, kept, pending⟩

theorem foldl_mailsOnly {α : Type} (g : State → α → State) (n : Nat) (each : ∀ t a, (g t a).mailsOnly t n) (l : List α) :
    ∀ s : State, (l.foldl g s).mailsOnly s (l.length * n) := by
  induction l with
  | nil => exact fun s => ⟨rfl, by simp, rfl⟩
  | cons a l ih =>
    intro s
    have both := (each s a).trans (ih (g s a))
    rw [List.length_cons, Nat.succ_mul, Nat.add_comm]
    exact both

/-- Records that go to witnesses. -/
def State.sendRecords (s : State) (all : List (List Byte)) (ws : List (BitVec 12)) : State :=
  ws.foldl (fun (s : State) m => all.foldl (fun (s : State) b => s.sendMail none 0x10 false m 0xFFFF 0 0 0 b) s) s

theorem State.sendRecords_mailsOnly (s : State) (all : List (List Byte)) (ws : List (BitVec 12)) :
    (s.sendRecords all ws).mailsOnly s (ws.length * (all.length * 1)) :=
  foldl_mailsOnly _ _ (fun t m => foldl_mailsOnly (fun t b => t.sendMail none 0x10 false m 0xFFFF 0 0 0 b) 1
    (fun t b => t.sendMail_mailsOnly 0x10 m b) all t) ws s

section
variable {s : State}

theorem State.witnessSend_waits (due : s.log.witnessDue = false) (turn : s.tick.number.toNat % 1024 ≠ 0)
    (keeps : s.log.badSectors.length < 256 ∨ s.storeUp = true) : s.witnessSend = s := by
  have early : s.witnessIsDue = false := by
    unfold State.witnessIsDue
    rw [due, decide_eq_false turn]
    obtain few | up := keeps
    · rw [decide_eq_false (Nat.not_le.2 few)]
      rfl
    · rw [up]
      simp
  exact if_pos (congrArg Bool.not early)

theorem State.witnessIsDue_of (due : s.log.witnessDue = true ∨ s.tick.number.toNat % 1024 = 0 ∨
    (256 ≤ s.log.badSectors.length ∧ s.storeUp = false)) : s.witnessIsDue = true := by
  unfold State.witnessIsDue
  obtain h | h | ⟨full, down⟩ := due
  · rw [h]
    rfl
  · rw [decide_eq_true h]
    simp
  · rw [decide_eq_true full, down]
    simp

/-- A state that begins the next span of witness records. -/
def State.spanBegun (s : State) : State := { s with log := { s.log with witnessFrom := s.log.seq, witnessDue := false } }

theorem State.witnessSend_due (due : s.witnessIsDue = true) : s.witnessSend =
    if s.witnesses.isEmpty then { s.spanBegun with hall := { s.hall with
      witnessPending := (s.hall.witnessPending ++ [s.witnessBytes]).drop (s.hall.witnessPending.length + 1 - 64) } }
    else State.sendRecords { s.spanBegun with hall := { s.hall with witnessPending := [] } } (s.hall.witnessPending ++ [s.witnessBytes])
      s.witnesses := by
  refine (if_neg ?_).trans rfl
  rw [due]
  exact Bool.false_ne_true

end

theorem drop_snoc_getLast? {α : Type} (l : List α) (a : α) (n : Nat) (room : n ≤ l.length) : ((l ++ [a]).drop n).getLast? = some a := by
  rw [List.drop_append_of_le_length room, List.getLast?_append]
  rfl

/-! ## Mirror copies -/

theorem Ssd.copied_eq (d : Ssd) : (if d.present then { d with mirror := true } else d) = { d with mirror := d.present || d.mirror } := by
  obtain ⟨present, width, rate, perst, fingerprint, resync, mirror⟩ := d
  cases present <;> rfl

/-! ## The settled statement -/

/-- Settles O41: the oldest staged entry is written with its tag into the ring or the mirror, and mirror copies and witness records follow. -/
theorem logMirrorAndWitnesses : Obligations.LogMirrorAndWitnesses := by
  unfold Obligations.LogMirrorAndWitnesses
  refine ⟨⟨fun s ok lost staged => ?_, fun s e rest usable due => ⟨fun x sealed within => ?_, fun x k sealed full next => ?_, fun whole => ?_⟩,
      fun s ok full => ⟨fun down => ?_, fun e x rest up lost staged sealed => ?_⟩⟩,
    fun s => ⟨fun none => exec_next (t := s.mirrorCopy) (if_neg (by rw [none]; exact Bool.false_ne_true)), fun some => ?_⟩,
    fun s due turn keeps => exec_next (t := s.witnessSend) (State.witnessSend_waits due turn keeps), fun s due => ?_⟩
  · refine exec_next (t := s.writeEntry ok) (State.writeEntry_eq.trans ?_)
    rw [State.nextEntry_none lost staged]
    rfl
  · refine exec_next (t := s.writeEntry true) (State.writeEntry_eq.trans ?_)
    subst sealed
    rw [State.nextEntry_due due, State.written_ring usable]
    exact congrArg (fun g : TallyLog => { s with log := g })
      (TallyLog.advance_within (g := ({ s.log with lost := 0, staged := rest } : TallyLog).ringed (s.sealedEntry e)) within)
  · refine exec_next (t := s.writeEntry true) (State.writeEntry_eq.trans ?_)
    subst sealed
    rw [State.nextEntry_due due, State.written_ring usable]
    exact congrArg (fun g : TallyLog => { s with log := g })
      (TallyLog.advance_begins (g := ({ s.log with lost := 0, staged := rest } : TallyLog).ringed (s.sealedEntry e)) full next)
  · have op : s.writeEntry false = s.sectorFails := by
      rw [State.writeEntry_eq, State.nextEntry_due due, State.written_fails usable]
    obtain ⟨log, frame⟩ := s.sectorFails_notedAs
    obtain ⟨bad, fuses, failed, witnessDue, seq, digest, first, later, ring⟩ :=
      (s.log.failing_from s.tick.number.toNat).noted log
    exact ⟨_, _, rfl, exec_next (t := s.writeEntry false) op, frame, bad, fuses whole, failed, witnessDue, seq, digest, first, later, ring⟩
  · refine exec_next (t := s.writeEntry ok) (State.writeEntry_eq.trans ?_)
    exact State.written_waits full down _
  · refine exec_next (t := s.writeEntry ok) (State.writeEntry_eq.trans ?_)
    subst sealed
    rw [State.nextEntry_staged lost staged, State.written_mirror full up, ← lost]
    rfl
  · refine ⟨_, exec_next (t := s.mirrorCopy) (if_pos some), rfl, fun n => ?_⟩
    exact (Vector.getElem_map ..).trans (Ssd.copied_eq _)
  · have op := State.witnessSend_due (State.witnessIsDue_of due)
    by_cases none : s.witnesses = []
    · rw [if_pos (List.isEmpty_iff.2 none)] at op
      refine ⟨_, exec_next (t := s.witnessSend) op, rfl, rfl, fun _ room => ⟨?_, ?_, rfl⟩, fun some => absurd none some⟩
      · exact drop_snoc_getLast? _ _ _ (by omega)
      · show ((s.hall.witnessPending ++ [s.witnessBytes]).drop _).length ≤ 64
        rw [List.length_drop, List.length_append, List.length_singleton]
        omega
    · rw [if_neg (by rw [List.isEmpty_iff]; exact none)] at op
      obtain ⟨frame, number, pending⟩ := State.sendRecords_mailsOnly
        { s.spanBegun with hall := { s.hall with witnessPending := [] } } (s.hall.witnessPending ++ [s.witnessBytes]) s.witnesses
      generalize State.sendRecords _ _ _ = t at op frame number pending
      refine ⟨t, exec_next (t := s.witnessSend) op, ?_, ?_, fun empty => absurd empty none, fun _ => ⟨pending, number.trans ?_⟩⟩
      · rw [frame]
        rfl
      · generalize t.hall = hall at frame
        rw [frame]
        rfl
      · rw [List.length_append, Nat.mul_one]
        rfl

end Sys2Proof.Machine


/-! Power up, power lost, and rails out of band (O42). -/

namespace Sys2Proof.Machine

/-! ## The boot of a module without a store -/

/-- A booting module that has no store in step, and of which only the store, trust, supervisors, log and boot step have changed. -/
structure State.storeless (t s : State) : Prop where
  frame : t = { s with store := t.store, trust := t.trust, supA := t.supA, supB := t.supB, log := t.log, ctrs := t.ctrs
                       power := { s.power with bootStep := t.power.bootStep } }
  down : t.storeUp = false

theorem State.inStep_down {s : State} (down : s.storeUp = false) (n : SsdNo) : s.inStep n = false := by
  unfold State.storeUp at down
  rw [Bool.or_eq_false_iff] at down
  revert n
  exact (Fin.forall_fin_two).2 down

theorem State.storeUp_congr {s t : State} (store : t.store = s.store) : t.storeUp = s.storeUp := by
  unfold State.storeUp State.inStep State.stepFlag State.tack
  rw [store]

theorem State.storeUp_of {s : State} (down : ∀ n, s.inStep n = false) : s.storeUp = false := by
  unfold State.storeUp
  rw [down 0, down 1]
  rfl

/-- A record of the store that has been found wrong is given up: no SSD gets in step by that. -/
theorem State.readRecord_storeUp {s : State} (down : s.storeUp = false) : s.readRecord.storeUp = false := by
  unfold State.readRecord
  split
  next r record =>
    split
    · exact down
    · refine State.storeUp_of fun n => ?_
      have was := State.inStep_down down n
      unfold State.inStep State.stepFlag State.tack at was ⊢
      dsimp only
      cases last : s.store.commits.getLast? with
      | some c =>
        rw [last] at was
        exact was
      | none =>
        rw [Option.getD_none, Option.getD_none]
        show (_ && if n = 0 then TackRec.first.step0 else TackRec.first.step1) = false
        have never : (if n = 0 then TackRec.first.step0 else TackRec.first.step1) = false := ite_self false
        rw [never, Bool.and_false]
  · exact down

/-- The reset of each SSD that is present ends. -/
def State.ssdsStarted (s : State) : State := { s with store := { s.store with ssds := s.store.ssds.map fun d => { d with perst := d.present } } }

theorem State.ssdsStarted_storeUp {s : State} (down : s.storeUp = false) : s.ssdsStarted.storeUp = false := by
  refine State.storeUp_of fun n => ?_
  have was := State.inStep_down down n
  unfold State.inStep at was ⊢
  have started : s.ssdsStarted.store.ssds[n] = { s.store.ssds[n] with perst := s.store.ssds[n].present } := Vector.getElem_map ..
  have present : s.ssdsStarted.store.ssds[n].present = s.store.ssds[n].present := by rw [started]
  rw [present]
  exact was

/-- An SSD whose record says that it is in step, and that is not there. -/
def State.stepGone (s : State) (n : SsdNo) : Bool := s.stepFlag n && !s.store.ssds[n].present

/-- A record without the steps of the SSDs that are gone. -/
def TackRec.without (t : TackRec) (first second : Bool) : TackRec :=
  let t := if first then t.setStep 0 false else t
  if second then t.setStep 1 false else t

theorem State.bootStores_eq (s : State) : s.bootStores =
    if s.ssdsStarted.stepGone 0 || s.ssdsStarted.stepGone 1 then
      s.ssdsStarted.commit fun t => t.without (s.ssdsStarted.stepGone 0) (s.ssdsStarted.stepGone 1)
    else s.ssdsStarted := rfl

theorem TackRec.without_steps (t : TackRec) (first second : Bool) : (t.without first second).step0 = (t.step0 && !first) ∧
    (t.without first second).step1 = (t.step1 && !second) := by
  cases first <;> cases second <;> simp [TackRec.without, TackRec.setStep]

theorem State.bootStores_storeUp {s : State} (down : s.storeUp = false) : s.bootStores.storeUp = false := by
  rw [State.bootStores_eq]
  have still := State.ssdsStarted_storeUp down
  generalize s.ssdsStarted = u at still
  split
  · refine State.storeUp_of fun n => ?_
    have was := State.inStep_down still n
    obtain ⟨first, second⟩ := u.tack.without_steps (u.stepGone 0) (u.stepGone 1)
    unfold State.inStep State.stepFlag at was ⊢
    rw [State.tack_commit]
    show (u.store.ssds[n].present && if n = 0 then (u.tack.without (u.stepGone 0) (u.stepGone 1)).step0
      else (u.tack.without (u.stepGone 0) (u.stepGone 1)).step1) = false
    rw [first, second]
    cases present : u.store.ssds[n].present with
    | false => rfl
    | true =>
      rw [present, Bool.true_and] at was
      rw [Bool.true_and]
      split
      next zero => rw [if_pos zero] at was; rw [was]; rfl
      next other => rw [if_neg other] at was; rw [was]; rfl
  · exact still

/-! ## What the boot leaves -/

theorem State.storeless.trans {s t u : State} (first : t.storeless s) (second : u.storeless t) : u.storeless s := by
  refine ⟨second.frame.trans ?_, second.down⟩
  have before := first.frame
  generalize u.store = store
  generalize u.trust = trust
  generalize u.supA = supA
  generalize u.supB = supB
  generalize u.log = log
  generalize u.ctrs = ctrs
  generalize u.power.bootStep = step
  rw [before]

theorem State.readRecord_frame (s : State) : s.readRecord = { s with store := s.readRecord.store } := by
  unfold State.readRecord
  split
  · split
    · rfl
    · rfl
  · rfl

theorem State.bootStores_frame (s : State) : s.bootStores = { s with store := s.bootStores.store } := by
  rw [State.bootStores_eq]
  split
  · rfl
  · rfl

/-- The module firmware begins on its supervisors. -/
def State.firmwareOn (s : State) (b : Bool) : State :=
  let toB := decide (s.tack.fw = .handedOver)
  { s with trust := { s.trust with bootCopy := b }, power := { s.power with bootStep := 3 }
           supA := s.supBoot .a (!toB), supB := s.supBoot .b toB }

/-- A firmware start with the boot copy chosen. -/
def State.startWith (s : State) : Option Bool → State
  | some b => if s.norOk 2 || s.norOk 3 then (s.readRecord.firmwareOn b).bootStores else { s with power := { s.power with bootStep := 2 } }
  | none => { s with power := { s.power with bootStep := 2 } }

theorem State.startFirmware_eq (s : State) : s.startFirmware =
    if !s.trust.bound ∨ s.trust.life ≠ .branded ∨ 3 ≤ s.power.bootStep then s else s.startWith s.bootChoice := by
  unfold State.startFirmware State.startWith
  exact rfl

/-- What a firmware start leaves of the trust state: all but the boot copy. -/
def Trust.copied (t : Trust) (u : Trust) : Prop := u = { t with bootCopy := u.bootCopy }

theorem State.firmwareOn_storeless {s : State} (down : s.storeUp = false) (b : Bool) :
    (s.readRecord.firmwareOn b).bootStores.storeless s ∧ s.trust.copied (s.readRecord.firmwareOn b).bootStores.trust := by
  have read := s.readRecord_frame
  have readDown := State.readRecord_storeUp down
  generalize s.readRecord = r at read readDown ⊢
  have started := (r.firmwareOn b).bootStores_frame
  have startedDown := State.bootStores_storeUp (s := r.firmwareOn b) readDown
  generalize (r.firmwareOn b).bootStores = t at started startedDown ⊢
  obtain ⟨store, rfl⟩ : ∃ store, r = { s with store := store } := ⟨_, read⟩
  obtain ⟨stores, rfl⟩ : ∃ stores, t = { State.firmwareOn { s with store := store } b with store := stores } := ⟨_, started⟩
  exact ⟨⟨rfl, startedDown⟩, rfl⟩

theorem State.startWith_storeless {s : State} (down : s.storeUp = false) (choice : Option Bool) :
    (s.startWith choice).storeless s ∧ s.trust.copied (s.startWith choice).trust := by
  have stops : State.storeless { s with power := { s.power with bootStep := 2 } } s ∧ s.trust.copied s.trust := ⟨⟨rfl, down⟩, rfl⟩
  cases choice with
  | none => exact stops
  | some b =>
    by_cases ok : s.norOk 2 || s.norOk 3
    · have starts : s.startWith (some b) = (s.readRecord.firmwareOn b).bootStores := if_pos ok
      rw [starts]
      exact State.firmwareOn_storeless down b
    · have waits : s.startWith (some b) = { s with power := { s.power with bootStep := 2 } } := if_neg ok
      rw [waits]
      exact stops

theorem State.startFirmware_storeless {s : State} (down : s.storeUp = false) :
    s.startFirmware.storeless s ∧ s.trust.copied s.startFirmware.trust ∧
      (s.trust.life ≠ .branded → s.startFirmware.trust = s.trust) := by
  rw [State.startFirmware_eq]
  split
  · exact ⟨⟨rfl, down⟩, rfl, fun _ => rfl⟩
  next starts =>
    obtain ⟨storeless, copied⟩ := State.startWith_storeless down s.bootChoice
    exact ⟨storeless, copied, fun other => absurd (.inr (.inl other)) starts⟩

theorem State.bootStore_down {s : State} (down : s.storeUp = false) : s.bootStore = s :=
  if_pos (.inr (.inr (congrArg Bool.not down)))

/-! ## Who the module is -/

theorem State.recall_frame (s : State) : s.recall = { s with trust := { s.trust with life := s.recall.trust.life, root := s.recall.trust.root }
                                                             log := s.recall.log, ctrs := s.recall.ctrs } := by
  unfold State.recall
  extract_lets t
  split
  · exact rfl
  · exact rfl

/-- What the identification of a module leaves. -/
structure State.identified (t s : State) : Prop where
  frame : t = { s with trust := t.trust, log := t.log, ctrs := t.ctrs }
  pres : t.trust.pres = s.trust.pres

theorem State.identified.store {s t : State} (identified : t.identified s) : t.store = s.store := by
  have frame := identified.frame
  generalize t.trust = trust at frame
  generalize t.log = log at frame
  generalize t.ctrs = ctrs at frame
  rw [frame]

theorem State.identify_shipped {s : State} (shipped : s.trust.life = .shipped) :
    s.identify = if s.trust.entropyFailed then s else s.brand := by
  unfold State.identify
  rw [shipped]

theorem State.identify_identified (s : State) : s.identify.identified s := by
  unfold State.identify
  split
  · exact ⟨rfl, rfl⟩
  · split
    · exact ⟨rfl, rfl⟩
    · exact ⟨rfl, rfl⟩
  · split
    · exact ⟨rfl, rfl⟩
    · have frame := s.recall_frame
      generalize s.recall = t at frame
      exact ⟨by rw [frame], by rw [frame]⟩

theorem State.brandKey_congr {s t : State} (root : t.trust.root = s.trust.root) : t.brandKey = s.brandKey := by
  unfold State.brandKey State.brandPrivate State.key
  rw [root]

/-- What branding makes of the trust state. -/
structure State.brandedFrom (t s : State) : Prop where
  life : t.trust.life = .branded
  draws : t.trust.draws = s.trust.draws + 1
  masked : t.trust.masked = Config.entropy s.trust.draws 384 ^^^ Config.puf
  fingerprint : t.trust.fingerprint = fingerprintOf t.brandKey

theorem State.withLife_root (s : State) (l : Life) (root : Option (BitVec 384)) : (s.withLife l root).trust.root = root := rfl

/-- A module under its root, with its masked seed and its fingerprint. -/
def State.fingerprinted (t : State) (masked fingerprint : BitVec 384) : State :=
  { t with trust := { t.trust with masked := masked, fingerprint := fingerprint } }

theorem State.brand_eq (s : State) : s.brand = ((s.draw 384).2.withLife .branded (some (rootOf (s.draw 384).1))).fingerprinted
    ((s.draw 384).1 ^^^ Config.puf) (fingerprintOf ((s.draw 384).2.withLife .branded (some (rootOf (s.draw 384).1))).brandKey) := by
  unfold State.brand State.fingerprinted
  exact rfl

theorem State.fingerprinted_branded (s t : State) (masked print : BitVec 384) (root : Option (BitVec 384))
    (draws : t.trust.draws = s.trust.draws + 1) (seeded : masked = Config.entropy s.trust.draws 384 ^^^ Config.puf)
    (prints : print = fingerprintOf (t.withLife .branded root).brandKey) :
    ((t.withLife .branded root).fingerprinted masked print).brandedFrom s := by
  have key : ((t.withLife .branded root).fingerprinted masked print).brandKey = (t.withLife .branded root).brandKey :=
    State.brandKey_congr rfl
  exact ⟨rfl, draws, seeded, prints.trans (congrArg fingerprintOf key.symm)⟩

theorem State.brand_brandedFrom (s : State) : s.brand.brandedFrom s := by
  have draws : (s.draw 384).2.trust.draws = s.trust.draws + 1 := by
    unfold State.draw
    dsimp only
  have drawn : (s.draw 384).1 = Config.entropy s.trust.draws 384 := by
    unfold State.draw
    dsimp only
  rw [State.brand_eq]
  exact State.fingerprinted_branded s _ _ _ _ draws (congrArg (· ^^^ Config.puf) drawn) rfl

/-! ## Power good -/

/-- A module whose rails are up. -/
def State.railsUp (s : State) : State :=
  { s with power := { s.power with good := true, sequencing := false, goodAt := s.now, bootStep := 1 } }

/-- A module at power-good, before its boot goes on. -/
def State.powered (s : State) : State := { s.railsUp.coresOn with sample := s.railsUp.coresOn.resetRegs }

theorem State.powerGoodOp_eq {s : State} (sequencing : s.power.sequencing = true) : s.powerGoodOp = s.powered.continueBoot := if_pos sequencing

theorem State.coresOn_core (s : State) (p : CoreNo) : s.coresOn.cores[p] = if s.enabled.getLsbD p.val then
      { s.cores[p] with supply := { s.cores[p].supply with on := true, code := 60, plan := 60, own := 60 } }
    else { s.cores[p] with mode := .fusedOff, supply := { s.cores[p].supply with on := false } } := by
  show (Vector.ofFn _)[p] = _
  rw [Fin.getElem_fin, Vector.getElem_ofFn]

theorem State.coresOn_frame (s : State) : s.coresOn = { s with cores := s.coresOn.cores } := rfl

/-- What a module is at power-good. -/
structure State.poweredFrom (t s : State) : Prop where
  frame : t = { s.railsUp with cores := t.cores, sample := t.sample }
  core : ∀ p : CoreNo, t.cores[p] = if s.enabled.getLsbD p.val then
      { s.cores[p] with supply := { s.cores[p].supply with on := true, code := 60, plan := 60, own := 60 } }
    else { s.cores[p] with mode := .fusedOff, supply := { s.cores[p].supply with on := false } }

theorem State.powered_from (s : State) : s.powered.poweredFrom s := by
  have frame := s.railsUp.coresOn_frame
  have core := s.railsUp.coresOn_core
  unfold State.powered
  generalize s.railsUp.coresOn = u at frame core ⊢
  generalize u.resetRegs = regs
  refine ⟨?_, core⟩
  obtain ⟨cores, rfl⟩ : ∃ cores, u = { s.railsUp with cores := cores } := ⟨_, frame⟩
  rfl

theorem State.powered_store (s : State) : s.powered.store = s.store := by
  have frame := s.powered_from.frame
  generalize s.powered = t at frame
  generalize t.cores = cores at frame
  generalize t.sample = sample at frame
  rw [frame]
  rfl

theorem State.powered_continues (s : State) : s.powered.continueBoot = s.powered.identify.startFirmware.bootStore := if_pos rfl

/-- A module whose boot has no store in step at power-good. -/
theorem State.powerGoodOp_storeless {s : State} (sequencing : s.power.sequencing = true) (down : s.storeUp = false) :
    s.powered.identify.storeUp = false ∧ s.powerGoodOp = s.powered.identify.startFirmware := by
  have still : s.powered.identify.storeUp = false :=
    (State.storeUp_congr (s.powered.identify_identified.store.trans s.powered_store)).trans down
  refine ⟨still, ?_⟩
  rw [State.powerGoodOp_eq sequencing, State.powered_continues]
  exact State.bootStore_down (State.startFirmware_storeless still).1.down

/-! ## Shutdown -/

/-- Nothing but the log and its counters has changed. -/
structure State.loggedOnly (t s : State) : Prop where
  frame : t = { s with log := t.log, ctrs := t.ctrs }

theorem State.loggedOnly.trans {s t u : State} (first : t.loggedOnly s) (second : u.loggedOnly t) : u.loggedOnly s := by
  refine ⟨second.frame.trans ?_⟩
  have before := first.frame
  generalize u.log = log
  generalize u.ctrs = ctrs
  rw [before]

theorem State.writeEntry_loggedOnly (s : State) (ok : Bool) : (s.writeEntry ok).loggedOnly s := by
  rw [State.writeEntry_eq]
  cases s.nextEntry with
  | none => exact ⟨rfl⟩
  | some x =>
    unfold State.written
    dsimp only
    split
    · exact ⟨s.sectorFails_notedAs.frame⟩
    · split
      · exact ⟨rfl⟩
      · split
        · exact ⟨rfl⟩
        · exact ⟨rfl⟩

/-- A module whose rails have gone down. -/
structure State.shutFrom (t s : State) : Prop where
  good : t.power.good = false
  sequencing : t.power.sequencing = false
  outputs : t.outputs = Outputs.off
  sec : t.sec? = none
  folds : t.folds = State.reset.folds
  fab : t.fab = State.reset.fab
  st : t.st = State.reset.st
  pl : t.pl = State.reset.pl
  cores : ∀ p : CoreNo, t.cores[p].supply.on = false ∧ t.cores[p].matrix.running = false ∧ t.cores[p].cstream.running = false ∧
    t.cores[p].dstream.running = false
  commits : t.store.commits = []
  record : t.store.record = s.store.record
  slots : t.store.slots = s.store.slots
  life : t.trust.life = s.trust.life
  fingerprint : t.trust.fingerprint = s.trust.fingerprint
  generation : t.trust.generation = s.trust.generation
  debugCount : t.trust.debugCount = s.trust.debugCount
  fuse : t.trust.pres.fuse = s.trust.pres.fuse
  window : t.trust.pres.window = none
  root : t.trust.root = none
  staged : t.log.staged = []
  now : t.now = s.now
  pending : t.pending = s.pending

theorem State.unpowered_core (s : State) (p : CoreNo) : s.unpowered.cores[p] = s.cores[p].unpowered := Vector.getElem_map ..

theorem State.unpowered_shutFrom (s : State) : s.unpowered.shutFrom s where
  good := rfl
  sequencing := rfl
  outputs := rfl
  sec := rfl
  folds := rfl
  fab := rfl
  st := rfl
  pl := rfl
  cores p := by
    rw [State.unpowered_core]
    exact ⟨rfl, rfl, rfl, rfl⟩
  commits := rfl
  record := rfl
  slots := rfl
  life := rfl
  fingerprint := rfl
  generation := rfl
  debugCount := rfl
  fuse := rfl
  window := rfl
  root := rfl
  staged := rfl
  now := rfl
  pending := rfl

theorem State.shutdown_shutFrom (s : State) (code : BitVec 16) (detail : List Byte) : (s.shutdown code detail).shutFrom s := by
  have noted : (s.log1 code none none none detail).loggedOnly s := ⟨s.log1_eq code none none none detail⟩
  have written : ((List.range brownoutEntries).foldl (fun (s : State) _ => s.writeEntry true) (s.log1 code none none none detail)).loggedOnly s :=
    foldl_keep (fun t : State => t.loggedOnly s) _ (fun t _ only => only.trans (t.writeEntry_loggedOnly true)) _ _ noted
  unfold State.shutdown
  dsimp only
  generalize (List.range brownoutEntries).foldl (fun (s : State) _ => s.writeEntry true) (s.log1 code none none none detail) = u at written
  obtain ⟨log, ctrs, rfl⟩ : ∃ log ctrs, u = { s with log := log, ctrs := ctrs } := ⟨_, _, written.frame⟩
  have shut := State.unpowered_shutFrom { s with log := log, ctrs := ctrs }
  exact ⟨shut.good, shut.sequencing, shut.outputs, shut.sec, shut.folds, shut.fab, shut.st, shut.pl, shut.cores, shut.commits, shut.record,
    shut.slots, shut.life, shut.fingerprint, shut.generation, shut.debugCount, shut.fuse, shut.window, shut.root, shut.staged, shut.now,
    shut.pending⟩

end Sys2Proof.Machine


/-! Rails out of band, and power that comes and goes (O42). -/

namespace Sys2Proof.Machine

/-! ## Cores changed in a row -/

/-- Of the cores in a list, each is changed in one way; else only folds, mail, log and counters may differ. -/
structure State.coresTurned (t s : State) (g : Core → Core) (l : List CoreNo) : Prop where
  frame : t = { s with cores := t.cores, folds := t.folds, hall := t.hall, log := t.log, ctrs := t.ctrs }
  core : ∀ q : CoreNo, t.cores[q] = if q ∈ l then g s.cores[q] else s.cores[q]

theorem State.coresTurned.nil (s : State) (g : Core → Core) : s.coresTurned s g [] := ⟨rfl, fun _ => (if_neg List.not_mem_nil).symm⟩

theorem State.coresTurned.now {s t : State} {g : Core → Core} {l : List CoreNo} (turned : t.coresTurned s g l) : t.now = s.now := by
  rw [turned.frame]

theorem State.coresTurned.cons {s t u : State} {g : Core → Core} {p : CoreNo} {l : List CoreNo} (first : t.coresTurned s g [p])
    (rest : u.coresTurned t g l) (idem : ∀ c, g (g c) = g c) : u.coresTurned s g (p :: l) := by
  refine ⟨rest.frame.trans ?_, fun q => ?_⟩
  · have before := first.frame
    generalize u.cores = cores
    generalize u.folds = folds
    generalize u.hall = hall
    generalize u.log = log
    generalize u.ctrs = ctrs
    rw [before]
  · rw [rest.core q, first.core q]
    by_cases here : q = p
    · rw [if_pos (List.mem_singleton.2 here), if_pos (List.mem_cons.2 (.inl here))]
      split
      · exact idem _
      · rfl
    · rw [if_neg (fun h => here (List.mem_singleton.1 h))]
      by_cases later : q ∈ l
      · rw [if_pos later, if_pos (List.mem_cons.2 (.inr later))]
      · rw [if_neg later, if_neg (fun h => (List.mem_cons.1 h).elim here later)]

theorem foldl_coresTurned (step : State → CoreNo → State) (g : Nat → Core → Core)
    (each : ∀ t p, (step t p).coresTurned t (g t.now) [p]) (idem : ∀ n c, g n (g n c) = g n c) :
    ∀ (l : List CoreNo) (s : State), (l.foldl step s).coresTurned s (g s.now) l := by
  intro l
  induction l with
  | nil => exact fun s => State.coresTurned.nil s _
  | cons p l ih =>
    intro s
    have rest := ih (step s p)
    rw [(each s p).now] at rest
    exact (each s p).cons rest (idem s.now)

/-! ## Faults of a regulator -/

/-- A core that can have a fault. -/
def Core.sound (c : Core) : Bool := c.fault.isNone && decide (c.mode ≠ .fusedOff) && decide (c.mode ≠ .retired)

/-- A core with the fault of its regulator, where it can have one. -/
def Core.regulated (now : Nat) (c : Core) : Core := if c.sound then c.faulted now .regulator else c

theorem Core.sound_of {c : Core} (fine : c.fault = none) (on : c.mode ≠ .fusedOff) (used : c.mode ≠ .retired) : c.sound = true := by
  unfold Core.sound
  rw [fine, decide_eq_true on, decide_eq_true used]
  rfl

theorem Core.sound_iff (c : Core) : c.sound = true ↔ c.fault = none ∧ c.mode ≠ .fusedOff ∧ c.mode ≠ .retired := by
  unfold Core.sound
  rw [Bool.and_eq_true, Bool.and_eq_true, decide_eq_true_iff, decide_eq_true_iff, Option.isNone_iff_eq_none, and_assoc]

theorem Core.regulated_twice (now : Nat) (c : Core) : Core.regulated now (c.regulated now) = c.regulated now := by
  by_cases sound : c.sound
  · have faulted : Core.regulated now c = c.faulted now .regulator := if_pos sound
    rw [faulted]
    refine if_neg fun h => ?_
    obtain ⟨fine, -⟩ := (Core.sound_iff _).1 h
    cases fine
  · have same : Core.regulated now c = c := if_neg sound
    rw [same, same]

theorem State.coreFault_turned (s : State) (p : CoreNo) : (s.coreFault p .regulator).coresTurned s (Core.regulated s.now) [p] := by
  by_cases sound : s.cores[p].sound
  · obtain ⟨fine, on, used⟩ := (Core.sound_iff _).1 sound
    obtain ⟨folds, told, -, -⟩ := State.coreFault_folds .regulator fine on used
    have faulted : Core.regulated s.now s.cores[p] = s.cores[p].faulted s.now .regulator := if_pos sound
    have frame : s.coreFault p .regulator = _ := told
    refine ⟨by rw [frame], fun q => ?_⟩
    have cores : (s.coreFault p .regulator).cores = s.cores.set p (s.cores[p].faulted s.now .regulator) := by
      rw [frame]
      rfl
    rw [cores]
    by_cases here : q = p
    · subst here
      rw [if_pos (List.mem_singleton_self _), faulted]
      exact Vector.getElem_set_self _
    · rw [if_neg (fun h => here (List.mem_singleton.1 h))]
      exact set_get_other _ _ _ _ here
  · have off : s.coreFault p .regulator = s := by
      refine State.coreFault_off _ ?_
      by_contra none
      obtain ⟨fine, rest⟩ := not_or.1 none
      obtain ⟨on, used⟩ := not_or.1 rest
      exact sound (Core.sound_of (Option.not_isSome_iff_eq_none.1 fine) on used)
    have same : Core.regulated s.now s.cores[p] = s.cores[p] := if_neg sound
    rw [off]
    refine ⟨rfl, fun q => ?_⟩
    split
    next here => rw [List.mem_singleton.1 here, same]
    · rfl

/-! ## Ports of a rail -/

/-- A port without its rail. -/
def FabPort.dark (x : FabPort) : FabPort := { x with lanes := Vector.replicate 8 .noSignal, sig := 0, state := .down }

/-- What a rail does to one port. -/
def State.darken (copper : Bool) (s : State) (p : FabricPort) : State :=
  if copper = decide (p.val < 16) then (if s.fab[p].state = .up then s.takeDown p 5 0x0702 else s).onFab p FabPort.dark else s

/-- The ports of a rail in a list are down, and the others as they were. -/
structure State.darkened (t s : State) (copper : Bool) (l : List FabricPort) : Prop where
  frame : t = { s with fab := t.fab, hall := t.hall, log := t.log, ctrs := t.ctrs }
  dark : ∀ p : FabricPort, p ∈ l → decide (p.val < 16) = copper → t.fab[p].state = .down ∧ t.fab[p].sig = 0
  other : ∀ p : FabricPort, p ∉ l ∨ decide (p.val < 16) ≠ copper → t.fab[p] = s.fab[p]

theorem State.darken_darkened (copper : Bool) (s : State) (p : FabricPort) : (s.darken copper p).darkened s copper [p] := by
  by_cases mine : copper = decide (p.val < 16)
  · have step : s.darken copper p = (if s.fab[p].state = .up then s.takeDown p 5 0x0702 else s).onFab p FabPort.dark := if_pos mine
    have down : ∃ u, (if s.fab[p].state = .up then s.takeDown p 5 0x0702 else s) = u ∧
        (∀ q : FabricPort, q ≠ p → u.fab[q] = s.fab[q]) ∧ u = { s with fab := u.fab, hall := u.hall, log := u.log, ctrs := u.ctrs } := by
      split
      · obtain ⟨-, others, frame⟩ := State.onFab_told (s.takeDown_told (p := p) 5 0x0702)
        exact ⟨_, rfl, others, frame⟩
      · exact ⟨s, rfl, fun _ _ => rfl, rfl⟩
    obtain ⟨u, run, others, frame⟩ := down
    rw [step, run]
    refine ⟨?_, fun q here _ => ?_, fun q out => ?_⟩
    · rw [State.onFab_set]
      generalize u.fab.set p u.fab[p].dark = fab
      rw [frame]
    · rw [List.mem_singleton.1 here, State.onFab_self]
      exact ⟨rfl, rfl⟩
    · have elsewhere : q ≠ p := by
        rintro rfl
        exact out.elim (fun h => h (List.mem_singleton_self _)) fun h => h mine.symm
      rw [State.onFab_other _ _ _ elsewhere, others q elsewhere]
  · have step : s.darken copper p = s := if_neg mine
    rw [step]
    exact ⟨rfl, fun q here same => absurd (List.mem_singleton.1 here ▸ same.symm) mine, fun _ _ => rfl⟩

theorem State.darkened.cons {s t u : State} {copper : Bool} {p : FabricPort} {l : List FabricPort} (first : t.darkened s copper [p])
    (rest : u.darkened t copper l) : u.darkened s copper (p :: l) := by
  refine ⟨rest.frame.trans ?_, fun q member mine => ?_, fun q out => ?_⟩
  · have before := first.frame
    generalize u.fab = fab
    generalize u.hall = hall
    generalize u.log = log
    generalize u.ctrs = ctrs
    rw [before]
  · by_cases later : q ∈ l
    · exact rest.dark q later mine
    · have here : q = p := (List.mem_cons.1 member).resolve_right later
      rw [rest.other q (.inl later)]
      exact first.dark q (List.mem_singleton.2 here) mine
  · rw [rest.other q (out.imp_left fun h later => h (List.mem_cons.2 (.inr later))),
      first.other q (out.imp_left fun h here => h (List.mem_cons.2 (.inl (List.mem_singleton.1 here))))]

theorem State.railPorts_darkened (s : State) (copper : Bool) : (s.railPorts copper).darkened s copper (List.finRange 24) := by
  have all : ∀ (l : List FabricPort) (s : State), (l.foldl (State.darken copper) s).darkened s copper l := by
    intro l
    induction l with
    | nil => exact fun s => ⟨rfl, fun _ h => absurd h List.not_mem_nil, fun _ _ => rfl⟩
    | cons p l ih => exact fun s => (s.darken_darkened copper p).cons (ih _)
  exact all (List.finRange 24) s

/-! ## Hurdles of every running fold -/

/-- A fold that a hurdle of a cause may have stopped: what holds a core and its selection stays. -/
structure Fold.hurdledFrom (y x : Fold) (code : BitVec 16) : Prop where
  stops : x.run = .running → x.image.isSome = true → y.run ≠ .running ∧ y.recov.cause = code
  keeps : x.run ≠ .running ∨ x.image = none → y = x
  allot : y.allot = x.allot
  image : y.image = x.image
  sel : y.sel = x.sel

/-- One fold hurdled, or none. -/
structure State.hurdledFrom (t s : State) (f : FoldNo) (code : BitVec 16) : Prop where
  frame : t = { s with dumpNo := t.dumpNo, cores := t.cores, folds := t.folds, hall := t.hall, store := t.store, log := t.log, ctrs := t.ctrs }
  core : ∀ p : CoreNo, t.cores[p] = s.cores[p] ∨ t.cores[p] = s.cores[p].stopStreams
  fold : t.folds[f].hurdledFrom s.folds[f] code
  other : ∀ g : FoldNo, g ≠ f → t.folds[g] = s.folds[g]

theorem State.hurdle_imageless (s : State) {f : FoldNo} (image : s.folds[f].image = none) (code : BitVec 16) (nodes : List WaitNode) :
    s.hurdle f code nodes = s := by
  unfold State.hurdle
  rw [image]

theorem State.hurdle_stopped (s : State) {f : FoldNo} (stopped : s.folds[f].run ≠ .running) (code : BitVec 16) (nodes : List WaitNode) :
    s.hurdle f code nodes = s := by
  unfold State.hurdle
  split
  · rfl
  · exact if_pos stopped

theorem State.hurdle_hurdledFrom (s : State) (f : FoldNo) (code : BitVec 16) (nodes : List WaitNode) :
    (s.hurdle f code nodes).hurdledFrom s f code := by
  have still : ∀ t, t = s → s.folds[f].run ≠ .running ∨ s.folds[f].image = none → t.hurdledFrom s f code := by
    rintro t rfl off
    refine ⟨rfl, fun _ => .inl rfl, ⟨fun running image => ?_, fun _ => rfl, rfl, rfl, rfl⟩, fun _ _ => rfl⟩
    obtain h | h := off
    · exact absurd running h
    · rw [h] at image
      cases image
  cases image : s.folds[f].image with
  | none => exact still _ (s.hurdle_imageless image code nodes) (.inr image)
  | some i =>
    by_cases running : s.folds[f].run = .running
    · obtain ⟨dump, leaves⟩ := State.hurdle_leaves image running code nodes
      obtain ⟨frame, fold, others, -⟩ := State.hurdling_frame s f code nodes dump (s.capturing f) _ rfl
      obtain ⟨r, settled, reverts, follows⟩ := leaves _ rfl (by rw [fold]; rfl)
      have stilled := (State.stopFoldStreams_stilled { s with dumpNo := s.dumpNo + 1 } f).cores
      have stops : r ≠ .running := by
        by_cases confirming : (s.entry f).state = .confirming
        · rw [(reverts confirming).1]
          decide
        · rw [(follows confirming).2]
          split <;> decide
      generalize s.hurdle f code nodes = t at settled
      generalize s.hurdling f code nodes dump (s.capturing f) = v at settled frame fold others
      generalize State.stopFoldStreams { s with dumpNo := s.dumpNo + 1 } f = w at frame stilled
      have tf : t.folds[f] = { v.folds[f] with run := r } := by
        rw [settled]
        exact Vector.getElem_set_self _
      have cores : t.cores = w.cores := by
        rw [settled, frame]
      refine ⟨?_, fun p => ?_, ⟨fun _ _ => ?_, fun off => ?_, ?_, ?_, ?_⟩, fun g other => ?_⟩
      · rw [settled, frame]
      · rw [cores]
        exact stilled p
      · rw [tf, fold]
        exact ⟨stops, rfl⟩
      · exact absurd running (off.resolve_right (by rw [image]; exact nofun))
      · rw [tf, fold]
        rfl
      · rw [tf, fold]
        rfl
      · rw [tf, fold]
        rfl
      · rw [settled]
        exact (set_get_other _ _ _ _ other).trans (others g other)
    · exact still _ (s.hurdle_stopped running code nodes) (.inl running)

theorem Fold.hurdledFrom.trans {x y z : Fold} {code : BitVec 16} (first : y.hurdledFrom x code) (second : z.hurdledFrom y code) :
    z.hurdledFrom x code := by
  refine ⟨fun running image => ?_, fun off => ?_, second.allot.trans first.allot, second.image.trans first.image, second.sel.trans first.sel⟩
  · have stopped := first.stops running image
    rw [second.keeps (.inl stopped.1)]
    exact stopped
  · have same := first.keeps off
    rw [same] at second
    exact second.keeps off

/-- The folds of a list hurdled where they run. -/
structure State.foldsHurdled (t s : State) (code : BitVec 16) (l : List FoldNo) : Prop where
  frame : t = { s with dumpNo := t.dumpNo, cores := t.cores, folds := t.folds, hall := t.hall, store := t.store, log := t.log, ctrs := t.ctrs }
  core : ∀ p : CoreNo, t.cores[p] = s.cores[p] ∨ t.cores[p] = s.cores[p].stopStreams
  fold : ∀ f ∈ l, t.folds[f].hurdledFrom s.folds[f] code
  other : ∀ f : FoldNo, f ∉ l → t.folds[f] = s.folds[f]

theorem State.foldsHurdled.cons {s t u : State} {code : BitVec 16} {f : FoldNo} {l : List FoldNo} (first : t.hurdledFrom s f code)
    (rest : u.foldsHurdled t code l) : u.foldsHurdled s code (f :: l) := by
  refine ⟨rest.frame.trans ?_, fun p => ?_, fun g member => ?_, fun g out => ?_⟩
  · have before := first.frame
    generalize u.dumpNo = dumpNo
    generalize u.cores = cores
    generalize u.folds = folds
    generalize u.hall = hall
    generalize u.store = store
    generalize u.log = log
    generalize u.ctrs = ctrs
    rw [before]
  · obtain same | stopped := rest.core p
    · rw [same]
      exact first.core p
    · refine .inr (stopped.trans ?_)
      obtain same | before := first.core p
      · rw [same]
      · rw [before, Core.stopStreams_twice]
  · by_cases here : g = f
    · subst here
      by_cases later : g ∈ l
      · exact first.fold.trans (rest.fold g later)
      · rw [rest.other g later]
        exact first.fold
    · have later : g ∈ l := (List.mem_cons.1 member).resolve_left here
      have fold := rest.fold g later
      rw [first.other g here] at fold
      exact fold
  · rw [rest.other g fun later => out (List.mem_cons.2 (.inr later)), first.other g fun here => out (List.mem_cons.2 (.inl here))]

theorem State.packageFault_hurdled (s : State) : s.packageFault.foldsHurdled s 0x0501 (List.finRange 32) := by
  have all : ∀ (l : List FoldNo) (s : State), (l.foldl (fun (s : State) f => s.hurdle f 0x0501 []) s).foldsHurdled s 0x0501 l := by
    intro l
    induction l with
    | nil => exact fun s => ⟨rfl, fun _ => .inl rfl, fun _ h => absurd h List.not_mem_nil, fun _ _ => rfl⟩
    | cons f l ih => exact fun s => State.foldsHurdled.cons (s.hurdle_hurdledFrom f 0x0501 []) (ih _)
  exact all (List.finRange 32) s

/-! ## The settled statement -/

theorem mem_coresOfDie : ∀ (d : Fin 8) (p : CoreNo), p ∈ coresOfDie d ↔ p.val / 4 = d.val := by decide

theorem State.supplyRail_frame (s : State) (cap : Nat) (detail : List Byte) :
    ∃ t, (State.log1 { s with power := { s.power with cap := cap } } 0x0D0D none none none detail) = t ∧
      t = { s with power := { s.power with cap := cap }, log := t.log, ctrs := t.ctrs } := ⟨_, rfl, State.log1_eq ..⟩

theorem Power.lose_cap (p : Power) (r : UnitRail) : (p.lose r).cap = p.cap := by cases r <;> rfl

theorem State.unitLost_frame (s : State) (r : UnitRail) : ∃ t, s.unitLost r = t ∧ t = { s with
    power := { s.power.lose r with cap := min s.power.cap (s.power.lose r).capLeft }, log := t.log, ctrs := t.ctrs } := by
  refine ⟨_, rfl, ?_⟩
  unfold State.unitLost
  dsimp only
  rw [Power.lose_cap]
  exact State.log1_eq ..

theorem State.standby_frame (s : State) (u : Sup) (detail : List Byte) :
    ∃ t, ((s.onSup u fun x => { x with state := .outOfService }).log1 0x0A02 none none none detail) = t ∧
      (t.sup u).state = .outOfService ∧ t = { s with supA := t.supA, supB := t.supB, log := t.log, ctrs := t.ctrs } := by
  cases u with
  | a => exact ⟨_, rfl, rfl, State.log1_eq ..⟩
  | b => exact ⟨_, rfl, rfl, State.log1_eq ..⟩

theorem State.inputApplied_frame {s : State} (good : s.power.good = false) (sequencing : s.power.sequencing = false)
    (free : s.power.packageTrip = false) : s.inputApplied = { s with power := { s.power with sequencing := true } } := by
  refine if_neg fun h => ?_
  unfold Power.live at h
  rw [good, sequencing, free] at h
  exact h.elim Bool.false_ne_true Bool.false_ne_true

theorem Power.live_of {p : Power} (up : p.good = true ∨ p.sequencing = true) : p.live = true := by
  unfold Power.live
  obtain h | h := up <;> rw [h]
  · rfl
  · exact Bool.or_true _

theorem Power.not_live {p : Power} (good : p.good = false) (sequencing : p.sequencing = false) : p.live = false := by
  unfold Power.live
  rw [good, sequencing]
  rfl

theorem State.outputs_reset {t : State} (sequencing : t.power.sequencing = true) (good : t.power.good = false)
    (early : t.power.bootStep < 3) : t.outputs = Outputs.idle := by
  have phase : t.outPhase = .reset := by
    unfold State.outPhase
    rw [Power.live_of (.inr sequencing), good]
    exact if_pos early
  unfold State.outputs
  rw [phase]

/-- What a module without a store is after power-good. -/
structure State.goodFrom (t s : State) : Prop where
  good : t.power.good = true
  sequencing : t.power.sequencing = false
  goodAt : t.power.goodAt = s.now
  folds : t.folds = s.folds
  tick : t.tick = s.tick
  pres : t.trust.pres = s.trust.pres
  core : ∀ p : CoreNo, t.cores[p] = if s.enabled.getLsbD p.val then
      { s.cores[p] with supply := { s.cores[p].supply with on := true, code := 60, plan := 60, own := 60 } }
    else { s.cores[p] with mode := .fusedOff, supply := { s.cores[p].supply with on := false } }
  branded : s.trust.life = .shipped → s.trust.entropyFailed = false → t.brandedFrom s
  waits : s.trust.life = .shipped → s.trust.entropyFailed = true → t.trust = s.trust

theorem State.powerGoodOp_goodFrom {s : State} (sequencing : s.power.sequencing = true) (down : s.storeUp = false) :
    s.powerGoodOp.goodFrom s := by
  obtain ⟨still, op⟩ := State.powerGoodOp_storeless sequencing down
  obtain ⟨powered, core⟩ := s.powered_from
  obtain ⟨identified, pres⟩ := s.powered.identify_identified
  obtain ⟨⟨frame, -⟩, copied, unbranded⟩ := State.startFirmware_storeless still
  have shipped := fun h => State.identify_shipped (s := s.powered) h
  have branded := s.powered.brand_brandedFrom
  rw [op]
  generalize s.powered.identify.startFirmware = t at frame copied unbranded ⊢
  generalize s.powered.identify = v at identified pres frame copied unbranded shipped
  generalize s.powered.brand = b at shipped branded
  generalize s.powered = w at powered core identified pres shipped branded
  have trust : w.trust = s.trust := by
    rw [powered]
    rfl
  have wholly : ∀ {α : Type} (g : State → α), (∀ cores sample trust log ctrs store supA supB step, g { s.railsUp with
      cores := cores, sample := sample, trust := trust, log := log, ctrs := ctrs, store := store, supA := supA, supB := supB
      power := { s.railsUp.power with bootStep := step } } = g s.railsUp) → g t = g s.railsUp := fun g kept => by
    rw [frame, identified, powered]
    exact kept ..
  have cores : t.cores = w.cores := by rw [frame, identified]
  have kept : t.trust.pres = v.trust.pres ∧ t.trust.life = v.trust.life ∧ t.trust.draws = v.trust.draws ∧
      t.trust.masked = v.trust.masked ∧ t.trust.fingerprint = v.trust.fingerprint := by
    rw [copied]
    exact ⟨rfl, rfl, rfl, rfl, rfl⟩
  obtain ⟨keptPres, keptLife, keptDraws, keptMasked, keptPrint⟩ := kept
  refine ⟨wholly (fun u => u.power.good) fun _ _ _ _ _ _ _ _ _ => rfl, wholly (fun u => u.power.sequencing) fun _ _ _ _ _ _ _ _ _ => rfl,
    wholly (fun u => u.power.goodAt) fun _ _ _ _ _ _ _ _ _ => rfl, wholly State.folds fun _ _ _ _ _ _ _ _ _ => rfl,
    wholly State.tick fun _ _ _ _ _ _ _ _ _ => rfl, ?_, fun p => ?_, fun life sound => ?_, fun life failed => ?_⟩
  · rw [keptPres, pres, trust]
  · rw [cores]
    exact core p
  · have who := shipped (by rw [trust]; exact life)
    rw [trust, sound] at who
    have who : v = b := who
    obtain ⟨bLife, draws, masked, print⟩ := branded
    rw [trust] at draws masked
    rw [who] at keptLife keptDraws keptMasked keptPrint copied
    have root : t.trust.root = b.trust.root := by rw [copied]
    exact ⟨keptLife.trans bLife, keptDraws.trans draws, keptMasked.trans masked,
      (keptPrint.trans print).trans (congrArg fingerprintOf (State.brandKey_congr root).symm)⟩
  · have who := shipped (by rw [trust]; exact life)
    rw [trust, failed] at who
    have who : v = w := who
    have same := unbranded (by rw [who, trust, life]; decide)
    rw [same, who, trust]

/-- Settles O42: power comes up in its steps, an input out of its band takes every rail down, and a rail out of band is a fault of
what hangs on it. -/
theorem powerComesAndGoes : Obligations.PowerComesAndGoes := by
  unfold Obligations.PowerComesAndGoes
  refine ⟨⟨fun s => ⟨fun good sequencing free => exec_next (t := s.inputApplied) (State.inputApplied_frame good sequencing free),
        fun good sequencing free early => ?_, fun held => ?_⟩,
      fun s => ⟨fun idle => ?_, fun sequencing down => ?_⟩⟩,
    fun s mv c lost => ⟨fun up => ?_, fun good sequencing => ⟨fun high => ?_, fun low => ?_⟩⟩,
    fun s p => rfl, fun s d => ?_, fun s c copper rail => ?_, fun s => ?_, fun s c rail => ?_, fun s u => ?_, fun s r => ?_⟩
  · refine ⟨_, exec_next (t := s.inputApplied) (State.inputApplied_frame good sequencing free), ?_⟩
    exact State.outputs_reset rfl good early
  · refine exec_next (t := s.inputApplied) (if_pos ?_)
    obtain h | h | h := held
    · exact .inl (Power.live_of (.inl h))
    · exact .inl (Power.live_of (.inr h))
    · exact .inr h
  · exact exec_next (t := s.powerGoodOp) (if_neg (by rw [idle]; exact Bool.false_ne_true))
  · obtain ⟨good, still, goodAt, folds, tick, pres, core, branded, waits⟩ := State.powerGoodOp_goodFrom sequencing down
    refine ⟨_, exec_next (t := s.powerGoodOp) rfl, good, still, goodAt, folds, tick, pres, fun p => ⟨fun enabled => ?_, fun off => ?_⟩,
      fun life sound => ?_, waits⟩
    · exact (core p).trans (if_pos enabled)
    · have dark := (core p).trans (if_neg (by rw [off]; exact Bool.false_ne_true))
      rw [dark]
      exact ⟨rfl, rfl⟩
    · obtain ⟨life, draws, masked, print⟩ := branded life sound
      exact ⟨life, draws, masked, print⟩
  · have op : exec c s = .next (s.shutdown 0x0D0B (leBytes mv 4)) := by
      obtain rfl | rfl := lost
      · exact exec_next (t := s.undervoltage mv) (if_pos (Power.live_of up))
      · exact exec_next (t := s.overvoltage mv) (if_pos (Power.live_of up))
    obtain ⟨good, sequencing, outputs, sec, folds, fab, st, pl, cores, commits, record, slots, life, fingerprint, generation, debugCount,
      fuse, window, root, staged, now, pending⟩ := s.shutdown_shutFrom 0x0D0B (leBytes mv 4)
    exact ⟨_, op, good, sequencing, outputs, sec, folds, fab, st, pl, cores, commits, record, slots, life, fingerprint, generation,
      debugCount, fuse, window, root, staged, now, pending⟩
  · rw [high]
    exact exec_next (t := s.overvoltage mv) (if_neg (by rw [Power.not_live good sequencing]; exact Bool.false_ne_true))
  · rw [low]
    exact exec_next (t := s.undervoltage mv) (if_neg (by rw [Power.not_live good sequencing]; exact Bool.false_ne_true))
  · have turned := foldl_coresTurned (fun s p => s.coreFault p .regulator) Core.regulated State.coreFault_turned Core.regulated_twice
      (coresOfDie d) s
    refine ⟨_, exec_next (t := s.railOut (.vstk d)) rfl, fun p => ⟨fun here fine on used => ?_, fun elsewhere => ?_⟩⟩
    · refine (turned.core p).trans ((if_pos ((mem_coresOfDie d p).2 here)).trans ?_)
      exact if_pos (Core.sound_of fine on used)
    · exact (turned.core p).trans (if_neg fun member => elsewhere ((mem_coresOfDie d p).1 member))
  · obtain ⟨frame, dark, other⟩ := s.railPorts_darkened copper
    generalize hu : s.railPorts copper = u at frame dark other
    have ports : ∀ p : FabricPort, (decide (p.val < 16) = copper → u.fab[p].state = .down ∧ u.fab[p].sig = 0) ∧
        (decide (p.val < 16) ≠ copper → u.fab[p] = s.fab[p]) :=
      fun p => ⟨dark p (List.mem_finRange p), fun off => other p (.inr off)⟩
    have cores : u.cores = s.cores := by rw [frame]
    have tick : u.tick = s.tick := by rw [frame]
    have st : u.st = s.st := by rw [frame]
    have pl : u.pl = s.pl := by rw [frame]
    rw [List.mem_cons, List.mem_singleton] at rail
    obtain h | h := rail <;> cases h
    · refine ⟨{ u with st := u.st.map fun x => { x with up := false }, pl := u.pl.map fun x => { x with up := false } },
        exec_next (t := s.railOut .vio) ?_, cores, tick, ports, fun _ => ⟨fun p => ?_, fun p => ?_⟩, fun h => ?_⟩
      · rw [← hu]
        rfl
      · rw [st]
        exact Vector.getElem_map ..
      · rw [pl]
        exact Vector.getElem_map ..
      · cases h
    · refine ⟨u, exec_next (t := s.railOut .vopt) hu, cores, tick, ports, fun h => ?_, fun _ => ⟨st, pl⟩⟩
      cases h
  · have hurdled := s.packageFault_hurdled
    refine ⟨s.packageFault, exec_next (t := s.railOut .vnet) rfl, fun f => ?_⟩
    generalize s.packageFault = t at hurdled
    have fold := hurdled.fold f (List.mem_finRange f)
    exact ⟨fold.stops, fun off => fold.keeps (.inl off)⟩
  · rw [List.mem_cons, List.mem_singleton] at rail
    obtain rfl | rfl := rail
    · exact ⟨_, exec_next (t := s.railOut .bus12) rfl, State.log1_eq ..⟩
    · exact ⟨_, exec_next (t := s.railOut .pkg1v8) rfl, State.log1_eq ..⟩
  · obtain ⟨t, run, out, frame⟩ := s.standby_frame u [BitVec.ofNat 8 (supNo u), 2]
    exact ⟨t, exec_next (t := s.railOut (.stby u)) run, out, frame⟩
  · obtain ⟨t, run, frame⟩ := s.unitLost_frame r
    exact ⟨t, exec_next (t := s.unitLost r) run, frame⟩

end Sys2Proof.Machine


/-! Phase samples, temperatures and trips (O44). -/

namespace Sys2Proof.Machine

/-! ## What a crossing leaves -/

/-- The map of the cores and the holdings of the folds stand; a condition forced stays forced, and a fold that stands stays so. -/
structure State.crossed (t s : State) : Prop where
  frame : t = { s with dumpNo := t.dumpNo, cores := t.cores, folds := t.folds, hall := t.hall, store := t.store, log := t.log, ctrs := t.ctrs }
  core : ∀ p : CoreNo, t.cores[p].mode = s.cores[p].mode ∧ t.cores[p].logical = s.cores[p].logical
  allot : ∀ f : FoldNo, t.folds[f].allot = s.folds[f].allot
  image : ∀ f : FoldNo, t.folds[f].image = s.folds[f].image
  forced : ∀ f : FoldNo, s.folds[f].sel.forced = true → t.folds[f].sel.forced = true
  stands : ∀ f : FoldNo, s.folds[f].run ≠ .running → t.folds[f].run ≠ .running

section
variable {s t u : State}

theorem State.crossed.refl (s : State) : s.crossed s := ⟨rfl, fun _ => ⟨rfl, rfl⟩, fun _ => rfl, fun _ => rfl, fun _ => id, fun _ => id⟩

theorem State.crossed.trans (first : t.crossed s) (second : u.crossed t) : u.crossed s := by
  refine ⟨second.frame.trans ?_, fun p => ?_, fun f => (second.allot f).trans (first.allot f), fun f => (second.image f).trans (first.image f),
    fun f h => second.forced f (first.forced f h), fun f h => second.stands f (first.stands f h)⟩
  · have before := first.frame
    generalize u.dumpNo = dumpNo
    generalize u.cores = cores
    generalize u.folds = folds
    generalize u.hall = hall
    generalize u.store = store
    generalize u.log = log
    generalize u.ctrs = ctrs
    rw [before]
  · obtain ⟨mode, logical⟩ := second.core p
    obtain ⟨mode', logical'⟩ := first.core p
    exact ⟨mode.trans mode', logical.trans logical'⟩

theorem State.crossed.logicalOf (crossed : t.crossed s) (p : CoreNo) : t.logicalOf p = s.logicalOf p := by
  obtain ⟨mode, logical⟩ := crossed.core p
  unfold State.logicalOf
  rw [mode, logical]

theorem State.crossed.holders (crossed : t.crossed s) (l : CoreNo) : t.holders l = s.holders l := by
  unfold State.holders
  simp only [crossed.allot]

/-- A state whose folds are the same, and whose cores hold the same place. -/
theorem State.crossed_of_folds (frame : t = { s with cores := t.cores, log := t.log, ctrs := t.ctrs })
    (core : ∀ p : CoreNo, t.cores[p].mode = s.cores[p].mode ∧ t.cores[p].logical = s.cores[p].logical) : t.crossed s ∧ t.folds = s.folds := by
  have folds : t.folds = s.folds := by rw [frame]
  refine ⟨⟨?_, core, fun f => by rw [folds], fun f => by rw [folds], fun f h => by rw [folds]; exact h, fun f h => by rw [folds]; exact h⟩, folds⟩
  generalize t.cores = cores at frame
  generalize t.log = log at frame
  generalize t.ctrs = ctrs at frame
  rw [frame]

theorem State.withCores_crossed (s : State) (cores : Vector Core 32)
    (core : ∀ p : CoreNo, cores[p].mode = s.cores[p].mode ∧ cores[p].logical = s.cores[p].logical) :
    State.crossed { s with cores := cores } s ∧ State.folds { s with cores := cores } = s.folds := State.crossed_of_folds rfl core

theorem State.onSupply_crossed (s : State) (p : CoreNo) (g : Supply → Supply) : (s.onSupply p g).crossed s ∧ (s.onSupply p g).folds = s.folds := by
  obtain ⟨only, core⟩ := s.onCore_frame p fun c => { c with supply := g c.supply }
  refine State.crossed_of_folds rfl fun q => ?_
  by_cases here : q = p
  · subst here
    have changed : (s.onSupply q g).cores[q] = _ := core
    rw [changed]
    exact ⟨rfl, rfl⟩
  · have kept : (s.onSupply p g).cores[q] = s.cores[q] := only.1 q here
    rw [kept]
    exact ⟨rfl, rfl⟩

theorem State.log1_crossed (s : State) (code : BitVec 16) (f : Option FoldNo) (l p : Option CoreNo) (detail : List Byte) :
    (s.log1 code f l p detail).crossed s ∧ (s.log1 code f l p detail).folds = s.folds :=
  State.crossed_of_folds (State.log1_eq ..) fun _ => ⟨rfl, rfl⟩

/-- A pass of steps that keep the folds keeps them. -/
theorem foldl_crossed {β : Type} (step : State → β → State) (each : ∀ t b, (step t b).crossed t ∧ (step t b).folds = t.folds) (l : List β)
    (s : State) : (l.foldl step s).crossed s ∧ (l.foldl step s).folds = s.folds :=
  foldl_keep (fun t : State => t.crossed s ∧ t.folds = s.folds) step
    (fun t b kept => ⟨kept.1.trans (each t b).1, (each t b).2.trans kept.2⟩) l s ⟨State.crossed.refl s, rfl⟩

theorem State.raiseDie_crossed (s : State) (d : Fin 8) : (s.raiseDie d).crossed s ∧ (s.raiseDie d).folds = s.folds :=
  foldl_crossed _ (fun t p => t.onSupply_crossed p _) _ s

theorem State.lift_crossed (s : State) : s.lift.crossed s ∧ s.lift.folds = s.folds := by
  have frame : s.lift = { s with cores := s.lift.cores } := rfl
  rw [frame]
  refine s.withCores_crossed _ fun p => ?_
  unfold State.lift
  dsimp only
  rw [Fin.getElem_fin, Vector.getElem_ofFn]
  split
  · exact ⟨rfl, rfl⟩
  · exact ⟨rfl, rfl⟩

theorem State.setFloors_crossed (s : State) : s.setFloors.crossed s ∧ s.setFloors.folds = s.folds := by
  have frame : s.setFloors = { s with cores := s.setFloors.cores } := rfl
  rw [frame]
  refine s.withCores_crossed _ fun p => ?_
  unfold State.setFloors
  dsimp only
  rw [Fin.getElem_fin, Vector.getElem_ofFn]
  exact ⟨rfl, rfl⟩

/-- The clamps that a settled voltage sets and releases are logged. -/
def State.clampTold (s t : State) : State :=
  (List.finRange 32).foldl (fun (t : State) p =>
    if s.cores[p].supply.lifted ≠ t.cores[p].supply.lifted then
      t.log1 0x0D09 none none (some p) (leBytes p.val 1 ++ leBytes (b2n t.cores[p].supply.lifted) 1 ++ leBytes (t.cores[p].supply.code - t.cores[p].supply.own) 1)
    else t) t

theorem State.settle_eq (s : State) : s.settle = s.clampTold ((List.range 32).foldl (fun (s : State) _ => s.lift) s).setFloors := rfl

theorem State.clampTold_crossed (s t : State) : (s.clampTold t).crossed t ∧ (s.clampTold t).folds = t.folds := by
  refine foldl_crossed _ (fun u p => ?_) _ t
  split
  · exact u.log1_crossed ..
  · exact ⟨State.crossed.refl u, rfl⟩

theorem State.settle_crossed (s : State) : s.settle.crossed s ∧ s.settle.folds = s.folds := by
  rw [State.settle_eq]
  have lifted := foldl_crossed (fun (s : State) (_ : Nat) => s.lift) (fun t _ => t.lift_crossed) (List.range 32) s
  generalize (List.range 32).foldl (fun (s : State) _ => s.lift) s = u at lifted
  have floors := u.setFloors_crossed
  generalize u.setFloors = v at floors
  have told := s.clampTold_crossed v
  exact ⟨(lifted.1.trans floors.1).trans told.1, told.2.trans (floors.2.trans lifted.2)⟩

theorem State.forceFold_fold (s : State) (f g : FoldNo) : (s.forceFold f).folds[g] =
    if g = f then { s.folds[g] with sel := { s.folds[g].sel with forced := true } } else s.folds[g] := by
  by_cases here : g = f
  · subst here
    rw [if_pos rfl]
    exact vmod_get_self ..
  · rw [if_neg here]
    exact vmod_get_other _ _ _ _ here

theorem State.forceFold_forced (s : State) (f : FoldNo) : (s.forceFold f).folds[f].sel.forced = true := by
  rw [State.forceFold_fold, if_pos rfl]

theorem State.forceFold_crossed (s : State) (f : FoldNo) : (s.forceFold f).crossed s := by
  have fold := s.forceFold_fold f
  refine ⟨rfl, fun _ => ⟨rfl, rfl⟩, fun g => ?_, fun g => ?_, fun g h => ?_, fun g h => ?_⟩
  all_goals rw [fold g]
  · split <;> rfl
  · split <;> rfl
  · split
    · rfl
    · exact h
  · split
    · exact h
    · exact h

theorem State.forceCore_crossed (s : State) (p : CoreNo) : (s.forceCore p).crossed s := by
  unfold State.forceCore
  split
  · exact foldl_keep (fun t : State => t.crossed s) _ (fun t f kept => kept.trans (t.forceFold_crossed f)) _ s (State.crossed.refl s)
  · exact State.crossed.refl s

theorem State.forceCore_forced {p l : CoreNo} {f : FoldNo} (logical : s.logicalOf p = some l) (holds : f ∈ s.holders l) :
    (s.forceCore p).folds[f].sel.forced = true := by
  unfold State.forceCore
  rw [logical]
  exact foldl_reaches (P := fun _ => True) (Q := fun t : State => t.folds[f].sel.forced = true) (f := State.forceFold)
    (fun t _ => t.forceFold_forced f) (fun _ _ _ => .inl trivial) (fun t g h => (t.forceFold_crossed g).forced f h) _ s holds (.inl trivial)

theorem State.packageFault_crossed (s : State) : s.packageFault.crossed s := by
  have hurdled := s.packageFault_hurdled
  generalize s.packageFault = t at hurdled
  have fold := fun f => hurdled.fold f (List.mem_finRange f)
  refine ⟨hurdled.frame, fun p => ?_, fun f => (fold f).allot, fun f => (fold f).image, fun f h => ?_, fun f h => ?_⟩
  · obtain same | stopped := hurdled.core p
    · rw [same]
      exact ⟨rfl, rfl⟩
    · rw [stopped]
      exact ⟨rfl, rfl⟩
  · rw [(fold f).sel]
    exact h
  · rw [(fold f).keeps (.inl h)]
    exact h

/-! ## Crossings -/

theorem State.crossing_eq (s : State) (x : (Fin 8 × Fin 8) × Nat) : ∃ u, s.crossing x =
      (if 200 < x.2 then (if 140 ≤ x.2 then (coresOfDie x.1.1 ++ coresOfDie x.1.2).foldl State.forceCore u else u).packageFault
        else (if 140 ≤ x.2 then (coresOfDie x.1.1 ++ coresOfDie x.1.2).foldl State.forceCore u else u)) ∧ u.crossed s ∧ u.folds = s.folds := by
  refine ⟨_, rfl, ?_⟩
  split
  · exact s.raiseDie_crossed _
  · exact ⟨State.crossed.refl s, rfl⟩

theorem foldl_forceCore_crossed (l : List CoreNo) (s : State) : (l.foldl State.forceCore s).crossed s :=
  foldl_keep (fun t : State => t.crossed s) _ (fun t p kept => kept.trans (t.forceCore_crossed p)) l s (State.crossed.refl s)

/-- Dies beyond 140 ps have their cores' folds forced. -/
def State.forcedAt (u : State) (x : (Fin 8 × Fin 8) × Nat) : State :=
  if 140 ≤ x.2 then (coresOfDie x.1.1 ++ coresOfDie x.1.2).foldl State.forceCore u else u

theorem State.forcedAt_crossed (u : State) (x : (Fin 8 × Fin 8) × Nat) : (u.forcedAt x).crossed u := by
  unfold State.forcedAt
  split
  · exact foldl_forceCore_crossed _ u
  · exact State.crossed.refl u

theorem mem_coresOfDie_die : ∀ (d : Fin 8) (p : CoreNo), p ∈ coresOfDie d ↔ dieOf p = d := by decide

theorem State.forcedAt_forced {x : (Fin 8 × Fin 8) × Nat} {p l : CoreNo} {f : FoldNo} (far : 140 ≤ x.2)
    (die : dieOf p = x.1.1 ∨ dieOf p = x.1.2) (logical : u.logicalOf p = some l) (holds : f ∈ u.holders l) :
    (u.forcedAt x).folds[f].sel.forced = true := by
  have member : p ∈ coresOfDie x.1.1 ++ coresOfDie x.1.2 :=
    List.mem_append.2 (die.imp (mem_coresOfDie_die _ _).2 (mem_coresOfDie_die _ _).2)
  have run : u.forcedAt x = (coresOfDie x.1.1 ++ coresOfDie x.1.2).foldl State.forceCore u := if_pos far
  rw [run]
  refine (foldl_reaches (P := fun t : State => t.crossed u) (Q := fun t : State => t.crossed u ∧ t.folds[f].sel.forced = true)
    (f := State.forceCore) (fun t kept => ?_) (fun t q kept => .inl (kept.trans (t.forceCore_crossed q)))
    (fun t q kept => ⟨kept.1.trans (t.forceCore_crossed q), (t.forceCore_crossed q).forced f kept.2⟩) _ u member
    (.inl (State.crossed.refl u))).2
  have kept : t.crossed u := kept.elim id fun h => h.1
  exact ⟨kept.trans (t.forceCore_crossed p), State.forceCore_forced ((kept.logicalOf p).trans logical) (by rw [kept.holders]; exact holds)⟩

/-- What one crossing of a phase sample does. -/
structure State.crossedAt (t s : State) (x : (Fin 8 × Fin 8) × Nat) : Prop where
  crossed : t.crossed s
  still : x.2 < 140 → t.folds = s.folds
  forced : ∀ (p l : CoreNo) (f : FoldNo), 140 ≤ x.2 → (dieOf p = x.1.1 ∨ dieOf p = x.1.2) → s.logicalOf p = some l → f ∈ s.holders l →
    t.folds[f].sel.forced = true
  stops : ∀ f : FoldNo, 200 < x.2 → s.folds[f].image.isSome = true → t.folds[f].run ≠ .running

theorem State.packageFault_stops (u : State) {f : FoldNo} (image : u.folds[f].image.isSome = true) :
    u.packageFault.folds[f].run ≠ .running := by
  have fold := u.packageFault_hurdled.fold f (List.mem_finRange f)
  generalize u.packageFault = t at fold
  by_cases running : u.folds[f].run = .running
  · exact (fold.stops running image).1
  · rw [fold.keeps (.inl running)]
    exact running

theorem State.crossing_crossedAt (s : State) (x : (Fin 8 × Fin 8) × Nat) : (s.crossing x).crossedAt s x := by
  obtain ⟨u, run, crossed, folds⟩ := s.crossing_eq x
  have forced := u.forcedAt_crossed x
  have run : s.crossing x = if 200 < x.2 then (u.forcedAt x).packageFault else u.forcedAt x := run
  have fault := (u.forcedAt x).packageFault_crossed
  have forces : ∀ (p l : CoreNo) (f : FoldNo), 140 ≤ x.2 → (dieOf p = x.1.1 ∨ dieOf p = x.1.2) → s.logicalOf p = some l →
      f ∈ s.holders l → (u.forcedAt x).folds[f].sel.forced = true := fun p l f far die logical holds =>
    State.forcedAt_forced far die ((crossed.logicalOf p).trans logical) (by rw [crossed.holders]; exact holds)
  rw [run]
  split
  next beyond =>
    refine ⟨(crossed.trans forced).trans fault, fun near => ?_, fun p l f far die logical holds => ?_, fun f _ image => ?_⟩
    · omega
    · exact fault.forced f (forces p l f far die logical holds)
    · refine State.packageFault_stops _ ?_
      rw [forced.image, crossed.image]
      exact image
  next within =>
    refine ⟨crossed.trans forced, fun near => ?_, forces, fun f beyond => absurd beyond within⟩
    have still : u.forcedAt x = u := if_neg (by omega)
    rw [still]
    exact folds

/-- What the crossings of a phase sample do. -/
structure State.crossedAll (t s : State) (phis : List ((Fin 8 × Fin 8) × Nat)) : Prop where
  crossed : t.crossed s
  still : (∀ x, x ∈ phis → x.2 < 140) → t.folds = s.folds
  forced : ∀ (x : (Fin 8 × Fin 8) × Nat) (p l : CoreNo) (f : FoldNo), x ∈ phis → 140 ≤ x.2 → (dieOf p = x.1.1 ∨ dieOf p = x.1.2) →
    s.logicalOf p = some l → f ∈ s.holders l → t.folds[f].sel.forced = true
  stops : ∀ (x : (Fin 8 × Fin 8) × Nat) (f : FoldNo), x ∈ phis → 200 < x.2 → s.folds[f].image.isSome = true → t.folds[f].run ≠ .running

theorem foldl_crossing : ∀ (phis : List ((Fin 8 × Fin 8) × Nat)) (s : State), (phis.foldl State.crossing s).crossedAll s phis := by
  intro phis
  induction phis with
  | nil => exact fun s => ⟨State.crossed.refl s, fun _ => rfl, fun _ _ _ _ h => absurd h List.not_mem_nil, fun _ _ h => absurd h List.not_mem_nil⟩
  | cons x phis ih =>
    intro s
    have first := s.crossing_crossedAt x
    have rest := ih (s.crossing x)
    rw [List.foldl_cons]
    generalize s.crossing x = u at first rest
    generalize phis.foldl State.crossing u = t at rest
    refine ⟨first.crossed.trans rest.crossed, fun near => ?_, fun y p l f member far die logical holds => ?_, fun y f member far image => ?_⟩
    · exact (rest.still fun y later => near y (List.mem_cons.2 (.inr later))).trans (first.still (near x List.mem_cons_self))
    · obtain rfl | later := List.mem_cons.1 member
      · exact rest.crossed.forced f (first.forced p l f far die logical holds)
      · exact rest.forced y p l f later far die ((first.crossed.logicalOf p).trans logical) (by rw [first.crossed.holders]; exact holds)
    · obtain rfl | later := List.mem_cons.1 member
      · exact rest.crossed.stands f (first.stops f far image)
      · exact rest.stops y f later far (by rw [first.crossed.image]; exact image)

/-! ## Clamps -/

section
variable {was : Bool} {d : Fin 8} {phis : List ((Fin 8 × Fin 8) × Nat)}

theorem clampAfter_any (bound : Nat) :
    ((phis.filter fun x => decide (x.1.1 = d ∨ x.1.2 = d)).any fun x => decide (bound ≤ x.2)) = true ↔
      ∃ x, x ∈ phis ∧ (x.1.1 = d ∨ x.1.2 = d) ∧ bound ≤ x.2 := by
  simp only [List.any_eq_true, List.mem_filter, decide_eq_true_iff, and_assoc]

theorem clampAfter_sets (far : ∃ x, x ∈ phis ∧ (x.1.1 = d ∨ x.1.2 = d) ∧ 125 ≤ x.2) : clampAfter was d phis = true := by
  unfold clampAfter
  dsimp only
  rw [(clampAfter_any 125).2 far, Bool.true_or]

theorem clampAfter_within (within : ∀ x, x ∈ phis → x.1.1 = d ∨ x.1.2 = d → x.2 < 125) :
    clampAfter was d phis = (was && (phis.filter fun x => decide (x.1.1 = d ∨ x.1.2 = d)).any fun x => decide (100 < x.2)) := by
  have none : ((phis.filter fun x => decide (x.1.1 = d ∨ x.1.2 = d)).any fun x => decide (125 ≤ x.2)) = false := by
    refine Bool.eq_false_iff.2 fun any => ?_
    obtain ⟨x, member, mine, far⟩ := (clampAfter_any 125).1 any
    exact absurd far (Nat.not_le.2 (within x member mine))
  unfold clampAfter
  dsimp only
  rw [none, Bool.false_or]

theorem clampAfter_releases (near : ∀ x, x ∈ phis → x.1.1 = d ∨ x.1.2 = d → x.2 ≤ 100) : clampAfter was d phis = false := by
  rw [clampAfter_within fun x member mine => Nat.lt_of_le_of_lt (near x member mine) (by decide)]
  have none : ((phis.filter fun x => decide (x.1.1 = d ∨ x.1.2 = d)).any fun x => decide (100 < x.2)) = false := by
    refine Bool.eq_false_iff.2 fun any => ?_
    obtain ⟨x, member, mine, far⟩ := (clampAfter_any 101).1 any
    exact absurd (near x member mine) (Nat.not_le.2 far)
  rw [none, Bool.and_false]

theorem clampAfter_holds (within : ∀ x, x ∈ phis → x.1.1 = d ∨ x.1.2 = d → x.2 < 125)
    (far : ∃ x, x ∈ phis ∧ (x.1.1 = d ∨ x.1.2 = d) ∧ 100 < x.2) : clampAfter was d phis = was := by
  rw [clampAfter_within within]
  have any : ((phis.filter fun x => decide (x.1.1 = d ∨ x.1.2 = d)).any fun x => decide (100 < x.2)) = true := (clampAfter_any 101).2 far
  rw [any, Bool.and_true]

end

/-- The clamps of the dies after a phase sample. -/
def clampsAfter (old : Vector Bool 8) (phis : List ((Fin 8 × Fin 8) × Nat)) : Vector Bool 8 := Vector.ofFn fun d => clampAfter old[d] d phis

/-- A state with the clamps and angles of a phase sample. -/
def State.clamped (s : State) (phis : List ((Fin 8 × Fin 8) × Nat)) : State :=
  { s with power := { s.power with
      clampDie := clampsAfter s.power.clampDie phis
      phi := Vector.ofFn fun d => ((phis.filter fun x => decide (x.1.1 = d ∨ x.1.2 = d)).map fun x => x.2).foldl max s.power.phi[d] } }

/-- The clamps of dies that a phase sample sets and releases are logged. -/
def State.diesTold (s : State) (old new : Vector Bool 8) : State :=
  (List.finRange 8).foldl (fun (s : State) (d : Fin 8) =>
    if old[d] ≠ new[d] then s.log1 0x0D09 none none none (leBytes (32 + d.val) 1 ++ leBytes (b2n new[d]) 1 ++ leBytes s.power.phi[d] 2)
    else s) s

theorem State.diesTold_crossed (s : State) (old new : Vector Bool 8) : (s.diesTold old new).crossed s ∧ (s.diesTold old new).folds = s.folds := by
  refine foldl_crossed _ (fun t d => ?_) _ s
  split
  · exact t.log1_crossed ..
  · exact ⟨State.crossed.refl t, rfl⟩

theorem State.phaseOp_eq (s : State) (phis : List ((Fin 8 × Fin 8) × Nat)) : s.phaseOp phis =
    (phis.foldl State.crossing ((s.clamped phis).diesTold s.power.clampDie (clampsAfter s.power.clampDie phis))).settle := rfl

/-- What a phase sample does to the folds, from the state with its clamps. -/
theorem State.phaseOp_crossedAll (s : State) (phis : List ((Fin 8 × Fin 8) × Nat)) : (s.phaseOp phis).crossedAll (s.clamped phis) phis := by
  rw [State.phaseOp_eq]
  have told := (s.clamped phis).diesTold_crossed s.power.clampDie (clampsAfter s.power.clampDie phis)
  generalize (s.clamped phis).diesTold s.power.clampDie (clampsAfter s.power.clampDie phis) = u at told
  have crossings := foldl_crossing phis u
  generalize phis.foldl State.crossing u = v at crossings
  have settled := v.settle_crossed
  generalize v.settle = t at settled
  exact ⟨(told.1.trans crossings.crossed).trans settled.1, fun near => (settled.2.trans (crossings.still near)).trans told.2,
    fun x p l f member far die logical holds => settled.1.forced f (crossings.forced x p l f member far die
      ((told.1.logicalOf p).trans logical) (by rw [told.1.holders]; exact holds)),
    fun x f member far image => settled.1.stands f (crossings.stops x f member far (by rw [told.1.image]; exact image))⟩

end

/-! ## Temperatures -/

/-- Of the cores only warming may differ, and of the folds what is forced; and what tells of it. -/
structure State.warmedFrom (t s : State) : Prop where
  frame : t = { s with cores := t.cores, folds := t.folds, log := t.log, ctrs := t.ctrs }
  core : ∀ p : CoreNo, ∃ warming, t.cores[p] = { s.cores[p] with supply := { s.cores[p].supply with warming := warming } }

section
variable {s t u : State}

theorem State.warmedFrom.refl (s : State) : s.warmedFrom s := ⟨rfl, fun _ => ⟨_, rfl⟩⟩

theorem State.warmedFrom.trans (first : t.warmedFrom s) (second : u.warmedFrom t) : u.warmedFrom s := by
  refine ⟨second.frame.trans ?_, fun p => ?_⟩
  · have before := first.frame
    generalize u.cores = cores
    generalize u.folds = folds
    generalize u.log = log
    generalize u.ctrs = ctrs
    rw [before]
  · obtain ⟨before, first⟩ := first.core p
    obtain ⟨after, second⟩ := second.core p
    exact ⟨after, by rw [second, first]⟩

theorem State.forceFold_warmed (s : State) (f : FoldNo) : (s.forceFold f).warmedFrom s := ⟨rfl, fun _ => ⟨_, rfl⟩⟩

theorem State.forceCore_warmed (s : State) (p : CoreNo) : (s.forceCore p).warmedFrom s := by
  unfold State.forceCore
  split
  · exact foldl_keep (fun t : State => t.warmedFrom s) _ (fun t f kept => kept.trans (t.forceFold_warmed f)) _ s (State.warmedFrom.refl s)
  · exact State.warmedFrom.refl s

theorem State.setWarming_warmed (s : State) (p : CoreNo) (on : Bool) (detail : List Byte) :
    ((s.onSupply p fun u => { u with warming := on }).log1 0x0D0A none none (some p) detail).warmedFrom s := by
  obtain ⟨only, core⟩ := s.onCore_frame p fun c => { c with supply := { c.supply with warming := on } }
  have changed : (s.onSupply p fun u => { u with warming := on }).warmedFrom s := by
    refine ⟨rfl, fun q => ?_⟩
    by_cases here : q = p
    · subst here
      exact ⟨on, core⟩
    · exact ⟨_, only.1 q here⟩
  exact changed.trans ⟨State.log1_eq .., fun _ => ⟨_, rfl⟩⟩

theorem State.spread_warmed (s : State) (before : Vector Int 32) (hot cool : CoreNo) : (s.spread before hot cool).warmedFrom s := by
  unfold State.spread
  dsimp only
  split
  · split
    · exact State.warmedFrom.refl s
    · exact s.setWarming_warmed cool true _
  · exact s.forceCore_warmed hot

theorem State.manageWarming_warmed (s : State) (before : Vector Int 32) : (s.manageWarming before).warmedFrom s := by
  unfold State.manageWarming
  dsimp only
  refine foldl_keep (fun t : State => t.warmedFrom s) _ (fun t q kept => ?_) _ _
    (foldl_keep (fun t : State => t.warmedFrom s) _ (fun t p kept => ?_) _ _ (State.warmedFrom.refl s))
  · split
    · exact kept.trans (t.setWarming_warmed q false _)
    · exact kept
  · refine foldl_keep (fun u : State => u.warmedFrom s) _ (fun u q kept => ?_) _ _ kept
    split
    · exact kept.trans (u.spread_warmed before p q)
    · exact kept

/-- A state with the readings of a temperature sample. -/
def State.readTemps (s : State) (r : TempReadings) : State :=
  let s : State := { s with cores := Vector.ofFn fun p =>
    let c := s.cores[p]
    let t := r.cores.getD p.val 0
    { c with supply := { c.supply with
        tj := t, tjMax := max c.supply.tjMax t, stackMax := max c.supply.stackMax (r.sramStacks.getD (dieOf p).val 0) } } }
  { s with power := { s.power with inlet := r.inlet, outlet := r.outlet, tjMax := r.cores.foldl max s.power.tjMax } }

/-- A temperature sample, before a package trip. -/
def State.tempsTaken (s : State) (r : TempReadings) : State :=
  (((s.readTemps r).manageWarming (Vector.ofFn fun p => s.cores[p].supply.tj)).estimateFlow).coolantAlarm

theorem State.temperatureOp_eq (s : State) (r : TempReadings) : s.temperatureOp r =
    if (r.optical ++ r.converters).any fun t => decide (412 ≤ t) then (s.tempsTaken r).tripPackage 1 else s.tempsTaken r := rfl

theorem State.readTemps_sec (s : State) (r : TempReadings) : (s.readTemps r).sec? = s.sec? := by
  unfold State.readTemps
  dsimp only

theorem State.readTemps_power (s : State) (r : TempReadings) :
    (s.readTemps r).power = { s.power with inlet := r.inlet, outlet := r.outlet, tjMax := r.cores.foldl max s.power.tjMax } := by
  unfold State.readTemps
  dsimp only

theorem State.settings_congr {s t : State} (sec : t.sec? = s.sec?) : t.settings = s.settings := by
  unfold State.settings
  rw [sec]

theorem State.readTemps_core (s : State) (r : TempReadings) (p : CoreNo) : (s.readTemps r).cores[p] = { s.cores[p] with
    supply := { s.cores[p].supply with
      tj := r.cores.getD p.val 0, tjMax := max s.cores[p].supply.tjMax (r.cores.getD p.val 0)
      stackMax := max s.cores[p].supply.stackMax (r.sramStacks.getD (dieOf p).val 0) } } := by
  unfold State.readTemps
  dsimp only
  rw [Fin.getElem_fin, Vector.getElem_ofFn]

/-- A state after the coolant has been looked at. -/
structure State.cooledFrom (t s : State) : Prop where
  cores : t.cores = s.cores
  inlet : t.power.inlet = s.power.inlet
  outlet : t.power.outlet = s.power.outlet
  good : t.power.good = s.power.good
  flow : 0 < s.power.outlet - s.power.inlet →
    t.power.flow = s.power.watts * 24000000 / (1030 * 3900 * (s.power.outlet - s.power.inlet).toNat)
  alarm : t.power.alarm = true ↔ 4 * (s.settings.coolant : Int) < s.power.inlet ∨ t.power.flow < 2000

theorem State.coolantAlarm_power (s : State) : s.coolantAlarm.cores = s.cores ∧ s.coolantAlarm.power = { s.power with
    alarm := decide (4 * (s.settings.coolant : Int) < s.power.inlet ∨ s.power.flow < 2000) } := by
  unfold State.coolantAlarm
  extract_lets p now t
  split
  · exact ⟨rfl, rfl⟩
  · exact ⟨rfl, rfl⟩

theorem State.estimateFlow_power (s : State) : s.estimateFlow.cores = s.cores ∧ s.estimateFlow.settings = s.settings ∧
    s.estimateFlow.power = { s.power with flow := s.estimateFlow.power.flow } ∧ (0 < s.power.outlet - s.power.inlet →
      s.estimateFlow.power.flow = s.power.watts * 24000000 / (1030 * 3900 * (s.power.outlet - s.power.inlet).toNat)) := by
  unfold State.estimateFlow
  extract_lets rise
  split
  · exact ⟨rfl, rfl, rfl, fun _ => rfl⟩
  next falls => exact ⟨rfl, rfl, rfl, fun rises => absurd rises falls⟩

theorem State.coolant_cooledFrom (s : State) : s.estimateFlow.coolantAlarm.cooledFrom s := by
  obtain ⟨cores, settings, power, flow⟩ := s.estimateFlow_power
  obtain ⟨cores', power'⟩ := s.estimateFlow.coolantAlarm_power
  generalize s.estimateFlow.coolantAlarm = t at cores' power'
  generalize s.estimateFlow = u at cores settings power flow cores' power'
  rw [settings] at power'
  refine ⟨cores'.trans cores, ?_, ?_, ?_, fun rises => ?_, ?_⟩
  · rw [power', power]
  · rw [power', power]
  · rw [power', power]
  · rw [power']
    exact flow rises
  · rw [power', power]
    exact decide_eq_true_iff

end

/-- What a temperature sample leaves, before a package trip. -/
structure State.tempsTakenFrom (t s : State) (r : TempReadings) : Prop where
  inlet : t.power.inlet = r.inlet
  outlet : t.power.outlet = r.outlet
  core : ∀ p : CoreNo, t.cores[p].supply.tj = r.cores.getD p.val 0 ∧
    t.cores[p].supply.tjMax = max s.cores[p].supply.tjMax (r.cores.getD p.val 0) ∧ t.cores[p].supply.code = s.cores[p].supply.code ∧
    t.cores[p].mode = s.cores[p].mode
  flow : 0 < r.outlet - r.inlet → t.power.flow = s.power.watts * 24000000 / (1030 * 3900 * (r.outlet - r.inlet).toNat)
  alarm : t.power.alarm = true ↔ 4 * (s.settings.coolant : Int) < r.inlet ∨ t.power.flow < 2000
  good : t.power.good = s.power.good

theorem State.tempsTaken_from (s : State) (r : TempReadings) : (s.tempsTaken r).tempsTakenFrom s r := by
  unfold State.tempsTaken
  have warmed := (s.readTemps r).manageWarming_warmed (Vector.ofFn fun p => s.cores[p].supply.tj)
  generalize (s.readTemps r).manageWarming (Vector.ofFn fun p => s.cores[p].supply.tj) = u at warmed
  obtain ⟨cores, inlet, outlet, good, flow, alarm⟩ := u.coolant_cooledFrom
  generalize u.estimateFlow.coolantAlarm = t at cores inlet outlet good flow alarm
  have power : u.power = { s.power with inlet := r.inlet, outlet := r.outlet, tjMax := r.cores.foldl max s.power.tjMax } := by
    rw [warmed.frame, ← s.readTemps_power r]
  have settings : u.settings = s.settings := State.settings_congr (by rw [warmed.frame, State.readTemps_sec])
  rw [power] at inlet outlet good flow alarm
  rw [settings] at alarm
  refine ⟨inlet, outlet, fun p => ?_, flow, alarm, good⟩
  obtain ⟨warming, core⟩ := warmed.core p
  rw [cores, core, s.readTemps_core r p]
  exact ⟨rfl, rfl, rfl, rfl⟩

/-! ## Trips -/

theorem State.tripPackage_down (s : State) (cause : Nat) : ∃ t, s.tripPackage cause = t ∧ t.power.good = false ∧ t.power.packageTrip = true := by
  have shut := s.shutdown_shutFrom 0x0D0F (leBytes cause 1)
  unfold State.tripPackage
  dsimp only
  generalize s.shutdown 0x0D0F (leBytes cause 1) = t at shut
  exact ⟨_, rfl, shut.good, rfl⟩

/-- A core that its junction has switched off, with the fault of its regulator where it can have one. -/
def Core.tripped (now : Nat) (c : Core) : Core := { c.regulated now with supply := { (c.regulated now).supply with on := false } }

theorem Core.regulated_off (now : Nat) (c : Core) : Core.regulated now { c with supply := { c.supply with on := false } } =
    { c.regulated now with supply := { (c.regulated now).supply with on := false } } := by
  unfold Core.regulated
  have same : Core.sound { c with supply := { c.supply with on := false } } = c.sound := rfl
  rw [same]
  cases c.sound <;> rfl

theorem Core.tripped_twice (now : Nat) (c : Core) : Core.tripped now (c.tripped now) = c.tripped now := by
  unfold Core.tripped
  rw [Core.regulated_off, Core.regulated_twice]

theorem Core.tripped_sound (now : Nat) {c : Core} (sound : c.sound = true) : c.tripped now =
    { c with fault := some now, cause := some .regulator, supply := { c.supply with on := false } } := by
  have faulted : Core.regulated now c = c.faulted now .regulator := if_pos sound
  unfold Core.tripped
  rw [faulted]
  rfl

/-- A core switched off by its junction. -/
def State.tripCore (s : State) (p : CoreNo) : State := (s.coreFault p .regulator).onSupply p fun u => { u with on := false }

theorem State.tripCore_turned (s : State) (p : CoreNo) : (s.tripCore p).coresTurned s (Core.tripped s.now) [p] := by
  have fault := s.coreFault_turned p
  unfold State.tripCore
  generalize s.coreFault p .regulator = u at fault
  obtain ⟨only, core⟩ := u.onCore_frame p fun c => { c with supply := { c.supply with on := false } }
  have frame : (u.onSupply p fun u => { u with on := false }) = { u with cores := (u.onSupply p fun u => { u with on := false }).cores } := rfl
  refine ⟨?_, fun q => ?_⟩
  · generalize u.onSupply p (fun u => { u with on := false }) = t at frame
    obtain ⟨cores, rfl⟩ : ∃ cores, t = { u with cores := cores } := ⟨_, frame⟩
    obtain ⟨before, folds, hall, log, ctrs, rfl⟩ : ∃ before folds hall log ctrs, u = { s with
      cores := before, folds := folds, hall := hall, log := log, ctrs := ctrs } := ⟨_, _, _, _, _, fault.frame⟩
    rfl
  · by_cases here : q = p
    · subst here
      have turned := fault.core q
      rw [if_pos (List.mem_singleton_self _)] at turned ⊢
      refine core.trans ?_
      rw [turned]
      rfl
    · have kept : (u.onSupply p fun u => { u with on := false }).cores[q] = u.cores[q] := only.1 q here
      rw [kept, fault.core q, if_neg fun h => here (List.mem_singleton.1 h), if_neg fun h => here (List.mem_singleton.1 h)]

/-- The die of a sensor. -/
def tripDie : TripSensor → Fin 8
  | .core p => dieOf p
  | .stack d => d

/-- The cores that a sensor switches off. -/
def tripCores : TripSensor → List CoreNo
  | .core p => [p]
  | .stack d => coresOfDie d

/-- The number of a sensor in the log. -/
def tripNumber : TripSensor → Nat
  | .core p => p.val
  | .stack d => 32 + d.val

/-- The trips of the last second, with one more. -/
def Power.tripsWith (p : Power) (d : Fin 8) (now : Nat) : List (Fin 8 × Nat) :=
  (d, now) :: p.trips.filter fun t => decide (now < t.2 + secondCycles)

/-- A state whose power keeps a trip. -/
def State.tripKept (u : State) (d : Fin 8) : State := { u with power := { u.power with trips := u.power.tripsWith d u.now } }

/-- A trip kept, which takes the package down with the third die of a second. -/
def State.tripEnd (u : State) (d : Fin 8) : State :=
  if 3 ≤ ((u.power.tripsWith d u.now).map fun t => t.1).dedup.length then (u.tripKept d).tripPackage 0 else u.tripKept d

theorem State.tripOp_eq (s : State) (x : TripSensor) (reading : Int) : s.tripOp x reading = if reading < 412 then s else
    ((tripCores x).foldl State.tripCore (s.log1 0x0D08 none none none (leBytes (tripNumber x) 1 ++ leBytes (wrapN reading 16) 2))).tripEnd
      (tripDie x) := by
  unfold State.tripOp
  refine if_congr Iff.rfl rfl ?_
  cases x with
  | core p =>
    dsimp only [tripCores, tripNumber, tripDie]
    generalize leBytes p.val 1 ++ leBytes (wrapN reading 16) 2 = bytes
    generalize s.log1 0x0D08 none none none bytes = v
    unfold State.tripEnd State.tripKept State.tripCore Power.tripsWith
    rfl
  | stack d =>
    dsimp only [tripCores, tripNumber, tripDie]
    generalize leBytes (32 + d.val) 1 ++ leBytes (wrapN reading 16) 2 = bytes
    generalize s.log1 0x0D08 none none none bytes = v
    unfold State.tripEnd State.tripKept State.tripCore Power.tripsWith
    rfl

/-- What a trip leaves that does not trip the package. -/
structure State.trippedFrom (t s : State) (x : TripSensor) : Prop where
  core : ∀ p : CoreNo, t.cores[p] = if p ∈ tripCores x then s.cores[p].tripped s.now else s.cores[p]
  trips : t.power.trips.head? = some (tripDie x, s.now)
  good : t.power.good = s.power.good

/-- A trip leaves its cores off, or takes the package down when it is the third die of one second. -/
theorem State.tripOp_tripped (s : State) (x : TripSensor) {reading : Int} (far : 412 ≤ reading) {ds : List (Fin 8)}
    (dies : ds = tripDie x :: ((s.power.trips.filter fun t => decide (s.now < t.2 + 2000000000)).map fun t => t.1)) :
    (ds.dedup.length < 3 → ∃ t, s.tripOp x reading = t ∧ t.trippedFrom s x) ∧
      (3 ≤ ds.dedup.length → ∃ t, s.tripOp x reading = t ∧ t.power.good = false ∧ t.power.packageTrip = true) := by
  have op := (s.tripOp_eq x reading).trans (if_neg (Int.not_lt.2 far))
  have logged := s.log1_eq 0x0D08 none none none (leBytes (tripNumber x) 1 ++ leBytes (wrapN reading 16) 2)
  generalize s.log1 0x0D08 none none none (leBytes (tripNumber x) 1 ++ leBytes (wrapN reading 16) 2) = v at op logged
  have turned := foldl_coresTurned State.tripCore Core.tripped State.tripCore_turned Core.tripped_twice (tripCores x) v
  generalize (tripCores x).foldl State.tripCore v = u at op turned
  have now : v.now = s.now := by rw [logged]
  have cores : v.cores = s.cores := by rw [logged]
  have power : u.power = s.power := by rw [turned.frame, logged]
  have unow : u.now = s.now := turned.now.trans now
  have same : (u.power.tripsWith (tripDie x) u.now).map (fun t => t.1) = ds := by
    rw [power, unow, dies]
    rfl
  unfold State.tripEnd at op
  rw [same] at op
  refine ⟨fun few => ⟨_, op.trans (if_neg (by omega)), fun p => ?_, ?_, ?_⟩, fun many => ?_⟩
  · have core := turned.core p
    rw [now, cores] at core
    exact core
  · show (u.power.tripsWith (tripDie x) u.now).head? = _
    rw [unow]
    rfl
  · show u.power.good = _
    exact congrArg Power.good power
  · obtain ⟨t, run, down, trip⟩ := (u.tripKept (tripDie x)).tripPackage_down 0
    exact ⟨t, (op.trans (if_pos many)).trans run, down, trip⟩

/-- Settles O44: phase samples clamp dies and stop folds, temperature samples are kept, and trips switch a core or the package off. -/
theorem phaseAndTemperature : Obligations.PhaseAndTemperature := by
  unfold Obligations.PhaseAndTemperature
  refine ⟨fun s phis => ?_, fun s r cold => ?_, fun s r x member hot => ?_,
    fun s x reading cold => exec_next (t := s.tripOp x reading) (if_pos cold),
    fun s d reading ds far dies => ⟨fun few => ?_, fun many => ?_⟩, fun s p reading ds far dies => ⟨fun few fine on used => ?_, fun many => ?_⟩⟩
  · obtain ⟨crossed, still, forced, stops⟩ := s.phaseOp_crossedAll phis
    refine ⟨s.phaseOp phis, exec_next (t := s.phaseOp phis) rfl, ?_⟩
    generalize s.phaseOp phis = t at crossed still forced stops
    have power : t.power = (s.clamped phis).power := by rw [crossed.frame]
    have clamp : ∀ d : Fin 8, t.power.clampDie[d] = clampAfter s.power.clampDie[d] d phis := fun d => by
      rw [power]
      exact Vector.getElem_ofFn ..
    refine ⟨fun d => ?_, forced, fun x f member far _ image => stops x f member far image, still, (congrArg Power.good power).trans rfl⟩
    rw [clamp d]
    exact ⟨clampAfter_sets, clampAfter_releases, clampAfter_holds⟩
  · have none : ¬((r.optical ++ r.converters).any fun t => decide (412 ≤ t)) = true := fun any => by
      obtain ⟨x, member, hot⟩ := List.any_eq_true.1 any
      exact absurd (of_decide_eq_true hot) (Int.not_le.2 (cold x member))
    obtain ⟨inlet, outlet, core, flow, alarm, good⟩ := s.tempsTaken_from r
    have op := (s.temperatureOp_eq r).trans (if_neg none)
    generalize s.tempsTaken r = t at op inlet outlet core flow alarm good
    exact ⟨t, exec_next (t := s.temperatureOp r) op, inlet, outlet, core, flow, alarm, good⟩
  · have any : ((r.optical ++ r.converters).any fun t => decide (412 ≤ t)) = true := List.any_eq_true.2 ⟨x, member, decide_eq_true hot⟩
    obtain ⟨t, run, down, trip⟩ := (s.tempsTaken r).tripPackage_down 1
    exact ⟨t, exec_next (t := s.temperatureOp r) ((s.temperatureOp_eq r).trans ((if_pos any).trans run)), down, trip⟩
  · obtain ⟨t, run, core, trips, good⟩ := (s.tripOp_tripped (.stack d) far dies).1 few
    refine ⟨t, exec_next (t := s.tripOp (.stack d) reading) run, fun p => ⟨fun elsewhere => ?_, fun here fine on used => ?_⟩, trips, good⟩
    · exact (core p).trans (if_neg fun member => elsewhere ((mem_coresOfDie_die d p).1 member))
    · exact ((core p).trans (if_pos ((mem_coresOfDie_die d p).2 here))).trans (Core.tripped_sound s.now (Core.sound_of fine on used))
  · obtain ⟨t, run, down, trip⟩ := (s.tripOp_tripped (.stack d) far dies).2 many
    exact ⟨t, exec_next (t := s.tripOp (.stack d) reading) run, down, trip⟩
  · obtain ⟨t, run, core, trips, good⟩ := (s.tripOp_tripped (.core p) far dies).1 few
    refine ⟨t, exec_next (t := s.tripOp (.core p) reading) run, fun q other => ?_, ?_, trips, good⟩
    · exact (core q).trans (if_neg fun member => other (List.mem_singleton.1 member))
    · exact ((core p).trans (if_pos (List.mem_singleton_self p))).trans (Core.tripped_sound s.now (Core.sound_of fine on used))
  · obtain ⟨t, run, down, trip⟩ := (s.tripOp_tripped (.core p) far dies).2 many
    exact ⟨t, exec_next (t := s.tripOp (.core p) reading) run, down, trip⟩

end Sys2Proof.Machine


/-! Beats granted and landed, and the store of their bytes (O27). -/

namespace Sys2Proof.Machine

/-! ## What a store writes -/

/-- The part of a run that falls into a word of it stands in the run at its own place. -/
theorem wordPart_get (off : Nat) (bs : List MByte) (w k : Nat) (h : k < (wordPart off bs w).2.length) :
    (wordPart off bs w).2[k]? = bs[(wordPart off bs w).1 + k - off]? := by
  unfold wordPart at h ⊢
  dsimp only at h ⊢
  rw [List.length_take, List.length_drop] at h
  rw [List.getElem?_take_of_lt (by omega), List.getElem?_drop]
  congr 1
  omega

/-- The words that a store has been through hold their bytes of the run. -/
theorem Pasture.storeWord_run (m : Pasture) (now off : Nat) (bs : List MByte) (w k : Nat) (wf : m.wf = true) (lt : k < bs.length) :
    cellGet 0 (off + k) (m.storeWord now off bs w).cells =
      if (off + k) / 32 = w then (bs[k]'lt).1 else cellGet 0 (off + k) m.cells := by
  rw [Pasture.storeWord_get m now off bs w _ wf]
  have length : (wordPart off bs w).2.length = min (off + bs.length) (32 * w + 32) - max off (32 * w) := by
    unfold wordPart
    dsimp only
    rw [List.length_take, List.length_drop]
    omega
  have low : (wordPart off bs w).1 = max off (32 * w) := rfl
  by_cases here : (off + k) / 32 = w
  · rw [if_pos here, if_pos ⟨by omega, by omega⟩]
    have part := wordPart_get off bs w (off + k - (wordPart off bs w).1) (by omega)
    rw [show (wordPart off bs w).1 + (off + k - (wordPart off bs w).1) - off = k by omega, List.getElem?_eq_getElem lt] at part
    rw [List.getD_eq_getElem?_getD, List.getElem?_map, part]
    rfl
  · exact (if_neg fun h => here (by omega)).trans (if_neg here).symm

theorem Pasture.storeWords_run (now off : Nat) (bs : List MByte) (k : Nat) (lt : k < bs.length) (m : Pasture) (wf : m.wf = true) (n : Nat) :
    cellGet 0 (off + k) ((List.range n).foldl (fun m i => m.storeWord now off bs (off / 32 + i)) m).cells =
      if (off + k) / 32 < off / 32 + n then (bs[k]'lt).1 else cellGet 0 (off + k) m.cells := by
  induction n with
  | zero => exact (if_neg (by omega)).symm
  | succ n ih =>
    rw [List.range_succ, List.foldl_append, List.foldl_cons, List.foldl_nil, Pasture.storeWord_run _ now off bs _ k ?_ lt, ih]
    · by_cases here : (off + k) / 32 = off / 32 + n
      · rw [if_pos here, if_pos (by omega)]
      · rw [if_neg here]
        exact if_congr (by omega) rfl rfl
    · exact foldl_keep (fun m : Pasture => m.wf = true) _ (fun a _ ha => Pasture.storeWord_wf a now off bs _ ha) _ _ wf

theorem Pasture.store_run (m : Pasture) (now off : Nat) (bs : List MByte) (wf : m.wf = true) :
    cellsGet 0 (m.store now off bs).cells off bs.length = bs.map fun b => b.1 := by
  unfold cellsGet
  refine List.ext_getElem (by simp) fun k left right => ?_
  have lt : k < bs.length := by simpa using left
  have some_ : bs.isEmpty = false := by
    cases bs with
    | nil => exact absurd lt (Nat.not_lt_zero _)
    | cons => rfl
  rw [List.getElem_map, List.getElem_range, List.getElem_map]
  unfold Pasture.store
  rw [some_]
  refine (Pasture.storeWords_run now off bs k lt m wf _).trans (if_pos ?_)
  simp only [Bool.false_eq_true, ↓reduceIte]
  omega

theorem Pasture.storeWord_flips (m : Pasture) (now off : Nat) (bs : List MByte) (w : Nat) (whole : m.flips = []) :
    (m.storeWord now off bs w).flips = [] := by
  unfold Pasture.storeWord
  dsimp only
  split
  · exact whole
  · dsimp only
    rw [whole]
    exact ite_self _

theorem Pasture.store_flips (m : Pasture) (now off : Nat) (bs : List MByte) (whole : m.flips = []) :
    (m.store now off bs).flips = [] :=
  foldl_keep (fun m : Pasture => m.flips = []) _ (fun a _ ha => Pasture.storeWord_flips a now off bs _ ha) _ _ whole

theorem Pasture.store_bytes (m : Pasture) (now off : Nat) (bs : List MByte) (wf : m.wf = true) (whole : m.flips = []) :
    (m.store now off bs).bytes off bs.length = bs.map fun b => b.1 := by
  unfold Pasture.bytes
  rw [Pasture.store_flips m now off bs whole]
  exact Pasture.store_run m now off bs wf

/-! ## One stream of a core changed -/

@[simp] theorem Core.setDs_setDs (c : Core) (d : DroverNo) (i : DStreamNo) (x y : DStream) :
    (c.setDs d i x).setDs d i y = c.setDs d i y := by
  unfold Core.setDs
  congr 1
  refine Vector.ext fun e he => ?_
  have each := fun (v : Vector (Vector DStream 8) 4) (f : Vector DStream 8 → Vector DStream 8) => vmod_get v d ⟨e, he⟩ f
  refine (each _ _).trans (Eq.trans ?_ (each _ _).symm)
  rw [each]
  by_cases here : (⟨e, he⟩ : DroverNo) = d
  · rw [if_pos here, if_pos here, if_pos here]
    exact Vector.set_set ..
  · rw [if_neg here, if_neg here, if_neg here]

theorem State.setDs_frame (s : State) (p : CoreNo) (d : DroverNo) (i : DStreamNo) (x : DStream) :
    onlyCore s (s.setDs p d i x) p ∧ (s.setDs p d i x).cores[p] = s.cores[p].setDs d i x := s.onCore_frame p _

@[simp] theorem State.setDs_ds_same (s : State) (p : CoreNo) (d : DroverNo) (i : DStreamNo) (x : DStream) :
    (s.setDs p d i x).ds p d i = x := by
  unfold State.ds
  rw [(s.setDs_frame p d i x).2]
  exact Core.setDs_ds_same ..

@[simp] theorem State.setDs_setDs (s : State) (p : CoreNo) (d : DroverNo) (i : DStreamNo) (x y : DStream) :
    (s.setDs p d i x).setDs p d i y = s.setDs p d i y := by
  unfold State.setDs
  rw [State.onCore_onCore]
  exact congrArg (s.onCore p) (funext fun c => c.setDs_setDs d i x y)

/-- A stream whose run goes on settles as it is. -/
theorem DStream.settle_goes {x : DStream} (rearm : x.rearm = none) (goes : x.allStarted = false ∨ x.units ≠ []) (tick : Nat) :
    x.settle tick = x := by
  unfold DStream.settle
  rw [rearm]
  refine if_neg fun over_ => ?_
  obtain ⟨⟨⟨-, all⟩, empty⟩, -⟩ : ((_ ∧ _) ∧ x.units.isEmpty = true) ∧ _ := by simpa only [Bool.and_eq_true] using over_
  obtain going | some_ := goes
  · rw [going] at all
    cases all
  · exact some_ (List.isEmpty_iff.1 empty)

/-! ## A unit that lands whole -/

/-- A unit of unmarked bytes that pasture takes. -/
structure UnitFl.landsWhole (u : UnitFl) (m : Nat) : Prop where
  need : u.need = m
  stores : toPasture u.desc = true
  good : u.bad = false
  clean : (u.data.any fun b => b.2) = false
  inner : u.last = false

section
variable {s : State} {p l : CoreNo} {d : DroverNo} {i : DStreamNo} {u : UnitFl} {ctx : Word256} {m : Nat} {x : DStream}

theorem DStream.finish_lone (units : x.units = [u]) (inner : u.last = false) :
    x.finish 0 false = ({ x with units := [{ u with finished := true, last := false }] }, false) := by
  unfold DStream.finish
  rw [units]
  simp [inner]

theorem DStream.retire_lone (units : x.units = [u]) (done : u.finished = true) : x.retire false = ({ x with units := [] }, 1) := by
  unfold DStream.retire
  rw [units]
  simp [done]

/-- How a stream goes on once its unit at a position has landed, all of it in pasture. -/
def State.unitLeaves (s : State) (p l : CoreNo) (d : DroverNo) (i : DStreamNo) (k m : Nat) (u : UnitFl) (ctx : Word256) (bad : Bool) :
    State :=
  let f := (s.ds p d i).finish k bad
  let r := f.1.retire (xRingOn ctx)
  let s := s.onCore p fun c =>
    let c := c.setDs d i r.1
    if xRingOn ctx then c.onRing (xRing ctx) fun g => (List.range r.2).foldl (fun g _ => g.complete) g else c
  let s := if f.2 && dPost u.desc then s.droverPost p l d i u (r.1.badRuns.contains u.run) m else s
  let s := if f.2 then
      s.setDs p d i ((s.ds p d i).onDesc u.at_ fun e =>
        if dPersistent e.word || e.held.isSome then e else { e with slot := none })
    else s
  s.setDs p d i ((s.ds p d i).settle s.tick.number.toNat)

theorem State.finishUnit_eq (has : (s.ds p d i).units[0]? = some u) (ctx_ : (s.ds p d i).ctx = some ctx) (whole : u.landsWhole m) :
    s.finishUnit p l d i 0 m =
      (s.events p [(0x25, 0)] (some (s.ds p d i).fold)).unitLeaves p l d i 0 m u ctx false := by
  have late : decide (u.need + u.slack < m) = false := decide_eq_false (by have := whole.need; omega)
  have bad : (false || u.bad || u.data.any fun b => b.2) = false := by
    rw [whole.good, whole.clean]
    rfl
  unfold State.finishUnit
  simp only [has, ctx_, late, whole.stores, Bool.false_and, Bool.false_eq_true, ↓reduceIte, Bool.true_or, bad]
  rfl

theorem State.unitLeaves_lone (stream : s.ds p d i = x) (units : x.units = [u]) (inner : u.last = false) (plain : xRingOn ctx = false)
    (rearm : x.rearm = none) (goes : x.ended = false) :
    s.unitLeaves p l d i 0 m u ctx false = s.setDs p d i { x with units := [] } := by
  have done := DStream.finish_lone units inner
  have gone := DStream.retire_lone (x := { x with units := [{ u with finished := true, last := false }] }) rfl rfl
  unfold State.unitLeaves
  rw [stream, done, plain]
  dsimp only
  rw [gone]
  simp only [Bool.false_and, Bool.false_eq_true, ↓reduceIte]
  change State.setDs (s.setDs p d i { x with units := [] }) p d i _ = _
  rw [State.setDs_setDs]
  refine congrArg (s.setDs p d i) ((congrArg (fun y : DStream => y.settle _) (s.setDs_ds_same p d i _)).trans ?_)
  exact DStream.settle_goes (x := { x with units := [] }) rearm (.inl (by unfold DStream.allStarted; rw [goes]; rfl)) _

/-- The only unit of a stream, landed whole on time, leaves the stream, and nothing else changes but counts of events. -/
theorem State.finishUnit_lone (stream : s.ds p d i = x) (units : x.units = [u]) (has : x.ctx = some ctx) (plain : xRingOn ctx = false)
    (rearm : x.rearm = none) (goes : x.ended = false) (whole : u.landsWhole m) :
    onlyCore s (s.finishUnit p l d i 0 m) p ∧
      (s.finishUnit p l d i 0 m).cores[p].quiet = s.cores[p].quiet.setDs d i { x with units := [] } := by
  subst stream
  rw [State.finishUnit_eq (by rw [units]; rfl) has whole]
  obtain ⟨only, quiet⟩ := s.events_frame p [(0x25, 0)] (some (s.ds p d i).fold)
  generalize s.events p [(0x25, 0)] (some (s.ds p d i).fold) = v at only quiet
  rw [State.unitLeaves_lone (congrFun (congrFun (Core.ds_congr quiet) d) i) units whole.inner plain rearm goes]
  obtain ⟨changed, core⟩ := v.setDs_frame p d i { s.ds p d i with units := [] }
  refine ⟨onlyCore_trans only changed, ?_⟩
  refine (congrArg Core.quiet core).trans ?_
  exact congrArg (fun c : Core => c.setDs d i { s.ds p d i with units := [] }) quiet

/-! ## A beat that lands -/

/-- A unit of raw bytes of one run, with one beat that brings them all to pasture of the core itself. -/
structure UnitFl.landsAlone (u : UnitFl) (b : BeatFl) (l : CoreNo) (m n : Nat) : Prop where
  beats : u.beats = [b]
  kept : b.lost = false
  bytes : b.data.length = n
  length : b.len = n
  pos : 1 ≤ n
  fits : u.place % 4096 + n ≤ 4096
  fresh : u.data = []
  unstored : u.stored = 0
  need : u.need = m
  good : u.bad = false
  inner : u.last = false
  elems : u.elems = none
  to_ : u.to_ = none
  dst : u.dst = l
  kind : dKind u.desc = 1
  run : dInner u.desc = n
  pasture : dDstClass u.desc = 1
  src : dSrcFmt u.desc = .raw
  raw : dDstFmt u.desc = .raw
  clean : (b.data.any fun y => y.2) = false

/-- A unit of raw bytes of which everything has landed and nothing is stored. -/
theorem UnitFl.fresh_whole (src : u.srcFmt = .raw) (none : u.stored = 0) (run : dInner u.desc = u.data.length) (pos : 1 ≤ u.data.length) :
    u.fresh = [(0, u.data)] := by
  unfold UnitFl.fresh
  rw [src, none, run]
  have group : Fmt.raw.group.2 = 1 := rfl
  simp only [group, Nat.div_one, Nat.mul_one, Nat.max_eq_right pos, Nat.div_self pos]
  rw [List.range_succ, List.range_one, List.singleton_append, List.filterMap_cons, List.filterMap_cons, List.filterMap_nil]
  have some_ : 0 < u.data.length := pos
  simp [some_]

/-- The unit once its beat has landed. -/
def UnitFl.landed (u : UnitFl) (data : List MByte) (m : Nat) : UnitFl :=
  { u with beats := [], data := data, first := some (u.first.getD m), bad := false }

theorem State.storePart_raw {f : FoldNo} {own : List Nat} {bs : List MByte} (raw : dDstFmt u.desc = .raw) (here : u.to_ = none) :
    s.storePart p l f ctx u m false (0, bs) own = s.storeAt f u.dst m (u.destAt 0) bs own := by
  unfold State.storePart State.convert Core.convertBytes
  simp only [raw, ↓reduceIte, here, Bool.false_eq_true]
  have same : s.cores.set p s.cores[p] = s.cores := Vector.set_getElem_self _
  rw [same]
  rfl

theorem UnitFl.destAt_zero (src : u.srcFmt = .raw) (raw : dDstFmt u.desc = .raw) : u.destAt 0 = u.place := by
  unfold UnitFl.destAt outLen
  rw [src, raw]
  simp [offOf]

/-- The unit once its fresh bytes are stored. -/
def UnitFl.noted (u : UnitFl) (m : Nat) (was words : List Nat) : UnitFl :=
  { u with stored := max u.stored (0 + u.data.length), hot := (m, was ++ words), wrote := words.foldl (fun z w => ivAdd w (w + 1) z) u.wrote }

/-- The fresh bytes of a unit are stored in pasture, and the unit finishes. -/
def State.unitStores (s : State) (p l : CoreNo) (d : DroverNo) (i : DStreamNo) (k m : Nat) (ctx : Word256) (u : UnitFl) (lost : Bool) :
    State :=
  let was := if u.hot.1 = m then u.hot.2 else []
  let r := u.fresh.foldl (fun (a : State × List Nat) q =>
    let o := a.1.storePart p l (s.ds p d i).fold ctx u m lost q (was ++ a.2)
    (o.1, a.2 ++ o.2)) (s, [])
  let v := { u with stored := u.fresh.foldl (fun n q => max n (q.1 + q.2.length)) u.stored
                    hot := (m, was ++ r.2), wrote := r.2.foldl (fun z w => ivAdd w (w + 1) z) u.wrote }
  (r.1.setUnit p d i k v).finishUnit p l d i k m

/-- A unit that holds fresh raw bytes of one run stores them. -/
theorem State.unitStores_whole (fresh : u.fresh = [(0, u.data)]) (src : u.srcFmt = .raw) (raw : dDstFmt u.desc = .raw)
    (here : u.to_ = none) (whole : u.landsWhole m) : ∃ (v : UnitFl) (own : List Nat), v.landsWhole m ∧
      s.unitStores p l d i 0 m ctx u false =
        ((s.storeAt (s.ds p d i).fold u.dst m u.place u.data own).1.setUnit p d i 0 v).finishUnit p l d i 0 m := by
  unfold State.unitStores
  simp only [fresh, List.foldl_cons, List.foldl_nil, List.append_nil, List.nil_append, State.storePart_raw raw here, UnitFl.destAt_zero src raw]
  generalize (if u.hot.1 = m then u.hot.2 else []) = was
  refine ⟨u.noted m was (s.storeAt (s.ds p d i).fold u.dst m u.place u.data was).2, was,
    ⟨whole.need, whole.stores, whole.good, whole.clean, whole.inner⟩, ?_⟩
  generalize s.storeAt (s.ds p d i).fold u.dst m u.place u.data was = r
  rfl

/-- The one beat of a unit stores its bytes and lets the unit finish. -/
theorem State.landBeat_stores {b : BeatFl} {n : Nat} (stream : s.ds p d i = x) (units : x.units = [u]) (has : x.ctx = some ctx)
    (alone : u.landsAlone b l m n) : ∃ (v : UnitFl) (own : List Nat), v.landsWhole m ∧
      s.landBeat p l d i 0 m false = ((s.storeAt x.fold l m u.place b.data own).1.setUnit p d i 0 v).finishUnit p l d i 0 m := by
  have first : (s.ds p d i).units[0]? = some u := by rw [stream, units]; rfl
  have has' : (s.ds p d i).ctx = some ctx := by rw [stream]; exact has
  have fmt : (u.landed b.data m).srcFmt = .raw := by
    unfold UnitFl.srcFmt UnitFl.landed
    dsimp only
    rw [alone.elems]
    exact alone.src
  have stores : toPasture u.desc = true := by
    unfold toPasture
    rw [alone.pasture]
    rfl
  have fresh : (u.landed b.data m).fresh = [(0, b.data)] := UnitFl.fresh_whole fmt alone.unstored
    (alone.run.trans alone.bytes.symm) (alone.bytes ▸ alone.pos)
  have long : ¬b.data.length < b.len := by
    rw [alone.bytes, alone.length]
    exact Nat.lt_irrefl n
  obtain ⟨v, own, whole, lands⟩ := State.unitStores_whole (s := s) (p := p) (l := l) (d := d) (i := i) (ctx := ctx) fresh fmt alone.raw
    alone.to_ ⟨alone.need, stores, rfl, alone.clean, alone.inner⟩
  refine ⟨v, own, whole, Eq.trans ?_ (lands.trans ?_)⟩
  · unfold State.landBeat
    simp only [first, has', alone.beats, alone.good, alone.kept, alone.fresh, stores, long, List.nil_append, Bool.false_eq_true,
      ↓reduceIte, Bool.true_or, Bool.or_self, List.isEmpty_nil]
    rfl
  · have dst : (u.landed b.data m).dst = l := alone.dst
    rw [stream, dst]
    rfl

/-- The one beat of a unit that stays within its core stores its bytes, the unit leaves its stream, and nothing else changes but
counts of events. -/
theorem State.landBeat_alone {b : BeatFl} {n : Nat} (hp : s.phys l = some p) (stream : s.ds p d i = x) (units : x.units = [u])
    (has : x.ctx = some ctx) (plain : xRingOn ctx = false) (rearm : x.rearm = none) (goes : x.ended = false)
    (alone : u.landsAlone b l m n) (inside : s.inRegions x.fold l u.place n = true) (dynamic : s.staticOf x.fold l u.place = false) :
    onlyCore s (s.landBeat p l d i 0 m false) p ∧ (s.landBeat p l d i 0 m false).cores[p].quiet =
      { s.cores[p].quiet.setDs d i { x with units := [] } with pasture := s.cores[p].pasture.store m u.place b.data } := by
  obtain ⟨v, own, whole, lands⟩ := State.landBeat_stores (p := p) stream units has alone
  have some_ : b.data ≠ [] := List.length_pos_iff.1 (alone.bytes ▸ alone.pos)
  obtain ⟨stored, quiet⟩ := State.storeAt_open (m := m) hp some_ (alone.bytes ▸ alone.fits) (alone.bytes ▸ inside) dynamic own
  generalize (s.storeAt x.fold l m u.place b.data own).1 = w at lands stored quiet
  have stream' : w.ds p d i = x := (congrFun (congrFun (Core.ds_congr (e := { s.cores[p] with
    pasture := s.cores[p].pasture.store m u.place b.data }) quiet) d) i).trans stream
  have put : w.setUnit p d i 0 v = w.setDs p d i { x with units := [v] } := by
    unfold State.setUnit
    rw [stream']
    dsimp only
    rw [units]
    rfl
  rw [put] at lands
  obtain ⟨changed, core⟩ := w.setDs_frame p d i { x with units := [v] }
  have left : (w.setDs p d i { x with units := [v] }).ds p d i = { x with units := [v] } := State.setDs_ds_same ..
  generalize w.setDs p d i { x with units := [v] } = y at lands changed core left
  obtain ⟨finished, quiet'⟩ := State.finishUnit_lone (l := l) left rfl has plain rearm goes whole
  rw [lands]
  refine ⟨onlyCore_trans stored (onlyCore_trans changed finished), quiet'.trans ?_⟩
  rw [core]
  refine (Core.setDs_setDs w.cores[p].quiet d i _ _).trans ?_
  exact congrArg (fun c : Core => c.setDs d i { x with units := [] }) quiet

/-! ## The beats due at a core -/

/-- The due beat of a unit that stays within its core. -/
def UnitFl.due (u : UnitFl) (p l : CoreNo) (d : DroverNo) (i : DStreamNo) (m : Nat) : Due :=
  { from_ := u.src, core := p, lcore := l, drover := d, stream := i, run := u.run, unit := u.unit, land := m, stores := true, far := false }

theorem State.dueBeats_alone {b : BeatFl} {n : Nat} (active : s.activeStreams = [(p, l, d, i)]) (stream : s.ds p d i = x)
    (units : x.units = [u]) (alone : u.landsAlone b l m n) (land : b.land = some m) (due : m ≤ s.now) (src : u.src = l)
    (here : u.gone = false) : s.dueBeats l = [u.due p l d i m] := by
  have stores : toPasture u.desc = true := by
    unfold toPasture
    rw [alone.pasture]
    rfl
  unfold State.dueBeats UnitFl.due
  simp [active, stream, units, alone.beats, alone.to_, alone.dst, land, due, src, here, stores]

theorem State.landDue_alone {b : BeatFl} {n : Nat} (stream : s.ds p d i = x) (units : x.units = [u]) (alone : u.landsAlone b l m n)
    (land : b.land = some m) :
    (s.landDue p 0 (u.due p l d i m)).1 = (s.landBeat p l d i 0 m false).events p [(0x39, 0), (0x07, b2n (!u.idle))] (some x.fold) := by
  have same : s.cores.set p s.cores[p] = s.cores := Vector.set_getElem_self _
  unfold State.landDue
  simp only [UnitFl.due, stream, units, List.findIdx?_cons, alone.beats, List.head?_cons, land, decide_true, Bool.and_self, ↓reduceIte,
    Bool.false_eq_true, same]
  rfl

theorem State.landing_alone (hp : s.phys l = some p) (walks : s.cores[p].walks = [])
    (due : s.dueBeats l = [u.due p l d i m]) : s.landing l = (s.landDue p 0 (u.due p l d i m)).1 := by
  unfold State.landing
  rw [hp, due]
  have beats : s.cores[p].walkBeats m = (0, 0) := by
    unfold Core.walkBeats
    rw [walks]
    rfl
  simp [sortKey, insertKey, UnitFl.due]
  exact congrArg (fun n => (s.landDue p n (u.due p l d i m)).1) (congrArg Prod.snd beats)

/-- BEAT_LANDING of the one beat of a core, of a unit that stays within it: its bytes are stored and its unit leaves. -/
theorem State.landing_stores {b : BeatFl} {n : Nat} (hp : s.phys l = some p) (walks : s.cores[p].walks = [])
    (active : s.activeStreams = [(p, l, d, i)]) (stream : s.ds p d i = x)
    (units : x.units = [u]) (has : x.ctx = some ctx) (plain : xRingOn ctx = false) (rearm : x.rearm = none) (goes : x.ended = false)
    (alone : u.landsAlone b l m n) (land : b.land = some m) (due : m ≤ s.now) (src : u.src = l) (here : u.gone = false)
    (inside : s.inRegions x.fold l u.place n = true) (dynamic : s.staticOf x.fold l u.place = false) :
    onlyCore s (s.landing l) p ∧ (s.landing l).cores[p].quiet =
      { s.cores[p].quiet.setDs d i { x with units := [] } with pasture := s.cores[p].pasture.store m u.place b.data } := by
  obtain ⟨only, quiet⟩ := State.landBeat_alone hp stream units has plain rearm goes alone inside dynamic
  rw [State.landing_alone hp walks (State.dueBeats_alone active stream units alone land due src here),
    State.landDue_alone stream units alone land]
  obtain ⟨counted, kept⟩ := (s.landBeat p l d i 0 m false).events_frame p [(0x39, 0), (0x07, b2n (!u.idle))] (some x.fold)
  exact ⟨onlyCore_trans only counted, kept.trans quiet⟩

end

end Sys2Proof.Machine


/-! A beat granted in its cycle (O27). -/

namespace Sys2Proof.Machine

/-! ## Write beats that nothing takes -/

/-- Nothing differs but counts of events, write beats of no number and the cycle of the last grant at one core. -/
structure State.spent (s t : State) (p : CoreNo) : Prop where
  only : onlyCore s t p
  quiet : t.cores[p].quiet = { s.cores[p].quiet with writeBeats := t.cores[p].writeBeats, lastGrant := t.cores[p].lastGrant }
  last : t.cores[p].lastGrant = s.cores[p].lastGrant ∨ t.cores[p].lastGrant = some s.now
  empty : ∀ y ∈ t.cores[p].writeBeats, y ∈ s.cores[p].writeBeats ∨ y.2 = 0

section
variable {s t v : State} {p : CoreNo}

theorem State.spent.refl (s : State) (p : CoreNo) : s.spent s p := ⟨onlyCore_refl s p, rfl, .inl rfl, fun _ h => .inl h⟩

theorem State.spent.trans (h : s.spent t p) (k : t.spent v p) : s.spent v p := by
  have now : t.now = s.now := by rw [h.only.2]
  refine ⟨onlyCore_trans h.only k.only, ?_, ?_, fun y hy => (k.empty y hy).elim (h.empty y) .inr⟩
  · rw [k.quiet, h.quiet]
  · rw [← now]
    obtain same | set := k.last
    · exact same ▸ (now ▸ h.last)
    · exact .inr set

/-- What a reader of the core finds that sees neither counts of events nor write beats nor grants. -/
theorem State.spent.field {α : Type} (k : s.spent t p) (g : Core → α)
    (blind : ∀ (c : Core) (beats : List (Nat × Nat)) (last : Option Nat), g { c.quiet with writeBeats := beats, lastGrant := last } = g c := by
      intros; rfl) :
    g t.cores[p] = g s.cores[p] :=
  (blind t.cores[p] t.cores[p].writeBeats t.cores[p].lastGrant).symm.trans ((congrArg g k.quiet).trans (blind s.cores[p] _ _))

theorem State.spent_events (s : State) (p : CoreNo) (es : List (Nat × Nat)) (g : Option FoldNo) : s.spent (s.events p es g) p := by
  obtain ⟨only, quiet⟩ := s.events_frame p es g
  have beats : (s.events p es g).cores[p].writeBeats = s.cores[p].writeBeats := (congrArg Core.writeBeats quiet :)
  have last : (s.events p es g).cores[p].lastGrant = s.cores[p].lastGrant := (congrArg Core.lastGrant quiet :)
  refine ⟨only, ?_, .inl last, fun y hy => .inl (beats ▸ hy)⟩
  rw [quiet, beats, last]
  rfl

theorem State.spent_takeNone (s : State) (p : CoreNo) (now m : Nat) : s.spent (s.onCore p fun c => c.takeWrites now m 0) p := by
  obtain ⟨only, core⟩ := s.onCore_frame p fun c => c.takeWrites now m 0
  refine ⟨only, ?_, .inl ?_, ?_⟩
  · rw [core]
    rfl
  · rw [core]
    rfl
  · rw [core]
    intro y hy
    obtain rfl | old := List.mem_cons.1 hy
    · exact .inr rfl
    · exact .inl (List.mem_filter.1 old).1

end

theorem countAt_empty {beats : List (Nat × Nat)} (empty : ∀ y ∈ beats, y.2 = 0) (m : Nat) : countAt beats m = 0 := by
  unfold countAt
  refine List.sum_eq_zero fun n hn => ?_
  obtain ⟨y, hy, rfl⟩ := List.mem_map.1 hn
  exact empty y (List.mem_filter.1 hy).1

/-! ## The streams in use -/

theorem State.mem_activeStreams (s : State) (p l : CoreNo) (d : DroverNo) (i : DStreamNo) :
    (p, l, d, i) ∈ s.activeStreams ↔ s.logicalOf p = some l ∧ (s.ds p d i).status ≠ .idle := by
  unfold State.activeStreams
  simp only [List.mem_flatMap, List.mem_finRange, true_and]
  constructor
  · rintro ⟨q, member⟩
    cases logical : s.logicalOf q with
    | none =>
      rw [logical] at member
      exact absurd member List.not_mem_nil
    | some k =>
      rw [logical] at member
      simp only [List.mem_flatMap, List.mem_finRange, true_and, List.mem_filterMap] at member
      obtain ⟨e, j, member⟩ := member
      split at member
      · cases member
      · next busy =>
        cases member
        exact ⟨logical, busy⟩
  · rintro ⟨logical, busy⟩
    refine ⟨p, ?_⟩
    rw [logical]
    simp only [List.mem_flatMap, List.mem_finRange, true_and, List.mem_filterMap]
    exact ⟨d, i, if_neg busy⟩

theorem onlyCore.activeStreams {s t : State} {p : CoreNo} (only : onlyCore s t p) (mode : t.cores[p].mode = s.cores[p].mode)
    (logical : t.cores[p].logical = s.cores[p].logical) (status : ∀ d i, (t.ds p d i).status = (s.ds p d i).status) :
    t.activeStreams = s.activeStreams := by
  have places : ∀ q, t.logicalOf q = s.logicalOf q := fun q => by
    by_cases here : q = p
    · subst here
      unfold State.logicalOf
      rw [mode, logical]
    · exact State.logicalOf_congr (only.1 q here)
  have statuses : ∀ q d i, (t.ds q d i).status = (s.ds q d i).status := fun q d i => by
    by_cases here : q = p
    · exact here ▸ status d i
    · unfold State.ds
      rw [only.1 q here]
  unfold State.activeStreams
  simp only [places, statuses]

/-! ## A core with one waiting beat -/

/-- A core of which one stream is in use, and whose cycle has no other work than beats of that stream. -/
structure State.loneStream (s : State) (l p : CoreNo) (d : DroverNo) (i : DStreamNo) (x : DStream) : Prop where
  place : s.phys l = some p
  here : s.absent l = false
  active : s.activeStreams = [(p, l, d, i)]
  stream : s.ds p d i = x
  walks : s.cores[p].walks = []
  writes : ∀ y ∈ s.cores[p].writeBeats, y.2 = 0
  gather : s.cores[p].gather = []
  gathers : s.hall.gathers = []
  arrived : s.cores[p].portBeats = []
  ports : ∀ q : StreamPort, s.st[q].cfg = none

/-- Bytes that the pasture of a core gives as they are. -/
structure State.readable (s : State) (f : FoldNo) (l p : CoreNo) (off len : Nat) : Prop where
  place : s.phys l = some p
  here : s.absent l = false
  some_ : off ≠ noOff
  inside : s.inRegions f l off len = true
  stocked : s.cores[p].underrun off = false
  sound : s.cores[p].fault = none
  flips : s.cores[p].pasture.flips = []
  broken : s.cores[p].pasture.broken = []

section
variable {s t : State} {l p : CoreNo} {d : DroverNo} {i : DStreamNo} {x : DStream} {u : UnitFl} {b : BeatFl} {f : FoldNo} {off len : Nat}

theorem State.spent.phys (k : s.spent t p) (l : CoreNo) : t.phys l = s.phys l :=
  k.only.phys (k.field Core.mode) (k.field Core.logical) l

theorem State.spent.absent (k : s.spent t p) (hp : s.phys l = some p) : t.absent l = s.absent l := by
  unfold State.absent
  rw [k.phys, hp]
  exact k.field (fun c : Core => c.absent || c.isolated)

theorem State.loneStream.spent (h : s.loneStream l p d i x) (k : s.spent t p) : t.loneStream l p d i x where
  place := (k.phys l).trans h.place
  here := (k.absent h.place).trans h.here
  active := (k.only.activeStreams (k.field Core.mode) (k.field Core.logical) fun d i =>
    k.field (fun c : Core => (c.ds d i).status)).trans h.active
  stream := (k.field (fun c : Core => c.ds d i)).trans h.stream
  walks := (k.field Core.walks).trans h.walks
  writes y hy := (k.empty y hy).elim (h.writes y) id
  gather := (k.field Core.gather).trans h.gather
  gathers := by rw [k.only.2]; exact h.gathers
  arrived := (k.field Core.portBeats).trans h.arrived
  ports := by rw [k.only.2]; exact h.ports

theorem State.readable.spent (h : s.readable f l p off len) (k : s.spent t p) : t.readable f l p off len where
  place := (k.phys l).trans h.place
  here := (k.absent h.place).trans h.here
  some_ := h.some_
  inside := (State.inRegions_congr (by rw [k.only.2]) l off len).trans h.inside
  stocked := (k.field (fun c : Core => c.underrun off)).trans h.stocked
  sound := (k.field Core.fault).trans h.sound
  flips := (k.field (fun c : Core => c.pasture.flips)).trans h.flips
  broken := (k.field (fun c : Core => c.pasture.broken)).trans h.broken

/-! ## What the cycle does before the beat -/

theorem State.loneStream.portBeat (h : s.loneStream l p d i x) (q : StreamPort) : s.portBeat p l q = (s, 0) := by
  unfold State.portBeat
  rw [h.arrived, h.ports q]
  rfl

theorem State.loneStream.portBeats (h : s.loneStream l p d i x) (free : Nat) : s.spent (s.portBeats p l free).1 p := by
  unfold State.portBeats
  refine foldl_keep (fun a : State × Nat => s.spent a.1 p) _ (fun a q kept => ?_) _ _ (State.spent.refl s p)
  dsimp only
  split
  · exact kept
  · rw [(h.spent kept).portBeat q]
    exact kept.trans ((State.spent_takeNone ..).trans (State.spent_events ..))

theorem State.loneStream.grantWrites (h : s.loneStream l p d i x) (units : x.units = [u]) (elems : u.elems = none) :
    s.spent (s.grantWrites l p) p := by
  have kept := h.portBeats (8 - s.cores[p].writesAt s.now)
  unfold State.grantWrites
  generalize s.portBeats p l (8 - s.cores[p].writesAt s.now) = a at kept
  have later := h.spent kept
  simp only [later.active, List.flatMap_cons, List.flatMap_nil, later.stream, DStream.waiting, units, List.zipIdx_cons, List.zipIdx_nil,
    elems, Option.isSome_none, Bool.false_and, Bool.false_eq_true, ↓reduceIte, List.take_nil, List.append_nil]
  exact kept

theorem State.loneStream.mailService (h : s.loneStream l p d i x) (free : Nat) :
    s.spent (s.mailService l p free).1 p ∧ (s.mailService l p free).2 ≤ 1 := by
  unfold State.mailService
  rw [h.gathers]
  simp only [List.filter_nil, List.drop_nil, List.take_nil, List.foldl_nil]
  split
  · exact ⟨State.spent_events .., le_refl _⟩
  · exact ⟨State.spent.refl s p, Nat.zero_le _⟩

/-- A stream whose chain has ended and whose descriptors are all over fetches nothing. -/
theorem State.fetchBeats_none {free : Nat} (want : (s.ds p d i).want = false) (ended : (s.ds p d i).ended = true)
    (descs : (s.ds p d i).descs = []) : s.fetchBeats p l d i free = (s, free) := by
  have wants : s.cores[p].wantsDesc d i = false := by
    unfold Core.wantsDesc
    dsimp only
    rw [show (s.cores[p].ds d i).ended = true from ended]
    rfl
  have fetched : s.fetchDescs p l d i free = (s, free) := by
    unfold State.fetchDescs
    rw [wants, Bool.and_false]
    refine List.foldl_fixed' (fun _ => if_neg ?_) _
    rw [show ((if false = true then _ else s : State).ds p d i).want = false from want]
    exact Bool.false_ne_true
  have seated : ∀ free, (s.ds p d i).seated free = none := fun free => by
    unfold DStream.seated
    rw [descs]
    rfl
  unfold State.fetchBeats
  rw [fetched]
  unfold State.fetchIndex
  dsimp only
  rw [seated]

theorem State.loneStream.fetchAll (h : s.loneStream l p d i x) (want : x.want = false) (ended : x.ended = true) (descs : x.descs = [])
    (free : Nat) : s.fetchAll p l free = (s, free) := by
  have logical := ((s.mem_activeStreams p l d i).1 (h.active ▸ List.mem_singleton_self _)).1
  unfold State.fetchAll
  refine foldl_keep (fun a => a = (s, free)) _ (fun a e same => ?_) _ _ rfl
  subst same
  refine foldl_keep (fun a => a = (s, free)) _ (fun a j same => ?_) _ _ rfl
  subst same
  by_cases idle : (s.ds p e j).status = .idle
  · exact if_pos idle
  · have member := (s.mem_activeStreams p l e j).2 ⟨logical, idle⟩
    rw [h.active] at member
    obtain ⟨rfl, rfl⟩ : e = d ∧ j = i := by simpa using member
    refine (if_neg idle).trans (State.fetchBeats_none ?_ ?_ ?_)
    · rw [h.stream, want]
    · rw [h.stream, ended]
    · rw [h.stream, descs]

theorem State.loneStream.none_served (h : s.loneStream l p d i x) (descs : x.descs = []) : s.activeStreams.filter (s.servedBy l) = [] := by
  have none : s.servedBy l (p, l, d, i) = false := by
    unfold State.servedBy
    dsimp only
    rw [h.stream, descs]
    rfl
  rw [h.active, List.filter_cons_of_neg (by rw [none]; exact Bool.false_ne_true), List.filter_nil]

/-! ## The beat read -/

theorem Pasture.readWord_whole {m : Pasture} (flips : m.flips = []) (broken : m.broken = []) (now w : Nat) :
    (m.readWord now w).events = [] := by
  have whole : cellGet 0 w m.flips = 0 := by
    rw [flips]
    rfl
  have none : flipCount 0 = 0 := by decide
  unfold Pasture.readWord
  rw [whole, broken]
  dsimp only
  split
  · rfl
  · unfold eccRead
    simp [none]

theorem State.readBeat_whole (h : s.readable f l p off len) : onlyCore s (s.readBeat f l off len).1 p ∧
    (s.readBeat f l off len).1.cores[p].quiet = s.cores[p].quiet ∧
    (s.readBeat f l off len).2 = (s.cores[p].pasture.read s.now off len).bytes := by
  have lost : s.cores[p].pasture.lostIn s.now off len = [] := by
    unfold Pasture.lostIn
    refine List.filter_eq_nil_iff.2 fun w _ => ?_
    rw [Pasture.readWord_whole h.flips h.broken]
    exact Bool.false_ne_true
  unfold State.readBeat
  rw [h.place]
  simp only [h.here, h.some_, h.inside, h.stocked, h.sound, lost, decide_false, Bool.or_self, Bool.false_eq_true, ↓reduceIte,
    Bool.not_true, Option.isSome_none, List.filter_nil, List.foldl_nil]
  obtain ⟨only, quiet⟩ := s.onCore_events_frame p (fun c => { c with pasture := c.pasture.find [] })
    (s.cores[p].pasture.read s.now off len).events (some f)
  exact ⟨only, quiet, trivial⟩

/-! ## The beat granted -/

/-- A unit with one waiting beat, which moves the pasture of its own core. -/
structure UnitFl.readsOwn (u : UnitFl) (b : BeatFl) (l : CoreNo) : Prop where
  beats : u.beats = [b]
  waits : b.land = none
  elems : u.elems = none
  from_ : u.from_ = none
  to_ : u.to_ = none
  used : u.idle = false
  here : u.gone = false
  src : u.src = l
  dst : u.dst = l
  reads : dSrcClass u.desc = 1
  stores : dDstClass u.desc = 1

/-- The unit once its one beat has been granted. -/
def UnitFl.sent (u : UnitFl) (b : BeatFl) (now : Nat) (data : List MByte) : UnitFl :=
  { u with granted := true, beats := [{ b with land := some (now + 10), data := data }] }

/-- The one beat of a stream that waits. -/
def DStream.cand (x : DStream) (p l : CoreNo) (d : DroverNo) (i : DStreamNo) (u : UnitFl) : Cand :=
  { need := u.need, drover := d, stream := i, slot := x.slotOf u.at_, unit := 0, beat := 0, run := u.run, num := u.unit, core := p,
    lcore := l }

theorem UnitFl.readsOwn.virtual (own : u.readsOwn b l) : u.virtual = false := by
  unfold UnitFl.virtual
  rw [own.reads]
  simp

theorem DStream.waiting_alone (units : x.units = [u]) (own : u.readsOwn b l) {serves : UnitFl → Bool} (served : serves u = true) :
    x.waiting p l d i serves = [x.cand p l d i u] := by
  unfold DStream.waiting
  rw [units]
  simp [served, own.beats, own.waits, DStream.cand]

theorem State.server_own (own : u.readsOwn b l) : s.server l u = l := by
  unfold State.server
  rw [own.src]
  exact ite_self l

/-- A unit put into its stream with its granted beat, which takes a write beat of the core that it goes to. -/
def State.beatGoes (s : State) (p : CoreNo) (d : DroverNo) (i : DStreamNo) (f : FoldNo) (u : UnitFl) : State :=
  let s := s.setUnit p d i 0 u
  let s := match s.phys u.dst with
    | some q => s.onCore q fun c => c.takeWrites s.now (s.now + 10) 1
    | none => s
  let s := s.events p [(0x06, b2n (!u.virtual)), (0x07, 0), (0x08, 0), (0x39, 0)] f
  s.events p [(0x2D, b2n (!u.idle && u.to_.isNone && (u.gone || s.absent u.dst)))] f

theorem State.grantRead_own (h : s.loneStream l p d i x) (units : x.units = [u]) (own : u.readsOwn b l) {v : State} {bs : List MByte}
    (read : s.readBeat x.fold l b.off b.len = (v, bs)) {free : Nat} (some_ : 0 < free) :
    (s.grantRead l p free (x.cand p l d i u)).1 = v.beatGoes p d i x.fold (u.sent b v.now bs) := by
  have stores : toPasture u.desc = true := by
    unfold toPasture
    rw [own.stores]
    rfl
  have room : s.cores[p].writesAt (s.now + 10) = 0 := by
    unfold Core.writesAt Core.walkBeats
    rw [h.walks, countAt_empty h.writes]
    rfl
  have capture : s.captureUnit p x.fold u = (s, u) := by
    unfold State.captureUnit
    rw [own.virtual]
    rfl
  have pasture : decide (dDstClass u.desc ≠ 7) = true := by
    rw [own.stores]
    rfl
  have full : ¬(free = 0 ∨ decide (8 ≤ 0) = true) := by simpa using some_.ne'
  have same : v.cores.set p v.cores[p] = v.cores := Vector.set_getElem_self _
  unfold State.grantRead State.beatGoes UnitFl.sent
  simp only [DStream.cand, h.stream, units, List.getElem?_cons_zero, own.beats, own.dst, own.to_, own.here, pasture, own.used, stores, room,
    own.virtual, own.src, capture, full, read, same, Option.isNone_none, Bool.not_false, Bool.and_true, Bool.true_and, decide_true, ↓reduceIte,
    Bool.false_eq_true, Option.getD_some, Bool.true_or, List.set_cons_zero]
  rfl

/-- A unit changed within its stream, and write beats of its core, but nothing else. -/
structure State.granted (s t : State) (p : CoreNo) (d : DroverNo) (i : DStreamNo) (x : DStream) : Prop where
  only : onlyCore s t p
  quiet : t.cores[p].quiet = { s.cores[p].quiet.setDs d i x with writeBeats := t.cores[p].writeBeats }

theorem State.granted.events {g : Option FoldNo} (h : s.granted t p d i x) (es : List (Nat × Nat)) :
    s.granted (t.events p es g) p d i x := by
  obtain ⟨only, quiet⟩ := t.events_frame p es g
  have beats : (t.events p es g).cores[p].writeBeats = t.cores[p].writeBeats := (congrArg Core.writeBeats quiet :)
  refine ⟨onlyCore_trans h.only only, ?_⟩
  rw [quiet, beats]
  exact h.quiet

theorem State.granted.takeWrites (h : s.granted t p d i x) (now m n : Nat) :
    s.granted (t.onCore p fun c => c.takeWrites now m n) p d i x := by
  obtain ⟨only, core⟩ := t.onCore_frame p fun c => c.takeWrites now m n
  refine ⟨onlyCore_trans h.only only, ?_⟩
  have took : ∀ c : Core, (c.takeWrites now m n).quiet = { c.quiet with writeBeats := countPut c.writeBeats now m n } := fun _ => rfl
  have quiet := h.quiet
  rw [core, took]
  generalize s.cores[p].quiet.setDs d i x = e at quiet ⊢
  rw [quiet]
  rfl

theorem State.granted.phys (h : s.granted t p d i x) (l : CoreNo) : t.phys l = s.phys l :=
  h.only.phys (congrArg Core.mode h.quiet :) (congrArg Core.logical h.quiet :) l

theorem State.granted.ds (h : s.granted t p d i x) : t.ds p d i = x := by
  have quiet := h.quiet
  have same := s.cores[p].quiet.setDs_ds_same d i x
  generalize s.cores[p].quiet.setDs d i x = e at quiet same
  refine Eq.trans ?_ same
  have drovers : t.cores[p].drovers = e.drovers := (congrArg Core.drovers quiet :)
  unfold State.ds Core.ds
  rw [drovers]

theorem State.beatGoes_granted {y : DStream} (hp : s.phys l = some p) (stream : s.ds p d i = x) (units : x.units = [u]) {v : UnitFl}
    (dst : v.dst = l) (put : { x with units := [v] } = y) : s.granted (s.beatGoes p d i f v) p d i y := by
  subst put
  have set : s.setUnit p d i 0 v = s.setDs p d i { x with units := [v] } := by
    unfold State.setUnit
    rw [stream]
    dsimp only
    rw [units]
    rfl
  obtain ⟨changed, core⟩ := s.setDs_frame p d i { x with units := [v] }
  have first : s.granted (s.setDs p d i { x with units := [v] }) p d i { x with units := [v] } := ⟨changed, by rw [core]; rfl⟩
  unfold State.beatGoes
  rw [set]
  generalize s.setDs p d i { x with units := [v] } = w at first
  dsimp only
  rw [dst, first.phys, hp]
  exact ((first.takeWrites _ _ _).events _).events _

/-- The waiting beat of a core's own unit is granted. -/
theorem State.grantRead_granted (h : s.loneStream l p d i x) (units : x.units = [u]) (own : u.readsOwn b l)
    (r : s.readable x.fold l p b.off b.len) {free : Nat} (some_ : 0 < free) : s.granted (s.grantRead l p free (x.cand p l d i u)).1 p d i
      { x with units := [u.sent b s.now (s.cores[p].pasture.read s.now b.off b.len).bytes] } := by
  obtain ⟨only, quiet, data⟩ := State.readBeat_whole r
  rcases read : s.readBeat x.fold l b.off b.len with ⟨v, bs⟩
  rw [read] at only quiet data
  dsimp only at only quiet data
  subst data
  have now : v.now = s.now := by rw [only.2]
  have place : v.phys l = some p :=
    (only.phys (congrArg Core.mode quiet :) (congrArg Core.logical quiet :) l).trans h.place
  have stream : v.ds p d i = x := (congrFun (congrFun (Core.ds_congr quiet) d) i).trans h.stream
  rw [State.grantRead_own h units own read some_, now]
  have goes := State.beatGoes_granted (f := x.fold) place stream units
    (v := u.sent b s.now (s.cores[p].pasture.read s.now b.off b.len).bytes) own.dst rfl
  refine ⟨onlyCore_trans only goes.only, ?_⟩
  rw [← quiet]
  exact goes.quiet

theorem State.granted.activeStreams (h : s.granted t p d i x) (status : x.status = (s.ds p d i).status) :
    t.activeStreams = s.activeStreams := by
  refine h.only.activeStreams (congrArg Core.mode h.quiet :) (congrArg Core.logical h.quiet :) fun e j => ?_
  by_cases here : e = d ∧ j = i
  · obtain ⟨rfl, rfl⟩ := here
    rw [h.ds, status]
  · have quiet := h.quiet
    have same := s.cores[p].quiet.setDs_ds_other x here
    generalize s.cores[p].quiet.setDs d i x = c at quiet same
    have drovers : t.cores[p].drovers = c.drovers := (congrArg Core.drovers quiet :)
    have others : t.ds p e j = c.ds e j := by
      unfold State.ds Core.ds
      rw [drovers]
    exact congrArg DStream.status (others.trans same)

/-! ## The whole cycle -/

theorem State.grantReads_own (h : s.loneStream l p d i x) (units : x.units = [u]) (own : u.readsOwn b l) (free : Nat) :
    s.grantReads l p free = (s.grantRead l p free (x.cand p l d i u)).1 := by
  have waits := DStream.waiting_alone (p := p) (l := l) (d := d) (i := i) units own
    (serves := fun u => u.elems.isNone && u.from_.isNone && decide (s.server l u = l))
    (by rw [own.elems, own.from_, State.server_own own]; simp)
  unfold State.grantReads
  rw [h.gather, h.active]
  simp only [List.flatMap_cons, List.flatMap_nil, h.stream, waits, List.append_nil]
  rfl

/-- The streams of a core settle when its beats are granted. -/
def State.streamsSettled (s : State) : State := s.activeStreams.foldl (fun (s : State) x =>
  s.setDs x.1 x.2.2.1 x.2.2.2 ((s.ds x.1 x.2.2.1 x.2.2.2).settle s.tick.number.toNat)) s

/-- The grants of a cycle of a core, once it has none behind it. -/
def State.granting (s : State) (l p : CoreNo) (held : Nat) : State :=
  let s := s.grantWrites l p
  let m := s.mailService l p (16 - held)
  let f := m.1.fetchAll p l (16 - held - m.2)
  let s := (f.1.activeStreams.filter (f.1.servedBy l)).foldl (fun (s : State) x => s.startUnits x.1 x.2.1 x.2.2.1 x.2.2.2 16) f.1
  (s.grantReads l p f.2).streamsSettled

theorem State.onCore_self {g : Core → Core} (same : g s.cores[p] = s.cores[p]) : s.onCore p g = s := by
  unfold State.onCore vmod
  rw [same]
  exact congrArg (fun cores => { s with cores := cores }) (Vector.set_getElem_self _)

theorem State.grant_eq (hp : s.phys l = some p) (fresh : s.cores[p].lastGrant ≠ some s.now) (walks : s.cores[p].walks = []) :
    s.grant l [] = (s.onCore p fun c => { c with lastGrant := some s.now }).granting l p 0 := by
  have same : (s.onCore p fun c => { c with pasture := c.pasture.upset [] }) = s := State.onCore_self rfl
  have held : (s.onCore p fun c => { c with lastGrant := some s.now }).cores[p].walkBeats
      (s.onCore p fun c => { c with lastGrant := some s.now }).now = (0, 0) := by
    rw [(s.onCore_frame p _).2]
    unfold Core.walkBeats
    dsimp only
    rw [walks]
    rfl
  unfold State.grant
  rw [hp]
  dsimp only
  rw [same, if_neg fresh]
  generalize s.onCore p (fun c => { c with lastGrant := some s.now }) = v at held ⊢
  rw [held]
  rfl

/-- Once granted, the stream of a core settles as it is. -/
theorem State.granted.streamsSettled (h : s.granted t p d i x) (active : s.activeStreams = [(p, l, d, i)])
    (status : x.status = (s.ds p d i).status) (rearm : x.rearm = none) (some_ : x.units ≠ []) : t.streamsSettled = t.setDs p d i x := by
  unfold State.streamsSettled
  rw [h.activeStreams status, active]
  dsimp only [List.foldl_cons, List.foldl_nil]
  rw [h.ds, DStream.settle_goes rearm (.inr some_)]

/-- The waiting beat of a stream that has a core to itself is granted, in a core that is ready to read it. -/
theorem State.granting_own (h : s.loneStream l p d i x) (r : s.readable x.fold l p b.off b.len) (units : x.units = [u])
    (own : u.readsOwn b l) (want : x.want = false) (ended : x.ended = true) (descs : x.descs = []) (rearm : x.rearm = none) :
    ∃ (v : State) (y : DStream), s.spent v p ∧ y = { x with
        units := [u.sent b v.now (v.cores[p].pasture.read v.now b.off b.len).bytes] } ∧ ∃ t, v.granted t p d i y ∧
      s.granting l p 0 = t.setDs p d i y := by
  have writes := h.grantWrites units own.elems
  obtain ⟨mail, taken⟩ := (h.spent writes).mailService (16 - 0)
  unfold State.granting
  dsimp only
  generalize (s.grantWrites l p).mailService l p (16 - 0) = m at mail taken ⊢
  have before := writes.trans mail
  have later := h.spent before
  rw [later.fetchAll want ended descs]
  dsimp only
  rw [later.none_served descs, List.foldl_nil, State.grantReads_own later units own]
  have granted := State.grantRead_granted later units own (r.spent before) (free := 16 - 0 - m.2) (by omega)
  refine ⟨m.1, _, before, rfl, _, granted, granted.streamsSettled later.active ?_ rearm (List.cons_ne_nil _ _)⟩
  rw [later.stream]

theorem State.spent_grant (s : State) (p : CoreNo) : s.spent (s.onCore p fun c => { c with lastGrant := some s.now }) p := by
  obtain ⟨only, core⟩ := s.onCore_frame p fun c => { c with lastGrant := some s.now }
  refine ⟨only, ?_, .inr ?_, ?_⟩
  · rw [core]
    rfl
  · rw [core]
  · rw [core]
    exact fun y hy => .inl hy

/-- In a second grant of a cycle only bit errors come about. -/
theorem State.grant_again (hp : s.phys l = some p) (again : s.cores[p].lastGrant = some s.now) (ups : List (Nat × Nat)) :
    s.grant l ups = s.onCore p fun c => { c with pasture := c.pasture.upset ups } := by
  unfold State.grant
  rw [hp]
  refine if_pos ?_
  rw [(s.onCore_frame p _).2]
  exact again

/-- BEAT_GRANT of a core whose one waiting beat reads and writes its own pasture. -/
theorem State.grant_own (h : s.loneStream l p d i x) (r : s.readable x.fold l p b.off b.len) (units : x.units = [u])
    (own : u.readsOwn b l) (want : x.want = false) (ended : x.ended = true) (descs : x.descs = []) (rearm : x.rearm = none)
    (fresh : s.cores[p].lastGrant ≠ some s.now) : onlyCore s (s.grant l []) p ∧ (s.grant l []).ds p d i = { x with
        units := [u.sent b s.now (s.cores[p].pasture.read s.now b.off b.len).bytes] } ∧
      (s.grant l []).cores[p].lastGrant = some s.now ∧ (s.grant l []).cores[p].pasture = s.cores[p].pasture := by
  have first := s.spent_grant p
  have set : (s.onCore p fun c => { c with lastGrant := some s.now }).cores[p].lastGrant = some s.now := by
    rw [(s.onCore_frame p _).2]
  rw [State.grant_eq h.place fresh h.walks]
  generalize s.onCore p (fun c => { c with lastGrant := some s.now }) = w at first set
  have same : w.now = s.now := by rw [first.only.2]
  obtain ⟨v, y, kept, rfl, t, granted, run⟩ := State.granting_own (h.spent first) (r.spent first) units own want ended descs rearm
  have before := first.trans kept
  have now : v.now = s.now := by rw [before.only.2]
  have pasture : v.cores[p].pasture = s.cores[p].pasture := before.field Core.pasture
  have last : v.cores[p].lastGrant = some s.now := kept.last.elim (fun old => old.trans set) fun new => new.trans (congrArg some same)
  rw [now, pasture] at granted run
  rw [run]
  generalize ({ x with units := [u.sent b s.now (s.cores[p].pasture.read s.now b.off b.len).bytes] } : DStream) = y at granted
  obtain ⟨changed, core⟩ := t.setDs_frame p d i y
  refine ⟨onlyCore_trans before.only (onlyCore_trans granted.only changed), t.setDs_ds_same p d i y, ?_, ?_⟩
  · rw [core]
    exact (congrArg Core.lastGrant granted.quiet :).trans last
  · rw [core]
    exact (congrArg Core.pasture granted.quiet :).trans pasture

end

/-- Settles O27: a beat granted takes the bytes that pasture holds, a beat that lands stores its bytes, and a store changes nothing
beside them. -/
theorem beatsMoveTheirBytes : Obligations.BeatsMoveTheirBytes := by
  unfold Obligations.BeatsMoveTheirBytes
  refine ⟨fun s l p ups hp => ⟨fun again => ?_, ?_⟩, fun s l p hp => ⟨fun none => ?_, ?_⟩, fun m now off bs wf =>
    ⟨m.store_wf now off bs wf, m.store_run now off bs wf, m.store_bytes now off bs wf, fun a => m.store_other now off bs a wf⟩⟩
  · exact coreBecomes_onCore (State.grant_again hp again ups) rfl
  · intro d i u b x stream fresh quietly active here walks writes gather gathers arrived ports sound running want ended descs rearm units
      beats waits elems from_ to_ used going src dst reads stores some_ inside stocked flips broken
    subst quietly
    refine ⟨_, rfl, State.grant_own (u := u) ⟨hp, here, active, stream.symm, walks, ?_, gather, gathers, arrived, ports⟩
      ⟨hp, here, some_, inside, stocked, sound, flips, broken⟩ units
      ⟨beats, waits, elems, from_, to_, used, going, src, dst, reads, stores⟩ want ended descs rearm fresh⟩
    rw [writes]
    exact fun _ h => absurd h List.not_mem_nil
  · refine exec_next (t := s.landing l) ?_
    unfold State.landing
    rw [hp, none]
    rfl
  · intro d i u b x ctx g m n stream active running units has plain rearm goes beats land due need kept bytes length pos fits fresh unstored
      good inner elems from_ to_ used here src dst kind count run stores srcFmt dstFmt clean walks inside region dynamic
    have open_ : s.staticOf x.fold l u.place = false := by
      unfold State.staticOf
      rw [region]
      exact congrArg not dynamic
    obtain ⟨only, quiet⟩ := State.landing_stores hp walks active stream.symm units has plain rearm goes
      ⟨beats, kept, bytes, length, pos, fits, fresh, unstored, need, good, inner, elems, to_, dst, kind, run, stores, srcFmt, dstFmt, clean⟩
      land due src here inside open_
    have acc : (s.landing l).cores[p].acc = s.cores[p].acc := (congrArg Core.acc quiet :)
    have same := s.cores[p].quiet.setDs_ds_same d i { x with units := [] }
    generalize s.cores[p].quiet.setDs d i { x with units := [] } = c at quiet same
    have drovers : (s.landing l).cores[p].drovers = c.drovers := (congrArg Core.drovers quiet :)
    refine ⟨s.landing l, rfl, only, (congrArg Core.pasture quiet :), acc, Eq.trans ?_ same⟩
    unfold State.ds Core.ds
    rw [drovers]

end Sys2Proof.Machine
